-- ==== Sys2Proof/Word.lean ====
section
/-! DEFINITION. The words of the Dziyn D9: 64-bit uniform words, 32-bit lane words, bytes and lane masks (00 R5, 01 R10). -/

namespace Sys2Proof

/-- A uniform register, an address operand, a program counter: 64 bits (02 R24, 03 R49). -/
abbrev Word := BitVec 64

/-- One lane of a vector register, or one instruction word: 32 bits (02 R20, 07 R141). -/
abbrev W32 := BitVec 32

/-- One byte (00 R5). -/
abbrev Byte := BitVec 8

/-- A set of lanes of a group, bit `l` for lane `l` (00 R7). -/
abbrev LaneMask := BitVec 32

end Sys2Proof
end

