-- ==== Sys2Proof/Config.lean ====
section
/-! DEFINITION. What an implementation fixes and the manual does not (constants with a value are DESIGN CHOICEs of the log; opaque constants are the FREE VALUES: nothing in Lean can evaluate one). -/

namespace Sys2Proof.Config

/-- FREE VALUE (log 12): the bits FRSQ delivers where the manual states only an error bound (09 R189). -/
opaque freeFrsq : BitVec 32 → BitVec 32
/-- FREE VALUE (log 12): the bits FEXP2 delivers within its bound (09 R189). -/
opaque freeFexp2 : BitVec 32 → BitVec 32
/-- FREE VALUE (log 12): the bits FLOG2 delivers within its bound (09 R189). -/
opaque freeFlog2 : BitVec 32 → BitVec 32
/-- FREE VALUE (log 12): the bits FSIN delivers within its bound (09 R189). -/
opaque freeFsin : BitVec 32 → BitVec 32
/-- FREE VALUE (log 12): the bits FCOS delivers within its bound (09 R189). -/
opaque freeFcos : BitVec 32 → BitVec 32
/-- FREE VALUE (log 12): the bits FTANH delivers within its bound (09 R189). -/
opaque freeFtanh : BitVec 32 → BitVec 32

/-- FREE VALUE (log 11): whether Ezden maps the context with a tag into the shared domain (03 R49), for which no command has an argument. -/
opaque sharedDomain : Nat → Bool

/-- FREE VALUE (log 23): issue slots and tile operations the power cap withholds in an interval (01 R17); a counter of the state numbers
intervals. -/
opaque withheldSlots : Nat → BitVec 64

/-- FREE VALUE (log 13): byte `i` of the SHA-256 of the mask ROM (19 R353). -/
opaque romHash : Nat → BitVec 8
/-- FREE VALUE (log 13): byte `i` of the SHA-256 of the running patch (19 R353). -/
opaque patchHash : Nat → BitVec 8
/-- FREE VALUE (log 13): byte `i` of the device identity public key (19 R353). -/
opaque identityKey : Nat → BitVec 8
/-- FREE VALUE (log 13): byte `i` of the ECDSA signature over the report whose bytes are given (19 R353). -/
opaque signature : List (BitVec 8) → Nat → BitVec 8

/-- FREE VALUE (log 14): the `n`-th byte the manual leaves open, drawn in order by a counter of the state. -/
opaque freeByte : Nat → BitVec 8

/-- FREE VALUE (log 14): the check value of a half-line that is poisoned or lost, for which the manual says only that it does not match
(03 R62). -/
opaque badCheck : BitVec 32 → BitVec 32

/-- FREE VALUE (log 21): whether the gang's control block has recorded the `n`-th register asked about as a vat reference (15 R286); a counter
of the state numbers them. -/
opaque vatRecorded : Nat → Bool

end Sys2Proof.Config
end

