-- ==== Sys2Proof/Syntax.lean ====
section
/-! DEFINITION. The instructions of the Lamolo ISA and the events of the part, as data: one constructor of Instr per row of the opcode table, each over one record of operands (02 R20-R38). -/

namespace Sys2Proof

/-! ## Register names and small enumerations (02 R27, R30-R33) -/

/-- A uniform register s0-s383 (02 R27). -/
abbrev SReg := Fin 384
/-- A uniform predicate up0-up3. -/
abbrev UPReg := Fin 4
/-- A predicate p0-p7. -/
abbrev PReg := Fin 8
/-- A tile register t0-t15. -/
abbrev TReg := Fin 16
/-- An accumulator a0-a7. -/
abbrev AccReg := Fin 8
/-- A modulo register m0-m7. -/
abbrev MReg := Fin 8

/-- A V-class operand: v0-v255 (v248-v255 name q0-q7 while bound), or a carry queue k0-k7 (02 R27). -/
inductive VOp where
  | v (n : Fin 256)
  | k (n : Fin 8)
  deriving DecidableEq, Repr

/-- A uniform source operand B: a register, or a literal in LEN 0b01 (`short`) or 0b11 (`long`) (02 R24). -/
inductive USrc where
  | reg (r : SReg)
  | short (v : Word)
  | long (v : Word)
  deriving DecidableEq, Repr

/-- A per-lane source operand B: a V-class operand, or a literal equal in every lane (02 R24). -/
inductive VSrc where
  | reg (r : VOp)
  | short (v : Word)
  | long (v : Word)
  deriving DecidableEq, Repr

/-- Operand types (02 R30); TY 0 is read as the opcode's default type. -/
inductive Ty where
  | i8 | i16 | i32 | i64 | n8 | n16 | n32 | n64 | f16 | bf16 | f32 | f64 | bfp
  deriving DecidableEq, Repr

/-- A guard (02 R33); `pos i` and `neg i` name p(i+1). -/
inductive Guard where
  | none
  | pos (p : Fin 7)
  | neg (p : Fin 7)
  deriving DecidableEq, Repr

/-- The rounding field (02 R31): per FMT, or a mode of its own. -/
inductive Rm where
  | fmt | rne | rtz | rup | rdn
  deriving DecidableEq, Repr

/-- Memory ordering of FN.VAR (02 R32). -/
inductive MemOrder where
  | plain | acq | rel | ar
  deriving DecidableEq, Repr

/-- Scopes of MOD (02 R31); `dflt` is MOD 0, the member's default. -/
inductive Scope where
  | dflt | grp | gang | core | die | dev | sys | recov
  deriving DecidableEq, Repr

/-- Comparison conditions CC 0-7, and the codes 8-15 that compare nothing (09 R180). -/
inductive Cond where
  | eq | ne | lt | le | gt | ge | num | nan
  | bad (n : Fin 8)
  deriving DecidableEq, Repr

/-- Atomic operations AOP 0-9 (04 R80). -/
inductive AtomOp where
  | add | min | max | and | or | xor | exch | cas | inc | dec
  deriving DecidableEq, Repr

/-- Reduction operations ROP 0-5 (10 R196). -/
inductive RedOp where
  | add | min | max | and | or | xor
  deriving DecidableEq, Repr

/-- The membership mask operand: `all` (MALL = 1) or bits 31:0 of a uniform register (10 R196). -/
inductive MaskSrc where
  | all
  | reg (r : SReg)
  deriving DecidableEq, Repr

/-- An address expression, AM 0-4, with its signed byte offset OFS, its scaled offset B and, for AM 2 and 3,
the increment in OFS (04 R64-R67). -/
inductive AddrExp where
  | base (a : SReg) (ofs : BitVec 20) (scaled : Fin 256)
  | indexed (a : SReg) (c : VOp) (ofs : BitVec 20) (scaled : Fin 256)
  | postinc (a : SReg) (inc : BitVec 20)
  | modulo (m : MReg) (inc : BitVec 20)
  | lane (a : VOp) (ofs : BitVec 20) (scaled : Fin 256)
  deriving DecidableEq, Repr

/-- The target operand of JMP and CALL (13 R246). -/
inductive Target where
  | pair (v : VOp)
  | sreg (s : SReg)
  | lit (w : Word)
  deriving DecidableEq, Repr

/-- The block width operand: from FMT (TY 0), or w = k + 2 by TY 13 and MOD k + 1 (02 R31). -/
inductive Width where
  | fmt
  | bfp (k : Fin 7)
  deriving DecidableEq, Repr

/-- Special registers of GETSR, SEL 0-14 (13 R260). -/
inductive SpecReg where
  | laneid | ordinal | rank | groupid | gangid | coreid | dieid | clock | exec | dead | splitcnt | ucflag
  | budget | live | pending
  deriving DecidableEq, Repr

/-! ## Operand records: uniform and vector arithmetic (09) -/

/-- The three 8-bit operand fields of a base word with all three used. -/
structure Base3 where
  d : Fin 256
  a : Fin 256
  b : Fin 256
  deriving DecidableEq, Repr
/-- The D and B fields of a base word (A unused). -/
structure BaseDB where
  d : Fin 256
  b : Fin 256
  deriving DecidableEq, Repr
/-- The D and A fields of a base word (B unused). -/
structure BaseDA where
  d : Fin 256
  a : Fin 256
  deriving DecidableEq, Repr
/-- The B field of a base word (D and A unused). -/
structure BaseB where
  b : Fin 256
  deriving DecidableEq, Repr

structure UBin where
  ty : Ty
  sat : Bool
  d : SReg
  a : SReg
  b : USrc
  deriving DecidableEq, Repr
structure USet where
  cc : Cond
  ty : Ty
  d : UPReg
  a : SReg
  b : USrc
  deriving DecidableEq, Repr
structure USel where
  d : SReg
  a : SReg
  b : USrc
  c : UPReg
  deriving DecidableEq, Repr
structure UUn where
  ty : Ty
  d : SReg
  a : SReg
  deriving DecidableEq, Repr
structure UBfx where
  ty : Ty
  d : SReg
  a : SReg
  pos : Fin 128
  len : Fin 128
  deriving DecidableEq, Repr
structure UBfi where
  ty : Ty
  d : SReg
  a : SReg
  b : USrc
  pos : Fin 128
  len : Fin 128
  deriving DecidableEq, Repr
structure UMov where
  d : SReg
  b : SReg
  deriving DecidableEq, Repr
/-- ULI: the literal in LEN 0b11 when `long`, else in LEN 0b01 (09 R178). -/
structure ULit where
  d : SReg
  lit : Word
  long : Bool
  deriving DecidableEq, Repr

structure VBin where
  g : Guard
  ty : Ty
  sat : Bool
  d : VOp
  a : VOp
  b : VSrc
  deriving DecidableEq, Repr
structure VUn where
  g : Guard
  ty : Ty
  sat : Bool
  d : VOp
  a : VOp
  deriving DecidableEq, Repr
structure VSetI where
  g : Guard
  cc : Cond
  ty : Ty
  d : PReg
  a : VOp
  b : VSrc
  deriving DecidableEq, Repr
/-- VSEL and VADDC: a predicate operand in C. -/
structure VPredI where
  g : Guard
  ty : Ty
  d : VOp
  a : VOp
  b : VSrc
  c : PReg
  deriving DecidableEq, Repr
structure VBfx where
  g : Guard
  ty : Ty
  d : VOp
  a : VOp
  pos : Fin 128
  len : Fin 128
  deriving DecidableEq, Repr
structure VBfi where
  g : Guard
  ty : Ty
  d : VOp
  a : VOp
  b : VSrc
  pos : Fin 128
  len : Fin 128
  deriving DecidableEq, Repr
structure VIdxI where
  g : Guard
  ty : Ty
  d : VOp
  a : SReg
  b : USrc
  deriving DecidableEq, Repr
structure VTri where
  g : Guard
  ty : Ty
  sat : Bool
  d : VOp
  a : VOp
  b : VSrc
  c : VOp
  deriving DecidableEq, Repr
structure VMovI where
  g : Guard
  ty : Ty
  d : VOp
  b : VSrc
  deriving DecidableEq, Repr

structure FBin where
  g : Guard
  ty : Ty
  rm : Rm
  d : VOp
  a : VOp
  b : VSrc
  deriving DecidableEq, Repr
structure FUn where
  g : Guard
  ty : Ty
  rm : Rm
  d : VOp
  a : VOp
  deriving DecidableEq, Repr
structure FTri where
  g : Guard
  ty : Ty
  rm : Rm
  d : VOp
  a : VOp
  b : VSrc
  c : VOp
  deriving DecidableEq, Repr
structure FCvtI where
  g : Guard
  dty : Ty
  sty : Fin 16
  rm : Rm
  d : VOp
  a : VOp
  deriving DecidableEq, Repr
/-- BCVT; w = w2 + 2 (09 R188). -/
structure BCvtI where
  w2 : Fin 7
  d : VOp
  a : VOp
  c : SReg
  deriving DecidableEq, Repr
structure VRngI where
  g : Guard
  d : VOp
  a : SReg
  b : VOp
  deriving DecidableEq, Repr

/-! ## Lane operations and control (10, 13) -/

inductive VoteDst where
  | any (p : PReg)
  | all (p : PReg)
  | bal (v : VOp)
  deriving DecidableEq, Repr
structure VoteI where
  d : VoteDst
  a : PReg
  mask : MaskSrc
  deriving DecidableEq, Repr
inductive ShflKind where
  | idx | up | down | xor
  deriving DecidableEq, Repr
structure ShflI where
  kind : ShflKind
  ty : Ty
  d : VOp
  a : VOp
  b : VSrc
  c : PReg
  mask : MaskSrc
  deriving DecidableEq, Repr
/-- MOD of REDUX and SCAN: nothing, saturation of an integer add, or the rounding of an f32 add (10 R196). -/
inductive RedMod where
  | zero
  | sat
  | rm (r : Rm)
  deriving DecidableEq, Repr
structure ReduxI where
  op : RedOp
  ty : Ty
  mod : RedMod
  d : VOp
  a : VOp
  mask : MaskSrc
  deriving DecidableEq, Repr
structure ScanI where
  op : RedOp
  excl : Bool
  ty : Ty
  mod : RedMod
  d : VOp
  a : VOp
  mask : MaskSrc
  deriving DecidableEq, Repr
structure FfsI where
  ty : Ty
  d : VOp
  a : VOp
  deriving DecidableEq, Repr
structure SetPartI where
  tlog : Fin 8
  deriving DecidableEq, Repr
inductive LMaskKind where
  | eq | lt | le | gt | ge | tile | live
  deriving DecidableEq, Repr
structure LMaskI where
  kind : LMaskKind
  d : VOp
  deriving DecidableEq, Repr

structure BraI where
  ofs : W32
  deriving DecidableEq, Repr
structure BrcI where
  neg : Bool
  p : PReg
  ofs : W32
  deriving DecidableEq, Repr
structure UBrcI where
  neg : Bool
  p : UPReg
  ofs : W32
  deriving DecidableEq, Repr
structure JmpI where
  target : Target
  deriving DecidableEq, Repr
structure CallI where
  link : VOp
  target : Target
  deriving DecidableEq, Repr
structure RetI where
  a : VOp
  deriving DecidableEq, Repr
/-- BECOME in an extended or literal form: the carry count and the multiplicity (13 R249). -/
structure BecomeI where
  carry : Fin 256
  b : VSrc
  deriving DecidableEq, Repr
structure SyncI where
  mask : MaskSrc
  deriving DecidableEq, Repr
structure SetFmtI where
  b : USrc
  deriving DecidableEq, Repr
structure DstS where
  d : SReg
  deriving DecidableEq, Repr
/-- The destination of GETSR: class V for laneid, ordinal and rank, class S for the others (13 R260). -/
inductive SrDst where
  | v (d : VOp)
  | s (d : SReg)
  deriving DecidableEq, Repr
structure GetSrI where
  sel : SpecReg
  clr : Bool
  d : SrDst
  deriving DecidableEq, Repr
structure SetPrioI where
  n : Fin 4
  deriving DecidableEq, Repr

/-! ## Memory (04) -/

structure LdI where
  g : Guard
  ty : Ty
  ord : MemOrder
  scope : Scope
  d : VOp
  addr : AddrExp
  sp : Bool
  nt : Bool
  deriving DecidableEq, Repr
structure LdUI where
  ty : Ty
  ord : MemOrder
  scope : Scope
  d : SReg
  addr : AddrExp
  sp : Bool
  nt : Bool
  deriving DecidableEq, Repr
structure AtomI where
  g : Guard
  op : AtomOp
  ty : Ty
  ord : MemOrder
  scope : Scope
  d : VOp
  addr : AddrExp
  sp : Bool
  b : VSrc
  nt : Bool
  deriving DecidableEq, Repr
structure AtomUI where
  op : AtomOp
  ty : Ty
  ord : MemOrder
  scope : Scope
  d : SReg
  addr : AddrExp
  sp : Bool
  b : USrc
  nt : Bool
  deriving DecidableEq, Repr
structure RedI where
  g : Guard
  op : AtomOp
  ty : Ty
  ord : MemOrder
  scope : Scope
  addr : AddrExp
  sp : Bool
  b : VSrc
  nt : Bool
  deriving DecidableEq, Repr
structure OAppI where
  ty : Ty
  ch : Fin 4
  d : VOp
  a : SReg
  ofs : BitVec 20
  nt : Bool
  deriving DecidableEq, Repr
/-- PREF and CFLUSH. -/
structure LineI where
  g : Guard
  scope : Scope
  addr : AddrExp
  nt : Bool
  deriving DecidableEq, Repr
structure FenceI where
  ord : MemOrder
  scope : Scope
  deriving DecidableEq, Repr
structure SetModI where
  d : MReg
  a : SReg
  b : USrc
  idx : W32
  deriving DecidableEq, Repr

/-! ## The vat, the engines, the press (05, 07, 11, 12) -/

structure StMapI where
  d : SReg
  a : SReg
  wr : Bool
  deriving DecidableEq, Repr
structure SwInitI where
  a : SReg
  b : USrc
  keep : Bool
  deriving DecidableEq, Repr
structure SwI where
  a : SReg
  b : USrc
  deriving DecidableEq, Repr
structure SwWaitI where
  d : UPReg
  a : SReg
  b : USrc
  try_ : Bool
  deriving DecidableEq, Repr
structure WaitI where
  ld : Fin 64
  st : Fin 64
  cp : Fin 64
  tl : Fin 64
  deriving DecidableEq, Repr
/-- LDT; n = n1 + 1 tile registers (07 R156). -/
structure LdtI where
  d : TReg
  a : SReg
  b : SReg
  sw : Option SReg
  n1 : Fin 16
  deriving DecidableEq, Repr
structure SttI where
  d : TReg
  a : SReg
  b : SReg
  n1 : Fin 16
  deriving DecidableEq, Repr
structure CqCfgI where
  k : Fin 8
  a : Fin 256
  depth : Fin 16
  deriving DecidableEq, Repr
structure CopyI where
  dv : Bool
  av : Bool
  d : SReg
  a : SReg
  b : SReg
  sw : Option SReg
  nt : Bool
  deriving DecidableEq, Repr
structure GatherI where
  ty : Ty
  d : SReg
  a : SReg
  b : SReg
  sw : Option SReg
  nt : Bool
  deriving DecidableEq, Repr
structure ScatterI where
  ty : Ty
  d : SReg
  a : SReg
  b : SReg
  nt : Bool
  deriving DecidableEq, Repr
structure ScatAddI where
  op : RedOp
  ty : Ty
  d : SReg
  a : SReg
  b : SReg
  nt : Bool
  deriving DecidableEq, Repr
structure StrCfgI where
  d : UPReg
  a : SReg
  e : Fin 4
  nt : Bool
  deriving DecidableEq, Repr
structure StrGoI where
  e : Fin 4
  nt : Bool
  deriving DecidableEq, Repr
structure StrHaltI where
  e : Fin 4
  rel : Bool
  nt : Bool
  deriving DecidableEq, Repr
/-- SPBIND: bind port q to engine e, or unbind it (05 R119). -/
structure SpBindI where
  q : Fin 8
  e : Option (Fin 4)
  nt : Bool
  deriving DecidableEq, Repr
structure SlotSigI where
  e : Fin 4
  n : Fin 128
  nt : Bool
  deriving DecidableEq, Repr
inductive CollKind where
  | allreduce | redscat | allgather | bcast
  deriving DecidableEq, Repr
structure CollI where
  kind : CollKind
  op : RedOp
  ty : Ty
  d : SReg
  a : SReg
  b : SReg
  c : SReg
  nt : Bool
  deriving DecidableEq, Repr
structure MResI where
  d : UPReg
  nm : Fin 64
  nk : Fin 16
  deriving DecidableEq, Repr
structure MldbI where
  w : Width
  mould : Fin 32
  a : SReg
  b : SReg
  deriving DecidableEq, Repr
/-- MMUL; nm = nm1 + 1 moulds, nr = nr1 + 1 rows (11 R217). -/
structure MMulI where
  w : Width
  d : AccReg
  a : SReg
  first : Fin 32
  nm1 : Fin 32
  nr1 : Fin 32
  deriving DecidableEq, Repr
structure MaMovI where
  inward : Bool
  d : AccReg
  a : SReg
  nr1 : Fin 32
  deriving DecidableEq, Repr
structure MZeroI where
  d : AccReg
  deriving DecidableEq, Repr
structure MWaitI where
  n : Fin 16
  deriving DecidableEq, Repr
/-- PRUNE; N = nm1 + 1, M = 4 · 2^mc, C = cm1 + 1, K = 32 · (km + 1) (12 R228). -/
structure PruneI where
  w : Width
  d : UPReg
  a : SReg
  b : SReg
  c : SReg
  nm1 : Fin 16
  mc : Fin 4
  tp : Bool
  idx4 : Bool
  cm1 : Fin 256
  km : Fin 1024
  deriving DecidableEq, Repr
structure MldbsI where
  w : Width
  first : Fin 32
  a : SReg
  b : SReg
  c : SReg
  deriving DecidableEq, Repr
structure MmulsI where
  w : Width
  d : AccReg
  a : SReg
  first : Fin 32
  c : SReg
  nr1 : Fin 32
  deriving DecidableEq, Repr
structure MHdrI where
  d : SReg
  a : SReg
  try_ : Bool
  deriving DecidableEq, Repr

/-! ## Queues, traps, recovery (14, 16, 17, 18) -/

/-- QPUSH, WLPUSH, WLINS. -/
structure PushI where
  a : SReg
  b : VOp
  deriving DecidableEq, Repr
/-- QPOP, QTRY, WLPOP. -/
structure PopI where
  d : VOp
  c : PReg
  a : SReg
  deriving DecidableEq, Repr
structure DaI where
  d : SReg
  a : SReg
  deriving DecidableEq, Repr
/-- QSTAT: sel 0 of the header at s[A], or sel 1 (A must be 0) (14 R270). -/
structure QStatI where
  d : SReg
  a : Option SReg
  deriving DecidableEq, Repr
structure AbI where
  a : SReg
  b : SReg
  deriving DecidableEq, Repr
structure SrcA where
  a : SReg
  deriving DecidableEq, Repr
/-- FUTSET: a value register, or CLR (14 R275). -/
structure FutSetI where
  a : SReg
  b : Option SReg
  deriving DecidableEq, Repr
structure CodeI where
  n : BitVec 16
  deriving DecidableEq, Repr
structure SyscallI where
  n : Byte
  deriving DecidableEq, Repr
structure CsrRI where
  d : SReg
  csr : BitVec 12
  deriving DecidableEq, Repr
structure CsrWI where
  csr : BitVec 12
  b : SReg
  deriving DecidableEq, Repr
structure ChkModeI where
  mode : Fin 4
  deriving DecidableEq, Repr
structure RpGetI where
  d : SReg
  sel : Fin 8
  deriving DecidableEq, Repr
structure CkSealI where
  d : UPReg
  a : SReg
  deriving DecidableEq, Repr
structure FinjI where
  a : SReg
  b : SReg
  c : SReg
  deriving DecidableEq, Repr

/-! ## Operands of the event rows (95): which unit the event happens in, and the data that comes from outside -/

structure EvDie where
  die : Fin 4
  deriving DecidableEq, Repr
/-- The `idx`-th element of a list the die, core or part holds. -/
structure EvDieIdx where
  die : Fin 4
  idx : Nat
  deriving DecidableEq, Repr
structure EvIdx where
  idx : Nat
  deriving DecidableEq, Repr
structure EvGang where
  gang : Nat
  deriving DecidableEq, Repr
structure EvGroup where
  gang : Nat
  group : Nat
  deriving DecidableEq, Repr
structure EvGroupIdx where
  gang : Nat
  group : Nat
  idx : Nat
  deriving DecidableEq, Repr
structure EvGangIdx where
  gang : Nat
  idx : Nat
  deriving DecidableEq, Repr
structure EvCmdLine where
  cmd : Nat
  line : Nat
  deriving DecidableEq, Repr
structure EvCmd where
  cmd : Nat
  deriving DecidableEq, Repr
structure EvCore where
  core : Nat
  deriving DecidableEq, Repr
structure EvCoreIdx where
  core : Nat
  idx : Nat
  deriving DecidableEq, Repr
structure EvPress where
  press : Nat
  deriving DecidableEq, Repr
structure EvPressMode where
  press : Nat
  shared : Bool
  deriving DecidableEq, Repr
structure EvCtx where
  ctx : Nat
  deriving DecidableEq, Repr
structure EvLine where
  line : Nat
  deriving DecidableEq, Repr
structure EvFn where
  fn : Nat
  deriving DecidableEq, Repr
/-- A configure-parity-group of a function; `clash` when another member holds a different definition of the group (19 R354). -/
structure EvParity where
  fn : Nat
  clash : Bool
  deriving DecidableEq, Repr
/-- Ezden moves the page that holds `va` of context `ctx` to the frame at `frame` (03 R59). -/
structure EvMigratePage where
  ctx : Nat
  va : Nat
  frame : Nat
  deriving DecidableEq, Repr
/-- What one member of a collective group on another chip brings to a rendezvous (05 R122, R123): its command, its source's bytes, and which
of these come from a poisoned line (R102). -/
structure PeerCommand where
  coll : Bool
  kind : CollKind
  op : RedOp
  ty : Ty
  n : Nat
  root : Nat
  src : List Byte
  bad : List Nat
  deriving DecidableEq, Repr
/-- The rendezvous of collective group `group`; `peers` lists the other members in member order. -/
structure EvRendezvous where
  group : Nat
  peers : List PeerCommand
  deriving DecidableEq, Repr
/-- A 64-byte host write to push aperture `aperture` of function `fn`, or to CMDAP when `aperture` is none. -/
structure EvPush where
  fn : Nat
  aperture : Option Nat
  data : List Byte
  deriving DecidableEq, Repr
structure EvGangCore where
  gang : Nat
  core : Nat
  deriving DecidableEq, Repr
/-- What the outside gives Ezden for one lane's call: the result, and the bytes read (16 R302). -/
structure SysAnswer where
  result : Word
  data : List Byte
  deriving DecidableEq, Repr
structure EvSyscall where
  gang : Nat
  group : Nat
  answers : List SysAnswer
  deriving DecidableEq, Repr
/-- Where an error strikes (17 R312): the STRUCT code, the gang, group, core or die concerned, and the address or index. -/
structure EvError where
  struct : Fin 14
  gang : Nat
  group : Nat
  die : Fin 4
  core : Nat
  loc : Nat
  hard : Bool
  deriving DecidableEq, Repr
/-- The die of a reset: compute die `d`, the cache base die under stack `j`, or the I/O die (01 R9; 06 R136). -/
inductive ResetDie where
  | compute (d : Fin 4)
  | base (j : Fin 8)
  | io
  deriving DecidableEq, Repr
structure EvReset where
  die : ResetDie
  deriving DecidableEq, Repr
structure EvInject where
  gang : Nat
  idx : Nat
  deriving DecidableEq, Repr
structure EvPeerLoss where
  chip : Nat
  lost : List Nat
  deriving DecidableEq, Repr
/-- A packet on a link is sent again; `failed` when the eighth attempt failed, with the half-line it carried. -/
structure EvRetransmit where
  failed : Bool
  half : Nat
  deriving DecidableEq, Repr
structure EvHalf where
  half : Nat
  deriving DecidableEq, Repr
/-- What one other member brings to a seal (18 R336, R337): its `ok`, its quota, its image, and the half-lines of it whose check values do not
match. -/
structure PeerSeal where
  ok : Bool
  quota : Nat
  image : List Byte
  marks : List Nat
  deriving DecidableEq, Repr
structure EvSeal where
  group : Nat
  peers : List PeerSeal
  deriving DecidableEq, Repr
structure EvSealCommit where
  group : Nat
  deriving DecidableEq, Repr
structure EvPerst where
  chipid : Fin 512
  patched : Bool
  deriving DecidableEq, Repr
structure EvBoot where
  code : Byte
  deriving DecidableEq, Repr
structure EvRead where
  fn : Nat
  offset : Nat
  length : Nat
  deriving DecidableEq, Repr
structure EvWrite where
  fn : Nat
  offset : Nat
  data : List Byte
  deriving DecidableEq, Repr
/-- A generation that is intact on another member (18 R340): LP, its padded image, its parity slot, the ICRCs and counts its record
holds. -/
structure PeerGen where
  gen : Nat
  lp : Nat
  image : List Byte
  parity : List Byte
  icrcAll : List Nat
  deriving DecidableEq, Repr
/-- What a surviving member reports to a restore. -/
structure PeerRestore where
  member : Nat
  gens : List PeerGen
  deriving DecidableEq, Repr
/-- `tables` gives the lost member's entries in the RP table and the page list, by generation. -/
structure EvRestore where
  fn : Nat
  peers : List PeerRestore
  tables : List (Nat × Nat × Nat)
  deriving DecidableEq, Repr

/-! ## The instructions (02 R34-R38) and the events (95) -/

/-- One constructor per row of the opcode table: the Lamolo instructions first, then the events. -/
inductive Instr where
  /-- UADD_BASE: Base form of UADD: adds two uniform registers, wrapping or saturating (R178) -/
  | uaddBase (x : Base3)
  /-- UADD_EXT: Literal and extended forms of UADD (R178) -/
  | uaddExt (x : UBin)
  /-- USUB: Subtracts two uniform values (R178) -/
  | usub (x : UBin)
  /-- UMUL: Multiplies two uniform values (R178) -/
  | umul (x : UBin)
  /-- UMULH: Writes the high half of a uniform product (R178) -/
  | umulh (x : UBin)
  /-- UMIN: Writes the smaller of two uniform values (R178) -/
  | umin (x : UBin)
  /-- UMAX: Writes the larger of two uniform values (R178) -/
  | umax (x : UBin)
  /-- USET: Compares two uniform values and sets a uniform predicate (R180) -/
  | uset (x : USet)
  /-- USEL: Selects between two uniform values by a uniform predicate (R178) -/
  | usel (x : USel)
  /-- UPOPC: Counts the one bits of a uniform value (R178) -/
  | upopc (x : UUn)
  /-- UCLZ: Counts the leading zero bits of a uniform value (R178) -/
  | uclz (x : UUn)
  /-- UBFX: Extracts a bit field from a uniform value (R182) -/
  | ubfx (x : UBfx)
  /-- UBFI: Inserts a bit field into a uniform value (R182) -/
  | ubfi (x : UBfi)
  /-- UAND_BASE: Base form of UAND: bitwise AND of two uniform values (R178) -/
  | uandBase (x : Base3)
  /-- UAND_EXT: Literal and extended forms of UAND (R178) -/
  | uandExt (x : UBin)
  /-- UOR: Bitwise OR of two uniform values (R178) -/
  | uor (x : UBin)
  /-- UXOR: Bitwise XOR of two uniform values (R178) -/
  | uxor (x : UBin)
  /-- USHL_BASE: Base form of USHL: shifts a uniform value left (R178) -/
  | ushlBase (x : Base3)
  /-- USHL_EXT: Literal and extended forms of USHL (R178) -/
  | ushlExt (x : UBin)
  /-- USHR: Shifts a uniform value right, logically (R178) -/
  | ushr (x : UBin)
  /-- USRA: Shifts a uniform value right, arithmetically (R178) -/
  | usra (x : UBin)
  /-- UMOV_BASE: Base form of UMOV: copies a uniform register (R178) -/
  | umovBase (x : BaseDB)
  /-- UMOV_EXT: Extended form of UMOV (R178) -/
  | umovExt (x : UMov)
  /-- ULI: Writes a 64-bit literal to a uniform register (R178) -/
  | uli (x : ULit)
  /-- VADD_BASE: Base form of VADD: per-lane integer add (R179) -/
  | vaddBase (x : Base3)
  /-- VADD_EXT: Literal and extended forms of VADD (R179) -/
  | vaddExt (x : VBin)
  /-- VSUB: Per-lane integer subtract (R179) -/
  | vsub (x : VBin)
  /-- VMUL: Per-lane integer multiply (R179) -/
  | vmul (x : VBin)
  /-- VMULH: Per-lane high half of an integer product (R179) -/
  | vmulh (x : VBin)
  /-- VMIN: Per-lane integer minimum (R179) -/
  | vmin (x : VBin)
  /-- VMAX: Per-lane integer maximum (R179) -/
  | vmax (x : VBin)
  /-- VABS: Per-lane integer absolute value (R179) -/
  | vabs (x : VUn)
  /-- VSET: Per-lane integer compare that writes a predicate (R180) -/
  | vset (x : VSetI)
  /-- VSEL: Per-lane select by a predicate (R181) -/
  | vsel (x : VPredI)
  /-- VPOPC: Per-lane population count (R179) -/
  | vpopc (x : VUn)
  /-- VCLZ: Per-lane count of leading zeros (R179) -/
  | vclz (x : VUn)
  /-- VBFX: Per-lane bit-field extract (R182) -/
  | vbfx (x : VBfx)
  /-- VBFI: Per-lane bit-field insert (R182) -/
  | vbfi (x : VBfi)
  /-- VADDC: Per-lane add with carry in and carry out through a predicate (R181) -/
  | vaddc (x : VPredI)
  /-- VIDX: Writes base plus lane times step into each lane (R181) -/
  | vidx (x : VIdxI)
  /-- VMAD: Per-lane integer multiply-add (R181) -/
  | vmad (x : VTri)
  /-- VDOT4: Per-lane INT8 four-way dot product with accumulate (R181) -/
  | vdot4 (x : VTri)
  /-- VAND_BASE: Base form of VAND: per-lane bitwise AND (R179) -/
  | vandBase (x : Base3)
  /-- VAND_EXT: Literal and extended forms of VAND (R179) -/
  | vandExt (x : VBin)
  /-- VOR: Per-lane bitwise OR (R179) -/
  | vor (x : VBin)
  /-- VXOR: Per-lane bitwise XOR (R179) -/
  | vxor (x : VBin)
  /-- VSHL_BASE: Base form of VSHL: per-lane left shift (R179) -/
  | vshlBase (x : Base3)
  /-- VSHL_EXT: Literal and extended forms of VSHL (R179) -/
  | vshlExt (x : VBin)
  /-- VSHR: Per-lane logical right shift (R179) -/
  | vshr (x : VBin)
  /-- VSRA: Per-lane arithmetic right shift (R179) -/
  | vsra (x : VBin)
  /-- VMOV_BASE: Base form of VMOV: per-lane register copy (R181) -/
  | vmovBase (x : BaseDB)
  /-- VMOV_EXT: Literal and extended forms of VMOV (R181) -/
  | vmovExt (x : VMovI)
  /-- FADD_BASE: Base form of FADD: per-lane floating-point add (R185) -/
  | faddBase (x : Base3)
  /-- FADD_EXT: Literal and extended forms of FADD (R185) -/
  | faddExt (x : FBin)
  /-- FSUB: Per-lane floating-point subtract (R185) -/
  | fsub (x : FBin)
  /-- FMUL: Per-lane floating-point multiply (R185) -/
  | fmul (x : FBin)
  /-- FMIN: Per-lane floating-point minimum (R185) -/
  | fmin (x : FBin)
  /-- FMAX: Per-lane floating-point maximum (R185) -/
  | fmax (x : FBin)
  /-- FABS: Per-lane floating-point absolute value (R185) -/
  | fabs (x : FUn)
  /-- FNEG: Per-lane floating-point negation (R185) -/
  | fneg (x : FUn)
  /-- FSET: Per-lane floating-point compare that writes a predicate (R186) -/
  | fset (x : VSetI)
  /-- FCLASS: Per-lane floating-point classification mask (R186) -/
  | fclass (x : FUn)
  /-- FFMA: Per-lane fused multiply-add with a single rounding (R185) -/
  | ffma (x : FTri)
  /-- FCVT: Per-lane conversion between floating-point formats (R187) -/
  | fcvt (x : FCvtI)
  /-- ICVT: Per-lane conversion involving an integer type (R187) -/
  | icvt (x : FCvtI)
  /-- BCVT: Group-collective conversion of 32 FP32 values to one BFP block (R188) -/
  | bcvt (x : BCvtI)
  /-- FRND: Per-lane rounding to an integral floating-point value (R187) -/
  | frnd (x : FUn)
  /-- FRCP_BASE: Base form of FRCP: per-lane reciprocal (R189) -/
  | frcpBase (x : BaseDA)
  /-- FRCP_EXT: Extended form of FRCP (R189) -/
  | frcpExt (x : FUn)
  /-- FRSQ: Per-lane reciprocal square root (R189) -/
  | frsq (x : FUn)
  /-- FSQRT: Per-lane square root (R189) -/
  | fsqrt (x : FUn)
  /-- FEXP2: Per-lane base-2 exponential (R189) -/
  | fexp2 (x : FUn)
  /-- FLOG2: Per-lane base-2 logarithm (R189) -/
  | flog2 (x : FUn)
  /-- FSIN: Per-lane sine of pi times x (R189) -/
  | fsin (x : FUn)
  /-- FCOS: Per-lane cosine of pi times x (R189) -/
  | fcos (x : FUn)
  /-- FTANH: Per-lane hyperbolic tangent (R189) -/
  | ftanh (x : FUn)
  /-- VRNG: Per-lane counter-based random bits; advances each lane's counter (R190) -/
  | vrng (x : VRngI)
  /-- VOTE: Membership vote or ballot over a tile (R200) -/
  | vote (x : VoteI)
  /-- SHFL: Membership shuffle of values between lanes of a tile (R201) -/
  | shfl (x : ShflI)
  /-- REDUX: Membership reduction over a tile by a fixed tree (R202) -/
  | redux (x : ReduxI)
  /-- SCAN: Membership prefix scan over a tile (R203) -/
  | scan (x : ScanI)
  /-- FFS: Per-lane index of the lowest set bit (R204) -/
  | ffs (x : FfsI)
  /-- SETPART: Sets the split's PART tile size (R205) -/
  | setpart (x : SetPartI)
  /-- LMASK: Writes a lane-position mask to each lane (R206) -/
  | lmask (x : LMaskI)
  /-- BRA: Unconditional relative branch (R247) -/
  | bra (x : BraI)
  /-- BRC: Per-lane conditional branch that may diverge (R247) -/
  | brc (x : BrcI)
  /-- UBRC: Branch on a uniform predicate (R247) -/
  | ubrc (x : UBrcI)
  /-- JMP: Indirect jump to per-lane or uniform targets (R247) -/
  | jmp (x : JmpI)
  /-- CALL: Indirect call that writes a link pair (R247) -/
  | call (x : CallI)
  /-- RET: Return to per-lane link targets (R247) -/
  | ret (x : RetI)
  /-- BECOME_BASE: Base form of BECOME: each active thread ends, continues or forks (R250) -/
  | becomeBase (x : BaseDB)
  /-- BECOME_EXT: Literal and extended forms of BECOME, EXIT included (R250) -/
  | becomeExt (x : BecomeI)
  /-- MERGE: Pushes a reconvergence address onto the split's stack (R241) -/
  | merge (x : BraI)
  /-- SYNC: Membership barrier with a group-scope fence (R255) -/
  | sync (x : SyncI)
  /-- GSYNC: Gang-wide barrier arrival (R256) -/
  | gsync
  /-- YIELD: Makes the split the youngest candidate and not ready for one clock (R258) -/
  | yield
  /-- NOP_BASE: Base form of NOP: does nothing (R258) -/
  | nopBase
  /-- NOP_EXT: Extended form of NOP (R258) -/
  | nopExt
  /-- SETFMT_BASE: Base form of SETFMT: writes the split's FMT from a uniform register (R259) -/
  | setfmtBase (x : BaseB)
  /-- SETFMT_EXT: Literal and extended forms of SETFMT (R259) -/
  | setfmtExt (x : SetFmtI)
  /-- GETFMT: Reads the split's FMT into a uniform register (R259) -/
  | getfmt (x : DstS)
  /-- GETSR: Reads a special register; can clear ucflag (R260) -/
  | getsr (x : GetSrI)
  /-- SETPRIO: Sets the group's issue priority (R261) -/
  | setprio (x : SetPrioI)
  /-- LD_BASE: Base form of LD: per-lane load (R72) -/
  | ldBase (x : Base3)
  /-- LD_EXT: Extended form of LD (R72) -/
  | ldExt (x : LdI)
  /-- LDU: Uniform load, one access per split (R74) -/
  | ldu (x : LdUI)
  /-- ST_BASE: Base form of ST: per-lane store (R73) -/
  | stBase (x : Base3)
  /-- ST_EXT: Extended form of ST (R73) -/
  | stExt (x : LdI)
  /-- STU: Uniform store, one access per split (R74) -/
  | stu (x : LdUI)
  /-- ATOM: Per-lane atomic read-modify-write that returns the old value (R81) -/
  | atom (x : AtomI)
  /-- ATOMU: Uniform atomic read-modify-write (R81) -/
  | atomu (x : AtomUI)
  /-- RED: Reduction update without a result, through the update-only state (R83) -/
  | red (x : RedI)
  /-- OAPP: Ordered append of each active lane's value to a channel (R84) -/
  | oapp (x : OAppI)
  /-- PREF: Prefetches lines into a cache level (R88) -/
  | pref (x : LineI)
  /-- CFLUSH: Writes back and invalidates lines at a scope (R89) -/
  | cflush (x : LineI)
  /-- FENCE: Memory fence at a scope, durable at .rec (R90) -/
  | fence (x : FenceI)
  /-- IFENCE: Makes earlier writes visible to fetch and discards fetched instructions (R91) -/
  | ifence
  /-- SETMOD: Loads a modulo register (R69) -/
  | setmod (x : SetModI)
  /-- STMAP: Maps stash units to a global range (R148) -/
  | stmap (x : StMapI)
  /-- STUNMAP: Writes back dirty stash lines and unmaps the units (R149) -/
  | stunmap (x : DstS)
  /-- STWB: Writes back dirty stash lines (R149) -/
  | stwb (x : DstS)
  /-- STDROP: Invalidates stash lines, discarding dirty data (R149) -/
  | stdrop (x : DstS)
  /-- SWINIT: Initialises a sync word (R152) -/
  | swinit (x : SwInitI)
  /-- SWARRIVE: Adds bytes to a sync word's count as a gang release (R152) -/
  | swarrive (x : SwI)
  /-- SWEXPECT: Raises a sync word's target (R152) -/
  | swexpect (x : SwI)
  /-- SWWAIT: Tests or waits for a sync-word generation advance (R153) -/
  | swwait (x : SwWaitI)
  /-- WAIT: Stalls until the outstanding-operation counters reach their limits (R155) -/
  | wait (x : WaitI)
  /-- LDT: Loads lines into tile registers, optionally counting into a sync word (R156) -/
  | ldt (x : LdtI)
  /-- STT: Stores tile registers to memory lines (R156) -/
  | stt (x : SttI)
  /-- CQCFG: Configures or releases a carry queue (R146) -/
  | cqcfg (x : CqCfgI)
  /-- COPY: Issues a copy-engine command (R105) -/
  | copy (x : CopyI)
  /-- GATHER: Issues a slice-engine gather into the vat (R109) -/
  | gather (x : GatherI)
  /-- SCATTER: Issues a slice-engine scatter from the vat (R110) -/
  | scatter (x : ScatterI)
  /-- SCATADD: Issues scattered reduction updates through the update-only state (R111) -/
  | scatadd (x : ScatAddI)
  /-- STRCFG: Configures a stream engine from a tensor layout record (R115) -/
  | strcfg (x : StrCfgI)
  /-- STRGO: Starts a stream engine's walk (R114) -/
  | strgo (x : StrGoI)
  /-- STRHALT: Halts and optionally releases a stream engine (R114) -/
  | strhalt (x : StrHaltI)
  /-- SPBIND: Binds or unbinds a stream port (R119) -/
  | spbind (x : SpBindI)
  /-- SLOTSIG: Hands group-side slots to the stream engine (R118) -/
  | slotsig (x : SlotSigI)
  /-- COLL: Arrives at a collective operation of a collective group (R121) -/
  | coll (x : CollI)
  /-- MRES: Requests a press reservation without waiting (R210) -/
  | mres (x : MResI)
  /-- MREL: Releases the gang's press reservation after its operations drain (R211) -/
  | mrel
  /-- MSTAT: Reads a snapshot of the group's press state (R222) -/
  | mstat (x : DstS)
  /-- MLDB: Queues a press operation that loads B into a mould (R216) -/
  | mldb (x : MldbI)
  /-- MMUL: Queues a dense press multiply into an accumulator (R217) -/
  | mmul (x : MMulI)
  /-- MAMOV: Queues an accumulator move out to or in from the vat (R218) -/
  | mamov (x : MaMovI)
  /-- MZERO: Queues the clearing of an accumulator (R218) -/
  | mzero (x : MZeroI)
  /-- MFENCE_BASE: Base form of MFENCE: closes the group's tile operations into a batch (R220) -/
  | mfenceBase
  /-- MFENCE_EXT: Extended form of MFENCE (R220) -/
  | mfenceExt
  /-- MWAIT: Waits for a press batch and acquires its results (R221) -/
  | mwait (x : MWaitI)
  /-- PRUNE: Queues N:M pruning of a dense tile into a packed tile and metadata (R229) -/
  | prune (x : PruneI)
  /-- MLDBS: Queues the loading of a sparse tile into mould slices (R231) -/
  | mldbs (x : MldbsI)
  /-- MMULS: Queues a sparse press multiply (R232) -/
  | mmuls (x : MmulsI)
  /-- MHDR: Validates sparsity metadata and returns its shape (R234) -/
  | mhdr (x : MHdrI)
  /-- QPUSH: Pushes items into a DATA queue, waiting for room (R267) -/
  | qpush (x : PushI)
  /-- QPOP: Pops items from a DATA queue, waiting while it is empty (R268) -/
  | qpop (x : PopI)
  /-- QTRY: Pops items from a DATA queue without waiting (R268) -/
  | qtry (x : PopI)
  /-- QLEN: Reads a queue object's occupancy (R270) -/
  | qlen (x : DaI)
  /-- QSTAT: Reads queue status or the gang's effect-buffer status (R270) -/
  | qstat (x : QStatI)
  /-- TSPAWN: Copies a task record into a TASK queue (R272) -/
  | tspawn (x : AbI)
  /-- TDONE: Decrements a successor counter (R273) -/
  | tdone (x : SrcA)
  /-- WLPUSH: Appends values to a work-list (R274) -/
  | wlpush (x : PushI)
  /-- WLINS: Appends values to a work-list, dropping duplicates (R274) -/
  | wlins (x : PushI)
  /-- WLPOP: Removes work-list entries without waiting (R274) -/
  | wlpop (x : PopI)
  /-- FUTSET: Fills or clears a future cell and wakes its waiters (R275) -/
  | futset (x : FutSetI)
  /-- FUTGET: Reads a future cell, waiting while it is empty (R275) -/
  | futget (x : DaI)
  /-- BKPT_BASE: Base form of BKPT: raises a breakpoint trap (R300) -/
  | bkptBase
  /-- BKPT_EXT: Extended form of BKPT with a code (R300) -/
  | bkptExt (x : CodeI)
  /-- TRAP: Raises an explicit trap with a code (R300) -/
  | trap (x : CodeI)
  /-- SYSCALL: Stops the calling group and has Ezden perform each lane's system call (R304) -/
  | syscall (x : SyscallI)
  /-- ERET: Ends a handler, acting on the frame's ACTION (R299) -/
  | eret
  /-- CSRR: Reads a control register (R301) -/
  | csrr (x : CsrRI)
  /-- CSRW: Writes a control register (R301) -/
  | csrw (x : CsrWI)
  /-- CHKMODE: Sets the gang's checking mode (R317) -/
  | chkmode (x : ChkModeI)
  /-- RPMARK: Gang-collective recovery point that writes a state area (R330) -/
  | rpmark (x : AbI)
  /-- RPGET: Reads recovery-point information (R333) -/
  | rpget (x : RpGetI)
  /-- CKSEAL: Requests the sealing of a checkpoint generation (R335) -/
  | ckseal (x : CkSealI)
  /-- FINJ: Arms an error injection (R327) -/
  | finj (x : FinjI)
  /-- WALK_START: A queued miss-table entry starts its page walk when a walker frees (R57) -/
  | walkStart (x : EvDie)
  /-- WALK_COMPLETE: A page walk completes and answers every waiter and covered entry (R57) -/
  | walkComplete (x : EvDieIdx)
  /-- PAGE_MIGRATION: Ezden blocks, copies and remaps a page, then performs queued accesses (R59) -/
  | pageMigration (x : EvMigratePage)
  /-- LOAD_COMPLETE: A load or atomic writes its destination and LDC falls (R75) -/
  | loadComplete (x : EvGroupIdx)
  /-- STORE_PERFORMED: A store reaches its coherence point and STC falls (R75) -/
  | storePerformed (x : EvGroupIdx)
  /-- UPDATE_ONLY_MERGE: A line in the update-only state merges its partials into the home value (R83) -/
  | updateOnlyMerge (x : EvLine)
  /-- RED_UPDATE_ARRIVAL: A reduction update arrives at a slice and combines into its partial (R83) -/
  | redUpdateArrival (x : EvGroupIdx)
  /-- APPEND_ELEMENT_WRITE: A waiting append element is written once every lower rank has appended (R85) -/
  | appendElementWrite (x : EvGangIdx)
  /-- LINE_RECALL: An access to an engine-owned line waits until the engine writes it, then is performed (R98) -/
  | lineRecall (x : EvCmdLine)
  /-- ENGINE_COMMAND_COMPLETE: An engine command completes and CPC falls (R101) -/
  | engineCommandComplete (x : EvCmd)
  /-- ENGINE_LINE_WRITE: An engine writes and releases one destination line and posts its sync-word count (R98) -/
  | engineLineWrite (x : EvCmdLine)
  /-- FILL_SLOT_READY: A fill engine finishes a slot and passes it to the group side (R117) -/
  | fillSlotReady (x : EvCoreIdx)
  /-- DRAIN_SLOT_RETURN: A drain engine writes a slot's elements and returns the slot (R117) -/
  | drainSlotReturn (x : EvCoreIdx)
  /-- STREAM_LAST_ELEMENT: A stream transfers its last element, goes IDLE and completes STRGO (R114) -/
  | streamLastElement (x : EvCoreIdx)
  /-- COLL_RENDEZVOUS: Every member has arrived at a collective command, which then runs or traps (R122) -/
  | collRendezvous (x : EvRendezvous)
  /-- SYNC_WORD_ARRIVAL: Posted bytes arrive at a sync word and the completion step runs (R151) -/
  | syncWordArrival (x : EvIdx)
  /-- STASH_WRITEBACK: The hardware writes back a dirty stash line in the background (R147) -/
  | stashWriteback (x : EvCoreIdx)
  /-- TILE_OPERATION_START: A queued press tile operation starts (R209) -/
  | tileOperationStart (x : EvGroup)
  /-- TILE_OPERATION_COMPLETE: A press tile operation completes, releasing its pins (R209) -/
  | tileOperationComplete (x : EvGroup)
  /-- RESERVATION_RELEASE: A releasing reservation frees its units when the last operation completes (R212) -/
  | reservationRelease (x : EvGang)
  /-- SHARED_AGEING_SERVE: A group queue whose credit reaches 16,384 clocks is served out of turn (R291) -/
  | sharedAgeingServe (x : EvPress)
  /-- SPLIT_MERGE: Splits whose next PCs match merge before issue (R240) -/
  | splitMerge (x : EvGroupIdx)
  /-- RECONVERGENCE: A wait at a reconvergence point ends and the splits merge (R240) -/
  | reconvergence (x : EvGroupIdx)
  /-- MEMBERSHIP_COMPLETE: Every lane of a waited mask has arrived and the membership instruction completes (R197) -/
  | membershipComplete (x : EvGroup)
  /-- DECKLE_BECOME: The deckle materialises a BECOME's new run and the groups become ready (R251) -/
  | deckleBecome (x : EvCore)
  /-- MATERIALISATION: The deckle materialises pending threads from a record (R253) -/
  | materialisation (x : EvGang)
  /-- GSYNC_COMPLETE: All threads arrive at GSYNC; compaction, epoch close and fence follow (R256) -/
  | gsyncComplete (x : EvGang)
  /-- HOST_PUSH: A 64-byte host write to a push aperture inserts a record or items (R271) -/
  | hostPush (x : EvPush)
  /-- SUCCESSOR_PUSH: A fired counter's record is pushed to its queue once room exists (R273) -/
  | successorPush (x : EvIdx)
  /-- TASK_DISPATCH: A distributor dispatches a task record as a gang onto a core (R282) -/
  | taskDispatch (x : EvDie)
  /-- EFFECTIVE_LEVEL_RAISE: A queue's head-wait timer passes its AGE_US and EL rises (R281) -/
  | effectiveLevelRaise (x : EvIdx)
  /-- QUEUE_HOLDING: A level-7 queue past AGE7 becomes holding and requests a migration (R285) -/
  | queueHolding (x : EvIdx)
  /-- GANG_MIGRATION: The streamer moves a gang to another core (R286) -/
  | gangMigration (x : EvGangCore)
  /-- FORWARDING_EXPIRE: A forwarding entry expires (R288) -/
  | forwardingExpire (x : EvIdx)
  /-- FORWARDED_MESSAGE: A message reaches a forwarding entry and is redirected to the new core (R288) -/
  | forwardedMessage (x : EvIdx)
  /-- SPLIT_BOOST: A ready split not picked for 64 clocks is boosted (R290) -/
  | splitBoost (x : EvGroupIdx)
  /-- PRESS_WAKE: A split stalled at MWAIT or WAIT tl is retested at its predicted wake clock (R291) -/
  | pressWake (x : EvGroupIdx)
  /-- SKID_END: A group reaches 24 instructions or 96 clocks after the broadcast and stops (R294) -/
  | skidEnd (x : EvGang)
  /-- HANDLER_DELIVERY: The frame is written and a handler split starts in the faulting group (R298) -/
  | handlerDelivery (x : EvGang)
  /-- EZDEN_TRAP: A trap reaches Ezden, which kills the gang or terminates the context (R297) -/
  | ezdenTrap (x : EvGang)
  /-- SYSCALL_COMPLETE: Ezden finishes the lanes' calls and the group resumes (R304) -/
  | syscallComplete (x : EvSyscall)
  /-- SYSCALL_TIMEOUT: A network call waits 100 ms and returns (R302) -/
  | syscallTimeout (x : EvGroup)
  /-- PREEMPTION: A collector stops a gang and asks each engine class to stop (R305) -/
  | preemption (x : EvGang)
  /-- PREEMPTION_COMPLETE: Every engine class has acknowledged and the gang is stopped (R305) -/
  | preemptionComplete (x : EvGang)
  /-- CONTEXT_SWITCH: Every gang of a context is pre-empted and saved (R307) -/
  | contextSwitch (x : EvCtx)
  /-- CONTEXT_RESTORE: A saved context is placed again and resumed (R307) -/
  | contextRestore (x : EvCtx)
  /-- GANG_EXIT: A gang with no live or pending thread drains, writes back and frees itself (R308) -/
  | gangExit (x : EvGang)
  /-- GANG_KILL: Ezden kills a gang and discards its state (R310) -/
  | gangKill (x : EvGang)
  /-- UNCORRECTABLE_ERROR: An uncorrectable error ends the smallest owner of the damaged state (R312) -/
  | uncorrectableError (x : EvError)
  /-- CORRECTABLE_ERROR: A correctable error is corrected, retested and counted (R316) -/
  | correctableError (x : EvError)
  /-- REPLAY_QUEUE_EXECUTION: A replay-queue entry executes again on a free clock or after 64 clocks (R318) -/
  | replayQueueExecution (x : EvCoreIdx)
  /-- SIGNATURE_MATCH: The trail's signature matches and the lead's global effect is released (R322) -/
  | signatureMatch (x : EvGang)
  /-- PAIR_ROLLBACK: A signature mismatch or error moves the pair to rollback (R324) -/
  | pairRollback (x : EvGang)
  /-- PAIR_RESTORE: Both copies are restored from the state area and replay begins (R334) -/
  | pairRestore (x : EvGang)
  /-- INJECTION_FIRE: An armed injection fires after N instructions (R327) -/
  | injectionFire (x : EvInject)
  /-- PEER_CHIP_LOSS: A peer chip fails and its modified lines are marked LOST (R326) -/
  | peerChipLoss (x : EvPeerLoss)
  /-- HALUF_RETRANSMIT: A bad link packet is retransmitted, and poisoned after 8 failures (R312) -/
  | halufRetransmit (x : EvRetransmit)
  /-- DURABLE_ACKNOWLEDGE: A memory base die acknowledges a DUR write as durable (R135) -/
  | durableAcknowledge (x : EvHalf)
  /-- CHECKPOINT_SEAL: After the rendezvous the members freeze, judge and copy the image (R336) -/
  | checkpointSeal (x : EvSeal)
  /-- SEAL_COMMIT: After parity is acknowledged the commit records are written (R336) -/
  | sealCommit (x : EvSealCommit)
  /-- DIE_RESET: A reset of compute, cache base or I/O dies, sparing the memory base dies (R136) -/
  | dieReset (x : EvReset)
  /-- CHIP_RESET: An uncorrectable control-complex error resets the chip except the memory base dies (R312) -/
  | chipReset
  /-- PERST_DEASSERT: PERST# is deasserted and the ROM verifies the patch area (R352) -/
  | perstDeassert (x : EvPerst)
  /-- BOOT_READY: Ezden finishes boot, reaches STATE 3 and performs held commands (R352) -/
  | bootReady
  /-- BOOT_TIMEOUT: Boot does not reach STATE 3 within 20 s and fails (R352) -/
  | bootTimeout (x : EvBoot)
  /-- FUNCTION_LEVEL_RESET: A function-level reset ends the accepted feature word (R350) -/
  | functionLevelReset (x : EvFn)
  /-- HOST_BAR2_READ: A host read through BAR2 is translated and checked (R346) -/
  | hostBar2Read (x : EvRead)
  /-- HOST_BAR2_WRITE: A host posted write through BAR2 is translated and performed (R346) -/
  | hostBar2Write (x : EvWrite)
  /-- BAR0_OTHER_WRITE: A write to BAR0 outside an aperture is discarded (R345) -/
  | bar0OtherWrite (x : EvWrite)
  /-- INVALID_COMMAND_RECORD: A command record with an unknown OPC or malformed fields completes with status 1 (R348) -/
  | invalidCommandRecord (x : EvFn)
  /-- NEGOTIATE_FEATURES: Sets the function's accepted feature word (R350) -/
  | negotiateFeatures (x : EvFn)
  /-- CREATE_CONTEXT: Creates a context with its quota, slack and permissions (R383) -/
  | createContext (x : EvFn)
  /-- DESTROY_CONTEXT: Destroys a context, its gangs, queues and pages (R349) -/
  | destroyContext (x : EvFn)
  /-- MAP: Writes page leaves for a context (R383) -/
  | map (x : EvFn)
  /-- UNMAP: Removes page leaves after invalidation everywhere (R58) -/
  | unmap (x : EvFn)
  /-- LOAD_CODE: Places code from host memory into a context (R44) -/
  | loadCode (x : EvFn)
  /-- CREATE_QUEUE_OBJECT: Creates a queue object header and returns its aperture index (R264) -/
  | createQueueObject (x : EvFn)
  /-- DESTROY_QUEUE_OBJECT: Destroys a queue object (R349) -/
  | destroyQueueObject (x : EvFn)
  /-- READ_ENUMERATION_TABLE: Writes the enumeration table to host memory (R351) -/
  | readEnumerationTable (x : EvFn)
  /-- READ_COUNTERS: Writes counters, the error log or an event record to the host (R349) -/
  | readCounters (x : EvFn)
  /-- SET_POWER_CAP: Sets the module power cap (R17) -/
  | setPowerCap (x : EvFn)
  /-- SET_AGEING_BLOCK: Writes a distributor's ageing block (R280) -/
  | setAgeingBlock (x : EvFn)
  /-- CONFIGURE_PARITY_GROUP: Defines a collective group (R120) -/
  | configureParityGroup (x : EvParity)
  /-- RESTORE: Restores a context from its newest intact checkpoint generation (R340) -/
  | restore (x : EvRestore)
  /-- ATTEST: Writes a signed attestation report (R353) -/
  | attest (x : EvFn)
  /-- BIND_WINDOW: Binds the BAR2 window to a context (R346) -/
  | bindWindow (x : EvFn)
  /-- NOT_AN_INSTRUCTION: A split issues a word that decodes to no member (unassigned OP, unlisted MEMBER or LEN), or fetches from a PC that yields no word, and traps (R40) -/
  | notAnInstruction
  /-- PRESS_MODE_SWITCH: Ezden sets a press to NORMAL or SHARED mode, changing how MRES grants and whether excess reservations are swapped (R212) -/
  | pressModeSwitch (x : EvPressMode)
  deriving DecidableEq, Repr

end Sys2Proof
end

