-- ==== Sys2Proof/WellFormed.lean ====
section
/-! DEFINITION. Which instruction terms are well formed: the types, modes, ranges and literal forms each member accepts (02 R30-R32, R40 and the members' descriptions). Register windows, pairs and ports depend on the state and are checked at issue. -/

namespace Sys2Proof

/-- The 32-bit integer types (09 R179). -/
def Ty.isInt32 : Ty → Bool
  | .i32 | .n32 => true
  | _ => false

/-- The four integer types of uniform and vector arithmetic (09 R178). -/
def Ty.isInt4 : Ty → Bool
  | .i32 | .n32 | .i64 | .n64 => true
  | _ => false

/-- The floating-point types (09 R184). -/
def Ty.isFloat : Ty → Bool
  | .f16 | .bf16 | .f32 | .f64 => true
  | _ => false

/-- Every type but block floating point (04 R70). -/
def Ty.isPlain : Ty → Bool
  | .bfp => false
  | _ => true

/-- The types whose operands are register pairs (02 R28). -/
def Ty.is64 : Ty → Bool
  | .i64 | .n64 | .f64 => true
  | _ => false

/-- The integer types, of every width. -/
def Ty.isInt : Ty → Bool
  | .i8 | .i16 | .i32 | .i64 | .n8 | .n16 | .n32 | .n64 => true
  | _ => false

/-- Signed integer types (08 R167). -/
def Ty.isSigned : Ty → Bool
  | .i8 | .i16 | .i32 | .i64 => true
  | _ => false

/-- The width of a type in bits (04 R70); a block type has none. -/
def Ty.bits : Ty → Nat
  | .i8 | .n8 => 8
  | .i16 | .n16 | .f16 | .bf16 => 16
  | .i32 | .n32 | .f32 => 32
  | .i64 | .n64 | .f64 => 64
  | .bfp => 0

/-- A uniform register that a base word can name: s0-s255 (02 R27). -/
def SReg.low (r : SReg) : Bool := decide (r.val < 256)

/-- A V-class operand that a base word can name: X = 0 (02 R27). -/
def VOp.low : VOp → Bool
  | .v _ => true
  | .k _ => false

/-- No guard. -/
def Guard.isNone : Guard → Bool
  | .none => true
  | _ => false

/-- A literal in LEN 0b01 needs every other field at its implied value (02 R23, R24). -/
def USrc.shortOk (b : USrc) (implied : Bool) : Bool :=
  match b with
  | .short _ => implied
  | _ => true

def VSrc.shortOk (b : VSrc) (implied : Bool) : Bool :=
  match b with
  | .short _ => implied
  | _ => true

/-- Only member 0 of an opcode has a LEN 0b01 form (02 R23). -/
def USrc.noShort (b : USrc) : Bool := b.shortOk false
def VSrc.noShort (b : VSrc) : Bool := b.shortOk false

/-- The operations, types and modes of REDUX and SCAN (10 R196). -/
def redOk (op : RedOp) (ty : Ty) (mod : RedMod) : Bool :=
  (match ty with
   | .i32 | .i64 => match op with
     | .add | .min | .max => true
     | _ => false
   | .n32 | .n64 => true
   | .f32 => match op with
     | .add | .min | .max => true
     | _ => false
   | _ => false) &&
  (match mod with
   | .zero => true
   | .sat => decide (op = .add) && ty.isInt4
   | .rm r => decide (op = .add) && decide (ty = .f32) && decide (r ≠ .fmt))

/-- The types each atomic operation accepts (04 R80). -/
def atomOk (op : AtomOp) (ty : Ty) : Bool :=
  match op with
  | .add => ty.isInt4 || decide (ty = .f32)
  | .min | .max => ty.isInt4
  | .and | .or | .xor => decide (ty = .n32) || decide (ty = .n64)
  | .exch | .cas => decide (ty = .n32) || decide (ty = .n64) || decide (ty = .f32)
  | .inc | .dec => decide (ty = .n32) || decide (ty = .n64)

/-- The operations RED accepts (04 R80). -/
def AtomOp.redOk : AtomOp → Bool
  | .add | .min | .max | .and | .or | .xor => true
  | _ => false

/-- The operation lists of SCATADD and COLL as those of R80 (05 R107). -/
def RedOp.atom : RedOp → AtomOp
  | .add => .add | .min => .min | .max => .max | .and => .and | .or => .or | .xor => .xor

/-- The operations and types COLL accepts (05 R121). -/
def collOk (kind : CollKind) (op : RedOp) (ty : Ty) : Bool :=
  match kind with
  | .allreduce | .redscat => match op with
    | .add => ty.isInt4 || decide (ty = .f32) || decide (ty = .f16) || decide (ty = .bf16)
    | .min | .max => ty.isInt4
    | .and | .or | .xor => decide (ty = .n32) || decide (ty = .n64)
  | .allgather | .bcast => ty.isPlain && decide (op = .add)

/-- A uniform member's address: AM 0, 2 or 3 (04 R66). -/
def AddrExp.uniformOk : AddrExp → Bool
  | .base .. | .postinc .. | .modulo .. => true
  | _ => false

/-- The members whose B is an operand carry no scaled offset (04 R64). -/
def AddrExp.unscaled : AddrExp → Bool
  | .base _ _ n | .indexed _ _ _ n | .lane _ _ n => decide (n.val = 0)
  | _ => true

/-- PREF and CFLUSH accept AM 0, 1 and 4 (04 R66). -/
def AddrExp.lineOk : AddrExp → Bool
  | .base .. | .indexed .. | .lane .. => true
  | _ => false

/-- Orders a load accepts (04 R72). -/
def MemOrder.loadOk : MemOrder → Bool
  | .plain | .acq => true
  | _ => false
/-- Orders a store or RED accepts (04 R73, R83). -/
def MemOrder.storeOk : MemOrder → Bool
  | .plain | .rel => true
  | _ => false

/-- .rec is accepted only by FENCE (04 R77). -/
def Scope.noRec (s : Scope) : Bool := decide (s ≠ .recov)

/-! ## The checks by operand record -/

def UBin.ok (x : UBin) (satOk member0 : Bool) : Bool :=
  x.ty.isInt4 && (satOk || !x.sat) &&
  x.b.shortOk (member0 && decide (x.ty = .i64) && !x.sat && x.d.low && x.a.low)

def VBin.ok (x : VBin) (tyOk satOk member0 : Bool) : Bool :=
  tyOk && (satOk || !x.sat) &&
  x.b.shortOk (member0 && x.g.isNone && decide (x.ty = .i32) && !x.sat && x.d.low && x.a.low)

def FBin.ok (x : FBin) (rmOk member0 : Bool) : Bool :=
  x.ty.isFloat && (rmOk || decide (x.rm = .fmt)) &&
  x.b.shortOk (member0 && x.g.isNone && decide (x.ty = .f32) && decide (x.rm = .fmt) && x.d.low && x.a.low)

def FUn.ok (x : FUn) (tyOk rmOk : Bool) : Bool := tyOk && (rmOk || decide (x.rm = .fmt))

/-- The destination type is none of block floating point; integer to integer takes no rounding (09 R184). The pair of types is a check
of the member itself (R187); FCVT's TY is a float type by its form (R184). -/
def FCvtI.ok (x : FCvtI) : Bool :=
  x.dty.isPlain && (!(x.dty.isInt && decide (1 ≤ x.sty.val) && decide (x.sty.val ≤ 8)) || decide (x.rm = .fmt))

def LdI.ok (x : LdI) (load : Bool) : Bool :=
  x.ty.isPlain && (if load then x.ord.loadOk else x.ord.storeOk) && x.scope.noRec

def LdUI.ok (x : LdUI) (load : Bool) : Bool :=
  x.ty.isPlain && (if load then x.ord.loadOk else x.ord.storeOk) && x.scope.noRec && x.addr.uniformOk

def AtomI.ok (x : AtomI) : Bool :=
  atomOk x.op x.ty && x.scope.noRec && x.addr.unscaled && x.b.noShort

def AtomUI.ok (x : AtomUI) : Bool :=
  atomOk x.op x.ty && x.scope.noRec && x.addr.uniformOk && x.addr.unscaled && x.b.noShort

def RedI.ok (x : RedI) : Bool :=
  atomOk x.op x.ty && x.op.redOk && x.ord.storeOk && x.scope.noRec && x.addr.unscaled &&
  x.b.noShort

/-- FENCE.acq.rec is refused (04 R90). -/
def FenceI.ok (x : FenceI) : Bool := !(decide (x.scope = .recov) && decide (x.ord = .acq))

def GetSrI.ok (x : GetSrI) : Bool :=
  (!x.clr || decide (x.sel = .ucflag)) &&
  (match x.sel, x.d with
   | .laneid, .v _ | .ordinal, .v _ | .rank, .v _ => true
   | .laneid, .s _ | .ordinal, .s _ | .rank, .s _ => false
   | _, .s _ => true
   | _, .v _ => false)

/-- Well-formedness of an instruction; an event row has no encoding and no check. -/
def Instr.wellFormed : Instr → Bool
  | .uaddExt x => x.ok true true
  | .usub x | .umul x => x.ok true false
  | .umulh x | .umin x | .umax x => x.ok false false
  | .uset x => x.ty.isInt4 && x.b.noShort
  | .usel x => x.b.noShort
  | .upopc x | .uclz x => x.ty.isInt4
  | .ubfx x => x.ty.isInt4
  | .ubfi x => x.ty.isInt4 && x.b.noShort
  | .uandExt x | .ushlExt x => x.ok false true
  | .uor x | .uxor x | .ushr x | .usra x => x.ok false false
  | .uli x => x.long || x.d.low
  | .vaddExt x => x.ok x.ty.isInt4 true true
  | .vsub x => x.ok x.ty.isInt4 true false
  | .vmul x => x.ok x.ty.isInt32 true false
  | .vmulh x => x.ok x.ty.isInt32 false false
  | .vmin x | .vmax x => x.ok x.ty.isInt4 false false
  | .vabs x => decide (x.ty = .i32) || decide (x.ty = .i64)
  | .vset x => x.ty.isInt4 && x.b.noShort
  | .vsel x => (decide (x.ty = .i32) || decide (x.ty = .i64)) && x.b.noShort
  | .vpopc x | .vclz x => x.ty.isInt4 && !x.sat
  | .vbfx x => x.ty.isInt32
  | .vbfi x => x.ty.isInt32 && x.b.noShort
  | .vaddc x => decide (x.ty = .n32) && x.b.noShort
  | .vidx x => x.ty.isInt32 && x.b.noShort
  | .vmad x => x.ty.isInt32 && x.b.noShort
  | .vdot4 x => decide (x.ty = .i32) && x.b.noShort
  | .vandExt x | .vshlExt x => x.ok x.ty.isInt4 false true
  | .vor x | .vxor x | .vshr x | .vsra x => x.ok x.ty.isInt4 false false
  | .vmovExt x =>
    (decide (x.ty = .i32) || decide (x.ty = .i64)) &&
    x.b.shortOk (x.g.isNone && decide (x.ty = .i32) && x.d.low)
  | .faddExt x => x.ok true true
  | .fsub x | .fmul x => x.ok true false
  | .fmin x | .fmax x => x.ok false false
  | .fabs x | .fneg x => x.ok x.ty.isFloat false
  | .fset x => (decide (x.ty = .f32) || decide (x.ty = .f64)) && x.b.noShort
  | .fclass x => x.ok (decide (x.ty = .f32) || decide (x.ty = .f64)) false
  | .ffma x => x.ty.isFloat && x.b.noShort
  | .fcvt x => x.ok && x.dty.isFloat
  | .icvt x => x.ok
  | .frnd x => x.ok (decide (x.ty = .f32) || decide (x.ty = .f64)) true
  | .frcpExt x | .fsqrt x => x.ok (decide (x.ty = .f32)) true
  | .frsq x | .fexp2 x | .flog2 x | .fsin x | .fcos x | .ftanh x => x.ok (decide (x.ty = .f32)) false
  | .shfl x =>
    (x.ty.isInt4 || decide (x.ty = .f32) || decide (x.ty = .f64)) && x.b.noShort
  | .redux x => redOk x.op x.ty x.mod
  | .scan x => redOk x.op x.ty x.mod
  | .ffs x => x.ty.isInt4
  | .setpart x => decide (1 ≤ x.tlog.val) && decide (x.tlog.val ≤ 5)
  | .becomeExt x => x.b.shortOk true
  | .setfmtExt x => x.b.shortOk true
  | .getsr x => x.ok
  | .ldExt x => x.ok true
  | .stExt x => x.ok false
  | .ldu x => x.ok true
  | .stu x => x.ok false
  | .atom x => x.ok
  | .atomu x => x.ok
  | .red x => x.ok
  | .oapp x => x.ty.isPlain
  | .pref x =>
    x.addr.lineOk && (decide (x.scope = .dflt) || decide (x.scope = .core) || decide (x.scope = .die) ||
      decide (x.scope = .dev))
  | .cflush x => x.addr.lineOk && x.scope.noRec
  | .fence x => x.ok
  | .setmod x => x.b.noShort
  | .swinit x => x.b.noShort
  | .swarrive x | .swexpect x => x.b.noShort
  | .swwait x => x.b.noShort
  | .gather x => x.ty.isPlain
  | .scatter x => x.ty.isPlain
  | .scatadd x => atomOk x.op.atom x.ty
  | .slotsig x => decide (1 ≤ x.n.val) && decide (x.n.val ≤ 64)
  | .coll x => collOk x.kind x.op x.ty
  | .mres x => decide (1 ≤ x.nm.val) && decide (x.nm.val ≤ 32) && decide (1 ≤ x.nk.val) && decide (x.nk.val ≤ 8)
  | .prune x => decide (x.mc.val ≤ 2) && decide (x.nm1.val + 1 ≤ 4 * 2 ^ x.mc.val)
  | .chkmode x => decide (x.mode.val ≤ 2)
  | .rpget x => decide (x.sel.val ≤ 4)
  | .uaddBase _ | .uandBase _ | .ushlBase _ | .umovBase _ | .umovExt _ | .vaddBase _ | .vandBase _ | .vshlBase _
  | .vmovBase _ | .faddBase _ | .bcvt _ | .vrng _ | .frcpBase _ | .vote _ | .lmask _ | .bra _ | .brc _ | .ubrc _
  | .jmp _ | .call _ | .ret _ | .becomeBase _ | .merge _ | .sync _ | .gsync | .yield | .nopBase | .nopExt
  | .setfmtBase _ | .getfmt _ | .setprio _ | .ldBase _ | .stBase _ | .ifence | .stmap _ | .stunmap _ | .stwb _
  | .stdrop _ | .wait _ | .ldt _ | .stt _ | .cqcfg _ | .copy _ | .strcfg _ | .strgo _ | .strhalt _ | .spbind _
  | .mrel | .mstat _ | .mldb _ | .mmul _ | .mamov _ | .mzero _ | .mfenceBase | .mfenceExt | .mwait _ | .mldbs _
  | .mmuls _ | .mhdr _ | .qpush _ | .qpop _ | .qtry _ | .qlen _ | .qstat _ | .tspawn _ | .tdone _ | .wlpush _
  | .wlins _ | .wlpop _ | .futset _ | .futget _ | .bkptBase | .bkptExt _ | .trap _ | .syscall _ | .eret | .csrr _
  | .csrw _ | .rpmark _ | .ckseal _ | .finj _ => true
  | .walkStart _ | .walkComplete _ | .pageMigration _ | .loadComplete _ | .storePerformed _ | .updateOnlyMerge _
  | .redUpdateArrival _ | .appendElementWrite _ | .lineRecall _ | .engineCommandComplete _ | .engineLineWrite _
  | .fillSlotReady _ | .drainSlotReturn _ | .streamLastElement _ | .collRendezvous _ | .syncWordArrival _
  | .stashWriteback _ | .tileOperationStart _ | .tileOperationComplete _ | .reservationRelease _
  | .sharedAgeingServe _ | .splitMerge _ | .reconvergence _ | .membershipComplete _ | .deckleBecome _
  | .materialisation _ | .gsyncComplete _ | .hostPush _ | .successorPush _ | .taskDispatch _
  | .effectiveLevelRaise _ | .queueHolding _ | .gangMigration _ | .forwardingExpire _ | .forwardedMessage _
  | .splitBoost _ | .pressWake _ | .skidEnd _ | .handlerDelivery _ | .ezdenTrap _ | .syscallComplete _
  | .syscallTimeout _ | .preemption _ | .preemptionComplete _ | .contextSwitch _ | .contextRestore _ | .gangExit _
  | .gangKill _ | .uncorrectableError _ | .correctableError _ | .replayQueueExecution _ | .signatureMatch _
  | .pairRollback _ | .pairRestore _ | .injectionFire _ | .peerChipLoss _ | .halufRetransmit _
  | .durableAcknowledge _ | .checkpointSeal _ | .sealCommit _ | .dieReset _ | .chipReset | .perstDeassert _
  | .bootReady | .bootTimeout _ | .functionLevelReset _ | .hostBar2Read _ | .hostBar2Write _ | .bar0OtherWrite _
  | .invalidCommandRecord _ | .negotiateFeatures _ | .createContext _ | .destroyContext _ | .map _ | .unmap _
  | .loadCode _ | .createQueueObject _ | .destroyQueueObject _ | .readEnumerationTable _ | .readCounters _
  | .setPowerCap _ | .setAgeingBlock _ | .configureParityGroup _ | .restore _ | .attest _ | .bindWindow _
  | .notAnInstruction | .pressModeSwitch _ => true

end Sys2Proof
end

