-- ==== Sys2Proof/Decode.lean ====
section
/-! DEFINITION. The decoder, total on any bytes and rejecting by name, and after it the encoder, both written from the encoding tables of 02 R20-R38 and the members' own sub-layouts. -/

namespace Sys2Proof

/-- Why bytes are not an instruction (02 R40); every one raises trap 0x01, but `short`, which is no instruction
at all because words are missing. -/
inductive DecodeError where
  | short        -- fewer bytes than LEN asks for
  | badOp        -- OP is unassigned (R34)
  | badLength    -- LEN is not listed for the OP
  | badMember    -- MEMBER is not listed for the OP
  | badVariant   -- VAR is not accepted by the member
  | badType      -- TY is not accepted, or is 14 or 15
  | badMode      -- MOD is not accepted
  | badGuard     -- GRD = 0b1000, or a guard on an unguarded member
  | badLiteral   -- a literal with B or XB nonzero, or on a member that takes none
  | badField     -- an unused field is nonzero, or a register field is outside its class
  | illFormed    -- the fields name a combination the member does not accept
  | ownCheck     -- only the member checks of R65 and R80 fail, which a guard that is false in every lane passes by (02 R41 step 3, 04 R71)
  deriving DecidableEq, Repr

/-- The fields of an instruction, as numbers (02 R22, R25): `len` is LEN, 0-3; a base word or a literal form has
the implied values of R23 in the fields it does not hold. -/
structure Fields where
  len : Nat := 2
  op : Nat := 0
  d : Nat := 0
  a : Nat := 0
  b : Nat := 0
  member : Nat := 0
  var : Nat := 0
  grd : Nat := 0
  c : Nat := 0
  ty : Nat := 0
  mod : Nat := 0
  xd : Nat := 0
  xa : Nat := 0
  xb : Nat := 0
  xc : Nat := 0
  nt : Nat := 0
  imm : Nat := 0
  lit : Nat := 0
  deriving DecidableEq, Repr

/-! ## Words (02 R20, R22, R25) -/

/-- The first word. -/
def Fields.word0 (f : Fields) : Nat := f.len + 4 * f.op + 2 ^ 8 * f.d + 2 ^ 16 * f.a + 2 ^ 24 * f.b

/-- The second word of an extended form. -/
def Fields.word1 (f : Fields) : Nat :=
  f.member + 2 ^ 6 * f.var + 2 ^ 8 * f.grd + 2 ^ 12 * f.c + 2 ^ 20 * f.ty + 2 ^ 24 * f.mod + 2 ^ 27 * f.xd +
    2 ^ 28 * f.xa + 2 ^ 29 * f.xb + 2 ^ 30 * f.xc + 2 ^ 31 * f.nt

/-- The words of the fields, by LEN. -/
def Fields.words (f : Fields) : List Nat :=
  match f.len with
  | 0 => [f.word0]
  | 1 => [f.word0, f.lit % 2 ^ 32, f.lit / 2 ^ 32]
  | 2 => [f.word0, f.word1, f.imm]
  | _ => [f.word0, f.word1, f.imm, f.lit % 2 ^ 32, f.lit / 2 ^ 32]

/-- The fields of a first word. -/
def Fields.ofWord0 (w : Nat) : Fields :=
  { len := w % 4, op := w / 4 % 64, d := w / 2 ^ 8 % 256, a := w / 2 ^ 16 % 256, b := w / 2 ^ 24 % 256 }

/-- The fields of a second and third word added. -/
def Fields.withExt (f : Fields) (w i : Nat) : Fields :=
  { f with
    member := w % 64, var := w / 2 ^ 6 % 4, grd := w / 2 ^ 8 % 16, c := w / 2 ^ 12 % 256, ty := w / 2 ^ 20 % 16,
    mod := w / 2 ^ 24 % 8, xd := w / 2 ^ 27 % 2, xa := w / 2 ^ 28 % 2, xb := w / 2 ^ 29 % 2, xc := w / 2 ^ 30 % 2,
    nt := w / 2 ^ 31 % 2, imm := i }

/-- The number of words LEN implies (02 R20). -/
def wordsOfLen (len : Nat) : Nat :=
  match len with
  | 0 => 1
  | 1 => 3
  | 2 => 3
  | _ => 5

/-- The fields of a list of words: the first word fixes how many are read (02 R20). -/
def Fields.ofWords : List Nat → Option Fields
  | [] => none
  | w0 :: rest =>
    match w0 % 4, rest with
    | 0, _ => some (Fields.ofWord0 w0)
    | 1, l0 :: l1 :: _ => some { Fields.ofWord0 w0 with lit := l0 + 2 ^ 32 * l1 }
    | 2, w1 :: i :: _ => some ((Fields.ofWord0 w0).withExt w1 i)
    | 3, w1 :: i :: l0 :: l1 :: _ => some { (Fields.ofWord0 w0).withExt w1 i with lit := l0 + 2 ^ 32 * l1 }
    | _, _ => none

/-- Little-endian words of a list of bytes; a last partial word is dropped (00 R5). -/
def wordsOfBytes : List Byte → List Nat
  | b0 :: b1 :: b2 :: b3 :: rest =>
    (b0.toNat + 2 ^ 8 * b1.toNat + 2 ^ 16 * b2.toNat + 2 ^ 24 * b3.toNat) :: wordsOfBytes rest
  | _ => []

/-- The four bytes of a word, lowest first. -/
def bytesOfWord (w : Nat) : List Byte :=
  [BitVec.ofNat 8 w, BitVec.ofNat 8 (w / 2 ^ 8), BitVec.ofNat 8 (w / 2 ^ 16), BitVec.ofNat 8 (w / 2 ^ 24)]

/-! ## The opcode map (02 R34-R38) -/

/-- The lengths each assigned OP accepts; none for an unassigned OP. -/
def opLens (op : Nat) : Option (List Nat) :=
  match op with
  | 0x01 | 0x02 | 0x03 | 0x08 | 0x0A | 0x0B | 0x0C | 0x10 | 0x1D | 0x1F => some [0, 1, 2, 3]
  | 0x04 | 0x13 | 0x1E | 0x20 | 0x21 | 0x36 | 0x3D => some [0, 2]
  | 0x05 => some [1, 3]
  | 0x09 | 0x11 | 0x18 | 0x1C | 0x22 | 0x26 | 0x29 => some [2, 3]
  | 0x12 | 0x14 | 0x23 | 0x24 | 0x25 | 0x28 | 0x2A | 0x2B | 0x2C | 0x30 | 0x31 | 0x32 | 0x33 | 0x34 | 0x35 | 0x38
  | 0x39 | 0x3A | 0x3B | 0x3C | 0x3E | 0x3F => some [2]
  | _ => none

/-- The code of an opcode's default type, 0 where the opcode map says zero or the member names none (02 R30).
TY 0 and this code have identical effect. -/
def defaultTy (op member : Nat) : Nat :=
  match op with
  | 0x01 | 0x02 | 0x03 | 0x04 | 0x05 => 4
  | 0x08 => if member = 13 then 7 else 3
  | 0x09 | 0x0A | 0x0B | 0x0C | 0x18 => 3
  | 0x10 | 0x11 | 0x13 => 11
  | 0x12 => if member = 2 then 0 else 11
  | 0x20 | 0x21 | 0x22 | 0x23 | 0x31 => 7
  | _ => 0

/-! ## Codes of the small enumerations -/

def Ty.code : Ty → Nat
  | .i8 => 1 | .i16 => 2 | .i32 => 3 | .i64 => 4 | .n8 => 5 | .n16 => 6 | .n32 => 7 | .n64 => 8
  | .f16 => 9 | .bf16 => 10 | .f32 => 11 | .f64 => 12 | .bfp => 13

def Ty.ofCode (n : Nat) : Ty :=
  match n with
  | 1 => .i8 | 2 => .i16 | 3 => .i32 | 4 => .i64 | 5 => .n8 | 6 => .n16 | 7 => .n32 | 8 => .n64
  | 9 => .f16 | 10 => .bf16 | 11 => .f32 | 12 => .f64 | _ => .bfp

def Guard.code : Guard → Nat
  | .none => 0
  | .pos p => p.val + 1
  | .neg p => p.val + 9

def Guard.ofCode (n : Nat) : Guard :=
  if n = 0 then .none else if n < 8 then .pos (Fin.ofNat 7 (n - 1)) else .neg (Fin.ofNat 7 (n - 9))

def Rm.code : Rm → Nat
  | .fmt => 0 | .rne => 1 | .rtz => 2 | .rup => 3 | .rdn => 4

def Rm.ofCode (n : Nat) : Rm :=
  match n with
  | 0 => .fmt | 1 => .rne | 2 => .rtz | 3 => .rup | _ => .rdn

def MemOrder.code : MemOrder → Nat
  | .plain => 0 | .acq => 1 | .rel => 2 | .ar => 3

def MemOrder.ofCode (n : Nat) : MemOrder :=
  match n with
  | 0 => .plain | 1 => .acq | 2 => .rel | _ => .ar

def Scope.code : Scope → Nat
  | .dflt => 0 | .grp => 1 | .gang => 2 | .core => 3 | .die => 4 | .dev => 5 | .sys => 6 | .recov => 7

def Scope.ofCode (n : Nat) : Scope :=
  match n with
  | 0 => .dflt | 1 => .grp | 2 => .gang | 3 => .core | 4 => .die | 5 => .dev | 6 => .sys | _ => .recov

def Cond.code : Cond → Nat
  | .eq => 0 | .ne => 1 | .lt => 2 | .le => 3 | .gt => 4 | .ge => 5 | .num => 6 | .nan => 7
  | .bad n => n.val + 8

def Cond.ofCode (n : Nat) : Cond :=
  match n with
  | 0 => .eq | 1 => .ne | 2 => .lt | 3 => .le | 4 => .gt | 5 => .ge | 6 => .num | 7 => .nan
  | n => .bad (Fin.ofNat 8 n)

def AtomOp.code : AtomOp → Nat
  | .add => 0 | .min => 1 | .max => 2 | .and => 3 | .or => 4 | .xor => 5 | .exch => 6 | .cas => 7 | .inc => 8
  | .dec => 9

def AtomOp.ofCode (n : Nat) : AtomOp :=
  match n with
  | 0 => .add | 1 => .min | 2 => .max | 3 => .and | 4 => .or | 5 => .xor | 6 => .exch | 7 => .cas | 8 => .inc
  | _ => .dec

def RedOp.code : RedOp → Nat
  | .add => 0 | .min => 1 | .max => 2 | .and => 3 | .or => 4 | .xor => 5

def RedOp.ofCode (n : Nat) : RedOp :=
  match n with
  | 0 => .add | 1 => .min | 2 => .max | 3 => .and | 4 => .or | _ => .xor

def ShflKind.code : ShflKind → Nat
  | .idx => 0 | .up => 1 | .down => 2 | .xor => 3

def ShflKind.ofCode (n : Nat) : ShflKind :=
  match n with
  | 0 => .idx | 1 => .up | 2 => .down | _ => .xor

def LMaskKind.code : LMaskKind → Nat
  | .eq => 0 | .lt => 1 | .le => 2 | .gt => 3 | .ge => 4 | .tile => 5 | .live => 6

def LMaskKind.ofCode (n : Nat) : LMaskKind :=
  match n with
  | 0 => .eq | 1 => .lt | 2 => .le | 3 => .gt | 4 => .ge | 5 => .tile | _ => .live

def CollKind.code : CollKind → Nat
  | .allreduce => 0 | .redscat => 1 | .allgather => 2 | .bcast => 3

def CollKind.ofCode (n : Nat) : CollKind :=
  match n with
  | 0 => .allreduce | 1 => .redscat | 2 => .allgather | _ => .bcast

def SpecReg.code : SpecReg → Nat
  | .laneid => 0 | .ordinal => 1 | .rank => 2 | .groupid => 3 | .gangid => 4 | .coreid => 5 | .dieid => 6
  | .clock => 7 | .exec => 8 | .dead => 9 | .splitcnt => 10 | .ucflag => 11 | .budget => 12 | .live => 13
  | .pending => 14

def SpecReg.ofCode (n : Nat) : SpecReg :=
  match n with
  | 0 => .laneid | 1 => .ordinal | 2 => .rank | 3 => .groupid | 4 => .gangid | 5 => .coreid | 6 => .dieid
  | 7 => .clock | 8 => .exec | 9 => .dead | 10 => .splitcnt | 11 => .ucflag | 12 => .budget | 13 => .live
  | _ => .pending

/-- The signed offsets and immediates of IMM32 as numbers. -/
def bit (b : Bool) : Nat := if b then 1 else 0

/-- Register fields: the value and its extension bit (02 R27). -/
def sField (r : SReg) : Nat := r.val % 256
def sX (r : SReg) : Nat := r.val / 256
def readS (n x : Nat) : SReg := Fin.ofNat 384 (n + 256 * x)
def vField (r : VOp) : Nat :=
  match r with
  | .v n => n.val
  | .k n => n.val
def vX (r : VOp) : Nat :=
  match r with
  | .v _ => 0
  | .k _ => 1
def readV (n x : Nat) : VOp := if x = 0 then .v (Fin.ofNat 256 n) else .k (Fin.ofNat 8 n)

/-- A uniform or per-lane source B: what LEN, B, XB and the literal become (02 R24). -/
def USrc.len : USrc → Nat
  | .reg _ => 2
  | .short _ => 1
  | .long _ => 3
def USrc.field : USrc → Nat
  | .reg r => sField r
  | _ => 0
def USrc.x : USrc → Nat
  | .reg r => sX r
  | _ => 0
def USrc.lit : USrc → Nat
  | .reg _ => 0
  | .short v | .long v => v.toNat
def readU (f : Fields) : USrc :=
  match f.len with
  | 1 => .short (BitVec.ofNat 64 f.lit)
  | 3 => .long (BitVec.ofNat 64 f.lit)
  | _ => .reg (readS f.b f.xb)
def VSrc.len : VSrc → Nat
  | .reg _ => 2
  | .short _ => 1
  | .long _ => 3
def VSrc.field : VSrc → Nat
  | .reg r => vField r
  | _ => 0
def VSrc.x : VSrc → Nat
  | .reg r => vX r
  | _ => 0
def VSrc.lit : VSrc → Nat
  | .reg _ => 0
  | .short v | .long v => v.toNat
def readVS (f : Fields) : VSrc :=
  match f.len with
  | 1 => .short (BitVec.ofNat 64 f.lit)
  | 3 => .long (BitVec.ofNat 64 f.lit)
  | _ => .reg (readV f.b f.xb)

/-- IMM32 of OP 0x20-0x24 (04 R65). -/
def memImm (ofs am sp aop ch : Nat) : Nat :=
  ofs + 2 ^ 20 * am + 2 ^ 23 * sp + 2 ^ 24 * aop + 2 ^ 28 * ch
def immOfs (i : Nat) : BitVec 20 := BitVec.ofNat 20 (i % 2 ^ 20)
def immAm (i : Nat) : Nat := i / 2 ^ 20 % 8
def immSp (i : Nat) : Nat := i / 2 ^ 23 % 2
def immAop (i : Nat) : Nat := i / 2 ^ 24 % 16
def immCh (i : Nat) : Nat := i / 2 ^ 28 % 4

/-- The fields of an address expression (04 R64, R66): A and XA, C and XC, the scaled offset, OFS and AM. -/
def AddrExp.a : AddrExp → Nat
  | .base a .. | .indexed a .. | .postinc a _ => sField a
  | .modulo m _ => m.val
  | .lane a .. => vField a
def AddrExp.xa : AddrExp → Nat
  | .base a .. | .indexed a .. | .postinc a _ => sX a
  | .modulo .. => 0
  | .lane a .. => vX a
def AddrExp.c : AddrExp → Nat
  | .indexed _ c _ _ => vField c
  | _ => 0
def AddrExp.xc : AddrExp → Nat
  | .indexed _ c _ _ => vX c
  | _ => 0
def AddrExp.scaled : AddrExp → Nat
  | .base _ _ n | .indexed _ _ _ n | .lane _ _ n => n.val
  | _ => 0
def AddrExp.ofs : AddrExp → Nat
  | .base _ o _ | .indexed _ _ o _ | .postinc _ o | .modulo _ o | .lane _ o _ => o.toNat
def AddrExp.am : AddrExp → Nat
  | .base .. => 0
  | .indexed .. => 1
  | .postinc .. => 2
  | .modulo .. => 3
  | .lane .. => 4
/-- The address expression of the fields, with the scaled offset given. -/
def readAddr (f : Fields) (scaled : Nat) : AddrExp :=
  match immAm f.imm with
  | 0 => .base (readS f.a f.xa) (immOfs f.imm) (Fin.ofNat 256 scaled)
  | 1 => .indexed (readS f.a f.xa) (readV f.c f.xc) (immOfs f.imm) (Fin.ofNat 256 scaled)
  | 2 => .postinc (readS f.a f.xa) (immOfs f.imm)
  | 3 => .modulo (Fin.ofNat 8 f.a) (immOfs f.imm)
  | _ => .lane (readV f.a f.xa) (immOfs f.imm) (Fin.ofNat 256 scaled)

/-- The membership mask of IMM32 (10 R196): MREG in bits 8:0, MALL in bit 9. -/
def MaskSrc.imm : MaskSrc → Nat
  | .all => 2 ^ 9
  | .reg r => r.val
def readMask (i : Nat) : MaskSrc := if i / 2 ^ 9 % 2 = 1 then .all else .reg (Fin.ofNat 384 (i % 2 ^ 9))

/-- The block width: TY and MOD (02 R31). -/
def Width.ty : Width → Nat
  | .fmt => 0
  | .bfp _ => 13
def Width.mod : Width → Nat
  | .fmt => 0
  | .bfp k => k.val + 1
def readWidth (f : Fields) : Width := if f.ty = 0 then .fmt else .bfp (Fin.ofNat 7 (f.mod - 1))

/-- An optional sync word in C, with its SW bit (05 R104). -/
def optC (r : Option SReg) : Nat :=
  match r with
  | some r => sField r
  | none => 0
def optXC (r : Option SReg) : Nat :=
  match r with
  | some r => sX r
  | none => 0
def optSw (r : Option SReg) : Nat :=
  match r with
  | some _ => 1
  | none => 0
def readSw (f : Fields) (sw : Nat) : Option SReg := if sw = 1 then some (readS f.c f.xc) else none

/-! ## The fields of each operand record, and the record of the fields -/


/-- MOD of REDUX and SCAN. -/
def RedMod.code : RedMod → Nat
  | .zero => 0
  | .sat => 1
  | .rm r => r.code
def readRedMod (f : Fields) : RedMod :=
  match f.mod with
  | 0 => .zero
  | m => if f.ty = 11 then .rm (Rm.ofCode m) else .sat

/-- The target of JMP and CALL: LEN, B, XB, US and the literal (13 R246). -/
def Target.len : Target → Nat
  | .lit _ => 3
  | _ => 2
def Target.field : Target → Nat
  | .pair v => vField v
  | .sreg s => sField s
  | .lit _ => 0
def Target.x : Target → Nat
  | .pair v => vX v
  | .sreg s => sX s
  | .lit _ => 0
def Target.us : Target → Nat
  | .sreg _ => 1
  | _ => 0
def Target.litVal : Target → Nat
  | .lit w => w.toNat
  | _ => 0
def readTarget (f : Fields) : Target :=
  if f.len = 3 then .lit (BitVec.ofNat 64 f.lit)
  else if f.imm = 1 then .sreg (readS f.b f.xb) else .pair (readV f.b f.xb)

def Base3.fields (x : Base3) : Fields :=
  { len := 0, d := x.d.val, a := x.a.val, b := x.b.val }
def Base3.read (f : Fields) : Base3 :=
  { d := Fin.ofNat 256 f.d, a := Fin.ofNat 256 f.a, b := Fin.ofNat 256 f.b }

def UBin.fields (x : UBin) : Fields :=
  { len := x.b.len, b := x.b.field, xb := x.b.x, lit := x.b.lit, ty := x.ty.code, mod := bit x.sat,
    d := sField x.d, xd := sX x.d, a := sField x.a, xa := sX x.a }
def UBin.read (f : Fields) : UBin :=
  { ty := Ty.ofCode f.ty, sat := f.mod == 1, d := readS f.d f.xd, a := readS f.a f.xa, b := readU f }

def USet.fields (x : USet) : Fields :=
  { len := x.b.len, b := x.b.field, xb := x.b.x, lit := x.b.lit, ty := x.ty.code, d := x.d.val,
    imm := x.cc.code, a := sField x.a, xa := sX x.a }
def USet.read (f : Fields) : USet :=
  { cc := Cond.ofCode f.imm, ty := Ty.ofCode f.ty, d := Fin.ofNat 4 f.d, a := readS f.a f.xa, b := readU f }

def USel.fields (x : USel) : Fields :=
  { len := x.b.len, b := x.b.field, xb := x.b.x, lit := x.b.lit, ty := 4, c := x.c.val, d := sField x.d,
    xd := sX x.d, a := sField x.a, xa := sX x.a }
def USel.read (f : Fields) : USel :=
  { d := readS f.d f.xd, a := readS f.a f.xa, b := readU f, c := Fin.ofNat 4 f.c }

def UUn.fields (x : UUn) : Fields :=
  { ty := x.ty.code, d := sField x.d, xd := sX x.d, a := sField x.a, xa := sX x.a }
def UUn.read (f : Fields) : UUn :=
  { ty := Ty.ofCode f.ty, d := readS f.d f.xd, a := readS f.a f.xa }

def UBfx.fields (x : UBfx) : Fields :=
  { ty := x.ty.code, d := sField x.d, xd := sX x.d, a := sField x.a, xa := sX x.a,
    imm := x.pos.val + 2 ^ 8 * x.len.val }
def UBfx.read (f : Fields) : UBfx :=
  { ty := Ty.ofCode f.ty, d := readS f.d f.xd, a := readS f.a f.xa, pos := Fin.ofNat 128 (f.imm % 2 ^ 7),
    len := Fin.ofNat 128 (f.imm / 2 ^ 8 % 2 ^ 7) }

def UBfi.fields (x : UBfi) : Fields :=
  { len := x.b.len, b := x.b.field, xb := x.b.x, lit := x.b.lit, ty := x.ty.code, d := sField x.d,
    xd := sX x.d, a := sField x.a, xa := sX x.a, imm := x.pos.val + 2 ^ 8 * x.len.val }
def UBfi.read (f : Fields) : UBfi :=
  { ty := Ty.ofCode f.ty, d := readS f.d f.xd, a := readS f.a f.xa, b := readU f,
    pos := Fin.ofNat 128 (f.imm % 2 ^ 7), len := Fin.ofNat 128 (f.imm / 2 ^ 8 % 2 ^ 7) }

def BaseDB.fields (x : BaseDB) : Fields :=
  { len := 0, d := x.d.val, b := x.b.val }
def BaseDB.read (f : Fields) : BaseDB :=
  { d := Fin.ofNat 256 f.d, b := Fin.ofNat 256 f.b }

def UMov.fields (x : UMov) : Fields :=
  { ty := 4, d := sField x.d, xd := sX x.d, b := sField x.b, xb := sX x.b }
def UMov.read (f : Fields) : UMov :=
  { d := readS f.d f.xd, b := readS f.b f.xb }

def ULit.fields (x : ULit) : Fields :=
  { len := if x.long then 3 else 1, ty := 4, lit := x.lit.toNat, d := sField x.d, xd := sX x.d }
def ULit.read (f : Fields) : ULit :=
  { d := readS f.d f.xd, lit := BitVec.ofNat 64 f.lit, long := f.len == 3 }

def VBin.fields (x : VBin) : Fields :=
  { len := x.b.len, b := x.b.field, xb := x.b.x, lit := x.b.lit, grd := x.g.code, ty := x.ty.code,
    mod := bit x.sat, d := vField x.d, xd := vX x.d, a := vField x.a, xa := vX x.a }
def VBin.read (f : Fields) : VBin :=
  { g := Guard.ofCode f.grd, ty := Ty.ofCode f.ty, sat := f.mod == 1, d := readV f.d f.xd,
    a := readV f.a f.xa, b := readVS f }

def VUn.fields (x : VUn) : Fields :=
  { grd := x.g.code, ty := x.ty.code, mod := bit x.sat, d := vField x.d, xd := vX x.d, a := vField x.a,
    xa := vX x.a }
def VUn.read (f : Fields) : VUn :=
  { g := Guard.ofCode f.grd, ty := Ty.ofCode f.ty, sat := f.mod == 1, d := readV f.d f.xd,
    a := readV f.a f.xa }

def VSetI.fields (x : VSetI) : Fields :=
  { len := x.b.len, b := x.b.field, xb := x.b.x, lit := x.b.lit, grd := x.g.code, ty := x.ty.code,
    d := x.d.val, imm := x.cc.code, a := vField x.a, xa := vX x.a }
def VSetI.read (f : Fields) : VSetI :=
  { g := Guard.ofCode f.grd, cc := Cond.ofCode f.imm, ty := Ty.ofCode f.ty, d := Fin.ofNat 8 f.d,
    a := readV f.a f.xa, b := readVS f }

def VPredI.fields (x : VPredI) : Fields :=
  { len := x.b.len, b := x.b.field, xb := x.b.x, lit := x.b.lit, grd := x.g.code, ty := x.ty.code,
    c := x.c.val, d := vField x.d, xd := vX x.d, a := vField x.a, xa := vX x.a }
def VPredI.read (f : Fields) : VPredI :=
  { g := Guard.ofCode f.grd, ty := Ty.ofCode f.ty, d := readV f.d f.xd, a := readV f.a f.xa, b := readVS f,
    c := Fin.ofNat 8 f.c }

def VBfx.fields (x : VBfx) : Fields :=
  { grd := x.g.code, ty := x.ty.code, d := vField x.d, xd := vX x.d, a := vField x.a, xa := vX x.a,
    imm := x.pos.val + 2 ^ 8 * x.len.val }
def VBfx.read (f : Fields) : VBfx :=
  { g := Guard.ofCode f.grd, ty := Ty.ofCode f.ty, d := readV f.d f.xd, a := readV f.a f.xa,
    pos := Fin.ofNat 128 (f.imm % 2 ^ 7), len := Fin.ofNat 128 (f.imm / 2 ^ 8 % 2 ^ 7) }

def VBfi.fields (x : VBfi) : Fields :=
  { len := x.b.len, b := x.b.field, xb := x.b.x, lit := x.b.lit, grd := x.g.code, ty := x.ty.code,
    d := vField x.d, xd := vX x.d, a := vField x.a, xa := vX x.a, imm := x.pos.val + 2 ^ 8 * x.len.val }
def VBfi.read (f : Fields) : VBfi :=
  { g := Guard.ofCode f.grd, ty := Ty.ofCode f.ty, d := readV f.d f.xd, a := readV f.a f.xa, b := readVS f,
    pos := Fin.ofNat 128 (f.imm % 2 ^ 7), len := Fin.ofNat 128 (f.imm / 2 ^ 8 % 2 ^ 7) }

def VIdxI.fields (x : VIdxI) : Fields :=
  { len := x.b.len, b := x.b.field, xb := x.b.x, lit := x.b.lit, grd := x.g.code, ty := x.ty.code,
    d := vField x.d, xd := vX x.d, a := sField x.a, xa := sX x.a }
def VIdxI.read (f : Fields) : VIdxI :=
  { g := Guard.ofCode f.grd, ty := Ty.ofCode f.ty, d := readV f.d f.xd, a := readS f.a f.xa, b := readU f }

def VTri.fields (x : VTri) : Fields :=
  { len := x.b.len, b := x.b.field, xb := x.b.x, lit := x.b.lit, grd := x.g.code, ty := x.ty.code,
    mod := bit x.sat, d := vField x.d, xd := vX x.d, a := vField x.a, xa := vX x.a, c := vField x.c,
    xc := vX x.c }
def VTri.read (f : Fields) : VTri :=
  { g := Guard.ofCode f.grd, ty := Ty.ofCode f.ty, sat := f.mod == 1, d := readV f.d f.xd,
    a := readV f.a f.xa, b := readVS f, c := readV f.c f.xc }

def VMovI.fields (x : VMovI) : Fields :=
  { len := x.b.len, b := x.b.field, xb := x.b.x, lit := x.b.lit, grd := x.g.code, ty := x.ty.code,
    d := vField x.d, xd := vX x.d }
def VMovI.read (f : Fields) : VMovI :=
  { g := Guard.ofCode f.grd, ty := Ty.ofCode f.ty, d := readV f.d f.xd, b := readVS f }

def FBin.fields (x : FBin) : Fields :=
  { len := x.b.len, b := x.b.field, xb := x.b.x, lit := x.b.lit, grd := x.g.code, ty := x.ty.code,
    mod := x.rm.code, d := vField x.d, xd := vX x.d, a := vField x.a, xa := vX x.a }
def FBin.read (f : Fields) : FBin :=
  { g := Guard.ofCode f.grd, ty := Ty.ofCode f.ty, rm := Rm.ofCode f.mod, d := readV f.d f.xd,
    a := readV f.a f.xa, b := readVS f }

def FUn.fields (x : FUn) : Fields :=
  { grd := x.g.code, ty := x.ty.code, mod := x.rm.code, d := vField x.d, xd := vX x.d, a := vField x.a,
    xa := vX x.a }
def FUn.read (f : Fields) : FUn :=
  { g := Guard.ofCode f.grd, ty := Ty.ofCode f.ty, rm := Rm.ofCode f.mod, d := readV f.d f.xd,
    a := readV f.a f.xa }

def FTri.fields (x : FTri) : Fields :=
  { len := x.b.len, b := x.b.field, xb := x.b.x, lit := x.b.lit, grd := x.g.code, ty := x.ty.code,
    mod := x.rm.code, d := vField x.d, xd := vX x.d, a := vField x.a, xa := vX x.a, c := vField x.c,
    xc := vX x.c }
def FTri.read (f : Fields) : FTri :=
  { g := Guard.ofCode f.grd, ty := Ty.ofCode f.ty, rm := Rm.ofCode f.mod, d := readV f.d f.xd,
    a := readV f.a f.xa, b := readVS f, c := readV f.c f.xc }

def FCvtI.fields (x : FCvtI) : Fields :=
  { grd := x.g.code, ty := x.dty.code, imm := x.sty.val, mod := x.rm.code, d := vField x.d, xd := vX x.d,
    a := vField x.a, xa := vX x.a }
def FCvtI.read (f : Fields) : FCvtI :=
  { g := Guard.ofCode f.grd, dty := Ty.ofCode f.ty, sty := Fin.ofNat 16 f.imm, rm := Rm.ofCode f.mod,
    d := readV f.d f.xd, a := readV f.a f.xa }

def BCvtI.fields (x : BCvtI) : Fields :=
  { ty := 13, mod := x.w2.val + 1, d := vField x.d, xd := vX x.d, a := vField x.a, xa := vX x.a,
    c := sField x.c, xc := sX x.c }
def BCvtI.read (f : Fields) : BCvtI :=
  { w2 := Fin.ofNat 7 (f.mod - 1), d := readV f.d f.xd, a := readV f.a f.xa, c := readS f.c f.xc }

def BaseDA.fields (x : BaseDA) : Fields :=
  { len := 0, d := x.d.val, a := x.a.val }
def BaseDA.read (f : Fields) : BaseDA :=
  { d := Fin.ofNat 256 f.d, a := Fin.ofNat 256 f.a }

def VRngI.fields (x : VRngI) : Fields :=
  { grd := x.g.code, d := vField x.d, xd := vX x.d, a := sField x.a, xa := sX x.a, b := vField x.b,
    xb := vX x.b }
def VRngI.read (f : Fields) : VRngI :=
  { g := Guard.ofCode f.grd, d := readV f.d f.xd, a := readS f.a f.xa, b := readV f.b f.xb }

def ShflI.fields (x : ShflI) : Fields :=
  { len := x.b.len, b := x.b.field, xb := x.b.x, lit := x.b.lit, var := x.kind.code, c := x.c.val,
    ty := x.ty.code, d := vField x.d, xd := vX x.d, a := vField x.a, xa := vX x.a, imm := x.mask.imm }
def ShflI.read (f : Fields) : ShflI :=
  { kind := ShflKind.ofCode f.var, ty := Ty.ofCode f.ty, d := readV f.d f.xd, a := readV f.a f.xa,
    b := readVS f, c := Fin.ofNat 8 f.c, mask := readMask f.imm }

def ReduxI.fields (x : ReduxI) : Fields :=
  { ty := x.ty.code, mod := x.mod.code, imm := x.mask.imm + 2 ^ 10 * x.op.code, d := vField x.d, xd := vX x.d,
    a := vField x.a, xa := vX x.a }
def ReduxI.read (f : Fields) : ReduxI :=
  { op := RedOp.ofCode (f.imm / 2 ^ 10 % 2 ^ 4), ty := Ty.ofCode f.ty, mod := readRedMod f,
    d := readV f.d f.xd, a := readV f.a f.xa, mask := readMask f.imm }

def ScanI.fields (x : ScanI) : Fields :=
  { ty := x.ty.code, mod := x.mod.code, imm := x.mask.imm + 2 ^ 10 * x.op.code + 2 ^ 14 * bit x.excl,
    d := vField x.d, xd := vX x.d, a := vField x.a, xa := vX x.a }
def ScanI.read (f : Fields) : ScanI :=
  { op := RedOp.ofCode (f.imm / 2 ^ 10 % 2 ^ 4), excl := f.imm / 2 ^ 14 % 2 == 1, ty := Ty.ofCode f.ty,
    mod := readRedMod f, d := readV f.d f.xd, a := readV f.a f.xa, mask := readMask f.imm }

def FfsI.fields (x : FfsI) : Fields :=
  { ty := x.ty.code, d := vField x.d, xd := vX x.d, a := vField x.a, xa := vX x.a }
def FfsI.read (f : Fields) : FfsI :=
  { ty := Ty.ofCode f.ty, d := readV f.d f.xd, a := readV f.a f.xa }

def SetPartI.fields (x : SetPartI) : Fields :=
  { ty := 3, imm := x.tlog.val }
def SetPartI.read (f : Fields) : SetPartI :=
  { tlog := Fin.ofNat 8 f.imm }

def LMaskI.fields (x : LMaskI) : Fields :=
  { ty := 3, imm := x.kind.code, d := vField x.d, xd := vX x.d }
def LMaskI.read (f : Fields) : LMaskI :=
  { kind := LMaskKind.ofCode f.imm, d := readV f.d f.xd }

def BraI.fields (x : BraI) : Fields :=
  { imm := x.ofs.toNat }
def BraI.read (f : Fields) : BraI :=
  { ofs := BitVec.ofNat 32 f.imm }

def BrcI.fields (x : BrcI) : Fields :=
  { d := bit x.neg, a := x.p.val, imm := x.ofs.toNat }
def BrcI.read (f : Fields) : BrcI :=
  { neg := f.d == 1, p := Fin.ofNat 8 f.a, ofs := BitVec.ofNat 32 f.imm }

def UBrcI.fields (x : UBrcI) : Fields :=
  { d := bit x.neg, a := x.p.val, imm := x.ofs.toNat }
def UBrcI.read (f : Fields) : UBrcI :=
  { neg := f.d == 1, p := Fin.ofNat 4 f.a, ofs := BitVec.ofNat 32 f.imm }

def JmpI.fields (x : JmpI) : Fields :=
  { len := x.target.len, b := x.target.field, xb := x.target.x, imm := x.target.us, lit := x.target.litVal }
def JmpI.read (f : Fields) : JmpI :=
  { target := readTarget f }

def CallI.fields (x : CallI) : Fields :=
  { d := vField x.link, xd := vX x.link, len := x.target.len, b := x.target.field, xb := x.target.x,
    imm := x.target.us, lit := x.target.litVal }
def CallI.read (f : Fields) : CallI :=
  { link := readV f.d f.xd, target := readTarget f }

def RetI.fields (x : RetI) : Fields :=
  { a := vField x.a, xa := vX x.a }
def RetI.read (f : Fields) : RetI :=
  { a := readV f.a f.xa }

def BecomeI.fields (x : BecomeI) : Fields :=
  { len := x.b.len, b := x.b.field, xb := x.b.x, lit := x.b.lit, d := x.carry.val }
def BecomeI.read (f : Fields) : BecomeI :=
  { carry := Fin.ofNat 256 f.d, b := readVS f }

def SyncI.fields (x : SyncI) : Fields :=
  { imm := x.mask.imm }
def SyncI.read (f : Fields) : SyncI :=
  { mask := readMask f.imm }

def BaseB.fields (x : BaseB) : Fields :=
  { len := 0, b := x.b.val }
def BaseB.read (f : Fields) : BaseB :=
  { b := Fin.ofNat 256 f.b }

def SetFmtI.fields (x : SetFmtI) : Fields :=
  { len := x.b.len, b := x.b.field, xb := x.b.x, lit := x.b.lit }
def SetFmtI.read (f : Fields) : SetFmtI :=
  { b := readU f }

def DstS.fields (x : DstS) : Fields :=
  { d := sField x.d, xd := sX x.d }
def DstS.read (f : Fields) : DstS :=
  { d := readS f.d f.xd }

def SetPrioI.fields (x : SetPrioI) : Fields :=
  { imm := x.n.val }
def SetPrioI.read (f : Fields) : SetPrioI :=
  { n := Fin.ofNat 4 f.imm }

def LdI.fields (x : LdI) : Fields :=
  { grd := x.g.code, ty := x.ty.code, var := x.ord.code, mod := x.scope.code, d := vField x.d, xd := vX x.d,
    a := x.addr.a, xa := x.addr.xa, c := x.addr.c, xc := x.addr.xc, b := x.addr.scaled,
    imm := memImm x.addr.ofs x.addr.am (bit x.sp) (0) (0), nt := bit x.nt }
def LdI.read (f : Fields) : LdI :=
  { g := Guard.ofCode f.grd, ty := Ty.ofCode f.ty, ord := MemOrder.ofCode f.var, scope := Scope.ofCode f.mod,
    d := readV f.d f.xd, addr := readAddr f f.b, sp := immSp f.imm == 1, nt := f.nt == 1 }

def LdUI.fields (x : LdUI) : Fields :=
  { ty := x.ty.code, var := x.ord.code, mod := x.scope.code, d := sField x.d, xd := sX x.d, a := x.addr.a,
    xa := x.addr.xa, c := x.addr.c, xc := x.addr.xc, b := x.addr.scaled,
    imm := memImm x.addr.ofs x.addr.am (bit x.sp) (0) (0), nt := bit x.nt }
def LdUI.read (f : Fields) : LdUI :=
  { ty := Ty.ofCode f.ty, ord := MemOrder.ofCode f.var, scope := Scope.ofCode f.mod, d := readS f.d f.xd,
    addr := readAddr f f.b, sp := immSp f.imm == 1, nt := f.nt == 1 }

def AtomI.fields (x : AtomI) : Fields :=
  { len := x.b.len, b := x.b.field, xb := x.b.x, lit := x.b.lit, grd := x.g.code, ty := x.ty.code,
    var := x.ord.code, mod := x.scope.code, d := vField x.d, xd := vX x.d, a := x.addr.a, xa := x.addr.xa,
    c := x.addr.c, xc := x.addr.xc, imm := memImm x.addr.ofs x.addr.am (bit x.sp) (x.op.code) (0),
    nt := bit x.nt }
def AtomI.read (f : Fields) : AtomI :=
  { g := Guard.ofCode f.grd, op := AtomOp.ofCode (immAop f.imm), ty := Ty.ofCode f.ty,
    ord := MemOrder.ofCode f.var, scope := Scope.ofCode f.mod, d := readV f.d f.xd, addr := readAddr f 0,
    sp := immSp f.imm == 1, b := readVS f, nt := f.nt == 1 }

def AtomUI.fields (x : AtomUI) : Fields :=
  { len := x.b.len, b := x.b.field, xb := x.b.x, lit := x.b.lit, ty := x.ty.code, var := x.ord.code,
    mod := x.scope.code, d := sField x.d, xd := sX x.d, a := x.addr.a, xa := x.addr.xa, c := x.addr.c,
    xc := x.addr.xc, imm := memImm x.addr.ofs x.addr.am (bit x.sp) (x.op.code) (0), nt := bit x.nt }
def AtomUI.read (f : Fields) : AtomUI :=
  { op := AtomOp.ofCode (immAop f.imm), ty := Ty.ofCode f.ty, ord := MemOrder.ofCode f.var,
    scope := Scope.ofCode f.mod, d := readS f.d f.xd, addr := readAddr f 0, sp := immSp f.imm == 1,
    b := readU f, nt := f.nt == 1 }

def RedI.fields (x : RedI) : Fields :=
  { len := x.b.len, b := x.b.field, xb := x.b.x, lit := x.b.lit, grd := x.g.code, ty := x.ty.code,
    var := x.ord.code, mod := x.scope.code, a := x.addr.a, xa := x.addr.xa, c := x.addr.c, xc := x.addr.xc,
    imm := memImm x.addr.ofs x.addr.am (bit x.sp) (x.op.code) (0), nt := bit x.nt }
def RedI.read (f : Fields) : RedI :=
  { g := Guard.ofCode f.grd, op := AtomOp.ofCode (immAop f.imm), ty := Ty.ofCode f.ty,
    ord := MemOrder.ofCode f.var, scope := Scope.ofCode f.mod, addr := readAddr f 0, sp := immSp f.imm == 1,
    b := readVS f, nt := f.nt == 1 }

def OAppI.fields (x : OAppI) : Fields :=
  { ty := x.ty.code, d := vField x.d, xd := vX x.d, a := sField x.a, xa := sX x.a,
    imm := memImm x.ofs.toNat 0 0 0 x.ch.val, nt := bit x.nt }
def OAppI.read (f : Fields) : OAppI :=
  { ty := Ty.ofCode f.ty, ch := Fin.ofNat 4 (immCh f.imm), d := readV f.d f.xd, a := readS f.a f.xa,
    ofs := immOfs f.imm, nt := f.nt == 1 }

def LineI.fields (x : LineI) : Fields :=
  { grd := x.g.code, mod := x.scope.code, a := x.addr.a, xa := x.addr.xa, c := x.addr.c, xc := x.addr.xc,
    b := x.addr.scaled, imm := memImm x.addr.ofs x.addr.am 0 0 0, nt := bit x.nt }
def LineI.read (f : Fields) : LineI :=
  { g := Guard.ofCode f.grd, scope := Scope.ofCode f.mod, addr := readAddr f f.b, nt := f.nt == 1 }

def FenceI.fields (x : FenceI) : Fields :=
  { var := x.ord.code, mod := x.scope.code }
def FenceI.read (f : Fields) : FenceI :=
  { ord := MemOrder.ofCode f.var, scope := Scope.ofCode f.mod }

def SetModI.fields (x : SetModI) : Fields :=
  { len := x.b.len, b := x.b.field, xb := x.b.x, lit := x.b.lit, d := x.d.val, imm := x.idx.toNat,
    a := sField x.a, xa := sX x.a }
def SetModI.read (f : Fields) : SetModI :=
  { d := Fin.ofNat 8 f.d, a := readS f.a f.xa, b := readU f, idx := BitVec.ofNat 32 f.imm }

def StMapI.fields (x : StMapI) : Fields :=
  { d := sField x.d, xd := sX x.d, a := sField x.a, xa := sX x.a, imm := bit x.wr }
def StMapI.read (f : Fields) : StMapI :=
  { d := readS f.d f.xd, a := readS f.a f.xa, wr := f.imm == 1 }

def SwInitI.fields (x : SwInitI) : Fields :=
  { len := x.b.len, b := x.b.field, xb := x.b.x, lit := x.b.lit, a := sField x.a, xa := sX x.a,
    imm := bit x.keep }
def SwInitI.read (f : Fields) : SwInitI :=
  { a := readS f.a f.xa, b := readU f, keep := f.imm == 1 }

def SwI.fields (x : SwI) : Fields :=
  { len := x.b.len, b := x.b.field, xb := x.b.x, lit := x.b.lit, a := sField x.a, xa := sX x.a }
def SwI.read (f : Fields) : SwI :=
  { a := readS f.a f.xa, b := readU f }

def SwWaitI.fields (x : SwWaitI) : Fields :=
  { len := x.b.len, b := x.b.field, xb := x.b.x, lit := x.b.lit, a := sField x.a, xa := sX x.a, d := x.d.val,
    imm := bit x.try_ }
def SwWaitI.read (f : Fields) : SwWaitI :=
  { d := Fin.ofNat 4 f.d, a := readS f.a f.xa, b := readU f, try_ := f.imm == 1 }

def WaitI.fields (x : WaitI) : Fields :=
  { imm := x.ld.val + 2 ^ 6 * x.st.val + 2 ^ 12 * x.cp.val + 2 ^ 18 * x.tl.val }
def WaitI.read (f : Fields) : WaitI :=
  { ld := Fin.ofNat 64 (f.imm % 2 ^ 6), st := Fin.ofNat 64 (f.imm / 2 ^ 6 % 2 ^ 6),
    cp := Fin.ofNat 64 (f.imm / 2 ^ 12 % 2 ^ 6), tl := Fin.ofNat 64 (f.imm / 2 ^ 18 % 2 ^ 6) }

def LdtI.fields (x : LdtI) : Fields :=
  { d := x.d.val, imm := x.n1.val + 2 ^ 4 * optSw x.sw, a := sField x.a, xa := sX x.a, b := sField x.b,
    xb := sX x.b, c := optC x.sw, xc := optXC x.sw }
def LdtI.read (f : Fields) : LdtI :=
  { d := Fin.ofNat 16 f.d, a := readS f.a f.xa, b := readS f.b f.xb, sw := readSw f (f.imm / 2 ^ 4 % 2),
    n1 := Fin.ofNat 16 (f.imm % 2 ^ 4) }

def SttI.fields (x : SttI) : Fields :=
  { d := x.d.val, imm := x.n1.val, a := sField x.a, xa := sX x.a, b := sField x.b, xb := sX x.b }
def SttI.read (f : Fields) : SttI :=
  { d := Fin.ofNat 16 f.d, a := readS f.a f.xa, b := readS f.b f.xb, n1 := Fin.ofNat 16 f.imm }

def CqCfgI.fields (x : CqCfgI) : Fields :=
  { d := x.k.val, xd := 1, a := x.a.val, imm := x.depth.val }
def CqCfgI.read (f : Fields) : CqCfgI :=
  { k := Fin.ofNat 8 f.d, a := Fin.ofNat 256 f.a, depth := Fin.ofNat 16 f.imm }

def CopyI.fields (x : CopyI) : Fields :=
  { d := sField x.d, xd := sX x.d, a := sField x.a, xa := sX x.a, b := sField x.b, xb := sX x.b,
    c := optC x.sw, xc := optXC x.sw, imm := bit x.dv + 2 * bit x.av + 4 * optSw x.sw, nt := bit x.nt }
def CopyI.read (f : Fields) : CopyI :=
  { dv := f.imm % 2 == 1, av := f.imm / 2 % 2 == 1, d := readS f.d f.xd, a := readS f.a f.xa,
    b := readS f.b f.xb, sw := readSw f (f.imm / 4 % 2), nt := f.nt == 1 }

def GatherI.fields (x : GatherI) : Fields :=
  { ty := x.ty.code, d := sField x.d, xd := sX x.d, a := sField x.a, xa := sX x.a, b := sField x.b,
    xb := sX x.b, c := optC x.sw, xc := optXC x.sw, imm := 2 ^ 4 * optSw x.sw, nt := bit x.nt }
def GatherI.read (f : Fields) : GatherI :=
  { ty := Ty.ofCode f.ty, d := readS f.d f.xd, a := readS f.a f.xa, b := readS f.b f.xb,
    sw := readSw f (f.imm / 2 ^ 4 % 2), nt := f.nt == 1 }

def ScatterI.fields (x : ScatterI) : Fields :=
  { ty := x.ty.code, d := sField x.d, xd := sX x.d, a := sField x.a, xa := sX x.a, b := sField x.b,
    xb := sX x.b, nt := bit x.nt }
def ScatterI.read (f : Fields) : ScatterI :=
  { ty := Ty.ofCode f.ty, d := readS f.d f.xd, a := readS f.a f.xa, b := readS f.b f.xb, nt := f.nt == 1 }

def ScatAddI.fields (x : ScatAddI) : Fields :=
  { ty := x.ty.code, d := sField x.d, xd := sX x.d, a := sField x.a, xa := sX x.a, b := sField x.b,
    xb := sX x.b, imm := x.op.code, nt := bit x.nt }
def ScatAddI.read (f : Fields) : ScatAddI :=
  { op := RedOp.ofCode f.imm, ty := Ty.ofCode f.ty, d := readS f.d f.xd, a := readS f.a f.xa,
    b := readS f.b f.xb, nt := f.nt == 1 }

def StrCfgI.fields (x : StrCfgI) : Fields :=
  { d := x.d.val, a := sField x.a, xa := sX x.a, b := x.e.val, nt := bit x.nt }
def StrCfgI.read (f : Fields) : StrCfgI :=
  { d := Fin.ofNat 4 f.d, a := readS f.a f.xa, e := Fin.ofNat 4 f.b, nt := f.nt == 1 }

def StrGoI.fields (x : StrGoI) : Fields :=
  { b := x.e.val, nt := bit x.nt }
def StrGoI.read (f : Fields) : StrGoI :=
  { e := Fin.ofNat 4 f.b, nt := f.nt == 1 }

def StrHaltI.fields (x : StrHaltI) : Fields :=
  { b := x.e.val, imm := bit x.rel, nt := bit x.nt }
def StrHaltI.read (f : Fields) : StrHaltI :=
  { e := Fin.ofNat 4 f.b, rel := f.imm == 1, nt := f.nt == 1 }

def SpBindI.fields (x : SpBindI) : Fields :=
  { d := x.q.val
    b := match x.e with
      | some e => e.val
      | none => 0
    imm := match x.e with
      | some _ => 0
      | none => 1
    nt := bit x.nt }
def SpBindI.read (f : Fields) : SpBindI :=
  { q := Fin.ofNat 8 f.d, e := if f.imm = 1 then none else some (Fin.ofNat 4 f.b), nt := f.nt == 1 }

def SlotSigI.fields (x : SlotSigI) : Fields :=
  { b := x.e.val, imm := x.n.val, nt := bit x.nt }
def SlotSigI.read (f : Fields) : SlotSigI :=
  { e := Fin.ofNat 4 f.b, n := Fin.ofNat 128 f.imm, nt := f.nt == 1 }

def CollI.fields (x : CollI) : Fields :=
  { ty := x.ty.code, d := sField x.d, xd := sX x.d, a := sField x.a, xa := sX x.a, b := sField x.b,
    xb := sX x.b, c := sField x.c, xc := sX x.c, imm := x.kind.code + 2 ^ 4 * x.op.code, nt := bit x.nt }
def CollI.read (f : Fields) : CollI :=
  { kind := CollKind.ofCode (f.imm % 2 ^ 4), op := RedOp.ofCode (f.imm / 2 ^ 4 % 2 ^ 4), ty := Ty.ofCode f.ty,
    d := readS f.d f.xd, a := readS f.a f.xa, b := readS f.b f.xb, c := readS f.c f.xc, nt := f.nt == 1 }

def MResI.fields (x : MResI) : Fields :=
  { d := x.d.val, imm := x.nm.val + 2 ^ 8 * x.nk.val }
def MResI.read (f : Fields) : MResI :=
  { d := Fin.ofNat 4 f.d, nm := Fin.ofNat 64 (f.imm % 2 ^ 6), nk := Fin.ofNat 16 (f.imm / 2 ^ 8 % 2 ^ 4) }

def MldbI.fields (x : MldbI) : Fields :=
  { ty := x.w.ty, mod := x.w.mod, d := x.mould.val, a := sField x.a, xa := sX x.a, b := sField x.b,
    xb := sX x.b }
def MldbI.read (f : Fields) : MldbI :=
  { w := readWidth f, mould := Fin.ofNat 32 f.d, a := readS f.a f.xa, b := readS f.b f.xb }

def MMulI.fields (x : MMulI) : Fields :=
  { ty := x.w.ty, mod := x.w.mod, d := x.d.val, b := x.first.val, imm := x.nm1.val + 2 ^ 8 * x.nr1.val,
    a := sField x.a, xa := sX x.a }
def MMulI.read (f : Fields) : MMulI :=
  { w := readWidth f, d := Fin.ofNat 8 f.d, a := readS f.a f.xa, first := Fin.ofNat 32 f.b,
    nm1 := Fin.ofNat 32 (f.imm % 2 ^ 5), nr1 := Fin.ofNat 32 (f.imm / 2 ^ 8 % 2 ^ 5) }

def MaMovI.fields (x : MaMovI) : Fields :=
  { d := x.d.val, imm := bit x.inward + 2 ^ 8 * x.nr1.val, a := sField x.a, xa := sX x.a }
def MaMovI.read (f : Fields) : MaMovI :=
  { inward := f.imm % 2 == 1, d := Fin.ofNat 8 f.d, a := readS f.a f.xa,
    nr1 := Fin.ofNat 32 (f.imm / 2 ^ 8 % 2 ^ 5) }

def MZeroI.fields (x : MZeroI) : Fields :=
  { d := x.d.val }
def MZeroI.read (f : Fields) : MZeroI :=
  { d := Fin.ofNat 8 f.d }

def MWaitI.fields (x : MWaitI) : Fields :=
  { imm := x.n.val }
def MWaitI.read (f : Fields) : MWaitI :=
  { n := Fin.ofNat 16 f.imm }

def PruneI.fields (x : PruneI) : Fields :=
  { ty := x.w.ty, mod := x.w.mod, d := x.d.val,
    imm := x.nm1.val + 2 ^ 4 * x.mc.val + 2 ^ 6 * bit x.tp + 2 ^ 7 * bit x.idx4 + 2 ^ 8 * x.cm1.val + 2 ^ 16 * x.km.val,
    a := sField x.a, xa := sX x.a, b := sField x.b, xb := sX x.b, c := sField x.c, xc := sX x.c }
def PruneI.read (f : Fields) : PruneI :=
  { w := readWidth f, d := Fin.ofNat 4 f.d, a := readS f.a f.xa, b := readS f.b f.xb, c := readS f.c f.xc,
    nm1 := Fin.ofNat 16 (f.imm % 2 ^ 4), mc := Fin.ofNat 4 (f.imm / 2 ^ 4 % 2 ^ 2),
    tp := f.imm / 2 ^ 6 % 2 == 1, idx4 := f.imm / 2 ^ 7 % 2 == 1,
    cm1 := Fin.ofNat 256 (f.imm / 2 ^ 8 % 2 ^ 8), km := Fin.ofNat 1024 (f.imm / 2 ^ 16 % 2 ^ 10) }

def MldbsI.fields (x : MldbsI) : Fields :=
  { ty := x.w.ty, mod := x.w.mod, d := x.first.val, a := sField x.a, xa := sX x.a, b := sField x.b,
    xb := sX x.b, c := sField x.c, xc := sX x.c }
def MldbsI.read (f : Fields) : MldbsI :=
  { w := readWidth f, first := Fin.ofNat 32 f.d, a := readS f.a f.xa, b := readS f.b f.xb,
    c := readS f.c f.xc }

def MmulsI.fields (x : MmulsI) : Fields :=
  { ty := x.w.ty, mod := x.w.mod, d := x.d.val, b := x.first.val, imm := 2 ^ 8 * x.nr1.val, a := sField x.a,
    xa := sX x.a, c := sField x.c, xc := sX x.c }
def MmulsI.read (f : Fields) : MmulsI :=
  { w := readWidth f, d := Fin.ofNat 8 f.d, a := readS f.a f.xa, first := Fin.ofNat 32 f.b,
    c := readS f.c f.xc, nr1 := Fin.ofNat 32 (f.imm / 2 ^ 8 % 2 ^ 5) }

def MHdrI.fields (x : MHdrI) : Fields :=
  { d := sField x.d, xd := sX x.d, a := sField x.a, xa := sX x.a, imm := bit x.try_ }
def MHdrI.read (f : Fields) : MHdrI :=
  { d := readS f.d f.xd, a := readS f.a f.xa, try_ := f.imm == 1 }

def PushI.fields (x : PushI) : Fields :=
  { a := sField x.a, xa := sX x.a, b := vField x.b, xb := vX x.b }
def PushI.read (f : Fields) : PushI :=
  { a := readS f.a f.xa, b := readV f.b f.xb }

def PopI.fields (x : PopI) : Fields :=
  { d := vField x.d, xd := vX x.d, c := x.c.val, a := sField x.a, xa := sX x.a }
def PopI.read (f : Fields) : PopI :=
  { d := readV f.d f.xd, c := Fin.ofNat 8 f.c, a := readS f.a f.xa }

def DaI.fields (x : DaI) : Fields :=
  { d := sField x.d, xd := sX x.d, a := sField x.a, xa := sX x.a }
def DaI.read (f : Fields) : DaI :=
  { d := readS f.d f.xd, a := readS f.a f.xa }

def QStatI.fields (x : QStatI) : Fields :=
  { d := sField x.d
    xd := sX x.d
    a := match x.a with
      | some r => sField r
      | none => 0
    xa := match x.a with
      | some r => sX r
      | none => 0
    imm := match x.a with
      | some _ => 0
      | none => 1 }
def QStatI.read (f : Fields) : QStatI :=
  { d := readS f.d f.xd, a := if f.imm = 1 then none else some (readS f.a f.xa) }

def AbI.fields (x : AbI) : Fields :=
  { a := sField x.a, xa := sX x.a, b := sField x.b, xb := sX x.b }
def AbI.read (f : Fields) : AbI :=
  { a := readS f.a f.xa, b := readS f.b f.xb }

def SrcA.fields (x : SrcA) : Fields :=
  { a := sField x.a, xa := sX x.a }
def SrcA.read (f : Fields) : SrcA :=
  { a := readS f.a f.xa }

def FutSetI.fields (x : FutSetI) : Fields :=
  { a := sField x.a
    xa := sX x.a
    b := match x.b with
      | some r => sField r
      | none => 0
    xb := match x.b with
      | some r => sX r
      | none => 0
    imm := match x.b with
      | some _ => 0
      | none => 1 }
def FutSetI.read (f : Fields) : FutSetI :=
  { a := readS f.a f.xa, b := if f.imm = 1 then none else some (readS f.b f.xb) }

def CodeI.fields (x : CodeI) : Fields :=
  { imm := x.n.toNat }
def CodeI.read (f : Fields) : CodeI :=
  { n := BitVec.ofNat 16 f.imm }

def SyscallI.fields (x : SyscallI) : Fields :=
  { imm := x.n.toNat }
def SyscallI.read (f : Fields) : SyscallI :=
  { n := BitVec.ofNat 8 f.imm }

def CsrRI.fields (x : CsrRI) : Fields :=
  { d := sField x.d, xd := sX x.d, imm := x.csr.toNat }
def CsrRI.read (f : Fields) : CsrRI :=
  { d := readS f.d f.xd, csr := BitVec.ofNat 12 f.imm }

def CsrWI.fields (x : CsrWI) : Fields :=
  { b := sField x.b, xb := sX x.b, imm := x.csr.toNat }
def CsrWI.read (f : Fields) : CsrWI :=
  { csr := BitVec.ofNat 12 f.imm, b := readS f.b f.xb }

def ChkModeI.fields (x : ChkModeI) : Fields :=
  { imm := x.mode.val }
def ChkModeI.read (f : Fields) : ChkModeI :=
  { mode := Fin.ofNat 4 f.imm }

def RpGetI.fields (x : RpGetI) : Fields :=
  { d := sField x.d, xd := sX x.d, imm := x.sel.val }
def RpGetI.read (f : Fields) : RpGetI :=
  { d := readS f.d f.xd, sel := Fin.ofNat 8 f.imm }

def CkSealI.fields (x : CkSealI) : Fields :=
  { d := x.d.val, a := sField x.a, xa := sX x.a }
def CkSealI.read (f : Fields) : CkSealI :=
  { d := Fin.ofNat 4 f.d, a := readS f.a f.xa }

def FinjI.fields (x : FinjI) : Fields :=
  { a := sField x.a, xa := sX x.a, b := sField x.b, xb := sX x.b, c := sField x.c, xc := sX x.c }
def FinjI.read (f : Fields) : FinjI :=
  { a := readS f.a f.xa, b := readS f.b f.xb, c := readS f.c f.xc }


def VoteI.fields (x : VoteI) : Fields :=
  match x.d with
  | .any p => { var := 0, ty := 3, d := p.val, a := x.a.val, imm := x.mask.imm }
  | .all p => { var := 1, ty := 3, d := p.val, a := x.a.val, imm := x.mask.imm }
  | .bal v => { var := 2, ty := 3, d := vField v, xd := vX v, a := x.a.val, imm := x.mask.imm }
def VoteI.read (f : Fields) : VoteI :=
  { d := match f.var with
      | 0 => .any (Fin.ofNat 8 f.d)
      | 1 => .all (Fin.ofNat 8 f.d)
      | _ => .bal (readV f.d f.xd)
    a := Fin.ofNat 8 f.a, mask := readMask f.imm }

def GetSrI.fields (x : GetSrI) : Fields :=
  match x.d with
  | .v d => { d := vField d, xd := vX d, imm := x.sel.code + 2 ^ 8 * bit x.clr }
  | .s d => { d := sField d, xd := sX d, imm := x.sel.code + 2 ^ 8 * bit x.clr }
def GetSrI.read (f : Fields) : GetSrI :=
  { sel := SpecReg.ofCode (f.imm % 2 ^ 5), clr := f.imm / 2 ^ 8 % 2 == 1
    d := if f.imm % 2 ^ 5 < 3 then .v (readV f.d f.xd) else .s (readS f.d f.xd) }

/-! ## The two directions over all instructions -/

/-- The fields of an instruction, with its OP and MEMBER; none for an event row. -/
def Instr.fields : Instr → Option Fields
  | .uaddBase x => some { x.fields with op := 0x01, member := 0, ty := 4 }
  | .uaddExt x => some { x.fields with op := 0x01, member := 0 }
  | .usub x => some { x.fields with op := 0x01, member := 1 }
  | .umul x => some { x.fields with op := 0x01, member := 2 }
  | .umulh x => some { x.fields with op := 0x01, member := 3 }
  | .umin x => some { x.fields with op := 0x01, member := 4 }
  | .umax x => some { x.fields with op := 0x01, member := 5 }
  | .uset x => some { x.fields with op := 0x01, member := 6 }
  | .usel x => some { x.fields with op := 0x01, member := 7 }
  | .upopc x => some { x.fields with op := 0x01, member := 8 }
  | .uclz x => some { x.fields with op := 0x01, member := 9 }
  | .ubfx x => some { x.fields with op := 0x01, member := 10 }
  | .ubfi x => some { x.fields with op := 0x01, member := 11 }
  | .uandBase x => some { x.fields with op := 0x02, member := 0, ty := 4 }
  | .uandExt x => some { x.fields with op := 0x02, member := 0 }
  | .uor x => some { x.fields with op := 0x02, member := 1 }
  | .uxor x => some { x.fields with op := 0x02, member := 2 }
  | .ushlBase x => some { x.fields with op := 0x03, member := 0, ty := 4 }
  | .ushlExt x => some { x.fields with op := 0x03, member := 0 }
  | .ushr x => some { x.fields with op := 0x03, member := 1 }
  | .usra x => some { x.fields with op := 0x03, member := 2 }
  | .umovBase x => some { x.fields with op := 0x04, member := 0, ty := 4 }
  | .umovExt x => some { x.fields with op := 0x04, member := 0 }
  | .uli x => some { x.fields with op := 0x05, member := 0 }
  | .vaddBase x => some { x.fields with op := 0x08, member := 0, ty := 3 }
  | .vaddExt x => some { x.fields with op := 0x08, member := 0 }
  | .vsub x => some { x.fields with op := 0x08, member := 1 }
  | .vmul x => some { x.fields with op := 0x08, member := 2 }
  | .vmulh x => some { x.fields with op := 0x08, member := 3 }
  | .vmin x => some { x.fields with op := 0x08, member := 4 }
  | .vmax x => some { x.fields with op := 0x08, member := 5 }
  | .vabs x => some { x.fields with op := 0x08, member := 6 }
  | .vset x => some { x.fields with op := 0x08, member := 7 }
  | .vsel x => some { x.fields with op := 0x08, member := 8 }
  | .vpopc x => some { x.fields with op := 0x08, member := 9 }
  | .vclz x => some { x.fields with op := 0x08, member := 10 }
  | .vbfx x => some { x.fields with op := 0x08, member := 11 }
  | .vbfi x => some { x.fields with op := 0x08, member := 12 }
  | .vaddc x => some { x.fields with op := 0x08, member := 13 }
  | .vidx x => some { x.fields with op := 0x08, member := 14 }
  | .vmad x => some { x.fields with op := 0x09, member := 0 }
  | .vdot4 x => some { x.fields with op := 0x09, member := 1 }
  | .vandBase x => some { x.fields with op := 0x0A, member := 0, ty := 3 }
  | .vandExt x => some { x.fields with op := 0x0A, member := 0 }
  | .vor x => some { x.fields with op := 0x0A, member := 1 }
  | .vxor x => some { x.fields with op := 0x0A, member := 2 }
  | .vshlBase x => some { x.fields with op := 0x0B, member := 0, ty := 3 }
  | .vshlExt x => some { x.fields with op := 0x0B, member := 0 }
  | .vshr x => some { x.fields with op := 0x0B, member := 1 }
  | .vsra x => some { x.fields with op := 0x0B, member := 2 }
  | .vmovBase x => some { x.fields with op := 0x0C, member := 0, ty := 3 }
  | .vmovExt x => some { x.fields with op := 0x0C, member := 0 }
  | .faddBase x => some { x.fields with op := 0x10, member := 0, ty := 11 }
  | .faddExt x => some { x.fields with op := 0x10, member := 0 }
  | .fsub x => some { x.fields with op := 0x10, member := 1 }
  | .fmul x => some { x.fields with op := 0x10, member := 2 }
  | .fmin x => some { x.fields with op := 0x10, member := 3 }
  | .fmax x => some { x.fields with op := 0x10, member := 4 }
  | .fabs x => some { x.fields with op := 0x10, member := 5 }
  | .fneg x => some { x.fields with op := 0x10, member := 6 }
  | .fset x => some { x.fields with op := 0x10, member := 7 }
  | .fclass x => some { x.fields with op := 0x10, member := 8 }
  | .ffma x => some { x.fields with op := 0x11, member := 0 }
  | .fcvt x => some { x.fields with op := 0x12, member := 0 }
  | .icvt x => some { x.fields with op := 0x12, member := 1 }
  | .bcvt x => some { x.fields with op := 0x12, member := 2 }
  | .frnd x => some { x.fields with op := 0x12, member := 3 }
  | .frcpBase x => some { x.fields with op := 0x13, member := 0, ty := 11 }
  | .frcpExt x => some { x.fields with op := 0x13, member := 0 }
  | .frsq x => some { x.fields with op := 0x13, member := 1 }
  | .fsqrt x => some { x.fields with op := 0x13, member := 2 }
  | .fexp2 x => some { x.fields with op := 0x13, member := 3 }
  | .flog2 x => some { x.fields with op := 0x13, member := 4 }
  | .fsin x => some { x.fields with op := 0x13, member := 5 }
  | .fcos x => some { x.fields with op := 0x13, member := 6 }
  | .ftanh x => some { x.fields with op := 0x13, member := 7 }
  | .vrng x => some { x.fields with op := 0x14, member := 0 }
  | .vote x => some { x.fields with op := 0x18, member := 0 }
  | .shfl x => some { x.fields with op := 0x18, member := 1 }
  | .redux x => some { x.fields with op := 0x18, member := 2 }
  | .scan x => some { x.fields with op := 0x18, member := 3 }
  | .ffs x => some { x.fields with op := 0x18, member := 4 }
  | .setpart x => some { x.fields with op := 0x18, member := 5 }
  | .lmask x => some { x.fields with op := 0x18, member := 6 }
  | .bra x => some { x.fields with op := 0x1C, member := 0 }
  | .brc x => some { x.fields with op := 0x1C, member := 1 }
  | .ubrc x => some { x.fields with op := 0x1C, member := 2 }
  | .jmp x => some { x.fields with op := 0x1C, member := 3 }
  | .call x => some { x.fields with op := 0x1C, member := 4 }
  | .ret x => some { x.fields with op := 0x1C, member := 5 }
  | .becomeBase x => some { x.fields with op := 0x1D, member := 0 }
  | .becomeExt x => some { x.fields with op := 0x1D, member := 0 }
  | .merge x => some { x.fields with op := 0x1D, member := 1 }
  | .sync x => some { x.fields with op := 0x1D, member := 2 }
  | .gsync => some { op := 0x1D, member := 3 }
  | .yield => some { op := 0x1D, member := 4 }
  | .nopBase => some { len := 0, op := 0x1E, member := 0 }
  | .nopExt => some { op := 0x1E, member := 0 }
  | .setfmtBase x => some { x.fields with op := 0x1F, member := 0 }
  | .setfmtExt x => some { x.fields with op := 0x1F, member := 0 }
  | .getfmt x => some { x.fields with op := 0x1F, member := 1 }
  | .getsr x => some { x.fields with op := 0x1F, member := 2 }
  | .setprio x => some { x.fields with op := 0x1F, member := 3 }
  | .ldBase x => some { x.fields with op := 0x20, member := 0, ty := 7 }
  | .ldExt x => some { x.fields with op := 0x20, member := 0 }
  | .ldu x => some { x.fields with op := 0x20, member := 1 }
  | .stBase x => some { x.fields with op := 0x21, member := 0, ty := 7 }
  | .stExt x => some { x.fields with op := 0x21, member := 0 }
  | .stu x => some { x.fields with op := 0x21, member := 1 }
  | .atom x => some { x.fields with op := 0x22, member := 0 }
  | .atomu x => some { x.fields with op := 0x22, member := 1 }
  | .red x => some { x.fields with op := 0x22, member := 2 }
  | .oapp x => some { x.fields with op := 0x23, member := 0 }
  | .pref x => some { x.fields with op := 0x24, member := 0 }
  | .cflush x => some { x.fields with op := 0x24, member := 1 }
  | .fence x => some { x.fields with op := 0x25, member := 0 }
  | .ifence => some { op := 0x25, member := 1 }
  | .setmod x => some { x.fields with op := 0x26, member := 0 }
  | .stmap x => some { x.fields with op := 0x28, member := 0 }
  | .stunmap x => some { x.fields with op := 0x28, member := 1 }
  | .stwb x => some { x.fields with op := 0x28, member := 2 }
  | .stdrop x => some { x.fields with op := 0x28, member := 3 }
  | .swinit x => some { x.fields with op := 0x29, member := 0 }
  | .swarrive x => some { x.fields with op := 0x29, member := 1 }
  | .swexpect x => some { x.fields with op := 0x29, member := 2 }
  | .swwait x => some { x.fields with op := 0x29, member := 3 }
  | .wait x => some { x.fields with op := 0x2A, member := 0 }
  | .ldt x => some { x.fields with op := 0x2B, member := 0 }
  | .stt x => some { x.fields with op := 0x2B, member := 1 }
  | .cqcfg x => some { x.fields with op := 0x2C, member := 0 }
  | .copy x => some { x.fields with op := 0x30, member := 0 }
  | .gather x => some { x.fields with op := 0x31, member := 0 }
  | .scatter x => some { x.fields with op := 0x31, member := 1 }
  | .scatadd x => some { x.fields with op := 0x31, member := 2 }
  | .strcfg x => some { x.fields with op := 0x32, member := 0 }
  | .strgo x => some { x.fields with op := 0x32, member := 1 }
  | .strhalt x => some { x.fields with op := 0x32, member := 2 }
  | .spbind x => some { x.fields with op := 0x32, member := 3 }
  | .slotsig x => some { x.fields with op := 0x32, member := 4 }
  | .coll x => some { x.fields with op := 0x33, member := 0 }
  | .mres x => some { x.fields with op := 0x34, member := 0 }
  | .mrel => some { op := 0x34, member := 1 }
  | .mstat x => some { x.fields with op := 0x34, member := 2 }
  | .mldb x => some { x.fields with op := 0x35, member := 0 }
  | .mmul x => some { x.fields with op := 0x35, member := 1 }
  | .mamov x => some { x.fields with op := 0x35, member := 2 }
  | .mzero x => some { x.fields with op := 0x35, member := 3 }
  | .mfenceBase => some { len := 0, op := 0x36, member := 0 }
  | .mfenceExt => some { op := 0x36, member := 0 }
  | .mwait x => some { x.fields with op := 0x36, member := 1 }
  | .prune x => some { x.fields with op := 0x38, member := 0 }
  | .mldbs x => some { x.fields with op := 0x38, member := 1 }
  | .mmuls x => some { x.fields with op := 0x38, member := 2 }
  | .mhdr x => some { x.fields with op := 0x38, member := 3 }
  | .qpush x => some { x.fields with op := 0x39, member := 0 }
  | .qpop x => some { x.fields with op := 0x39, member := 1 }
  | .qtry x => some { x.fields with op := 0x39, member := 2 }
  | .qlen x => some { x.fields with op := 0x39, member := 3 }
  | .qstat x => some { x.fields with op := 0x39, member := 4 }
  | .tspawn x => some { x.fields with op := 0x3A, member := 0 }
  | .tdone x => some { x.fields with op := 0x3A, member := 1 }
  | .wlpush x => some { x.fields with op := 0x3B, member := 0 }
  | .wlins x => some { x.fields with op := 0x3B, member := 1 }
  | .wlpop x => some { x.fields with op := 0x3B, member := 2 }
  | .futset x => some { x.fields with op := 0x3C, member := 0 }
  | .futget x => some { x.fields with op := 0x3C, member := 1 }
  | .bkptBase => some { len := 0, op := 0x3D, member := 0 }
  | .bkptExt x => some { x.fields with op := 0x3D, member := 0 }
  | .trap x => some { x.fields with op := 0x3D, member := 1 }
  | .syscall x => some { x.fields with op := 0x3D, member := 2 }
  | .eret => some { op := 0x3D, member := 3 }
  | .csrr x => some { x.fields with op := 0x3E, member := 0 }
  | .csrw x => some { x.fields with op := 0x3E, member := 1 }
  | .chkmode x => some { x.fields with op := 0x3F, member := 0 }
  | .rpmark x => some { x.fields with op := 0x3F, member := 1 }
  | .rpget x => some { x.fields with op := 0x3F, member := 2 }
  | .ckseal x => some { x.fields with op := 0x3F, member := 3 }
  | .finj x => some { x.fields with op := 0x3F, member := 4 }
  | .walkStart _ | .walkComplete _ | .pageMigration _ | .loadComplete _ | .storePerformed _ | .updateOnlyMerge _
  | .redUpdateArrival _ | .appendElementWrite _ | .lineRecall _ | .engineCommandComplete _ | .engineLineWrite _
  | .fillSlotReady _ | .drainSlotReturn _ | .streamLastElement _ | .collRendezvous _ | .syncWordArrival _
  | .stashWriteback _ | .tileOperationStart _ | .tileOperationComplete _ | .reservationRelease _ | .sharedAgeingServe _
  | .splitMerge _ | .reconvergence _ | .membershipComplete _ | .deckleBecome _ | .materialisation _ | .gsyncComplete _
  | .hostPush _ | .successorPush _ | .taskDispatch _ | .effectiveLevelRaise _ | .queueHolding _ | .gangMigration _
  | .forwardingExpire _ | .forwardedMessage _ | .splitBoost _ | .pressWake _ | .skidEnd _ | .handlerDelivery _
  | .ezdenTrap _ | .syscallComplete _ | .syscallTimeout _ | .preemption _ | .preemptionComplete _ | .contextSwitch _
  | .contextRestore _ | .gangExit _ | .gangKill _ | .uncorrectableError _ | .correctableError _ | .replayQueueExecution _
  | .signatureMatch _ | .pairRollback _ | .pairRestore _ | .injectionFire _ | .peerChipLoss _ | .halufRetransmit _
  | .durableAcknowledge _ | .checkpointSeal _ | .sealCommit _ | .dieReset _ | .chipReset | .perstDeassert _
  | .bootReady | .bootTimeout _ | .functionLevelReset _ | .hostBar2Read _ | .hostBar2Write _ | .bar0OtherWrite _
  | .invalidCommandRecord _ | .negotiateFeatures _ | .createContext _ | .destroyContext _ | .map _ | .unmap _
  | .loadCode _ | .createQueueObject _ | .destroyQueueObject _ | .readEnumerationTable _ | .readCounters _
  | .setPowerCap _ | .setAgeingBlock _ | .configureParityGroup _ | .restore _ | .attest _ | .bindWindow _
  | .notAnInstruction | .pressModeSwitch _ => none

/-- The instruction that OP, MEMBER and, for member 0, LEN select (02 R34-R38); its operands are read from the
fields, and a value no operand can hold is read as some other, which the comparison below catches. NOP takes no NT (R258 over R25; DEDUCED,
log 110). -/
def Fields.instr (f : Fields) : Except DecodeError Instr :=
  match f.op with
  | 0x01 => match f.member with
    | 0 => if f.len = 0 then .ok (.uaddBase (Base3.read f)) else .ok (.uaddExt (UBin.read f))
    | 1 => .ok (.usub (UBin.read f))
    | 2 => .ok (.umul (UBin.read f))
    | 3 => .ok (.umulh (UBin.read f))
    | 4 => .ok (.umin (UBin.read f))
    | 5 => .ok (.umax (UBin.read f))
    | 6 => .ok (.uset (USet.read f))
    | 7 => .ok (.usel (USel.read f))
    | 8 => .ok (.upopc (UUn.read f))
    | 9 => .ok (.uclz (UUn.read f))
    | 10 => .ok (.ubfx (UBfx.read f))
    | 11 => .ok (.ubfi (UBfi.read f))
    | _ => .error .badMember
  | 0x02 => match f.member with
    | 0 => if f.len = 0 then .ok (.uandBase (Base3.read f)) else .ok (.uandExt (UBin.read f))
    | 1 => .ok (.uor (UBin.read f))
    | 2 => .ok (.uxor (UBin.read f))
    | _ => .error .badMember
  | 0x03 => match f.member with
    | 0 => if f.len = 0 then .ok (.ushlBase (Base3.read f)) else .ok (.ushlExt (UBin.read f))
    | 1 => .ok (.ushr (UBin.read f))
    | 2 => .ok (.usra (UBin.read f))
    | _ => .error .badMember
  | 0x04 => match f.member with
    | 0 => if f.len = 0 then .ok (.umovBase (BaseDB.read f)) else .ok (.umovExt (UMov.read f))
    | _ => .error .badMember
  | 0x05 => match f.member with
    | 0 => .ok (.uli (ULit.read f))
    | _ => .error .badMember
  | 0x08 => match f.member with
    | 0 => if f.len = 0 then .ok (.vaddBase (Base3.read f)) else .ok (.vaddExt (VBin.read f))
    | 1 => .ok (.vsub (VBin.read f))
    | 2 => .ok (.vmul (VBin.read f))
    | 3 => .ok (.vmulh (VBin.read f))
    | 4 => .ok (.vmin (VBin.read f))
    | 5 => .ok (.vmax (VBin.read f))
    | 6 => .ok (.vabs (VUn.read f))
    | 7 => .ok (.vset (VSetI.read f))
    | 8 => .ok (.vsel (VPredI.read f))
    | 9 => .ok (.vpopc (VUn.read f))
    | 10 => .ok (.vclz (VUn.read f))
    | 11 => .ok (.vbfx (VBfx.read f))
    | 12 => .ok (.vbfi (VBfi.read f))
    | 13 => .ok (.vaddc (VPredI.read f))
    | 14 => .ok (.vidx (VIdxI.read f))
    | _ => .error .badMember
  | 0x09 => match f.member with
    | 0 => .ok (.vmad (VTri.read f))
    | 1 => .ok (.vdot4 (VTri.read f))
    | _ => .error .badMember
  | 0x0A => match f.member with
    | 0 => if f.len = 0 then .ok (.vandBase (Base3.read f)) else .ok (.vandExt (VBin.read f))
    | 1 => .ok (.vor (VBin.read f))
    | 2 => .ok (.vxor (VBin.read f))
    | _ => .error .badMember
  | 0x0B => match f.member with
    | 0 => if f.len = 0 then .ok (.vshlBase (Base3.read f)) else .ok (.vshlExt (VBin.read f))
    | 1 => .ok (.vshr (VBin.read f))
    | 2 => .ok (.vsra (VBin.read f))
    | _ => .error .badMember
  | 0x0C => match f.member with
    | 0 => if f.len = 0 then .ok (.vmovBase (BaseDB.read f)) else .ok (.vmovExt (VMovI.read f))
    | _ => .error .badMember
  | 0x10 => match f.member with
    | 0 => if f.len = 0 then .ok (.faddBase (Base3.read f)) else .ok (.faddExt (FBin.read f))
    | 1 => .ok (.fsub (FBin.read f))
    | 2 => .ok (.fmul (FBin.read f))
    | 3 => .ok (.fmin (FBin.read f))
    | 4 => .ok (.fmax (FBin.read f))
    | 5 => .ok (.fabs (FUn.read f))
    | 6 => .ok (.fneg (FUn.read f))
    | 7 => .ok (.fset (VSetI.read f))
    | 8 => .ok (.fclass (FUn.read f))
    | _ => .error .badMember
  | 0x11 => match f.member with
    | 0 => .ok (.ffma (FTri.read f))
    | _ => .error .badMember
  | 0x12 => match f.member with
    | 0 => .ok (.fcvt (FCvtI.read f))
    | 1 => .ok (.icvt (FCvtI.read f))
    | 2 => .ok (.bcvt (BCvtI.read f))
    | 3 => .ok (.frnd (FUn.read f))
    | _ => .error .badMember
  | 0x13 => match f.member with
    | 0 => if f.len = 0 then .ok (.frcpBase (BaseDA.read f)) else .ok (.frcpExt (FUn.read f))
    | 1 => .ok (.frsq (FUn.read f))
    | 2 => .ok (.fsqrt (FUn.read f))
    | 3 => .ok (.fexp2 (FUn.read f))
    | 4 => .ok (.flog2 (FUn.read f))
    | 5 => .ok (.fsin (FUn.read f))
    | 6 => .ok (.fcos (FUn.read f))
    | 7 => .ok (.ftanh (FUn.read f))
    | _ => .error .badMember
  | 0x14 => match f.member with
    | 0 => .ok (.vrng (VRngI.read f))
    | _ => .error .badMember
  | 0x18 => match f.member with
    | 0 => .ok (.vote (VoteI.read f))
    | 1 => .ok (.shfl (ShflI.read f))
    | 2 => .ok (.redux (ReduxI.read f))
    | 3 => .ok (.scan (ScanI.read f))
    | 4 => .ok (.ffs (FfsI.read f))
    | 5 => .ok (.setpart (SetPartI.read f))
    | 6 => .ok (.lmask (LMaskI.read f))
    | _ => .error .badMember
  | 0x1C => match f.member with
    | 0 => .ok (.bra (BraI.read f))
    | 1 => .ok (.brc (BrcI.read f))
    | 2 => .ok (.ubrc (UBrcI.read f))
    | 3 => .ok (.jmp (JmpI.read f))
    | 4 => .ok (.call (CallI.read f))
    | 5 => .ok (.ret (RetI.read f))
    | _ => .error .badMember
  | 0x1D => match f.member with
    | 0 => if f.len = 0 then .ok (.becomeBase (BaseDB.read f)) else .ok (.becomeExt (BecomeI.read f))
    | 1 => .ok (.merge (BraI.read f))
    | 2 => .ok (.sync (SyncI.read f))
    | 3 => .ok (.gsync)
    | 4 => .ok (.yield)
    | _ => .error .badMember
  | 0x1E => match f.member with
    | 0 => if f.len = 0 then .ok (.nopBase) else if f.nt = 1 then .error .badField else .ok (.nopExt)
    | _ => .error .badMember
  | 0x1F => match f.member with
    | 0 => if f.len = 0 then .ok (.setfmtBase (BaseB.read f)) else .ok (.setfmtExt (SetFmtI.read f))
    | 1 => .ok (.getfmt (DstS.read f))
    | 2 => .ok (.getsr (GetSrI.read f))
    | 3 => .ok (.setprio (SetPrioI.read f))
    | _ => .error .badMember
  | 0x20 => match f.member with
    | 0 => if f.len = 0 then .ok (.ldBase (Base3.read f)) else .ok (.ldExt (LdI.read f))
    | 1 => .ok (.ldu (LdUI.read f))
    | _ => .error .badMember
  | 0x21 => match f.member with
    | 0 => if f.len = 0 then .ok (.stBase (Base3.read f)) else .ok (.stExt (LdI.read f))
    | 1 => .ok (.stu (LdUI.read f))
    | _ => .error .badMember
  | 0x22 => match f.member with
    | 0 => .ok (.atom (AtomI.read f))
    | 1 => .ok (.atomu (AtomUI.read f))
    | 2 => .ok (.red (RedI.read f))
    | _ => .error .badMember
  | 0x23 => match f.member with
    | 0 => .ok (.oapp (OAppI.read f))
    | _ => .error .badMember
  | 0x24 => match f.member with
    | 0 => .ok (.pref (LineI.read f))
    | 1 => .ok (.cflush (LineI.read f))
    | _ => .error .badMember
  | 0x25 => match f.member with
    | 0 => .ok (.fence (FenceI.read f))
    | 1 => .ok (.ifence)
    | _ => .error .badMember
  | 0x26 => match f.member with
    | 0 => .ok (.setmod (SetModI.read f))
    | _ => .error .badMember
  | 0x28 => match f.member with
    | 0 => .ok (.stmap (StMapI.read f))
    | 1 => .ok (.stunmap (DstS.read f))
    | 2 => .ok (.stwb (DstS.read f))
    | 3 => .ok (.stdrop (DstS.read f))
    | _ => .error .badMember
  | 0x29 => match f.member with
    | 0 => .ok (.swinit (SwInitI.read f))
    | 1 => .ok (.swarrive (SwI.read f))
    | 2 => .ok (.swexpect (SwI.read f))
    | 3 => .ok (.swwait (SwWaitI.read f))
    | _ => .error .badMember
  | 0x2A => match f.member with
    | 0 => .ok (.wait (WaitI.read f))
    | _ => .error .badMember
  | 0x2B => match f.member with
    | 0 => .ok (.ldt (LdtI.read f))
    | 1 => .ok (.stt (SttI.read f))
    | _ => .error .badMember
  | 0x2C => match f.member with
    | 0 => .ok (.cqcfg (CqCfgI.read f))
    | _ => .error .badMember
  | 0x30 => match f.member with
    | 0 => .ok (.copy (CopyI.read f))
    | _ => .error .badMember
  | 0x31 => match f.member with
    | 0 => .ok (.gather (GatherI.read f))
    | 1 => .ok (.scatter (ScatterI.read f))
    | 2 => .ok (.scatadd (ScatAddI.read f))
    | _ => .error .badMember
  | 0x32 => match f.member with
    | 0 => .ok (.strcfg (StrCfgI.read f))
    | 1 => .ok (.strgo (StrGoI.read f))
    | 2 => .ok (.strhalt (StrHaltI.read f))
    | 3 => .ok (.spbind (SpBindI.read f))
    | 4 => .ok (.slotsig (SlotSigI.read f))
    | _ => .error .badMember
  | 0x33 => match f.member with
    | 0 => .ok (.coll (CollI.read f))
    | _ => .error .badMember
  | 0x34 => match f.member with
    | 0 => .ok (.mres (MResI.read f))
    | 1 => .ok (.mrel)
    | 2 => .ok (.mstat (DstS.read f))
    | _ => .error .badMember
  | 0x35 => match f.member with
    | 0 => .ok (.mldb (MldbI.read f))
    | 1 => .ok (.mmul (MMulI.read f))
    | 2 => .ok (.mamov (MaMovI.read f))
    | 3 => .ok (.mzero (MZeroI.read f))
    | _ => .error .badMember
  | 0x36 => match f.member with
    | 0 => if f.len = 0 then .ok (.mfenceBase) else .ok (.mfenceExt)
    | 1 => .ok (.mwait (MWaitI.read f))
    | _ => .error .badMember
  | 0x38 => match f.member with
    | 0 => .ok (.prune (PruneI.read f))
    | 1 => .ok (.mldbs (MldbsI.read f))
    | 2 => .ok (.mmuls (MmulsI.read f))
    | 3 => .ok (.mhdr (MHdrI.read f))
    | _ => .error .badMember
  | 0x39 => match f.member with
    | 0 => .ok (.qpush (PushI.read f))
    | 1 => .ok (.qpop (PopI.read f))
    | 2 => .ok (.qtry (PopI.read f))
    | 3 => .ok (.qlen (DaI.read f))
    | 4 => .ok (.qstat (QStatI.read f))
    | _ => .error .badMember
  | 0x3A => match f.member with
    | 0 => .ok (.tspawn (AbI.read f))
    | 1 => .ok (.tdone (SrcA.read f))
    | _ => .error .badMember
  | 0x3B => match f.member with
    | 0 => .ok (.wlpush (PushI.read f))
    | 1 => .ok (.wlins (PushI.read f))
    | 2 => .ok (.wlpop (PopI.read f))
    | _ => .error .badMember
  | 0x3C => match f.member with
    | 0 => .ok (.futset (FutSetI.read f))
    | 1 => .ok (.futget (DaI.read f))
    | _ => .error .badMember
  | 0x3D => match f.member with
    | 0 => if f.len = 0 then .ok (.bkptBase) else .ok (.bkptExt (CodeI.read f))
    | 1 => .ok (.trap (CodeI.read f))
    | 2 => .ok (.syscall (SyscallI.read f))
    | 3 => .ok (.eret)
    | _ => .error .badMember
  | 0x3E => match f.member with
    | 0 => .ok (.csrr (CsrRI.read f))
    | 1 => .ok (.csrw (CsrWI.read f))
    | _ => .error .badMember
  | 0x3F => match f.member with
    | 0 => .ok (.chkmode (ChkModeI.read f))
    | 1 => .ok (.rpmark (AbI.read f))
    | 2 => .ok (.rpget (RpGetI.read f))
    | 3 => .ok (.ckseal (CkSealI.read f))
    | 4 => .ok (.finj (FinjI.read f))
    | _ => .error .badMember
  | _ => .error .badOp

/-- TY 0 is read as the code of the default type (02 R30). -/
def Fields.norm (f : Fields) : Fields :=
  { f with ty := if f.ty = 0 then defaultTy f.op f.member else f.ty }

/-- The first field, in the order of R40, in which the fields `f` that were read differ from the fields `g` of the
instruction they name; HINT.NT never traps (02 R25). -/
def Fields.mismatch (f g : Fields) : Option DecodeError :=
  if f.var ≠ g.var then some .badVariant
  else if f.ty ≠ g.ty then some .badType
  else if f.mod ≠ g.mod then some .badMode
  else if f.grd ≠ g.grd then some .badGuard
  else if f.len ≠ g.len ∨ f.lit ≠ g.lit then some .badLiteral
  else if f.d ≠ g.d ∨ f.a ≠ g.a ∨ f.b ≠ g.b ∨ f.c ≠ g.c then some .badField
  else if f.xd ≠ g.xd ∨ f.xa ≠ g.xa ∨ f.xb ≠ g.xb ∨ f.xc ≠ g.xc then some .badField
  else if f.imm ≠ g.imm then some .badField
  else none

/-- The checks of R40, from the top of its table down, that depend on the fields alone. -/
def decodeChecked (f : Fields) : Except DecodeError Instr :=
  match opLens f.op with
  | none => .error .badOp
  | some lens =>
    if f.len ∉ lens then .error .badLength
    else
      match f.norm.instr with
      | .error e => .error e
      | .ok i =>
        match i.fields with
        | none => .error .badOp
        | some g =>
          match f.norm.mismatch g with
          | some e => .error e
          | none => if i.wellFormed then .ok i else .error .illFormed

/-- Whether a mode or space of R65 is refused by a guarded member of OP 0x20-0x24: AM 5-7; in PREF and CFLUSH AM 2, 3 and SP 1 too. -/
def badSpace (f : Fields) : Bool :=
  let line := f.op == 0x24
  decide (5 ≤ immAm f.imm) || (line && (immAm f.imm == 2 || immAm f.imm == 3 || f.imm.testBit 23))

/-- The fields of a guarded memory member with values that R65 and R80 accept in the place of those they refuse. -/
def Fields.acceptable (f : Fields) : Fields :=
  let f1 := if badSpace f then
      { f with a := 0, xa := 0, c := 0, xc := 0, b := if f.op = 0x22 then f.b else 0, imm := f.imm / 2 ^ 24 * 2 ^ 24 + f.imm % 2 ^ 20 }
    else f
  if f.op = 0x22 then
    { f1 with
      imm := f1.imm / 2 ^ 28 * 2 ^ 28 + f1.imm % 2 ^ 24
      ty := if f.ty = 3 ∨ f.ty = 4 ∨ f.ty = 8 ∨ f.ty = 11 then 7 else f.ty }
  else f1

/-- OP and member of LD, ST, ATOM, RED, PREF and CFLUSH. -/
def guardedMemory (f : Fields) : Bool :=
  ((f.op == 0x20 || f.op == 0x21) && f.member == 0) || (f.op == 0x22 && (f.member == 0 || f.member == 2)) ||
  (f.op == 0x24 && decide (f.member < 2))

/-- Decoding of fields. -/
def decodeFields (f : Fields) : Except DecodeError Instr :=
  match decodeChecked f with
  | .ok i => .ok i
  | .error e =>
    if guardedMemory f then
      match decodeChecked f.acceptable with
      | .ok _ => .error .ownCheck
      | .error _ => .error e
    else .error e

/-- The instruction that words would be whose own check of R65 or R80 alone fails. -/
def acceptedForm (ws : List Nat) : Option Instr :=
  (Fields.ofWords ws).bind (fun f => match decodeChecked f.acceptable with
    | .ok i => some i
    | .error _ => none)

/-- Decoding of words. -/
def decodeWords (ws : List Nat) : Except DecodeError Instr :=
  match Fields.ofWords ws with
  | none => .error .short
  | some f => decodeFields f

/-- Decoding of bytes: the instruction at their head. Total on any bytes. -/
def decode (bs : List Byte) : Except DecodeError Instr := decodeWords (wordsOfBytes bs)

/-- The bytes of a word number whose lowest bits are those of the first word (the opcode table's numbering). -/
def bytesOfNat (n w : Nat) : List Byte :=
  match n with
  | 0 => []
  | n + 1 => BitVec.ofNat 8 w :: bytesOfNat n (w / 2 ^ 8)

/-- The instruction the decoder reads from an instruction whose bits are `w`, numbered from bit 0 of the first
word; every bit above `nbits` is 0, up to the longest instruction (five words). -/
def decodeTableWord (nbits w : Nat) : Option Instr :=
  match decode (bytesOfNat 20 (w % 2 ^ nbits)) with
  | .ok i => some i
  | .error _ => none

/-! ## The encoder -/

/-- The words of an instruction; none for an event row. -/
def encodeWords (i : Instr) : Option (List Nat) := i.fields.map Fields.words

/-- The words of a well-formed instruction, as bytes in address order. -/
def encode (i : Instr) : Option (List Byte) := (encodeWords i).map (fun ws => ws.flatMap bytesOfWord)

/-- The number of bytes of an instruction, which is the PC's advance (02 R20); 0 for an event row. -/
def Instr.bytes (i : Instr) : Nat :=
  match i.fields with
  | some f => 4 * wordsOfLen f.len
  | none => 0

end Sys2Proof
end

