-- ==== Sys2Proof/Machine/State.lean ====
section
/-! DEFINITION. The state of the part: everything the manual gives the machine, as plain data, and the state after reset. -/

namespace Sys2Proof.Machine

/-! ## Why a step stops -/

/-- Why the machine stops with a fault. -/
inductive Fault where
  /-- Raised by an instruction when the state's focus names no split that can issue: safe (no hardware step). -/
  | noIssuingSplit
  deriving DecidableEq, Repr

/-- Why a step is refused. -/
inductive Refusal where
  /-- Raised by Dispatch for an instruction without a meaning yet: safe. -/
  | notModelled (mnemonic : String)
  deriving DecidableEq, Repr

/-! ## Memory -/

/-- Bytes by address in one canonical form: addresses strictly rising, no entry equal to what an unlisted address
reads as. Physical memory is keyed by the 50-bit physical address (03 R50), the vats by core · 2^23 + vat address. -/
structure Memory where
  cells : List Host.Cell
  deriving DecidableEq, Repr

/-- What an unlisted address reads as: DESIGN CHOICE (log 4), the manual gives RAM no contents at power-on; the vat
is zero at gang start (07 R142). -/
def Memory.unlisted : Byte := 0

/-- Strictly rising addresses, no listed unlisted value. -/
def Memory.wfFrom (lo : Nat) : List Host.Cell → Bool
  | [] => true
  | (a, b) :: rest => decide (lo ≤ a) && decide (b ≠ Memory.unlisted) && Memory.wfFrom (a + 1) rest

/-- The canonical form holds. -/
def Memory.wf (m : Memory) : Bool := Memory.wfFrom 0 m.cells

/-- A location a byte lives at: physical memory, or the vat of a core. -/
inductive Loc where
  | phys (a : Nat)
  | vat (core a : Nat)
  deriving DecidableEq, Repr

/-! ## Uniform registers and splits (13 R237, R243) -/

/-- A modulo register (04 R69). -/
structure ModReg where
  base : BitVec 23
  len : BitVec 24
  idx : BitVec 23
  deriving DecidableEq, Repr

/-- A uniform register with a value: a shadow of a split (13 R243). -/
inductive UEntry where
  | s (r : SReg) (v : Word)
  | up (r : UPReg) (v : Bool)
  | m (r : MReg) (v : ModReg)
  deriving DecidableEq, Repr

/-- What a split waits for (13 R242). `order` numbers arrivals. -/
inductive Wait where
  | member (i : Instr) (mask : LaneMask) (order : Nat)
  | gsync (order : Nat)
  | rpmark (area len : Word) (order : Nat)
  | reconv
  | swwait (vatAddr : Nat) (gen : W32)
  | object (id : Nat)
  | syscall
  | become
  | coll (group : Nat)
  deriving DecidableEq, Repr

/-- Why a split is STALLED: an operand is still to be written; a counter, port, engine or queue is not available; a carry
queue is empty or full (07 R145); a BECOME is held back by a membership wait (10 R198); an engine owns metadata (12 R227); the trail of a
pair waits for what its lead sends (17 R321); the miss table of the die is full (03 R57); an MREL waits for the gang's tile operations (11 R211). -/
inductive Stall where
  | operand
  | busy
  | carry
  | held
  | metadata
  | lead
  | table
  | release
  deriving DecidableEq, Repr

/-- The state of a split (13 R242); `again` says that a stalled split may be tried again. SUSPENDED is the state of every other split
while the group is in serial mode. -/
inductive Status where
  | ready
  | stalled (why : Stall) (again : Bool)
  | waiting (w : Wait)
  deriving DecidableEq, Repr

/-- A split, or an entry of a parked list (13 R237, R239): `stack` has its top first; `joined` says that it has passed the
reconvergence point at its PC; `written` names the registers written in serial mode. -/
structure Split where
  pc : Word
  lanes : LaneMask
  fmt : BitVec 16
  part : BitVec 16
  stack : List Word
  shadows : List UEntry
  written : List UEntry
  age : Nat
  status : Status
  boost : Option Nat
  idle : Nat
  joined : Bool
  deriving DecidableEq, Repr

/-! ## What is outstanding (04 R75) -/

/-- A uniform or vector destination that is still to be written, with the value bound for it. -/
structure PendLoad where
  lanes : LaneMask
  regs : List Nat
  vals : List (Nat × Nat × W32)
  uni : Option UEntry
  carry : Option (Nat × Nat)
  tile : List (Nat × Loc)
  sync : Option Nat
  deriving DecidableEq, Repr

/-- One update of a RED or SCATADD: where, with what operation, type and operand (04 R83); `bad` when the operand was poisoned (05 R102); the
256-index chunk of a SCATADD it belongs to (R103). -/
structure Update where
  addr : Nat
  op : AtomOp
  ty : Ty
  val : Word
  dur : Bool
  bad : Bool
  chunk : Nat
  deriving DecidableEq, Repr

/-- One byte to be written, with the DUR attribute of its page. -/
structure ByteWrite where
  addr : Nat
  val : Byte
  dur : Bool
  deriving DecidableEq, Repr

/-- A store, flush or RED that has issued and is not performed yet; `bad` are half-lines that become poisoned by it. -/
inductive PendStore where
  | bytes (lanes : LaneMask) (ws : List ByteWrite) (bad : List Nat)
  | red (lanes : LaneMask) (us : List Update)
  | flush (lanes : LaneMask) (lines : List Nat)
  deriving DecidableEq, Repr

/-- A carry queue (07 R145): its ring of registers, the occupancy, and the ring places reserved and not filled. -/
structure Carry where
  base : Nat
  depth : Nat
  head : Nat
  occ : Nat
  unfilled : List Nat
  deriving DecidableEq, Repr

/-- A bound stream port (05 R119): its engine and the line within the current slot. -/
structure Port where
  engine : Nat
  line : Nat
  deriving DecidableEq, Repr

/-- A vat region named by a base-and-extent record (05 R94). -/
structure Region where
  base : Nat
  extent : Nat
  esz : Nat
  ro : Bool
  deriving DecidableEq, Repr

/-- The shape a metadata header gives (12 R224). -/
structure SparseHdr where
  n : Nat
  m : Nat
  k : Nat
  cols : Nat
  wb : Nat
  flags : Nat
  prows : Nat
  crc : Nat
  deriving DecidableEq, Repr

/-- What a queued tile operation does (11 R216-R218, 12 R229-R232); regions are vat base addresses. -/
inductive TileKind where
  | mldb (mould w : Nat) (mant scales : Nat)
  | mmul (acc first nm nr w : Nat) (src : Nat) (dead : LaneMask)
  | mamovOut (acc nr : Nat) (dst : Nat)
  | mamovIn (acc nr : Nat) (src : Nat)
  | mzero (acc : Nat)
  | prune (up : Nat) (w n m k cols : Nat) (tp idx4 : Bool) (src packed hdr : Nat) (lanes : LaneMask)
  | mldbs (first w : Nat) (mant scales : Nat) (h : SparseHdr)
  | mmuls (acc first nr w : Nat) (src hdr : Nat) (h : SparseHdr) (dead : LaneMask)
  deriving DecidableEq, Repr

/-- A tile operation in a group's press queue (11 R209): `order` is its place among the commands; pins and owned lines are 128-byte vat
lines. -/
structure TileOp where
  kind : TileKind
  started : Bool
  fenced : Bool
  order : Nat
  pins : List Nat
  owned : List Nat
  deriving DecidableEq, Repr

/-- An open batch (11 R220): its number and the tile operations it still waits for. -/
structure Batch where
  num : Nat
  left : Nat
  deriving DecidableEq, Repr

/-- An armed injection (17 R327). -/
structure Injection where
  group : Nat
  kind : Nat
  struct : Nat
  target : Word
  lane : Nat
  bitNo : Nat
  remaining : Nat
  live : Bool
  deriving DecidableEq, Repr

/-! ## Groups and gangs -/

/-- A group. `fences` are places among its stores: what stands before one is performed before what stands behind (04 R78, R90). -/
structure Group where
  slot : Nat
  gid : BitVec 16
  s : Vector Word 384
  up : Vector Bool 4
  m : Vector ModReg 8
  p : Vector LaneMask 8
  ords : Vector (BitVec 16) 32
  dead : LaneMask
  splits : Vector (Option Split) 4
  parked : List Split
  serial : Option (Fin 4)
  ucflag : Bool
  ldc : Nat
  stc : Nat
  cpc : Nat
  tlc : Nat
  loads : List PendLoad
  stores : List PendStore
  fences : List Nat
  predWait : List (Nat × LaneMask)
  carry : Vector (Option Carry) 8
  ports : Vector (Option Port) 8
  nextb : BitVec 4
  batches : List Batch
  tiles : List TileOp
  prio : Fin 4
  issued : Nat
  deriving DecidableEq, Repr

/-- A task record (14 R262). -/
structure TaskRec where
  entry : Word
  arg : Word
  tc0 : W32
  tc1 : W32
  tc2 : W32
  succ : Word
  groups : Nat
  win : Nat
  tiles : Nat
  chan : Nat
  budget : Nat
  spill : Nat
  stash : Nat
  prog : Nat
  prio : Nat
  replay : Bool
  paired : Bool
  chk : Nat
  ctx : Nat
  deriving DecidableEq, Repr

/-- What a trap records (16 R296); lanes 0 and kind 0 where none applies. -/
structure TrapInfo where
  cause : Nat
  sub : Nat
  kind : Nat
  lanes : LaneMask
  addr : Word
  info : Word
  deriving DecidableEq, Repr

inductive HaltPhase where
  | skid
  | stopped
  | handling
  deriving DecidableEq, Repr

/-- A gang's halt (16 R294): the trap, the faulting split, and per group the instructions issued since; `ended`
lists splits that stopped at a trap of their own; `double` is a trap the handler itself raised (R297), with the PC, the next PC and the
execution mask of the instruction that raised it. -/
structure Halt where
  trap : TrapInfo
  group : Nat
  split : Fin 4
  pc : Word
  npc : Word
  execm : LaneMask
  phase : HaltPhase
  skid : List (Nat × Nat)
  ended : List (Nat × Nat)
  double : Option TrapInfo
  dpc : Word
  dnpc : Word
  dexec : LaneMask
  deriving DecidableEq, Repr

/-- The control registers (16 R301). -/
structure Csrs where
  hvec : Word
  hdeleg : Word
  hframe : Word
  hscratch : Word
  trapcnt : W32
  waddr : Vector Word 4
  wctl : Vector Word 4
  deriving DecidableEq, Repr

/-- The recovery-point registers (18 R329), and the base of the gang's block when the state area was written (R334). -/
structure Rpt where
  gen : W32
  pc : Word
  state : Word
  durpend : Bool
  base : Nat
  deriving DecidableEq, Repr

/-- A snapshot in the fork-spill area (13 R252), with its offset in 4 KiB units. -/
structure Snapshot where
  off : Nat
  s : Vector Word 384
  m : Vector ModReg 8
  up : Vector Bool 4
  fmt : BitVec 16
  part : BitVec 16
  rpc : Word
  refs : Nat
  deriving DecidableEq, Repr

/-- A pending record in the fork-spill area (13 R252): its byte offset there, the key of its place in the sequence, the ordinals
it covers, the carried registers, its snapshot's offset, and the channels its parent had appended to. -/
structure PendRec where
  off : Nat
  seq : Nat
  first : Nat
  last : Nat
  carry : Nat
  snap : Nat
  regs : List W32
  appended : Nat
  deriving DecidableEq, Repr

/-- A place of the gang sequence: a lane of a group, the pending record with the key (13 R248), or the place of a thread that has ended and
whose appended element is still to be written (04 R85). -/
inductive SeqItem where
  | lane (group lane : Nat)
  | pending (seq : Nat)
  | ended (mark : Nat)
  deriving DecidableEq, Repr

/-- An element appended and not written yet (04 R84), with its thread's place in the sequence, and the 64-byte line of the fork-spill area
it occupies where it has been spilled (R86). -/
structure AppendElem where
  place : SeqItem
  base : Nat
  size : Nat
  val : Word
  line : Option Nat
  deriving DecidableEq, Repr

/-- An append channel (04 R84-R87): who has appended in this epoch, the elements not yet written, the position of the next one
to write, the kept failures (position, cause, subcause, address) and the hole counter. -/
structure Channel where
  done : List (Nat × Nat)
  waiting : List AppendElem
  written : Nat
  failed : List (Nat × Nat × Nat × Word)
  holes : W32
  deriving DecidableEq, Repr

/-- An effect of the task, queue, work-list and future members, or a RED to memory or to the gang's vat, held or performed (14 R276). -/
inductive Effect where
  | qpush (hdr : Nat) (items : List Word)
  | tspawn (hdr : Nat) (record : List Byte)
  | tdone (cell : Nat) (dur : Bool)
  | wlpush (hdr : Nat) (items : List Word)
  | wlins (hdr : Nat) (items : List Word)
  | futset (cell : Nat) (v : Option Word) (dur : Bool)
  | red (us : List Update)
  | redVat (us : List Update)
  deriving DecidableEq, Repr

inductive PairRole where
  | lead
  | trail
  deriving DecidableEq, Repr

inductive PairState where
  | run
  | rollback
  | replay
  | terminated
  deriving DecidableEq, Repr

/-- One global effect waiting in a pair's compare buffer, or logged (17 R322, R323): its signature, and the values
it returned. -/
structure PairEffect where
  sig : W32
  vals : List Word
  deriving DecidableEq, Repr

/-- One copy of a redundant pair (17 R320-R325). Both copies hold the same `log`; `loadq` is the load-value queue the lead
fills, keyed by 32 times the group slot plus the split's lowest lane; `sigs` are its own signatures not matched yet, and whether the effect is
held (R322); `granted` the effects released and not performed yet; `flipped` says that a silent flip has fired in the copy since the
recovery point (24 R368); `gids` is the groupid the next group would have had there; `acts` are what the lead's deckle has done since then, in
order, and `acted` how many of them it has done again (13 R254). -/
structure Pair where
  role : PairRole
  other : Nat
  state : PairState
  loadq : List (Nat × List Word)
  sigs : List (Nat × W32 × Bool)
  granted : List (Nat × W32)
  log : List PairEffect
  count : Nat
  committed : Nat
  plog : Bool
  damaged : Bool
  flipped : Bool
  gids : BitVec 16
  acts : List (List Word)
  acted : Nat
  deriving DecidableEq, Repr

/-- How far a gang is stopped (16 R305, R307). -/
inductive RunState where
  | running
  | preempting
  | preempted
  | saved
  deriving DecidableEq, Repr

/-- A resident gang (07 R140; 13 R248; 14 R262; 16; 18 R329); `parts` gives the partition of each group slot and `places` its
slot in the partition (15 R284, R290); `handlerRest` are the
parts of a handler split that has diverged, suspended (16 R298). -/
structure Gang where
  id : Nat
  ctx : Nat
  core : Nat
  task : TaskRec
  base : Nat
  size : Nat
  parts : List Nat
  places : List Nat
  groups : List Group
  seq : List SeqItem
  nextGid : BitVec 16
  nextSeq : Nat
  pend : List PendRec
  snaps : List Snapshot
  spillVa : Nat
  spillPhys : Nat
  spillSize : Nat
  frameVa : Nat
  framePhys : Nat
  channels : Vector Channel 4
  effects : List Effect
  nr : Bool
  nrOverflow : Bool
  nrRemoval : Bool
  csr : Csrs
  rpt : Rpt
  chk : Fin 3
  refused : Nat
  halt : Option Halt
  handler : Option Split
  handlerRest : List Split
  run : RunState
  pair : Option Pair
  injections : List Injection
  age : Nat
  deriving DecidableEq, Repr

/-! ## Engines, stash and press -/

inductive CmdKind where
  | copy
  | gather
  | scatter
  | scatadd
  | coll (group : Nat)
  deriving DecidableEq, Repr

/-- A destination line of an engine command that the engine has not written: the line; the bytes it moves (offset in the line, source); the
bytes that are known (offset, value), a collective result's or a source unit's that was read with another line (05 R99); whether the line is to
be poisoned; the stopping unit it belongs to (R103). -/
structure CmdLine where
  line : Loc
  moves : List (Nat × Loc)
  vals : List (Nat × Byte)
  bad : Bool
  dur : Bool
  chunk : Nat
  deriving DecidableEq, Repr

/-- An engine command (05 R98-R101): the destination lines still to be written, the updates of a SCATADD, the stopping units that it
has begun (R103), the sync word, and whether the trail of a pair counts it too; `group` is the issuing group's groupid. -/
structure Command where
  id : Nat
  gang : Nat
  group : Nat
  kind : CmdKind
  lines : List CmdLine
  updates : List Update
  begun : List Nat
  sync : Option Nat
  echo : Bool
  deriving DecidableEq, Repr

/-- Bytes posted to a sync word and not arrived yet (07 R151), with the base of the gang's block when they were posted. -/
structure Arrival where
  gang : Nat
  core : Nat
  base : Nat
  addr : Nat
  bytes : Nat
  deriving DecidableEq, Repr

inductive StreamState where
  | free
  | idle
  | run
  deriving DecidableEq, Repr

/-- The tensor layout record a stream engine has loaded (05 R112). -/
structure StreamRec where
  base : Word
  ext : List Nat
  str : List Int
  ring : Nat
  slotLines : Nat
  slots : Nat
  drain : Bool
  esz : Nat
  sync : Option Nat
  deriving DecidableEq, Repr

/-- A stream engine (05 R114-R119): `seq` orders its STRGO among the commands; `elems` are the walk's element addresses translated at
STRGO with the DUR bit; `prod` and `cons` count the slots handed to the consumer and returned by it; `starters` are the (gang, groupid) of the
STRGOs still to complete; `port` is the bound (group, port). The engine of a pair's lead serves the trail too (17 R321): `twin` counts what the
trail's groups have taken or handed over, `twinPort` is the trail's port. -/
structure Stream where
  state : StreamState
  holder : Nat
  seq : Nat
  record : StreamRec
  elems : List (Nat × Bool)
  prod : Nat
  cons : Nat
  twin : Nat
  starters : List (Nat × Nat)
  port : Option (Nat × Nat)
  twinPort : Option (Nat × Nat)
  deriving DecidableEq, Repr

/-- A mapped 4 KiB stash unit (07 R147): vat address, global virtual and physical address, the page's DUR and OWNER, the lines that are CLEAN
(false) or DIRTY (true); the others are INVALID. -/
structure StashUnit where
  vat : Nat
  va : Word
  phys : Nat
  wr : Bool
  coh : Bool
  dur : Bool
  gang : Nat
  lines : List (Nat × Bool)
  cut : Bool
  deriving DecidableEq, Repr

/-- A BECOME the deckle has accepted and not carried out (13 R249, R251). -/
structure DeckleReq where
  gang : Nat
  group : Nat
  split : Fin 4
  carry : Nat
  counts : List (Nat × Nat)
  rpc : Word
  deriving DecidableEq, Repr

/-- An entry of a partition's replay queue (17 R318): the writes held for registers or a carry queue, or the line held for a port, or a
predicate that readers wait for; and how many lanes mismatch until the vote. -/
structure ReplayEntry where
  gang : Nat
  group : Nat
  partition : Nat
  load : PendLoad
  port : Option Nat
  pred : Option Nat
  wrong : Nat
  deriving DecidableEq, Repr

/-- A core: its counters, its TLB (03 R57), the host lines its vat L1 holds (19 R347), stash, stream engines, deckle queue, replay queues. -/
structure CoreRec where
  tlb : List (Nat × Nat)
  hostLines : List (Nat × List Byte)
  conflicts : W32
  serialisations : W32
  reconvOverflow : W32
  stashDrops : W32
  syncOverflow : W32
  metaWaits : W32
  killDiscards : W32
  resolved : W32
  unresolved : W32
  stash : List StashUnit
  streams : Vector Stream 4
  deckle : List DeckleReq
  replay : List ReplayEntry
  deriving DecidableEq, Repr

/-- The tag of a mould (12 R231). -/
inductive MouldTag where
  | dense
  | sparse (slice : Nat) (h : SparseHdr)
  deriving DecidableEq, Repr

/-- A mould (11 R208): cells keyed by 256 k + n, scales keyed by n, the width, the tag, and whether it was loaded from poison (17 R313). -/
structure Mould where
  cells : Memory
  scales : Memory
  wB : Nat
  tag : MouldTag
  bad : Bool
  deriving DecidableEq, Repr

/-- An accumulator (11 R208): bytes keyed by 1,024 i + 4 n, and the rows that are poisoned (17 R313). -/
structure Acc where
  vals : Memory
  poison : LaneMask
  deriving DecidableEq, Repr

/-- A gang's reservation of a press (11 R210, R212). -/
structure Reservation where
  gang : Nat
  releasing : Bool
  moulds : List Mould
  accs : List Acc
  deriving DecidableEq, Repr

structure Press where
  shared : Bool
  reservations : List Reservation
  turn : Nat
  credit : List (Nat × Nat × Nat)
  deriving DecidableEq, Repr

/-- What a saved gang held in its core and its press (16 R307), and the die it was on; its vat allocation and the vat places of its commands are kept under a
core number of its own. -/
structure Saved where
  gang : Nat
  die : Nat
  stash : List StashUnit
  streams : List (Nat × Stream)
  deckle : List DeckleReq
  replay : List ReplayEntry
  reservation : Option Reservation
  deriving DecidableEq, Repr

/-! ## Queues, contexts, host -/

/-- The on-chip part of a queue object (14 R264-R274, 15 R279-R285). -/
structure QueueObj where
  hdr : Nat
  va : Word
  ctx : Nat
  kind : Nat
  die : Nat
  fn : Nat
  aperture : Nat
  prio : Nat
  el : Nat
  timer : Nat
  waited : Nat
  holding : Bool
  onchip : List Word
  deriving DecidableEq, Repr

inductive WaitKind where
  | pop (d : VOp) (c : PReg) (lanes : LaneMask)
  | push (e : Effect) (items : Nat) (src : Option Nat)
  | future (d : SReg) (lanes : LaneMask)
  deriving DecidableEq, Repr

/-- A split linked as a waiter on an object (14 R268, R275). -/
structure Waiter where
  id : Nat
  obj : Nat
  gang : Nat
  group : Nat
  split : Nat
  kind : WaitKind
  deriving DecidableEq, Repr

/-- A push that a fired successor counter makes, with the die of the decrementer (14 R273). -/
structure SuccPush where
  ctx : Nat
  die : Nat
  queue : Word
  record : Word
  deriving DecidableEq, Repr

/-- A checkpoint slot of a context on this chip (18 R328, R336-R339): `table` is the RP table and page list of its record areas; `marks` are
the half-lines of the image that were poisoned or lost when they were copied; `struck` says that an error has struck the image or the parity
since; `records` are the copies of the commit record, one for each stack, none before the commit; `bases` gives the block of each gang of the
table. -/
structure CkptSlot where
  gen : Nat
  table : List Byte
  image : List Byte
  marks : List Nat
  parity : List Byte
  struck : Bool
  records : List (List Byte)
  bases : List (Nat × Nat)
  deriving DecidableEq, Repr

structure Context where
  tag : Nat
  fn : Nat
  pasid : Nat
  quota : Nat
  slack : Nat
  chkmin : Fin 3
  eager : Bool
  finj : Bool
  pool : Nat
  namespaces : Word
  portLo : Nat
  portHi : Nat
  inShared : Bool
  root : Nat
  terminated : Bool
  events : List (List Byte)
  eventCount : Word
  committed : Nat
  slots : Vector (Option CkptSlot) 2
  sealRefusals : W32
  descs : List Nat
  deriving DecidableEq, Repr

/-- One PCIe function: its negotiation, its command queue, its window (19 R345-R350). -/
structure Fn where
  negotiated : Bool
  featacc : BitVec 128
  hadContext : Bool
  commands : List (List Byte)
  window : Option (Nat × Word)
  deriving DecidableEq, Repr

/-- A configured collective group (05 R120, R122): the member chips, this chip's number in it, the tag, the commands that have
arrived here in order, and whether the k-th rendezvous has been joined. -/
structure CollGroup where
  id : Nat
  chips : List Nat
  me : Nat
  tag : Nat
  deriving DecidableEq, Repr

/-- A member of this chip waiting at a rendezvous: a COLL, or a CKSEAL (18 R335). -/
structure CollWait where
  group : Nat
  gang : Nat
  slot : Nat
  split : Nat
  lanes : LaneMask
  pc : Word
  kind : CollKind
  op : RedOp
  ty : Ty
  n : Nat
  root : Nat
  dst : List (Nat × Bool)
  src : List Nat
  isSeal : Option UPReg
  deriving DecidableEq, Repr

/-- A seal whose image is copied and whose record is not written (18 R336): its context, the CKSEAL, and the record to be written. -/
structure Seal where
  ctx : Nat
  wait : CollWait
  record : List Byte
  deriving DecidableEq, Repr

/-- A walk in progress (03 R57): its key, whether a walker serves it, and the cores of the accesses that wait on it. -/
structure Walk where
  ctx : Nat
  page : Nat
  started : Bool
  waiters : List Nat
  deriving DecidableEq, Repr

/-- One compute die: clock, ageing block with the one that a command has written and that applies from the next microsecond (15 R281), walks,
L2 TLB, counters of errors by STRUCT (soft, hard, uncorrectable); `request` is the gang its
distributor has asked to be migrated (15 R285), `nextDispatch` the clock from which it may dispatch again (R282). -/
structure DieRec where
  clock : Word
  ageing : Vector (BitVec 16) 8
  newAgeing : Option (Vector (BitVec 16) 8)
  walks : List Walk
  tlb : List (Nat × Nat)
  walkCount : Word
  coalesced : Word
  fullWaits : Word
  errors : Vector (W32 × W32 × W32) 14
  request : Option Nat
  nextDispatch : Nat
  deriving DecidableEq, Repr

/-- A partial of a line in the update-only state (04 R83). -/
structure Partial where
  die : Nat
  addr : Nat
  size : Nat
  op : AtomOp
  ty : Ty
  val : Word
  dur : Bool
  deriving DecidableEq, Repr

/-- A forwarding entry of a gang that has moved (15 R288): the clocks of its 200 us that are left, and the number the next command had
when it moved. -/
structure Forwarding where
  gang : Nat
  oldCore : Nat
  newCore : Nat
  oldBase : Nat
  newBase : Nat
  left : Nat
  before : Nat
  deriving DecidableEq, Repr

/-- The part's factory data (01 R1, R12, R13; 19 R351), the peers' chip numbers and hop counts, the pairs of peers that are one Haluf hop
apart (01 R18), and the 64 KiB host frames that ATS does not translate for a function and PASID (19 R344). -/
structure Part where
  grade : Fin 3
  disabled : Vector (List Nat) 4
  chip : Nat
  mappable : Vector Nat 8
  peers : List (Nat × Nat)
  neighbours : List (Nat × Nat)
  lostPeers : List Nat
  untranslated : List (Nat × Nat × Nat)
  deriving DecidableEq, Repr

/-- Boot progress (19 R345, R352). -/
structure Boot where
  state : BitVec 4
  patched : Bool
  failure : Byte
  deriving DecidableEq, Repr

/-- What a host read of a function's BAR2 window completes with: its bytes, a Completer Abort, and whether the EP bit is set (03 R63; 19
R346). -/
structure Completion where
  fn : Nat
  data : List Byte
  aborted : Bool
  poisoned : Bool
  deriving DecidableEq, Repr

/-- Which split issues: a gang, a group slot, and a split slot 0-3, or 4 for the handler split. -/
structure Focus where
  gang : Nat
  group : Nat
  split : Nat
  deriving DecidableEq, Repr

/-- One turn of the agenda (the model's own oracle, log 1): a split issues, an event happens, or clocks pass. -/
inductive Turn where
  | issue (f : Focus)
  | event (i : Instr)
  | tick (n : Nat)
  deriving DecidableEq, Repr

/-- The whole machine. `poison` are half-lines of memory, `lost` lines (17 R313, R326); `poisonTags` names the owner tag of a half-line that an
engine has poisoned under its gang's tag (05 R102), the others being the page's OWNER's; `completion` is that of the last read of BAR2;
`monotonic` the latest monotonic time a system call has returned (16 R302). -/
structure State where
  part : Part
  boot : Boot
  mem : Memory
  poison : List Nat
  poisonTags : List (Nat × Nat)
  lost : List Nat
  undurable : List Host.Cell
  vat : Memory
  vatPoison : List Nat
  partials : List Partial
  dies : Vector DieRec 4
  cores : List CoreRec
  presses : List Press
  commands : List Command
  nextCmd : Nat
  arrivals : List Arrival
  gangs : List Gang
  nextGang : Nat
  queues : List QueueObj
  waiters : List Waiter
  nextWaiter : Nat
  succs : List SuccPush
  contexts : List Context
  fns : List Fn
  collGroups : List CollGroup
  collWaits : List CollWait
  seals : List Seal
  forwards : List Forwarding
  saves : List Saved
  powerCap : Nat
  withheld : Word
  errorLog : List (List Byte)
  badRecords : W32
  tableNext : Nat
  interrupts : List (Nat × Nat)
  completion : Option Completion
  monotonic : Nat
  order : Nat
  free : Nat
  cur : Focus
  agenda : List Turn
  deriving DecidableEq, Repr

/-! ## Reset -/

/-- No bytes listed. -/
def Memory.empty : Memory := { cells := [] }

/-- A stream engine that no gang holds (05 R114). -/
def Stream.vacant : Stream :=
  { state := .free, holder := 0, seq := 0
    record := { base := 0, ext := [], str := [], ring := 0, slotLines := 1, slots := 1, drain := false, esz := 0, sync := Option.none }
    elems := [], prod := 0, cons := 0, twin := 0, starters := [], port := Option.none, twinPort := Option.none }

/-- A core with nothing resident; its counters are 0. -/
def CoreRec.reset : CoreRec :=
  { tlb := [], hostLines := [], conflicts := 0, serialisations := 0, reconvOverflow := 0, stashDrops := 0, syncOverflow := 0, metaWaits := 0
    killDiscards := 0, resolved := 0, unresolved := 0, stash := [], streams := Vector.replicate 4 Stream.vacant
    deckle := [], replay := [] }

/-- A press nobody has reserved, in the SHARED mode of start-up (11 R212; DEDUCED, log 116). -/
def Press.reset : Press := { shared := true, reservations := [], turn := 0, credit := [] }

/-- A die: its clock is 0 (16 R260: clocks since the die left reset), its ageing block as R280 gives. -/
def DieRec.reset : DieRec :=
  { clock := 0, ageing := #v[10000, 5000, 2000, 1000, 500, 200, 100, 50], newAgeing := none, walks := [], tlb := [], walkCount := 0
    coalesced := 0, fullWaits := 0, errors := Vector.replicate 14 (0, 0, 0), request := none, nextDispatch := 0 }

/-- A function nobody has negotiated for (19 R345). -/
def Fn.reset : Fn := { negotiated := false, featacc := 0, hadContext := false, commands := [], window := none }

/-- DESIGN CHOICE (log 3): a D9-128 whose spare is physical cluster 8 of each die, chip 0, 1 GiB reserved per stack,
no reachable peer. -/
def Part.reset : Part :=
  { grade := 0, disabled := Vector.replicate 4 [8], chip := 0
    mappable := Vector.replicate 8 (2 ^ 20 - 2 ^ 14), peers := [], neighbours := [], lostPeers := [], untranslated := [] }

/-- The machine right after reset: nothing booted, nothing resident, every counter 0. -/
def State.reset : State :=
  { part := Part.reset, boot := { state := 0, patched := false, failure := 0 }
    mem := Memory.empty, poison := [], poisonTags := [], lost := [], undurable := [], vat := Memory.empty
    vatPoison := [], partials := [], dies := Vector.replicate 4 DieRec.reset
    cores := List.replicate 128 CoreRec.reset, presses := List.replicate 32 Press.reset
    commands := [], nextCmd := 0, arrivals := [], gangs := [], nextGang := 1, queues := [], waiters := []
    nextWaiter := 0, succs := [], contexts := [], fns := List.replicate 17 Fn.reset, collGroups := []
    collWaits := [], seals := [], forwards := [], saves := [], powerCap := 2400, withheld := 0, errorLog := [], badRecords := 0
    tableNext := 0, interrupts := [], completion := none, monotonic := 0, order := 0, free := 0
    cur := { gang := 0, group := 0, split := 0 }, agenda := [] }

end Sys2Proof.Machine
end

