-- ==== Sys2Proof/Machine/Bits.lean ====
section
/-! DEFINITION. Bit, byte and lane-mask helpers: byte order (00 R5), lane iteration in increasing order (00 R7), CRC-32C (03 R60). -/

namespace Sys2Proof.Machine

/-- The lanes of a mask in increasing order (00 R7). -/
def lanesOf (m : LaneMask) : List Nat := (List.range 32).filter (fun l => m.getLsbD l)

/-- The mask of one lane. -/
def laneBit (l : Nat) : LaneMask := BitVec.ofNat 32 (2 ^ l)

/-- The mask of a list of lanes. -/
def maskOf (ls : List Nat) : LaneMask := ls.foldl (fun m l => m ||| laneBit l) 0

/-- The lowest lane of a mask; 32 when it is empty. -/
def lowestLane (m : LaneMask) : Nat := (lanesOf m).headD 32

/-- The number of lanes of a mask. -/
def laneCount (m : LaneMask) : Nat := (lanesOf m).length

/-- The mask whose lane `l` is set where `q l` holds. -/
def maskWhere (q : Nat → Bool) : LaneMask := maskOf ((List.range 32).filter q)

/-- A little-endian number from bytes, lowest first (00 R5). -/
def leNat : List Byte → Nat
  | [] => 0
  | b :: bs => b.toNat + 2 ^ 8 * leNat bs

/-- The `n` little-endian bytes of a number. -/
def leBytes : Nat → Nat → List Byte
  | 0, _ => []
  | n + 1, w => BitVec.ofNat 8 w :: leBytes n (w / 2 ^ 8)

/-- `n` zero bytes. -/
def zeroBytes (n : Nat) : List Byte := List.replicate n 0

/-- Bytes `a` to `a + n - 1` of a list, 0 beyond its end. -/
def sliceBytes (bs : List Byte) (a n : Nat) : List Byte := (List.range n).map (fun i => bs.getD (a + i) 0)

/-- The little-endian number in bytes `a` to `a + n - 1` of a list. -/
def fieldAt (bs : List Byte) (a n : Nat) : Nat := leNat (sliceBytes bs a n)

/-- Bits `h` to `l` of a number (00 R7). -/
def bitsOf (x h l : Nat) : Nat := x / 2 ^ l % 2 ^ (h + 1 - l)

/-- The number read as signed in `n` bits. -/
def signedOf (n x : Nat) : Int := if x % 2 ^ n < 2 ^ (n - 1) then (x % 2 ^ n : Nat) else (x % 2 ^ n : Nat) - (2 ^ n : Nat)

/-- An integer reduced modulo 2^n. -/
def wrapInt (n : Nat) (i : Int) : Nat := (i % (2 ^ n : Nat)).toNat

/-- The smallest multiple of `k` not below `n`. -/
def roundUp (n k : Nat) : Nat := (n + k - 1) / k * k

/-- One bit of the CRC. -/
def crcBit (c : W32) : W32 := if c.getLsbD 0 then (c >>> 1) ^^^ 0x82F63B78#32 else c >>> 1

/-- One byte of the CRC. -/
def crcByte (c : W32) (b : Byte) : W32 :=
  crcBit (crcBit (crcBit (crcBit (crcBit (crcBit (crcBit (crcBit (c ^^^ b.zeroExtend 32))))))))

/-- CRC-32C: bit-reflected polynomial 0x82F63B78, initial value all ones, final value complemented (03 R60). -/
def crc32c (bs : List Byte) : W32 := ~~~ (bs.foldl crcByte 0xFFFFFFFF#32)

/-- Replace the first element that satisfies a test. -/
def replaceFirst {α : Type} (q : α → Bool) (x : α) : List α → List α
  | [] => []
  | y :: ys => if q y then x :: ys else y :: replaceFirst q x ys

/-- An element with its index. -/
def enumFrom {α : Type} : Nat → List α → List (Nat × α)
  | _, [] => []
  | n, x :: xs => (n, x) :: enumFrom (n + 1) xs

end Sys2Proof.Machine
end

