-- ==== Sys2Proof/Machine/Flags.lean ====
section
/-! DEFINITION. The integer operations of 09 R177 as exact results and their delivery (08 R167): wrapping and saturation, comparisons (09 R180), bit fields (R182), carry (R181). The part keeps no arithmetic flags (08 R161). -/

namespace Sys2Proof.Machine

/-! ## Exact integers and delivery -/

/-- A source read at the width of the type, extended by its signedness (09 R177). -/
def readInt (ty : Ty) (w : Word) : Int :=
  if ty.isSigned then signedOf ty.bits w.toNat else ((w.toNat % 2 ^ ty.bits : Nat) : Int)

/-- The least and the greatest value of an integer type (08 R167). -/
def tyMin (ty : Ty) : Int := if ty.isSigned then -((2 ^ (ty.bits - 1) : Nat) : Int) else 0
def tyMax (ty : Ty) : Int := if ty.isSigned then ((2 ^ (ty.bits - 1) : Nat) : Int) - 1 else ((2 ^ ty.bits : Nat) : Int) - 1

/-- The exact integer clamped to the type's range (08 R167). -/
def clampTy (ty : Ty) (i : Int) : Int :=
  if i < tyMin ty then tyMin ty else if tyMax ty < i then tyMax ty else i

/-- The exact integer delivered at the type's width, as its n bits: wrapping, or saturating (08 R167). -/
def deliver (ty : Ty) (sat : Bool) (i : Int) : Nat := wrapInt ty.bits (if sat then clampTy ty i else i)

/-- A delivered value extended to 64 bits by its type, as a uniform member writes it (09 R176). -/
def extendTy (ty : Ty) (n : Nat) : Word :=
  if ty.isSigned then BitVec.ofInt 64 (signedOf ty.bits n) else BitVec.ofNat 64 (n % 2 ^ ty.bits)

/-! ## The operations of R177 -/

/-- The two-source operations. -/
inductive IntOp where
  | add | sub | mul | mulh | min | max | and | or | xor | shl | shr | sra
  deriving DecidableEq, Repr

/-- floor of an integer over a power of two. -/
def floorShift (i : Int) (n : Nat) : Int := i / ((2 ^ n : Nat) : Int)

/-- The exact result from the sources' bits (09 R177). -/
def intOp (op : IntOp) (ty : Ty) (a b : Word) : Int :=
  let n := ty.bits
  let x := readInt ty a
  let y := readInt ty b
  let ua := a.toNat % 2 ^ n
  let ub := b.toNat % 2 ^ n
  match op with
  | .add => x + y
  | .sub => x - y
  | .mul => x * y
  | .mulh => floorShift (x * y) n
  | .min => if x ≤ y then x else y
  | .max => if x ≤ y then y else x
  | .and => ((ua &&& ub : Nat) : Int)
  | .or => ((ua ||| ub : Nat) : Int)
  | .xor => ((ua ^^^ ub : Nat) : Int)
  | .shl => if ub < n then ((ua * 2 ^ ub : Nat) : Int) else 0
  | .shr => if ub < n then ((ua / 2 ^ ub : Nat) : Int) else 0
  | .sra => if ub < n then floorShift (signedOf n ua) ub else if signedOf n ua < 0 then -1 else 0

/-- The number of one bits of an n-bit value. -/
def popCount (n x : Nat) : Nat := ((List.range n).filter (fun i => x.testBit i)).length

/-- The number of leading zeros of an n-bit value: n when it is 0 (09 R177). -/
def leadingZeros : Nat → Nat → Nat
  | 0, _ => 0
  | n + 1, x => if x.testBit n then 0 else leadingZeros n x + 1

/-- The one-source operations. -/
inductive UnOp where
  | popc | clz | abs
  deriving DecidableEq, Repr

/-- POPC, CLZ and ABS (09 R177). -/
def unOp (op : UnOp) (ty : Ty) (a : Word) : Int :=
  match op with
  | .popc => (popCount ty.bits a.toNat : Nat)
  | .clz => (leadingZeros ty.bits a.toNat : Nat)
  | .abs => (readInt ty a).natAbs

/-- Integer comparisons accept CC 0-5, float ones CC 0-7 (09 R180). -/
def intCondOk (c : Cond) : Bool :=
  match c with
  | .num | .nan | .bad _ => false
  | _ => true

def floatCondOk (c : Cond) : Bool :=
  match c with
  | .bad _ => false
  | _ => true

/-- POS and LEN of a bit field of an `n`-bit type (09 R182). -/
def fieldOk (n : Nat) (pos len : Fin 128) : Bool :=
  decide (len.val ≠ 0) && decide (len.val ≤ n) && decide (pos.val + len.val ≤ n)

/-- The conditions on integers (09 R180). -/
def intCond (c : Cond) (x y : Int) : Bool :=
  match c with
  | .eq => decide (x = y)
  | .ne => decide (x ≠ y)
  | .lt => decide (x < y)
  | .le => decide (x ≤ y)
  | .gt => decide (y < x)
  | .ge => decide (y ≤ x)
  | .num => true
  | .nan | .bad _ => false

/-! ## Bit fields (09 R182) -/

/-- The field of LEN bits at POS, extended to the type's width by its signedness. -/
def bfx (ty : Ty) (a : Word) (pos len : Nat) : Nat :=
  let field := a.toNat % 2 ^ ty.bits / 2 ^ pos % 2 ^ len
  if ty.isSigned then wrapInt ty.bits (signedOf len field) else field

/-- `a` with LEN bits at POS replaced by the low bits of `b`. -/
def bfi (ty : Ty) (a b : Word) (pos len : Nat) : Nat :=
  let x := a.toNat % 2 ^ ty.bits
  x % 2 ^ pos + 2 ^ pos * (b.toNat % 2 ^ len) + 2 ^ (pos + len) * (x / 2 ^ (pos + len))

/-! ## Products and carries (09 R181) -/

/-- The exact four-way INT8 dot product. -/
def dot4 (a b : Word) : Int :=
  (List.range 4).foldl (fun t i => t + signedOf 8 (bitsOf a.toNat (8 * i + 7) (8 * i)) * signedOf 8 (bitsOf b.toNat (8 * i + 7) (8 * i))) 0

/-- The 33-bit sum of VADDC. -/
def addc (a b : W32) (c : Bool) : Nat := a.toNat + b.toNat + bit c

end Sys2Proof.Machine
end

