-- ==== Sys2Proof/Machine/Float.lean ====
section
/-! DEFINITION. The IEEE formats, rounding and conversions (08 R158-R166), the float operations (09 R185-R187), the special functions (09 R189), block floating point (08 R168-R171) and the press's contribution (08 R172): exact dyadic arithmetic and one rounding. -/

namespace Sys2Proof.Machine

/-! ## Formats and values (08 R158) -/

/-- A binary format: exponent bits and fraction bits. -/
structure FFmt where
  eb : Nat
  fb : Nat
  deriving DecidableEq, Repr

def f16 : FFmt := { eb := 5, fb := 10 }
def bf16 : FFmt := { eb := 8, fb := 7 }
def f32 : FFmt := { eb := 8, fb := 23 }
def f64 : FFmt := { eb := 11, fb := 52 }

/-- The format of a floating-point type; the other types never reach it. -/
def fmtOf : Ty → FFmt
  | .f16 => f16
  | .bf16 => bf16
  | .f64 => f64
  | _ => f32

def FFmt.bits (F : FFmt) : Nat := 1 + F.eb + F.fb
def FFmt.bias (F : FFmt) : Nat := 2 ^ (F.eb - 1) - 1
def FFmt.emin (F : FFmt) : Int := 1 - (F.bias : Int)

/-- Rounding modes (08 R162). -/
inductive RoundMode where
  | rne | rtz | rup | rdn
  deriving DecidableEq, Repr

/-- A value: NaN, an infinity, or (-1)^s · m · 2^e, a zero when m = 0. -/
inductive FVal where
  | nan
  | inf (s : Bool)
  | num (s : Bool) (m : Nat) (e : Int)
  deriving DecidableEq, Repr

def FFmt.signBit (F : FFmt) (s : Bool) : Nat := if s then 2 ^ (F.eb + F.fb) else 0
def FFmt.zero (F : FFmt) (s : Bool) : Nat := F.signBit s
def FFmt.inf (F : FFmt) (s : Bool) : Nat := F.signBit s + (2 ^ F.eb - 1) * 2 ^ F.fb
def FFmt.maxFinite (F : FFmt) (s : Bool) : Nat := F.inf s - 1
/-- The canonical NaN (08 R158, R160). -/
def FFmt.qnan (F : FFmt) : Nat := F.inf false + 2 ^ (F.fb - 1)

/-- Whether bit 8 of FMT acts: it governs FP32 denormals only (08 R163). -/
def FFmt.flush (F : FFmt) (ftz : Bool) : Bool := ftz && decide (F = f32)

/-- The value of a bit pattern as an instruction reads it (08 R158, R159, R163). -/
def FFmt.unpack (F : FFmt) (ftz : Bool) (x : Nat) : FVal :=
  let s := x.testBit (F.eb + F.fb)
  let e := x / 2 ^ F.fb % 2 ^ F.eb
  let f := x % 2 ^ F.fb
  if e = 2 ^ F.eb - 1 then (if f = 0 then .inf s else .nan)
  else if e = 0 then (if F.flush ftz then .num s 0 0 else .num s f (F.emin - F.fb))
  else .num s (f + 2 ^ F.fb) ((e : Int) - F.bias - F.fb)

/-! ## Rounding (08 R162, R163) -/

/-- m / 2^k rounded to an integer; `s` is the sign of the whole. -/
def roundShift (m : Nat) (k : Int) (s : Bool) (rm : RoundMode) : Nat :=
  if k ≤ 0 then m * 2 ^ (-k).toNat
  else
    let d := 2 ^ k.toNat
    let q := m / d
    let r := m % d
    match rm with
    | .rne => if d < 2 * r ∨ (2 * r = d ∧ q % 2 = 1) then q + 1 else q
    | .rtz => q
    | .rup => if r ≠ 0 ∧ !s then q + 1 else q
    | .rdn => if r ≠ 0 ∧ s then q + 1 else q

/-- The overflow table of R162. -/
def FFmt.overflow (F : FFmt) (s : Bool) (rm : RoundMode) : Nat :=
  match rm with
  | .rne => F.inf s
  | .rtz => F.maxFinite s
  | .rup => if s then F.maxFinite s else F.inf s
  | .rdn => if s then F.inf s else F.maxFinite s

/-- The exact value (-1)^s · m · 2^e rounded to the format; a zero keeps the sign (08 R162-R164). -/
def FFmt.round (F : FFmt) (rm : RoundMode) (ftz : Bool) (s : Bool) (m : Nat) (e : Int) : Nat :=
  if m = 0 then F.zero s
  else
    let flush := F.flush ftz
    let lead := e + (Nat.log2 m : Nat)
    let q0 := (if flush then lead else max lead F.emin) - F.fb
    let m1 := roundShift m (q0 - e) s rm
    let up := decide (2 ^ (F.fb + 1) ≤ m1)
    let m2 := if up then m1 / 2 else m1
    let q := if up then q0 + 1 else q0
    if m2 = 0 then F.zero s
    else
      let top := q + (Nat.log2 m2 : Nat)
      if flush ∧ top < F.emin then F.zero s
      else if (F.bias : Int) < top then F.overflow s rm
      else if 2 ^ F.fb ≤ m2 then F.signBit s + (q + F.fb + F.bias).toNat * 2 ^ F.fb + (m2 - 2 ^ F.fb)
      else F.signBit s + m2

/-- A value's bits in the format. -/
def FFmt.pack (F : FFmt) (rm : RoundMode) (ftz : Bool) : FVal → Nat
  | .nan => F.qnan
  | .inf s => F.inf s
  | .num s m e => F.round rm ftz s m e

/-! ## Arithmetic (09 R185, 08 R164) -/

/-- A signed significand. -/
def signedM (s : Bool) (m : Nat) : Int := if s then -(m : Int) else m

/-- The exact sum of two finite values; the sign of an exact zero by R164. -/
def sumNum (rm : RoundMode) (s1 : Bool) (m1 : Nat) (e1 : Int) (s2 : Bool) (m2 : Nat) (e2 : Int) : FVal :=
  let e := min e1 e2
  let v := signedM s1 (m1 * 2 ^ (e1 - e).toNat) + signedM s2 (m2 * 2 ^ (e2 - e).toNat)
  if v = 0 then
    if m1 = 0 ∧ m2 = 0 ∧ s1 = s2 then .num s1 0 0 else .num (decide (rm = .rdn)) 0 0
  else .num (decide (v < 0)) v.natAbs e

def FVal.add (rm : RoundMode) : FVal → FVal → FVal
  | .nan, _ | _, .nan => .nan
  | .inf s, .inf t => if s = t then .inf s else .nan
  | .inf s, .num .. => .inf s
  | .num .., .inf t => .inf t
  | .num s1 m1 e1, .num s2 m2 e2 => sumNum rm s1 m1 e1 s2 m2 e2

def FVal.neg : FVal → FVal
  | .nan => .nan
  | .inf s => .inf (!s)
  | .num s m e => .num (!s) m e

def FVal.mul : FVal → FVal → FVal
  | .nan, _ | _, .nan => .nan
  | .inf s, .inf t => .inf (s != t)
  | .inf s, .num t m _ | .num t m _, .inf s => if m = 0 then .nan else .inf (s != t)
  | .num s1 m1 e1, .num s2 m2 e2 => .num (s1 != s2) (m1 * m2) (e1 + e2)

/-- The order of two values that are not NaN: whether x < y. -/
def FVal.lt : FVal → FVal → Bool
  | .nan, _ | _, .nan => false
  | .inf s, .inf t => s && !t
  | .inf s, .num .. => s
  | .num .., .inf t => !t
  | .num s1 m1 e1, .num s2 m2 e2 =>
    let e := min e1 e2
    decide (signedM s1 (m1 * 2 ^ (e1 - e).toNat) < signedM s2 (m2 * 2 ^ (e2 - e).toNat))

def FVal.isNan : FVal → Bool
  | .nan => true
  | _ => false

/-- The two-operand operations of OP 0x10. -/
inductive FOp where
  | add | sub | mul | min | max
  deriving DecidableEq, Repr

def FVal.sign : FVal → Bool
  | .nan => false
  | .inf s => s
  | .num s _ _ => s

/-- FMIN and FMAX (09 R185, 08 R164). -/
def FVal.minmax (isMax : Bool) (a b : FVal) : FVal :=
  if a.isNan then b
  else if b.isNan then a
  else if a.lt b then (if isMax then b else a)
  else if b.lt a then (if isMax then a else b)
  else if isMax then (if a.sign then b else a) else (if a.sign then a else b)

/-- One element of FADD, FSUB, FMUL, FMIN or FMAX. -/
def fop2 (op : FOp) (F : FFmt) (rm : RoundMode) (ftz : Bool) (a b : Nat) : Nat :=
  let x := F.unpack ftz a
  let y := F.unpack ftz b
  F.pack rm ftz (match op with
    | .add => x.add rm y
    | .sub => x.add rm y.neg
    | .mul => x.mul y
    | .min => x.minmax false y
    | .max => x.minmax true y)

/-- One element of FFMA: one rounding of the exact a·b + c. -/
def ffma (F : FFmt) (rm : RoundMode) (ftz : Bool) (a b c : Nat) : Nat :=
  F.pack rm ftz (((F.unpack ftz a).mul (F.unpack ftz b)).add rm (F.unpack ftz c))

/-- FABS and FNEG of the operand as read; a NaN gives the canonical NaN. -/
def fabsF (F : FFmt) (ftz : Bool) (a : Nat) : Nat :=
  F.pack .rne false (match F.unpack ftz a with
    | .nan => .nan
    | .inf _ => .inf false
    | .num _ m e => .num false m e)

def fnegF (F : FFmt) (ftz : Bool) (a : Nat) : Nat := F.pack .rne false (F.unpack ftz a).neg

/-- FSET's conditions (09 R180). -/
def fcond (c : Cond) (F : FFmt) (ftz : Bool) (a b : Nat) : Bool :=
  let x := F.unpack ftz a
  let y := F.unpack ftz b
  let n := x.isNan || y.isNan
  match c with
  | .num => !n
  | .nan => n
  | .bad _ => false
  | .eq => !n && !x.lt y && !y.lt x
  | .ne => n || x.lt y || y.lt x
  | .lt => x.lt y
  | .le => !n && !y.lt x
  | .gt => y.lt x
  | .ge => !n && !x.lt y

/-- FCLASS of the raw bits (09 R186). -/
def fclass (F : FFmt) (a : Nat) : Nat :=
  let e := a / 2 ^ F.fb % 2 ^ F.eb
  let f := a % 2 ^ F.fb
  let s := a.testBit (F.eb + F.fb)
  if e = 2 ^ F.eb - 1 then
    if f = 0 then (if s then 2 ^ 0 else 2 ^ 7) else if f.testBit (F.fb - 1) then 2 ^ 9 else 2 ^ 8
  else if e = 0 then
    if f = 0 then (if s then 2 ^ 3 else 2 ^ 4) else if s then 2 ^ 2 else 2 ^ 5
  else if s then 2 ^ 1 else 2 ^ 6

/-! ## Conversions (08 R165, R166; 09 R187) -/

/-- A finite value rounded to an integer. -/
def roundToInt (rm : RoundMode) (s : Bool) (m : Nat) (e : Int) : Int := signedM s (roundShift m (-e) s rm)

/-- FRND (09 R187): a zero result keeps the sign of the input. -/
def frndF (F : FFmt) (rm : RoundMode) (ftz : Bool) (a : Nat) : Nat :=
  match F.unpack ftz a with
  | .nan => F.qnan
  | .inf s => F.inf s
  | .num s m e =>
    if 0 ≤ e then F.round .rne false s m e else F.round .rne false s (roundShift m (-e) s rm) 0

/-- Float to integer (08 R166), delivered as n bits. -/
def floatToInt (F : FFmt) (ty : Ty) (rm : RoundMode) (ftz satc : Bool) (a : Nat) : Nat :=
  match F.unpack ftz a with
  | .nan => 0
  | .inf s => if satc then wrapInt ty.bits (if s then tyMin ty else tyMax ty) else 0
  | .num s m e => deliver ty satc (roundToInt rm s m e)

/-- Integer to float (08 R166). -/
def intToFloat (F : FFmt) (rm : RoundMode) (ftz : Bool) (i : Int) : Nat := F.round rm ftz (decide (i < 0)) i.natAbs 0

/-- Integer to integer (08 R166): a wider destination holds the extended value, any other wraps or saturates. -/
def intToInt (ty : Ty) (satc : Bool) (src : Ty) (i : Int) : Nat :=
  deliver ty (satc && decide (ty.bits ≤ src.bits)) i

/-- A conversion between two types of R187, the bits of the result at the destination's width. Widening is exact, so only a
narrowing flushes its FP32 result (08 R165; log 117). -/
def convert (dty sty : Ty) (rm : RoundMode) (ftz satc : Bool) (a : Word) : Nat :=
  if sty.isFloat then
    let x := a.toNat % 2 ^ sty.bits
    if dty.isFloat then (fmtOf dty).pack rm (ftz && decide (dty.bits < sty.bits)) ((fmtOf sty).unpack ftz x)
    else floatToInt (fmtOf sty) dty rm ftz satc x
  else
    let i := readInt sty a
    if dty.isFloat then intToFloat (fmtOf dty) rm ftz i else intToInt dty satc sty i

/-! ## Reciprocal and square root, correctly rounded (09 R189) -/

/-- The integer square root, one bit at a time from bit `k` down. -/
def isqrtFrom (n : Nat) : Nat → Nat → Nat
  | 0, r => if (r + 1) * (r + 1) ≤ n then r + 1 else r
  | k + 1, r => isqrtFrom n k (if (r + 2 ^ (k + 1)) * (r + 2 ^ (k + 1)) ≤ n then r + 2 ^ (k + 1) else r)

def isqrt (n : Nat) : Nat := isqrtFrom n (Nat.log2 n / 2 + 1) 0

/-- A quotient with a sticky bit below it: enough bits for one correct rounding. -/
def ratio (F : FFmt) (rm : RoundMode) (ftz s : Bool) (n d : Nat) (e : Int) : Nat :=
  let k := (Nat.log2 d + F.fb + 4) - Nat.log2 n
  F.round rm ftz s (2 * (n * 2 ^ k / d) + (if n * 2 ^ k % d = 0 then 0 else 1)) (e - k - 1)

def frcpF (F : FFmt) (rm : RoundMode) (ftz : Bool) (a : Nat) : Nat :=
  match F.unpack ftz a with
  | .nan => F.qnan
  | .inf s => F.zero s
  | .num s m e => if m = 0 then F.inf s else ratio F rm ftz s 1 m (-e)

def fsqrtF (F : FFmt) (rm : RoundMode) (ftz : Bool) (a : Nat) : Nat :=
  match F.unpack ftz a with
  | .nan => F.qnan
  | .inf s => if s then F.qnan else F.inf false
  | .num s m e =>
    if m = 0 then F.zero s
    else if s then F.qnan
    else
      let m1 := if e % 2 = 0 then m else 2 * m
      let e1 := if e % 2 = 0 then e else e - 1
      let k := F.fb + 4
      let n := m1 * 2 ^ (2 * k)
      let r := isqrt n
      F.round rm ftz false (2 * r + (if r * r = n then 0 else 1)) (e1 / 2 - k - 1)

/-! ## The special functions whose last bits the manual leaves open (09 R189)

A reference in fixed point (values scaled by 2^fxP) decides whether the free value lies within the stated bound; a free
value outside it is replaced by the reference, rounded. -/

/-- Fraction bits of the fixed-point reference. -/
def fxP : Nat := 128

def fxMul (a b : Int) : Int := a * b / ((2 ^ fxP : Nat) : Int)

/-- ln 2, log2 e and pi, scaled by 2^128. -/
def fxLn2 : Int := 235865763225513294137944142764154484399
def fxLog2e : Int := 490923683258796565746369346286093237521
def fxPi : Int := 1069028584064966747859680373161870783300

/-- Horner's rule for a series with term ratio `step i`: 1 + x·(1/1)(1 + x·(1/2)(...)). -/
def fxExpFrom (x : Int) : Nat → Nat → Int → Int
  | 0, _, acc => acc
  | n + 1, k, acc => fxExpFrom x n (k - 1) ((2 ^ fxP : Nat) + fxMul x acc / (k : Int))

/-- e^x for 0 ≤ x < 1. -/
def fxExp (x : Int) : Int := fxExpFrom x 40 40 (2 ^ fxP : Nat)

/-- sin x for 0 ≤ x ≤ pi/2: x(1 - x²/(2·3)(1 - x²/(4·5)(...))). -/
def fxSinFrom (x2 : Int) : Nat → Nat → Int → Int
  | 0, _, acc => acc
  | n + 1, k, acc => fxSinFrom x2 n (k - 1) ((2 ^ fxP : Nat) - fxMul x2 acc / ((2 * k * (2 * k + 1) : Nat) : Int))

def fxSin (x : Int) : Int := fxMul x (fxSinFrom (fxMul x x) 24 24 (2 ^ fxP : Nat))

/-- The fraction bits of log2 m for 1 ≤ m < 2, by squaring. -/
def fxLogFrom : Nat → Int → Int → Int
  | 0, _, acc => acc
  | n + 1, m, acc =>
    let q := fxMul m m
    if ((2 ^ (fxP + 1) : Nat) : Int) ≤ q then fxLogFrom n (q / 2) (2 * acc + 1) else fxLogFrom n q (2 * acc)

/-- A finite value in fixed point, rounded down. -/
def fxOf (s : Bool) (m : Nat) (e : Int) : Int :=
  let k := e + fxP
  if 0 ≤ k then signedM s (m * 2 ^ k.toNat) else signedM s m / ((2 ^ (-k).toNat : Nat) : Int)

/-- 2^y for a fixed-point y, as a significand scaled by 2^fxP and an exponent. -/
def fxExp2 (y : Int) : Int × Int :=
  let n := y / ((2 ^ fxP : Nat) : Int)
  (fxExp (fxMul (y % ((2 ^ fxP : Nat) : Int)) fxLn2), n)

/-- A reference value: sign, significand and exponent. -/
structure FRef where
  s : Bool
  m : Nat
  e : Int
  deriving DecidableEq, Repr

/-- The free value if it is finite and within the bound of the reference (`ulps` units in the last place at the exact result, or
2^abs when larger), widened by the reference's own error; else the reference rounded to nearest. -/
def withinBound (ref : FRef) (ulps : Nat) (abs : Option Int) (free : Nat) : Nat :=
  let fallback := f32.round .rne false ref.s ref.m ref.e
  match f32.unpack false free with
  | .num s m e =>
    let ulp : Int := max (ref.e + (Nat.log2 ref.m : Nat) - 23) (-149)
    let base := min (min e ref.e) (min ulp (abs.getD ulp)) - 60
    let scale := fun (m : Nat) (e : Int) => m * 2 ^ (e - base).toNat
    let diff := (signedM s (scale m e) - signedM ref.s (scale ref.m ref.e)).natAbs
    let tol := max (scale ulps ulp) (match abs with
      | some a => scale 1 a
      | none => 0)
    if diff ≤ tol + tol / 2 ^ 50 then free else fallback
  | _ => fallback

/-- The result of a special function under bit 8 of FMT: an FP32 denormal becomes a zero of its sign (08 R163). -/
def flushResult (ftz : Bool) (r : Nat) : Nat :=
  if ftz && decide (r / 2 ^ 23 % 2 ^ 8 = 0) then f32.zero (r.testBit 31) else r

/-- A power of two: its exponent. -/
def pow2Exp (m : Nat) (e : Int) : Option Int :=
  if m = 2 ^ Nat.log2 m then some (e + (Nat.log2 m : Nat)) else none

def frsqF (ftz : Bool) (a : Nat) : Nat :=
  match f32.unpack ftz a with
  | .nan => f32.qnan
  | .inf s => if s then f32.qnan else f32.zero false
  | .num s m e =>
    if m = 0 then f32.inf s
    else if s then f32.qnan
    else
      let m1 := if e % 2 = 0 then m else 2 * m
      let e1 := if e % 2 = 0 then e else e - 1
      match (pow2Exp m1 e1).filter (fun k => k % 2 = 0) with
      | some k => flushResult ftz (f32.round .rne false false 1 (-(k / 2)))
      | none =>
        flushResult ftz (withinBound { s := false, m := isqrt (2 ^ (2 * fxP) / m1), e := -(e1 / 2) - fxP } 1 none
          (Config.freeFrsq (BitVec.ofNat 32 a)).toNat)

/-- An integral finite value, when it is one. -/
def asInteger (s : Bool) (m : Nat) (e : Int) : Option Int :=
  if 0 ≤ e then some (signedM s (m * 2 ^ e.toNat))
  else if m % 2 ^ (-e).toNat = 0 then some (signedM s (m / 2 ^ (-e).toNat)) else none

def fexp2F (ftz : Bool) (a : Nat) : Nat :=
  match f32.unpack ftz a with
  | .nan => f32.qnan
  | .inf s => if s then f32.zero false else f32.inf false
  | .num s m e =>
    let x := fxOf s m e
    if m = 0 then f32.round .rne false false 1 0
    else if ((128 * 2 ^ fxP : Nat) : Int) ≤ x then f32.inf false
    else if x ≤ -((150 * 2 ^ fxP : Nat) : Int) then f32.zero false
    else
      match asInteger s m e with
      | some n => flushResult ftz (f32.round .rne false false 1 n)
      | none =>
        let r := fxExp2 x
        flushResult ftz (withinBound { s := false, m := r.1.toNat, e := r.2 - fxP } 2 none
          (Config.freeFexp2 (BitVec.ofNat 32 a)).toNat)

def flog2F (ftz : Bool) (a : Nat) : Nat :=
  match f32.unpack ftz a with
  | .nan => f32.qnan
  | .inf s => if s then f32.qnan else f32.inf false
  | .num s m e =>
    if m = 0 then f32.inf true
    else if s then f32.qnan
    else
      let k := e + (Nat.log2 m : Nat)
      match pow2Exp m e with
      | some k => f32.round .rne false (decide (k < 0)) k.natAbs 0
      | none =>
        let frac := fxLogFrom 64 ((m * 2 ^ (fxP - Nat.log2 m) : Nat) : Int) 0
        let v := k * ((2 ^ 64 : Nat) : Int) + frac
        flushResult ftz (withinBound { s := decide (v < 0), m := v.natAbs, e := -64 } 2
          (if k = -1 ∨ k = 0 then some (-22) else none) (Config.freeFlog2 (BitVec.ofNat 32 a)).toNat)

/-- sin(pi·r) for a fixed-point r. -/
def fxSinPi (r : Int) : Int :=
  let one : Int := (2 ^ fxP : Nat)
  let t := r % (2 * one)
  let neg := decide (one ≤ t)
  let u := if neg then t - one else t
  let w := if one < 2 * u then one - u else u
  let v := fxSin (fxMul w fxPi)
  if neg then -v else v

def fsinF (ftz : Bool) (a : Nat) : Nat :=
  match f32.unpack ftz a with
  | .nan => f32.qnan
  | .inf _ => f32.qnan
  | .num s m e =>
    match asInteger s m e with
    | some _ => f32.zero s
    | none =>
      match asInteger s m (e + 1) with
      | some j => f32.round .rne false (decide ((j - 1) / 2 % 2 ≠ 0)) 1 0
      | none =>
        let v := fxSinPi (fxOf s m e)
        flushResult ftz (withinBound { s := decide (v < 0), m := v.natAbs, e := -(fxP : Int) } 0 (some (-22))
          (Config.freeFsin (BitVec.ofNat 32 a)).toNat)

def fcosF (ftz : Bool) (a : Nat) : Nat :=
  match f32.unpack ftz a with
  | .nan => f32.qnan
  | .inf _ => f32.qnan
  | .num s m e =>
    match asInteger s m e with
    | some n => f32.round .rne false (decide (n % 2 ≠ 0)) 1 0
    | none =>
      match asInteger s m (e + 1) with
      | some _ => f32.zero false
      | none =>
        let v := fxSinPi (fxOf s m e + ((2 ^ (fxP - 1) : Nat) : Int))
        flushResult ftz (withinBound { s := decide (v < 0), m := v.natAbs, e := -(fxP : Int) } 0 (some (-22))
          (Config.freeFcos (BitVec.ofNat 32 a)).toNat)

def ftanhF (ftz : Bool) (a : Nat) : Nat :=
  match f32.unpack ftz a with
  | .nan => f32.qnan
  | .inf s => f32.round .rne false s 1 0
  | .num s m e =>
    let x := fxOf false m e
    if m = 0 ∨ e + (Nat.log2 m : Nat) < -12 then f32.round .rne ftz s m e
    else if ((10 * 2 ^ fxP : Nat) : Int) ≤ x then f32.round .rne false s 1 0
    else
      let one : Int := (2 ^ fxP : Nat)
      let r := fxExp2 (fxMul (2 * x) fxLog2e)
      let t := r.1 * ((2 ^ r.2.toNat : Nat) : Int)
      flushResult ftz (withinBound { s := s, m := ((t - one) * one / (t + one)).toNat, e := -(fxP : Int) } 2 none
        (Config.freeFtanh (BitVec.ofNat 32 a)).toNat)

/-! ## FMT (08 R174) and packed pairs (R159) -/

def fmtRound (fmt : BitVec 16) : RoundMode :=
  match bitsOf fmt.toNat 7 6 with
  | 0 => .rne
  | 1 => .rtz
  | 2 => .rup
  | _ => .rdn
def fmtFtz (fmt : BitVec 16) : Bool := fmt.getLsbD 8
def fmtSatc (fmt : BitVec 16) : Bool := fmt.getLsbD 9
def fmtWA (fmt : BitVec 16) : Nat := bitsOf fmt.toNat 2 0 + 1
def fmtWB (fmt : BitVec 16) : Nat := bitsOf fmt.toNat 5 3 + 1

/-- SETFMT's check (08 R174): no code 0 in AW or BW, no reserved bit. -/
def fmtOk (v : Nat) : Bool := decide (v < 2 ^ 10) && decide (bitsOf v 2 0 ≠ 0) && decide (bitsOf v 5 3 ≠ 0)

/-- The rounding mode of an instruction (08 R162). -/
def roundOf (rm : Rm) (fmt : BitVec 16) : RoundMode :=
  match rm with
  | .fmt => fmtRound fmt
  | .rne => .rne
  | .rtz => .rtz
  | .rup => .rup
  | .rdn => .rdn

/-- An operation on each element of a packed pair, or on the one value (08 R159). -/
def perElement (ty : Ty) (h : Nat → Nat) (a : Word) : Word :=
  if ty.bits = 16 then BitVec.ofNat 64 (h (a.toNat % 2 ^ 16) + 2 ^ 16 * h (a.toNat / 2 ^ 16 % 2 ^ 16))
  else BitVec.ofNat 64 (h (a.toNat % 2 ^ ty.bits))

def perElement2 (ty : Ty) (h : Nat → Nat → Nat) (a b : Word) : Word :=
  if ty.bits = 16 then
    BitVec.ofNat 64 (h (a.toNat % 2 ^ 16) (b.toNat % 2 ^ 16) +
      2 ^ 16 * h (a.toNat / 2 ^ 16 % 2 ^ 16) (b.toNat / 2 ^ 16 % 2 ^ 16))
  else BitVec.ofNat 64 (h (a.toNat % 2 ^ ty.bits) (b.toNat % 2 ^ ty.bits))

def perElement3 (ty : Ty) (h : Nat → Nat → Nat → Nat) (a b c : Word) : Word :=
  if ty.bits = 16 then
    BitVec.ofNat 64 (h (a.toNat % 2 ^ 16) (b.toNat % 2 ^ 16) (c.toNat % 2 ^ 16) +
      2 ^ 16 * h (a.toNat / 2 ^ 16 % 2 ^ 16) (b.toNat / 2 ^ 16 % 2 ^ 16) (c.toNat / 2 ^ 16 % 2 ^ 16))
  else BitVec.ofNat 64 (h (a.toNat % 2 ^ ty.bits) (b.toNat % 2 ^ ty.bits) (c.toNat % 2 ^ ty.bits))

/-- FP32 addition of atomics, merges and reductions: RNE, denormals kept (04 R80). -/
def f32Add (a b : Nat) : Nat := fop2 .add f32 .rne false a b

/-! ## Block floating point (08 R168-R171) -/

/-- BCVT of one block: the shared exponent and the mantissas. -/
def bcvt (w : Nat) (ftz : Bool) (xs : List W32) : Nat × List Int :=
  let us := xs.map (fun x => f32.unpack ftz x.toNat)
  if us.any (fun u => match u with
    | .num .. => false
    | _ => true) then (255, us.map (fun _ => 0))
  else
    let leads := us.filterMap (fun u => match u with
      | .num _ m e => if m = 0 then none else some (e + (Nat.log2 m : Nat))
      | _ => none)
    match leads with
    | [] => (0, us.map (fun _ => 0))
    | l :: ls =>
      let e := ls.foldl max l + 1 + 127
      if e < 1 then (0, us.map (fun _ => 0))
      else
        let ee := min e 254
        (ee.toNat, us.map (fun u => match u with
          | .num s m k =>
            let t := signedM s (roundShift m (-(k - (ee - 127) + ((w - 1 : Nat) : Int))) false .rne)
            min (max t (-((2 ^ (w - 1) : Nat) : Int))) (((2 ^ (w - 1) : Nat) : Int) - 1)
          | _ => 0))

/-- The mantissa string: element k at bits w·k and up (08 R169). -/
def mantString (w : Nat) (ms : List Int) : List Byte :=
  leBytes (ms.length * w / 8) ((enumFrom 0 ms).foldl (fun n x => n + wrapInt w x.2 * 2 ^ (w * x.1)) 0)

/-- Element `k` of a mantissa string. -/
def mantAt (w : Nat) (bits k : Nat) : Int := signedOf w (bits / 2 ^ (w * k))

/-! ## The press's contribution (08 R172) -/

/-- r from block sums with their A exponents, and the column exponent. -/
def blockContribution (wA wB : Nat) (blocks : List (Int × Nat)) (eb : Nat) : Nat :=
  if blocks.any (fun b => b.2 == 255) ∨ eb = 255 then f32.qnan
  else
    let js := blocks.filter (fun b => b.2 ≠ 0)
    if js = [] ∨ eb = 0 then f32.zero false
    else
      let emax := js.foldl (fun m b => max m b.2) 0
      let t := js.foldl (fun (t : Int) b => t + b.1 * ((2 ^ 24 : Nat) : Int) / ((2 ^ (emax - b.2) : Nat) : Int)) 0
      f32.round .rne false (decide (t < 0)) t.natAbs
        (-24 + ((emax : Int) + eb - 254 - ((wA - 1 : Nat) : Int) - ((wB - 1 : Nat) : Int)))

/-- r for one A row, one column and one 256-deep slice: A mantissas by k, block exponents, B cells by k. -/
def pressContribution (wA wB : Nat) (ms : List Int) (eas : List Nat) (bs : List Int) (eb : Nat) : Nat :=
  blockContribution wA wB ((List.range 8).map (fun j =>
    ((List.range 32).foldl (fun (t : Int) i => t + ms.getD (32 * j + i) 0 * bs.getD (32 * j + i) 0) 0, eas.getD j 0))) eb

end Sys2Proof.Machine
end

