-- ==== Sys2Proof/Machine/Cells.lean ====
section
/-! DEFINITION. The named operations over bytes of memory, gangs, groups, splits, cores, dies and the vat. -/

namespace Sys2Proof.Machine

/-! ## Bytes -/

/-- The byte at an address: the listed one, else what an unlisted address reads as. -/
def cellsRead : List Host.Cell → Nat → Byte
  | [], _ => Memory.unlisted
  | (k, b) :: rest, a => if k = a then b else cellsRead rest a

/-- The list with the byte at an address replaced, in canonical form. -/
def cellsWrite : List Host.Cell → Nat → Byte → List Host.Cell
  | [], a, v => if v = Memory.unlisted then [] else [(a, v)]
  | (k, b) :: rest, a, v =>
    if a < k then (if v = Memory.unlisted then (k, b) :: rest else (a, v) :: (k, b) :: rest)
    else if a = k then (if v = Memory.unlisted then rest else (a, v) :: rest)
    else (k, b) :: cellsWrite rest a v

def Memory.read (m : Memory) (a : Nat) : Byte := cellsRead m.cells a

def Memory.write (m : Memory) (a : Nat) (v : Byte) : Memory := { cells := cellsWrite m.cells a v }

/-- The `n` bytes from an address up. -/
def Memory.readBytes (m : Memory) (a : Nat) : Nat → List Byte
  | 0 => []
  | n + 1 => m.read a :: m.readBytes (a + 1) n

/-- A little-endian number of `n` bytes (00 R5). -/
def Memory.readLE (m : Memory) (a n : Nat) : Nat := leNat (m.readBytes a n)

/-- Bytes written from an address up, lowest first. -/
def Memory.writeBytes (m : Memory) (a : Nat) : List Byte → Memory
  | [] => m
  | b :: bs => (m.write a b).writeBytes (a + 1) bs

/-- A little-endian number of `n` bytes written. -/
def Memory.writeLE (m : Memory) (a n v : Nat) : Memory := m.writeBytes a (leBytes n v)

/-- `n` bytes set to 0. -/
def Memory.clear (m : Memory) (a n : Nat) : Memory :=
  { cells := m.cells.filter (fun c => decide (c.1 < a) || decide (a + n ≤ c.1)) }

/-! ## Gangs, groups, splits -/

def State.gang? (s : State) (id : Nat) : Option Gang := s.gangs.find? (fun g => g.id == id)

def State.modGang (s : State) (id : Nat) (h : Gang → Gang) : State :=
  { s with gangs := s.gangs.map (fun g => if g.id == id then h g else g) }

def Gang.group? (g : Gang) (slot : Nat) : Option Group := g.groups.find? (fun x => x.slot == slot)

def Gang.modGroup (g : Gang) (slot : Nat) (h : Group → Group) : Gang :=
  { g with groups := g.groups.map (fun x => if x.slot == slot then h x else x) }

def State.group? (s : State) (gang slot : Nat) : Option Group := (s.gang? gang).bind (fun g => g.group? slot)

def State.modGroup (s : State) (gang slot : Nat) (h : Group → Group) : State :=
  s.modGang gang (fun g => g.modGroup slot h)

/-- The split in a slot of the group. -/
def Group.split? (g : Group) (i : Nat) : Option Split := if h : i < 4 then g.splits[i] else none

def Group.setSplit (g : Group) (i : Nat) (sp : Option Split) : Group :=
  if h : i < 4 then { g with splits := g.splits.set i sp } else g

/-- The live splits with their slots, lowest slot first. -/
def Group.liveSplits (g : Group) : List (Nat × Split) :=
  (List.range 4).filterMap (fun i => (g.split? i).map (fun sp => (i, sp)))

/-- Lanes that hold a live thread: every live lane belongs to one split or one parked entry (13 R237). -/
def Group.live (g : Group) : LaneMask :=
  (g.liveSplits.map (fun x => x.2.lanes) ++ g.parked.map (fun x => x.lanes)).foldl (fun a b => a ||| b) 0

/-- A group is divergent while it has more than one live split or a parked entry (13 R243). -/
def Group.divergent (g : Group) : Bool := decide (1 < g.liveSplits.length) || !g.parked.isEmpty

/-- The groups in gang order: the order of their runs in the gang sequence (13 R248). -/
def Gang.order (g : Gang) : List Nat :=
  (g.seq.filterMap (fun x => match x with
    | .lane slot _ => some slot
    | _ => none)).eraseDups

/-- The window slot size: 4 KiB · 2^e, the smallest that holds 128 W + 1024 T bytes (07 R141). -/
def slotSize (w t : Nat) : Nat :=
  ((List.range 12).map (fun e => 4096 * 2 ^ e)).find? (fun n => decide (128 * w + 1024 * t ≤ n)) |>.getD (4096 * 2 ^ 11)

/-- W of R141. -/
def TaskRec.w (t : TaskRec) : Nat := 16 * t.win

def TaskRec.slotSize (t : TaskRec) : Nat := Machine.slotSize t.w t.tiles

/-- The window base of a group slot (07 R141). -/
def Gang.window (g : Gang) (slot : Nat) : Nat := g.base + slot * g.task.slotSize

/-- Where the parts of the allocation after the windows begin (07 R140). -/
def Gang.appendBase (g : Gang) : Nat := g.base + g.task.budget * g.task.slotSize

def TaskRec.channels (t : TaskRec) : Nat := ((List.range 4).filter (fun i => t.chan.testBit i)).length

def TaskRec.stagingBytes (t : TaskRec) : Nat := if t.spill = 0 then 0 else 4096

def Gang.stashBase (g : Gang) : Nat := g.appendBase + 4096 * g.task.channels + g.task.stagingBytes

def Gang.progBase (g : Gang) : Nat := g.stashBase + 4096 * g.task.stash

/-- The allocation size (07 R140). -/
def TaskRec.allocSize (t : TaskRec) : Nat :=
  t.budget * t.slotSize + 4096 * t.channels + t.stagingBytes + 4096 * t.stash + 4096 * t.prog

/-- The split a focus names: slots 0-3 of the group, 4 for the handler split of the gang (16 R298). -/
def State.split? (s : State) (f : Focus) : Option Split :=
  if f.split = 4 then (s.gang? f.gang).bind (fun g => g.handler)
  else (s.group? f.gang f.group).bind (fun g => g.split? f.split)

def State.setSplit (s : State) (f : Focus) (sp : Option Split) : State :=
  if f.split = 4 then s.modGang f.gang (fun g => { g with handler := sp })
  else s.modGroup f.gang f.group (fun g => g.setSplit f.split sp)

def State.modSplit (s : State) (f : Focus) (h : Split → Split) : State :=
  match s.split? f with
  | some sp => s.setSplit f (some (h sp))
  | none => s

def State.core? (s : State) (c : Nat) : CoreRec := s.cores.getD c CoreRec.reset

def State.modCore (s : State) (c : Nat) (h : CoreRec → CoreRec) : State :=
  { s with cores := s.cores.modify c h }

def State.press? (s : State) (p : Nat) : Press := s.presses.getD p Press.reset

def State.modPress (s : State) (p : Nat) (h : Press → Press) : State :=
  { s with presses := s.presses.modify p h }

def State.modDie (s : State) (d : Nat) (h : DieRec → DieRec) : State :=
  if hd : d < 4 then { s with dies := s.dies.set d (h s.dies[d]) } else s

def State.die? (s : State) (d : Nat) : DieRec := if hd : d < 4 then s.dies[d] else DieRec.reset

def State.ctx? (s : State) (tag : Nat) : Option Context := s.contexts.find? (fun c => c.tag == tag)

def State.modCtx (s : State) (tag : Nat) (h : Context → Context) : State :=
  { s with contexts := s.contexts.map (fun c => if c.tag == tag then h c else c) }

/-- Clusters enabled per die: 8, 7 or 6 by grade (01 R12). -/
def Part.clusters (p : Part) : Nat := 8 - p.grade.val

/-- Logical cores (01 R12, R13). -/
def Part.coreCount (p : Part) : Nat := 16 * p.clusters

/-- The logical cluster of a core: core 4 c + i lies in cluster c (01 R13). -/
def clusterOf (core : Nat) : Nat := core / 4

/-- The die of a core: die d holds clusters d P to d P + P - 1 (01 R13). -/
def Part.dieOf (p : Part) (core : Nat) : Nat := core / 4 / p.clusters

/-! ## The vat (07 R139, R141) -/

/-- The key of a vat address of a core in the part's vat store. -/
def vatKey (core a : Nat) : Nat := core * 2 ^ 23 + a

/-- The group whose window holds a vat address of the core, with the offset in the window. -/
def State.windowAt (s : State) (core a : Nat) : Option (Gang × Nat × Nat) :=
  match s.gangs.find? (fun g => g.core == core && decide (g.base ≤ a) && decide (a < g.appendBase)) with
  | none => none
  | some g => some (g, (a - g.base) / g.task.slotSize, (a - g.base) % g.task.slotSize)

/-- A byte of a dead lane's register: writes to it are discarded (10 R193). -/
def State.deadByte (s : State) (core a : Nat) : Bool :=
  match s.windowAt core a with
  | none => false
  | some (g, slot, off) =>
    match g.group? slot with
    | none => false
    | some x => decide (off < 128 * g.task.w) && x.dead.getLsbD (off % 128 / 4)

def State.vatRead (s : State) (core a : Nat) : Byte := s.vat.read (vatKey core a)

def State.vatWrite (s : State) (core a : Nat) (b : Byte) : State :=
  if s.deadByte core a then s else { s with vat := s.vat.write (vatKey core a) b }

def State.vatReadLE (s : State) (core a n : Nat) : Nat := s.vat.readLE (vatKey core a) n

def State.vatReadBytes (s : State) (core a n : Nat) : List Byte := s.vat.readBytes (vatKey core a) n

def State.vatWriteBytes (s : State) (core a : Nat) : List Byte → State
  | [] => s
  | b :: bs => (s.vatWrite core a b).vatWriteBytes core (a + 1) bs

def State.vatWriteLE (s : State) (core a n v : Nat) : State := s.vatWriteBytes core a (leBytes n v)

/-! ## Free values -/

/-- A byte the manual leaves open: the next free value (log 14). -/
def State.drawBytes (s : State) (n : Nat) : State × List Byte :=
  ({ s with free := s.free + n }, (List.range n).map (fun i => Config.freeByte (s.free + i)))

end Sys2Proof.Machine
end

