-- ==== Sys2Proof/Machine/Lines.lean ====
section
/-! DEFINITION. Lines of memory and their marks: durable values (06 R135), poison and lost lines (17 R313, R326), the update-only state (04 R83), stash copies and what a snoop does to them (07 R147). -/

namespace Sys2Proof.Machine

/-! ## Atomics (04 R80) -/

/-- The new value of an atomic operation on an element of the type. -/
def atomNew (op : AtomOp) (ty : Ty) (old v cmp : Nat) : Nat :=
  let m := 2 ^ ty.bits
  let o := old % m
  let x := v % m
  let less := readInt ty (BitVec.ofNat 64 o) ≤ readInt ty (BitVec.ofNat 64 x)
  match op with
  | .add => if ty = .f32 then f32Add o x else (o + x) % m
  | .min => if less then o else x
  | .max => if less then x else o
  | .and => o &&& x
  | .or => o ||| x
  | .xor => o ^^^ x
  | .exch => x
  | .cas => if o = cmp % m then x else o
  | .inc => if x ≤ o then 0 else o + 1
  | .dec => if o = 0 ∨ x < o then x else o - 1

/-- The operations PCIe AtomicOps carry (04 R82). -/
def hostAtomic (op : AtomOp) (ty : Ty) : Bool :=
  match op with
  | .add => ty.isInt4
  | .exch | .cas => true
  | _ => false

/-! ## Lines -/

/-- The 128-byte line of a location. -/
def Loc.line : Loc → Loc
  | .phys a => .phys (a / 128)
  | .vat c a => .vat c (a / 128)

/-- Host memory: region 0b01 of the physical space (03 R50). -/
def isHost (pa : Nat) : Bool := pa / 2 ^ 48 % 4 == 1

/-! ## Read pins (11 R215) -/

/-- The tile operations of the gangs on a core. -/
def State.tilesOn (s : State) (core : Nat) : List TileOp :=
  (s.gangs.filter (fun g => g.core == core)).flatMap (fun g => g.groups.flatMap (fun x => x.tiles))

/-- A TSPAWN that waits for room pins its record until the item is stored (14 R272; log 64). -/
def State.spawnPins (s : State) (core line : Nat) : Bool :=
  s.waiters.any (fun w => match w.kind with
    | .push _ _ (some a) => a / 128 == line && (s.gang? w.gang).any (fun g => g.core == core)
    | _ => false)

/-- A read pin on a vat line: of a tile operation's source, or of the record of a TSPAWN (11 R215). -/
def State.pinned (s : State) (core line : Nat) : Bool := (s.tilesOn core).any (fun t => t.pins.contains line) || s.spawnPins core line

/-! ## Stash units (07 R147) -/

/-- The unit and the line in it that hold a vat address. -/
def CoreRec.unitAt (c : CoreRec) (a : Nat) : Option StashUnit := c.stash.find? (fun u => u.vat == a / 4096 * 4096)

/-- The units of a core that hold a copy of a coherent physical line, with the line's index in the unit. -/
def CoreRec.copies (c : CoreRec) (line : Nat) : List (StashUnit × Nat) :=
  c.stash.filterMap (fun u =>
    let i := line - u.phys / 128
    if u.coh ∧ u.phys / 128 ≤ line ∧ i < 32 ∧ u.lines.any (fun x => x.1 == i) then some (u, i) else none)

def StashUnit.setLine (u : StashUnit) (i : Nat) (st : Option Bool) : StashUnit :=
  let rest := u.lines.filter (fun x => x.1 ≠ i)
  { u with lines := match st with
      | none => rest
      | some d => (i, d) :: rest }

def State.setStashLine (s : State) (core vat i : Nat) (st : Option Bool) : State :=
  s.modCore core (fun c => { c with stash := c.stash.map (fun u => if u.vat = vat then u.setLine i st else u) })

/-! ## Bytes of memory with their marks (06 R135; 17 R313, R326) -/

/-- The durable value of a byte, kept once while a write to it is not durable yet. -/
def keepOld (a : Nat) (b : Byte) : List Host.Cell → List Host.Cell
  | [] => [(a, b)]
  | (k, v) :: rest => if a < k then (a, b) :: (k, v) :: rest else if a = k then (k, v) :: rest else (k, v) :: keepOld a b rest

/-- One byte written; a byte of a DUR page keeps its durable value aside. -/
def State.putByte (s : State) (w : ByteWrite) : State :=
  { s with
    mem := s.mem.write w.addr w.val
    undurable := if w.dur then keepOld w.addr (s.mem.read w.addr) s.undurable else s.undurable }

/-- A set of writes covers `n` bytes at an address. -/
def covers (ws : List ByteWrite) (a n : Nat) : Bool := (List.range n).all (fun i => ws.any (fun w => w.addr == a + i))

/-- Bytes written by one operation: a half-line written whole loses its poison, a line written whole is no longer LOST. -/
def State.rawWrite (s : State) (ws : List ByteWrite) : State :=
  let s1 := ws.foldl State.putByte s
  { s1 with
    poison := s1.poison.filter (fun h => !covers ws (64 * h) 64)
    poisonTags := s1.poisonTags.filter (fun h => !covers ws (64 * h.1) 64)
    lost := s1.lost.filter (fun l => !covers ws (128 * l) 128) }

/-- The writes of a little-endian number. -/
def leWrites (a n v : Nat) (dur : Bool) : List ByteWrite :=
  (enumFrom 0 (leBytes n v)).map (fun b => { addr := a + b.1, val := b.2, dur := dur })

/-- DURPEND of a gang (18 R329). -/
def State.durPend (s : State) (gang : Nat) (dur : Bool) : State :=
  if dur then s.modGang gang (fun g => { g with rpt := { g.rpt with durpend := true } }) else s

/-! ## The update-only state (04 R83) -/

/-- One partial merges into the home value. -/
def State.mergePartial (s : State) (p : Partial) : State :=
  s.rawWrite (leWrites p.addr p.size (atomNew p.op p.ty (s.mem.readLE p.addr p.size) p.val.toNat 0) p.dur)

/-- A line in U merges: the dies' partials in increasing die number. -/
def State.mergeLine (s : State) (line : Nat) : State :=
  let ps := s.partials.filter (fun p => p.addr / 128 == line)
  if ps.isEmpty then s
  else
    let sorted := (List.range 4).flatMap (fun d => ps.filter (fun p => p.die == d))
    sorted.foldl State.mergePartial { s with partials := s.partials.filter (fun p => p.addr / 128 ≠ line) }

/-! ## Write-back and snoop of stash lines (07 R147) -/

def State.isTrail (s : State) (gang : Nat) : Bool :=
  match (s.gang? gang).bind (fun g => g.pair) with
  | some p => decide (p.role = .trail)
  | none => false

/-- Poison of a vat line, by its key. -/
def State.vatPoisoned (s : State) (core a : Nat) : Bool := s.vatPoison.contains (vatKey core a / 128)

/-- The 128 bytes of a stash line go to its global line; a trail's copy writes no memory (17 R323). -/
def State.writeBack (s : State) (core : Nat) (u : StashUnit) (i : Nat) : State :=
  if s.isTrail u.gang then s
  else
    let a := u.phys + 128 * i
    let s0 := s.mergeLine (a / 128)
    let ws := (enumFrom 0 (s.vatReadBytes core (u.vat + 128 * i) 128)).map
      (fun b => ({ addr := a + b.1, val := b.2, dur := u.dur } : ByteWrite))
    let s1 := (s0.rawWrite ws).durPend u.gang u.dur
    if s.vatPoisoned core (u.vat + 128 * i) then { s1 with poison := a / 64 :: (a / 64 + 1) :: s1.poison } else s1

/-- The copies of a line in one core's stash, as another agent's read or write leaves them. -/
def State.snoopCore (s : State) (line : Nat) (write : Bool) (core : Nat) : State :=
  ((s.core? core).copies line).foldl (fun s u =>
    let dirty := u.1.lines.any (fun x => x.1 == u.2 && x.2)
    let s1 := if dirty then s.writeBack core u.1 u.2 else s
    if write then s1.setStashLine core u.1.vat u.2 none
    else if dirty then s1.setStashLine core u.1.vat u.2 (some false) else s1) s

/-- An access reaches a physical line: partials merge, stash copies answer. -/
def State.reach (s : State) (line : Nat) (write : Bool) : State :=
  (List.range s.cores.length).foldl (fun s c => s.snoopCore line write c) (s.mergeLine line)

/-- The lines of a list of byte addresses, each once. -/
def linesOf (as : List Nat) : List Nat := (as.map (fun a => a / 128)).eraseDups

def State.reachAll (s : State) (lines : List Nat) (write : Bool) : State := lines.foldl (fun s l => s.reach l write) s

/-- A write by an agent of a gang to physical memory. -/
def State.writePhys (s : State) (gang : Nat) (ws : List ByteWrite) : State :=
  let s1 := (s.reachAll (linesOf (ws.map (fun w => w.addr))) true).rawWrite ws
  s1.durPend gang (ws.any (fun w => w.dur))

/-- A write of bytes to a vat: a line written whole loses its poison. -/
def State.writeVat (s : State) (core a : Nat) (bs : List Byte) : State :=
  let s1 := s.vatWriteBytes core a bs
  { s1 with vatPoison := s1.vatPoison.filter (fun l =>
      !(decide (vatKey core a ≤ 128 * l) && decide (128 * l + 128 ≤ vatKey core a + bs.length))) }

/-- Mark a vat line poisoned. -/
def State.poisonVat (s : State) (core a : Nat) : State :=
  if s.vatPoisoned core a then s else { s with vatPoison := vatKey core a / 128 :: s.vatPoison }

/-- Mark a half-line poisoned. -/
def State.poisonHalf (s : State) (h : Nat) : State := if s.poison.contains h then s else { s with poison := h :: s.poison }

/-- Mark a half-line poisoned under the tag of an engine's gang (05 R102). -/
def State.poisonFor (s : State) (tag h : Nat) : State :=
  if s.poison.contains h then s else { s with poison := h :: s.poison, poisonTags := (h, tag) :: s.poisonTags }

/-- Poison or loss of any of `n` bytes. -/
def State.tainted (s : State) (pa n : Nat) : Bool :=
  (List.range n).any (fun i => s.poison.contains ((pa + i) / 64) || s.lost.contains ((pa + i) / 128))

end Sys2Proof.Machine
end

