-- ==== Sys2Proof/Machine/Ops.lean ====
section
/-! DEFINITION. The named operations over registers; taking an exception (16 R294-R298) and the return from one (R299). -/

namespace Sys2Proof.Machine

/-! ## Registers -/

/-- Lane `l` of vector register `r` of a group (07 R141). -/
def State.lane (s : State) (gang slot r l : Nat) : W32 :=
  match s.gang? gang with
  | none => 0
  | some g => BitVec.ofNat 32 (s.vatReadLE g.core (g.window slot + 128 * r + 4 * l) 4)

def State.setLane (s : State) (gang slot r l : Nat) (v : W32) : State :=
  match s.gang? gang with
  | none => s
  | some g => s.vatWriteLE g.core (g.window slot + 128 * r + 4 * l) 4 v.toNat

/-- A predicate as a lane mask; p0 reads as true in every lane (02 R29). -/
def Group.pred (g : Group) (n : PReg) : LaneMask := if n = 0 then 0xFFFFFFFF#32 else g.p[n.val]

/-- The lanes of `lanes` of a predicate written; p0 discards (02 R29). -/
def Group.setPred (g : Group) (n : PReg) (lanes v : LaneMask) : Group :=
  if n = 0 then g else { g with p := g.p.set n.val ((g.p[n.val] &&& ~~~ lanes) ||| (v &&& lanes)) }

/-- The register an entry names. -/
def UEntry.same : UEntry → UEntry → Bool
  | .s a _, .s b _ => a == b
  | .up a _, .up b _ => a == b
  | .m a _, .m b _ => a == b
  | _, _ => false

/-- The group's registers with an entry written (up0 discards, 02 R29). -/
def Group.putEntry (g : Group) : UEntry → Group
  | .s r v => { g with s := g.s.set r.val v }
  | .up r v => if r = 0 then g else { g with up := g.up.set r.val v }
  | .m r v => { g with m := g.m.set r.val v }

/-- A uniform register as the split sees it: its shadow, else the group's value (13 R243). -/
def Group.readS (g : Group) (sp : Split) (r : SReg) : Word :=
  match sp.shadows.findSome? (fun e => match e with
    | .s r' v => if r' = r then some v else none
    | _ => none) with
  | some v => v
  | none => g.s[r.val]

/-- A uniform predicate as the split sees it; up0 reads as true (02 R29). -/
def Group.readUp (g : Group) (sp : Split) (r : UPReg) : Bool :=
  if r = 0 then true
  else
    match sp.shadows.findSome? (fun e => match e with
      | .up r' v => if r' = r then some v else none
      | _ => none) with
    | some v => v
    | none => g.up[r.val]

/-- A modulo register as the split sees it. -/
def Group.readM (g : Group) (sp : Split) (r : MReg) : ModReg :=
  match sp.shadows.findSome? (fun e => match e with
    | .m r' v => if r' = r then some v else none
    | _ => none) with
  | some v => v
  | none => g.m[r.val]

/-- A write of a uniform register by a split (13 R243): its shadow where it has one; the group's register while the group is not
divergent, in serial mode (where the write is recorded) and at handler privilege; else a new shadow; the seventeenth distinct
register puts the group into serial mode. -/
def State.writeU (s : State) (f : Focus) (e : UEntry) : State :=
  match s.gang? f.gang, s.group? f.gang f.group, s.split? f with
  | some gang, some g, some sp =>
    if sp.shadows.any (fun x => x.same e) then
      s.setSplit f (some { sp with shadows := replaceFirst (fun x => x.same e) e sp.shadows })
    else if f.split = 4 || !g.divergent then s.modGroup f.gang f.group (fun g => g.putEntry e)
    else if (g.serial.map Fin.val) == some f.split then
      (s.modGroup f.gang f.group (fun g => g.putEntry e)).setSplit f
        (some { sp with written := if sp.written.any (fun x => x.same e) then sp.written else e :: sp.written })
    else if sp.shadows.length < 16 then
      s.setSplit f (some { sp with shadows := sp.shadows ++ [e] })
    else
      let s1 := s.modGroup f.gang f.group (fun g =>
        { (sp.shadows.foldr (fun x g => g.putEntry x) g).putEntry e with
          serial := if h : f.split < 4 then some ⟨f.split, h⟩ else none })
      (s1.setSplit f (some { sp with
          shadows := [], written := (sp.shadows ++ [e]).filter (fun x => !sp.written.any (fun y => y.same x)) ++ sp.written })).modCore gang.core
        (fun c => { c with serialisations := c.serialisations + 1 })
  | _, _, _ => s

/-- A uniform predicate written back from a trap frame: only a value that the handler changed is a write (16 R299). -/
def State.changeUp (s : State) (f : Focus) (r : Fin 4) (v : Bool) : State :=
  match s.group? f.gang f.group, s.split? f with
  | some g, some sp => if g.readUp sp r = v then s else s.writeU f (.up r v)
  | _, _ => s

/-- A stalled split is to be tried again. -/
def Split.retry (sp : Split) : Split :=
  match sp.status with
  | .stalled w _ => { sp with status := .stalled w true }
  | _ => sp

/-- A split that stalls no longer. -/
def Split.go (sp : Split) : Split :=
  match sp.status with
  | .stalled _ _ => { sp with status := .ready }
  | _ => sp

/-- Every stalled split is tried again, the handler splits among them. -/
def State.retry (s : State) : State :=
  { s with gangs := s.gangs.map (fun g =>
      { g with
        groups := g.groups.map (fun x => { x with splits := x.splits.map (fun o => o.map Split.retry) })
        handler := g.handler.map Split.retry }) }

/-! ## What stops an instruction -/

/-- A trap; a trap of a check that gives no address of its own, whose fault address is that of word 0 (02 R41); a trap after walks that
the accesses have entered in the miss table (03 R57); a trap of what a lead does for both copies of its pair; a stall at issue; or a stall that
leaves a changed state (a pair's signature is formed, 17 R322). -/
inductive Stop where
  | trap (t : TrapInfo)
  | check (t : TrapInfo)
  | walked (s : State) (t : TrapInfo)
  | shared (t : TrapInfo)
  | stall (why : Stall)
  | hold (why : Stall) (s : State)
  deriving DecidableEq, Repr

/-- A failed check's trap with a cause and subcause, for the lanes `lanes`, at an address where the check has one. -/
def fault (cause sub : Nat) (lanes : LaneMask) (addr : Option Word := none) (kind : Nat := 0) : Stop :=
  match addr with
  | some a => .trap { cause := cause, sub := sub, kind := kind, lanes := lanes, addr := a, info := 0 }
  | none => .check { cause := cause, sub := sub, kind := kind, lanes := lanes, addr := 0, info := 0 }

/-! ## Taking an exception (16 R294-R298) -/

/-- Every trap but 0x11 broadcasts a halt to every group of the gang (16 R294): the faulting split stops at word 0 of
its instruction; the others go on for the skid. A trap raised during the skid, or while a pre-emption gathers, is not
delivered: its split stops with nothing done and issues again on resume (R295, R306). A trap at handler privilege is a
double fault (R297). -/
def raiseTrap (s : State) (f : Focus) (len : Nat) (execm : LaneMask) (t : TrapInfo) : State :=
  match s.gang? f.gang, s.split? f with
  | some gang, some sp =>
    match gang.halt with
    | some h =>
      if f.split = 4 then
        s.modGang f.gang (fun g =>
          { g with halt := some { h with double := some t, dpc := sp.pc, dnpc := sp.pc + BitVec.ofNat 64 len, dexec := execm } })
      else s.modGang f.gang (fun g => { g with halt := some { h with ended := (f.group, f.split) :: h.ended } })
    | none =>
      if gang.run ≠ .running then s.modSplit f (fun sp => { sp with status := .stalled .busy false })
      else
        let h : Halt :=
          { trap := t, group := f.group, split := Fin.ofNat 4 f.split, pc := sp.pc
            npc := sp.pc + BitVec.ofNat 64 len, execm := execm, phase := .skid
            skid := gang.order.map (fun g => (g, 0)), ended := [], double := none, dpc := 0, dnpc := 0
            dexec := 0 }
        (s.modGang f.gang (fun g => { g with halt := some h })).modSplit f (fun sp => { sp with status := .ready })
  | _, _ => s

/-- Bytes 0-63 of a trap frame (16 R296). -/
def Gang.frameHead (g : Gang) (h : Halt) : List Byte :=
  let gid := match g.group? h.group with
    | some x => x.gid.toNat
    | none => 0
  [BitVec.ofNat 8 h.trap.cause, BitVec.ofNat 8 h.trap.sub, BitVec.ofNat 8 h.trap.kind, 0] ++
  leBytes 4 h.trap.lanes.toNat ++ leBytes 8 h.pc.toNat ++ leBytes 8 h.npc.toNat ++ leBytes 8 h.trap.addr.toNat ++
  leBytes 8 h.trap.info.toNat ++ leBytes 4 h.execm.toNat ++ leBytes 2 gid ++ leBytes 1 h.split.val ++
  leBytes 1 g.order.length ++ zeroBytes 16

/-- The record of one group in a trap frame (16 R296). -/
def Group.frameRecord (g : Group) (skid : Nat) : List Byte :=
  leBytes 2 g.gid.toNat ++ leBytes 1 skid ++ leBytes 1 g.liveSplits.length ++
  leBytes 4 (g.parked.foldl (fun (m : LaneMask) (x : Split) => m ||| x.lanes) 0).toNat ++
  (List.range 4).flatMap (fun i => match g.split? i with
    | some sp => leBytes 8 sp.pc.toNat ++ leBytes 4 sp.lanes.toNat
    | none => zeroBytes 12) ++ zeroBytes 8

/-- The whole trap frame, 12 KiB (16 R296). -/
def State.frameBytes (s : State) (g : Gang) (h : Halt) : List Byte :=
  match g.group? h.group with
  | none => zeroBytes 12288
  | some x =>
    match x.split? h.split.val with
    | none => zeroBytes 12288
    | some sp =>
      let ss := (List.range 16).flatMap (fun i => leBytes 8 (x.readS sp (Fin.ofNat 384 i)).toNat)
      let ps := (List.range 7).flatMap (fun i => leBytes 4 (x.pred (Fin.ofNat 8 (i + 1))).toNat)
      let ups := (List.range 3).foldl (fun n i => n + 2 ^ (i + 1) * bit (x.readUp sp (Fin.ofNat 4 (i + 1)))) 0
      let vs := s.vatReadBytes g.core (g.window h.group) 2048
      let recs := g.order.flatMap (fun slot => match g.group? slot with
        | some y => y.frameRecord ((h.skid.find? (fun k => k.1 == slot)).map Prod.snd |>.getD 0)
        | none => [])
      g.frameHead h ++ ss ++ ps ++ leBytes 1 ups ++ zeroBytes 1 ++ leBytes 2 sp.fmt.toNat ++ leBytes 2 sp.part.toNat ++
      zeroBytes 30 ++ vs ++ zeroBytes 1792 ++ recs ++ zeroBytes (8192 - 64 * g.order.length)

/-- Whether the trap goes to the gang's handler (16 R297): HDELEG bit c, HVEC nonzero, not at handler privilege, and never
causes 0x11. -/
def Gang.delegated (g : Gang) (h : Halt) : Bool :=
  g.csr.hdeleg.getLsbD h.trap.cause && decide (g.csr.hvec ≠ 0) && h.double.isNone && decide (h.trap.cause ≠ 0x11)

/-- The frame is written at the halt, in full (16 R296). -/
def State.writeFrame (s : State) (g : Gang) (h : Halt) : State :=
  { s with mem := s.mem.writeBytes g.framePhys (s.frameBytes g h) }

/-- Delivery to the handler (16 R298): the frame is written in full, then a handler split of the faulting group holds
every live lane, at HVEC, with FMT 0x003F and PART 5, s0 := the frame address and s1 := CAUSE | SUB << 8. In the trail of a pair nothing is
written, and the lead's s0 and s1 are `given` (24 R368). -/
def deliverToHandler (s : State) (id : Nat) (given : Option (List Word)) : State :=
  match s.gang? id with
  | none => s
  | some g =>
    match g.halt with
    | none => s
    | some h =>
      match g.group? h.group with
      | none => s
      | some x =>
        let regs := given.getD [g.csr.hframe, BitVec.ofNat 64 (h.trap.cause + 2 ^ 8 * h.trap.sub)]
        let s1 := if given.isSome then s else s.writeFrame g h
        let hs : Split :=
          { pc := g.csr.hvec, lanes := x.live, fmt := 0x003F, part := 5, stack := [], shadows := [], written := []
            age := g.age, status := .ready, boost := none, idle := 0, joined := false }
        (s1.modGang id (fun g => { g with halt := some { h with phase := .handling }, handler := some hs, handlerRest := [] })).modGroup id h.group
          (fun x => (x.putEntry (.s 0 (regs.getD 0 0))).putEntry (.s 1 (regs.getD 1 0)))

/-! ## The return from an exception (16 R299) -/

/-- FMT as a register holds a written value: the reserved bits read as 0, and a width code of 0 is not held, so that the field keeps its
code (08 R174; log 100). -/
def heldFmt (old v : BitVec 16) : BitVec 16 :=
  let n := v.toNat % 2 ^ 10
  let aw := if n % 8 = 0 then old.toNat % 8 else n % 8
  let bw := if n / 8 % 8 = 0 then old.toNat / 8 % 8 else n / 8 % 8
  BitVec.ofNat 16 (n / 64 * 64 + 8 * bw + aw)

/-- PART as a register holds a written value: TLOG codes 0, 6 and 7 are not held (10 R194; log 100). -/
def heldPart (old v : BitVec 16) : BitVec 16 :=
  let n := v.toNat % 8
  if 1 ≤ n ∧ n ≤ 5 then BitVec.ofNat 16 n else BitVec.ofNat 16 (old.toNat % 8)

/-- ERET with ACTION 0 or 1: VSAVE, SSAVE, PSAVE, UPSAVE, FMTSAVE and PARTSAVE are written back as the handler left them in the
frame, the faulting split resumes at PC or NEXTPC, HP falls, the halt is lifted, TRAPCNT rises by 1, and armed injections
begin to count (17 R327). A dead lane's predicates stay 0 (10 R193). `fr` holds the frame's bytes. -/
def resumeFromHandler (s : State) (id : Nat) (skip : Bool) (fr : List Byte) : State :=
  match s.gang? id with
  | none => s
  | some g =>
    match g.halt with
    | none => s
    | some h =>
      match g.group? h.group with
      | none => s
      | some x =>
        let f : Focus := { gang := id, group := h.group, split := h.split.val }
        let pc := if skip then h.npc else h.pc
        let live := lanesOf x.live
        let s1 := s.modGang id (fun g =>
          { g with
            halt := none, handler := none, handlerRest := [], csr := { g.csr with trapcnt := g.csr.trapcnt + 1 }
            injections := g.injections.map (fun i => { i with live := true }) })
        let s2 := s1.modSplit f (fun sp =>
          { sp with
            pc := pc, status := .ready, joined := sp.joined && !skip
            fmt := heldFmt sp.fmt (BitVec.ofNat 16 (fieldAt fr 222 2)), part := heldPart sp.part (BitVec.ofNat 16 (fieldAt fr 224 2)) })
        let s3 := (List.range 16).foldl (fun s r =>
          live.foldl (fun s l => s.setLane id h.group r l (BitVec.ofNat 32 (fieldAt fr (256 + 128 * r + 4 * l) 4))) s) s2
        let s4 := (List.range 16).foldl (fun t r =>
          t.writeU f (.s (Fin.ofNat 384 r) (BitVec.ofNat 64 (fieldAt fr (64 + 8 * r) 8)))) s3
        let s5 := (List.range 3).foldl (fun t r => t.changeUp f (Fin.ofNat 4 (r + 1)) ((fieldAt fr 220 1).testBit (r + 1))) s4
        s5.modGroup id h.group (fun x => (List.range 7).foldl (fun x r =>
          x.setPred (Fin.ofNat 8 (r + 1)) (~~~ x.dead) (BitVec.ofNat 32 (fieldAt fr (192 + 4 * r) 4))) x)

end Sys2Proof.Machine
end

