-- ==== Sys2Proof/Machine/Translate.lean ====
section
/-! DEFINITION. Translation: the page-table walk (03 R51-R53), the checks of R55 in order, and the miss table as the accesses see it (R57). -/

namespace Sys2Proof.Machine

/-- Access kinds with their codes (16 R296). -/
inductive AccKind where
  | read | write | atomic | fetch
  deriving DecidableEq, Repr

def AccKind.code : AccKind → Nat
  | .read => 1
  | .write => 2
  | .atomic => 3
  | .fetch => 4

def AccKind.writes : AccKind → Bool
  | .write | .atomic => true
  | _ => false

/-- On whose behalf an access is translated: the context's tag, the die (none for the host, 19 R346; Ezden acts for no die
and passes steps 6 and 7), and whether it is at handler privilege. -/
structure Who where
  ctx : Nat
  die : Option Nat
  hp : Bool
  ezden : Bool
  deriving DecidableEq, Repr

/-- A translated access: the physical address and what the leaf says of the page. -/
structure Xlat where
  pa : Nat
  shift : Nat
  region : Nat
  dur : Bool
  deriving DecidableEq, Repr

/-- The entry at `base + 8 · index` (03 R51). An error in a table's line ends its context at once (17 R312), so no walk meets a line
whose check value fails. -/
def State.entry (s : State) (base index : Nat) : Nat := s.mem.readLE (base + 8 * index) 8

/-- NEXT of a pointer entry (03 R52). -/
def nextTable (e : Nat) : Nat := bitsOf e 49 8 * 2 ^ 8

/-- The address of the table a level indexes, and the index, for levels 0 to 3 (03 R51). -/
def levelIndex (level va : Nat) : Nat :=
  match level with
  | 0 => bitsOf va 51 39
  | 1 => bitsOf va 38 30
  | 2 => bitsOf va 29 21
  | _ => bitsOf va 20 16

/-- The bits below a leaf of a level. -/
def levelShift (level : Nat) : Nat :=
  match level with
  | 0 => 39
  | 1 => 30
  | 2 => 21
  | _ => 16

/-- The entries of a walk with their levels; none where an entry has V = 0 (R55 step 2). -/
def State.walkFrom (s : State) (va : Nat) : Nat → Nat → Nat → Option (List (Nat × Nat))
  | 0, _, _ => some []
  | fuel + 1, level, base =>
    let e := s.entry base (levelIndex level va)
    if !e.testBit 0 then none
    else if e.testBit 1 ∨ fuel = 0 then some [(level, e)]
    else (s.walkFrom va fuel (level + 1) (nextTable e)).map (fun es => (level, e) :: es)

/-- The walk of a table root (03 R51). -/
def State.walk (s : State) (root va : Nat) : Option (List (Nat × Nat)) := s.walkFrom va 4 0 root

/-- A pointer entry is well formed (03 R52), its region bits not 0b11 (R55). -/
def pointerOk (level e : Nat) : Bool :=
  decide (bitsOf e 7 2 = 0) && decide (bitsOf e 63 50 = 0) && decide (bitsOf e 49 48 ≠ 3) && (decide (level = 2) || decide (bitsOf e 11 8 = 0))

/-- A leaf entry is well formed: reserved bits, alignment, REGION, the region bits of R50, HDIE and DUR (03 R53). -/
def leafOk (level e : Nat) : Bool :=
  decide (level ≠ 0) && decide (bitsOf e 15 10 = 0) && decide (bitsOf e 51 50 = 0) &&
  (decide (level ≠ 2) || decide (bitsOf e 20 16 = 0)) && (decide (level ≠ 1) || decide (bitsOf e 29 16 = 0)) &&
  decide (bitsOf e 3 2 ≠ 3) && decide (bitsOf e 49 48 ≠ 3) && (decide (bitsOf e 3 2 = 0) || decide (bitsOf e 9 8 = 0)) &&
  (!e.testBit 4 || (decide (bitsOf e 3 2 ≠ 1) && decide (bitsOf e 49 48 = 0)))

/-- Step 3 of R55 over a walk: every pointer and the leaf well formed, and L3 holds a leaf. -/
def walkOk : List (Nat × Nat) → Bool
  | [] => false
  | [(level, e)] => e.testBit 1 && leafOk level e
  | (level, e) :: es => !e.testBit 1 && pointerOk level e && walkOk es

/-- A frame lies within an existing region: below a stack's mappable capacity, in host memory, or on a connected peer
(03 R50, R55 step 4). -/
def Part.frameOk (p : Part) (frame size : Nat) : Bool :=
  match frame / 2 ^ 48 % 4 with
  | 0 =>
    let stack := frame / 2 ^ 36
    decide (stack < 8) && decide (frame % 2 ^ 36 + size ≤ p.mappable.toList.getD stack 0 * 2 ^ 16)
  | 1 => true
  | 2 =>
    let chip := frame / 2 ^ 39 % 2 ^ 9
    p.peers.any (fun x => x.1 == chip) && !p.lostPeers.contains chip
  | _ => false

/-- The first address of a leaf's frame. -/
def frameOf (level e : Nat) : Nat := bitsOf e 49 16 * 2 ^ 16 / 2 ^ levelShift level * 2 ^ levelShift level

/-- The walk of a context's table, else of the shared domain's when the context is mapped into it (03 R49). -/
def State.walkCtx (s : State) (c : Context) (va : Nat) : Option (List (Nat × Nat)) :=
  match s.walk c.root va with
  | some es => some es
  | none =>
    if c.inShared then
      match s.ctx? 0xFFF with
      | some d => s.walk d.root va
      | none => none
    else none

/-- R55, step by step: the cause and subcause of the first check that fails, or the translated address. That ATS translates a host
frame for the context's function and PASID (19 R344) is checked after step 4 (log 97). -/
def State.translate (s : State) (w : Who) (k : AccKind) (va : Word) : Except (Nat × Nat) Xlat :=
  let a := va.toNat
  if 2 ^ 52 ≤ a then .error (0x05, 1)
  else
    match s.ctx? w.ctx with
    | none => .error (0x05, 2)
    | some c =>
      match s.walkCtx c a with
      | none => .error (0x05, 2)
      | some es =>
        if !walkOk es then .error (0x05, 3)
        else
          match es.getLast? with
          | none => .error (0x05, 3)
          | some (level, e) =>
            let sh := levelShift level
            let frame := frameOf level e
            let pa := frame + a % 2 ^ sh
            let owner := e / 2 ^ 52
            let region := bitsOf e 3 2
            if !s.part.frameOk frame (2 ^ sh) then .error (0x05, 4)
            else if pa / 2 ^ 48 = 1 ∧ s.part.untranslated.contains (c.fn, c.pasid, pa % 2 ^ 48 / 2 ^ 16) then .error (0x05, 2)
            else if !(owner == w.ctx || (owner == 0xFFF && c.inShared)) then .error (0x06, 1)
            else if e.testBit 7 ∧ !w.hp ∧ !w.ezden then .error (0x06, 2)
            else if region = 0 ∧ !w.ezden ∧ w.die ≠ some (bitsOf e 9 8) then .error (0x06, 3)
            else if k.writes ∧ (!e.testBit 5 ∨ region = 1) then .error (0x06, 4)
            else if k = .fetch ∧ !e.testBit 6 then .error (0x06, 4)
            else .ok { pa := pa, shift := sh, region := region, dur := e.testBit 4 }

/-! ## The TLBs and the miss table (03 R57) -/

/-- The first 64 KiB page, and the number of such pages, of the page that a walk of a context finds; none where it fails at step 2, 3 or
4 of R55. -/
def State.walkedPage (s : State) (ctx page : Nat) : Option (Nat × Nat) :=
  match s.ctx? ctx with
  | none => none
  | some c =>
    match s.walkCtx c (page * 2 ^ 16) with
    | none => none
    | some es =>
      if !walkOk es then none
      else
        match es.getLast? with
        | none => none
        | some (level, e) =>
          let n := 2 ^ (levelShift level - 16)
          if s.part.frameOk (frameOf level e) (2 ^ levelShift level) then some (page / n * n, n) else none

/-- A TLB with a translation put in; a full one gives up an entry that the manual leaves open (log 8). -/
def tlbPut (cap victim : Nat) (key : Nat × Nat) (xs : List (Nat × Nat)) : List (Nat × Nat) :=
  if xs.contains key then xs else (if cap ≤ xs.length then xs.eraseIdx (victim % xs.length) else xs) ++ [key]

/-- A draw of a victim where a TLB is full. -/
def State.victim (s : State) (cap : Nat) (xs : List (Nat × Nat)) : State × Nat :=
  if cap ≤ xs.length then
    let (s1, bs) := s.drawBytes 2
    (s1, leNat bs)
  else (s, 0)

/-- The 2,048 entries of a core's TLB, the 16,384 of a die's. -/
def coreTlbSize : Nat := 2048
def dieTlbSize : Nat := 16384

def State.fillCoreTlb (s : State) (core : Nat) (key : Nat × Nat) : State :=
  let (s1, v) := s.victim coreTlbSize (s.core? core).tlb
  s1.modCore core (fun c => { c with tlb := tlbPut coreTlbSize v key c.tlb })

def State.fillDieTlb (s : State) (die : Nat) (key : Nat × Nat) : State :=
  let (s1, v) := s.victim dieTlbSize (s.die? die).tlb
  s1.modDie die (fun d => { d with tlb := tlbPut dieTlbSize v key d.tlb })

/-- One access of a core to a page: a hit in its TLB or its die's, a waiter on a walk, or a new entry of the miss table; none while all
512 entries are in use. -/
def State.touchPage (s : State) (core ctx : Nat) (va : Word) : Option State :=
  let die := s.part.dieOf core
  let d := s.die? die
  let page := va.toNat / 2 ^ 16
  let key := (ctx, ((s.walkedPage ctx page).map Prod.fst).getD page)
  if (s.core? core).tlb.contains key then some s
  else if d.tlb.contains key then some (s.fillCoreTlb core key)
  else if d.walks.any (fun w => w.ctx == ctx && w.page == page) then
    some (s.modDie die (fun d =>
      { d with
        walks := d.walks.map (fun w => if w.ctx == ctx && w.page == page then { w with waiters := core :: w.waiters } else w)
        coalesced := d.coalesced + 1 }))
  else if 512 ≤ d.walks.length then none
  else some (s.modDie die (fun d => { d with walks := d.walks ++ [{ ctx := ctx, page := page, started := false, waiters := [core] }] }))

/-- The accesses of an instruction, in order; a non-canonical address walks nothing (R55 step 1). -/
def State.touchPages (s : State) (core ctx : Nat) : List Word → Option State
  | [] => some s
  | va :: rest =>
    if 2 ^ 52 ≤ va.toNat then s.touchPages core ctx rest
    else
      match s.touchPage core ctx va with
      | none => none
      | some s' => s'.touchPages core ctx rest

/-- The access of the gang: its context, its core's die, its privilege. -/
def State.whoOf (s : State) (g : Gang) (f : Focus) : Who :=
  { ctx := g.ctx, die := some (s.part.dieOf g.core), hp := f.split == 4, ezden := false }

/-! ## Fetch (02 R40, R41, R44; 17 R314) -/

/-- One instruction word at a PC: its bytes as a read of the line finds them, updates merged and stash copies written back; or the fetch's
trap: R55 as a fetch, then poison (subcause 1) and lost lines (subcause 2). -/
def State.fetchWord (s : State) (w : Who) (pc : Word) : Except (Nat × Nat) (List Byte) :=
  match s.translate w .fetch pc with
  | .error e => .error e
  | .ok x =>
    let s1 := s.reach (x.pa / 128) false
    if s1.poison.contains (x.pa / 64) then .error (0x15, 1)
    else if s1.lost.contains (x.pa / 128) then .error (0x15, 2)
    else .ok (s1.mem.readBytes x.pa 4)

/-- `n` words of an instruction at ascending addresses. -/
def State.fetchRest (s : State) (w : Who) (pc : Word) : Nat → Except (Nat × Nat) (List Byte)
  | 0 => .ok []
  | n + 1 =>
    match s.fetchWord w pc with
    | .error e => .error e
    | .ok bs =>
      match s.fetchRest w (pc + 4) n with
      | .error e => .error e
      | .ok rest => .ok (bs ++ rest)

/-- The words of the instruction at a PC, as many as LEN of word 0 says (02 R41, R43). -/
def State.fetch (s : State) (w : Who) (pc : Word) : Except (Nat × Nat) (List Byte) :=
  match s.fetchWord w pc with
  | .error e => .error e
  | .ok bs =>
    match s.fetchRest w (pc + 4) (wordsOfLen (leNat bs % 4) - 1) with
    | .error e => .error e
    | .ok rest => .ok (bs ++ rest)

/-! ## Fetch and decode (02 R40, R41) -/

/-- The instruction at the PC of the focused split; `notAnInstruction` where the fetch fails or no member decodes. -/
def State.instrAt (s : State) (f : Focus) : Instr :=
  match s.gang? f.gang, s.split? f with
  | some g, some sp =>
    match s.fetch (s.whoOf g f) sp.pc with
    | .error _ => .notAnInstruction
    | .ok bs =>
      match decode bs with
      | .ok i => i
      | .error _ => .notAnInstruction
  | _, _ => .notAnInstruction

end Sys2Proof.Machine
end

