-- ==== Sys2Proof/Machine/Splits.lean ====
section
/-! DEFINITION. Splits of a group: divergence, parked entries, merges and reconvergence points (13 R237-R244), membership waits (10 R197) and the deadlock of waiting splits (10 R198, 13 R242). -/

namespace Sys2Proof.Machine

/-! ## Slots -/

/-- The lowest free split slot. -/
def Group.freeSlot (g : Group) : Option Nat := (List.range 4).find? (fun i => (g.split? i).isNone)

/-- Whenever a slot frees, the oldest parked entry becomes a split in it (13 R239). -/
def promoteFrom : Nat → Group → Group
  | 0, g => g
  | n + 1, g =>
    match g.freeSlot, g.parked with
    | some i, p :: ps => promoteFrom n (({ g with parked := ps } : Group).setSplit i (some { p with status := .ready }))
    | _, _ => g

def Group.promote (g : Group) : Group := promoteFrom 4 g

/-- When the group stops being divergent, its one split's shadows become the group's registers (13 R244). -/
def Group.releaseWhole (g : Group) : Group :=
  match g.liveSplits with
  | [(i, sp)] =>
    if g.parked.isEmpty then
      let g1 : Group := sp.shadows.foldr (fun e (g : Group) => g.putEntry e) g
      ({ g1 with serial := none } : Group).setSplit i (some { sp with shadows := [], written := [] })
    else g
  | _ => g

/-- A split has gone or its state has changed: serial mode of a split that is gone ends, parked entries move up, a group
that is no longer divergent takes its split's shadows. -/
def Group.settle (g : Group) : Group :=
  let g1 := match g.serial with
    | some i => if (g.split? i.val).isNone then { g with serial := none } else g
    | none => g
  g1.promote.releaseWhole

/-- A split enters WAITING; serial mode ends (13 R242, R243). -/
def Group.setWaiting (g : Group) (i : Nat) (w : Wait) : Group :=
  match g.split? i with
  | none => g
  | some sp =>
    { g.setSplit i (some { sp with status := .waiting w }) with
      serial := if g.serial.map Fin.val = some i then none else g.serial }

/-- A split comes to wait at an instruction whose wait R242 does not list: serial mode goes on. -/
def Group.hold (g : Group) (i : Nat) (w : Wait) : Group :=
  match g.split? i with
  | none => g
  | some sp => g.setSplit i (some { sp with status := .waiting w })

/-- A split waits; the handler split keeps its own place. -/
def State.park (s : State) (f : Focus) (w : Wait) : State :=
  if f.split = 4 then s.modSplit f (fun sp => { sp with status := .waiting w })
  else s.modGroup f.gang f.group (fun g => g.setWaiting f.split w)

/-- The lanes of the splits and parked entries shrink to `keep`; a split without lanes retires (13 R237). -/
def Group.keepLanes (g : Group) (keep : LaneMask) : Group :=
  let cut := fun (sp : Split) => if sp.lanes &&& keep = 0 then none else some { sp with lanes := sp.lanes &&& keep }
  ({ g with splits := g.splits.map (fun (o : Option Split) => o.bind cut), parked := g.parked.filterMap cut } : Group).settle

/-! ## Divergence (13 R238, R239) -/

/-- The parts of a divergence: one per distinct target, ranked by the lowest lane. -/
def partsOf (tgt : Nat → Word) (lanes : LaneMask) : List (Word × LaneMask) :=
  (((lanesOf lanes).map tgt).eraseDups).map (fun t => (t, maskOf ((lanesOf lanes).filter (fun l => tgt l = t))))

/-- Each later part takes the lowest free slot, or is parked. -/
def addParts (clock : Nat) (sp : Split) : List (Word × LaneMask) → Group → Group
  | [], g => g
  | (pc, m) :: rest, g =>
    let y : Split := { sp with pc := pc, lanes := m, age := clock, status := .ready, boost := none, idle := 0, joined := false }
    addParts clock sp rest (match g.freeSlot with
      | some i => g.setSplit i (some y)
      | none => { g with parked := g.parked ++ [y] })

/-- The lanes of a split go to their targets. -/
def Group.goTo (g : Group) (i : Nat) (clock : Nat) (tgt : Nat → Word) : Group :=
  match g.split? i with
  | none => g
  | some sp =>
    match partsOf tgt sp.lanes with
    | [] => g
    | (pc, m) :: rest =>
      let first : Split := { sp with pc := pc, lanes := m, joined := false }
      addParts clock first rest (g.setSplit i (some first))

/-- Serial mode of a split in one of some slots ends (13 R243). -/
def Group.endSerial (g : Group) (is : List Nat) : Group :=
  match g.serial with
  | some i => if is.contains i.val then { g with serial := none } else g
  | none => g

/-! ## Merges (13 R240, R244; 08 R175; 10 R194) -/

/-- An entry with the value the split sees. -/
def Group.readEntry (g : Group) (sp : Split) : UEntry → UEntry
  | .s r _ => .s r (g.readS sp r)
  | .up r _ => .up r (g.readUp sp r)
  | .m r _ => .m r (g.readM sp r)

/-- The split that holds the lowest-numbered lane of a list. -/
def lowestSplit (x : Split) (xs : List Split) : Split :=
  xs.foldl (fun b y => if lowestLane y.lanes < lowestLane b.lanes then y else b) x

/-- The registers that splits have written, each once. -/
def writtenNames (xs : List Split) : List UEntry :=
  (xs.flatMap (fun x => x.shadows ++ x.written)).foldl (fun es e => if es.any (fun y => y.same e) then es else es ++ [e]) []

/-- The values a register has in the merging splits that wrote it, the one of the lowest lane first. -/
def Group.mergedValues (g : Group) (x : Split) (xs : List Split) (e : UEntry) : List UEntry :=
  let ws := (x :: xs).filter (fun y => (y.shadows ++ y.written).any (fun z => z.same e))
  match ws with
  | [] => []
  | w :: rest => g.readEntry (lowestSplit w rest) e :: ws.map (fun y => g.readEntry y e)

/-- What a merge yields: the group, how many registers conflicted, whether serial mode was entered. -/
structure Merged where
  g : Group
  conflicts : Nat
  serial : Bool
  deriving DecidableEq, Repr

/-- The splits in the slots `i :: is` (rising) merge into slot `i` with a status. More than 16 merged registers put the group into
serial mode, which ends at once if the merged split waits (R243). -/
def Group.mergeSlots (g : Group) (i : Nat) (is : List Nat) (st : Status) : Merged :=
  match g.split? i with
  | none => { g := g, conflicts := 0, serial := false }
  | some x =>
    let xs := is.filterMap (fun j => g.split? j)
    if xs.isEmpty then
      { g := (match st with
          | .waiting _ => g.endSerial [i]
          | _ => g).setSplit i (some { x with status := st })
        conflicts := 0, serial := false }
    else
      let lo := lowestSplit x xs
      let cols := (writtenNames (x :: xs)).map (fun e => g.mergedValues x xs e)
      let vals := cols.filterMap (fun c => c.head?)
      let clash := cols.countP (fun c => c.any (fun v => decide (some v ≠ c.head?)))
      let odd := (x :: xs).any (fun y => decide (y.fmt ≠ lo.fmt) || decide (y.part ≠ lo.part))
      let m : Split :=
        { lo with
          pc := x.pc, lanes := xs.foldl (fun a y => a ||| y.lanes) x.lanes, shadows := vals, written := []
          age := xs.foldl (fun a y => min a y.age) x.age, status := st, boost := none, idle := 0
          joined := (x :: xs).any (fun y => y.joined) }
      let g1 := (is.foldl (fun g j => g.setSplit j none) (g.endSerial (i :: is))).setSplit i (some m)
      let full := decide (16 < vals.length) && g1.divergent
      let g2 := if full then
          { (vals.foldl (fun (g : Group) e => g.putEntry e) g1).setSplit i (some { m with shadows := [], written := vals }) with
            serial := match st with
              | .waiting _ => none
              | _ => if h : i < 4 then some ⟨i, h⟩ else none }
        else g1
      { g := { g2 with ucflag := g.ucflag || decide (0 < clash) || odd }.settle, conflicts := clash, serial := full }

/-- A merge in the machine, with the core's counters. -/
def State.mergeAt (s : State) (gang slot i : Nat) (is : List Nat) (st : Status) : State :=
  match s.gang? gang, s.group? gang slot with
  | some x, some g =>
    let m := g.mergeSlots i is st
    (s.modGroup gang slot (fun _ => m.g)).modCore x.core (fun c =>
      { c with
        conflicts := c.conflicts + BitVec.ofNat 32 m.conflicts
        serialisations := if m.serial then c.serialisations + 1 else c.serialisations })
  | _, _ => s

/-! ## Matching PCs (13 R240) -/

/-- READY, or stalled only on operand readiness. -/
def Status.mergeable : Status → Bool
  | .ready | .stalled .operand _ => true
  | _ => false

/-- The split stands at the top of its stack and has not passed it (13 R240). -/
def Split.atJoin (sp : Split) : Bool := !sp.joined && decide (sp.stack.head? = some sp.pc)

/-- The slots of the splits that merge with the one in slot `i` before it issues: none while the others are suspended; a split at its own
reconvergence point waits there. -/
def Group.matching (g : Group) (i : Nat) : List Nat :=
  match g.split? i with
  | none => []
  | some sp =>
    if g.serial.isSome then []
    else (g.liveSplits.filter (fun y => y.1 ≠ i ∧ y.2.pc = sp.pc ∧ y.2.status.mergeable ∧ !y.2.atJoin)).map (·.1)

/-! ## Reconvergence points (13 R240) -/

/-- The slots of the other splits that stand at the same reconvergence point, and whether a split or parked entry is still
to come. -/
def Group.joining (g : Group) (i : Nat) : List Nat × Bool :=
  match g.split? i with
  | none => ([], false)
  | some sp =>
    let same := g.liveSplits.filter (fun y => y.1 ≠ i ∧ y.2.stack.head? = some sp.pc)
    ((same.filter (fun y => y.2.pc = sp.pc ∧ y.2.atJoin)).map (·.1),
      same.any (fun y => decide (y.2.pc ≠ sp.pc)) ||
        g.parked.any (fun p => decide (p.stack.head? = some sp.pc) && decide (p.pc ≠ sp.pc)))

/-! ## Membership waits (10 R197) -/

/-- The mask of a membership wait without the lanes that are no longer live (M' of R197). -/
def memberMask (g : Group) (sp : Split) : Option LaneMask :=
  match sp.status with
  | .waiting (.member _ m _) => some (m &&& g.live)
  | _ => none

/-- The slots of the splits that have arrived at a PC with an equal M'. -/
def Group.mates (g : Group) (pc : Word) (m : LaneMask) : List Nat :=
  (g.liveSplits.filter (fun y => decide (y.2.pc = pc) && decide (memberMask g y.2 = some m))).map (·.1)

/-- The lanes of the splits in some slots. -/
def Group.lanesAt (g : Group) (is : List Nat) : LaneMask :=
  is.foldl (fun a i => match g.split? i with
    | some sp => a ||| sp.lanes
    | none => a) 0

/-- A waiting membership instruction can complete. -/
def Group.memberDone (g : Group) (sp : Split) : Bool :=
  match memberMask g sp with
  | none => false
  | some m => decide (m &&& ~~~ (g.lanesAt (g.mates sp.pc m)) = 0)

/-! ## Deadlock (10 R198 subcause 4, 13 R242) -/

/-- The split waits for its own group: at a membership instruction that cannot complete, a reconvergence point with others to
come, a gang barrier, a carry-queue stall, or a held BECOME. -/
def Group.stuckSplit (g : Group) (i : Nat) (sp : Split) : Bool :=
  match sp.status with
  | .waiting (.member ..) => !g.memberDone sp
  | .waiting .reconv => (g.joining i).2
  | .waiting (.gsync _) | .waiting (.rpmark ..) => true
  | .stalled .carry false | .stalled .held false => true
  | _ => false

def Status.atBarrier : Status → Bool
  | .waiting (.gsync _) | .waiting (.rpmark ..) => true
  | _ => false

/-- Another split of the group is in serial mode (13 R243). -/
def Group.suspended (g : Group) (i : Nat) : Bool :=
  match g.serial with
  | some j => decide (j.val ≠ i)
  | none => false

/-- Every live split waits or is SUSPENDED and no wait can end: a barrier can end while every split of the group stands at it. -/
def Group.stuck (g : Group) : Bool :=
  !g.liveSplits.isEmpty && g.liveSplits.all (fun y => g.suspended y.1 || g.stuckSplit y.1 y.2) &&
  !(g.parked.isEmpty && g.liveSplits.all (fun y => y.2.status.atBarrier))

/-- Trap 0x03, subcause 4, in the live split that holds the lowest lane. -/
def State.deadlockCheck (s : State) (gang slot : Nat) : State :=
  match s.gang? gang, s.group? gang slot with
  | some x, some g =>
    if x.halt.isNone ∧ x.run = .running ∧ g.stuck then
      match g.liveSplits.find? (fun y => y.2.lanes.getLsbD (lowestLane (g.lanesAt [0, 1, 2, 3]))) with
      | none => s
      | some (i, sp) =>
        let f : Focus := { gang := gang, group := slot, split := i }
        raiseTrap s f (s.instrAt f).bytes sp.lanes
          { cause := 0x03, sub := 4, kind := 0, lanes := sp.lanes, addr := 0, info := 0 }
    else s
  | _, _ => s

/-- The groups of a gang are tested again: what entered its wait during a halt is found when the halt ends. -/
def State.deadlockAll (s : State) (gang : Nat) : State :=
  match s.gang? gang with
  | none => s
  | some g => g.order.foldl (fun (s : State) slot => s.deadlockCheck gang slot) s

/-- A carry-queue stall is WAITING (13 R242), so serial mode of its split ends; it, or a held BECOME, may be the group's last wait. -/
def stallCheck (s : State) (f : Focus) (w : Stall) : State :=
  match w with
  | .carry => (s.modGroup f.gang f.group (fun g => g.endSerial [f.split])).deadlockCheck f.gang f.group
  | .held => s.deadlockCheck f.gang f.group
  | _ => s

end Sys2Proof.Machine
end

