-- ==== Sys2Proof/Machine/Owners.lean ====
section
/-! DEFINITION. Who owns a line and who has to wait for it: engine commands (05 R98), stream rings (R117), tile operations and pins (11 R215), tile loads (07 R156); the stream engines as the gangs see them (17 R321). -/

namespace Sys2Proof.Machine

/-! ## Stream engines as the gangs see them -/

/-- Bytes of the stream, and the number of slots it fills (05 R113). -/
def StreamRec.length (r : StreamRec) : Nat := (r.ext.foldl (· * ·) 1) * 2 ^ r.esz
def StreamRec.slotBytes (r : StreamRec) : Nat := 128 * r.slotLines
def StreamRec.totalSlots (r : StreamRec) : Nat := (r.length + r.slotBytes - 1) / r.slotBytes

/-- The gang whose core's stream engines serve a gang: the lead for a trail (17 R321). -/
def State.engineGang (s : State) (g : Gang) : Gang :=
  match g.pair with
  | some p => if p.role = .trail then (s.gang? p.other).getD g else g
  | none => g

/-- An engine as the gang sees it: a trail has its own count, its own port and its own ring. -/
def Stream.side (st : Stream) (lead g : Gang) : Stream :=
  if lead.id = g.id then st
  else
    let r := { st.record with ring := st.record.ring + g.base - lead.base }
    if st.record.drain then { st with record := r, prod := st.twin, port := st.twinPort }
    else { st with record := r, cons := st.twin, port := st.twinPort }

/-- What a gang changes of its view. -/
def Stream.putSide (st : Stream) (lead g : Gang) (v : Stream) : Stream :=
  if lead.id = g.id then v
  else { st with twin := if st.record.drain then v.prod else v.cons, twinPort := v.port }

def State.streamAt (s : State) (core e : Nat) : Stream := if h : e < 4 then (s.core? core).streams[e] else Stream.vacant

def setStream (s : State) (core e : Nat) (st : Stream) : State :=
  if he : e < 4 then s.modCore core (fun c => { c with streams := c.streams.set e st }) else s

/-- An engine as a gang sees it, and a change of it. -/
def State.streamOf (s : State) (g : Gang) (e : Nat) : Stream :=
  (s.streamAt (s.engineGang g).core e).side (s.engineGang g) g

def State.putStream (s : State) (g : Gang) (e : Nat) (v : Stream) : State :=
  let l := s.engineGang g
  setStream s l.core e ((s.streamAt l.core e).putSide l g v)

/-! ## Owners -/

/-- A line with a press read pin: a vat line, or a physical line with a stash copy that is pinned (11 R215). -/
def State.pinnedLoc (s : State) : Loc → Bool
  | .vat c n => s.pinned c n
  | .phys n => (enumFrom 0 s.cores).any (fun c => (c.2.copies n).any (fun u => s.pinned c.1 (u.1.vat / 128 + u.2)))

/-- An engine command owns the line: it still has to write it (05 R98). A pin holds the grant back (11 R215). -/
def State.commandOwns (s : State) (l : Loc) : Bool :=
  s.commands.any (fun c => c.lines.any (fun x => decide (x.line = l))) && !s.pinnedLoc l

/-- The number of the next pass of a ring slot that the engine has not made ready. -/
def Stream.nextUse (st : Stream) (j : Nat) : Nat := st.prod + (j + st.record.slots - st.prod % st.record.slots) % st.record.slots

/-- The ring slot a vat address lies in. -/
def Stream.slotOf (st : Stream) (a : Nat) : Option Nat :=
  let r := st.record
  if r.ring ≤ a ∧ a < r.ring + r.slots * r.slotBytes then some ((a - r.ring) / r.slotBytes) else none

/-- A running fill engine is still to write the slot of a vat address and has it on its side (05 R117). -/
def Stream.fillHolds (st : Stream) (a : Nat) : Bool :=
  match st.slotOf a with
  | none => false
  | some j =>
    decide (st.state = .run) && !st.record.drain && decide (st.nextUse j < st.record.totalSlots) &&
    decide (st.nextUse j < st.cons + st.record.slots)

/-- A running drain engine has the slot of a vat address on its side and has not read it (05 R117). -/
def Stream.drainHolds (st : Stream) (a : Nat) : Bool :=
  match st.slotOf a with
  | none => false
  | some j =>
    decide (st.state = .run) && st.record.drain &&
    (List.range (st.prod - st.cons)).any (fun i => (st.cons + i) % st.record.slots == j)

/-- The elements of a drain that are still to be written. -/
def Stream.remaining (st : Stream) : List (Nat × Bool) :=
  if st.state = .run ∧ st.record.drain then st.elems.drop (st.cons * st.record.slotBytes / 2 ^ st.record.esz) else []

/-- The engines that have a ring in a core's vat, as the gangs there see them. -/
def State.streamsOn (s : State) (core : Nat) : List Stream :=
  (s.core? core).streams.toList ++
  (s.gangs.filter (fun g => g.core == core && decide ((s.engineGang g).id ≠ g.id))).flatMap (fun g =>
    let l := s.engineGang g
    ((s.core? l.core).streams.toList.filter (fun st => st.holder == l.id)).map (fun st => st.side l g))

/-- An outstanding LDT has not written the vat line (07 R156). -/
def State.ldtHolds (s : State) (core line : Nat) : Bool :=
  (s.gangs.filter (fun g => g.core == core)).any (fun g => g.groups.any (fun x => x.loads.any (fun l =>
    l.tile.any (fun t => t.1 / 128 == line))))

/-- An engine, the press or a tile load has a vat line to write (05 R98, R117; 07 R156; 11 R215). -/
def State.vatOwned (s : State) (core line : Nat) : Bool :=
  s.commandOwns (.vat core line) || ((s.tilesOn core).any (fun t => t.owned.contains line) && !s.pinned core line) ||
  (s.streamsOn core).any (fun st => st.fillHolds (128 * line)) || s.ldtHolds core line

/-- A thread's access to a vat line has to wait: for its owner, and a write for a drain engine's read and for a pin. -/
def State.vatBusy (s : State) (core line : Nat) (write : Bool) : Bool :=
  s.vatOwned core line || (write && ((s.streamsOn core).any (fun st => st.drainHolds (128 * line)) || s.pinned core line))

/-- The drain engines, those of saved gangs among them, that still have a physical line to write (05 R98). -/
def State.drainOwns (s : State) (line : Nat) : Bool :=
  s.cores.any (fun c => c.streams.any (fun st => st.remaining.any (fun e => e.1 / 128 == line))) ||
  s.saves.any (fun v => v.streams.any (fun st => st.2.remaining.any (fun e => e.1 / 128 == line)))

/-- A coherent access to a physical line has to wait for one of its stash copies: an owner has the copy still to write, or a pin delays the
transition that the access causes (07 R147). -/
def State.copyBusy (s : State) (line : Nat) (write : Bool) : Bool :=
  (enumFrom 0 s.cores).any (fun c => (c.2.copies line).any (fun u =>
    let v := u.1.vat / 128 + u.2
    s.vatOwned c.1 v || (s.pinned c.1 v && (write || u.1.lines.any (fun x => x.1 == u.2 && x.2)))))

/-- An access to a physical line has to wait: for an owner (05 R98), or for a stash copy. -/
def State.physBusy (s : State) (line : Nat) (write : Bool) : Bool :=
  s.commandOwns (.phys line) || s.drainOwns line || s.copyBusy line write

def State.busy (s : State) (l : Loc) (write : Bool) : Bool :=
  match l with
  | .phys n => s.physBusy n write
  | .vat c n => s.vatBusy c n write

end Sys2Proof.Machine
end

