-- ==== Sys2Proof/Machine/Operands.lean ====
section
/-! DEFINITION. How an instruction issues: the check order of R41, the window, port and carry-queue rules of its operands (02 R28, R29; 05 R119; 07 R145), the delivery of results with the checking modes and injected flips (17 R318, R319, R327). -/

namespace Sys2Proof.Machine

/-! ## What an instruction names -/

/-- One V-class operand: a pair when the operand's type is 64 bits wide, and whether it is a destination. -/
structure VUse where
  op : VOp
  pair : Bool
  write : Bool
  deriving DecidableEq, Repr

/-- What an instruction needs at issue: its V-class operands in the order A, B, C, D, the uniform registers it reads or
writes, its guard, whether it needs handler privilege, and the feature it belongs to (19 R350). -/
structure Need where
  vs : List VUse := []
  ss : List SReg := []
  ups : List UPReg := []
  ps : List PReg := []
  g : Guard := .none
  priv : Bool := false
  feature : Option Nat := none
  deriving DecidableEq, Repr

/-- The issuing split with the gang and group it belongs to, its execution mask and the instruction's length. -/
structure Iss where
  s : State
  f : Focus
  gang : Gang
  grp : Group
  sp : Split
  exec : LaneMask
  len : Nat

/-! ## Whether a split can issue (13 R242, R243; 15 R289; 16 R294, R298) -/

/-- The skid allowance of a group: 24 instructions since the broadcast (16 R294). -/
def skidLimit : Nat := 24

/-- The gang's halt lets the split issue: none; or the skid of a split that has not stopped; or the handler split. -/
def Gang.haltAllows (g : Gang) (f : Focus) : Bool :=
  match g.halt with
  | none => decide (f.split < 4)
  | some h =>
    match h.phase with
    | .skid =>
      decide (f.split < 4) && !(f.group == h.group && f.split == h.split.val) &&
      !(h.ended.any (fun e => e == (f.group, f.split))) &&
      (match h.skid.find? (fun e => e.1 == f.group) with
       | some e => decide (e.2 < skidLimit)
       | none => true)
    | .stopped => false
    | .handling => f.split == 4 && f.group == h.group && h.double.isNone

def Status.waits : Status → Bool
  | .waiting _ => true
  | _ => false

/-- A pair that has stopped to roll back, or that has ended (17 R324). -/
def Gang.pairStopped (g : Gang) : Bool :=
  match g.pair with
  | some p => decide (p.state = .rollback) || decide (p.state = .terminated)
  | none => false

/-- The split the focus names exists, is not WAITING or SUSPENDED, and nothing stops its gang; a group stands still during a system call
(16 R302) and while the deckle moves its lanes. -/
def State.canIssue (s : State) (f : Focus) : Bool :=
  match s.gang? f.gang, s.group? f.gang f.group, s.split? f with
  | some g, some x, some sp =>
    decide (g.run = .running) && !g.pairStopped && g.haltAllows f && !sp.status.waits &&
    (match x.serial with
     | some i => f.split == i.val || f.split == 4
     | none => true) &&
    !(x.liveSplits.any (fun y => decide (y.2.status = .waiting .syscall) || decide (y.2.status = .waiting .become)))
  | _, _, _ => false

/-! ## Step 2 of R41: registers, privilege, features -/

/-- A stream port is bound (02 R28, 05 R119). -/
def Group.portBound (g : Group) (q : Nat) : Bool := if h : q < 8 then g.ports[q].isSome else false

/-- A V-class number names a bound port (02 R28, step 1). -/
def Group.isPort (g : Group) (n : Nat) : Bool := decide (248 ≤ n) && g.portBound (n - 248)

/-- The trap a V-class operand raises, 0 for none (02 R28; pairs on a carry queue, 07 R145). -/
def Group.checkV (g : Group) (w : Nat) (u : VUse) : Nat :=
  match u.op with
  | .k _ => if u.pair then 0x01 else 0
  | .v n =>
    if u.pair then
      if n.val % 2 = 1 ∨ w < n.val + 2 ∨ g.isPort n.val ∨ g.isPort (n.val + 1) then 0x01 else 0
    else if g.isPort n.val then 0
    else if n.val < w then 0
    else if 248 ≤ n.val then 0x0F
    else 0x01

/-- A feature bit of the context's function is accepted (19 R350). -/
def State.feature (s : State) (ctx bitNo : Nat) : Bool :=
  match s.ctx? ctx with
  | none => false
  | some c => (s.fns.getD c.fn Fn.reset).featacc.getLsbD bitNo

/-- The conditions of R40 that depend on the state, from the top of its table down: window and pair, unbound port,
privilege (R39), and an absent feature's members (19 R350). -/
def checkNeed (s : State) (f : Focus) (gang : Gang) (g : Group) (n : Need) : Nat :=
  let codes := n.vs.map (g.checkV gang.task.w)
  if codes.contains 0x01 then 0x01
  else if codes.contains 0x0F then 0x0F
  else if n.priv ∧ f.split ≠ 4 then 0x01
  else match n.feature with
    | some b => if s.feature gang.ctx b then 0 else 0x01
    | none => 0

/-- The guard's lanes (02 R33). -/
def Group.guardMask (g : Group) : Guard → LaneMask
  | .none => 0xFFFFFFFF#32
  | .pos p => g.pred (Fin.ofNat 8 (p.val + 1))
  | .neg p => ~~~ (g.pred (Fin.ofNat 8 (p.val + 1)))

/-! ## Operand readiness (04 R75) -/

/-- The vector registers an operand names. -/
def VUse.regs (u : VUse) : List Nat :=
  match u.op with
  | .v n => if u.pair then [n.val, n.val + 1] else [n.val]
  | .k _ => []

/-- A uniform entry is one of the named registers. -/
def UEntry.among (e : UEntry) (n : Need) : Bool :=
  match e with
  | .s r _ => n.ss.contains r
  | .up r _ => n.ups.contains r
  | .m _ _ => false

/-- An outstanding destination of the split that the instruction reads or writes (04 R75). -/
def PendLoad.blocks (l : PendLoad) (lanes : LaneMask) (n : Need) : Bool :=
  decide (l.lanes &&& lanes ≠ 0) &&
  (l.regs.any (fun r => n.vs.any (fun u => u.regs.contains r)) ||
   (match l.uni with
    | some e => e.among n
    | none => false))

/-- No destination the instruction names is still to be written: loads, results and predicates that the replay queue holds (17 R318),
predicates of the press. -/
def State.operandsReady (s : State) (gang : Gang) (g : Group) (sp : Split) (n : Need) : Bool :=
  !(g.loads.any (fun l => l.blocks sp.lanes n)) &&
  !((s.core? gang.core).replay.any (fun e =>
      e.gang == gang.id && e.group == g.slot && (e.load.blocks sp.lanes n ||
        (decide (e.load.lanes &&& sp.lanes ≠ 0) && n.ps.any (fun p => e.pred == some p.val))))) &&
  !(g.predWait.any (fun w => decide (w.2 &&& sp.lanes ≠ 0) && n.ups.any (fun u => u.val == w.1)))

/-! ## Stream ports and carry queues as operands -/

/-- The register a carry queue's ring place names. -/
def Carry.reg (c : Carry) (i : Nat) : Nat := c.base + (c.head + i) % c.depth

/-- Pop the head entry (07 R145): a stall while none is held or the head is not filled. -/
def popCarry (x : Iss) (s : State) (k : Fin 8) : Except Stop (State × (Nat → W32)) :=
  match s.group? x.f.gang x.f.group with
  | none => .error (.stall .busy)
  | some g =>
    match g.carry[k.val] with
    | none => .error (.stall .carry)
    | some c =>
      if c.occ = 0 then .error (.stall .carry)
      else if c.unfilled.contains c.head then .error (.stall .operand)
      else
        .ok (s.modGroup x.f.gang x.f.group (fun g =>
              { g with carry := g.carry.set k.val (some { c with head := (c.head + 1) % c.depth, occ := c.occ - 1 }) }),
            fun l => s.lane x.f.gang x.f.group (c.base + c.head) l)

/-- Reserve the tail entry (07 R145): a stall while all D entries are held or reserved. -/
def reserveCarry (x : Iss) (s : State) (k : Fin 8) : Except Stop (State × Nat) :=
  match s.group? x.f.gang x.f.group with
  | none => .error (.stall .busy)
  | some g =>
    match g.carry[k.val] with
    | none => .error (.stall .carry)
    | some c =>
      if c.depth ≤ c.occ then .error (.stall .carry)
      else
        let place := (c.head + c.occ) % c.depth
        .ok (s.modGroup x.f.gang x.f.group (fun g =>
              { g with carry := g.carry.set k.val (some { c with occ := c.occ + 1, unfilled := place :: c.unfilled }) }),
            place)

/-- The register that a place of a carry queue's ring is (07 R145). -/
def State.carryReg (s : State) (gang slot : Nat) (k : Fin 8) (place : Nat) : Nat :=
  match (s.group? gang slot).bind (fun g => g.carry[k.val]) with
  | some c => c.base + place
  | none => 0

/-- Fill a reserved entry: a whole entry is pushed, inactive lanes push zero (07 R145). -/
def fillCarry (s : State) (gang slot : Nat) (k : Fin 8) (place : Nat) (vals : List (Nat × W32)) : State :=
  match s.group? gang slot with
  | none => s
  | some g =>
    match g.carry[k.val] with
    | none => s
    | some c =>
      let s1 := (List.range 32).foldl (fun s l =>
        s.setLane gang slot (c.base + place) l ((vals.find? (fun v => v.1 == l)).map Prod.snd |>.getD 0)) s
      s1.modGroup gang slot (fun g =>
        { g with carry := g.carry.set k.val (some { c with unfilled := c.unfilled.filter (· ≠ place) }) })

/-- The stream engine a bound port names. -/
def Iss.stream (x : Iss) (s : State) (q : Nat) : Option (Port × Stream) :=
  match s.group? x.f.gang x.f.group with
  | none => none
  | some g =>
    if h : q < 8 then
      match g.ports[q] with
      | none => none
      | some p => some (p, s.streamOf x.gang p.engine)
    else none

def setPort (s : State) (gang slot q : Nat) (p : Option Port) : State :=
  if hq : q < 8 then s.modGroup gang slot (fun g => { g with ports := g.ports.set q p }) else s

/-- Pop one 128-byte line of the ring from a fill engine (05 R119): direction 0x0F subcause 2, exhaustion
subcause 3; a stall while the engine runs and no line is ready; the last line of a slot returns it. -/
def popPort (x : Iss) (s : State) (q : Nat) : Except Stop (State × (Nat → W32)) :=
  match x.stream s q with
  | none => .error (.stall .busy)
  | some (p, st) =>
    if st.record.drain then .error (fault 0x0F 2 x.exec)
    else if st.prod ≤ st.cons then
      if st.state = .run then .error (.stall .busy) else .error (fault 0x0F 3 x.exec)
    else
      let a := st.record.ring + (st.cons % st.record.slots) * st.record.slotBytes + 128 * p.line
      let vals := fun l => BitVec.ofNat 32 (s.vatReadLE x.gang.core (a + 4 * l) 4)
      if s.vatBusy x.gang.core (a / 128) false then .error (.stall .busy)
      else if p.line + 1 < st.record.slotLines then
        .ok (setPort s x.f.gang x.f.group q (some { p with line := p.line + 1 }), vals)
      else
        .ok ((setPort s x.f.gang x.f.group q (some { p with line := 0 })).putStream x.gang p.engine
          { st with cons := st.cons + 1 }, vals)

/-- Push one line into the current group-side slot of a drain engine (05 R119): inactive lanes push zero; a full
slot, or the end of the stream, hands the slot to the engine. A line that another unit owns or a press has pinned is waited for (05 R98,
11 R215); the line, written whole, loses its poison (17 R313). -/
def pushPort (x : Iss) (s : State) (q : Nat) (vals : Nat → W32) : Except Stop State :=
  match x.stream s q with
  | none => .error (.stall .busy)
  | some (p, st) =>
    if !st.record.drain then .error (fault 0x0F 2 x.exec)
    else if st.record.slots ≤ st.prod - st.cons then
      if st.state = .run then .error (.stall .busy) else .error (fault 0x0F 3 x.exec)
    else
      let a := st.record.ring + (st.prod % st.record.slots) * st.record.slotBytes + 128 * p.line
      let s1 := s.writeVat x.gang.core a ((List.range 32).flatMap (fun l => leBytes 4 (if x.exec.getLsbD l then (vals l).toNat else 0)))
      let pushed := st.prod * st.record.slotBytes + 128 * (p.line + 1)
      if s.vatBusy x.gang.core (a / 128) true then .error (.stall .busy)
      else if p.line + 1 < st.record.slotLines ∧ pushed < st.record.length then
        .ok (setPort s1 x.f.gang x.f.group q (some { p with line := p.line + 1 }))
      else
        .ok ((setPort s1 x.f.gang x.f.group q (some { p with line := 0 })).putStream x.gang p.engine
          { st with prod := st.prod + 1 })

/-! ## Reading sources -/

/-- The values of a 32-bit V-class source, read at issue: a register, a port's line or a queue's head. -/
def takeV (x : Iss) (s : State) : VOp → Except Stop (State × (Nat → W32))
  | .k k => popCarry x s k
  | .v n => if x.grp.isPort n.val then popPort x s (n.val - 248) else .ok (s, fun l => s.lane x.f.gang x.f.group n.val l)

/-- The values of a 64-bit source: the pair (v, v + 1), low half in v (02 R28). -/
def takePair (x : Iss) (s : State) : VOp → (Nat → Word)
  | .k _ => fun _ => 0
  | .v n => fun l => (s.lane x.f.gang x.f.group (n.val + 1) l) ++ (s.lane x.f.gang x.f.group n.val l)

/-- A source at the width of its type, as a 64-bit value whose low bits hold it. -/
def takeTy (x : Iss) (s : State) (wide : Bool) (r : VOp) : Except Stop (State × (Nat → Word)) :=
  if wide then .ok (s, takePair x s r)
  else (takeV x s r).map (fun y => (y.1, fun l => (y.2 l).zeroExtend 64))

/-- A source B: a register, or the literal in every lane (02 R24). -/
def takeSrc (x : Iss) (s : State) (wide : Bool) : VSrc → Except Stop (State × (Nat → Word))
  | .reg r => takeTy x s wide r
  | .short v | .long v => .ok (s, fun _ => if wide then v else (v.truncate 32).zeroExtend 64)

/-- A uniform source B (02 R24). -/
def Iss.usrc (x : Iss) : USrc → Word
  | .reg r => x.grp.readS x.sp r
  | .short v | .long v => v

def Iss.readS (x : Iss) (r : SReg) : Word := x.grp.readS x.sp r

/-! ## Delivering results: checking modes and injected flips (17 R318, R319, R327) -/

/-- The armed silent flips that are due in the issuing group, and the first of them. -/
def Iss.dueFlips (x : Iss) (s : State) : List Injection :=
  match s.gang? x.f.gang with
  | none => []
  | some g => g.injections.filter (fun i => i.kind == 0 && i.live && i.remaining == 0 && i.group == x.f.group)

def Iss.dueFlip (x : Iss) (s : State) : Option Injection := (x.dueFlips s).head?

/-- Flips fire once. -/
def dropFlips (s : State) (gang : Nat) (is : List Injection) : State :=
  if is.isEmpty then s
  else
    s.modGang gang (fun g =>
      { g with injections := is.foldl (fun (l : List Injection) i => l.erase i) g.injections, pair := g.pair.map (fun p => { p with flipped := true }) })

/-- A value with the bits of flips inverted. -/
def xorFlips (is : List Injection) (v : Word) : Word := is.foldl (fun (v : Word) i => v ^^^ BitVec.ofNat 64 (2 ^ i.bitNo)) v

/-- The active lanes that have a partner lane outside EXEC, lowest with lowest (17 R318). -/
def pairedLanes (exec : LaneMask) : LaneMask := maskOf ((lanesOf exec).take (32 - laneCount exec))

def addSat32 (c : W32) : W32 := if c = 0xFFFFFFFF#32 then c else c + 1

/-- Checked mismatches that the vote resolves (17 R319). A flip reaches the primary execution only (R327), so the second and the third
result agree, and no mismatch stays unresolved. -/
def countResolved (s : State) (core : Nat) : Nat → State
  | 0 => s
  | n + 1 => countResolved (s.modCore core (fun c => { c with resolved := addSat32 c.resolved })) core n

/-- Entries a partition's replay queue holds (17 R318). -/
def State.replayFull (s : State) (core partition : Nat) : Bool :=
  decide (16 ≤ ((s.core? core).replay.filter (fun e => e.partition == partition)).length)

/-- Results written to the registers, a port or a queue of a destination. -/
def storeV (x : Iss) (s : State) (d : VOp) (wide : Bool) (exec : LaneMask) (v : Nat → Word) : Except Stop State :=
  match d with
  | .k k => do
    let (s1, place) ← reserveCarry x s k
    .ok (fillCarry s1 x.f.gang x.f.group k place ((lanesOf exec).map (fun l => (l, (v l).truncate 32))))
  | .v n =>
    if x.grp.isPort n.val ∧ ¬ wide then pushPort x s (n.val - 248) (fun l => (v l).truncate 32)
    else
      .ok ((lanesOf exec).foldl (fun s l =>
        let s1 := s.setLane x.f.gang x.f.group n.val l ((v l).truncate 32)
        if wide then s1.setLane x.f.gang x.f.group (n.val + 1) l ((v l >>> 32).truncate 32) else s1) s)

/-- The (register, lane, value) triples of a plain vector destination. -/
def destVals (d : VOp) (wide : Bool) (exec : LaneMask) (v : Nat → Word) : List (Nat × Nat × W32) :=
  match d with
  | .k _ => []
  | .v n => (lanesOf exec).flatMap (fun l =>
      if wide then [(n.val, l, (v l).truncate 32), (n.val + 1, l, (v l >>> 32).truncate 32)]
      else [(n.val, l, (v l).truncate 32)])

/-- The destination of a result that is held for the replay queue: plain registers, the reserved entry of a carry queue, or a line for a
port, which is tried first. -/
def holdV (x : Iss) (s : State) (d : VOp) (wide : Bool) (exec : LaneMask) (v : Nat → Word) :
    Except Stop (State × PendLoad × Option Nat) :=
  let held : PendLoad := { lanes := x.sp.lanes, regs := [], vals := [], uni := none, carry := none, tile := [], sync := none }
  let lows := (lanesOf exec).map (fun l => (0, l, ((v l).truncate 32 : W32)))
  match d with
  | .k k => do
    let (s1, place) ← reserveCarry x s k
    .ok (s1, { held with regs := [s1.carryReg x.f.gang x.f.group k place], vals := lows, carry := some (k.val, place) }, none)
  | .v n =>
    if x.grp.isPort n.val ∧ ¬ wide then do
      let _ ← pushPort x s (n.val - 248) (fun l => (v l).truncate 32)
      .ok (s, { held with lanes := exec, regs := [n.val], vals := lows }, some (n.val - 248))
    else .ok (s, { held with lanes := exec, regs := (destVals d wide exec v).map (·.1) |>.eraseDups, vals := destVals d wide exec v }, none)

/-- An instruction enters its partition's replay queue. -/
def enterReplay (x : Iss) (s : State) (load : PendLoad) (port pred : Option Nat) (wrong : Nat) : State :=
  s.modCore x.gang.core (fun c =>
    { c with
      replay := c.replay ++ [{
        gang := x.f.gang, group := x.f.group, partition := (x.gang.parts.getD x.grp.slot 0), load := load, port := port, pred := pred
        wrong := wrong }] })

/-- In `full` mode the active lanes without a partner execute again from the replay queue. -/
def Iss.replays (x : Iss) (exec : LaneMask) : Bool := x.gang.chk == 2 && decide (exec &&& ~~~ (pairedLanes exec) ≠ 0)

/-- Deliver a vector result of a checked member. Due flips reach the primary execution only: an unchecked lane takes them; a checked lane
is resolved by the vote. In `full` the lanes without a partner execute again from the replay queue, and the destinations are held until
then. -/
def deliverV (x : Iss) (s : State) (d : VOp) (wide : Bool) (exec : LaneMask) (v : Nat → Word) : Except Stop State :=
  let flips := (x.dueFlips s).filter (fun i => exec.getLsbD i.lane)
  let first := fun l => xorFlips (flips.filter (fun i => i.lane == l)) (v l)
  let wrong := (lanesOf exec).filter (fun l => if wide then decide (first l ≠ v l) else decide ((first l).truncate 32 ≠ ((v l).truncate 32 : W32)))
  let paired : LaneMask := if x.gang.chk = 0 then 0 else pairedLanes exec
  let s1 := countResolved (dropFlips s x.f.gang flips) x.gang.core (wrong.filter (fun l => paired.getLsbD l)).length
  if x.replays exec then
    if s.replayFull x.gang.core (x.gang.parts.getD x.grp.slot 0) then .error (.stall .busy)
    else do
      let (s2, load, port) ← holdV x s1 d wide exec v
      .ok (enterReplay x s2 load port none (wrong.filter (fun l => !paired.getLsbD l)).length)
  else storeV x s1 d wide exec (fun l => if paired.getLsbD l then v l else first l)

/-- Deliver a uniform result. A uniform member executes twice under a checking mode, so a due flip is outvoted; with
the mode off it reaches the register. -/
def deliverS (x : Iss) (s : State) (r : SReg) (v : Word) : State :=
  let flips := x.dueFlips s
  let first := xorFlips flips v
  let s1 := dropFlips s x.f.gang flips
  if x.gang.chk = 0 then s1.writeU x.f (.s r first)
  else (countResolved s1 x.gang.core (if first = v then 0 else 1)).writeU x.f (.s r v)

/-- A member's own check of its fields (02 R41 step 3): trap 0x01 where it fails. -/
def own (x : Iss) (good : Bool) (body : Except Stop State) : Except Stop State :=
  if good then body else .error (fault 0x01 0 x.exec)

/-! ## The two copies of a pair (17 R320-R324) -/

def State.modPair (s : State) (gang : Nat) (h : Pair → Pair) : State :=
  s.modGang gang (fun g => { g with pair := g.pair.map h })

/-- Who issues: the group and the lowest lane of the split. -/
def pairKey (group : Nat) (lanes : LaneMask) : Nat := 32 * group + lowestLane lanes

/-- The first entry of a key removed. -/
def dropKey {α : Type} (key : Nat) : List (Nat × α) → List (Nat × α)
  | [] => []
  | x :: xs => if x.1 = key then xs else x :: dropKey key xs

/-- The lead forwards values to the trail's load-value queue (17 R321). -/
def State.forward (s : State) (other key : Nat) (vals : List Word) : State :=
  s.modPair other (fun p => { p with loadq := p.loadq ++ [(key, vals)] })

/-- Whether the copy's next value is there, and the value. -/
def Pair.next (p : Pair) (key : Nat) : Option (List Word) := (p.loadq.find? (fun e => e.1 == key)).map (fun e => e.2)

/-- The key under which a lead forwards the trap of an effect that was released and could not be performed. -/
def trapKey (key : Nat) : Nat := 2 ^ 18 + key

/-- A trap as a lead forwards it. -/
def trapWords (t : TrapInfo) : List Word :=
  [BitVec.ofNat 64 t.cause, BitVec.ofNat 64 t.sub, BitVec.ofNat 64 t.kind, t.lanes.zeroExtend 64, t.addr, t.info]

def trapOf (ws : List Word) : Stop :=
  .trap {
    cause := (ws.getD 0 0).toNat, sub := (ws.getD 1 0).toNat, kind := (ws.getD 2 0).toNat
    lanes := (ws.getD 3 0).truncate 32, addr := ws.getD 4 0, info := ws.getD 5 0 }

/-- A trap of what the lead does for both copies: its fault address is settled. -/
def shareTrap (pc : Word) : Stop → Stop
  | .trap t => .shared t
  | .check t => .shared { t with addr := pc }
  | o => o

/-- A copy traps: a release of its effect is over. The trap of what the lead does for both copies is forwarded to the trail (DEDUCED,
log 60). -/
def State.trapCopy (s : State) (x : Iss) (share : Option TrapInfo) : State :=
  match x.gang.pair with
  | none => s
  | some p =>
    let key := pairKey x.f.group x.sp.lanes
    let s1 := s.modPair x.f.gang (fun p => { p with granted := dropKey key p.granted, loadq := dropKey (trapKey key) p.loadq })
    match share with
    | some t => s1.forward p.other (trapKey key) (trapWords t)
    | none => s1

/-! ## The frame of an instruction (02 R41, R42) -/

/-- The PC advances by the instruction's length (02 R42). -/
def advance (s : State) (f : Focus) (len : Nat) : State :=
  s.modSplit f (fun sp => { sp with pc := sp.pc + BitVec.ofNat 64 len, joined := false })

/-- One more instruction of a group since the broadcast (16 R294); a group made during the skid begins its count. -/
def bumpSkid (slot : Nat) (ks : List (Nat × Nat)) : List (Nat × Nat) :=
  if ks.any (fun k => k.1 == slot) then ks.map (fun k => if k.1 = slot then (k.1, k.2 + 1) else k) else ks ++ [(slot, 1)]

/-- What every issued instruction does to its group: the issue counts of the skid, of pairs and of injections, and the
stalls of the group's splits are tried again. -/
def countIssue (s : State) (f : Focus) : State :=
  (s.modGang f.gang (fun g =>
    { g with
      halt := g.halt.map (fun h => if h.phase = .skid then { h with skid := bumpSkid f.group h.skid } else h)
      injections := if f.split = 4 then g.injections else g.injections.map (fun i =>
        if i.live ∧ i.group = f.group then { i with remaining := i.remaining - 1 } else i) })).modGroup f.gang f.group
    (fun x =>
      { x with
        issued := x.issued + 1
        splits := x.splits.map (fun o => o.map Split.retry) })

/-- The issue context of a focus. -/
def State.iss? (s : State) (f : Focus) (len : Nat) : Option Iss :=
  match s.gang? f.gang, s.group? f.gang f.group, s.split? f with
  | some g, some x, some sp => some { s := s, f := f, gang := g, grp := x, sp := sp, exec := sp.lanes, len := len }
  | _, _, _ => none

/-- The lead of a pair runs at most SLACK instructions ahead of the trail's group (17 R320), which has issued none while it is still to be
made. -/
def State.slackStall (s : State) (gang : Gang) (g : Group) : Bool :=
  match gang.pair with
  | none => false
  | some p =>
    match p.role with
    | .trail => false
    | .lead =>
      match s.ctx? gang.ctx with
      | some c => decide (((s.group? p.other g.slot).map (fun y => y.issued)).getD 0 + c.slack < g.issued + 1)
      | none => false

/-- A hold on metadata an engine owns is counted once (12 R227). -/
def countHold (x : Iss) (w : Stall) (s : State) : State :=
  let again := match x.sp.status with
    | .stalled .metadata _ => true
    | _ => false
  if w = .metadata ∧ !again then s.modCore x.gang.core (fun c => { c with metaWaits := c.metaWaits + 1 }) else s

/-- One instruction of the focused split: the checks of R41 step 2, the empty mask (13 R245), operand readiness (04 R75),
then `body`, which answers the state after the instruction (`adv` says whether the PC still has to advance). A trap goes to
raiseTrap, a stall leaves the split STALLED at the instruction. -/
def issueAt (len : Nat) (need : Need) (adv : Bool) (body : Iss → Except Stop State) (s : State) :
    Host.Outcome State Fault Refusal :=
  if !s.canIssue s.cur then .fault .noIssuingSplit
  else
    match s.iss? s.cur len with
    | none => .fault .noIssuingSplit
    | some x =>
      let code := checkNeed s x.f x.gang x.grp need
      if code ≠ 0 then
        .next (raiseTrap s x.f len x.sp.lanes
          { cause := code, sub := 0, kind := 0, lanes := x.sp.lanes, addr := x.sp.pc, info := 0 })
      else
        let exec := x.sp.lanes &&& x.grp.guardMask need.g
        let s0 := s.modSplit x.f Split.go
        if s.slackStall x.gang x.grp then
          .next (s.modSplit x.f (fun sp => { sp with status := .stalled .busy false }))
        else if exec = 0 then .next (countIssue (advance s0 x.f len) x.f)
        else if !s.operandsReady x.gang x.grp x.sp need then
          .next (s.modSplit x.f (fun sp => { sp with status := .stalled .operand false }))
        else
          let c : Iss := { x with s := s0, exec := exec }
          match body c with
          | .ok s' => .next (countIssue (if adv then advance s' c.f len else s') c.f)
          | .error (.trap t) => .next (raiseTrap (s.trapCopy c none) c.f len exec t)
          | .error (.check t) => .next (raiseTrap (s.trapCopy c none) c.f len exec { t with addr := c.sp.pc })
          | .error (.walked s' t) => .next (raiseTrap (s'.trapCopy c none) c.f len exec t)
          | .error (.shared t) => .next (raiseTrap (s.trapCopy c (some t)) c.f len exec t)
          | .error (.hold w s') => .next (s'.modSplit c.f (fun sp => { sp with status := .stalled w false }))
          | .error (.stall w) =>
            .next (stallCheck ((countHold c w s).modSplit c.f (fun sp => { sp with status := .stalled w false })) c.f w)

/-- An instruction that transfers no control. -/
def issue (i : Instr) (need : Need) (body : Iss → Except Stop State) (s : State) : Host.Outcome State Fault Refusal :=
  issueAt i.bytes need true body s

/-- An instruction whose body places the PC itself. -/
def issueJump (i : Instr) (need : Need) (body : Iss → Except Stop State) (s : State) :
    Host.Outcome State Fault Refusal :=
  issueAt i.bytes need false body s

/-- An instruction whose split may come to wait for its own group: its wait may be the group's last (10 R198, 13 R242). -/
def issueWait (i : Instr) (need : Need) (body : Iss → Except Stop State) (s : State) :
    Host.Outcome State Fault Refusal :=
  match issueAt i.bytes need false body s with
  | .next s' => .next (s'.deadlockCheck s.cur.gang s.cur.group)
  | o => o

end Sys2Proof.Machine
end

