-- ==== Sys2Proof/Machine/Ezden.lean ====
section
/-! DEFINITION. Ezden's own means: page tables it writes (03 R51-R53, R58), the frames it takes for trap frames and fork-spill areas (16 R296, 13 R252), event records (19 R384), completions (19 R348). -/

namespace Sys2Proof.Machine

/-! ## Page tables -/

/-- Where Ezden's tables begin: the reserved range of stack 0 (03 R50, R51; DESIGN CHOICE, log 16). -/
def State.tableBase (s : State) : Nat := s.part.mappable.toList.getD 0 0 * 2 ^ 16

/-- A fresh zeroed table of a size, aligned to it. -/
def State.allocTable (s : State) (size : Nat) : State × Nat :=
  let a := roundUp (s.tableBase + s.tableNext) size
  ({ s with tableNext := a + size - s.tableBase }, a)

/-- Size of the table a level's entries lie in (03 R51). -/
def tableSize (level : Nat) : Nat :=
  match level with
  | 0 => 2 ^ 16
  | 3 => 2 ^ 8
  | _ => 2 ^ 12

def State.writeEntry (s : State) (a v : Nat) : State := { s with mem := s.mem.writeLE a 8 v }

/-- Write a leaf at a level, with the tables above it made where they are missing. -/
def State.mapFrom (s : State) (va target leaf : Nat) : Nat → Nat → Nat → State
  | 0, _, _ => s
  | fuel + 1, level, base =>
    let a := base + 8 * levelIndex level va
    if level = target then s.writeEntry a leaf
    else
      let e := s.mem.readLE a 8
      if e.testBit 0 ∧ !e.testBit 1 then s.mapFrom va target leaf fuel (level + 1) (nextTable e)
      else
        let (s1, t) := s.allocTable (tableSize (level + 1))
        (s1.writeEntry a (t + 1)).mapFrom va target leaf fuel (level + 1) t

/-- The level of a size code: 0 for 64 KiB, 1 for 2 MiB, 2 for 1 GiB (18 R338). -/
def sizeLevel (code : Nat) : Nat := 3 - code

/-- One page mapped: frame, leaf bits 9:2 and owner (19 R349). -/
def State.mapPage (s : State) (root va frame code bits9_2 owner : Nat) : State :=
  s.mapFrom va (sizeLevel code) (3 + 4 * bits9_2 + frame + owner * 2 ^ 52) 4 0 root

/-- Whether a leaf lies under an entry: the entry is one, or a table under it holds one. -/
def State.hasLeaf (s : State) : Nat → Nat → Nat → Bool
  | 0, _, e => e.testBit 0
  | fuel + 1, level, e =>
    e.testBit 0 && (e.testBit 1 ||
      (List.range (tableSize (level + 1) / 8)).any (fun i => s.hasLeaf fuel (level + 1) (s.entry (nextTable e) i)))

/-- Whether a leaf already covers an address of the page at `va` of a level (19 R383). -/
def State.coveredFrom (s : State) (va target : Nat) : Nat → Nat → Nat → Bool
  | 0, _, _ => false
  | fuel + 1, level, base =>
    let e := s.entry base (levelIndex level va)
    if level = target then s.hasLeaf (3 - level) level e
    else if !e.testBit 0 then false
    else if e.testBit 1 then true
    else s.coveredFrom va target fuel (level + 1) (nextTable e)

def State.covered (s : State) (root va code : Nat) : Bool := s.coveredFrom va (sizeLevel code) 4 0 root

/-- The leaf that maps an address: its level, its entry and the entry's address. -/
def State.leafFrom (s : State) (va : Nat) : Nat → Nat → Nat → Option (Nat × Nat × Nat)
  | 0, _, _ => none
  | fuel + 1, level, base =>
    let a := base + 8 * levelIndex level va
    let e := s.mem.readLE a 8
    if !e.testBit 0 then none
    else if e.testBit 1 ∨ fuel = 0 then some (level, e, a)
    else s.leafFrom va fuel (level + 1) (nextTable e)

def State.leafAt (s : State) (root va : Nat) : Option (Nat × Nat × Nat) := s.leafFrom va 4 0 root

/-- Drop one leaf, with every copy of it in the TLBs and miss tables (03 R58); a leaf of the shared domain under every tag. -/
def State.dropLeaf (s : State) (ctx root va : Nat) : State :=
  match s.leafAt root va with
  | none => s
  | some (level, _, a) =>
    let lo := va / 2 ^ levelShift level * 2 ^ levelShift level / 2 ^ 16
    let hi := lo + 2 ^ (levelShift level - 16)
    let inside := fun (c p : Nat) => (c == ctx || ctx == 0xFFF) && decide (lo ≤ p) && decide (p < hi)
    let s1 := s.writeEntry a 0
    { s1 with
      cores := s1.cores.map (fun c => { c with tlb := c.tlb.filter (fun e => !inside e.1 e.2) })
      dies := s1.dies.map (fun d =>
        { d with tlb := d.tlb.filter (fun e => !inside e.1 e.2), walks := d.walks.filter (fun w => !inside w.ctx w.page) }) }

/-! ## Frames for trap frames and fork-spill areas (DESIGN CHOICE, log 16) -/

/-- The physical ranges the resident gangs hold: one 64 KiB page for the trap frame, and the spill area. -/
def State.poolRanges (s : State) : List (Nat × Nat) :=
  s.gangs.flatMap (fun g => [(g.framePhys, 2 ^ 16), (g.spillPhys, g.spillSize)])

/-- The pool lies at the top of stack 7, below its reserved range, and grows down. -/
def State.poolTop (s : State) : Nat := 7 * 2 ^ 36 + s.part.mappable.toList.getD 7 0 * 2 ^ 16

/-- The highest free physical range of a size below the pool's top. -/
def State.allocPool (s : State) (size : Nat) : Nat :=
  let rs := (s.poolRanges).filter (fun r => decide (0 < r.2))
  let fits := fun (top : Nat) => !(rs.any (fun r => decide (r.1 < top) && decide (top - size < r.1 + r.2)))
  let tops := (s.poolTop :: rs.map Prod.fst).filter fits
  tops.foldl max size - size

/-- The virtual addresses Ezden gives a gang's trap frame and spill area. -/
def gangVa (id : Nat) : Nat := 2 ^ 52 - 2 ^ 47 + id % 2 ^ 22 * 2 ^ 25

def frameVaOf (id : Nat) : Nat := gangVa id
def spillVaOf (id : Nat) : Nat := gangVa id + 2 ^ 24

/-- Consecutive 64 KiB pages of a context mapped COH, writable, H = 1 (16 R296, 13 R252). -/
def State.mapOwn (s : State) (tag va pa : Nat) : Nat → State
  | 0 => s
  | n + 1 =>
    match s.ctx? tag with
    | none => s
    | some c => (s.mapPage c.root va pa 0 0x2A tag).mapOwn tag (va + 2 ^ 16) (pa + 2 ^ 16) n

/-- Consecutive 64 KiB pages of a context unmapped. -/
def State.unmapOwn (s : State) (tag va : Nat) : Nat → State
  | 0 => s
  | n + 1 =>
    match s.ctx? tag with
    | none => s
    | some c => (s.dropLeaf tag c.root va).unmapOwn tag (va + 2 ^ 16) n

/-! ## Event records (19 R384) -/

/-- The 64 bytes of an entry that is no trap. -/
def eventEntry (cause sub kind : Nat) (addr info : Word) : List Byte :=
  leBytes 1 cause ++ leBytes 1 sub ++ leBytes 1 kind ++ zeroBytes 21 ++ leBytes 8 addr.toNat ++ leBytes 8 info.toNat ++
  zeroBytes 24

/-- Ezden appends an entry: the newest 256 are kept, and the count rises. -/
def State.appendEvent (s : State) (tag : Nat) (entry : List Byte) : State :=
  s.modCtx tag (fun c =>
    { c with
      events := (c.events ++ [entry]).drop ((c.events ++ [entry]).length - 256)
      eventCount := c.eventCount + 1 })

end Sys2Proof.Machine
end

