-- ==== Sys2Proof/Machine/Launch.lean ====
section
/-! DEFINITION. Task records (14 R262, R263), placement (15 R283, R284) and the start of a gang (07 R140-R142; 13 R237, R248, R261; 14 R263; 16 R296, R301; 18 R329). -/

namespace Sys2Proof.Machine

/-! ## Task records -/

/-- The fields of a record's 64 bytes (14 R262). -/
def TaskRec.ofBytes (bs : List Byte) : TaskRec :=
  let ctl := fieldAt bs 48 2
  { entry := BitVec.ofNat 64 (fieldAt bs 0 8), arg := BitVec.ofNat 64 (fieldAt bs 8 8)
    tc0 := BitVec.ofNat 32 (fieldAt bs 16 4), tc1 := BitVec.ofNat 32 (fieldAt bs 20 4), tc2 := BitVec.ofNat 32 (fieldAt bs 24 4)
    succ := BitVec.ofNat 64 (fieldAt bs 28 8), groups := fieldAt bs 36 1, win := fieldAt bs 37 1, tiles := fieldAt bs 38 1
    chan := fieldAt bs 39 1, budget := fieldAt bs 40 2, spill := fieldAt bs 42 2, stash := fieldAt bs 44 2
    prog := fieldAt bs 46 2, prio := bitsOf ctl 2 0, replay := ctl.testBit 3, paired := ctl.testBit 4
    chk := bitsOf ctl 6 5, ctx := fieldAt bs 50 2 }

/-- The 64 bytes of a record. -/
def TaskRec.toBytes (t : TaskRec) : List Byte :=
  leBytes 8 t.entry.toNat ++ leBytes 8 t.arg.toNat ++ leBytes 4 t.tc0.toNat ++ leBytes 4 t.tc1.toNat ++
  leBytes 4 t.tc2.toNat ++ leBytes 8 t.succ.toNat ++ leBytes 1 t.groups ++ leBytes 1 t.win ++ leBytes 1 t.tiles ++
  leBytes 1 t.chan ++ leBytes 2 t.budget ++ leBytes 2 t.spill ++ leBytes 2 t.stash ++ leBytes 2 t.prog ++
  leBytes 2 (t.prio + 8 * bit t.replay + 16 * bit t.paired + 32 * t.chk) ++ leBytes 2 t.ctx ++ zeroBytes 12

/-- A record that is not malformed (14 R263): reserved bits, ranges, CHK, the allocation. -/
def recordOk (bs : List Byte) : Bool :=
  let t := TaskRec.ofBytes bs
  decide (t.entry.toNat % 4 = 0) && decide (t.entry.toNat < 2 ^ 52) && decide (t.succ.toNat % 32 = 0) &&
  decide (1 ≤ t.groups) && decide (t.groups ≤ 32) && decide (1 ≤ t.win) && decide (t.win ≤ 16) && decide (t.tiles ≤ 16) &&
  decide (t.chan < 16) && decide (1 ≤ t.budget) && decide (t.budget ≤ 128) && decide (t.groups ≤ t.budget) &&
  decide (t.spill ≤ 256) && decide (fieldAt bs 48 2 < 2 ^ 7) && decide (t.chk ≠ 3) && decide (t.ctx < 2 ^ 12) &&
  decide (sliceBytes bs 52 12 = zeroBytes 12) && decide (t.allocSize ≤ 2 ^ 23)

/-! ## Placement (15 R283, R284) -/

/-- Latency class between two dies (01 R18). -/
def latencyClass (a b : Nat) : Nat := if a = b then 0 else if a ^^^ b = 3 then 2 else 1

/-- Group slots a core has reserved. -/
def State.reserved (s : State) (core : Nat) : Nat :=
  ((s.gangs.filter (fun g => g.core == core)).map (fun g => g.task.budget)).foldl (· + ·) 0

/-- The base of the lowest free vat block of a size with an alignment (DESIGN CHOICE, log 17: the lowest). -/
def State.vatBlock (s : State) (core size align : Nat) : Option Nat :=
  let gs := s.gangs.filter (fun g => g.core == core)
  let bases := (0 :: gs.map (fun g => roundUp (g.base + g.size) align)).filter (fun b =>
    decide (b + size ≤ 2 ^ 23) && !(gs.any (fun g => decide (g.base < b + size) && decide (b < g.base + g.size))))
  match bases with
  | [] => none
  | b :: bs => some (bs.foldl min b)

/-- Whether a task fits on a core, with the block's base. -/
def State.fitsOn (s : State) (t : TaskRec) (core : Nat) : Option Nat :=
  if s.reserved core + t.budget ≤ 256 then s.vatBlock core t.allocSize t.slotSize else none

/-- The cores of a die. -/
def Part.coresOf (p : Part) (die : Nat) : List Nat :=
  (List.range (4 * p.clusters)).map (fun i => 4 * p.clusters * die + i)

/-- The dies in the order a distributor looks at them. -/
def dieOrder (die : Nat) : List Nat :=
  (List.range 3).flatMap (fun k => (List.range 4).filter (fun d => latencyClass die d = k))

/-- The least-loaded core of a list, the lower number on ties. -/
def State.leastLoaded (s : State) (best : Option (Nat × Nat)) : List (Nat × Nat) → Option (Nat × Nat)
  | [] => best
  | (c, b) :: rest =>
    match best with
    | none => s.leastLoaded (some (c, b)) rest
    | some (c0, b0) => s.leastLoaded (if s.reserved c < s.reserved c0 then some (c, b) else some (c0, b0)) rest

/-- The core a distributor picks, with the block's base, among the cores `ok` allows. -/
def State.place (s : State) (die : Nat) (t : TaskRec) (ok : Nat → Bool) : Option (Nat × Nat) :=
  (dieOrder die).findSome? (fun d =>
    s.leastLoaded none ((s.part.coresOf d).filterMap (fun c =>
      if ok c then (s.fitsOn t c).map (fun b => (c, b)) else none)))

/-- The partition with the fewest groups, the lower number on ties. -/
def fewest (counts : List Nat) : Nat :=
  (List.range counts.length).foldl (fun best i => if counts.getD i 0 < counts.getD best 0 then i else best) 0

/-- Slots go to partitions one by one (15 R284). -/
def assignParts : Nat → List Nat → List Nat
  | 0, _ => []
  | n + 1, counts => fewest counts :: assignParts n (counts.set (fewest counts) (counts.getD (fewest counts) 0 + 1))

/-- The lowest free slot of a partition for each, given the (partition, slot) pairs in use (DESIGN CHOICE, log 101). -/
def assignPlaces : List Nat → List (Nat × Nat) → List Nat
  | [], _ => []
  | p :: ps, used =>
    let k := ((List.range (used.length + 1)).find? (fun i => !used.contains (p, i))).getD 0
    k :: assignPlaces ps ((p, k) :: used)

/-- The groups each of the core's 32 partitions already holds a slot for. -/
def State.partCounts (s : State) (core : Nat) : List Nat :=
  let all := (s.gangs.filter (fun g => g.core == core)).flatMap (fun g => g.parts)
  (List.range 32).map (fun p => (all.filter (· = p)).length)

/-- The (partition, slot) pairs that the gangs of a core hold. -/
def State.placesUsed (s : State) (core : Nat) : List (Nat × Nat) :=
  (s.gangs.filter (fun g => g.core == core)).flatMap (fun g => g.parts.zip g.places)

/-- A gang with the partitions and the slots in them that it gets on a core. -/
def Gang.assign (g : Gang) (s : State) (core : Nat) : Gang :=
  let ps := assignParts g.task.budget (s.partCounts core)
  { g with parts := ps, places := assignPlaces ps (s.placesUsed core) }

/-! ## Groups and gangs at their start -/

/-- A split of a new group. -/
def Split.start (pc : Word) (lanes : LaneMask) (age : Nat) : Split :=
  { pc := pc, lanes := lanes, fmt := 0x003F, part := 5, stack := [], shadows := [], written := [], age := age
    status := .ready, boost := none, idle := 0, joined := false }

/-- A group with no split, counters 0, no port bound, no carry queue, NEXTB 0. -/
def Group.fresh (slot : Nat) (gid : BitVec 16) (prio : Fin 4) : Group :=
  { slot := slot, gid := gid, s := Vector.replicate 384 0, up := Vector.replicate 4 false
    m := Vector.replicate 8 { base := 0, len := 0, idx := 0 }, p := Vector.replicate 8 0, ords := Vector.replicate 32 0
    dead := 0, splits := Vector.replicate 4 none, parked := [], serial := none, ucflag := false, ldc := 0, stc := 0, cpc := 0
    tlc := 0, loads := [], stores := [], fences := [], predWait := [], carry := Vector.replicate 8 none, ports := Vector.replicate 8 none
    nextb := 0, batches := [], tiles := [], prio := prio, issued := 0 }

/-- A base-and-extent record (05 R94). -/
def Region.encode (r : Region) : Word :=
  BitVec.ofNat 64 (r.base + r.extent * 2 ^ 23 + r.esz * 2 ^ 46 + bit r.ro * 2 ^ 49)

/-- The record of the stash part and the program part, as s254 holds it (07 R142). -/
def Gang.partsRecord (g : Gang) : Word :=
  ({ base := g.stashBase, extent := 4096 * (g.task.stash + g.task.prog), esz := 0, ro := false } : Region).encode

def Channel.empty : Channel := { done := [], waiting := [], written := 0, failed := [], holes := 0 }

def Csrs.reset (frame : Word) : Csrs :=
  { hvec := 0, hdeleg := 0, hframe := frame, hscratch := 0, trapcnt := 0, waddr := Vector.replicate 4 0
    wctl := Vector.replicate 4 0 }

/-- A launch group (14 R263): every lane live, one split at ENTRY, the argument registers. -/
def Gang.launchGroup (g : Gang) (slot : Nat) : Group :=
  let t := g.task
  let x := Group.fresh slot (BitVec.ofNat 16 slot) (Fin.ofNat 4 (t.prio / 2))
  let regs : List (SReg × Word) :=
    [(0, t.arg), (1, t.tc0.zeroExtend 64), (2, t.tc1.zeroExtend 64), (3, t.tc2.zeroExtend 64), (4, t.succ),
     (254, g.partsRecord), (255, BitVec.ofNat 64 (g.window slot))]
  (regs.foldl (fun x r => x.putEntry (.s r.1 r.2)) x).setSplit 0 (some (Split.start t.entry 0xFFFFFFFF#32 g.age))

/-- Threads of the launch groups, in lane order, group by group (13 R248). -/
def launchSeq (groups : Nat) : List SeqItem :=
  (List.range groups).flatMap (fun slot => (List.range 32).map (fun l => .lane slot l))

/-- A gang placed on a core at a vat base: its allocation is zeroed, its frame and spill area are taken and mapped, its
groups are resident. -/
def State.startGang (s : State) (core base : Nat) (t : TaskRec) (pair : Option Pair) : State :=
  let id := s.nextGang
  let chkmin := match s.ctx? t.ctx with
    | some c => c.chkmin
    | none => 0
  let g0 : Gang :=
    { id := id, ctx := t.ctx, core := core, task := t, base := base, size := t.allocSize
      parts := [], places := [], groups := [], seq := launchSeq t.groups
      nextGid := BitVec.ofNat 16 t.groups, nextSeq := 0, pend := [], snaps := []
      spillVa := spillVaOf id, spillPhys := 0, spillSize := t.spill * 2 ^ 16, frameVa := frameVaOf id, framePhys := 0
      channels := Vector.replicate 4 Channel.empty, effects := [], nr := false, nrOverflow := false, nrRemoval := false
      csr := Csrs.reset (BitVec.ofNat 64 (frameVaOf id)), rpt := { gen := 0, pc := 0, state := 0, durpend := false, base := base }
      chk := if chkmin.val ≤ t.chk then Fin.ofNat 3 t.chk else chkmin
      refused := 0, halt := none, handler := none, handlerRest := [], run := .running, pair := pair, injections := []
      age := (s.die? (s.part.dieOf core)).clock.toNat }
  let frame := s.allocPool (2 ^ 16)
  let g1 := { g0.assign s core with framePhys := frame, groups := (List.range t.groups).map g0.launchGroup }
  let s1 := { s with gangs := s.gangs ++ [g1], nextGang := id + 1 }
  let spill := s1.allocPool (t.spill * 2 ^ 16)
  let s2 := s1.modGang id (fun g => { g with spillPhys := if t.spill = 0 then 0 else spill })
  let s3 := (s2.mapOwn t.ctx (frameVaOf id) frame 1).mapOwn t.ctx (spillVaOf id) spill t.spill
  { s3 with
    vat := s3.vat.clear (vatKey core base) t.allocSize
    vatPoison := s3.vatPoison.filter (fun l => decide (128 * l < vatKey core base) || decide (vatKey core base + t.allocSize ≤ 128 * l)) }

/-! ## Contexts -/

/-- A context with an empty page table and no rights beyond the ones given. -/
def Context.fresh (tag fn root : Nat) : Context :=
  { tag := tag, fn := fn, pasid := 0, quota := 0, slack := 256, chkmin := 0, eager := false, finj := false, pool := 0
    namespaces := 0, portLo := 0, portHi := 0, inShared := false, root := root, terminated := false, events := []
    eventCount := 0, committed := 0, slots := #v[none, none], sealRefusals := 0, descs := [] }

/-- A context added, its root table taken from Ezden's range. -/
def State.addContext (s : State) (mk : Nat → Context) : State :=
  let (s1, root) := s.allocTable (tableSize 0)
  { s1 with contexts := s1.contexts ++ [mk root] }

end Sys2Proof.Machine
end

