-- ==== Sys2Proof/Machine/Access.lean ====
section
/-! DEFINITION. The memory system below the instructions: stash accesses by engines and the press (07 R147), outstanding stores and their order (04 R75, R78, R79), updates that arrive at a slice (R83). -/

namespace Sys2Proof.Machine

/-! ## Stash accesses by engines and the press (07 R147, 05 R100) -/

/-- A stash line is filled from its global line; poison and loss come along. -/
def State.stashFill (s : State) (core : Nat) (u : StashUnit) (i : Nat) (write : Bool) : State :=
  let a := u.phys + 128 * i
  let s0 := if u.coh then s.reach (a / 128) write else s.mergeLine (a / 128)
  let bad := s0.tainted a 128
  let s1 := s0.writeVat core (u.vat + 128 * i) (s0.mem.readBytes a 128)
  let s2 := if bad then s1.poisonVat core (u.vat + 128 * i) else s1
  s2.setStashLine core u.vat i (some false)

/-- A stash read of the line at a vat address; an address outside a mapped unit is plain. -/
def State.stashRead (s : State) (core a : Nat) : State :=
  match (s.core? core).unitAt a with
  | none => s
  | some u =>
    let i := (a - u.vat) / 128
    if u.lines.any (fun x => x.1 == i) then s else s.stashFill core u i false

/-- A stash write of bytes inside one line: a partial write fills an INVALID line first; a coherent line is taken exclusive. -/
def State.stashWrite (s : State) (core a : Nat) (bs : List Byte) : State :=
  match (s.core? core).unitAt a with
  | none => s.writeVat core a bs
  | some u =>
    let i := (a - u.vat) / 128
    let have_ := u.lines.any (fun x => x.1 == i)
    let s1 :=
      if have_ then
        (if u.coh then
          (List.range s.cores.length).foldl (fun s c => if c = core then s else s.snoopCore ((u.phys + 128 * i) / 128) true c)
            (s.mergeLine ((u.phys + 128 * i) / 128))
         else s)
      else if bs.length = 128 then (if u.coh then s.reach ((u.phys + 128 * i) / 128) true else s)
      else s.stashFill core u i true
    (s1.writeVat core a bs).setStashLine core u.vat i (some true)

/-! ## Outstanding stores (04 R75, R79) -/

/-- The bytes an outstanding store writes. -/
def PendStore.addrs : PendStore → List Nat
  | .bytes _ ws _ => ws.map (fun w => w.addr)
  | .red _ us => us.flatMap (fun u => (List.range (u.ty.bits / 8)).map (fun i => u.addr + i))
  | .flush _ _ => []

/-- The lines it reaches. -/
def PendStore.lines : PendStore → List Nat
  | .flush _ ls => ls
  | p => linesOf p.addrs

/-- What remains of an outstanding store that has been performed: STC still counts it. -/
def PendStore.emptied : PendStore → PendStore
  | .bytes m _ _ => .bytes m [] []
  | .red m _ => .red m []
  | .flush m _ => .flush m []

/-- A RED or SCATADD update at the slice of a die: combined into the partial of its element, or a new partial; an update of another
operation, type or extent merges the line first (04 R83). One in host memory is an AtomicOp (19 R347). -/
def State.arriveUpdate (s : State) (gang die : Nat) (u : Update) : State :=
  let n := u.ty.bits / 8
  let direct := fun (s : State) => leWrites u.addr n (atomNew u.op u.ty (s.mem.readLE u.addr n) u.val.toNat 0) u.dur
  let mark := fun (t : State) => if u.bad then t.poisonFor ((s.gang? gang).map (fun g => g.ctx) |>.getD 0) (u.addr / 64) else t
  if isHost u.addr then mark (s.rawWrite (direct s))
  else
    let line := u.addr / 128
    let s0 := (List.range s.cores.length).foldl (fun s c => s.snoopCore line true c) s
    let meets := fun (p : Partial) => p.die == die && decide (p.addr < u.addr + n) && decide (u.addr < p.addr + p.size)
    let fits := fun (p : Partial) => p.die == die && p.addr == u.addr && p.size == n && decide (p.op = u.op) && decide (p.ty = u.ty)
    let s1 := if s0.partials.any (fun p => meets p && !fits p) then s0.mergeLine line else s0
    let s2 := match s1.partials.find? fits with
      | some p =>
        let q : Partial := { p with val := BitVec.ofNat 64 (atomNew p.op p.ty p.val.toNat u.val.toNat 0), dur := p.dur || u.dur }
        { s1 with partials := replaceFirst fits q s1.partials }
      | none =>
        let q : Partial := { die := die, addr := u.addr, size := n, op := u.op, ty := u.ty, val := u.val, dur := u.dur }
        { s1 with partials := s1.partials ++ [q] }
    mark (s2.durPend gang u.dur)

/-- A store writes a LOST line in part: its context may end by it (17 R326). -/
def State.meetsLost (s : State) : PendStore → Bool
  | .bytes _ ws _ => (linesOf (ws.map (fun w => w.addr))).any (fun l => s.lost.contains l && !covers ws (128 * l) 128)
  | .red _ us => us.any (fun u => s.lost.contains (u.addr / 128))
  | .flush _ _ => false

/-- Nothing is left to perform of an outstanding store. -/
def PendStore.isEmptied : PendStore → Bool
  | .bytes _ ws bad => ws.isEmpty && bad.isEmpty
  | .red _ us => us.isEmpty
  | .flush _ ls => ls.isEmpty

/-- A store of the group that a FENCE.rel or a releasing access holds back (04 R78, R90): something before the fence is still to be performed. -/
def Group.fenced (g : Group) (idx : Nat) : Bool := g.fences.any (fun k => decide (k ≤ idx) && !(g.stores.take k).all PendStore.isEmptied)

/-- An earlier store of the group that writes one of the bytes (04 R79). -/
def Group.overtakes (g : Group) (idx : Nat) (as : List Nat) : Bool := (g.stores.take idx).any (fun q => q.addrs.any (fun a => as.contains a))

/-- The store at a place leaves the list; the fences behind it move up. -/
def Group.dropStore (g : Group) (idx : Nat) : Group :=
  { g with stores := g.stores.eraseIdx idx, fences := (g.fences.map (fun k => if idx < k then k - 1 else k)).filter (fun k => decide (0 < k)) }

/-- What stands so far is to be performed before what comes later. -/
def Group.putFence (g : Group) : Group := if g.stores.isEmpty then g else { g with fences := (g.stores.length :: g.fences).eraseDups }

/-- One outstanding store is performed. -/
def State.performOne (s : State) (gang die : Nat) (p : PendStore) : State :=
  match p with
  | .bytes _ ws bad => if ws.isEmpty then s else bad.foldl State.poisonHalf (s.writePhys gang ws)
  | .red _ us => us.foldl (fun s u => s.arriveUpdate gang die u) s
  | .flush _ ls => ls.foldl State.mergeLine s

/-- The die of a gang. -/
def State.gangDie (s : State) (gang : Nat) : Nat :=
  match s.gang? gang with
  | some g => s.part.dieOf g.core
  | none => 0

/-- The first `n` outstanding stores of a group are performed in order; none where one has to wait for a line, or meets a LOST one, which is
left to its own turn. -/
def State.performFirst (s : State) (gang slot n : Nat) : Option State :=
  match s.group? gang slot with
  | none => some s
  | some g =>
    let ps := g.stores.take n
    if ps.any (fun p => p.lines.any (fun l => s.physBusy l true) || s.meetsLost p) then none
    else
      let s1 := ps.foldl (fun s p => s.performOne gang (s.gangDie gang) p) s
      some (s1.modGroup gang slot (fun g => { g with stores := ps.map PendStore.emptied ++ g.stores.drop n }))

/-- Every outstanding store of a group is performed: a release, a fence (04 R78, R90). -/
def State.performAll (s : State) (gang slot : Nat) : Option State :=
  match s.group? gang slot with
  | none => some s
  | some g => s.performFirst gang slot g.stores.length

/-- What a FENCE.rel or a releasing access of the group has ordered before a write that is performed now. -/
def State.performFences (s : State) (gang slot : Nat) : Option State :=
  match s.group? gang slot with
  | none => some s
  | some g => s.performFirst gang slot (g.fences.foldl max 0)

/-- The group's stores are performed up to the last one that meets some bytes: an access of the group sees its own earlier writes
(04 R79). -/
def State.performFor (s : State) (gang slot : Nat) (as : List Nat) : Option State :=
  match s.group? gang slot with
  | none => some s
  | some g =>
    let hits := (enumFrom 0 g.stores).filter (fun x => x.2.addrs.any (fun a => as.contains a))
    match hits.getLast? with
    | none => some s
    | some (i, _) => s.performFirst gang slot (i + 1)

end Sys2Proof.Machine
end

