-- ==== Sys2Proof/Machine/Uniform.lean ====
section
/-! DEFINITION. The uniform integer members of OP 0x01-0x05 (09 R176-R178, R180, R182, R183). -/

namespace Sys2Proof.Machine

/-- A base word's field as a uniform register (02 R27). -/
def sreg (n : Fin 256) : SReg := ⟨n.val, Nat.lt_trans n.isLt (by decide)⟩

/-- The registers a uniform source names. -/
def usrcRegs : USrc → List SReg
  | .reg r => [r]
  | _ => []

/-- A base word of the uniform members as the extended instruction it stands for (02 R23). -/
def Base3.toUBin (x : Base3) : UBin := { ty := .i64, sat := false, d := sreg x.d, a := sreg x.a, b := .reg (sreg x.b) }

/-- s[D] := the R177 operation of s[A] and s[B]. -/
def uBin (i : Instr) (op : IntOp) (x : UBin) (s : State) : Host.Outcome State Fault Refusal :=
  issue i { ss := x.d :: x.a :: usrcRegs x.b }
    (fun c => .ok (deliverS c c.s x.d (extendTy x.ty (deliver x.ty x.sat (intOp op x.ty (c.readS x.a) (c.usrc x.b)))))) s

def execUaddBase (x : Base3) (s : State) : Host.Outcome State Fault Refusal := uBin (.uaddBase x) .add (Base3.toUBin x) s
def execUaddExt (x : UBin) (s : State) : Host.Outcome State Fault Refusal := uBin (.uaddExt x) .add x s
def execUsub (x : UBin) (s : State) : Host.Outcome State Fault Refusal := uBin (.usub x) .sub x s
def execUmul (x : UBin) (s : State) : Host.Outcome State Fault Refusal := uBin (.umul x) .mul x s
def execUmulh (x : UBin) (s : State) : Host.Outcome State Fault Refusal := uBin (.umulh x) .mulh x s
def execUmin (x : UBin) (s : State) : Host.Outcome State Fault Refusal := uBin (.umin x) .min x s
def execUmax (x : UBin) (s : State) : Host.Outcome State Fault Refusal := uBin (.umax x) .max x s
def execUandBase (x : Base3) (s : State) : Host.Outcome State Fault Refusal := uBin (.uandBase x) .and (Base3.toUBin x) s
def execUandExt (x : UBin) (s : State) : Host.Outcome State Fault Refusal := uBin (.uandExt x) .and x s
def execUor (x : UBin) (s : State) : Host.Outcome State Fault Refusal := uBin (.uor x) .or x s
def execUxor (x : UBin) (s : State) : Host.Outcome State Fault Refusal := uBin (.uxor x) .xor x s
def execUshlBase (x : Base3) (s : State) : Host.Outcome State Fault Refusal := uBin (.ushlBase x) .shl (Base3.toUBin x) s
def execUshlExt (x : UBin) (s : State) : Host.Outcome State Fault Refusal := uBin (.ushlExt x) .shl x s
def execUshr (x : UBin) (s : State) : Host.Outcome State Fault Refusal := uBin (.ushr x) .shr x s
def execUsra (x : UBin) (s : State) : Host.Outcome State Fault Refusal := uBin (.usra x) .sra x s

/-- USET: up[D] := the condition of s[A] and s[B] (09 R178, R180). -/
def execUset (x : USet) (s : State) : Host.Outcome State Fault Refusal :=
  issue (.uset x) { ss := x.a :: usrcRegs x.b, ups := [x.d] }
    (fun c => own c (intCondOk x.cc)
      (.ok (c.s.writeU c.f (.up x.d (intCond x.cc (readInt x.ty (c.readS x.a)) (readInt x.ty (c.usrc x.b))))))) s

/-- USEL: s[D] := up[C] ? s[A] : s[B], all 64 bits. -/
def execUsel (x : USel) (s : State) : Host.Outcome State Fault Refusal :=
  issue (.usel x) { ss := x.d :: x.a :: usrcRegs x.b, ups := [x.c] }
    (fun c => .ok (deliverS c c.s x.d (if c.grp.readUp c.sp x.c then c.readS x.a else c.usrc x.b))) s

/-- UPOPC and UCLZ. -/
def uUn (i : Instr) (op : UnOp) (x : UUn) (s : State) : Host.Outcome State Fault Refusal :=
  issue i { ss := [x.d, x.a] }
    (fun c => .ok (deliverS c c.s x.d (extendTy x.ty (deliver x.ty false (unOp op x.ty (c.readS x.a)))))) s

def execUpopc (x : UUn) (s : State) : Host.Outcome State Fault Refusal := uUn (.upopc x) .popc x s
def execUclz (x : UUn) (s : State) : Host.Outcome State Fault Refusal := uUn (.uclz x) .clz x s

/-- UBFX (09 R182). -/
def execUbfx (x : UBfx) (s : State) : Host.Outcome State Fault Refusal :=
  issue (.ubfx x) { ss := [x.d, x.a] }
    (fun c => own c (fieldOk x.ty.bits x.pos x.len)
      (.ok (deliverS c c.s x.d (extendTy x.ty (bfx x.ty (c.readS x.a) x.pos.val x.len.val))))) s

/-- UBFI (09 R182). -/
def execUbfi (x : UBfi) (s : State) : Host.Outcome State Fault Refusal :=
  issue (.ubfi x) { ss := x.d :: x.a :: usrcRegs x.b }
    (fun c => own c (fieldOk x.ty.bits x.pos x.len)
      (.ok (deliverS c c.s x.d (extendTy x.ty (bfi x.ty (c.readS x.a) (c.usrc x.b) x.pos.val x.len.val))))) s

/-- UMOV: all 64 bits of s[B]. -/
def uMove (i : Instr) (d b : SReg) (s : State) : Host.Outcome State Fault Refusal :=
  issue i { ss := [d, b] } (fun c => .ok (deliverS c c.s d (c.readS b))) s

def execUmovBase (x : BaseDB) (s : State) : Host.Outcome State Fault Refusal := uMove (.umovBase x) (sreg x.d) (sreg x.b) s
def execUmovExt (x : UMov) (s : State) : Host.Outcome State Fault Refusal := uMove (.umovExt x) x.d x.b s

/-- ULI: the 64-bit literal. -/
def execUli (x : ULit) (s : State) : Host.Outcome State Fault Refusal :=
  issue (.uli x) { ss := [x.d] } (fun c => .ok (deliverS c c.s x.d x.lit)) s

end Sys2Proof.Machine
end

