-- ==== Sys2Proof/Machine/VectorInt.lean ====
section
/-! DEFINITION. The vector integer members of OP 0x08-0x0C (09 R176, R177, R179-R182) and VRNG (09 R190). -/

namespace Sys2Proof.Machine

/-! ## Operands -/

/-- A V-class operand of a base word. -/
def vreg (n : Fin 256) : VOp := .v n

def vuse (op : VOp) (pair : Bool) : VUse := { op := op, pair := pair, write := false }
def vdest (op : VOp) (pair : Bool) : VUse := { op := op, pair := pair, write := true }

def vsrcUses : VSrc → Bool → List VUse
  | .reg r, pair => [vuse r pair]
  | _, _ => []

/-- The predicates a guard names. -/
def guardPreds : Guard → List PReg
  | .none => []
  | .pos p | .neg p => [⟨p.val + 1, Nat.succ_lt_succ p.isLt⟩]

/-- A base word of the vector integer members as the extended instruction it stands for (02 R23). -/
def Base3.toVBin (x : Base3) : VBin :=
  { g := .none, ty := .i32, sat := false, d := vreg x.d, a := vreg x.a, b := .reg (vreg x.b) }

/-- A predicate written in the lanes of EXEC. -/
def writePred (c : Iss) (s : State) (p : PReg) (v : Nat → Bool) : State :=
  s.modGroup c.f.gang c.f.group (fun g => g.setPred p c.exec (maskWhere v))

/-- Deliver a predicate result of a checked member: in `full` with lanes to execute again it enters the replay queue, and readers of the
predicate wait for the comparison (17 R318). -/
def deliverP (c : Iss) (s : State) (p : PReg) (v : Nat → Bool) : Except Stop State :=
  if c.replays c.exec then
    if s.replayFull c.gang.core (c.gang.parts.getD c.grp.slot 0) then .error (.stall .busy)
    else
      let held : PendLoad := { lanes := c.exec, regs := [], vals := [], uni := none, carry := none, tile := [], sync := none }
      .ok (enterReplay c (writePred c s p v) held none (some p.val) 0)
  else .ok (writePred c s p v)

/-! ## Two sources -/

/-- v[D].l := the R177 operation of v[A].l and v[B].l. -/
def vBin (i : Instr) (op : IntOp) (x : VBin) (s : State) : Host.Outcome State Fault Refusal :=
  let w := x.ty.is64
  issue i { vs := vuse x.a w :: vsrcUses x.b w ++ [vdest x.d w], ps := guardPreds x.g, g := x.g }
    (fun c => do
      let (s1, a) ← takeTy c c.s w x.a
      let (s2, b) ← takeSrc c s1 w x.b
      deliverV c s2 x.d w c.exec (fun l => BitVec.ofNat 64 (deliver x.ty x.sat (intOp op x.ty (a l) (b l))))) s

def execVaddBase (x : Base3) (s : State) : Host.Outcome State Fault Refusal := vBin (.vaddBase x) .add (Base3.toVBin x) s
def execVaddExt (x : VBin) (s : State) : Host.Outcome State Fault Refusal := vBin (.vaddExt x) .add x s
def execVsub (x : VBin) (s : State) : Host.Outcome State Fault Refusal := vBin (.vsub x) .sub x s
def execVmul (x : VBin) (s : State) : Host.Outcome State Fault Refusal := vBin (.vmul x) .mul x s
def execVmulh (x : VBin) (s : State) : Host.Outcome State Fault Refusal := vBin (.vmulh x) .mulh x s
def execVmin (x : VBin) (s : State) : Host.Outcome State Fault Refusal := vBin (.vmin x) .min x s
def execVmax (x : VBin) (s : State) : Host.Outcome State Fault Refusal := vBin (.vmax x) .max x s
def execVandBase (x : Base3) (s : State) : Host.Outcome State Fault Refusal := vBin (.vandBase x) .and (Base3.toVBin x) s
def execVandExt (x : VBin) (s : State) : Host.Outcome State Fault Refusal := vBin (.vandExt x) .and x s
def execVor (x : VBin) (s : State) : Host.Outcome State Fault Refusal := vBin (.vor x) .or x s
def execVxor (x : VBin) (s : State) : Host.Outcome State Fault Refusal := vBin (.vxor x) .xor x s
def execVshlBase (x : Base3) (s : State) : Host.Outcome State Fault Refusal := vBin (.vshlBase x) .shl (Base3.toVBin x) s
def execVshlExt (x : VBin) (s : State) : Host.Outcome State Fault Refusal := vBin (.vshlExt x) .shl x s
def execVshr (x : VBin) (s : State) : Host.Outcome State Fault Refusal := vBin (.vshr x) .shr x s
def execVsra (x : VBin) (s : State) : Host.Outcome State Fault Refusal := vBin (.vsra x) .sra x s

/-! ## One source -/

/-- VABS, VPOPC and VCLZ; the count's destination is 32 bits wide (09 R179). -/
def vUn (i : Instr) (op : UnOp) (x : VUn) (s : State) : Host.Outcome State Fault Refusal :=
  let w := x.ty.is64
  let dw := w && decide (op = .abs)
  issue i { vs := [vuse x.a w, vdest x.d dw], ps := guardPreds x.g, g := x.g }
    (fun c => do
      let (s1, a) ← takeTy c c.s w x.a
      deliverV c s1 x.d dw c.exec (fun l => BitVec.ofNat 64 (deliver x.ty x.sat (unOp op x.ty (a l))))) s

def execVabs (x : VUn) (s : State) : Host.Outcome State Fault Refusal := vUn (.vabs x) .abs x s
def execVpopc (x : VUn) (s : State) : Host.Outcome State Fault Refusal := vUn (.vpopc x) .popc x s
def execVclz (x : VUn) (s : State) : Host.Outcome State Fault Refusal := vUn (.vclz x) .clz x s

/-- VBFX (09 R182). -/
def execVbfx (x : VBfx) (s : State) : Host.Outcome State Fault Refusal :=
  issue (.vbfx x) { vs := [vuse x.a false, vdest x.d false], ps := guardPreds x.g, g := x.g }
    (fun c => own c (fieldOk x.ty.bits x.pos x.len) do
      let (s1, a) ← takeTy c c.s false x.a
      deliverV c s1 x.d false c.exec (fun l => BitVec.ofNat 64 (bfx x.ty (a l) x.pos.val x.len.val))) s

/-- VBFI (09 R182). -/
def execVbfi (x : VBfi) (s : State) : Host.Outcome State Fault Refusal :=
  issue (.vbfi x) { vs := vuse x.a false :: vsrcUses x.b false ++ [vdest x.d false], ps := guardPreds x.g, g := x.g }
    (fun c => own c (fieldOk x.ty.bits x.pos x.len) do
      let (s1, a) ← takeTy c c.s false x.a
      let (s2, b) ← takeSrc c s1 false x.b
      deliverV c s2 x.d false c.exec (fun l => BitVec.ofNat 64 (bfi x.ty (a l) (b l) x.pos.val x.len.val))) s

/-! ## Predicates (09 R180, R181) -/

/-- VSET: p[D].l := the condition of v[A].l and v[B].l. -/
def execVset (x : VSetI) (s : State) : Host.Outcome State Fault Refusal :=
  let w := x.ty.is64
  issue (.vset x) { vs := vuse x.a w :: vsrcUses x.b w, ps := x.d :: guardPreds x.g, g := x.g }
    (fun c => own c (intCondOk x.cc) do
      let (s1, a) ← takeTy c c.s w x.a
      let (s2, b) ← takeSrc c s1 w x.b
      deliverP c s2 x.d (fun l => intCond x.cc (readInt x.ty (a l)) (readInt x.ty (b l)))) s

/-- VSEL: v[D].l := p[C].l ? v[A].l : v[B].l. -/
def execVsel (x : VPredI) (s : State) : Host.Outcome State Fault Refusal :=
  let w := x.ty.is64
  issue (.vsel x) { vs := vuse x.a w :: vsrcUses x.b w ++ [vdest x.d w], ps := x.c :: guardPreds x.g, g := x.g }
    (fun c => do
      let (s1, a) ← takeTy c c.s w x.a
      let (s2, b) ← takeSrc c s1 w x.b
      deliverV c s2 x.d w c.exec (fun l => if (c.grp.pred x.c).getLsbD l then a l else b l)) s

/-- VADDC: the 33-bit sum with the carry in from p[C], and the carry out to it. -/
def execVaddc (x : VPredI) (s : State) : Host.Outcome State Fault Refusal :=
  issue (.vaddc x) { vs := vuse x.a false :: vsrcUses x.b false ++ [vdest x.d false], ps := x.c :: guardPreds x.g, g := x.g }
    (fun c => do
      let (s1, a) ← takeTy c c.s false x.a
      let (s2, b) ← takeSrc c s1 false x.b
      let sum := fun l => addc ((a l).truncate 32) ((b l).truncate 32) ((c.grp.pred x.c).getLsbD l)
      let s3 ← deliverV c s2 x.d false c.exec (fun l => BitVec.ofNat 64 (sum l % 2 ^ 32))
      .ok (writePred c s3 x.c (fun l => (sum l).testBit 32))) s

/-! ## Index, multiply-add, dot product, move (09 R181) -/

/-- VIDX: bits 31:0 of s[A] + l · s[B]. -/
def execVidx (x : VIdxI) (s : State) : Host.Outcome State Fault Refusal :=
  issue (.vidx x) { vs := [vdest x.d false], ss := x.a :: usrcRegs x.b, ps := guardPreds x.g, g := x.g }
    (fun c => deliverV c c.s x.d false c.exec (fun l => c.readS x.a + BitVec.ofNat 64 l * c.usrc x.b)) s

/-- VMAD: the exact product and sum, delivered once. -/
def execVmad (x : VTri) (s : State) : Host.Outcome State Fault Refusal :=
  issue (.vmad x) { vs := vuse x.a false :: vsrcUses x.b false ++ [vuse x.c false, vdest x.d false], ps := guardPreds x.g, g := x.g }
    (fun c => do
      let (s1, a) ← takeTy c c.s false x.a
      let (s2, b) ← takeSrc c s1 false x.b
      let (s3, e) ← takeTy c s2 false x.c
      deliverV c s3 x.d false c.exec (fun l =>
        BitVec.ofNat 64 (deliver x.ty x.sat (readInt x.ty (a l) * readInt x.ty (b l) + readInt x.ty (e l))))) s

/-- VDOT4: four INT8 products and the accumulator, signed, delivered once (08 R167). -/
def execVdot4 (x : VTri) (s : State) : Host.Outcome State Fault Refusal :=
  issue (.vdot4 x) { vs := vuse x.a false :: vsrcUses x.b false ++ [vuse x.c false, vdest x.d false], ps := guardPreds x.g, g := x.g }
    (fun c => do
      let (s1, a) ← takeTy c c.s false x.a
      let (s2, b) ← takeSrc c s1 false x.b
      let (s3, e) ← takeTy c s2 false x.c
      deliverV c s3 x.d false c.exec (fun l =>
        BitVec.ofNat 64 (deliver .i32 x.sat (readInt .i32 (e l) + dot4 (a l) (b l))))) s

/-- VMOV: v[D].l := v[B].l, or the pair. -/
def vMove (i : Instr) (x : VMovI) (s : State) : Host.Outcome State Fault Refusal :=
  let w := x.ty.is64
  issue i { vs := vsrcUses x.b w ++ [vdest x.d w], ps := guardPreds x.g, g := x.g }
    (fun c => do
      let (s1, b) ← takeSrc c c.s w x.b
      deliverV c s1 x.d w c.exec b) s

def execVmovBase (x : BaseDB) (s : State) : Host.Outcome State Fault Refusal :=
  vMove (.vmovBase x) { g := .none, ty := .i32, d := vreg x.d, b := .reg (vreg x.b) } s
def execVmovExt (x : VMovI) (s : State) : Host.Outcome State Fault Refusal := vMove (.vmovExt x) x s

/-! ## VRNG (09 R190) -/

/-- One round: the mixed value, then the next key. -/
def rngRound (k x : Word) : Word :=
  let y := (x ^^^ k) * 0xD1B54A32D192ED03#64
  y ^^^ (y >>> 29)

/-- The output for a key and a counter. -/
def rngValue (k c : Word) : W32 :=
  let k1 := k + 0x9E3779B97F4A7C15#64
  let k2 := k1 + 0x9E3779B97F4A7C15#64
  ((rngRound k2 (rngRound k1 (rngRound k c))) >>> 32).truncate 32

/-- VRNG's destination is neither half of its counter pair. -/
def rngOk (x : VRngI) : Bool :=
  match x.d, x.b with
  | .v n, .v m => n.val != m.val && n.val != m.val + 1
  | _, _ => true

/-- VRNG: 32 random bits per lane, and each lane's counter advances. -/
def execVrng (x : VRngI) (s : State) : Host.Outcome State Fault Refusal :=
  issue (.vrng x) { vs := [vuse x.b true, vdest x.d false], ss := [x.a], ps := guardPreds x.g, g := x.g }
    (fun c => own c (rngOk x) do
      let cnt := takePair c c.s x.b
      let s1 ← deliverV c c.s x.d false c.exec (fun l => (rngValue (c.readS x.a) (cnt l)).zeroExtend 64)
      storeV c s1 x.b true c.exec (fun l => cnt l + 1)) s

end Sys2Proof.Machine
end

