-- ==== Sys2Proof/Machine/FloatOps.lean ====
section
/-! DEFINITION. The float members of OP 0x10-0x13 (09 R184-R189). -/

namespace Sys2Proof.Machine

/-! ## Two sources (09 R185) -/

/-- A base word of FADD as the extended instruction it stands for (02 R23). -/
def Base3.toFBin (x : Base3) : FBin :=
  { g := .none, ty := .f32, rm := .fmt, d := vreg x.d, a := vreg x.a, b := .reg (vreg x.b) }

/-- FADD, FSUB, FMUL, FMIN and FMAX, element by element. -/
def fBin (i : Instr) (op : FOp) (x : FBin) (s : State) : Host.Outcome State Fault Refusal :=
  let w := x.ty.is64
  issue i { vs := vuse x.a w :: vsrcUses x.b w ++ [vdest x.d w], ps := guardPreds x.g, g := x.g }
    (fun c => do
      let (s1, a) ← takeTy c c.s w x.a
      let (s2, b) ← takeSrc c s1 w x.b
      let h := fop2 op (fmtOf x.ty) (roundOf x.rm c.sp.fmt) (fmtFtz c.sp.fmt)
      deliverV c s2 x.d w c.exec (fun l => perElement2 x.ty h (a l) (b l))) s

def execFaddBase (x : Base3) (s : State) : Host.Outcome State Fault Refusal := fBin (.faddBase x) .add (Base3.toFBin x) s
def execFaddExt (x : FBin) (s : State) : Host.Outcome State Fault Refusal := fBin (.faddExt x) .add x s
def execFsub (x : FBin) (s : State) : Host.Outcome State Fault Refusal := fBin (.fsub x) .sub x s
def execFmul (x : FBin) (s : State) : Host.Outcome State Fault Refusal := fBin (.fmul x) .mul x s
def execFmin (x : FBin) (s : State) : Host.Outcome State Fault Refusal := fBin (.fmin x) .min x s
def execFmax (x : FBin) (s : State) : Host.Outcome State Fault Refusal := fBin (.fmax x) .max x s

/-- FFMA: one rounding of the exact product and sum. -/
def execFfma (x : FTri) (s : State) : Host.Outcome State Fault Refusal :=
  let w := x.ty.is64
  issue (.ffma x) { vs := vuse x.a w :: vsrcUses x.b w ++ [vuse x.c w, vdest x.d w], ps := guardPreds x.g, g := x.g }
    (fun c => do
      let (s1, a) ← takeTy c c.s w x.a
      let (s2, b) ← takeSrc c s1 w x.b
      let (s3, e) ← takeTy c s2 w x.c
      let h := ffma (fmtOf x.ty) (roundOf x.rm c.sp.fmt) (fmtFtz c.sp.fmt)
      deliverV c s3 x.d w c.exec (fun l => perElement3 x.ty h (a l) (b l) (e l))) s

/-! ## One source -/

/-- A one-source float member: `h` takes the rounding mode, bit 8 of FMT and the element; `dw` says whether the destination is a pair. -/
def fUn (i : Instr) (h : FFmt → RoundMode → Bool → Nat → Nat) (dw : Bool) (x : FUn) (s : State) :
    Host.Outcome State Fault Refusal :=
  issue i { vs := [vuse x.a x.ty.is64, vdest x.d dw], ps := guardPreds x.g, g := x.g }
    (fun c => do
      let (s1, a) ← takeTy c c.s x.ty.is64 x.a
      let e := h (fmtOf x.ty) (roundOf x.rm c.sp.fmt) (fmtFtz c.sp.fmt)
      deliverV c s1 x.d dw c.exec (fun l => perElement x.ty e (a l))) s

def execFabs (x : FUn) (s : State) : Host.Outcome State Fault Refusal :=
  fUn (.fabs x) (fun F _ ftz a => fabsF F ftz a) x.ty.is64 x s
def execFneg (x : FUn) (s : State) : Host.Outcome State Fault Refusal :=
  fUn (.fneg x) (fun F _ ftz a => fnegF F ftz a) x.ty.is64 x s
/-- FCLASS: the class mask, 32 bits wide (09 R186). -/
def execFclass (x : FUn) (s : State) : Host.Outcome State Fault Refusal :=
  fUn (.fclass x) (fun F _ _ a => fclass F a) false x s
def execFrnd (x : FUn) (s : State) : Host.Outcome State Fault Refusal :=
  fUn (.frnd x) frndF x.ty.is64 x s

/-- FSET: p[D].l := the condition (09 R180, R186). -/
def execFset (x : VSetI) (s : State) : Host.Outcome State Fault Refusal :=
  let w := x.ty.is64
  issue (.fset x) { vs := vuse x.a w :: vsrcUses x.b w, ps := x.d :: guardPreds x.g, g := x.g }
    (fun c => own c (floatCondOk x.cc) do
      let (s1, a) ← takeTy c c.s w x.a
      let (s2, b) ← takeSrc c s1 w x.b
      deliverP c s2 x.d (fun l =>
        fcond x.cc (fmtOf x.ty) (fmtFtz c.sp.fmt) ((a l).toNat % 2 ^ x.ty.bits) ((b l).toNat % 2 ^ x.ty.bits))) s

/-! ## Conversions (09 R187, R188) -/

/-- The lane a conversion writes: a 16-bit float in bits 15:0 over zeros, a narrow integer extended to 32 bits by its type. -/
def widenResult (ty : Ty) (n : Nat) : Word :=
  if ty.isInt ∧ ty.bits < 32 then extendTy ty n &&& 0xFFFFFFFF#64 else BitVec.ofNat 64 n

/-- The source type STY names; STY 0, 14 and 15 name none, and 13 none that converts (R187). -/
def srcType (x : FCvtI) : Ty := Ty.ofCode x.sty.val

/-- FCVT converts between float types. -/
def fcvtOk (x : FCvtI) : Bool := x.dty.isFloat && (srcType x).isFloat

/-- ICVT needs an integer type. -/
def icvtOk (x : FCvtI) : Bool :=
  (x.dty.isInt || x.dty.isFloat) && ((srcType x).isInt || (srcType x).isFloat) && (x.dty.isInt || (srcType x).isInt)

/-- FCVT and ICVT; `good` is the check of the pair of types. -/
def fConvert (i : Instr) (good : Bool) (x : FCvtI) (s : State) : Host.Outcome State Fault Refusal :=
  let sty := srcType x
  issue i { vs := [vuse x.a sty.is64, vdest x.d x.dty.is64], ps := guardPreds x.g, g := x.g }
    (fun c => own c good do
      let (s1, a) ← takeTy c c.s sty.is64 x.a
      deliverV c s1 x.d x.dty.is64 c.exec (fun l =>
        widenResult x.dty
          (convert x.dty sty (roundOf x.rm c.sp.fmt) (fmtFtz c.sp.fmt) (fmtSatc c.sp.fmt) (a l)))) s

def execFcvt (x : FCvtI) (s : State) : Host.Outcome State Fault Refusal := fConvert (.fcvt x) (fcvtOk x) x s
def execIcvt (x : FCvtI) (s : State) : Host.Outcome State Fault Refusal := fConvert (.icvt x) (icvtOk x) x s

/-- BCVT: one block of the group's 32 values, the mantissa string across the lanes, the exponent in s[C] (09 R188). -/
def execBcvt (x : BCvtI) (s : State) : Host.Outcome State Fault Refusal :=
  issue (.bcvt x) { vs := [vuse x.a false, vdest x.d false], ss := [x.c] }
    (fun c =>
      if c.grp.live ≠ c.sp.lanes then .error (fault 0x02 0 c.exec)
      else do
        let w := x.w2.val + 2
        let (s1, a) ← takeV c c.s x.a
        let r := bcvt w (fmtFtz c.sp.fmt) ((List.range 32).map (fun l => if c.exec.getLsbD l then a l else 0))
        let str := mantString w r.2
        let s2 ← deliverV c s1 x.d false c.exec (fun l => BitVec.ofNat 64 (if l < w then fieldAt str (4 * l) 4 else 0))
        .ok (deliverS c s2 x.c (BitVec.ofNat 64 r.1))) s

/-! ## Special functions (09 R189) -/

def execFrcpBase (x : BaseDA) (s : State) : Host.Outcome State Fault Refusal :=
  fUn (.frcpBase x) frcpF false { g := .none, ty := .f32, rm := .fmt, d := vreg x.d, a := vreg x.a } s
def execFrcpExt (x : FUn) (s : State) : Host.Outcome State Fault Refusal := fUn (.frcpExt x) frcpF false x s
def execFrsq (x : FUn) (s : State) : Host.Outcome State Fault Refusal :=
  fUn (.frsq x) (fun _ _ ftz a => frsqF ftz a) false x s
def execFsqrt (x : FUn) (s : State) : Host.Outcome State Fault Refusal := fUn (.fsqrt x) fsqrtF false x s
def execFexp2 (x : FUn) (s : State) : Host.Outcome State Fault Refusal :=
  fUn (.fexp2 x) (fun _ _ ftz a => fexp2F ftz a) false x s
def execFlog2 (x : FUn) (s : State) : Host.Outcome State Fault Refusal :=
  fUn (.flog2 x) (fun _ _ ftz a => flog2F ftz a) false x s
def execFsin (x : FUn) (s : State) : Host.Outcome State Fault Refusal :=
  fUn (.fsin x) (fun _ _ ftz a => fsinF ftz a) false x s
def execFcos (x : FUn) (s : State) : Host.Outcome State Fault Refusal :=
  fUn (.fcos x) (fun _ _ ftz a => fcosF ftz a) false x s
def execFtanh (x : FUn) (s : State) : Host.Outcome State Fault Refusal :=
  fUn (.ftanh x) (fun _ _ ftz a => ftanhF ftz a) false x s

end Sys2Proof.Machine
end

