-- ==== Sys2Proof/Machine/Lanes.lean ====
section
/-! DEFINITION. The lane members of OP 0x18 (10 R194-R207): tiles, membership waits and their completion, votes, shuffles, reductions and scans. -/

namespace Sys2Proof.Machine

/-! ## Tiles (10 R194, R195) -/

/-- The tile size of a split. -/
def Split.tile (sp : Split) : Nat := 2 ^ bitsOf sp.part.toNat 2 0

/-- The base of the tile of a lane. -/
def tileBase (t l : Nat) : Nat := l - l % t

/-- The lanes of the tile at a base. -/
def tileLanes (t b : Nat) : List Nat := (List.range t).map (fun i => b + i)

/-! ## Arrival and completion (10 R197, R198) -/

/-- The mask operand of a membership instruction. -/
def Iss.memberMask (c : Iss) : MaskSrc → LaneMask
  | .all => 0xFFFFFFFF#32
  | .reg r => (c.readS r).truncate 32

def maskRegs : MaskSrc → List SReg
  | .all => []
  | .reg r => [r]

/-- The subcause of a clash with a waiting split: 1 at the same PC with another mask, 2 at another PC, 0 for none. -/
def Group.memberClash (g : Group) (i : Nat) (pc : Word) (exec m : LaneMask) : Nat :=
  let clashes := g.liveSplits.filter (fun y => decide (y.1 ≠ i) && (match memberMask g y.2 with
    | some k => decide (y.2.lanes &&& m ≠ 0) && decide (exec &&& k ≠ 0) && !(decide (y.2.pc = pc) && decide (k = m))
    | none => false))
  if clashes.any (fun y => y.2.pc = pc) then 1 else if clashes.isEmpty then 0 else 2

/-- The slots of a set, rising. -/
def sortSlots (is : List Nat) : List Nat := (List.range 4).filter (fun i => is.contains i)

/-- The issue context of a completed membership instruction: the merged split, and M' as its mask. -/
def Iss.completed (c : Iss) (s : State) (i : Nat) (m : LaneMask) : Iss :=
  let f : Focus := { c.f with split := i }
  match s.group? f.gang f.group, s.split? f with
  | some g, some sp => { c with f := f, grp := g, sp := sp, exec := m }
  | _, _ => { c with exec := m }

/-- A split arrives at a membership instruction: the checks of R198; the merge with the splits that wait there with an equal
mask; completion when every lane of M' has arrived, else the wait. In the handler a mask that names a lane outside its split traps (16 R298). -/
def arrive (i : Instr) (need : Need) (mask : MaskSrc) (effect : Iss → State → Except Stop State) (s : State) :
    Host.Outcome State Fault Refusal :=
  issueWait i { need with ss := need.ss ++ maskRegs mask } (fun c =>
    let m := c.memberMask mask &&& c.grp.live
    if c.f.split = 4 then
      if c.memberMask mask &&& ~~~ c.exec ≠ 0 then .error (fault 0x01 0 c.exec)
      else if c.exec &&& ~~~ m ≠ 0 then .error (fault 0x03 3 c.exec)
      else (effect { c with exec := m } c.s).map (fun s' => advance s' c.f c.len)
    else if c.exec &&& ~~~ m ≠ 0 then .error (fault 0x03 3 c.exec)
    else if c.grp.memberClash c.f.split c.sp.pc c.exec m ≠ 0 then
      .error (fault 0x03 (c.grp.memberClash c.f.split c.sp.pc c.exec m) c.exec)
    else
      let is := sortSlots (c.f.split :: c.grp.mates c.sp.pc m)
      let lo := is.headD c.f.split
      if m &&& ~~~ (c.grp.lanesAt is) = 0 then
        let s1 := if is.length ≤ 1 then c.s else c.s.mergeAt c.f.gang c.f.group lo is.tail .ready
        (effect (c.completed s1 lo m) s1).map (fun s' => advance s' { c.f with split := lo } c.len)
      else
        let w : Wait := .member i m c.s.order
        .ok (c.s.mergeAt c.f.gang c.f.group lo is.tail (.waiting w))) s

/-! ## VOTE (10 R199, R200) -/

/-- Who contributes to the tile of lane `l`: the members. -/
def voters (c : Iss) (l : Nat) : List Nat :=
  (tileLanes c.sp.tile (tileBase c.sp.tile l)).filter (fun j => c.exec.getLsbD j)

def voteEffect (x : VoteI) (c : Iss) (s : State) : Except Stop State :=
  let p := c.grp.pred x.a
  match x.d with
  | .any d => deliverP c s d (fun l => (voters c l).any (fun j => p.getLsbD j))
  | .all d => deliverP c s d (fun l => (voters c l).all (fun j => p.getLsbD j))
  | .bal d => deliverV c s d false c.exec (fun l =>
      (maskOf ((voters c l).filter (fun j => p.getLsbD j))).zeroExtend 64)

def voteNeed (x : VoteI) : Need :=
  match x.d with
  | .bal d => { vs := [vdest d false], ps := [x.a] }
  | .any d | .all d => { ps := [x.a, d] }

def execVote (x : VoteI) (s : State) : Host.Outcome State Fault Refusal :=
  arrive (.vote x) (voteNeed x) x.mask (voteEffect x) s

/-! ## SHFL (10 R199, R201) -/

/-- The source lane of lane `l`, none out of range. -/
def shflSource (k : ShflKind) (t l d : Nat) : Option Nat :=
  let b := tileBase t l
  let i := l % t
  match k with
  | .idx => some (b + d % t)
  | .up => if d < t ∧ d ≤ i then some (l - d) else none
  | .down => if d < t ∧ i + d < t then some (l + d) else none
  | .xor => some (b + (i ^^^ d % t))

def shflEffect (x : ShflI) (c : Iss) (s : State) : Except Stop State := do
  let w := x.ty.is64
  let (s1, a) ← takeTy c s w x.a
  let (s2, b) ← takeSrc c s1 false x.b
  let src := fun l => shflSource x.kind c.sp.tile l ((b l).toNat % 2 ^ 32)
  let val := fun l => match src l with
    | none => a l
    | some j => if c.exec.getLsbD j then a j else if c.grp.live.getLsbD j then a l else 0
  let s3 ← deliverV c s2 x.d w c.exec val
  .ok (writePred c s3 x.c (fun l => match src l with
    | none => true
    | some j => !c.exec.getLsbD j))

def shflNeed (x : ShflI) : Need :=
  let w := x.ty.is64
  { vs := vuse x.a w :: vsrcUses x.b false ++ [vdest x.d w], ps := [x.c] }

def execShfl (x : ShflI) (s : State) : Host.Outcome State Fault Refusal :=
  arrive (.shfl x) (shflNeed x) x.mask (shflEffect x) s

/-! ## REDUX and SCAN (10 R202, R203) -/

def RedOp.toInt : RedOp → IntOp
  | .add => .add | .min => .min | .max => .max | .and => .and | .or => .or | .xor => .xor

def RedOp.toFloat : RedOp → FOp
  | .min => .min
  | .max => .max
  | _ => .add

/-- One combining step of two present values. -/
def redStep (op : RedOp) (ty : Ty) (mod : RedMod) (fmt : BitVec 16) (a b : Word) : Word :=
  if ty = .f32 then
    let rm := match mod with
      | .rm r => roundOf r fmt
      | _ => roundOf .fmt fmt
    BitVec.ofNat 64 (fop2 (RedOp.toFloat op) f32 rm (fmtFtz fmt) (a.toNat % 2 ^ 32) (b.toNat % 2 ^ 32))
  else BitVec.ofNat 64 (deliver ty (decide (mod = .sat)) (intOp (RedOp.toInt op) ty a b))

/-- An absent input is transparent. -/
def redOpt (op : RedOp) (ty : Ty) (mod : RedMod) (fmt : BitVec 16) : Option Word → Option Word → Option Word
  | none, y => y
  | x, none => x
  | some a, some b => some (redStep op ty mod fmt a b)

/-- The identity a result that stays absent is delivered as. -/
def redIdentity (op : RedOp) (ty : Ty) : Word :=
  match op with
  | .add | .or | .xor => 0
  | .and => BitVec.ofNat 64 (2 ^ ty.bits - 1)
  | .min => if ty = .f32 then BitVec.ofNat 64 (f32.inf false) else BitVec.ofNat 64 (wrapInt ty.bits (tyMax ty))
  | .max => if ty = .f32 then BitVec.ofNat 64 (f32.inf true) else BitVec.ofNat 64 (wrapInt ty.bits (tyMin ty))

/-- The delivered value: an f32 value canonical and under bit 8 of FMT (08 R160, R163). -/
def redDeliver (op : RedOp) (ty : Ty) (fmt : BitVec 16) : Option Word → Word
  | none => redIdentity op ty
  | some a =>
    if ty = .f32 then BitVec.ofNat 64 (f32.pack .rne (fmtFtz fmt) (f32.unpack (fmtFtz fmt) (a.toNat % 2 ^ 32))) else a

/-- The strides below a tile size. -/
def strides (t : Nat) : List Nat := [1, 2, 4, 8, 16].filter (· < t)

/-- The fixed pairwise tree over the inputs of a tile by position. -/
def redTree (h : Option Word → Option Word → Option Word) (t : Nat) (xs : List (Option Word)) : Option Word :=
  ((strides t).foldl (fun (ys : List (Option Word)) s =>
    (List.range t).map (fun i => if i % (2 * s) = 0 then h (ys.getD i none) (ys.getD (i + s) none) else ys.getD i none)) xs).headD none

/-- The fixed doubling order: the inclusive values by position. -/
def scanValues (h : Option Word → Option Word → Option Word) (t : Nat) (xs : List (Option Word)) : List (Option Word) :=
  (strides t).foldl (fun (ys : List (Option Word)) s =>
    (List.range t).map (fun i => if s ≤ i then h (ys.getD (i - s) none) (ys.getD i none) else ys.getD i none)) xs

/-- The inputs of the tile of lane `l`. -/
def tileInputs (c : Iss) (a : Nat → Word) (l : Nat) : List (Option Word) :=
  (tileLanes c.sp.tile (tileBase c.sp.tile l)).map (fun j => if c.exec.getLsbD j then some (a j) else none)

def reduxEffect (x : ReduxI) (c : Iss) (s : State) : Except Stop State := do
  let w := x.ty.is64
  let (s1, a) ← takeTy c s w x.a
  let h := redOpt x.op x.ty x.mod c.sp.fmt
  deliverV c s1 x.d w c.exec (fun l => redDeliver x.op x.ty c.sp.fmt (redTree h c.sp.tile (tileInputs c a l)))

def execRedux (x : ReduxI) (s : State) : Host.Outcome State Fault Refusal :=
  arrive (.redux x) { vs := [vuse x.a x.ty.is64, vdest x.d x.ty.is64] } x.mask (reduxEffect x) s

def scanEffect (x : ScanI) (c : Iss) (s : State) : Except Stop State := do
  let w := x.ty.is64
  let (s1, a) ← takeTy c s w x.a
  let h := redOpt x.op x.ty x.mod c.sp.fmt
  deliverV c s1 x.d w c.exec (fun l =>
    let ys := scanValues h c.sp.tile (tileInputs c a l)
    let i := l % c.sp.tile
    redDeliver x.op x.ty c.sp.fmt (if x.excl then (if i = 0 then none else ys.getD (i - 1) none) else ys.getD i none))

def execScan (x : ScanI) (s : State) : Host.Outcome State Fault Refusal :=
  arrive (.scan x) { vs := [vuse x.a x.ty.is64, vdest x.d x.ty.is64] } x.mask (scanEffect x) s

/-! ## FFS, SETPART, LMASK (10 R204-R206) -/

/-- The index of the lowest set bit of an n-bit value, n when there is none. -/
def lowestBit (n x : Nat) : Nat := ((List.range n).find? (fun i => x.testBit i)).getD n

def execFfs (x : FfsI) (s : State) : Host.Outcome State Fault Refusal :=
  issue (.ffs x) { vs := [vuse x.a x.ty.is64, vdest x.d false] }
    (fun c => do
      let (s1, a) ← takeTy c c.s x.ty.is64 x.a
      deliverV c s1 x.d false c.exec (fun l => BitVec.ofNat 64 (lowestBit x.ty.bits (a l).toNat))) s

def execSetpart (x : SetPartI) (s : State) : Host.Outcome State Fault Refusal :=
  issue (.setpart x) {} (fun c => .ok (c.s.modSplit c.f (fun sp => { sp with part := BitVec.ofNat 16 x.tlog.val }))) s

/-- The value of LMASK in lane `l`. -/
def lmaskValue (k : LMaskKind) (t : Nat) (live : LaneMask) (l : Nat) : LaneMask :=
  match k with
  | .eq => laneBit l
  | .lt => maskWhere (fun j => j < l)
  | .le => maskWhere (fun j => j ≤ l)
  | .gt => maskWhere (fun j => l < j)
  | .ge => maskWhere (fun j => l ≤ j)
  | .tile => maskOf (tileLanes t (tileBase t l))
  | .live => live

def execLmask (x : LMaskI) (s : State) : Host.Outcome State Fault Refusal :=
  issue (.lmask x) { vs := [vdest x.d false] }
    (fun c => deliverV c c.s x.d false c.exec (fun l =>
      (lmaskValue x.kind c.sp.tile c.grp.live l).zeroExtend 64)) s

end Sys2Proof.Machine
end

