-- ==== Sys2Proof/Machine/Pairs.lean ====
section
/-! DEFINITION. Redundant pairs (17 R320-R324): the load-value queue, signatures, the release of the lead's global effects, replay from the pair log; and the flip of a value that no checking mode covers (17 R327). -/

namespace Sys2Proof.Machine

/-! ## Signatures (17 R322) -/

/-- A store's signature bytes: the mask, then address, size and data of each access. -/
def storeSig (mask : LaneMask) (xs : List (Word × Nat × Word)) : List Byte :=
  leBytes 1 0 ++ leBytes 4 mask.toNat ++
  xs.flatMap (fun x => leBytes 8 x.1.toNat ++ leBytes 1 x.2.1 ++ leBytes x.2.1 x.2.2.toNat)

/-- An atomic's: address, AOP with TY, operand and comparand of each access. -/
def atomSig (mask : LaneMask) (op : AtomOp) (ty : Ty) (xs : List (Word × Word × Word)) : List Byte :=
  leBytes 1 1 ++ leBytes 4 mask.toNat ++
  xs.flatMap (fun x => leBytes 8 x.1.toNat ++ leBytes 1 (op.code + 16 * ty.code) ++ leBytes 8 x.2.1.toNat ++ leBytes 8 x.2.2.toNat)

/-- Any other effect's: the instruction's words and the register operands read. -/
def effectSig (i : Instr) (regs : List Word) : List Byte :=
  leBytes 1 2 ++ (encode i).getD [] ++ regs.flatMap (fun r => leBytes 8 r.toNat)

/-- The mask of a uniform member's signature. -/
def uniformMask : LaneMask := 1

/-! ## The two copies -/

/-- Both copies enter a state of R324. -/
def State.setPairState (s : State) (gang other : Nat) (st : PairState) : State :=
  (s.modPair gang (fun p => { p with state := st })).modPair other (fun p => { p with state := st })

/-- A released effect is logged with the values it returned, and forwarded; the 4,096th fills the log (17 R323). -/
def State.logEffect (s : State) (gang other key : Nat) (sig : W32) (vals : List Word) : State :=
  (s.modPair gang (fun p =>
    { p with
      granted := dropKey key p.granted, count := p.count + 1, committed := p.committed + 1
      log := if p.log.length < 4096 then p.log ++ [{ sig := sig, vals := vals }] else p.log
      plog := p.plog || decide (4096 ≤ p.log.length + 1) })).forward other key vals

/-- What an effect's performance answers: the state, and the values it returned, none while the split waits. -/
abbrev Performed := Except Stop (State × Option (List Word))

/-- Run an effect that is performed once for a pair (17 R322-R324). `s` is the state after the operands were read. Outside a pair, the
effect is performed at once. The lead forms its signature and performs the effect when SIGNATURE_MATCH has released it; in REPLAY a logged
effect is suppressed and returns its logged values. The trail forms its signature and takes the values the lead received, or the trap; in REPLAY its
signature too has to be the logged one. -/
def pairRun (c : Iss) (s : State) (sig : List Byte) (perform : State → Performed) (finish : List Word → State → Except Stop State) :
    Except Stop State :=
  match c.gang.pair with
  | none =>
    match perform s with
    | .error e => .error e
    | .ok (s1, some vals) => finish vals s1
    | .ok (s1, none) => .ok s1
  | some p =>
    let id := c.f.gang
    let key := pairKey c.f.group c.sp.lanes
    let w := crc32c sig
    let signed := p.sigs.any (fun e => e.1 == key && e.2.2)
    let sign := .error (.hold .busy (c.s.modPair id (fun p => { p with sigs := p.sigs ++ [(key, w, true)] })))
    match p.role with
    | .trail =>
      match p.next key with
      | some vals =>
        if (p.granted.find? (fun e => e.1 == key)).any (fun e => decide (e.2 ≠ w)) then .error (.hold .busy (c.s.setPairState id p.other .terminated))
        else finish vals (s.modPair id (fun p => { p with loadq := dropKey key p.loadq, granted := dropKey key p.granted }))
      | none =>
        match p.next (trapKey key) with
        | some ws => .error (trapOf ws)
        | none => if p.state = .replay ∨ signed ∨ p.granted.any (fun e => e.1 == key) then .error (.stall .lead) else sign
    | .lead =>
      if p.state = .replay ∧ p.count < p.committed then
        match p.log[p.count]? with
        | some e =>
          if e.sig = w then
            finish e.vals (((s.modPair id (fun p => { p with count := p.count + 1 })).modPair p.other (fun p =>
              { p with granted := p.granted ++ [(key, e.sig)] })).forward p.other key e.vals)
          else .error (.hold .busy (c.s.setPairState id p.other .terminated))
        | none => .error (.hold .busy (c.s.setPairState id p.other .terminated))
      else if p.state = .replay then .error (.hold .busy (c.s.setPairState id p.other .run))
      else if p.granted.any (fun e => e.1 == key) then
        match perform s with
        | .error e => .error (shareTrap c.sp.pc e)
        | .ok (s1, some vals) => finish vals (s1.logEffect id p.other key w vals)
        | .ok (s1, none) => .ok s1
      else if signed ∨ 64 ≤ p.sigs.length then .error (.stall .busy)
      else sign

/-- A value the lead receives and the trail takes from the queue (17 R321). -/
def pairLoad (c : Iss) (s : State) (read : State → Except Stop (State × List Word)) (finish : List Word → State → Except Stop State) :
    Except Stop State :=
  match c.gang.pair with
  | none =>
    match read s with
    | .error e => .error e
    | .ok (s1, vals) => finish vals s1
  | some p =>
    let key := pairKey c.f.group c.sp.lanes
    match p.role with
    | .trail =>
      match p.next key with
      | some vals => finish vals (s.modPair c.f.gang (fun p => { p with loadq := dropKey key p.loadq }))
      | none =>
        match p.next (trapKey key) with
        | some ws => .error (trapOf ws)
        | none => .error (.stall .lead)
    | .lead =>
      match read s with
      | .error e => .error (shareTrap c.sp.pc e)
      | .ok (s1, vals) => finish vals (s1.forward p.other key vals)

/-- A store into the copy's own vat: compared, not held (17 R322). -/
def pairVat (c : Iss) (s : State) (sig : List Byte) : Except Stop State :=
  match c.gang.pair with
  | none => .ok s
  | some p =>
    if p.role = .lead ∧ 64 ≤ p.sigs.length then .error (.stall .busy)
    else .ok (s.modPair c.f.gang (fun p => { p with sigs := p.sigs ++ [(pairKey c.f.group c.sp.lanes, crc32c sig, false)] }))

/-! ## The deckle's order (13 R254) -/

/-- The key under which a lead records what its deckle does. -/
def deckleKey : Nat := 2 ^ 16

/-- An act of the deckle: a BECOME of a group slot; a materialisation, with the set of group slots that are compacted before it. -/
def becomeAct (slot : Nat) : List Word := [BitVec.ofNat 64 (2 + slot)]
def materialiseAct (set : List Nat) : List Word :=
  let m := (set.map (fun i => 2 ^ i)).foldl (· + ·) 0
  [1, BitVec.ofNat 64 m, BitVec.ofNat 64 (m / 2 ^ 64)]

/-- The slots an act compacts. -/
def actSet (act : List Word) : List Nat :=
  let m := (act.getD 1 0).toNat + 2 ^ 64 * (act.getD 2 0).toNat
  (List.range 128).filter (fun i => m.testBit i)

/-- The act that is recorded for a copy of a pair to do next: a trail follows its lead, a lead that replays what it did before. -/
def Pair.nextAct (p : Pair) : Option (List Word) :=
  match p.role with
  | .trail => p.next deckleKey
  | .lead => p.acts[p.acted]?

def Gang.nextAct (g : Gang) : Option (List Word) := g.pair.bind Pair.nextAct

/-- Another act is recorded to come first, or a trail's next act is not recorded yet. -/
def Gang.outOfOrder (g : Gang) (act : List Word) : Bool :=
  match g.pair with
  | none => false
  | some p =>
    match p.nextAct with
    | some a => decide (a.head? ≠ act.head?)
    | none => decide (p.role = .trail)

/-- The lead records the act, the trail has followed it. -/
def State.recordDeckle (s : State) (g : Gang) (act : List Word) : State :=
  match g.pair with
  | none => s
  | some p =>
    match p.role with
    | .lead =>
      (s.modPair g.id (fun p =>
        { p with acts := if p.acted < p.acts.length then p.acts else p.acts ++ [act], acted := p.acted + 1 })).forward p.other deckleKey act
    | .trail => s.modPair g.id (fun p => { p with loadq := dropKey deckleKey p.loadq })

/-! ## Flips of values that are not executed twice (17 R318, R327) -/

/-- Due flips reach a value that comes from outside the lanes: a load, a pop. -/
def flipValues (c : Iss) (s : State) (v : Nat → Word) : State × (Nat → Word) :=
  let flips := (c.dueFlips s).filter (fun i => c.exec.getLsbD i.lane)
  (dropFlips s c.f.gang flips, fun l => xorFlips (flips.filter (fun i => i.lane == l)) (v l))

/-- The same for a uniform destination. -/
def flipUniform (c : Iss) (s : State) (v : Word) : State × Word :=
  (dropFlips s c.f.gang (c.dueFlips s), xorFlips (c.dueFlips s) v)

end Sys2Proof.Machine
end

