-- ==== Sys2Proof/Machine/Effects.lean ====
section
/-! DEFINITION. Queue objects, work-lists, future cells and successor counters as operations at their home (14 R264-R275), waiters (R267-R269, R277), and the effect buffer of a replayable gang (R276). -/

namespace Sys2Proof.Machine

/-! ## The header (14 R264) -/

structure Hdr where
  base : Word
  cap : Nat
  kind : Nat
  prio : Nat
  die : Nat
  valid : Bool
  owner : Nat
  head : Nat
  tail : Nat
  badrec : Nat
  dropped : Nat
  deriving DecidableEq, Repr

/-- The header at a physical address. -/
def State.hdr (s : State) (a : Nat) : Hdr :=
  let k := s.mem.readLE (a + 12) 1
  { base := BitVec.ofNat 64 (s.mem.readLE a 8), cap := s.mem.readLE (a + 8) 3, kind := bitsOf k 1 0, prio := bitsOf k 4 2
    die := bitsOf k 6 5, valid := k.testBit 7, owner := s.mem.readLE (a + 13) 2 % 2 ^ 12, head := s.mem.readLE (a + 16) 8
    tail := s.mem.readLE (a + 24) 8, badrec := s.mem.readLE (a + 32) 4, dropped := s.mem.readLE (a + 36) 4 }

/-- The bytes of a header as Ezden writes it. -/
def Hdr.bytes (h : Hdr) : List Byte :=
  leBytes 8 h.base.toNat ++ leBytes 3 h.cap ++ zeroBytes 1 ++
  leBytes 1 (h.kind + 4 * h.prio + 32 * h.die + 128 * bit h.valid) ++ leBytes 2 h.owner ++ zeroBytes 1 ++ leBytes 8 h.head ++
  leBytes 8 h.tail ++ leBytes 4 h.badrec ++ leBytes 4 h.dropped ++ zeroBytes 24

/-- Items are records in a TASK queue, 8-byte values in the others. -/
def Hdr.itemSize (h : Hdr) : Nat := if h.kind = 1 then 64 else 8

/-- Occupancy, TAIL - HEAD. -/
def Hdr.occ (h : Hdr) : Nat := (h.tail + 2 ^ 64 - h.head) % 2 ^ 64

/-- The virtual address of the item with an index. -/
def Hdr.itemVa (h : Hdr) (i : Nat) : Word := h.base + BitVec.ofNat 64 (i % h.cap * h.itemSize)

/-- The home's own accesses to an object that has passed its checks. -/
def homeWho (ctx : Nat) : Who := { ctx := ctx, die := none, hp := true, ezden := true }

/-- An access made for a gang of a context on a die, below handler privilege, or ignoring H as an object's accesses do (14 R266, R273). -/
def gangWho (ctx die : Nat) (ignoreH : Bool) : Who := { ctx := ctx, die := some die, hp := ignoreH, ezden := false }

/-- A write made at the home for a gang, to a virtual address of the object's context. -/
def State.homeWrite (s : State) (gang ctx : Nat) (va : Word) (bs : List Byte) : State :=
  match s.translate (homeWho ctx) .atomic va with
  | .error _ => s
  | .ok x => s.writePhys gang ((enumFrom 0 bs).map (fun b => { addr := x.pa + b.1, val := b.2, dur := x.dur }))

/-- The bytes at a virtual address of the object's context. -/
def State.homeRead (s : State) (ctx : Nat) (va : Word) (n : Nat) : List Byte :=
  match s.translate (homeWho ctx) .read va with
  | .error _ => zeroBytes n
  | .ok x => s.mem.readBytes x.pa n

/-- The object's record on the chip, if Ezden created it. -/
def State.queue? (s : State) (a : Nat) : Option QueueObj := s.queues.find? (fun q => q.hdr == a)

def State.modQueue (s : State) (a : Nat) (h : QueueObj → QueueObj) : State :=
  { s with queues := s.queues.map (fun q => if q.hdr == a then h q else q) }

/-- Whether a physical address lies on a DUR page of the context. -/
def State.durQueue (s : State) (a : Nat) : Bool :=
  match s.queue? a with
  | none => false
  | some q => match s.translate (homeWho q.ctx) .read q.va with
    | .ok x => x.dur
    | .error _ => false

/-- HEAD and TAIL of a header. -/
def State.putEnds (s : State) (gang a head tail : Nat) : State :=
  s.writePhys gang (leWrites (a + 16) 8 (head % 2 ^ 64) (s.durQueue a) ++ leWrites (a + 24) 8 (tail % 2 ^ 64) (s.durQueue a))

/-- A 32-bit field of a header raised by 1, wrapping. -/
def State.bumpHdr (s : State) (gang a ofs : Nat) : State :=
  s.writePhys gang (leWrites (a + ofs) 4 ((s.mem.readLE (a + ofs) 4 + 1) % 2 ^ 32) (s.durQueue a))

/-! ## Items (14 R264, R265, R274) -/

/-- The on-chip part of a work-list holds its first 4,096 entries (14 R274). -/
def onChipMax : Nat := 4096

/-- One item stored at TAIL: in the on-chip part of a work-list that holds the whole list and has room, else in the backing store. -/
def State.storeItem (s : State) (gang a : Nat) (item : List Byte) : State :=
  let h := s.hdr a
  let onchip := match s.queue? a with
    | some q => decide (h.kind = 2) && decide (q.onchip.length = h.occ) && decide (q.onchip.length < onChipMax)
    | none => false
  let s1 :=
    if onchip then s.modQueue a (fun q => { q with onchip := q.onchip ++ [BitVec.ofNat 64 (leNat item)] })
    else s.homeWrite gang h.owner (h.itemVa h.tail) item
  s1.putEnds gang a h.head (h.tail + 1)

def State.storeItems (s : State) (gang a : Nat) (items : List (List Byte)) : State :=
  items.foldl (fun s i => s.storeItem gang a i) s

/-- The oldest item removed; entries move up into the on-chip part of a work-list. -/
def State.takeItem (s : State) (gang a : Nat) : State × List Byte :=
  let h := s.hdr a
  match s.queue? a with
  | some q =>
    match q.onchip with
    | v :: rest =>
      let refill := if q.onchip.length < h.occ then
          [BitVec.ofNat 64 (leNat (s.homeRead h.owner (h.itemVa (h.head + q.onchip.length)) 8))] else []
      ((s.modQueue a (fun q => { q with onchip := rest ++ refill })).putEnds gang a (h.head + 1) h.tail, leBytes 8 v.toNat)
    | [] => (s.putEnds gang a (h.head + 1) h.tail, s.homeRead h.owner (h.itemVa h.head) h.itemSize)
  | none => (s.putEnds gang a (h.head + 1) h.tail, s.homeRead h.owner (h.itemVa h.head) h.itemSize)

/-- Up to `n` items removed in FIFO order. -/
def State.takeItems (s : State) (gang a : Nat) : Nat → State × List (List Byte)
  | 0 => (s, [])
  | n + 1 =>
    if (s.hdr a).occ = 0 then (s, [])
    else
      let (s1, x) := s.takeItem gang a
      let (s2, xs) := s1.takeItems gang a n
      (s2, x :: xs)

/-- The entries of the on-chip part, which WLINS compares with. -/
def State.onChip (s : State) (a : Nat) : List Word :=
  match s.queue? a with
  | some q => q.onchip
  | none => []

/-! ## Waiters (14 R267-R269, R275, R277) -/

/-- A split is linked as the youngest waiter on an object. -/
def State.link (s : State) (f : Focus) (obj : Nat) (k : WaitKind) : State :=
  let w : Waiter := { id := s.nextWaiter, obj := obj, gang := f.gang, group := f.group, split := f.split, kind := k }
  { s.park f (.object s.nextWaiter) with
    waiters := s.waiters ++ [w], nextWaiter := s.nextWaiter + 1 }

/-- The items a member delivers: one to each lane in increasing order, and the predicate of R268. -/
def State.deliverItems (s : State) (f : Focus) (d : VOp) (p : PReg) (lanes : LaneMask) (vals : List Word) : State :=
  let got := (lanesOf lanes).zip vals
  let s1 := got.foldl (fun s x =>
    match d with
    | .v n => (s.setLane f.gang f.group n.val x.1 (x.2.truncate 32)).setLane f.gang f.group (n.val + 1) x.1 ((x.2 >>> 32).truncate 32)
    | .k _ => s) s
  s1.modGroup f.gang f.group (fun g => g.setPred p lanes (maskOf (got.map (fun x => x.1))))

/-- A waiting instruction completes: the split goes on behind it; in a pair its values are logged and forwarded. -/
def State.finishWait (s : State) (w : Waiter) (vals : List Word) : State :=
  let f : Focus := { gang := w.gang, group := w.group, split := w.split }
  let s1 := { s with waiters := s.waiters.filter (fun x => x.id ≠ w.id) }
  let s2 := match s.split? f, (s.gang? w.gang).bind (fun g => g.pair) with
    | some sp, some p =>
      let key := pairKey w.group sp.lanes
      match p.granted.find? (fun (e : Nat × W32) => e.1 == key) with
      | some e => s1.logEffect w.gang p.other key e.2 vals
      | none => s1
    | _, _ => s1
  advance (s2.modSplit f (fun sp => { sp with status := .ready })) f 12

/-- Push waiters are served, oldest first, while their items fit (14 R267, R269). -/
def State.servePush (s : State) (a : Nat) : Nat → State
  | 0 => s
  | n + 1 =>
    match s.waiters.find? (fun w => w.obj == a && (match w.kind with
      | .push .. => true
      | _ => false)) with
    | none => s
    | some w =>
      match w.kind with
      | .push e k _ =>
        let h := s.hdr a
        if h.cap < h.occ + k then s
        else
          let items := match e with
            | .qpush _ vs => vs.map (fun v => leBytes 8 v.toNat)
            | .tspawn _ r => [r]
            | _ => []
          ((s.storeItems w.gang a items).finishWait w []).servePush a n
      | _ => s

/-- The waiters of a gang are withdrawn (14 R277): their splits are to issue the instruction again; push waiters behind them may now fit. -/
def State.withdraw (s : State) (gang : Nat) : State :=
  let mine := s.waiters.filter (fun w => w.gang == gang)
  let ids := mine.map (fun w => w.id)
  let again := fun (sp : Split) => match sp.status with
    | .waiting (.object id) => if ids.contains id then { sp with status := .ready } else sp
    | _ => sp
  let s1 := { s with waiters := s.waiters.filter (fun w => w.gang ≠ gang) }
  let s2 := s1.modGang gang (fun g =>
    { g with handler := g.handler.map again, groups := g.groups.map (fun x => { x with splits := x.splits.map (fun o => o.map again) }) })
  ((mine.map (fun w => w.obj)).eraseDups).foldl (fun s a => s.servePush a s.waiters.length) s2

/-- A waiter as its split stands now: withdrawn where the split no longer waits there; a lane whose thread has ended takes nothing
(14 R269, R277). -/
def State.waiterNow (s : State) (w : Waiter) : Option Waiter :=
  match s.split? { gang := w.gang, group := w.group, split := w.split } with
  | none => none
  | some sp =>
    if sp.status ≠ .waiting (.object w.id) then none
    else some { w with kind := match w.kind with
      | .pop d p lanes => .pop d p (lanes &&& sp.lanes)
      | .future d lanes => .future d (lanes &&& sp.lanes)
      | k => k }

/-- The waiters of a gang's group after threads of it have ended; push waiters behind a withdrawn one may now fit. -/
def State.tidyWaiters (s : State) (gang slot : Nat) : State :=
  let mine := fun (w : Waiter) => w.gang == gang && w.group == slot
  let gone := s.waiters.filter (fun w => mine w && (s.waiterNow w).isNone)
  let s1 := { s with waiters := s.waiters.filterMap (fun w => if mine w then s.waiterNow w else some w) }
  ((gone.map (fun w => w.obj)).eraseDups).foldl (fun (s : State) a => s.servePush a s.waiters.length) s1

/-- A removal of up to `n` items, after which push waiters are served. -/
def State.popItems (s : State) (gang a n : Nat) : State × List Word :=
  let (s1, xs) := s.takeItems gang a n
  (s1.servePush a s1.waiters.length, xs.map (fun x => BitVec.ofNat 64 (leNat x)))

/-- Items go to the pop waiters of a DATA queue, oldest first; the rest remains (14 R267). The items handed over take their indices as all
others: HEAD and TAIL both pass them (R264, R265). -/
def State.handOff (s : State) (gang a : Nat) : Nat → List Word → State × List Word
  | 0, vals => (s, vals)
  | n + 1, vals =>
    if vals.isEmpty then (s, [])
    else
      match s.waiters.find? (fun w => w.obj == a && (match w.kind with
        | .pop _ _ _ => true
        | _ => false)) with
      | none => (s, vals)
      | some w =>
        match w.kind with
        | .pop d p lanes =>
          let f : Focus := { gang := w.gang, group := w.group, split := w.split }
          let k := laneCount lanes
          let h := s.hdr a
          let got := (vals.take k).length
          (((s.putEnds gang a (h.head + got) (h.tail + got)).deliverItems f d p lanes (vals.take k)).finishWait w
            (vals.take k)).handOff gang a n (vals.drop k)
        | _ => (s, vals)

/-- A push of `k` items into a DATA or TASK queue; none where they have to wait for room. -/
def State.push (s : State) (gang : Nat) (e : Effect) : Option State :=
  match e with
  | .qpush a vals =>
    let h := s.hdr a
    if h.cap < h.occ + vals.length then none
    else
      let (s1, rest) := s.handOff gang a s.waiters.length vals
      some (s1.storeItems gang a (rest.map (fun v => leBytes 8 v.toNat)))
  | .tspawn a r =>
    let h := s.hdr a
    if h.cap < h.occ + 1 then none else some (s.storeItems gang a [r])
  | _ => some s

/-! ## Work-lists (14 R274) -/

/-- The values WLINS keeps: none that the on-chip part or a lower lane holds. -/
def newValues (have_ : List Word) : List Word → List Word
  | [] => []
  | v :: vs => if have_.contains v then newValues have_ vs else v :: newValues (v :: have_) vs

/-- An insertion into a work-list; none where the total would pass CAP. -/
def State.wlInsert (s : State) (gang a : Nat) (vals : List Word) : Option State :=
  let h := s.hdr a
  if h.cap < h.occ + vals.length then none else some (s.storeItems gang a (vals.map (fun v => leBytes 8 v.toNat)))

/-! ## Successor counters and futures (14 R273, R275) -/

/-- A successor counter is decremented, for a gang of a context; its push is made with the decrementer's context, on its die. -/
def State.decrement (s : State) (gang ctx cell : Nat) (dur : Bool) : State :=
  let s0 := s.reach (cell / 128) true
  let count := s0.mem.readLE cell 4
  let flags := s0.mem.readLE (cell + 4) 4
  if count = 0 then s0.writePhys gang (leWrites (cell + 4) 4 (flags ||| 1) dur)
  else if count = 1 then
    let s1 := s0.writePhys gang (leWrites cell 4 0 dur ++ leWrites (cell + 4) 4 (flags ||| 2) dur)
    let q := s1.mem.readLE (cell + 8) 8
    let r := s1.mem.readLE (cell + 16) 8
    if q ≠ 0 ∧ r ≠ 0 then
      { s1 with succs := s1.succs ++ [{ ctx := ctx, die := s1.gangDie gang, queue := BitVec.ofNat 64 q, record := BitVec.ofNat 64 r }] }
    else s1
  else s0.writePhys gang (leWrites cell 4 (count - 1) dur)

/-- A future cell is FULL. -/
def State.futureFull (s : State) (cell : Nat) : Bool := s.mem.readLE (cell + 8) 4 == 1

/-- Every waiter of a cell completes with the value. -/
def State.wakeFuture (s : State) (cell : Nat) (v : Word) : State :=
  (s.waiters.filter (fun w => w.obj == cell)).foldl (fun s w =>
    match w.kind with
    | .future d _ =>
      let f : Focus := { gang := w.gang, group := w.group, split := w.split }
      (s.writeU f (.s d v)).finishWait w [v]
    | _ => s) s

/-- FUTSET at the home. -/
def State.setFuture (s : State) (gang cell : Nat) (v : Option Word) (dur : Bool) : State :=
  let s0 := s.reach (cell / 128) true
  match v with
  | some x => ((s0.writePhys gang (leWrites cell 8 x.toNat dur ++ leWrites (cell + 8) 4 1 dur)).wakeFuture cell x)
  | none => s0.writePhys gang (leWrites (cell + 8) 4 0 dur)

/-! ## Effects of a gang (14 R276) -/

/-- An update of a vat-space RED, performed. -/
def State.updateVat (s : State) (core : Nat) (u : Update) : State :=
  let n := u.ty.bits / 8
  s.vatWriteLE core u.addr n (atomNew u.op u.ty (s.vatReadLE core u.addr n) u.val.toNat 0)

/-- An effect performed for a gang; none where it has to wait for room. A held insertion that no longer fits its work-list, and a held
FUTSET of a cell that has been filled since, do nothing. -/
def State.performEffect (s : State) (gang : Nat) (e : Effect) : Option State :=
  let ctx := match s.gang? gang with
    | some g => g.ctx
    | none => 0
  match e with
  | .qpush .. | .tspawn .. => s.push gang e
  | .tdone cell dur => some (s.decrement gang ctx cell dur)
  | .wlpush a vals => some ((s.wlInsert gang a vals).getD s)
  | .wlins a vals => some ((s.wlInsert gang a (newValues (s.onChip a) vals)).getD s)
  | .futset cell v dur =>
    match v with
    | some x => some (if s.futureFull cell then s else s.setFuture gang cell (some x) dur)
    | none => some (if s.waiters.any (fun w => w.obj == cell) then s else s.setFuture gang cell none dur)
  | .red us => some (us.foldl (fun s u => s.arriveUpdate gang (s.gangDie gang) u) s)
  | .redVat us => some (us.foldl (fun s u => s.updateVat ((s.gang? gang).map (fun g => g.core) |>.getD 0) u) s)

/-- The held effects performed in buffer order, as far as there is room; whether all have been. -/
def State.drainEffects (s : State) (gang : Nat) : Nat → State × Bool
  | 0 => (s, ((s.gang? gang).map (fun g => g.effects.isEmpty)).getD true)
  | n + 1 =>
    match s.gang? gang with
    | none => (s, true)
    | some g =>
      match g.effects with
      | [] => (s, true)
      | e :: rest =>
        match s.performEffect gang e with
        | none => (s, false)
        | some s1 => (s1.modGang gang (fun g => { g with effects := rest })).drainEffects gang n

/-- The gang holds its effects: REPLAY = 1 and not NR; of a pair, only the lead performs and holds any. -/
def Gang.holds (g : Gang) : Bool := g.task.replay && !g.nr

/-- A replayable gang becomes non-replayable and performs what it holds; a hold while an entry still waits for room. -/
def becomeNR (c : Iss) (s : State) (removal : Bool) : Except Stop State :=
  match s.gang? c.f.gang with
  | none => .ok s
  | some g =>
    if !g.task.replay ∨ (g.nr ∧ g.effects.isEmpty) then .ok s
    else
      let mark := fun (s : State) => s.modGang c.f.gang (fun g =>
        { g with
          nr := true, nrRemoval := g.nrRemoval || (removal && !g.nr), nrOverflow := g.nrOverflow || (!removal && !g.nr) })
      let (s1, done) := (mark s).drainEffects c.f.gang 257
      if done then .ok s1 else .error (.hold .busy ((mark c.s).drainEffects c.f.gang 257).1)

/-- An effect of a member: held while the gang is replayable, else performed. The 257th makes the gang non-replayable. `wait` links the
split where the effect has to wait for room. -/
def doEffect (c : Iss) (s : State) (e : Effect) (wait : State → State) : Except Stop (State × Bool) :=
  match s.gang? c.f.gang with
  | none => .ok (s, true)
  | some g =>
    if g.holds ∧ g.effects.length < 256 then .ok (s.modGang c.f.gang (fun g => { g with effects := g.effects ++ [e] }), true)
    else
      match becomeNR c s false with
      | .error x => .error x
      | .ok s1 =>
        match s1.performEffect c.f.gang e with
        | some s2 => .ok (s2, true)
        | none => .ok (wait s1, false)

end Sys2Proof.Machine
end

