-- ==== Sys2Proof/Machine/MemoryOps.lean ====
section
/-! DEFINITION. The memory members of OP 0x20-0x26 (04 R64-R91): addresses, checks, loads, stores, atomics, reductions, ordered append, prefetch, flush, fences, modulo registers. -/

namespace Sys2Proof.Machine

/-! ## Addresses (04 R64-R67) -/

/-- Bytes of an access (04 R70). -/
def accSize (ty : Ty) : Nat := ty.bits / 8

/-- The base register's values in the lanes: the vector base of AM 4 (a pair in the virtual space). -/
def takeBase (c : Iss) (s : State) (e : AddrExp) (sp : Bool) : Except Stop (State × (Nat → Word)) :=
  match e with
  | .lane a _ _ => takeTy c s (!sp) a
  | _ => .ok (s, fun _ => 0)

/-- The index register's values of AM 1. -/
def takeIndex (c : Iss) (s : State) (e : AddrExp) : Except Stop (State × (Nat → Word)) :=
  match e with
  | .indexed _ r _ _ => takeTy c s false r
  | _ => .ok (s, fun _ => 0)

/-- The V-class operands of an address expression, its base in A and its index in C. -/
def baseUses (e : AddrExp) (sp : Bool) : List VUse :=
  match e with
  | .lane a _ _ => [vuse a (!sp)]
  | _ => []
def indexUses (e : AddrExp) : List VUse :=
  match e with
  | .indexed _ r _ _ => [vuse r false]
  | _ => []

/-- The uniform register an address expression reads, and updates under AM 2. -/
def addrRegs (e : AddrExp) : List SReg :=
  match e with
  | .base a _ _ | .indexed a _ _ _ | .postinc a _ => [a]
  | _ => []

/-- OFF of R67. -/
def addrOff (ofs : BitVec 20) (scaled : Fin 256) (size : Nat) : Word := ofs.signExtend 64 + BitVec.ofNat 64 (scaled.val * size)

/-- A modulo register as the split sees it. -/
def Iss.readM (c : Iss) (m : MReg) : ModReg := c.grp.readM c.sp m

/-- The address of lane `l`; a uniform member uses lane 0 (04 R67). -/
def addrOf (c : Iss) (e : AddrExp) (size : Nat) (base index : Nat → Word) (l : Nat) : Word :=
  match e with
  | .base a ofs b => c.readS a + addrOff ofs b size + BitVec.ofNat 64 (l * size)
  | .indexed a _ ofs b => c.readS a + addrOff ofs b size + ((index l).truncate 32 : W32).signExtend 64 * BitVec.ofNat 64 size
  | .postinc a _ => c.readS a + BitVec.ofNat 64 (l * size)
  | .modulo m _ =>
    let r := c.readM m
    r.base.zeroExtend 64 + BitVec.ofNat 64 ((r.idx.toNat + l * size) % r.len.toNat)
  | .lane _ ofs b => base l + addrOff ofs b size

/-- The base or modulo register's update (04 R67). -/
def updateBase (c : Iss) (s : State) (e : AddrExp) (size : Nat) : State :=
  match e with
  | .postinc a inc => s.writeU c.f (.s a (c.readS a + inc.signExtend 64))
  | .modulo m inc =>
    let r := c.readM m
    let i : Int := ((r.idx.toNat : Nat) : Int) + inc.toInt * ((size : Nat) : Int)
    s.writeU c.f (.m m { r with idx := BitVec.ofNat 23 (i % ((r.len.toNat : Nat) : Int)).toNat })
  | _ => s

/-- Modulo addressing always selects vat space (04 R64). -/
def vatSpace (e : AddrExp) (sp : Bool) : Bool :=
  match e with
  | .modulo _ _ => true
  | _ => sp

/-- A modulo register whose LEN is 0 (04 R69). -/
def lenZero (c : Iss) (e : AddrExp) : Bool :=
  match e with
  | .modulo m _ => decide ((c.readM m).len = 0)
  | _ => false

/-! ## One access and its checks (04 R71) -/

/-- One access of an instruction: the lanes it stands for, the lane whose values it uses, its address. -/
structure Access where
  lanes : LaneMask
  lane : Nat
  addr : Word
  deriving DecidableEq, Repr

/-- An access that has passed its checks: the physical, or the vat, address. -/
structure Placed where
  acc : Access
  x : Xlat
  deriving DecidableEq, Repr

/-- The accesses of a per-lane member. -/
def laneAccesses (c : Iss) (addr : Nat → Word) : List Access :=
  (lanesOf c.exec).map (fun l => { lanes := laneBit l, lane := l, addr := addr l })

/-- The one access of a uniform member. -/
def uniformAccess (c : Iss) (addr : Word) : List Access := [{ lanes := c.exec, lane := 0, addr := addr }]

/-- What an instruction's accesses share: the space, the kind, the size, whether alignment is checked, whether the modulo register is
empty, and the member's own check of a translated access. -/
structure AccessMode where
  sp : Bool
  kind : AccKind
  size : Nat
  align : Bool
  empty : Bool
  own : Xlat → Option (Nat × Nat)

/-- The extent check of a vat-space access: inside the gang's allocation, outside every other group's window (04 R68, 07 R144). -/
def vatExtent (c : Iss) (a n : Nat) : Bool :=
  decide (c.gang.base ≤ a) && decide (a + n ≤ c.gang.base + c.gang.size) &&
  (if a < c.gang.appendBase then
    let slot := (a - c.gang.base) / c.gang.task.slotSize
    slot == c.f.group || (c.gang.group? slot).isNone ||
    decide (128 * c.gang.task.w + 1024 * c.gang.task.tiles ≤ (a - c.gang.base) % c.gang.task.slotSize)
   else true)

/-- The checks of R71 on one access, in order. -/
def checkAccess (c : Iss) (s : State) (m : AccessMode) (a : Access) : Except (Nat × Nat) Xlat :=
  if m.align ∧ a.addr.toNat % m.size ≠ 0 then .error (0x04, 0)
  else if m.sp then
    if m.empty then .error (0x07, 2)
    else if vatExtent c a.addr.toNat m.size then .ok { pa := a.addr.toNat, shift := 0, region := 0, dur := false }
    else .error (0x07, 1)
  else
    match s.translate (s.whoOf c.gang c.f) m.kind a.addr with
    | .error e => .error e
    | .ok x => match m.own x with
      | some e => .error e
      | none => .ok x

/-- Accesses begin translation: each takes its place in the miss table, or the instruction waits (03 R57). -/
def touch (c : Iss) (s : State) (vas : List Word) : Except Stop State :=
  match s.touchPages c.gang.core c.gang.ctx vas with
  | none => .error (.stall .table)
  | some s1 => .ok s1

/-- The trap of accesses that have begun translation: their walks stand in the miss table (03 R57). -/
def walkStop (c : Iss) (vas : List Word) (e : Stop) : Stop :=
  match e, touch c c.s vas with
  | .trap t, .ok s1 => if vas.isEmpty then .trap t else .walked s1 t
  | .trap _, .error w => w
  | e, _ => e

/-- Accesses that fail: the lowest decides cause, subcause and address, and LANES marks them all (04 R71). -/
def firstFailure (kind : AccKind) (bad : List (Access × (Nat × Nat))) : Option Stop :=
  match bad with
  | [] => none
  | (a, e) :: _ => some (fault e.1 e.2 (bad.foldl (fun m x => m ||| x.1.lanes) 0) a.addr kind.code)

/-- The addresses of the accesses that reach translation. -/
def AccessMode.translated (m : AccessMode) (as : List Access) : List Word :=
  if m.sp then [] else (as.filter (fun a => !m.align || a.addr.toNat % m.size == 0)).map (fun a => a.addr)

/-- Every access checked, or the trap. -/
def checkAccesses (c : Iss) (s : State) (m : AccessMode) (as : List Access) : Except Stop (List Placed) :=
  let rs := as.map (fun a => (a, checkAccess c s m a))
  match firstFailure m.kind (rs.filterMap (fun r => match r.2 with
      | .error e => some (r.1, e)
      | .ok _ => none)) with
  | some e => .error (walkStop c (m.translated as) e)
  | none => .ok (rs.filterMap (fun r => match r.2 with
      | .ok x => some { acc := r.1, x := x }
      | .error _ => none))

/-! ## Watchpoints (16 R301) -/

/-- An enabled watchpoint that an access of a kind overlaps. -/
def watchHit (g : Gang) (i : Nat) (reads writes : Bool) (addr : Word) (size : Nat) : Bool :=
  if h : i < 4 then
    let ctl := g.csr.wctl[i].toNat
    let n := 2 ^ bitsOf ctl 5 3
    let wa := g.csr.waddr[i].toNat / n * n
    ctl.testBit 0 && ((reads && ctl.testBit 1) || (writes && ctl.testBit 2)) &&
    decide (wa < addr.toNat + size) && decide (addr.toNat < wa + n)
  else false

/-- Trap 0x13: the overlapping lanes, the lowest one's address, the lowest matching watchpoint (16 R301). -/
def checkWatch (c : Iss) (kind : AccKind) (size : Nat) (as : List Access) : Except Stop Unit :=
  let hit := fun (i : Nat) (a : Access) => watchHit c.gang i (decide (kind = .read ∨ kind = .atomic)) kind.writes a.addr size
  let over_ := as.filter (fun a => (List.range 4).any (fun i => hit i a))
  match over_ with
  | [] => .ok ()
  | a :: _ =>
    .error (.trap
      { cause := 0x13, sub := 0, kind := kind.code, lanes := over_.foldl (fun m x => m ||| x.lanes) 0, addr := a.addr
        info := BitVec.ofNat 64 (((List.range 4).find? (fun i => over_.any (hit i))).getD 0) })

/-! ## Stalls before an access -/

/-- The virtual addresses of accesses. -/
def vasOf (ps : List Placed) : List Word := ps.map (fun p => p.acc.addr)

/-- The byte addresses of accesses. -/
def bytesOfAll (size : Nat) (ps : List Placed) : List Nat := ps.flatMap (fun p => (List.range size).map (fun i => p.x.pa + i))

/-- A register of the own window that a vat-space access meets is still to be written (04 R68, R75; 17 R318). -/
def windowPending (c : Iss) (s : State) (a : Nat) : Bool :=
  let lo := c.gang.window c.f.group
  decide (lo ≤ a) && decide (a < lo + 128 * c.gang.task.w) &&
  (let r := (a - lo) / 128
   c.grp.loads.any (fun l => l.regs.contains r) ||
   (s.core? c.gang.core).replay.any (fun e => e.gang == c.f.gang && e.group == c.f.group && e.load.regs.contains r))

/-- Vat-space accesses wait for engines, the press and pending registers. -/
def readyVat (c : Iss) (s : State) (write : Bool) (ps : List Placed) : Except Stop Unit :=
  if ps.any (fun p => s.vatBusy c.gang.core (p.x.pa / 128) write || windowPending c s p.x.pa) then .error (.stall .busy) else .ok ()

/-- A virtual access that binds or changes values now: the group's own earlier stores to these bytes are performed, owned lines are
waited for, and the lines are reached (04 R79, R83; 05 R98; 07 R147). -/
def reachNow (c : Iss) (s : State) (write : Bool) (size : Nat) (ps : List Placed) : Except Stop State :=
  let as := bytesOfAll size ps
  match s.performFor c.f.gang c.f.group as with
  | none => .error (.stall .busy)
  | some s1 =>
    if (linesOf as).any (fun l => s1.physBusy l write) then .error (.stall .busy)
    else .ok (s1.reachAll (linesOf as) write)

/-- A write that is performed now comes after what a FENCE.rel of its group has ordered before it (04 R90). -/
def afterFences (c : Iss) (s : State) : Except Stop State :=
  match s.performFences c.f.gang c.f.group with
  | none => .error (.stall .busy)
  | some s1 => .ok s1

/-- A store that is outstanding as a release comes after every earlier store of its group, and nothing waits for it (04 R78, 06 R131). -/
def fenceStores (c : Iss) (s : State) (ord : MemOrder) : State :=
  match ord with
  | .rel | .ar => s.modGroup c.f.gang c.f.group Group.putFence
  | _ => s

/-- Every earlier store of the group is performed before a release (04 R78). -/
def releaseFirst (c : Iss) (s : State) (ord : MemOrder) : Except Stop State :=
  match ord with
  | .rel | .ar => match s.performAll c.f.gang c.f.group with
    | none => .error (.stall .busy)
    | some s1 => .ok s1
  | _ => .ok s

/-- Trap 0x15: the lanes whose bytes are poisoned (subcause 1) or lost (subcause 2) (17 R314). -/
def consume (s : State) (core : Nat) (sp : Bool) (kind : AccKind) (size : Nat) (ps : List Placed) : Except Stop Unit :=
  let sub := fun (p : Placed) =>
    if sp then (if s.vatPoisoned core p.x.pa then 1 else 0)
    else if (List.range size).any (fun i => s.poison.contains ((p.x.pa + i) / 64)) then 1
    else if s.lost.contains (p.x.pa / 128) then 2 else 0
  match firstFailure kind (ps.filterMap (fun p => if sub p = 0 then none else some (p.acc, (0x15, sub p)))) with
  | some e => .error e
  | none => .ok ()

/-- A counter that would pass 63 stalls issue (04 R75). -/
def roomFor (n : Nat) : Except Stop Unit := if n < 63 then .ok () else .error (.stall .busy)

/-! ## Loads: values and destinations (04 R70, R72, R75) -/

/-- A loaded value in a lane. -/
def loadLane (ty : Ty) (n : Nat) : Word :=
  match ty with
  | .i8 | .i16 => BitVec.ofNat 64 (wrapInt 32 (signedOf ty.bits n))
  | _ => BitVec.ofNat 64 n

/-- A load of the group is outstanding. -/
def addLoad (c : Iss) (s : State) (l : PendLoad) : State :=
  s.modGroup c.f.gang c.f.group (fun g => { g with ldc := g.ldc + 1, loads := g.loads ++ [l] })

/-- A vector destination: registers and a queue's entry are written at completion, a port's line is pushed. The register of the ring that a
queue's entry is waits as any other destination (07 R145). -/
def finishLoad (c : Iss) (s : State) (d : VOp) (wide : Bool) (vals : Nat → Word) : Except Stop State :=
  let (s0, v) := flipValues c s vals
  let none_ : PendLoad := { lanes := c.sp.lanes, regs := [], vals := [], uni := none, carry := none, tile := [], sync := none }
  match d with
  | .k k => do
    let (s1, place) ← reserveCarry c s0 k
    .ok (addLoad c s1
      { none_ with
        regs := [s1.carryReg c.f.gang c.f.group k place], vals := (lanesOf c.exec).map (fun l => (0, l, (v l).truncate 32))
        carry := some (k.val, place) })
  | .v n =>
    if c.grp.isPort n.val ∧ ¬ wide then do
      let s1 ← pushPort c s0 (n.val - 248) (fun l => (v l).truncate 32)
      .ok (addLoad c s1 none_)
    else
      let vals := destVals d wide c.exec v
      .ok (addLoad c s0 { none_ with regs := ((vdest d wide).regs), vals := vals })

/-- A uniform destination: the value is bound at issue, and readers of it wait for completion. -/
def finishUniform (c : Iss) (s : State) (d : SReg) (v : Word) : State :=
  let (s0, w) := flipUniform c s v
  addLoad c (s0.writeU c.f (.s d w))
    { lanes := c.sp.lanes, regs := [], vals := [], uni := some (.s d w), carry := none, tile := [], sync := none }

/-- The value of a lane among the values of the accesses. -/
def valueAt (ps : List Placed) (vals : List Word) (l : Nat) : Word :=
  match (ps.zip vals).find? (fun x => x.1.acc.lane == l) with
  | some x => x.2
  | none => 0

/-- The values the accesses read. -/
def readValues (s : State) (core : Nat) (sp : Bool) (size : Nat) (ps : List Placed) : List Word :=
  ps.map (fun p => BitVec.ofNat 64 (if sp then s.vatReadLE core p.x.pa size else s.mem.readLE p.x.pa size))

/-- A load of a host line on an RSH page: the copy in the core's vat L1 answers while it is held, else memory does. Whether the line is
held, and stays held, is open (19 R347; log 106). -/
def State.hostLoad (s : State) (core line : Nat) : State × List Byte :=
  let (s1, b) := s.drawBytes 1
  match (s.core? core).hostLines.find? (fun h => h.1 == line), (b.headD 0).getLsbD 0 with
  | some h, true => (s1, h.2)
  | _, _ =>
    let bs := s.mem.readBytes (128 * line) 128
    (s1.modCore core (fun c =>
      { c with
        hostLines := (if (b.headD 0).getLsbD 1 then [(line, bs)] else []) ++ c.hostLines.filter (fun h => h.1 ≠ line) }), bs)

/-- The host lines on RSH pages that accesses read. -/
def hostLinesOf (ps : List Placed) : List Nat := linesOf ((ps.filter (fun p => p.x.region == 1 && isHost p.x.pa)).map (fun p => p.x.pa))

/-- The values of virtual loads. -/
def loadValues (s : State) (core size : Nat) (ps : List Placed) : State × List Word :=
  let (s1, copies) := (hostLinesOf ps).foldl (fun (x : State × List (Nat × List Byte)) l =>
    ((x.1.hostLoad core l).1, (l, (x.1.hostLoad core l).2) :: x.2)) (s, [])
  (s1, (ps.zip (readValues s1 core false size ps)).map (fun p =>
    match (if p.1.x.region = 1 then copies.find? (fun h => h.1 == p.1.x.pa / 128) else none) with
    | some h => BitVec.ofNat 64 (fieldAt h.2 (p.1.x.pa % 128) size)
    | none => p.2))

/-- No check of its own. -/
def noOwn : Xlat → Option (Nat × Nat) := fun _ => none

/-- The shared body of LD and LDU: checks, then the values, then the destination. Where a uniform member's destination is the base register
of AM 2, the update comes first and the loaded value remains (log 104). -/
def loadBody (c : Iss) (s : State) (e : AddrExp) (spBit : Bool) (size : Nat) (as : List Access)
    (finish : List Placed → List Word → State → Except Stop State) : Except Stop State := do
  let sp := vatSpace e spBit
  let ps ← checkAccesses c s { sp := sp, kind := .read, size := size, align := true, empty := lenZero c e, own := noOwn } as
  roomFor c.grp.ldc
  if sp then
    readyVat c s false ps
    consume s c.gang.core true .read size ps
    finish ps (readValues s c.gang.core true size ps) (updateBase c s e size)
  else
    checkWatch c .read size as
    let s1 ← touch c s (vasOf ps)
    pairLoad c s1 (fun s => do
        let s2 ← reachNow c s false size ps
        consume s2 c.gang.core false .read size ps
        .ok (loadValues s2 c.gang.core size ps))
      (fun vals s => finish ps vals (updateBase c s e size))

/-- LD (04 R72). -/
def loadVec (i : Instr) (x : LdI) (s : State) : Host.Outcome State Fault Refusal :=
  let w := x.ty.is64
  issue i { vs := baseUses x.addr x.sp ++ indexUses x.addr ++ [vdest x.d w], ss := addrRegs x.addr, ps := guardPreds x.g, g := x.g }
    (fun c => do
      let (s1, base) ← takeBase c c.s x.addr x.sp
      let (s2, index) ← takeIndex c s1 x.addr
      let as := laneAccesses c (addrOf c x.addr (accSize x.ty) base index)
      loadBody c s2 x.addr x.sp (accSize x.ty) as (fun ps vals s =>
        finishLoad c s x.d w (fun l => loadLane x.ty (valueAt ps vals l).toNat))) s

/-- The base form of LD and ST: an .n32 access at s[A] with B elements of offset (02 R23, 04 R66). -/
def Base3.toLd (x : Base3) : LdI :=
  { g := .none, ty := .n32, ord := .plain, scope := .dflt, d := vreg x.d, addr := .base (sreg x.a) 0 x.b, sp := false, nt := false }

def execLdBase (x : Base3) (s : State) : Host.Outcome State Fault Refusal := loadVec (.ldBase x) (Base3.toLd x) s
def execLdExt (x : LdI) (s : State) : Host.Outcome State Fault Refusal := loadVec (.ldExt x) x s

/-- LDU (04 R74). -/
def execLdu (x : LdUI) (s : State) : Host.Outcome State Fault Refusal :=
  issue (.ldu x) { ss := x.d :: addrRegs x.addr }
    (fun c =>
      let as := uniformAccess c (addrOf c x.addr (accSize x.ty) (fun _ => 0) (fun _ => 0) 0)
      loadBody c c.s x.addr x.sp (accSize x.ty) as (fun ps vals s =>
        .ok (finishUniform c s x.d (extendTy x.ty (valueAt ps vals 0).toNat)))) s

/-! ## Stores (04 R73, R74) -/

/-- The bytes that accesses store, in lane order. -/
def storeWrites (size : Nat) (ps : List Placed) (v : Nat → Word) : List ByteWrite :=
  ps.flatMap (fun p => leWrites p.x.pa size (v p.acc.lane).toNat p.x.dur)

/-- Bytes stored into the core's vat, in lane order; a line written whole loses its poison (17 R313). -/
def State.storeVat (s : State) (core : Nat) (ws : List ByteWrite) : State :=
  let s1 := ws.foldl (fun (s : State) w => s.vatWrite core w.addr w.val) s
  { s1 with vatPoison := s1.vatPoison.filter (fun l => !(decide (l / 2 ^ 16 = core) && covers ws (128 * l - vatKey core 0) 128)) }

/-- A store of the group is outstanding. -/
def addStore (c : Iss) (s : State) (p : PendStore) : State :=
  s.modGroup c.f.gang c.f.group (fun g => { g with stc := g.stc + 1, stores := g.stores ++ [p] })

/-- The shared body of ST and STU. A vat-space store is performed at once. -/
def storeBody (c : Iss) (s : State) (e : AddrExp) (spBit : Bool) (ord : MemOrder) (size : Nat) (mask : LaneMask) (as : List Access)
    (v : Nat → Word) : Except Stop State := do
  let sp := vatSpace e spBit
  let ps ← checkAccesses c s { sp := sp, kind := .write, size := size, align := true, empty := lenZero c e, own := noOwn } as
  roomFor c.grp.stc
  let sig := storeSig mask (as.map (fun a => (a.addr, size, v a.lane)))
  if sp then
    readyVat c s true ps
    let s0 ← afterFences c s
    let s1 ← releaseFirst c s0 ord
    let s2 ← pairVat c s1 sig
    .ok (addStore c (updateBase c (s2.storeVat c.gang.core (storeWrites size ps v)) e size) (.bytes c.exec [] []))
  else
    checkWatch c .write size as
    let s1 ← touch c s (vasOf ps)
    pairRun c s1 sig
      (fun s => .ok (addStore c (fenceStores c s ord) (.bytes c.exec (storeWrites size ps v) []), some []))
      (fun _ s => .ok (updateBase c s e size))

/-- ST (04 R73): the data operand D is read last. -/
def storeVec (i : Instr) (x : LdI) (s : State) : Host.Outcome State Fault Refusal :=
  let w := x.ty.is64
  issue i { vs := baseUses x.addr x.sp ++ indexUses x.addr ++ [vuse x.d w], ss := addrRegs x.addr, ps := guardPreds x.g, g := x.g }
    (fun c => do
      let (s1, base) ← takeBase c c.s x.addr x.sp
      let (s2, index) ← takeIndex c s1 x.addr
      let (s3, v) ← takeTy c s2 w x.d
      storeBody c s3 x.addr x.sp x.ord (accSize x.ty) c.exec
        (laneAccesses c (addrOf c x.addr (accSize x.ty) base index)) v) s

def execStBase (x : Base3) (s : State) : Host.Outcome State Fault Refusal := storeVec (.stBase x) (Base3.toLd x) s
def execStExt (x : LdI) (s : State) : Host.Outcome State Fault Refusal := storeVec (.stExt x) x s

/-- STU (04 R74). -/
def execStu (x : LdUI) (s : State) : Host.Outcome State Fault Refusal :=
  issue (.stu x) { ss := x.d :: addrRegs x.addr }
    (fun c => storeBody c c.s x.addr x.sp x.ord (accSize x.ty) uniformMask
      (uniformAccess c (addrOf c x.addr (accSize x.ty) (fun _ => 0) (fun _ => 0) 0)) (fun _ => c.readS x.d)) s

/-! ## Atomics (04 R80-R82) -/

/-- An atomic on host memory that PCIe does not carry (04 R82), or for which the AtomicOp feature is not accepted (19 R350; DESIGN CHOICE,
log 105). -/
def hostOwn (c : Iss) (op : AtomOp) (ty : Ty) : Xlat → Option (Nat × Nat) := fun x =>
  if isHost x.pa ∧ !(hostAtomic op ty && c.s.feature c.gang.ctx 5) then some (0x06, 5) else none

/-- The atomics of an instruction in lane order: each sees the result of the one before (04 R79). -/
def atomFold (gang core : Nat) (sp : Bool) (op : AtomOp) (ty : Ty) (v cmp : Nat → Word) :
    List Placed → State → State × List Word
  | [], s => (s, [])
  | p :: ps, s =>
    let n := accSize ty
    let old := if sp then s.vatReadLE core p.x.pa n else s.mem.readLE p.x.pa n
    let new := atomNew op ty old (v p.acc.lane).toNat (cmp p.acc.lane).toNat
    let s1 := if sp then s.vatWriteLE core p.x.pa n new else (s.rawWrite (leWrites p.x.pa n new p.x.dur)).durPend gang p.x.dur
    let (s2, olds) := atomFold gang core sp op ty v cmp ps s1
    (s2, BitVec.ofNat 64 old :: olds)

/-- The shared body of ATOM and ATOMU. -/
def atomBody (c : Iss) (s : State) (e : AddrExp) (spBit : Bool) (op : AtomOp) (ty : Ty) (ord : MemOrder) (mask : LaneMask)
    (as : List Access) (v cmp : Nat → Word) (finish : List Placed → List Word → State → Except Stop State) : Except Stop State := do
  let size := accSize ty
  let sp := vatSpace e spBit
  let ps ← checkAccesses c s
    { sp := sp, kind := .atomic, size := size, align := true, empty := lenZero c e, own := hostOwn c op ty } as
  roomFor c.grp.ldc
  let sig := atomSig mask op ty (as.map (fun a => (a.addr, v a.lane, cmp a.lane)))
  if sp then
    readyVat c s true ps
    consume s c.gang.core true .atomic size ps
    let s0 ← afterFences c s
    let s1 ← releaseFirst c s0 ord
    let s2 ← becomeNR c s1 true
    let s3 ← pairVat c s2 sig
    let (s4, olds) := atomFold c.f.gang c.gang.core true op ty v cmp ps s3
    finish ps olds (updateBase c s4 e size)
  else
    checkWatch c .atomic size as
    let s1 ← touch c s (vasOf ps)
    pairRun c s1 sig
      (fun s => do
        let s1 ← afterFences c s
        let s2 ← releaseFirst c s1 ord
        let s3 ← reachNow c s2 true size ps
        consume s3 c.gang.core false .atomic size ps
        let s4 ← becomeNR c s3 true
        let (s5, olds) := atomFold c.f.gang c.gang.core false op ty v cmp ps s4
        .ok (s5, some olds))
      (fun olds s => finish ps olds (updateBase c s e size))

/-- ATOM (04 R81): operands A, B, C, then the comparand in D. -/
def execAtom (x : AtomI) (s : State) : Host.Outcome State Fault Refusal :=
  let w := x.ty.is64
  issue (.atom x)
    { vs := baseUses x.addr x.sp ++ vsrcUses x.b w ++ indexUses x.addr ++ [vdest x.d w], ss := addrRegs x.addr, ps := guardPreds x.g
      g := x.g }
    (fun c => do
      let (s1, base) ← takeBase c c.s x.addr x.sp
      let (s2, v) ← takeSrc c s1 w x.b
      let (s3, index) ← takeIndex c s2 x.addr
      let (s4, cmp) ← if x.op = .cas then takeTy c s3 w x.d else .ok (s3, fun _ => 0)
      atomBody c s4 x.addr x.sp x.op x.ty x.ord c.exec (laneAccesses c (addrOf c x.addr (accSize x.ty) base index)) v cmp
        (fun ps olds s => finishLoad c s x.d w (valueAt ps olds))) s

/-- ATOMU (04 R81). -/
def execAtomu (x : AtomUI) (s : State) : Host.Outcome State Fault Refusal :=
  issue (.atomu x) { ss := x.d :: (addrRegs x.addr ++ usrcRegs x.b) }
    (fun c => atomBody c c.s x.addr x.sp x.op x.ty x.ord uniformMask
      (uniformAccess c (addrOf c x.addr (accSize x.ty) (fun _ => 0) (fun _ => 0) 0)) (fun _ => c.usrc x.b)
      (fun _ => if x.op = .cas then c.readS x.d else 0)
      (fun ps olds s => .ok (finishUniform c s x.d (extendTy x.ty (valueAt ps olds 0).toNat)))) s

/-! ## RED (04 R83, 14 R276) -/

/-- The updates of a RED in lane order. -/
def redUpdates (op : AtomOp) (ty : Ty) (ps : List Placed) (v : Nat → Word) : List Update :=
  ps.map (fun p => { addr := p.x.pa, op := op, ty := ty, val := v p.acc.lane, dur := p.x.dur, bad := false, chunk := 0 })

/-- A RED takes an entry of its gang's effect buffer (14 R276); each copy of a pair performs its own vat-space RED at once (log 103). -/
def Iss.holdsRed (c : Iss) (sp : Bool) : Bool := c.gang.holds && decide (c.gang.effects.length < 256) && !(sp && c.gang.pair.isSome)

def execRed (x : RedI) (s : State) : Host.Outcome State Fault Refusal :=
  let w := x.ty.is64
  let size := accSize x.ty
  issue (.red x)
    { vs := baseUses x.addr x.sp ++ vsrcUses x.b w ++ indexUses x.addr, ss := addrRegs x.addr, ps := guardPreds x.g, g := x.g }
    (fun c => do
      let (s1, base) ← takeBase c c.s x.addr x.sp
      let (s2, v) ← takeSrc c s1 w x.b
      let (s3, index) ← takeIndex c s2 x.addr
      let as := laneAccesses c (addrOf c x.addr size base index)
      let sp := vatSpace x.addr x.sp
      let ps ← checkAccesses c s3
        { sp := sp, kind := .atomic, size := size, align := true, empty := lenZero c x.addr, own := hostOwn c x.op x.ty } as
      roomFor c.grp.stc
      let sig := atomSig c.exec x.op x.ty (as.map (fun a => (a.addr, v a.lane, 0)))
      let us := redUpdates x.op x.ty ps v
      let hold := fun (s : State) (e : Effect) => s.modGang c.f.gang (fun g => { g with effects := g.effects ++ [e] })
      let full := fun (s : State) => if sp && c.gang.pair.isSome then .ok s else becomeNR c s false
      if sp then
        readyVat c s3 true ps
        let s4 ← afterFences c s3
        let s5 ← releaseFirst c s4 x.ord
        let s6 ← pairVat c s5 sig
        if c.holdsRed true then .ok (updateBase c (hold s6 (.redVat us)) x.addr size)
        else do
          let s7 ← full s6
          let (s8, _) := atomFold c.f.gang c.gang.core true x.op x.ty v (fun _ => 0) ps s7
          .ok (addStore c (updateBase c s8 x.addr size) (.red c.exec []))
      else
        checkWatch c .atomic size as
        let s4 ← touch c s3 (vasOf ps)
        pairRun c s4 sig
          (fun s => do
            if c.holdsRed false then
              let s5 ← releaseFirst c s x.ord
              .ok (hold s5 (.red us), some [])
            else do
              let s5 ← full s
              .ok (addStore c (fenceStores c s5 x.ord) (.red c.exec us), some []))
          (fun _ s => .ok (updateBase c s x.addr size))) s

/-! ## OAPP (04 R84-R87) -/

/-- The threads a place of the sequence holds. -/
def Gang.weight (g : Gang) : SeqItem → Nat
  | .lane _ _ => 1
  | .pending k => match g.pend.find? (fun p => p.seq == k) with
    | some p => p.last + 1 - p.first
    | none => 0
  | .ended _ => 0

/-- The threads before a place of the sequence, pending ones included (13 R248). -/
def Gang.rank (g : Gang) (x : SeqItem) : Nat :=
  ((g.seq.take (g.seq.findIdx (fun y => decide (y = x)))).map g.weight).foldl (· + ·) 0

/-- The order of places in the sequence. -/
def Gang.placeOf (g : Gang) (x : SeqItem) : Nat := g.seq.findIdx (fun y => decide (y = x))

/-- The 64-byte lines of the fork-spill area that pending records and snapshots use (13 R252). -/
def Gang.recordLines (g : Gang) : List Nat :=
  (g.pend.flatMap (fun (p : PendRec) => (List.range ((p.off % 64 + roundUp (16 + 4 * p.carry) 16 + 63) / 64)).map (fun i => p.off / 64 + i)) ++
   g.snaps.flatMap (fun (n : Snapshot) => (List.range 64).map (fun i => 64 * n.off + i))).eraseDups

/-- Spill lines in use by appended elements (04 R86). -/
def Gang.spillList (g : Gang) : List Nat := g.channels.toList.flatMap (fun ch => ch.waiting.filterMap (fun e => e.line))

def Gang.spillLines (g : Gang) : Nat := g.spillList.length

/-- Free 64-byte lines of the area. -/
def Gang.freeLines (g : Gang) : Nat := g.spillSize / 64 - g.recordLines.length - g.spillLines

/-- The append buffer of a channel: 4 KiB, where the gang has the channel. -/
def Gang.appendRoom (g : Gang) (ch : Nat) : Nat := if g.task.chan.testBit ch then 4096 else 0

/-- Bytes of the waiting elements that lie in the buffer. -/
def bufferBytes (es : List AppendElem) : Nat :=
  ((es.filter (fun e => e.line.isNone)).map (fun e => e.size)).foldl (· + ·) 0

/-- The lowest line of the area that neither records nor elements use. -/
def Gang.freeLine (g : Gang) (es : List AppendElem) : Nat :=
  let used := g.recordLines ++ g.spillList ++ es.filterMap (fun e => e.line)
  match (0 :: used.map (· + 1)).filter (fun i => !used.contains i) with
  | [] => 0
  | i :: is => is.foldl min i

/-- Waiting elements spill, highest rank first, until the buffer holds the rest (04 R86). -/
def spillAppend (g : Gang) (room : Nat) : Nat → List AppendElem → List AppendElem
  | 0, es => es
  | n + 1, es =>
    if bufferBytes es ≤ room then es
    else
      let inBuf := es.filter (fun e => e.line.isNone)
      match inBuf with
      | [] => es
      | x :: xs =>
        let top := xs.foldl (fun b e => if g.placeOf b.place < g.placeOf e.place then e else b) x
        spillAppend g room n (replaceFirst (fun e => decide (e = top)) { top with line := some (g.freeLine es) } es)

def Gang.channel (g : Gang) (ch : Fin 4) : Channel := g.channels[ch.val]

def Gang.setChannel (g : Gang) (ch : Fin 4) (x : Channel) : Gang := { g with channels := g.channels.set ch.val x }

/-- The elements of an OAPP join the channel; none where neither buffer nor spill area has room. -/
def Gang.append (g : Gang) (ch : Fin 4) (es : List AppendElem) : Option Gang :=
  let c := g.channel ch
  let all := spillAppend g (g.appendRoom ch.val) (c.waiting.length + es.length) (c.waiting ++ es)
  let more := (all.filterMap (fun e => e.line)).length - (c.waiting.filterMap (fun e => e.line)).length
  if bufferBytes all ≤ g.appendRoom ch.val ∧ more ≤ g.freeLines then some (g.setChannel ch { c with waiting := all }) else none

/-- The 4 KiB append buffer of a channel in the vat (07 R140). -/
def Gang.bufferAt (g : Gang) (ch : Nat) : Nat := g.appendBase + 4096 * ((List.range ch).filter (fun i => g.task.chan.testBit i)).length

/-- Where each waiting element stands: packed in the buffer in the order of appending, or in its spill line (log 102). -/
def elemPlaces (g : Gang) (at_ : Nat) : List AppendElem → List (AppendElem × Loc)
  | [] => []
  | e :: es =>
    match e.line with
    | some l => (e, .phys (g.spillPhys + 64 * l)) :: elemPlaces g at_ es
    | none => (e, .vat g.core at_) :: elemPlaces g (at_ + e.size) es

def Gang.elems (g : Gang) (ch : Fin 4) : List (AppendElem × Loc) := elemPlaces g (g.bufferAt ch.val) (g.channel ch).waiting

/-- The position key in a spill line (log 102). -/
def SeqItem.key : SeqItem → Nat
  | .lane slot l => 32 * slot + l
  | .pending k => 2 ^ 32 + k
  | .ended m => 2 ^ 33 + m

/-- The waiting elements of a channel take the bytes that stand in the buffer and the spill lines. -/
def State.liftElems (s : State) (gang : Nat) (ch : Fin 4) : State :=
  s.modGang gang (fun g => g.setChannel ch { g.channel ch with
    waiting := (g.elems ch).map (fun e =>
      { e.1 with val := BitVec.ofNat 64 (match e.2 with
          | .vat c a => s.vatReadLE c a e.1.size
          | .phys a => s.mem.readLE a e.1.size) }) })

/-- The waiting elements of a channel are written to the buffer and the spill lines (04 R86). -/
def State.layElems (s : State) (gang : Nat) (ch : Fin 4) : State :=
  match s.gang? gang with
  | none => s
  | some g => (g.elems ch).foldl (fun (s : State) e => match e.2 with
      | .vat c a => s.vatWriteLE c a e.1.size e.1.val.toNat
      | .phys a =>
        { s with mem := s.mem.writeBytes a ((leBytes e.1.size e.1.val.toNat ++ zeroBytes (8 - e.1.size)) ++ leBytes 8 e.1.place.key) }) s

def execOapp (x : OAppI) (s : State) : Host.Outcome State Fault Refusal :=
  let w := x.ty.is64
  let size := accSize x.ty
  issue (.oapp x) { vs := [vuse x.d w], ss := [x.a] }
    (fun c => do
      let (s1, v) ← takeTy c c.s w x.d
      let addr := c.readS x.a + x.ofs.signExtend 64
      let as := laneAccesses c (fun _ => addr)
      let ps ← checkAccesses c s1 { sp := false, kind := .write, size := size, align := true, empty := false, own := noOwn } as
      let ch := c.gang.channel x.ch
      let again := (lanesOf c.exec).filter (fun l => ch.done.contains (c.f.group, l))
      if !again.isEmpty then .error (fault 0x0B 2 (maskOf again) addr 2)
      else
        checkWatch c .write size as
        let s2 ← touch c s1 (vasOf ps)
        let es := (lanesOf c.exec).map (fun l =>
          ({ place := .lane c.f.group l, base := addr.toNat, size := size, val := v l, line := none } : AppendElem))
        match c.gang.append x.ch es with
        | none => .error (fault 0x0B 1 c.exec)
        | some _ =>
          pairRun c s2 (storeSig c.exec (as.map (fun a => (a.addr, size, v a.lane))))
            (fun s => do
              let s3 ← afterFences c s
              .ok ((((s3.liftElems c.f.gang x.ch).modGang c.f.gang (fun g => (g.append x.ch es).getD g)).layElems c.f.gang x.ch), some []))
            (fun _ s => .ok (s.modGang c.f.gang (fun g =>
              g.setChannel x.ch { g.channel x.ch with
                done := (g.channel x.ch).done ++ (lanesOf c.exec).map (fun l => (c.f.group, l)) })))) s

/-! ## PREF and CFLUSH (04 R88, R89) -/

/-- PREF changes no architectural state (04 R88). -/
def execPref (x : LineI) (s : State) : Host.Outcome State Fault Refusal :=
  issue (.pref x)
    { vs := baseUses x.addr false ++ indexUses x.addr, ss := addrRegs x.addr, ps := guardPreds x.g, g := x.g }
    (fun c => do
      let (s1, _) ← takeBase c c.s x.addr false
      let (s2, _) ← takeIndex c s1 x.addr
      .ok s2) s

/-- The cores whose L1 copies of host lines a CFLUSH removes: the issuing one, or from .dev up every core (04 R89, 19 R347). -/
def flushes (scope : Scope) (core k : Nat) : Bool :=
  match scope with
  | .grp | .gang | .core | .die => k == core
  | _ => true

def State.dropHost (s : State) (scope : Scope) (core : Nat) (lines : List Nat) : State :=
  { s with cores := (enumFrom 0 s.cores).map (fun k =>
      if flushes scope core k.1 then { k.2 with hostLines := k.2.hostLines.filter (fun h => !lines.contains h.1) } else k.2) }

/-- CFLUSH (04 R89): the flush is outstanding until every line has been written back. -/
def execCflush (x : LineI) (s : State) : Host.Outcome State Fault Refusal :=
  issue (.cflush x)
    { vs := baseUses x.addr false ++ indexUses x.addr, ss := addrRegs x.addr, ps := guardPreds x.g, g := x.g }
    (fun c => do
      let (s1, base) ← takeBase c c.s x.addr false
      let (s2, index) ← takeIndex c s1 x.addr
      let as := laneAccesses c (addrOf c x.addr 128 base index)
      let ps ← checkAccesses c s2 { sp := false, kind := .read, size := 128, align := false, empty := false, own := noOwn } as
      roomFor c.grp.stc
      let s3 ← touch c s2 (vasOf ps)
      let lines := (ps.map (fun p => p.x.pa / 128)).eraseDups
      .ok (addStore c (s3.dropHost x.scope c.gang.core (lines.filter (fun l => isHost (128 * l)))) (.flush c.exec lines))) s

/-! ## FENCE, IFENCE, SETMOD (04 R90, R91, R69) -/

/-- Every performed write is durable; lines in U with DUR updates are merged first (06 R135). -/
def State.makeDurable (s : State) : State :=
  let lines := ((s.partials.filter (fun p => p.dur)).map (fun p => p.addr / 128)).eraseDups
  { lines.foldl State.mergeLine s with undurable := [] }

/-- FENCE (04 R90, 06 R131): FENCE.ar waits until the stores are performed, FENCE.rel only puts them before every later write, FENCE.rel.rec
waits until they are durable; loads bind their values at issue, so FENCE.acq has nothing to hold back. -/
def execFence (x : FenceI) (s : State) : Host.Outcome State Fault Refusal :=
  issue (.fence x) {}
    (fun c =>
      if x.scope = .recov then do
        let s1 ← releaseFirst c c.s .ar
        .ok s1.makeDurable
      else match x.ord with
        | .rel => .ok (fenceStores c c.s .rel)
        | .acq => .ok c.s
        | _ => releaseFirst c c.s .ar) s

/-- IFENCE (04 R91): waits until STC is 0; fetch reads memory as it stands. -/
def execIfence (s : State) : Host.Outcome State Fault Refusal :=
  issue .ifence {} (fun c => if c.grp.stc = 0 then .ok c.s else .error (.stall .busy)) s

/-- SETMOD (04 R69). -/
def execSetmod (x : SetModI) (s : State) : Host.Outcome State Fault Refusal :=
  issue (.setmod x) { ss := x.a :: usrcRegs x.b }
    (fun c =>
      let base := (c.readS x.a).toNat
      let len := (c.usrc x.b).toNat
      if base % 8 ≠ 0 ∨ len % 8 ≠ 0 ∨ len = 0 ∨ len ≤ x.idx.toNat then .error (fault 0x07 2 c.exec)
      else if c.gang.base + c.gang.size < base + len ∨ base < c.gang.base then .error (fault 0x07 1 c.exec)
      else .ok (c.s.writeU c.f
        (.m x.d { base := BitVec.ofNat 23 base, len := BitVec.ofNat 24 len, idx := BitVec.ofNat 23 x.idx.toNat }))) s

end Sys2Proof.Machine
end

