-- ==== Sys2Proof/Machine/Deckle.lean ====
section
/-! DEFINITION. The deckle: the ordered-append epochs it keeps apart (04 R85-R87), threads moving between lanes, BECOME's new run and its pending records (13 R250-R252), materialisation (R253), compaction (R257), and the barrier of GSYNC and RPMARK (R256, 18 R330). -/

namespace Sys2Proof.Machine

/-! ## Writing appended elements (04 R85, R87) -/

/-- Every lower-ranked live or pending thread has appended on the channel, or has ended. -/
def Gang.appendDue (g : Gang) (ch : Fin 4) (e : AppendElem) : Bool :=
  (g.seq.take (g.placeOf e.place)).all (fun x => match x with
    | .lane slot l => (g.channel ch).done.contains (slot, l)
    | .pending k => match g.pend.find? (fun p => p.seq == k) with
      | some p => p.appended.testBit ch.val
      | none => true
    | .ended _ => true)

/-- The waiting element of lowest rank. -/
def Gang.firstElem (g : Gang) (ch : Fin 4) : Option AppendElem :=
  match (g.channel ch).waiting with
  | [] => none
  | x :: xs => some (xs.foldl (fun b e => if g.placeOf e.place < g.placeOf b.place then e else b) x)

/-- An element is written at its position, or fails its check there and leaves a hole; none while its line has to be waited for. The elements
take their values from the buffer and the spill area, and those that still wait stand there again (04 R86). -/
def State.writeElem (s0 : State) (gang : Nat) (ch : Fin 4) : Option State :=
  let s := s0.liftElems gang ch
  match s.gang? gang with
  | none => some s0
  | some g =>
    match g.firstElem ch with
    | none => some s0
    | some e =>
      let c := g.channel ch
      let va := BitVec.ofNat 64 (e.base + c.written * e.size)
      let rest := c.waiting.erase e
      match s.translate { ctx := g.ctx, die := some (s.part.dieOf g.core), hp := false, ezden := false } .write va with
      | .error (cause, sub) =>
        some ((s.modGang gang (fun g => g.setChannel ch
          { c with
            waiting := rest, written := c.written + 1, holes := c.holes + 1
            failed := c.failed ++ [(c.written, cause, sub, va)] })).layElems gang ch)
      | .ok x =>
        if s.physBusy (x.pa / 128) true then none
        else
          some (((s.writePhys gang (leWrites x.pa e.size e.val.toNat x.dur)).modGang gang (fun g => g.setChannel ch
            { c with waiting := rest, written := c.written + 1 })).layElems gang ch)

/-- All waiting elements of a channel, in rank order. -/
def State.writeElems (s : State) (gang : Nat) (ch : Fin 4) : Nat → Option State
  | 0 => some s
  | n + 1 =>
    match s.writeElem gang ch with
    | none => none
    | some s1 => s1.writeElems gang ch n

/-- All waiting elements of the gang. -/
def State.writeAppends (s : State) (gang : Nat) : Option State :=
  (List.range 4).foldl (fun o i =>
    match o with
    | none => none
    | some s1 => s1.writeElems gang (Fin.ofNat 4 i)
        (match s1.gang? gang with
         | some g => (g.channel (Fin.ofNat 4 i)).waiting.length
         | none => 0)) (some s)

/-- The kept failure of lowest position, of the lowest channel. -/
def Gang.appendFailure (g : Gang) : Option (Nat × Nat × Word) :=
  (g.channels.toList.findSome? (fun c => c.failed.head?)).map (fun x => (x.2.1, x.2.2.1, x.2.2.2))

def Gang.clearFailures (g : Gang) : Gang := { g with channels := g.channels.map (fun c => { c with failed := [] }) }

/-- The epochs of all channels close, and new ones open. -/
def Gang.closeEpochs (g : Gang) : Gang :=
  { g with
    channels := g.channels.map (fun c => { c with done := [], waiting := [], written := 0, failed := [] })
    seq := g.seq.filter (fun x => match x with
      | .ended _ => false
      | _ => true) }

/-! ## Slots, groups, places -/

/-- The free group slots of the gang, lowest first (07 R141). -/
def Gang.freeSlots (g : Gang) : List Nat := (List.range g.task.budget).filter (fun i => (g.group? i).isNone)

/-- The live threads of the gang. -/
def Gang.liveCount (g : Gang) : Nat :=
  (g.seq.filter (fun x => match x with
    | .lane _ _ => true
    | _ => false)).length

/-- The lane budget L. -/
def Gang.lanes (g : Gang) : Nat := 32 * g.task.budget

/-- The pending threads of the gang. -/
def Gang.pendingCount (g : Gang) : Nat := (g.pend.map (fun p => p.last + 1 - p.first)).foldl (· + ·) 0

/-- A group retires: its ports are unbound, its slot is free. -/
def State.retireGroup (s : State) (gang slot : Nat) : State :=
  match s.gang? gang, s.group? gang slot with
  | some g, some x =>
    let es := x.ports.toList.filterMap (fun p => p.map (fun q => q.engine))
    (es.foldl (fun s e => s.putStream g e { s.streamOf g e with port := none }) s).modGang gang
      (fun g => { g with groups := g.groups.filter (fun y => y.slot ≠ slot) })
  | _, _ => s

/-- A group can retire now: its tile operations are done, its stores can be performed. -/
def State.settleStores (s : State) (gang slot : Nat) : Option State :=
  match s.group? gang slot with
  | none => some s
  | some x => if x.tiles.isEmpty then s.performAll gang slot else none

/-- Where a thread's registers come from: nothing, all of a lane's, or the first `carry` of a lane's. -/
inductive Source where
  | whole (slot lane : Nat)
  | carried (slot lane carry : Nat)
  | values (vs : List W32)
  deriving DecidableEq, Repr

/-- The registers of one thread arrive in a lane, read from the state `old`. -/
def State.putThread (s old : State) (gang w : Nat) (src : Source) (slot lane : Nat) : State :=
  (List.range w).foldl (fun s r =>
    s.setLane gang slot r lane (match src with
      | .whole a l => old.lane gang a r l
      | .carried a l c => if r < c then old.lane gang a r l else 0
      | .values vs => vs.getD r 0)) s

/-- The predicates p1-p7 a thread arrives with. -/
def predBit (old : State) (gang : Nat) (src : Source) (i : Nat) : Bool :=
  match src with
  | .whole a l => match old.group? gang a with
    | some x => (x.p.toList.getD i 0).getLsbD l
    | none => false
  | _ => false

/-- One thread of a new run: where it comes from, its ordinal, the split it belongs to (4 and up: a parked entry), and its new place. -/
structure Settler where
  src : Source
  ord : Nat
  owner : Nat
  slot : Nat
  lane : Nat
  deriving DecidableEq, Repr

/-- Registers, predicates and ordinals of the settlers in their new lanes, read from the old state. -/
def State.settleThreads (s old : State) (gang w : Nat) (ts : List Settler) : State :=
  ts.foldl (fun s t =>
    let s1 := if t.src = .whole t.slot t.lane then s else s.putThread old gang w t.src t.slot t.lane
    s1.modGroup gang t.slot (fun x =>
      { x with
        p := Vector.ofFn (fun i =>
          if predBit old gang t.src i.val then x.p[i] ||| laneBit t.lane else x.p[i] &&& ~~~ laneBit t.lane)
        ords := if h : t.lane < 32 then x.ords.set t.lane (BitVec.ofNat 16 t.ord) else x.ords })) s

/-- The split a lane belongs to: its slot, or 4 plus the index of its parked entry. -/
def Group.ownerOf (x : Group) (l : Nat) : Nat :=
  match x.liveSplits.find? (fun y => y.2.lanes.getLsbD l) with
  | some y => y.1
  | none => 4 + x.parked.findIdx (fun p => p.lanes.getLsbD l)

/-- The lanes of a slot that settlers of an owner take. -/
def ownerMask (ts : List Settler) (slot owner : Nat) : LaneMask :=
  maskOf ((ts.filter (fun t => t.slot == slot && t.owner == owner)).map (fun t => t.lane))

/-- A split or entry with the lanes its threads have in a slot; a wait on an object is begun again. -/
def Split.remap (sp : Split) (m : LaneMask) : Option Split :=
  if m = 0 then none
  else some { sp with
    lanes := m
    status := match sp.status with
      | .waiting (.object _) | .waiting (.swwait _ _) | .waiting .reconv => .ready
      | st => st }

/-- The splits of a group, remapped into a slot. -/
def Group.remapped (x : Group) (ts : List Settler) (slot : Nat) : List (Nat × Split) :=
  x.liveSplits.filterMap (fun y => (y.2.remap (ownerMask ts slot y.1)).map (fun sp => (y.1, sp)))

def Group.remappedParked (x : Group) (ts : List Settler) (slot : Nat) : List Split :=
  (enumFrom 4 x.parked).filterMap (fun y => y.2.remap (ownerMask ts slot y.1))

/-- The waiters of a group's splits leave their objects (14 R277). -/
def State.unlinkGroup (s : State) (gang slot : Nat) : State :=
  { s with waiters := s.waiters.filter (fun w => !(w.gang == gang && w.group == slot)) }

/-- The originating group after its threads have moved: the same slots, new masks. -/
def Group.keepSettled (x : Group) (ts : List Settler) : Group :=
  let rs := x.remapped ts x.slot
  ({ x with
     splits := Vector.ofFn (fun i => (rs.find? (fun y => y.1 == i.val)).map (fun y => y.2))
     parked := x.remappedParked ts x.slot
     loads := x.loads.map (fun l => { l with lanes := 0xFFFFFFFF#32 })
     predWait := x.predWait.map (fun y => (y.1, 0xFFFFFFFF#32)) } : Group).settle

/-- A new group with a copy of another's uniform registers and the splits of its threads (13 R251); s255 is its own base. -/
def Gang.spawnGroup (g : Gang) (x : Group) (ts : List Settler) (slot : Nat) : Group :=
  let y : Group := { Group.fresh slot g.nextGid x.prio with s := x.s, up := x.up, m := x.m }
  let z := y.putEntry (.s 255 (BitVec.ofNat 64 (g.window slot)))
  let rs := x.remapped ts slot
  ({ z with
     splits := Vector.ofFn (fun i => (rs[i.val]?).map (fun y => y.2))
     parked := x.remappedParked ts slot } : Group).settle

/-- Channels after threads moved: who has appended, and where the waiting elements stand. -/
def Gang.moveAppends (g : Gang) (place : SeqItem → SeqItem) (done : Nat × Nat → List (Nat × Nat)) : Gang :=
  { g with channels := g.channels.map (fun c =>
      { c with done := c.done.flatMap done, waiting := c.waiting.map (fun e => { e with place := place e.place }) }) }

/-! ## The fork-spill area (13 R252) -/

/-- The size of a record with a carry count. -/
def recordSize (carry : Nat) : Nat := roundUp (16 + 4 * carry) 16

/-- The byte ranges records, snapshots and spilled elements take. -/
def Gang.spillUsed (g : Gang) : List (Nat × Nat) :=
  g.pend.map (fun p => (p.off, recordSize p.carry)) ++ g.snaps.map (fun n => (4096 * n.off, 4096)) ++ g.spillList.map (fun l => (64 * l, 64))

/-- The lowest free place of a size and alignment. -/
def freePlace (used : List (Nat × Nat)) (size align limit : Nat) : Option Nat :=
  let cands := (0 :: used.map (fun u => roundUp (u.1 + u.2) align)).filter (fun a =>
    decide (a + size ≤ limit) && used.all (fun u => decide (a + size ≤ u.1) || decide (u.1 + u.2 ≤ a)))
  match cands with
  | [] => none
  | a :: as => some (as.foldl min a)

/-- Places for several records. -/
def freePlaces (used : List (Nat × Nat)) (size limit : Nat) : Nat → Option (List Nat)
  | 0 => some []
  | n + 1 =>
    match freePlace used size 16 limit with
    | none => none
    | some a => (freePlaces ((a, size) :: used) size limit n).map (fun as => a :: as)

/-- The bytes of a record; its key increases along the sequence. -/
def PendRec.bytes (p : PendRec) (key : Nat) : List Byte :=
  let body := leBytes 8 key ++ leBytes 2 p.first ++ leBytes 2 p.last ++ leBytes 1 p.carry ++ leBytes 1 1 ++ leBytes 2 p.snap ++
    p.regs.flatMap (fun v => leBytes 4 v.toNat)
  body ++ zeroBytes (recordSize p.carry - body.length)

/-- The modulo registers as saved: 16 bytes each. -/
def modBytes (m : Vector ModReg 8) : List Byte :=
  m.toList.flatMap (fun r => leBytes 4 r.base.toNat ++ leBytes 4 r.len.toNat ++ leBytes 4 r.idx.toNat ++ zeroBytes 4)

/-- up1-up3 in bits 3:1. -/
def upByte (up : Vector Bool 4) : Nat := (List.range 3).foldl (fun n i => n + 2 ^ (i + 1) * bit (up.toList.getD (i + 1) false)) 0

/-- Bytes 0-3,205 of a snapshot (13 R252). -/
def uniformBytes (s : Vector Word 384) (m : Vector ModReg 8) (up : Vector Bool 4) (fmt part : BitVec 16) : List Byte :=
  s.toList.flatMap (fun v => leBytes 8 v.toNat) ++ modBytes m ++ leBytes 1 (upByte up) ++ zeroBytes 1 ++ leBytes 2 fmt.toNat ++
  leBytes 2 part.toNat

def Snapshot.bytes (n : Snapshot) : List Byte :=
  uniformBytes n.s n.m n.up n.fmt n.part ++ zeroBytes 2 ++ leBytes 8 n.rpc.toNat ++ leBytes 4 n.refs ++ zeroBytes 876

/-- The records in the order of the sequence, with their keys. -/
def Gang.keyedRecords (g : Gang) : List (Nat × PendRec) :=
  enumFrom 1 (g.seq.filterMap (fun x => match x with
    | .pending k => g.pend.find? (fun p => p.seq == k)
    | _ => none))

/-- The area's bytes follow the records and snapshots; the flag byte of a freed record is cleared first. -/
def State.writeSpill (s : State) (gang : Nat) (freed : List Nat) : State :=
  match s.gang? gang with
  | none => s
  | some g =>
    let put := fun (m : Memory) (off : Nat) (bs : List Byte) => m.writeBytes (g.spillPhys + off) bs
    let m0 := freed.foldl (fun m off => put m (off + 13) [0]) s.mem
    let m1 := g.keyedRecords.foldl (fun (m : Memory) p => put m p.2.off (p.2.bytes p.1)) m0
    { s with mem := g.snaps.foldl (fun (m : Memory) n => put m (4096 * n.off) n.bytes) m1 }

/-! ## BECOME (13 R249-R252) -/

/-- One piece of the new run, in sequence order. -/
inductive RunItem where
  | keep (lane ord : Nat)
  | sib (lane ord : Nat)
  | gone (lane : Nat)
  | record (lane first last : Nat)
  | other (x : SeqItem)
  deriving DecidableEq, Repr

/-- The pieces of one parent: itself, the siblings that materialise, the record of the rest. -/
def parentItems (l n room : Nat) : List RunItem :=
  let k := min room (n - 1)
  RunItem.keep l 0 :: (List.range k).map (fun i => .sib l (i + 1)) ++ (if k + 1 < n then [.record l (k + 1) (n - 1)] else [])

/-- The new run of a group within the sequence; the first `room` siblings materialise (13 R251). -/
def becomeItems (x : Group) (lanes : LaneMask) (n : Nat → Nat) : Nat → List SeqItem → List RunItem
  | _, [] => []
  | room, i :: rest =>
    match i with
    | .lane slot l =>
      if slot ≠ x.slot then .other i :: becomeItems x lanes n room rest
      else if !lanes.getLsbD l then .keep l (x.ords.toList.getD l 0).toNat :: becomeItems x lanes n room rest
      else if n l = 0 then .gone l :: becomeItems x lanes n room rest
      else parentItems l (n l) room ++ becomeItems x lanes n (room - min room (n l - 1)) rest
    | _ => .other i :: becomeItems x lanes n room rest

def RunItem.isThread : RunItem → Bool
  | .keep _ _ | .sib _ _ => true
  | _ => false

/-- Threads take the places in order. -/
def settlePlaces : List RunItem → List (Nat × Nat) → List (RunItem × Option (Nat × Nat))
  | [], _ => []
  | i :: is, ps =>
    if i.isThread then
      match ps with
      | p :: ps' => (i, some p) :: settlePlaces is ps'
      | [] => (i, none) :: settlePlaces is []
    else (i, none) :: settlePlaces is ps

/-- What a BECOME will bring about: the run with its places, the records, the snapshot. -/
structure Plan where
  items : List (RunItem × Option (Nat × Nat))
  recs : List PendRec
  snap : Option Snapshot
  deriving DecidableEq, Repr

/-- The snapshot of a split (13 R252). -/
def Group.snapshot (x : Group) (sp : Split) (off : Nat) (rpc : Word) (refs : Nat) : Snapshot :=
  { off := off, s := Vector.ofFn (fun i => x.readS sp i), m := Vector.ofFn (fun i => x.readM sp i)
    up := Vector.ofFn (fun i => x.readUp sp i), fmt := sp.fmt, part := sp.part, rpc := rpc, refs := refs }

/-- The bytes a BECOME with pending siblings needs in the area: its records and the snapshot. -/
def becomeNeed (carry records : Nat) : Nat := if records = 0 then 0 else 4096 + records * recordSize carry

/-- The plan of a BECOME; none where its records do not fit in the fork-spill area. -/
def State.plan (s : State) (g : Gang) (x : Group) (sp : Split) (carry : Nat) (n : Nat → Nat) (rpc : Word) : Option Plan :=
  let mine := (lanesOf x.live)
  let keepCount := (mine.filter (fun l => !(sp.lanes.getLsbD l && n l == 0))).length
  let deadCount := laneCount x.dead
  let cap := (32 - deadCount) + 32 * g.freeSlots.length
  let others := g.liveCount - mine.length
  let room := min (g.lanes - others - keepCount) (cap - keepCount)
  let items := becomeItems x sp.lanes n room g.seq
  let places := ((List.range 32).filter (fun l => !x.dead.getLsbD l)).map (fun l => (x.slot, l)) ++
    g.freeSlots.flatMap (fun t => (List.range 32).map (fun l => (t, l)))
  let assigned := settlePlaces items places
  let recs := items.filterMap (fun i => match i with
    | .record l a b => some (l, a, b)
    | _ => none)
  if recs.isEmpty then some { items := assigned, recs := [], snap := none }
  else
    match freePlace g.spillUsed 4096 4096 g.spillSize with
    | none => none
    | some so =>
      match freePlaces ((so, 4096) :: g.spillUsed) (recordSize carry) g.spillSize recs.length with
      | none => none
      | some offs =>
        let rs := (enumFrom 0 (recs.zip offs)).map (fun y =>
          let l := y.2.1.1
          ({ off := y.2.2, seq := g.nextSeq + y.1, first := y.2.1.2.1, last := y.2.1.2.2, carry := carry, snap := so / 4096
             regs := (List.range carry).map (fun r => s.lane g.id x.slot r l)
             appended := ((List.range 4).filter (fun c => (g.channel (Fin.ofNat 4 c)).done.contains (x.slot, l))).foldl
               (fun a c => a + 2 ^ c) 0 } : PendRec))
        let g' : Gang := { g with pend := g.pend ++ rs, snaps := g.snaps ++ [x.snapshot sp (so / 4096) rpc rs.length] }
        if g'.recordLines.length + g.spillLines ≤ g.spillSize / 64 then
          some { items := assigned, recs := rs, snap := some (x.snapshot sp (so / 4096) rpc rs.length) }
        else none

/-- The threads of a plan in their new places. -/
def Plan.settlers (p : Plan) (x : Group) (i carry : Nat) : List Settler :=
  p.items.filterMap (fun y =>
    match y.1, y.2 with
    | .keep l o, some (t, k) => some { src := .whole x.slot l, ord := o, owner := x.ownerOf l, slot := t, lane := k }
    | .sib l o, some (t, k) => some { src := .carried x.slot l carry, ord := o, owner := i, slot := t, lane := k }
    | _, _ => none)

/-- The sequence after a plan: records take the keys from `key` up; a thread that ended keeps a place while an element of it waits. -/
def planSeq (g : Gang) (slot : Nat) : Nat → List (RunItem × Option (Nat × Nat)) → List SeqItem
  | _, [] => []
  | key, (i, p) :: rest =>
    match i, p with
    | .other x, _ => x :: planSeq g slot key rest
    | .record _ _ _, _ => .pending key :: planSeq g slot (key + 1) rest
    | .gone l, _ =>
      if g.channels.toList.any (fun c => c.waiting.any (fun e => decide (e.place = .lane slot l)))
      then .ended (32 * slot + l + 8192 * g.nextSeq) :: planSeq g slot key rest else planSeq g slot key rest
    | _, some (t, k) => .lane t k :: planSeq g slot key rest
    | _, none => planSeq g slot key rest

/-- The new place of a thread of the group. -/
def Plan.placeOf (p : Plan) (g : Gang) (slot : Nat) (x : SeqItem) : SeqItem :=
  match x with
  | .lane a l =>
    if a ≠ slot then x
    else
      match p.items.find? (fun y => match y.1 with
        | .keep k _ => k == l
        | _ => false) with
      | some (_, some (t, k)) => .lane t k
      | _ => .ended (32 * slot + l + 8192 * g.nextSeq)
  | _ => x

/-- Who counts as having appended: the parent and its children (04 R85). -/
def Plan.doneOf (p : Plan) (slot : Nat) (x : Nat × Nat) : List (Nat × Nat) :=
  if x.1 ≠ slot then [x]
  else p.items.filterMap (fun y => match y.1 with
    | .keep l _ | .sib l _ => if l = x.2 then y.2 else none
    | _ => none)

/-- The deckle carries a BECOME out (13 R251, R252): the group's slot `slot`, the issuing split `i`. -/
def State.applyPlan (s : State) (gang slot i carry : Nat) (rpc : Word) (p : Plan) : State :=
  match s.gang? gang, s.group? gang slot with
  | some g, some x0 =>
    let x : Group := match x0.split? i with
      | some sp => x0.setSplit i (some { sp with pc := rpc, status := .ready, joined := false })
      | none => x0
    let ts := p.settlers x i carry
    let fresh := (g.freeSlots).filter (fun t => ts.any (fun z => z.slot == t))
    let s1 := s.unlinkGroup gang slot
    let s2 := s1.modGang gang (fun g =>
      let g1 := fresh.foldl (fun (g : Gang) t =>
        { g with groups := g.groups ++ [g.spawnGroup x ts t], nextGid := g.nextGid + 1 }) g
      let g2 := g1.modGroup slot (fun _ => x.keepSettled ts)
      let g3 := g2.moveAppends (p.placeOf g slot) (p.doneOf slot)
      { g3 with
        seq := planSeq g slot g.nextSeq p.items, nextSeq := g.nextSeq + p.recs.length + 1, pend := g.pend ++ p.recs
        snaps := g.snaps ++ p.snap.toList })
    let s3 := s2.settleThreads s gang g.task.w ts
    let s4 := if ts.isEmpty ∨ (ts.all (fun t => t.slot ≠ slot)) then s3.retireGroup gang slot else s3
    if p.recs.isEmpty then s4 else s4.writeSpill gang []
  | _, _ => s

/-! ## Materialisation (13 R253) -/

/-- The pending record of the lowest key. -/
def Gang.firstRecord (g : Gang) : Option (Nat × PendRec) :=
  (enumFrom 0 g.seq).findSome? (fun y => match y.2 with
    | .pending k => (g.pend.find? (fun p => p.seq == k)).map (fun p => (y.1, p))
    | _ => none)

/-- The group of the nearest live thread in a stretch of the sequence. -/
def seqGroup (xs : List SeqItem) : Option Nat :=
  xs.findSome? (fun x => match x with
    | .lane slot _ => some slot
    | _ => none)

/-- Threads of the group behind the insertion point move to a new group, linked after it. -/
def State.moveTail (s : State) (gang slot idx : Nat) (t : Nat) : State :=
  match s.gang? gang, s.group? gang slot with
  | some g, some x =>
    let tail := (g.seq.drop idx).filterMap (fun y => match y with
      | .lane a l => if a = slot then some l else none
      | _ => none)
    let ts := (enumFrom 0 tail).map (fun y =>
      ({ src := .whole slot y.2, ord := (x.ords.toList.getD y.2 0).toNat, owner := x.ownerOf y.2, slot := t, lane := y.1 } : Settler))
    let stay := (lanesOf x.live).filterMap (fun l => if tail.contains l then none else
      some ({ src := .whole slot l, ord := (x.ords.toList.getD l 0).toNat, owner := x.ownerOf l, slot := slot, lane := l } : Settler))
    let dest := fun (a l : Nat) => if a = slot ∧ tail.contains l then (t, tail.idxOf l) else (a, l)
    let place := fun (y : SeqItem) => match y with
      | .lane a l => .lane (dest a l).1 (dest a l).2
      | y => y
    let s1 := (s.unlinkGroup gang slot).modGang gang (fun g =>
      let g1 := { g with groups := g.groups ++ [g.spawnGroup x ts t], nextGid := g.nextGid + 1 }
      let g2 := g1.modGroup slot (fun _ => x.keepSettled stay)
      let g3 := g2.moveAppends place (fun d => [dest d.1 d.2])
      { g3 with seq := g.seq.map place })
    s1.settleThreads s gang g.task.w ts
  | _, _ => s

/-- The fresh group of pending threads (13 R253, R261). -/
def Gang.pendGroup (g : Gang) (p : PendRec) (n : Snapshot) (slot count : Nat) (prio : Fin 4) (age : Nat) : Group :=
  let y : Group := { Group.fresh slot g.nextGid prio with s := n.s, up := n.up, m := n.m }
  let z := y.putEntry (.s 255 (BitVec.ofNat 64 (g.window slot)))
  let sp : Split := { Split.start n.rpc (maskWhere (fun l => l < count)) age with fmt := n.fmt, part := n.part }
  ({ z with ords := Vector.ofFn (fun i => if i.val < count then BitVec.ofNat 16 (p.first + i.val) else 0) } : Group).setSplit 0 (some sp)

/-- Whether the first record can materialise, with the index of its place. -/
def Gang.canMaterialise (g : Gang) : Option (Nat × PendRec × Bool) :=
  match g.firstRecord with
  | none => none
  | some (idx, p) =>
    let before := seqGroup (g.seq.take idx).reverse
    let inside := before.isSome && decide (before = seqGroup (g.seq.drop idx))
    if g.liveCount < g.lanes ∧ (if inside then 2 else 1) ≤ g.freeSlots.length then some (idx, p, inside) else none

/-- A materialisation inside a group moves threads of it: their stores are performed first (04 R78, R79); none while one has to wait. -/
def State.settleTail (s : State) (g : Gang) : Option State :=
  match g.canMaterialise with
  | some (idx, _, true) => match seqGroup (g.seq.take idx).reverse with
    | some slot => s.performAll g.id slot
    | none => some s
  | _ => some s

/-- One materialisation. -/
def State.materialise (s : State) (gang : Nat) : State :=
  match s.gang? gang with
  | none => s
  | some g =>
    match g.canMaterialise with
    | none => s
    | some (idx, p, inside) =>
      let s1 := match inside, seqGroup (g.seq.take idx).reverse, g.freeSlots with
        | true, some slot, t :: _ => s.moveTail gang slot idx t
        | _, _, _ => s
      match s1.gang? gang with
      | none => s
      | some g1 =>
        match g1.freeSlots, g1.snaps.find? (fun n => n.off == p.snap) with
        | t :: _, some n =>
          let count := min (min 32 (p.last + 1 - p.first)) (g1.lanes - g1.liveCount)
          let near := match seqGroup (g1.seq.take idx).reverse with
            | some a => some a
            | none => seqGroup (g1.seq.drop idx)
          let prio := match near.bind (fun a => g1.group? a) with
            | some y => y.prio
            | none => Fin.ofNat 4 (g1.task.prio / 2)
          let lanes := (List.range count).map (fun l => SeqItem.lane t l)
          let over_ := decide (p.last < p.first + count)
          let g2 : Gang :=
            { g1 with
              groups := g1.groups ++ [g1.pendGroup p n t count prio (s.die? (s.part.dieOf g1.core)).clock.toNat]
              nextGid := g1.nextGid + 1
              seq := g1.seq.take idx ++ lanes ++ (if over_ then g1.seq.drop (idx + 1) else g1.seq.drop idx)
              pend := if over_ then g1.pend.filter (fun q => q.seq ≠ p.seq)
                else g1.pend.map (fun q => if q.seq = p.seq then { q with first := q.first + count } else q)
              snaps := if over_ then
                  (g1.snaps.map (fun q => if q.off = p.snap then { q with refs := q.refs - 1 } else q)).filter (fun q => decide (0 < q.refs))
                else g1.snaps
              channels := Vector.ofFn (fun i =>
                let c := g1.channels[i]
                if p.appended.testBit i.val then { c with done := c.done ++ (List.range count).map (fun l => (t, l)) } else c) }
          let s2 := s1.modGang gang (fun _ => g2)
          let s3 := (List.range count).foldl (fun s l => s.putThread s1 gang g1.task.w (.values p.regs) t l) s2
          s3.writeSpill gang (if over_ then [p.off] else [])
        | _, _ => s

/-! ## Barriers and compaction (13 R256, R257) -/

def Status.atGang : Status → Bool
  | .waiting (.gsync _) | .waiting (.rpmark ..) => true
  | _ => false

/-- Every thread of the group stands at the gang's barrier. -/
def Group.arrived (x : Group) : Bool :=
  x.parked.isEmpty && !x.liveSplits.isEmpty && x.liveSplits.all (fun y => y.2.status.atGang)

/-- The splits of an arrived group merge into the lowest slot, still waiting. -/
def State.flatten (s : State) (gang slot : Nat) : State :=
  match s.group? gang slot with
  | none => s
  | some x =>
    match x.liveSplits with
    | (i, sp) :: y :: rest => s.mergeAt gang slot i ((y :: rest).map (fun z => z.1)) sp.status
    | _ => s

/-- A group that keeps its threads in a compaction (13 R257). -/
def Group.fixed (x : Group) : Bool :=
  x.ports.toList.any (fun p => p.isSome) || x.carry.toList.any (fun c => c.isSome) ||
  decide (x.ldc + x.stc + x.cpc + x.tlc ≠ 0) || !x.batches.isEmpty || !x.tiles.isEmpty

/-- A group with an empty lane that is not dead. -/
def Group.partial_ (x : Group) : Bool := decide (x.live ||| x.dead ≠ 0xFFFFFFFF#32)

/-- Maximal chains of neighbours that satisfy a test. -/
def chains (q : Nat → Bool) : List Nat → List Nat → List (List Nat)
  | [], cur => if cur.isEmpty then [] else [cur]
  | a :: as, cur =>
    if q a then chains q as (cur ++ [a])
    else (if cur.isEmpty then [] else [cur]) ++ chains q as []

/-- What a receiving group keeps, and what is compared (13 R257). -/
def Group.uniformState (x : Group) : Vector Word 384 × Vector Bool 4 × Vector ModReg 8 × List (BitVec 16 × BitVec 16) :=
  (x.s, x.up, x.m, x.liveSplits.map (fun y => (y.2.fmt, y.2.part)))

/-- The threads of a chain of groups fill its lanes in sequence order; groups left empty retire. -/
def State.compactChain (s : State) (gang : Nat) (slots : List Nat) : State :=
  match s.gang? gang with
  | none => s
  | some g =>
    let threads := g.seq.filterMap (fun x => match x with
      | .lane a l => if slots.contains a then some (a, l) else none
      | _ => none)
    let places := slots.flatMap (fun a => match g.group? a with
      | some x => ((List.range 32).filter (fun l => !x.dead.getLsbD l)).map (fun l => (a, l))
      | none => [])
    let moves := threads.zip places
    let ts := moves.map (fun m =>
      let o := match g.group? m.1.1 with
        | some x => (x.ords.toList.getD m.1.2 0).toNat
        | none => 0
      ({ src := .whole m.1.1 m.1.2, ord := o, owner := m.1.1, slot := m.2.1, lane := m.2.2 } : Settler))
    let dest := fun (p : Nat × Nat) => match moves.find? (fun m => m.1 == p) with
      | some m => m.2
      | none => p
    let place := fun (y : SeqItem) => match y with
      | .lane a l => SeqItem.lane (dest (a, l)).1 (dest (a, l)).2
      | y => y
    let differs := fun (a : Nat) => ts.any (fun t => t.slot == a && t.owner ≠ a &&
      decide ((g.group? t.owner).map Group.uniformState ≠ (g.group? a).map Group.uniformState))
    let count := (slots.filter differs).length
    let s1 := s.modGang gang (fun g =>
      let g1 : Gang := { g with groups := g.groups.map (fun (x : Group) =>
        if slots.contains x.slot then
          let m := maskOf ((ts.filter (fun (t : Settler) => t.slot == x.slot)).map (fun t => t.lane))
          { x with
            ucflag := x.ucflag || differs x.slot
            splits := x.splits.map (fun o => o.bind (fun sp => if m = 0 then none else some { sp with lanes := m })) }
        else x) }
      let g2 := g1.moveAppends place (fun d => [dest d])
      { g2 with seq := g.seq.map place })
    let s2 := (s1.settleThreads s gang g.task.w ts).modCore g.core (fun c => { c with conflicts := c.conflicts + BitVec.ofNat 32 count })
    slots.foldl (fun s a => match s.group? gang a with
      | some x => if x.liveSplits.isEmpty then s.retireGroup gang a else s
      | none => s) s2

/-- The groups that compaction may repack: arrived, partial, not fixed. -/
def Gang.compactable (g : Gang) : List Nat :=
  g.order.filter (fun a => match g.group? a with
    | some x => x.arrived && x.partial_ && !x.fixed
    | none => false)

/-- The arrived groups are flattened, and those of a set compacted. -/
def State.compactSet (s : State) (gang : Nat) (set : List Nat) : State :=
  match s.gang? gang with
  | none => s
  | some g =>
    let s1 := (g.groups.filter (fun x => x.arrived)).foldl (fun s x => s.flatten gang x.slot) s
    (chains (fun a => set.contains a) g.order []).foldl (fun s c => if c.length < 2 then s else s.compactChain gang c) s1

/-- The arrived groups are flattened and compacted. -/
def State.compact (s : State) (gang : Nat) : State :=
  match s.gang? gang with
  | none => s
  | some g => s.compactSet gang g.compactable

/-- Every live thread of the gang stands at the barrier. -/
def Gang.allArrived (g : Gang) : Bool := !g.groups.isEmpty && g.groups.all (fun x => x.arrived)

/-- The split with the lowest-numbered live lane of the first group in gang order. -/
def Gang.firstSplit (g : Gang) : Option (Nat × Nat × Split) :=
  match g.order.head?.bind (fun a => g.group? a) with
  | none => none
  | some x => (x.liveSplits.find? (fun y => y.2.lanes.getLsbD (lowestLane x.live))).map (fun y => (x.slot, y.1, y.2))

/-- A trap in that split. -/
def State.trapFirst (s : State) (gang : Nat) (t : TrapInfo) : State :=
  match (s.gang? gang).bind (fun g => g.firstSplit) with
  | none => s
  | some (slot, i, sp) =>
    raiseTrap s { gang := gang, group := slot, split := i } 12 sp.lanes { t with lanes := sp.lanes }

/-- Stores of every group are performed: FENCE.ar for every thread; none while one has to wait. -/
def State.fenceGang (s : State) (gang : Nat) : Option State :=
  match s.gang? gang with
  | none => some s
  | some g => g.groups.foldl (fun o x => match o with
      | none => none
      | some s1 => s1.performAll gang x.slot) (some s)

/-- Each group goes on with its one split behind the barrier. -/
def State.leaveBarrier (s : State) (gang : Nat) : State :=
  s.modGang gang (fun g => { g with groups := g.groups.map (fun x =>
    { x with splits := x.splits.map (fun o => o.map (fun sp =>
        { sp with pc := sp.pc + 12, status := .ready, joined := false })) }) })

end Sys2Proof.Machine
end

