-- ==== Sys2Proof/Machine/Control.lean ====
section
/-! DEFINITION. The control members of OP 0x1C-0x1F (13 R241, R246, R247, R249, R255, R256, R258-R261). -/

namespace Sys2Proof.Machine

/-! ## Results that no checking mode executes twice -/

/-- A vector result of a member outside R318. -/
def putVec (c : Iss) (s : State) (d : VOp) (wide : Bool) (v : Nat → Word) : Except Stop State :=
  let (s1, w) := flipValues c s v
  storeV c s1 d wide c.exec w

/-- A uniform result of a member outside R318. -/
def putUni (c : Iss) (s : State) (d : SReg) (v : Word) : State :=
  let (s1, w) := flipUniform c s v
  s1.writeU c.f (.s d w)

/-! ## Transfers of control (13 R247) -/

/-- The clock of the issuing core's die. -/
def Iss.clock (c : Iss) : Word := (c.s.die? (c.s.part.dieOf c.gang.core)).clock

/-- The lanes of the handler split go to their targets. It runs in serial mode (16 R298): when it diverges, the first part goes on, and the
others are suspended behind it (log 38). -/
def Gang.goHandler (g : Gang) (clock : Nat) (tgt : Nat → Word) : Gang :=
  match g.handler with
  | none => g
  | some sp =>
    match partsOf tgt sp.lanes with
    | [] => g
    | (pc, m) :: rest =>
      { g with
        handler := some { sp with pc := pc, lanes := m, joined := false }
        handlerRest := g.handlerRest ++ rest.map (fun y => { sp with pc := y.1, lanes := y.2, age := clock, joined := false }) }

/-- The active lanes go to their targets; misaligned ones trap. -/
def goLanes (c : Iss) (s : State) (tgt : Nat → Word) : Except Stop State :=
  let bad := (lanesOf c.exec).filter (fun l => (tgt l).toNat % 4 ≠ 0)
  if !bad.isEmpty then .error (fault 0x04 0 (maskOf bad))
  else if c.f.split = 4 then .ok (s.modGang c.f.gang (fun g => g.goHandler c.clock.toNat tgt))
  else .ok (s.modGroup c.f.gang c.f.group (fun g => g.goTo c.f.split c.clock.toNat tgt))

/-- The target of a relative branch: the address of word 0 plus the offset. -/
def Iss.relative (c : Iss) (ofs : W32) : Word := c.sp.pc + ofs.signExtend 64

/-- The instruction after this one. -/
def Iss.after (c : Iss) : Word := c.sp.pc + BitVec.ofNat 64 c.len

def execBra (x : BraI) (s : State) : Host.Outcome State Fault Refusal :=
  issueJump (.bra x) {} (fun c => goLanes c c.s (fun _ => c.relative x.ofs)) s

def execBrc (x : BrcI) (s : State) : Host.Outcome State Fault Refusal :=
  issueJump (.brc x) { ps := [x.p] }
    (fun c => goLanes c c.s (fun l => if (c.grp.pred x.p).getLsbD l != x.neg then c.relative x.ofs else c.after)) s

def execUbrc (x : UBrcI) (s : State) : Host.Outcome State Fault Refusal :=
  issueJump (.ubrc x) { ups := [x.p] }
    (fun c => goLanes c c.s (fun _ => if c.grp.readUp c.sp x.p != x.neg then c.relative x.ofs else c.after)) s

/-- The targets of JMP and CALL. -/
def targets (c : Iss) (t : Target) : Nat → Word :=
  match t with
  | .pair v => takePair c c.s v
  | .sreg r => fun _ => c.readS r
  | .lit w => fun _ => w

def targetUses : Target → List VUse
  | .pair v => [vuse v true]
  | _ => []

def targetRegs : Target → List SReg
  | .sreg r => [r]
  | _ => []

def execJmp (x : JmpI) (s : State) : Host.Outcome State Fault Refusal :=
  issueJump (.jmp x) { vs := targetUses x.target, ss := targetRegs x.target } (fun c => goLanes c c.s (targets c x.target)) s

/-- CALL: the targets are read, then the link is written, then the lanes move. -/
def execCall (x : CallI) (s : State) : Host.Outcome State Fault Refusal :=
  issueJump (.call x) { vs := targetUses x.target ++ [vdest x.link true], ss := targetRegs x.target }
    (fun c => do
      let s1 ← putVec c c.s x.link true (fun _ => c.after)
      goLanes c s1 (targets c x.target)) s

def execRet (x : RetI) (s : State) : Host.Outcome State Fault Refusal :=
  issueJump (.ret x) { vs := [vuse x.a true] } (fun c => goLanes c c.s (takePair c c.s x.a)) s

/-! ## MERGE (13 R240, R241) -/

/-- A push onto the reconvergence stack: the oldest of four entries is discarded and counted. -/
def execMerge (x : BraI) (s : State) : Host.Outcome State Fault Refusal :=
  issue (.merge x) {}
    (fun c =>
      let a := c.relative x.ofs
      if a.toNat % 4 ≠ 0 then .error (fault 0x04 0 c.exec)
      else
        let s1 := c.s.modSplit c.f (fun sp => { sp with stack := (a :: sp.stack).take 4 })
        .ok (if c.sp.stack.length < 4 then s1
          else s1.modCore c.gang.core (fun k => { k with reconvOverflow := k.reconvOverflow + 1 }))) s

/-! ## BECOME (13 R249) -/

/-- A vector destination of the group is still to be written. -/
def vectorPending (c : Iss) : Bool :=
  c.grp.loads.any (fun l => !l.regs.isEmpty || l.carry.isSome || !l.tile.isEmpty) ||
  (c.s.core? c.gang.core).replay.any (fun e => e.gang == c.f.gang && e.group == c.f.group)

/-- The deckle still has a BECOME of the gang to carry out, or a materialisation that can take place (13 R249). -/
def deckleBusy (c : Iss) : Bool :=
  (c.s.core? c.gang.core).deckle.any (fun r => r.gang == c.f.gang) ||
  (c.gang.canMaterialise.isSome && !c.gang.outOfOrder (materialiseAct []))

/-- BECOME: the waits, the checks, then the request to the deckle. -/
def becomeBody (i : Instr) (carry : Nat) (b : VSrc) (s : State) : Host.Outcome State Fault Refusal :=
  issueWait i { vs := vsrcUses b false }
    (fun c =>
      if c.f.split = 4 then .error (fault 0x01 0 c.exec)
      else if c.grp.liveSplits.any (fun y => y.1 ≠ c.f.split && (memberMask c.grp y.2).isSome) then .error (.stall .held)
      else if vectorPending c || deckleBusy c then .error (.stall .busy)
      else if 64 < carry ∨ c.gang.task.w < carry ∨ c.grp.carry.toList.any (fun k => k.isSome) then .error (fault 0x01 0 c.exec)
      else do
        let (s1, v) ← takeSrc c c.s false b
        let n := fun l => (v l).toNat % 2 ^ 32
        let big := (lanesOf c.exec).filter (fun l => decide (4096 < n l))
        match big with
        | l :: _ => .error (fault 0x09 (if n l / 2 ^ 16 ≠ 0 then 1 else 2) (maskOf big))
        | [] =>
          match s1.plan c.gang c.grp c.sp carry n c.after with
          | none => .error (fault 0x0A 0 c.exec)
          | some _ =>
            if c.gang.outOfOrder (becomeAct c.f.group) then .error (.stall .busy)
            else
            let r : DeckleReq :=
              { gang := c.f.gang, group := c.f.group, split := Fin.ofNat 4 c.f.split, carry := carry
                counts := (lanesOf c.exec).map (fun l => (l, n l)), rpc := c.after }
            .ok ((s1.modGroup c.f.gang c.f.group (fun g => g.hold c.f.split .become)).modCore c.gang.core
              (fun k => { k with deckle := k.deckle ++ [r] }))) s

def execBecomeBase (x : BaseDB) (s : State) : Host.Outcome State Fault Refusal :=
  becomeBody (.becomeBase x) x.d.val (.reg (vreg x.b)) s
def execBecomeExt (x : BecomeI) (s : State) : Host.Outcome State Fault Refusal :=
  becomeBody (.becomeExt x) x.carry.val x.b s

/-! ## SYNC, GSYNC, YIELD, NOP -/

/-- SYNC's completion: the group's stores are performed, FENCE.ar.grp (13 R255). -/
def syncEffect (c : Iss) (s : State) : Except Stop State :=
  match s.performAll c.f.gang c.f.group with
  | none => .error (.stall .busy)
  | some s1 => .ok s1

def execSync (x : SyncI) (s : State) : Host.Outcome State Fault Refusal := arrive (.sync x) {} x.mask syncEffect s

/-- A thread of the gang waits at a barrier with another PC. -/
def barrierClash (c : Iss) : Bool :=
  c.gang.groups.any (fun g => g.liveSplits.any (fun y => y.2.status.atGang && decide (y.2.pc ≠ c.sp.pc)))

def execGsync (s : State) : Host.Outcome State Fault Refusal :=
  issueWait .gsync {}
    (fun c =>
      if c.f.split = 4 then .error (fault 0x01 0 c.exec)
      else if barrierClash c then .error (fault 0x03 2 c.exec)
      else .ok (c.s.modGroup c.f.gang c.f.group (fun g => g.setWaiting c.f.split (.gsync c.s.order)))) s

/-- YIELD: the split becomes the youngest of its core (13 R258). -/
def execYield (s : State) : Host.Outcome State Fault Refusal :=
  issue .yield {}
    (fun c =>
      let ages := (c.s.gangs.filter (fun g => g.core == c.gang.core)).flatMap (fun g =>
        g.groups.flatMap (fun x => x.liveSplits.map (fun y => y.2.age)))
      .ok (c.s.modSplit c.f (fun sp => { sp with age := (ages.map (· + 1)).foldl max c.clock.toNat }))) s

def execNopBase (s : State) : Host.Outcome State Fault Refusal := issue .nopBase {} (fun c => .ok c.s) s
def execNopExt (s : State) : Host.Outcome State Fault Refusal := issue .nopExt {} (fun c => .ok c.s) s

/-! ## FMT, special registers, priority (13 R259-R261) -/

def setFmt (i : Instr) (b : USrc) (s : State) : Host.Outcome State Fault Refusal :=
  issue i { ss := usrcRegs b }
    (fun c =>
      let v := (c.usrc b).toNat % 2 ^ 16
      if fmtOk v then .ok (c.s.modSplit c.f (fun sp => { sp with fmt := BitVec.ofNat 16 v })) else .error (fault 0x01 0 c.exec)) s

def execSetfmtBase (x : BaseB) (s : State) : Host.Outcome State Fault Refusal := setFmt (.setfmtBase x) (.reg (sreg x.b)) s
def execSetfmtExt (x : SetFmtI) (s : State) : Host.Outcome State Fault Refusal := setFmt (.setfmtExt x) x.b s

def execGetfmt (x : DstS) (s : State) : Host.Outcome State Fault Refusal :=
  issue (.getfmt x) { ss := [x.d] } (fun c => .ok (putUni c c.s x.d (c.sp.fmt.zeroExtend 64))) s

/-- The per-lane special registers. -/
def laneSpecial (c : Iss) (sel : SpecReg) (l : Nat) : Nat :=
  match sel with
  | .ordinal => (c.grp.ords.toList.getD l 0).toNat
  | .rank => c.gang.rank (.lane c.f.group l)
  | _ => l

/-- The uniform special registers. -/
def uniSpecial (c : Iss) (sel : SpecReg) : Word :=
  match sel with
  | .groupid => c.grp.gid.zeroExtend 64
  | .gangid => BitVec.ofNat 64 (c.gang.id % 2 ^ 32)
  | .coreid => BitVec.ofNat 64 c.gang.core
  | .dieid => BitVec.ofNat 64 (c.s.part.dieOf c.gang.core)
  | .clock => c.clock
  | .exec => c.sp.lanes.zeroExtend 64
  | .dead => c.grp.dead.zeroExtend 64
  | .splitcnt => BitVec.ofNat 64 c.grp.liveSplits.length
  | .ucflag => BitVec.ofNat 64 (bit c.grp.ucflag)
  | .budget => BitVec.ofNat 64 c.gang.lanes
  | .live => BitVec.ofNat 64 c.gang.liveCount
  | .pending => BitVec.ofNat 64 c.gang.pendingCount
  | _ => 0

/-- The registers a trail takes from its lead (17 R321). -/
def forwardedSpecial : SpecReg → Bool
  | .clock | .coreid | .dieid | .groupid | .gangid => true
  | _ => false

def execGetsr (x : GetSrI) (s : State) : Host.Outcome State Fault Refusal :=
  match x.d with
  | .v d =>
    issue (.getsr x) { vs := [vdest d false] }
      (fun c =>
        if x.sel = .rank ∧ deckleBusy c then .error (.stall .busy)
        else putVec c c.s d false (fun l => BitVec.ofNat 64 (laneSpecial c x.sel l))) s
  | .s d =>
    issue (.getsr x) { ss := [d] }
      (fun c =>
        let finish := fun (v : Word) (s : State) =>
          let s1 := putUni c s d v
          if x.clr then s1.modGroup c.f.gang c.f.group (fun g => { g with ucflag := false }) else s1
        if forwardedSpecial x.sel then
          pairLoad c c.s (fun s => .ok (s, [uniSpecial c x.sel])) (fun vs s => .ok (finish (vs.headD 0) s))
        else .ok (finish (uniSpecial c x.sel) c.s)) s

def execSetprio (x : SetPrioI) (s : State) : Host.Outcome State Fault Refusal :=
  issue (.setprio x) {} (fun c => .ok (c.s.modGroup c.f.gang c.f.group (fun g => { g with prio := x.n }))) s

end Sys2Proof.Machine
end

