-- ==== Sys2Proof/Machine/Vat.lean ====
section
/-! DEFINITION. The vat members of OP 0x28-0x2C: the stash (07 R147-R149), sync words (R150-R153), WAIT (R155), LDT and STT (R156), carry-queue configuration (R146); and base-and-extent records (05 R94). -/

namespace Sys2Proof.Machine

/-! ## Records (05 R94) -/

/-- The fields of a record. -/
def Region.ofWord (w : Word) : Region :=
  { base := bitsOf w.toNat 22 0, extent := bitsOf w.toNat 45 23, esz := bitsOf w.toNat 48 46, ro := w.getLsbD 49 }

/-- The reserved bits of a record are zero. -/
def reservedOk (w : Word) : Bool := decide (w.toNat < 2 ^ 50)

/-- A byte range of the vat meets the window or the tile registers of a group of the gang. -/
def Gang.meetsWindow (g : Gang) (a n : Nat) : Bool :=
  g.groups.any (fun x =>
    decide (a < g.window x.slot + 128 * g.task.w + 1024 * g.task.tiles) && decide (g.window x.slot < a + n))

/-- A byte range lies inside the allocation and outside every window; an empty range at a place outside fails too (DESIGN CHOICE, log 107). -/
def Gang.freeRange (g : Gang) (a n : Nat) : Bool :=
  decide (g.base ≤ a) && decide (a + n ≤ g.base + g.size) && !g.meetsWindow a n

/-! ## The stash (07 R147-R149) -/

/-- The lines' states of a unit as its record says. -/
def StashUnit.state (u : StashUnit) (i : Nat) : Option Bool := (u.lines.find? (fun x => x.1 == i)).map (fun x => x.2)

/-- Step 1 of R148 with an alignment. -/
def stashRecordOk (w : Word) (align : Nat) : Bool :=
  let r := Region.ofWord w
  reservedOk w && decide (r.esz = 0) && !r.ro && decide (r.base % align = 0) && decide (r.extent % align = 0) &&
  decide (r.extent ≠ 0) && decide (r.extent ≤ 2 ^ 20)

/-- A range lies in the stash part. -/
def Gang.inStash (g : Gang) (a n : Nat) : Bool := decide (g.stashBase ≤ a) && decide (a + n ≤ g.stashBase + 4096 * g.task.stash)

/-- The first failure of R55 over virtual addresses, each with an access kind. -/
def firstXlat (s : State) (w : Who) : List (Word × AccKind) → Except (Word × AccKind × Nat × Nat) (List Xlat)
  | [] => .ok []
  | (va, k) :: rest =>
    match s.translate w k va with
    | .error e => .error (va, k, e.1, e.2)
    | .ok x => (firstXlat s w rest).map (fun xs => x :: xs)

/-- The trap of a translation that fails, among the addresses translated before it: every active lane is marked (05 R96). -/
def xlatFault (c : Iss) (vas : List Word) (e : Word × AccKind × Nat × Nat) : Stop :=
  walkStop c (vas.takeWhile (fun v => v != e.1) ++ [e.1]) (fault e.2.2.1 e.2.2.2 c.exec e.1 e.2.1.code)

/-- Two virtual ranges of 4 KiB overlap. -/
def pageMeets (a b : Nat) : Bool := decide (a < b + 4096) && decide (b < a + 4096)

/-- STMAP (07 R148). -/
def execStmap (x : StMapI) (s : State) : Host.Outcome State Fault Refusal :=
  issue (.stmap x) { ss := [x.d, x.a] }
    (fun c =>
      let w := c.readS x.d
      let r := Region.ofWord w
      let va := c.readS x.a
      let units := (List.range (r.extent / 4096)).map (fun u => (r.base + 4096 * u, va + BitVec.ofNat 64 (4096 * u)))
      let ctxOf := fun (id : Nat) => (c.s.gang? id).map (fun g => g.ctx)
      let mapped := units.any (fun u => (c.s.core? c.gang.core).stash.any (fun y =>
        y.vat == u.1 || (decide (ctxOf y.gang = some c.gang.ctx) && pageMeets y.va.toNat u.2.toNat)))
      if !stashRecordOk w 4096 then .error (fault 0x07 2 c.exec)
      else if !c.gang.inStash r.base r.extent then .error (fault 0x07 1 c.exec)
      else if mapped then .error (fault 0x07 5 c.exec)
      else if va.toNat % 4096 ≠ 0 then .error (fault 0x04 0 c.exec va)
      else
        let who := c.s.whoOf c.gang c.f
        match firstXlat c.s who (units.flatMap (fun u => (u.2, AccKind.read) :: (if x.wr then [(u.2, AccKind.write)] else []))) with
        | .error e => .error (xlatFault c (units.map (fun u => u.2)) e)
        | .ok _ =>
          match firstXlat c.s who (units.map (fun u => (u.2, AccKind.read))) with
          | .error e => .error (xlatFault c (units.map (fun u => u.2)) e)
          | .ok xs => do
              let s1 ← touch c c.s (units.map (fun u => u.2))
              let new := (units.zip xs).map (fun y =>
                ({ vat := y.1.1, va := y.1.2, phys := y.2.pa, wr := x.wr, coh := y.2.region == 2 && !isHost y.2.pa, dur := y.2.dur
                   gang := c.f.gang, lines := [], cut := false } : StashUnit))
              .ok (s1.modCore c.gang.core (fun k => { k with stash := k.stash ++ new }))) s

/-- The lines of a range with their units, in order. -/
def State.stashLines (s : State) (core a n : Nat) : List (StashUnit × Nat) :=
  (List.range (n / 128)).filterMap (fun i =>
    ((s.core? core).unitAt (a + 128 * i)).map (fun u => (u, (a + 128 * i - u.vat) / 128)))

/-- The checks that STUNMAP, STWB and STDROP share (07 R149); the range's lines. They wait for the lines' owners, for pins that delay a
transition (R147), and for the owners of the global lines that are written back. -/
def stashRange (c : Iss) (d : SReg) (align : Nat) (drops : Bool) : Except Stop (Region × List (StashUnit × Nat)) :=
  let w := c.readS d
  let r := Region.ofWord w
  let ls := c.s.stashLines c.gang.core r.base r.extent
  if !stashRecordOk w align then .error (fault 0x07 2 c.exec)
  else if !c.gang.inStash r.base r.extent then .error (fault 0x07 1 c.exec)
  else if ls.length ≠ r.extent / 128 then .error (fault 0x07 5 c.exec)
  else if ls.any (fun l =>
      let line := l.1.vat / 128 + l.2
      c.s.vatOwned c.gang.core line ||
      (c.s.pinned c.gang.core line && (decide (l.1.state l.2 = some true) || (drops && (l.1.state l.2).isSome))) ||
      (decide (l.1.state l.2 = some true) && c.s.physBusy (l.1.phys / 128 + l.2) true)) then .error (.stall .busy)
  else .ok (r, ls)

/-- The dirty lines of a range. -/
def dirtyLines (ls : List (StashUnit × Nat)) : List (StashUnit × Nat) := ls.filter (fun l => decide (l.1.state l.2 = some true))

/-- The signature of write-backs: each line's address, size and bytes (17 R322). -/
def lineSig (xs : List (Word × List Byte)) : List Byte :=
  leBytes 1 0 ++ leBytes 4 uniformMask.toNat ++ xs.flatMap (fun x => leBytes 8 x.1.toNat ++ leBytes 1 128 ++ x.2)

def stashSig (c : Iss) (ls : List (StashUnit × Nat)) : List Byte :=
  lineSig (ls.map (fun l => (l.1.va + BitVec.ofNat 64 (128 * l.2), c.s.vatReadBytes c.gang.core (l.1.vat + 128 * l.2) 128)))

/-- Write-backs as writes of the issuing split: its group's earlier stores come first (07 R149). -/
def writeBackAll (c : Iss) (ls : List (StashUnit × Nat)) (after : State → State) : Except Stop State := do
  roomFor c.grp.stc
  pairRun c c.s (stashSig c ls)
    (fun s =>
      match s.performAll c.f.gang c.f.group with
      | none => .error (.stall .busy)
      | some s1 => .ok (ls.foldl (fun s l => s.writeBack c.gang.core l.1 l.2) s1, some []))
    (fun _ s => .ok (addStore c (after s) (.bytes c.exec [] [])))

def execStunmap (x : DstS) (s : State) : Host.Outcome State Fault Refusal :=
  issue (.stunmap x) { ss := [x.d] }
    (fun c => do
      let (_, ls) ← stashRange c x.d 4096 true
      writeBackAll c (dirtyLines ls) (fun s => s.modCore c.gang.core (fun k =>
        { k with stash := k.stash.filter (fun u => !(ls.any (fun l => l.1.vat == u.vat))) }))) s

def execStwb (x : DstS) (s : State) : Host.Outcome State Fault Refusal :=
  issue (.stwb x) { ss := [x.d] }
    (fun c => do
      let (_, ls) ← stashRange c x.d 128 false
      writeBackAll c (dirtyLines ls) (fun s =>
        (dirtyLines ls).foldl (fun s l => s.setStashLine c.gang.core l.1.vat l.2 (some false)) s)) s

def execStdrop (x : DstS) (s : State) : Host.Outcome State Fault Refusal :=
  issue (.stdrop x) { ss := [x.d] }
    (fun c => do
      let (_, ls) ← stashRange c x.d 128 true
      let s1 := ls.foldl (fun s l => s.setStashLine c.gang.core l.1.vat l.2 none) c.s
      .ok (s1.modCore c.gang.core (fun k => { k with stashDrops := k.stashDrops + BitVec.ofNat 32 (dirtyLines ls).length }))) s

/-! ## Sync words (07 R150-R153) -/

structure SyncWord where
  target : Nat
  count : Nat
  valid : Bool
  keep : Bool
  ovr : Bool
  wtr : Bool
  res : Nat
  gen : Nat
  group : Nat
  gang : Nat
  deriving DecidableEq, Repr

def SyncWord.ofNat (n : Nat) : SyncWord :=
  { target := bitsOf n 27 0, count := bitsOf n 55 28, valid := n.testBit 56, keep := n.testBit 57, ovr := n.testBit 58
    wtr := n.testBit 59, res := bitsOf n 63 60, gen := bitsOf n 95 64, group := bitsOf n 111 96, gang := bitsOf n 127 112 }

def SyncWord.toNat (w : SyncWord) : Nat :=
  w.target + 2 ^ 28 * w.count + 2 ^ 56 * bit w.valid + 2 ^ 57 * bit w.keep + 2 ^ 58 * bit w.ovr + 2 ^ 59 * bit w.wtr +
  2 ^ 60 * w.res + 2 ^ 64 * w.gen + 2 ^ 96 * w.group + 2 ^ 112 * w.gang

def State.syncWord (s : State) (core a : Nat) : SyncWord := SyncWord.ofNat (s.vatReadLE core a 16)

def State.putSync (s : State) (core a : Nat) (w : SyncWord) : State := s.vatWriteLE core a 16 w.toNat

/-- COUNT's and TARGET's greatest value. -/
def syncMax : Nat := 2 ^ 28 - 1

/-- A split that waits on the sync word is to test it again. -/
def Split.wake (a : Nat) (sp : Split) : Split :=
  match sp.status with
  | .waiting (.swwait b _) => if b = a then { sp with status := .ready } else sp
  | _ => sp

/-- Splits that wait on a sync word test it again. -/
def State.wakeSync (s : State) (core a : Nat) : State :=
  { s with gangs := s.gangs.map (fun g => if g.core ≠ core then g else
      { g with
        groups := g.groups.map (fun x => { x with splits := x.splits.map (fun o => o.map (Split.wake a)) })
        handler := g.handler.map (Split.wake a) }) }

def State.syncOverflow (s : State) (core : Nat) : State := s.modCore core (fun c => { c with syncOverflow := c.syncOverflow + 1 })

/-- The completion step (07 R151). -/
def State.syncStep (s : State) (core a : Nat) : State :=
  let w := s.syncWord core a
  if 0 < w.target ∧ w.target ≤ w.count then
    let passed := decide (w.target < w.count)
    let s1 := s.putSync core a
      { w with
        ovr := w.ovr || passed, count := 0, gen := (w.gen + 1) % 2 ^ 32, target := if w.keep then w.target else 0, wtr := false }
    (if passed then s1.syncOverflow core else s1).wakeSync core a
  else s

/-- Posted bytes arrive (07 R151). -/
def State.syncArrive (s : State) (core a b : Nat) : State :=
  let w := s.syncWord core a
  if syncMax < w.count + b then
    ((s.putSync core a { w with count := syncMax, ovr := true }).syncOverflow core).syncStep core a
  else (s.putSync core a { w with count := w.count + b }).syncStep core a

/-- The checks common to the four members (07 R152). -/
def syncCheck (c : Iss) (a : Word) (mustBeValid : Bool) : Except Stop Unit :=
  if a.toNat % 16 ≠ 0 then .error (fault 0x04 0 c.exec a)
  else if !c.gang.freeRange a.toNat 16 then .error (fault 0x07 1 c.exec a)
  else if mustBeValid && !(c.s.syncWord c.gang.core a.toNat).valid then .error (fault 0x07 2 c.exec a)
  else .ok ()

/-- A sync word whose line an engine or the press still writes, or has pinned, waits. -/
def syncReady (c : Iss) (a : Word) : Except Stop Unit :=
  if c.s.vatBusy c.gang.core (a.toNat / 128) true then .error (.stall .busy) else .ok ()

def execSwinit (x : SwInitI) (s : State) : Host.Outcome State Fault Refusal :=
  issue (.swinit x) { ss := x.a :: usrcRegs x.b }
    (fun c => do
      let a := c.readS x.a
      let b := (c.usrc x.b).toNat
      syncCheck c a false
      if syncMax < b then .error (fault 0x16 1 c.exec a)
      else
        syncReady c a
        let w := c.s.syncWord c.gang.core a.toNat
        .ok ((c.s.putSync c.gang.core a.toNat
          { w with
            target := b, count := 0, ovr := false, valid := true, keep := x.keep, gen := if w.valid then w.gen else 0
            group := c.grp.gid.toNat, gang := c.gang.id % 2 ^ 16 }).syncStep c.gang.core a.toNat)) s

/-- SWARRIVE: a release at .gang. -/
def execSwarrive (x : SwI) (s : State) : Host.Outcome State Fault Refusal :=
  issue (.swarrive x) { ss := x.a :: usrcRegs x.b }
    (fun c => do
      let a := c.readS x.a
      let b := (c.usrc x.b).toNat
      syncCheck c a true
      let w := c.s.syncWord c.gang.core a.toNat
      if syncMax < w.count + b ∨ (0 < w.target ∧ w.target < w.count + b) then .error (fault 0x16 2 c.exec a)
      else
        syncReady c a
        let s1 ← releaseFirst c c.s .rel
        .ok ((s1.putSync c.gang.core a.toNat { w with count := w.count + b }).syncStep c.gang.core a.toNat)) s

def execSwexpect (x : SwI) (s : State) : Host.Outcome State Fault Refusal :=
  issue (.swexpect x) { ss := x.a :: usrcRegs x.b }
    (fun c => do
      let a := c.readS x.a
      let b := (c.usrc x.b).toNat
      syncCheck c a true
      let w := c.s.syncWord c.gang.core a.toNat
      if syncMax < w.target + b then .error (fault 0x16 1 c.exec a)
      else
        syncReady c a
        .ok ((c.s.putSync c.gang.core a.toNat { w with target := w.target + b }).syncStep c.gang.core a.toNat)) s

/-- ADV: the generation has advanced past `g` (07 R153). -/
def syncAdv (gen g : Nat) : Bool :=
  let d := (gen + 2 ^ 32 - g % 2 ^ 32) % 2 ^ 32
  decide (1 ≤ d) && decide (d ≤ 2 ^ 31)

/-- SWWAIT (07 R153): the split waits until the generation advances, or answers at once. Linking it writes the sync word, so a line that is
owned or pinned is waited for (11 R215). -/
def execSwwait (x : SwWaitI) (s : State) : Host.Outcome State Fault Refusal :=
  issueJump (.swwait x) { ss := x.a :: usrcRegs x.b, ups := [x.d] }
    (fun c => do
      let a := c.readS x.a
      syncCheck c a true
      let w := c.s.syncWord c.gang.core a.toNat
      let adv := syncAdv w.gen (c.usrc x.b).toNat
      if adv ∨ x.try_ ∨ c.s.isTrail c.f.gang then
        pairLoad c c.s (fun s => .ok (s, [BitVec.ofNat 64 (bit adv)]))
          (fun vs s => .ok (advance (s.writeU c.f (.up x.d (decide (vs.headD 0 ≠ 0)))) c.f c.len))
      else
        syncReady c a
        .ok ((c.s.putSync c.gang.core a.toNat { w with wtr := true }).park c.f (.swwait a.toNat ((c.usrc x.b).truncate 32)))) s

/-! ## WAIT (07 R155) -/

def execWait (x : WaitI) (s : State) : Host.Outcome State Fault Refusal :=
  issue (.wait x) {}
    (fun c =>
      if c.grp.ldc ≤ x.ld.val ∧ c.grp.stc ≤ x.st.val ∧ c.grp.cpc ≤ x.cp.val ∧ c.grp.tlc ≤ x.tl.val then .ok c.s
      else .error (.stall .busy)) s

/-! ## LDT and STT (07 R156) -/

/-- The vat address of a tile register of the issuing group. -/
def Iss.tileBase (c : Iss) (t : TReg) : Nat := c.gang.window c.f.group + 128 * c.gang.task.w + 1024 * t.val

/-- The virtual addresses of the lines. -/
def tileLineVas (base stride : Word) (n : Nat) : List Word := (List.range (8 * n)).map (fun i => base + BitVec.ofNat 64 i * stride)

/-- The checks shared by LDT and STT; the translated lines. -/
def tileCheck (c : Iss) (d : TReg) (n : Nat) (a b : SReg) (sw : Option SReg) (k : AccKind) : Except Stop (List Xlat) := do
  if c.gang.task.tiles < d.val + n then .error (fault 0x01 0 c.exec)
  match sw with
    | some r => syncCheck c (c.readS r) false
    | none => .ok ()
  if (c.readS a).toNat % 128 ≠ 0 ∨ (c.readS b).toNat % 128 ≠ 0 then .error (fault 0x04 0 c.exec (c.readS a))
  match firstXlat c.s (c.s.whoOf c.gang c.f) ((tileLineVas (c.readS a) (c.readS b) n).map (fun v => (v, k))) with
    | .error e => .error (xlatFault c (tileLineVas (c.readS a) (c.readS b) n) e)
    | .ok xs => .ok xs

/-- Bytes posted to a sync word, to arrive one by one. -/
def State.post (s : State) (gang core a b : Nat) : State :=
  { s with arrivals := s.arrivals ++
      [{ gang := gang, core := core, base := ((s.gang? gang).map (fun g => g.base)).getD 0, addr := a, bytes := b }] }

/-- A line of memory read into the vat by an engine or LDT: poison and loss are carried (17 R313). -/
def State.copyLineIn (s : State) (core vat pa : Nat) : State :=
  let s1 := s.reach (pa / 128) false
  let s2 := s1.writeVat core vat (s1.mem.readBytes pa 128)
  if s1.tainted pa 128 then s2.poisonVat core vat else s2

/-- A tile line of a pair, as its lead has read it: 16 words, and whether it was poisoned (17 R313, R321). -/
def State.putTileLine (s : State) (core a : Nat) (ws : List Word) : State :=
  let s1 := s.writeVat core a ((ws.take 16).flatMap (fun w => leBytes 8 w.toNat))
  if ws.getD 16 0 = 0 then s1 else s1.poisonVat core a

/-- LDT (07 R156): outside a pair its lines arrive later; the copies of a pair take them at once, as the lead has read them (17 R321). -/
def execLdt (x : LdtI) (s : State) : Host.Outcome State Fault Refusal :=
  let n := x.n1.val + 1
  issue (.ldt x) { ss := x.a :: x.b :: x.sw.toList }
    (fun c => do
      let xs ← tileCheck c x.d n x.a x.b x.sw .read
      roomFor c.grp.ldc
      let vat := fun (i : Nat) => c.tileBase x.d + 128 * i
      if (List.range (8 * n)).any (fun i => c.s.vatBusy c.gang.core (vat i / 128) true) then .error (.stall .busy)
      let s1 ← releaseFirst c c.s .rel
      let s2 ← touch c s1 (tileLineVas (c.readS x.a) (c.readS x.b) n)
      let sync := x.sw.map (fun r => (c.readS r).toNat)
      let l0 : PendLoad := { lanes := c.sp.lanes, regs := [], vals := [], uni := none, carry := none, tile := [], sync := none }
      if c.gang.pair.isNone then
        .ok (addLoad c s2 { l0 with tile := (enumFrom 0 xs).map (fun y => (vat y.1, .phys y.2.pa)), sync := sync })
      else
        pairLoad c s2
          (fun s =>
            if xs.any (fun y => s.physBusy (y.pa / 128) false) then .error (.stall .busy)
            else
              let s3 := s.reachAll (xs.map (fun y => y.pa / 128)) false
              .ok (s3, xs.flatMap (fun y =>
                (List.range 16).map (fun j => BitVec.ofNat 64 (s3.mem.readLE (y.pa + 8 * j) 8)) ++ [BitVec.ofNat 64 (bit (s3.tainted y.pa 128))])))
          (fun vs s =>
            let s3 := (List.range (8 * n)).foldl (fun (s : State) i => s.putTileLine c.gang.core (vat i) ((vs.drop (17 * i)).take 17)) s
            let s4 := match sync with
              | some a => (List.range (8 * n)).foldl (fun s _ => s.post c.f.gang c.gang.core a 128) s3
              | none => s3
            .ok (addLoad c s4 l0))) s

def execStt (x : SttI) (s : State) : Host.Outcome State Fault Refusal :=
  let n := x.n1.val + 1
  issue (.stt x) { ss := [x.a, x.b] }
    (fun c => do
      let xs ← tileCheck c x.d n x.a x.b none .write
      roomFor c.grp.stc
      let vat := fun (i : Nat) => c.tileBase x.d + 128 * i
      if (List.range (8 * n)).any (fun i => c.s.vatBusy c.gang.core (vat i / 128) false) then .error (.stall .busy)
      let s1 ← touch c c.s (tileLineVas (c.readS x.a) (c.readS x.b) n)
      let lines := (enumFrom 0 xs).map (fun y => (y.2, c.s.vatReadBytes c.gang.core (vat y.1) 128))
      let ws := lines.flatMap (fun y => (enumFrom 0 y.2).map (fun b =>
        ({ addr := y.1.pa + b.1, val := b.2, dur := y.1.dur } : ByteWrite)))
      let bad := (enumFrom 0 xs).flatMap (fun y =>
        if c.s.vatPoisoned c.gang.core (vat y.1) then [y.2.pa / 64, y.2.pa / 64 + 1] else [])
      pairRun c s1 (lineSig ((tileLineVas (c.readS x.a) (c.readS x.b) n).zip (lines.map (fun y => y.2))))
        (fun s => .ok (addStore c s (.bytes c.exec ws bad), some []))
        (fun _ s => .ok s)) s

/-! ## CQCFG (07 R146) -/

/-- The registers of a range meet a configured queue other than `k`, or a bound port. -/
def Group.rangeTaken (g : Group) (k : Nat) (a n : Nat) : Bool :=
  (enumFrom 0 g.carry.toList).any (fun y => y.1 ≠ k && (match y.2 with
    | some q => decide (a < q.base + q.depth) && decide (q.base < a + n)
    | none => false)) ||
  (List.range 8).any (fun q => g.portBound q && decide (a ≤ 248 + q) && decide (248 + q < a + n))

def execCqcfg (x : CqCfgI) (s : State) : Host.Outcome State Fault Refusal :=
  issue (.cqcfg x) { vs := [vuse (.v x.a) false] }
    (fun c =>
      let a := x.a.val
      let n := x.depth.val
      if c.sp.lanes ≠ c.grp.live then .error (fault 0x02 0 c.exec)
      else if 8 < n then .error (fault 0x01 0 c.exec)
      else if 0 < n ∧ (c.gang.task.w < a + n ∨ c.grp.rangeTaken x.k.val a n) then .error (fault 0x01 0 c.exec)
      else
        match c.grp.carry[x.k.val] with
        | some q =>
          if !q.unfilled.isEmpty then .error (.stall .busy)
          else
            .ok (c.s.modGroup c.f.gang c.f.group (fun g =>
              { g with carry := g.carry.set x.k.val (if n = 0 then none else some { base := a, depth := n, head := 0, occ := 0, unfilled := [] }) }))
        | none =>
          .ok (c.s.modGroup c.f.gang c.f.group (fun g =>
            { g with carry := g.carry.set x.k.val (if n = 0 then none else some { base := a, depth := n, head := 0, occ := 0, unfilled := [] }) }))) s

end Sys2Proof.Machine
end

