-- ==== Sys2Proof/Machine/Engines.lean ====
section
/-! DEFINITION. The engine members of OP 0x30-0x33 (05 R92-R123): records, ranges and their checks, the commands they start, stream engines, ports, and arrival at a collective operation. -/

namespace Sys2Proof.Machine

/-! ## Checks (05 R94-R96) -/

/-- The first byte of a range that lies outside the allocation or in a window; the range's first byte where it is empty. -/
def Gang.firstOutside (g : Gang) (a n : Nat) : Word :=
  if a < g.base ∨ g.base + g.size ≤ a then BitVec.ofNat 64 a
  else
    let wins := (g.groups.filter (fun x =>
      decide (a < g.window x.slot + 128 * g.task.w + 1024 * g.task.tiles) && decide (g.window x.slot < a + n))).map (fun x => max a (g.window x.slot))
    BitVec.ofNat 64 (wins.foldl min (g.base + g.size))

/-- A range has to lie inside the allocation and outside every window: 0x07 subcause 1, with the first byte that does not (05 R95, R96). -/
def placeCheck (c : Iss) (a n : Nat) : Except Stop Unit :=
  if c.gang.freeRange a n then .ok () else .error (fault 0x07 1 c.exec (c.gang.firstOutside a n))

/-- Step 1 of R96 for one record: its own fields, with a condition of the member's own (`own`), then its place. -/
def checkRegion (c : Iss) (w : Word) (dst : Bool) (own : Region → Bool) : Except Stop Region := do
  let r := Region.ofWord w
  if !reservedOk w ∨ 3 < r.esz ∨ (dst ∧ r.ro) ∨ !own r then .error (fault 0x07 2 c.exec)
  placeCheck c r.base r.extent
  .ok r

/-- Step 2 of R96: the sync word. -/
def checkSync (c : Iss) (sw : Option SReg) : Except Stop Unit :=
  match sw with
  | some r => syncCheck c (c.readS r) false
  | none => .ok ()

/-- Stash units that a vat range meets: an unmapped translation, or a write to a unit that permits none (07 R147, R148). -/
def stashGuard (c : Iss) (a n : Nat) (write : Bool) : Except Stop Unit :=
  let meets := fun (u : StashUnit) => decide (u.vat < a + n) && decide (a < u.vat + 4096)
  let bad := (c.s.core? c.gang.core).stash.filter (fun u => meets u && (u.cut || (write && !u.wr)))
  match bad with
  | [] => .ok ()
  | u :: us =>
    let first := us.foldl (fun b v => if v.vat < b.vat then v else b) u
    let va := first.va + BitVec.ofNat 64 (max a first.vat - first.vat)
    if first.cut then .error (fault 0x05 2 c.exec va (if write then 2 else 1)) else .error (fault 0x06 4 c.exec va 2)

/-- The addresses at which the 64 KiB pieces of a virtual range begin (03 R51: pages are 64 KiB or larger). -/
def rangePieces (va : Word) (n : Nat) : List Word :=
  if n = 0 then []
  else
    let first := 65536 - va.toNat % 65536
    va :: (List.range ((n - first + 65535) / 65536)).map (fun i => va + BitVec.ofNat 64 (first + 65536 * i))

/-- A virtual range translated piece by piece, in ascending order. -/
def xlatRange (c : Iss) (k : AccKind) (va : Word) (n : Nat) : Except Stop (List (Word × Xlat)) :=
  let ps := rangePieces va n
  match firstXlat c.s (c.s.whoOf c.gang c.f) (ps.map (fun v => (v, k))) with
  | .error e => .error (xlatFault c ps e)
  | .ok xs => .ok (ps.zip xs)

/-- The physical address of a byte of a translated range, with the DUR bit of its page. -/
def placeByte (ps : List (Word × Xlat)) (v : Word) : Nat × Bool :=
  match ps.find? (fun x => x.1.toNat / 65536 == v.toNat / 65536) with
  | some x => (x.2.pa + (v.toNat - x.1.toNat), x.2.dur)
  | none => (0, false)

/-- Translations take their place in the miss table. -/
def touchRange (c : Iss) (s : State) (ps : List (Word × Xlat)) : Except Stop State :=
  touch c s (ps.map (fun x => x.1))

/-- The vat lines of a byte range. -/
def rangeLines (a n : Nat) : List Nat := if n = 0 then [] else (List.range ((a + n - 1) / 128 + 1 - a / 128)).map (fun i => a / 128 + i)

/-- A stash read of the lines has to wait: an owner still writes one, or the global line of one to be filled. -/
def State.stashBusy (s : State) (core line : Nat) : Bool :=
  s.vatBusy core line false || (match (s.core? core).unitAt (128 * line) with
    | some u =>
      let i := (128 * line - u.vat) / 128
      (u.state i).isNone && s.physBusy (u.phys / 128 + i) false
    | none => false)

/-- Source lines read now, with the fills of the stash. -/
def readStash (c : Iss) (s : State) (lines : List Nat) : Except Stop State :=
  if lines.any (fun l => s.stashBusy c.gang.core l) then .error (.stall .busy)
  else .ok (lines.foldl (fun s l => s.stashRead c.gang.core (128 * l)) s)

/-! ## Commands (05 R97-R101; 17 R321-R323) -/

/-- The trail of a pair whose lead the gang is. -/
def State.twin (s : State) (g : Gang) : Option Gang :=
  match g.pair with
  | some p => if p.role = .lead then s.gang? p.other else none
  | none => none

/-- CPC of the group with a groupid changes. -/
def State.modCpc (s : State) (gang gid : Nat) (h : Nat → Nat) : State :=
  s.modGang gang (fun g => { g with groups := g.groups.map (fun x => if x.gid.toNat = gid then { x with cpc := h x.cpc } else x) })

/-- CPC changes in the issuing group, and in the trail's group of the same number. -/
def State.modCpcs (s : State) (gang gid : Nat) (h : Nat → Nat) : State :=
  let s1 := s.modCpc gang gid h
  match (s.gang? gang).bind (fun g => s.twin g) with
  | some t => s1.modCpc t.id gid h
  | none => s1

def Loc.offset : Loc → Nat
  | .phys a => a % 128
  | .vat _ a => a % 128

/-- The destination lines of byte moves (destination, source, DUR), each once, its moves in order; `chunk` is the stopping unit of byte `i`
(R103), and a line belongs to that of its first byte. -/
def cmdLines (chunk : Nat → Nat) (bytes : List (Loc × Loc × Bool)) : List CmdLine :=
  ((bytes.map (fun b => b.1.line)).eraseDups).map (fun l =>
    let mine := (enumFrom 0 bytes).filter (fun b => decide (b.2.1.line = l))
    { line := l, moves := mine.map (fun b => (b.2.1.offset, b.2.2.1)), vals := [], bad := false, dur := mine.any (fun b => b.2.2.2)
      chunk := chunk ((mine.map (fun b => b.1)).headD 0) })

/-- A vat destination of a lead is written in both copies' allocations. -/
def twinLines (g t : Gang) (ls : List CmdLine) : List CmdLine :=
  ls.filterMap (fun l => match l.line with
    | .vat core n => if core = g.core then some { l with line := .vat t.core (n + t.base / 128 - g.base / 128) } else none
    | .phys _ => none)

/-- A command of a gang's group begins: it owns its destination lines, and CPC rises. -/
def State.beginCommand (s : State) (g : Gang) (gid : Nat) (kind : CmdKind) (ls : List CmdLine) (us : List Update) (sync : Option Nat) :
    State :=
  let twin := s.twin g
  let all := match twin with
    | some t => ls ++ twinLines g t ls
    | none => ls
  let k : Command :=
    { id := s.nextCmd, gang := g.id, group := gid, kind := kind, lines := all, updates := us, begun := [], sync := sync
      echo := twin.isSome }
  { s.modCpcs g.id gid (· + 1) with commands := s.commands ++ [k], nextCmd := s.nextCmd + 1 }

def State.startCommand (s : State) (c : Iss) (kind : CmdKind) (ls : List CmdLine) (us : List Update) (sync : Option Nat) : State :=
  s.beginCommand c.gang c.grp.gid.toNat kind ls us sync

/-- An engine command of a split: earlier accesses are performed first (R97); a pair's command runs once, for the lead, and one whose
destination is the vat runs again in a replay. -/
def engineRun (c : Iss) (s : State) (i : Instr) (regs : List SReg) (inVat : Bool) (act : State → State) : Except Stop State := do
  roomFor c.grp.cpc
  let s1 ← releaseFirst c s .rel
  let sig := effectSig i (regs.map c.readS)
  if inVat then pairRun c s1 sig (fun s => .ok (s, some [])) (fun _ s => .ok (if s.isTrail c.f.gang then s else act s))
  else pairRun c s1 sig (fun s => .ok (act s, some [])) (fun _ s => .ok s)

/-! ## COPY (05 R104-R106) -/

/-- The record of a side that names one. -/
def sideRegion (c : Iss) (isVat : Bool) (w : Word) (dst : Bool) : Except Stop (Option Region) :=
  if isVat then (checkRegion c w dst (fun _ => true)).map some else .ok none

/-- The length against the EXTENT of a side's record; the address is the first byte behind the region (R96). -/
def fitsExtent (c : Iss) (r : Option Region) (n : Nat) : Except Stop Unit :=
  match r with
  | some x => if x.extent < n then .error (fault 0x07 1 c.exec (BitVec.ofNat 64 (x.base + x.extent))) else .ok ()
  | none => .ok ()

/-- The pages of a virtual side, or the stash units of a vat side. -/
def sidePages (c : Iss) (r : Option Region) (va : Word) (n : Nat) (k : AccKind) : Except Stop (List (Word × Xlat)) :=
  match r with
  | some x => (stashGuard c x.base n k.writes).map (fun _ => [])
  | none => xlatRange c k va n

/-- The location of byte `i` of a side. -/
def sideByte (c : Iss) (r : Option Region) (ps : List (Word × Xlat)) (va : Word) (i : Nat) : Loc × Bool :=
  match r with
  | some x => (.vat c.gang.core (x.base + i), false)
  | none =>
    let y := placeByte ps (va + BitVec.ofNat 64 i)
    (.phys y.1, y.2)

/-- The destination lines of a COPY; it stops where its destination address is a multiple of 4 KiB (R103; DESIGN CHOICE, log 69). -/
def copyLines (c : Iss) (dr sr : Option Region) (dp sp : List (Word × Xlat)) (d a : Word) (len : Nat) : List CmdLine :=
  let first := match dr with
    | some r => r.base
    | none => d.toNat
  cmdLines (fun i => (first + i) / 4096) ((List.range len).map (fun i =>
    let y := sideByte c dr dp d i
    (y.1, (sideByte c sr sp a i).1, y.2)))

def execCopy (x : CopyI) (s : State) : Host.Outcome State Fault Refusal :=
  issue (.copy x) { ss := x.d :: x.a :: x.b :: x.sw.toList }
    (fun c => do
      let len := (c.readS x.b).toNat
      let dr ← sideRegion c x.dv (c.readS x.d) true
      let sr ← sideRegion c x.av (c.readS x.a) false
      checkSync c x.sw
      if 2 ^ 32 ≤ len then .error (fault 0x07 2 c.exec)
      fitsExtent c dr len
      fitsExtent c sr len
      let sp ← sidePages c sr (c.readS x.a) len .read
      let dp ← sidePages c dr (c.readS x.d) len .write
      let s1 ← touchRange c c.s (sp ++ dp)
      engineRun c s1 (.copy x) (x.d :: x.a :: x.b :: x.sw.toList) x.dv
        (fun s => s.startCommand c .copy (copyLines c dr sr dp sp (c.readS x.d) (c.readS x.a) len) [] (x.sw.map (fun r => (c.readS r).toNat)))) s

/-! ## GATHER, SCATTER, SCATADD (05 R107-R111) -/

/-- What the list commands share: the data record, and the element addresses in list order. -/
structure ListCmd where
  data : Region
  addrs : List Word
  size : Nat
  deriving DecidableEq, Repr

/-- The checks of R96 and R108 up to translation; the index list is read at issue, as a stash read where it lies in one, after the split's
earlier accesses (R97, 06 R133). -/
def listChecks (c : Iss) (ty : Ty) (d a b : SReg) (sw : Option SReg) (dst : Bool) : Except Stop (State × ListCmd) := do
  let size := accSize ty
  let dr ← checkRegion c (c.readS d) dst (fun r => decide (2 ^ r.esz = size))
  let ir ← checkRegion c (c.readS b) false (fun r => decide (2 ≤ r.esz))
  checkSync c sw
  let isz := 2 ^ ir.esz
  let n := ir.extent / isz
  if ir.extent % isz ≠ 0 ∨ dr.extent < n * size then .error (fault 0x07 2 c.exec)
  else if (c.readS a).toNat % size ≠ 0 then .error (fault 0x04 0 c.exec (c.readS a))
  else
    stashGuard c ir.base ir.extent false
    let s0 ← releaseFirst c c.s .rel
    let s1 ← readStash c s0 (rangeLines ir.base ir.extent)
    let idx := fun (j : Nat) => BitVec.ofInt 64 (signedOf (8 * isz) (s1.vatReadLE c.gang.core (ir.base + j * isz) isz))
    .ok (s1, { data := dr, addrs := (List.range n).map (fun j => c.readS a + idx j * BitVec.ofNat 64 size), size := size })

/-- The first element, in list order, that fails R55 or a member's own check. -/
def elemXlat (s : State) (w : Who) (k : AccKind) (own : Xlat → Option (Nat × Nat)) : List Word →
    Except (Word × AccKind × Nat × Nat) (List Xlat)
  | [] => .ok []
  | v :: vs =>
    match s.translate w k v with
    | .error e => .error (v, k, e.1, e.2)
    | .ok x =>
      match own x with
      | some e => .error (v, k, e.1, e.2)
      | none => (elemXlat s w k own vs).map (fun xs => x :: xs)

/-- The elements translated, or the trap of the first that fails. -/
def listXlat (c : Iss) (k : AccKind) (own : Xlat → Option (Nat × Nat)) (vas : List Word) : Except Stop (List Xlat) :=
  match elemXlat c.s (c.s.whoOf c.gang c.f) k own vas with
  | .error e => .error (xlatFault c vas e)
  | .ok xs => .ok xs

/-- The bytes of the elements: the vat side packed, the memory side at the elements' addresses. -/
def listBytes (c : Iss) (l : ListCmd) (xs : List Xlat) (toVat : Bool) : List (Loc × Loc × Bool) :=
  (enumFrom 0 xs).flatMap (fun y => (List.range l.size).map (fun i =>
    let v := Loc.vat c.gang.core (l.data.base + y.1 * l.size + i)
    let m := Loc.phys (y.2.pa + i)
    if toVat then (v, m, false) else (m, v, y.2.dur)))

/-- The lines of a GATHER or SCATTER; a slice engine stops between chunks of 256 indices (R103). -/
def ListCmd.lines (c : Iss) (l : ListCmd) (xs : List Xlat) (toVat : Bool) : List CmdLine :=
  cmdLines (fun i => i / l.size / 256) (listBytes c l xs toVat)

def execGather (x : GatherI) (s : State) : Host.Outcome State Fault Refusal :=
  issue (.gather x) { ss := x.d :: x.a :: x.b :: x.sw.toList }
    (fun c => do
      let (s1, l) ← listChecks c x.ty x.d x.a x.b x.sw true
      let xs ← listXlat c .read noOwn l.addrs
      stashGuard c l.data.base (l.addrs.length * l.size) true
      let s2 ← touchRange c s1 (l.addrs.zip xs)
      engineRun c s2 (.gather x) (x.d :: x.a :: x.b :: x.sw.toList) true
        (fun s => s.startCommand c .gather (l.lines c xs true) [] (x.sw.map (fun r => (c.readS r).toNat)))) s

def execScatter (x : ScatterI) (s : State) : Host.Outcome State Fault Refusal :=
  issue (.scatter x) { ss := [x.d, x.a, x.b] }
    (fun c => do
      let (s1, l) ← listChecks c x.ty x.d x.a x.b none false
      stashGuard c l.data.base (l.addrs.length * l.size) false
      let xs ← listXlat c .write noOwn l.addrs
      let s2 ← touchRange c s1 (l.addrs.zip xs)
      engineRun c s2 (.scatter x) [x.d, x.a, x.b] false
        (fun s => s.startCommand c .scatter (l.lines c xs false) [] none)) s

def RedOp.toAtom : RedOp → AtomOp
  | .add => .add
  | .min => .min
  | .max => .max
  | .and => .and
  | .or => .or
  | .xor => .xor

/-- The updates of a SCATADD in list order; a value with a poisoned vat byte poisons what it reaches (R102; 17 R313). -/
def ListCmd.updates (c : Iss) (s : State) (l : ListCmd) (op : AtomOp) (ty : Ty) (xs : List Xlat) : List Update :=
  (enumFrom 0 xs).map (fun y =>
    let a := l.data.base + y.1 * l.size
    { addr := y.2.pa, op := op, ty := ty, val := BitVec.ofNat 64 (s.vatReadLE c.gang.core a l.size), dur := y.2.dur
      bad := (List.range l.size).any (fun i => s.vatPoisoned c.gang.core (a + i)), chunk := y.1 / 256 })

/-- SCATADD (05 R111): its data is read at issue, one of the times R99 allows; the updates reach their slices one by one. -/
def execScatadd (x : ScatAddI) (s : State) : Host.Outcome State Fault Refusal :=
  issue (.scatadd x) { ss := [x.d, x.a, x.b] }
    (fun c => do
      let op := RedOp.toAtom x.op
      let (s1, l) ← listChecks c x.ty x.d x.a x.b none false
      let n := l.addrs.length * l.size
      stashGuard c l.data.base n false
      let xs ← listXlat c .atomic (hostOwn c op x.ty) l.addrs
      let s2 ← touchRange c s1 (l.addrs.zip xs)
      let s3 ← readStash c s2 (rangeLines l.data.base n)
      engineRun c s3 (.scatadd x) [x.d, x.a, x.b] false (fun s => s.startCommand c .scatadd [] (l.updates c s3 op x.ty xs) none)) s

/-! ## Stream engines (05 R112-R119) -/

/-- The record's 64 bytes (05 R112). -/
def StreamRec.ofBytes (bs : List Byte) : StreamRec :=
  let ctl := fieldAt bs 55 1
  let sync := fieldAt bs 56 4
  { base := BitVec.ofNat 64 (fieldAt bs 0 8), ext := (List.range 5).map (fun d => fieldAt bs (8 + 4 * d) 4)
    str := (List.range 5).map (fun d => signedOf 32 (fieldAt bs (28 + 4 * d) 4)), ring := fieldAt bs 48 4 % 2 ^ 23
    slotLines := fieldAt bs 52 2, slots := fieldAt bs 54 1, drain := ctl.testBit 3, esz := bitsOf ctl 5 4
    sync := if sync.testBit 31 then some (sync % 2 ^ 23) else none }

/-- Step 4 of R115: each field against R112. -/
def streamRecOk (bs : List Byte) : Bool :=
  let r := StreamRec.ofBytes bs
  let ctl := fieldAt bs 55 1
  let sync := fieldAt bs 56 4
  let ndim := ctl % 8
  let size := 2 ^ r.esz
  decide (r.base.toNat < 2 ^ 52) && decide (r.base.toNat % size = 0) && decide (1 ≤ ndim) && decide (ndim ≤ 5) &&
  decide (ctl < 2 ^ 6) &&
  (List.range 5).all (fun d =>
    let e := r.ext.getD d 0
    let k := r.str.getD d 0
    if d < ndim then decide (1 ≤ e) && decide (k % ((size : Nat) : Int) = 0) else decide (e = 1) && decide (k = 0)) &&
  decide (fieldAt bs 48 4 < 2 ^ 23) && decide (r.ring % 128 = 0) && decide (1 ≤ r.slotLines) && decide (r.slotLines ≤ 4096) &&
  decide (1 ≤ r.slots) && decide (r.slots ≤ 64) && decide (bitsOf sync 30 23 = 0) &&
  (if sync.testBit 31 then decide (sync % 16 = 0) else decide (sync = 0))

/-- The offsets of the elements in walk order, the first dimension fastest (05 R113). -/
def walkOffsets : List Nat → List Int → List Int
  | e :: es, k :: ks => (walkOffsets es ks).flatMap (fun o => (List.range e).map (fun i => o + ((i : Nat) : Int) * k))
  | _, _ => [0]

/-- The element addresses in walk order. -/
def StreamRec.walk (r : StreamRec) : List Word := (walkOffsets r.ext r.str).map (fun o => r.base + BitVec.ofInt 64 o)

/-- A stream halts: the STRGOs that wait for it complete (05 R101). -/
def State.haltStream (s : State) (core e : Nat) : State :=
  let st := s.streamAt core e
  let s1 := st.starters.foldl (fun (s : State) p => s.modCpcs p.1 p.2 (· - 1)) s
  setStream s1 core e { st with state := if st.state = .free then .free else .idle, starters := [], elems := [] }

/-- The port entry of a group that names an engine is taken away. -/
def State.dropPort (s : State) (gang : Nat) (p : Option (Nat × Nat)) : State :=
  match p with
  | some (slot, q) => setPort s gang slot q none
  | none => s

/-- An engine is released: halted, its ports unbound, FREE. -/
def State.freeStream (s : State) (core e : Nat) : State :=
  let st := s.streamAt core e
  let trail := ((s.gang? st.holder).bind (fun g => s.twin g)).map (fun t => t.id)
  let s1 := (s.haltStream core e).dropPort st.holder st.port
  let s2 := match trail with
    | some t => s1.dropPort t st.twinPort
    | none => s1
  setStream s2 core e Stream.vacant

/-- The engine is held by the issuing gang, or by its lead (05 R114). -/
def holdsEngine (c : Iss) (e : Nat) : Except Stop Unit :=
  let st := c.s.streamOf c.gang e
  if st.state ≠ .free ∧ st.holder = (c.s.engineGang c.gang).id then .ok () else .error (fault 0x06 7 c.exec)

/-- STRCFG (05 R115). A CHK or a field that fails gives the record's address (DESIGN CHOICE, log 108). -/
def execStrcfg (x : StrCfgI) (s : State) : Host.Outcome State Fault Refusal :=
  issue (.strcfg x) { ss := [x.a], ups := [x.d] }
    (fun c => do
      let a := c.readS x.a
      let core := c.gang.core
      if a.toNat % 64 ≠ 0 then .error (fault 0x04 0 c.exec a)
      placeCheck c a.toNat 64
      stashGuard c a.toNat 64 false
      let s0 ← releaseFirst c c.s .rel
      let s1 ← readStash c s0 [a.toNat / 128]
      let bs := s1.vatReadBytes core a.toNat 64
      let r := StreamRec.ofBytes bs
      if (crc32c (bs.take 60)).toNat ≠ fieldAt bs 60 4 then .error (fault 0x07 3 c.exec a)
      if !streamRecOk bs then .error (fault 0x07 2 c.exec a)
      placeCheck c r.ring (r.slots * r.slotBytes)
      match r.sync with
        | some w => placeCheck c w 16
        | none => .ok ()
      roomFor c.grp.cpc
      let st := s1.streamAt core x.e.val
      let free := decide (st.state = .free) || st.holder == c.f.gang
      pairRun c s1 (effectSig (.strcfg x) [a]) (fun s => .ok (s, some [BitVec.ofNat 64 (bit free)]))
        (fun vs s =>
          let got := decide (vs.headD 0 ≠ 0)
          let s3 :=
            if got && free && !s.isTrail c.f.gang then
              let s4 := s.haltStream core x.e.val
              let old := s4.streamAt core x.e.val
              setStream s4 core x.e.val
                { old with state := .idle, holder := c.f.gang, record := r, prod := 0, cons := 0, twin := 0 }
            else s
          .ok (s3.writeU c.f (.up x.d got)))) s

/-- STRGO (05 R114, R116): the source, then the destination is checked, every element in walk order; a running stream goes on. -/
def execStrgo (x : StrGoI) (s : State) : Host.Outcome State Fault Refusal :=
  issue (.strgo x) {}
    (fun c => do
      holdsEngine c x.e.val
      let st := c.s.streamOf c.gang x.e.val
      let k := if st.record.drain then AccKind.write else AccKind.read
      let vas := st.record.walk
      let ring := st.record.slots * st.record.slotBytes
      if st.record.drain then stashGuard c st.record.ring ring false
      let xs ← listXlat c k noOwn vas
      if !st.record.drain then stashGuard c st.record.ring ring true
      let s1 ← touchRange c c.s (vas.zip xs)
      engineRun c s1 (.strgo x) [] true
        (fun s =>
          let old := s.streamAt c.gang.core x.e.val
          let me := (c.f.gang, c.grp.gid.toNat)
          let s2 := s.modCpcs c.f.gang c.grp.gid.toNat (· + 1)
          if old.state = .run then setStream s2 c.gang.core x.e.val { old with starters := old.starters ++ [me] }
          else
            let fresh := fun (s : State) (gang : Nat) (p : Option (Nat × Nat)) => match p with
              | some (slot, q) => setPort s gang slot q (some { engine := x.e.val, line := 0 })
              | none => s
            let s3 := fresh s2 c.f.gang old.port
            let s4 := match s3.twin c.gang with
              | some t => fresh s3 t.id old.twinPort
              | none => s3
            { setStream s4 c.gang.core x.e.val
                { old with
                  state := .run, seq := s.nextCmd, elems := xs.map (fun y => (y.pa, y.dur)), prod := 0, cons := 0, twin := 0
                  starters := [me] } with
              nextCmd := s.nextCmd + 1 })) s

/-- STRHALT (05 R114): complete when the engine is IDLE or FREE, which it is at once between slots. -/
def execStrhalt (x : StrHaltI) (s : State) : Host.Outcome State Fault Refusal :=
  issue (.strhalt x) {}
    (fun c => do
      holdsEngine c x.e.val
      engineRun c c.s (.strhalt x) [] true
        (fun s => if x.rel then s.freeStream c.gang.core x.e.val else s.haltStream c.gang.core x.e.val)) s

/-- SPBIND (05 R119). A port bound again starts at the first line of the current slot (DESIGN CHOICE, log 109). -/
def execSpbind (x : SpBindI) (s : State) : Host.Outcome State Fault Refusal :=
  issue (.spbind x) {}
    (fun c =>
      let bound := c.grp.portBound x.q.val
      match x.e with
      | some e =>
        match holdsEngine c e.val with
        | .error t => .error t
        | .ok _ =>
          let st := c.s.streamOf c.gang e.val
          if st.port.isSome ∨ bound then .error (fault 0x01 0 c.exec)
          else
            .ok ((setPort c.s c.f.gang c.f.group x.q.val (some { engine := e.val, line := 0 })).putStream c.gang e.val
              { st with port := some (c.f.group, x.q.val) })
      | none =>
        match c.grp.ports[x.q.val] with
        | none => .error (fault 0x01 0 c.exec)
        | some p =>
          .ok ((setPort c.s c.f.gang c.f.group x.q.val none).putStream c.gang p.engine
            { c.s.streamOf c.gang p.engine with port := none })) s

/-- Slots on the group side (05 R117). -/
def Stream.groupSide (st : Stream) : Nat :=
  if st.record.drain then st.record.slots - (st.prod - st.cons) else st.prod - st.cons

/-- SLOTSIG (05 R118). -/
def execSlotsig (x : SlotSigI) (s : State) : Host.Outcome State Fault Refusal :=
  issue (.slotsig x) {}
    (fun c => do
      holdsEngine c x.e.val
      let st := c.s.streamOf c.gang x.e.val
      if st.port.isSome then .error (fault 0x01 0 c.exec)
      else if st.groupSide < x.n.val then .error (fault 0x07 4 c.exec)
      else
        let s1 ← releaseFirst c c.s .rel
        .ok (s1.putStream c.gang x.e.val
          (if st.record.drain then { st with prod := st.prod + x.n.val } else { st with cons := st.cons + x.n.val }))) s

/-! ## COLL (05 R120-R123) -/

/-- The configured collective group, where it is granted to the context. -/
def State.collGroup? (s : State) (id ctx : Nat) : Option CollGroup := s.collGroups.find? (fun g => g.id == id && g.tag == ctx)

/-- Bytes of the destination of a member among `p`. -/
def collDst (k : CollKind) (p n size : Nat) : Nat :=
  match k with
  | .allreduce | .bcast => n * size
  | .redscat => n / p * size
  | .allgather => p * n * size

/-- Two byte ranges meet. -/
def rangesMeet (a n b m : Nat) : Bool := decide (a < b + m) && decide (b < a + n) && decide (0 < n) && decide (0 < m)

/-- COLL (05 R121, R122): the operands' own ranges, the group, the counts against it, alignment, overlap, translation (DEDUCED, log 28); then
its split waits at the rendezvous. -/
def execColl (x : CollI) (s : State) : Host.Outcome State Fault Refusal :=
  issueJump (.coll x) { ss := [x.d, x.a, x.b, x.c], feature := some 4 }
    (fun c => do
      let n := (c.readS x.b).toNat
      let w := (c.readS x.c).toNat
      let size := accSize x.ty
      let root := bitsOf w 17 8
      if n = 0 ∨ 2 ^ 32 ≤ n ∨ 2 ^ 18 ≤ w ∨ (x.kind ≠ .bcast ∧ root ≠ 0) then .error (fault 0x07 2 c.exec)
      else
        match c.s.collGroup? (w % 256) c.gang.ctx with
        | none => .error (fault 0x06 6 c.exec)
        | some g =>
          let p := g.chips.length
          let d := c.readS x.d
          let a := c.readS x.a
          let dn := collDst x.kind p n size
          let same := decide (d = a) && (decide (x.kind = .allreduce) || (decide (x.kind = .bcast) && root == g.me))
          if (x.kind = .redscat ∧ n % p ≠ 0) ∨ (x.kind = .bcast ∧ p ≤ root) then .error (fault 0x07 2 c.exec)
          else if d.toNat % size ≠ 0 ∨ a.toNat % size ≠ 0 then
            .error (fault 0x04 0 c.exec (if d.toNat % size ≠ 0 then d else a))
          else if rangesMeet d.toNat dn a.toNat (n * size) ∧ !same then .error (fault 0x07 2 c.exec)
          else
            let srcN := if x.kind = .bcast ∧ root ≠ g.me then 0 else n * size
            let sp ← xlatRange c .read a srcN
            let dp ← xlatRange c .write d dn
            let s1 ← touchRange c c.s (sp ++ dp)
            roomFor c.grp.cpc
            let s2 ← releaseFirst c s1 .rel
            let wt : CollWait :=
              { group := g.id, gang := c.f.gang, slot := c.f.group, split := c.f.split, lanes := c.exec, pc := c.sp.pc, kind := x.kind
                op := x.op, ty := x.ty, n := n, root := root
                dst := (List.range dn).map (fun i => placeByte dp (d + BitVec.ofNat 64 i))
                src := (List.range srcN).map (fun i => (placeByte sp (a + BitVec.ofNat 64 i)).1), isSeal := none }
            pairRun c s2 (effectSig (.coll x) [d, a, c.readS x.b, c.readS x.c])
              (fun s => .ok ({ s.park c.f (.coll g.id) with collWaits := s.collWaits ++ [wt] }, none))
              (fun _ s => .ok (advance s c.f c.len))) s

end Sys2Proof.Machine
end

