-- ==== Sys2Proof/Machine/EngineLines.lean ====
section
/-! DEFINITION. One line of an engine command: whom its write and its reads wait for (05 R98; 07 R147; 11 R215), the bytes and marks it leaves (R99-R102), the stopping units of a command (R103; 16 R305). -/

namespace Sys2Proof.Machine

/-! ## Whom an engine waits for (05 R98; 11 R215) -/

/-- An engine command that began earlier still has to write the line. -/
def State.commandBefore (s : State) (l : Loc) (seq : Nat) : Bool :=
  s.commands.any (fun c => decide (c.id < seq) && c.lines.any (fun x => decide (x.line = l)))

/-- A stream engine, a tile operation or a tile load that began earlier still has to write the line; the streams of saved gangs too. -/
def State.otherBefore (s : State) (l : Loc) (seq : Nat) : Bool :=
  match l with
  | .phys n =>
    let mine := fun (st : Stream) => decide (st.seq < seq) && st.remaining.any (fun e => e.1 / 128 == n)
    s.cores.any (fun c => c.streams.any mine) || s.saves.any (fun v => v.streams.any (fun st => mine st.2))
  | .vat core n =>
    (s.streamsOn core).any (fun st => decide (st.seq < seq) && st.fillHolds (128 * n)) ||
    (s.tilesOn core).any (fun t => decide (t.order < seq) && t.owned.contains n) || s.ldtHolds core n

/-- An agent that began earlier still has to write the line. -/
def State.ownedBefore (s : State) (l : Loc) (seq : Nat) : Bool := s.commandBefore l seq || s.otherBefore l seq

/-- An earlier agent owns the line: a pin holds back the grant to a command (11 R215). -/
def State.grantedBefore (s : State) (l : Loc) (seq : Nat) : Bool := (s.commandBefore l seq && !s.pinnedLoc l) || s.otherBefore l seq

/-- A stash copy of a physical line holds back an engine: an earlier agent still writes the copy, or a pin delays what the access does to it
(07 R147). -/
def State.copyHolds (s : State) (line seq : Nat) (write : Bool) : Bool :=
  (enumFrom 0 s.cores).any (fun c => (c.2.copies line).any (fun u =>
    let v := u.1.vat / 128 + u.2
    s.grantedBefore (.vat c.1 v) seq || (s.pinned c.1 v && (write || u.1.lines.any (fun x => x.1 == u.2 && x.2)))))

/-- The global line of a vat line that a stash read or write has to reach. -/
def State.stashGlobal (s : State) (core line : Nat) (write : Bool) : Option Nat :=
  match (s.core? core).unitAt (128 * line) with
  | none => none
  | some u =>
    let i := (128 * line - u.vat) / 128
    if (u.state i).isSome && !(write && u.coh) then none else some (u.phys / 128 + i)

/-- An engine that began at `seq` cannot read the line yet. -/
def State.readHeld (s : State) (l : Loc) (seq : Nat) : Bool :=
  s.grantedBefore l seq ||
  (match l with
   | .phys n => s.copyHolds n seq false
   | .vat core n => match s.stashGlobal core n false with
     | some g => s.grantedBefore (.phys g) seq || s.copyHolds g seq false
     | none => false)

/-- An engine that began at `seq` cannot write the line yet. -/
def State.writeHeld (s : State) (l : Loc) (seq : Nat) : Bool :=
  s.ownedBefore l seq ||
  (match l with
   | .phys n => s.copyHolds n seq true
   | .vat core n =>
     s.pinned core n || (match s.stashGlobal core n true with
       | some g => s.ownedBefore (.phys g) seq || s.copyHolds g seq true
       | none => false))

/-- An engine's read of a line: partials merge, a stash line is filled. -/
def State.readLine (s : State) (l : Loc) : State :=
  match l with
  | .phys n => s.reach n false
  | .vat core n => s.stashRead core (128 * n)

/-- A byte at a location, and whether it is poisoned or lost. -/
def State.byteAt (s : State) (l : Loc) : Byte :=
  match l with
  | .phys a => s.mem.read a
  | .vat core a => s.vatRead core a

def State.badAt (s : State) (l : Loc) : Bool :=
  match l with
  | .phys a => s.tainted a 1
  | .vat core a => s.vatPoisoned core a

/-- The gang's engines move: it is not stopped (05 R103). -/
def Gang.moves (g : Gang) : Bool := decide (g.run = .running) || decide (g.run = .preempting)

/-! ## One line of a command (05 R98-R102) -/

/-- Bytes of a line put at their offsets; a line that cannot be delivered right is poisoned under the gang's tag (05 R102). -/
def State.putLine (s : State) (g : Gang) (l : Loc) (bs : List (Nat × Byte)) (bad dur : Bool) : State :=
  match l with
  | .phys n =>
    let s1 := s.writePhys g.id (bs.map (fun b => ({ addr := 128 * n + b.1, val := b.2, dur := dur } : ByteWrite)))
    if bad then (s1.poisonFor g.ctx (2 * n)).poisonFor g.ctx (2 * n + 1) else s1
  | .vat core n =>
    let first := bs.foldl (fun m b => min m b.1) 128
    let s1 := s.stashWrite core (128 * n + first) (bs.map (fun b => b.2))
    if bad then s1.poisonVat core (128 * n) else s1

/-- The same line of the trail's allocation. -/
def State.twinLine (s : State) (g : Gang) (l : Loc) : Option (Gang × Loc) :=
  match s.twin g, l with
  | some t, .vat core n => if core = g.core then some (t, .vat t.core (n + t.base / 128 - g.base / 128)) else none
  | _, _ => none

/-- Bytes posted to a command's sync word: in the copy whose vat was written, or in both. -/
def State.postBytes (s : State) (g : Gang) (sync : Option Nat) (n : Nat) : State :=
  match sync with
  | none => s
  | some a =>
    let s1 := s.post g.id g.core a n
    match s.twin g with
    | some t => s1.post t.id t.core (a + t.base - g.base) n
    | none => s1

/-- The naturally aligned 4-byte unit of a location (05 R99). -/
def Loc.unit : Loc → Loc
  | .phys a => .phys (a / 4)
  | .vat c a => .vat c (a / 4)

/-- The moves of a line whose source unit is read now become known bytes (05 R99: a unit is read once). -/
def CmdLine.capture (l : CmdLine) (s : State) (units : List Loc) : CmdLine :=
  let now := l.moves.filter (fun m => units.contains m.2.unit)
  { l with
    moves := l.moves.filter (fun m => !units.contains m.2.unit), vals := l.vals ++ now.map (fun m => (m.1, s.byteAt m.2))
    bad := l.bad || now.any (fun m => s.badAt m.2) }

/-- A copy command that its core's copy engine works on: it is among the first 16 of the gangs there that are not stopped (05 R92). -/
def State.worked (s : State) (core : Nat) (c : Command) : Bool :=
  let there := fun (k : Command) => decide (k.kind = .copy) && (match s.gang? k.gang with
    | some g => g.core == core && g.moves
    | none => false)
  decide (c.kind ≠ .copy) || ((s.commands.filter there).take 16).any (fun k => k.id == c.id)

/-- A line of a command written, released, and its bytes posted; none while it has to wait. -/
def State.writeCmdLine (s : State) (c : Command) (l : CmdLine) : Option State :=
  match s.gang? c.gang with
  | none => none
  | some g =>
    let twin := s.twinLine g l.line
    let mine := match l.line with
      | .phys _ => true
      | .vat core _ => core == g.core
    let srcs := (l.moves.map (fun m => m.2.line)).eraseDups
    let held := s.writeHeld l.line c.id || srcs.any (fun x => s.readHeld x c.id) || (match twin with
      | some (_, t) => s.writeHeld t c.id
      | none => false)
    if !g.moves || !mine || held || !s.worked g.core c then none
    else
      let s1 := srcs.foldl State.readLine s
      let units := (l.moves.map (fun m => m.2.unit)).eraseDups
      let bs := l.moves.map (fun m => (m.1, s1.byteAt m.2)) ++ l.vals
      let bad := l.bad || l.moves.any (fun m => s1.badAt m.2)
      let s2 := s1.putLine g l.line bs bad l.dur
      let s3 := match twin with
        | some (t, y) => s2.putLine t y bs bad l.dur
        | none => s2
      let stays := fun (x : CmdLine) => decide (x.line ≠ l.line) && (match twin with
        | some (_, y) => decide (x.line ≠ y)
        | none => true)
      let next := fun (k : Command) =>
        if k.id = c.id then
          { k with lines := (k.lines.filter stays).map (fun x => x.capture s1 units), begun := (l.chunk :: k.begun).eraseDups }
        else k
      some (({ s3 with commands := s3.commands.map next } : State).postBytes g c.sync bs.length)

/-- The line of a command at a place in its list. -/
def State.engineLine (s : State) (cmd line : Nat) : Option State :=
  match s.commands.find? (fun c => c.id == cmd) with
  | none => none
  | some c => match c.lines[line]? with
    | some l => s.writeCmdLine c l
    | none => none

/-! ## Stopping points (05 R103; 16 R305) -/

/-- A command stands between its stopping units: none is begun and not finished. -/
def Command.atStop (c : Command) : Bool :=
  !(c.lines.any (fun l => c.begun.contains l.chunk)) && !(c.updates.any (fun u => c.begun.contains u.chunk))

/-- The next update of a SCATADD reaches its slice. -/
def State.putUpdate (s : State) (c : Command) : Option State :=
  match s.gang? c.gang, c.updates with
  | some g, u :: us =>
    if s.physBusy (u.addr / 128) true || !g.moves then none
    else
      let s1 := s.arriveUpdate g.id (s.gangDie g.id) u
      some { s1 with commands := s1.commands.map (fun k =>
        if k.id = c.id then { k with updates := us, begun := (u.chunk :: k.begun).eraseDups } else k) }
  | _, _ => none

/-- The begun units of a gang's commands are finished, but for lines that have to wait for another agent: a kill cancels a command at its
stopping point (R103; DESIGN CHOICE, log 69). -/
def State.finishUnits (s : State) (gang : Nat) : State :=
  let now := fun (s : State) (id : Nat) => s.commands.find? (fun k => k.id == id)
  (s.commands.filter (fun c => c.gang == gang)).foldl (fun (s : State) c =>
    let s1 := (c.lines.filter (fun l => c.begun.contains l.chunk)).foldl (fun (s : State) l =>
      ((now s c.id).bind (fun k => (k.lines.find? (fun x => decide (x.line = l.line))).bind (s.writeCmdLine k))).getD s) s
    (c.updates.filter (fun u => c.begun.contains u.chunk)).foldl (fun (s : State) _ => ((now s c.id).bind s.putUpdate).getD s) s1) s

end Sys2Proof.Machine
end

