-- ==== Sys2Proof/Machine/Schedule.lean ====
section
/-! DEFINITION. Whose turn it is: the agenda, else the partition schedulers (15 R289, R290) alternating with the events that can happen (DESIGN CHOICE, log 1). -/

namespace Sys2Proof.Machine

/-! ## The partition scheduler (15 R290) -/

/-- The partition a focus issues in. -/
def State.partitionOf (s : State) (f : Focus) : Nat × Nat :=
  match s.gang? f.gang with
  | none => (0, 0)
  | some g => (g.core, g.parts.getD f.group 0)

/-- The splits of a gang, its handler split last. -/
def Gang.candidates (g : Gang) : List (Focus × Split) :=
  g.groups.flatMap (fun x => x.liveSplits.map (fun y => ({ gang := g.id, group := x.slot, split := y.1 }, y.2))) ++
  (match g.handler, g.halt with
   | some sp, some h => [({ gang := g.id, group := h.group, split := 4 }, sp)]
   | _, _ => [])

/-- The splits of the machine, gang by gang. -/
def State.allSplits (s : State) : List (Focus × Split) := s.gangs.flatMap Gang.candidates

/-- READY, or stalled and to be tried again. -/
def Status.open : Status → Bool
  | .ready | .stalled _ true => true
  | _ => false

/-- The splits that may issue now and are not stalled. -/
def State.readySplits (s : State) : List (Focus × Split) :=
  s.allSplits.filter (fun x => x.2.status.open && s.canIssue x.1)

/-- The slot of a focus's group in its partition. -/
def State.placeAt (s : State) (f : Focus) : Nat := ((s.gang? f.gang).map (fun g => g.places.getD f.group 0)).getD 0

/-- One candidate comes before another: boosted earliest, then priority, then age, then the group slot in the partition, then the split
slot. -/
def State.before (s : State) (a b : Focus × Split) : Bool :=
  let prio := fun (x : Focus × Split) => match s.group? x.1.gang x.1.group with
    | some g => g.prio.val
    | none => 0
  match a.2.boost, b.2.boost with
  | some i, some j => decide (i ≤ j)
  | some _, none => true
  | none, some _ => false
  | none, none =>
    if prio a ≠ prio b then decide (prio b < prio a)
    else if a.2.age ≠ b.2.age then decide (a.2.age < b.2.age)
    else if s.placeAt a.1 ≠ s.placeAt b.1 then decide (s.placeAt a.1 < s.placeAt b.1)
    else decide (a.1.split ≤ b.1.split)

def State.firstOf (s : State) : List (Focus × Split) → Option Focus
  | [] => none
  | x :: xs => some (xs.foldl (fun best y => if s.before best y then best else y) x).1

/-- The split that issues next: the partitions take turns, each by R290. -/
def State.pickSplit (s : State) : Option Focus :=
  let rs := s.readySplits
  let ps := (rs.map (fun x => s.partitionOf x.1)).eraseDups
  match ps[s.order / 2 % ps.length]? with
  | none => none
  | some p => s.firstOf (rs.filter (fun x => s.partitionOf x.1 == p))

/-- A split after a clock in which its partition issued `f`: picked, ready and not picked, or not ready. -/
def State.waited (s : State) (f g : Focus) (sp : Split) : Split :=
  if g = f then { sp with idle := 0, boost := none }
  else if sp.status.open && s.canIssue g then { sp with idle := sp.idle + 1 } else { sp with idle := 0 }

/-- The state in which the picked split issues: the other ready splits of its partition have waited one clock more. -/
def State.pick (s : State) (f : Focus) : State :=
  let p := s.partitionOf f
  let bump := fun (g : Gang) (x : Group) (i : Nat) (sp : Split) => s.waited f { gang := g.id, group := x.slot, split := i } sp
  { s with
    cur := f
    gangs := s.gangs.map (fun g => if g.core ≠ p.1 then g else
      { g with
        groups := g.groups.map (fun x => if g.parts.getD x.slot 0 ≠ p.2 then x else
          { x with splits := Vector.ofFn (fun i => (x.splits[i]).map (bump g x i.val)) })
        handler := match g.halt with
          | some h => if g.parts.getD h.group 0 ≠ p.2 then g.handler else
              g.handler.map (s.waited f { gang := g.id, group := h.group, split := 4 })
          | none => g.handler }) }

/-! ## Clocks (01 R14) -/

/-- Core clocks in a microsecond (01 R14). -/
def clocksPerUs : Nat := 1400

/-- A split on a die stands stalled because the miss table is full (03 R57). -/
def State.tableWaits (s : State) (die : Nat) : Bool :=
  s.gangs.any (fun g => s.part.dieOf g.core == die && g.groups.any (fun x => x.liveSplits.any (fun y => match y.2.status with
    | .stalled .table _ => true
    | _ => false)))

/-- Clocks pass on a die: a new ageing block applies from the next microsecond (15 R281), a full miss table is waited on (03 R57). -/
def State.tickDie (s : State) (n i : Nat) (d : DieRec) : DieRec :=
  let later := d.clock.toNat / clocksPerUs < (d.clock.toNat + n) / clocksPerUs
  { d with
    clock := d.clock + BitVec.ofNat 64 n
    ageing := if later then d.newAgeing.getD d.ageing else d.ageing
    newAgeing := if later then none else d.newAgeing
    fullWaits := if 512 ≤ d.walks.length ∧ s.tableWaits i then d.fullWaits + BitVec.ofNat 64 n else d.fullWaits }

/-- Clocks pass on every die and on every queue's timer (15 R281), forwarding entries grow old (15 R288), the power cap withholds what it
withholds (01 R17, log 23). -/
def State.tick (s : State) (n : Nat) : State :=
  { s with
    dies := Vector.ofFn (fun i => s.tickDie n i.val s.dies[i])
    queues := s.queues.map (fun q =>
      if q.kind = 1 ∧ s.mem.readLE (q.hdr + 16) 8 ≠ s.mem.readLE (q.hdr + 24) 8 then { q with timer := q.timer + n, waited := q.waited + n } else q)
    forwards := s.forwards.map (fun f => { f with left := f.left - n })
    withheld := s.withheld + Config.withheldSlots s.free, free := s.free + 1 }

/-! ## Before a split issues (13 R240; 17 R327) -/

/-- A halt has not stopped the split (16 R294). -/
def Gang.lives (g : Gang) (slot i : Nat) : Bool :=
  decide (g.run = .running) && g.haltAllows { gang := g.id, group := slot, split := i }

/-- The splits that merge with the one in a slot before it issues. -/
def State.mergePartners (s : State) (gang slot i : Nat) : List Nat :=
  match s.gang? gang, s.group? gang slot with
  | some g, some x =>
    match x.split? i with
    | none => []
    | some sp =>
      if sp.atJoin || !s.canIssue { gang := gang, group := slot, split := i } || 4 ≤ i then []
      else (x.matching i).filter (fun j => g.lives slot j)
  | _, _ => []

/-- The event that comes before a split issues: an injection that is due in its group, the reconvergence point at which it stands, a merge. -/
def State.mergeDue (s : State) (f : Focus) : Option Instr :=
  match s.gang? f.gang, s.split? f with
  | some g, some sp =>
    match (enumFrom 0 g.injections).find? (fun x => x.2.live && x.2.group == f.group && decide (x.2.remaining = 0) && decide (x.2.kind ≠ 0)) with
    | some x => some (.injectionFire { gang := f.gang, idx := x.1 })
    | none =>
      if f.split = 4 then (if sp.atJoin then some (.reconvergence { gang := f.gang, group := f.group, idx := 4 }) else none)
      else if sp.atJoin then some (.reconvergence { gang := f.gang, group := f.group, idx := f.split })
      else if (s.mergePartners f.gang f.group f.split).isEmpty then none
      else some (.splitMerge { gang := f.gang, group := f.group, idx := f.split })
  | _, _ => none

/-! ## Events an empty agenda tries in turn (DESIGN CHOICE, log 1); one that cannot happen yet changes nothing -/

/-- Those of a group. -/
def Group.due (id : Nat) (x : Group) : List Instr :=
  (enumFrom 0 x.loads).map (fun y => Instr.loadComplete { gang := id, group := x.slot, idx := y.1 }) ++
  (enumFrom 0 x.stores).map (fun y => Instr.storePerformed { gang := id, group := x.slot, idx := y.1 }) ++
  (if x.tiles.isEmpty then [] else
    [.tileOperationStart { gang := id, group := x.slot }, .tileOperationComplete { gang := id, group := x.slot }]) ++
  x.liveSplits.flatMap (fun y => match y.2.status with
    | .waiting .reconv => [.reconvergence { gang := id, group := x.slot, idx := y.1 }]
    | .waiting (.member ..) => [.membershipComplete { gang := id, group := x.slot }]
    | _ => [])

/-- Those of a gang. -/
def Gang.due (g : Gang) : List Instr :=
  let e : EvGang := { gang := g.id }
  g.groups.flatMap (Group.due g.id) ++
  (if g.halt.isSome then [.skidEnd e, .handlerDelivery e, .ezdenTrap e] else []) ++
  (if g.run = .preempting then [.preemptionComplete e] else []) ++
  (if g.pend.isEmpty then [] else [.materialisation e]) ++
  (if g.groups.isEmpty then [.gangExit e] else [.gsyncComplete e]) ++
  (if g.pair.isSome then [.signatureMatch e, .pairRollback e, .pairRestore e] else []) ++
  (enumFrom 0 g.channels.toList).flatMap (fun c => if c.2.waiting.isEmpty then [] else [.appendElementWrite { gang := g.id, idx := c.1 }])

/-- Those of a core. -/
def CoreRec.due (core : Nat) (c : CoreRec) : List Instr :=
  (if c.deckle.isEmpty then [] else [.deckleBecome { core := core }]) ++
  (if c.replay.isEmpty then [] else [.replayQueueExecution { core := core, idx := 0 }]) ++
  (enumFrom 0 c.streams.toList).flatMap (fun x => if x.2.state ≠ .run then [] else
    [.fillSlotReady { core := core, idx := x.1 }, .drainSlotReturn { core := core, idx := x.1 }, .streamLastElement { core := core, idx := x.1 }])

/-- Those of an engine command. -/
def Command.due (c : Command) : List Instr :=
  (enumFrom 0 c.lines).map (fun x => Instr.engineLineWrite { cmd := c.id, line := x.1 }) ++
  (if c.lines.isEmpty then [.engineCommandComplete { cmd := c.id }] else [])

/-- Updates of SCATADD commands. -/
def State.dueUpdates (s : State) (g : Gang) : List Instr :=
  g.groups.flatMap (fun x =>
    (enumFrom x.stores.length (s.commands.filter (fun c => c.gang == g.id && c.group == x.gid.toNat && decide (c.kind = .scatadd)))).map (fun c =>
      .redUpdateArrival { gang := g.id, group := x.slot, idx := c.1 }))

def State.dueEvents (s : State) : List Instr :=
  s.gangs.flatMap Gang.due ++ s.gangs.flatMap s.dueUpdates ++ (enumFrom 0 s.cores).flatMap (fun x => CoreRec.due x.1 x.2) ++ s.commands.flatMap Command.due ++
  (enumFrom 0 s.arrivals).map (fun x => .syncWordArrival { idx := x.1 }) ++
  (enumFrom 0 s.dies.toList).flatMap (fun d => if d.2.walks.isEmpty then [] else
    [.walkStart { die := Fin.ofNat 4 d.1 }, .walkComplete { die := Fin.ofNat 4 d.1, idx := 0 }]) ++
  (enumFrom 0 s.queues).flatMap (fun q => if q.2.kind = 1 then [.taskDispatch { die := Fin.ofNat 4 q.2.die }, .effectiveLevelRaise { idx := q.1 }] else []) ++
  (enumFrom 0 s.succs).map (fun x => .successorPush { idx := x.1 })

/-! ## The next turn -/

/-- The turn of an empty agenda. -/
def State.defaultTurn (s : State) : Turn :=
  let es := s.dueEvents
  let event := match es[s.order / 4 % es.length]? with
    | some e => Turn.event e
    | none => .tick 1
  match s.order % 4 with
  | 1 => event
  | 3 => .tick 1
  | _ => match s.pickSplit with
    | some f => .issue f
    | none => event

/-- The next turn and the agenda that remains. -/
def State.nextTurn (s : State) : Turn × List Turn :=
  match s.agenda with
  | t :: rest => (t, rest)
  | [] => (s.defaultTurn, [])

/-- Rows that are events of the part and no instruction of a program. -/
def isEvent (i : Instr) : Bool := i.fields.isNone && decide (i ≠ .notAnInstruction)

/-- What a step does: a row of the table with the state it runs in, or the state after clocks pass. -/
inductive Due where
  | run (i : Instr) (s : State)
  | idle (s : State)
  deriving DecidableEq, Repr

/-- The row the next step runs. -/
def State.due (s : State) : Due :=
  let (t, rest) := s.nextTurn
  let s0 := { s with agenda := rest, order := s.order + 1 }
  match t with
  | .issue f =>
    if s0.canIssue f then
      match s0.mergeDue f with
      | some e => .run e s0
      | none => .run (s0.instrAt f) (s0.pick f)
    else .idle s0
  | .event i => if isEvent i then .run i s0 else .idle s0
  | .tick n => .idle ((s0.tick n).retry)

/-! ## A program placed from outside (log 18) -/

/-- The tag of a context that does not exist yet. -/
def State.freeTag (s : State) : Nat :=
  ((List.range 4094).map (· + 1)).find? (fun t => !(s.contexts.any (fun c => c.tag == t))) |>.getD 1

/-- The record of a gang of one group with the largest window, entered at virtual address 0x10000. -/
def oneGroup (tag : Nat) : TaskRec :=
  { entry := 0x10000, arg := 0, tc0 := 0, tc1 := 0, tc2 := 0, succ := 0, groups := 1, win := 16, tiles := 0, chan := 0
    budget := 1, spill := 0, stash := 0, prog := 0, prio := 0, replay := false, paired := false, chk := 0, ctx := tag }

/-- A context whose page at 0x10000 is executable and holds the bytes, and a gang entered there: what the host's commands and
a task record bring about. -/
def State.placeProgram (s : State) (bytes : List Byte) : State :=
  let tag := s.freeTag
  let s1 := s.addContext (Context.fresh tag 0)
  match s1.ctx? tag with
  | none => s
  | some c =>
    let s2 := s1.mapPage c.root 0x10000 0 0 0x1A tag
    let s3 := { s2 with mem := s2.mem.writeBytes 0 bytes }
    let t := oneGroup tag
    let (core, base) := (s3.place 0 t (fun _ => true)).getD (0, 0)
    { s3.startGang core base t none with agenda := [.issue { gang := s3.nextGang, group := 0, split := 0 }] }

/-- The physical address the next step fetches at, when the next step issues an instruction. -/
def State.fetchPlace (s : State) : Option Nat :=
  let (t, _) := s.nextTurn
  match t with
  | .issue f =>
    if s.canIssue f ∧ s.mergeDue f = none then
      match s.gang? f.gang, s.split? f with
      | some g, some sp =>
        match s.translate (s.whoOf g f) .fetch sp.pc, s.translate (s.whoOf g f) .fetch (sp.pc + 19) with
        | .ok x, .ok y => if x.pa + 19 = y.pa then some x.pa else none
        | _, _ => none
      | _, _ => none
    else none
  | _ => none

end Sys2Proof.Machine
end

