-- ==== Sys2Proof/Machine/Press.lean ====
section
/-! DEFINITION. The press members of OP 0x34-0x36 (11 R208-R222): reservations, the checks of tile operations and of their regions, the press queue, batches. -/

namespace Sys2Proof.Machine

/-! ## Reservations (11 R208-R212) -/

/-- The press of the cluster a gang is resident on. -/
def Gang.press (g : Gang) : Nat := clusterOf g.core

def State.reservation? (s : State) (g : Gang) : Option Reservation :=
  (s.press? g.press).reservations.find? (fun r => r.gang == g.id)

def State.modReservation (s : State) (g : Gang) (h : Reservation → Reservation) : State :=
  s.modPress g.press (fun p => { p with reservations := p.reservations.map (fun r => if r.gang = g.id then h r else r) })

/-- A mould and an accumulator as a grant clears them. -/
def Mould.fresh : Mould := { cells := Memory.empty, scales := Memory.empty, wB := 8, tag := .dense, bad := false }
def Acc.fresh : Acc := { vals := Memory.empty, poison := 0 }

/-- Units the reservations of a press hold. -/
def Press.usedMoulds (p : Press) : Nat := (p.reservations.map (fun r => r.moulds.length)).foldl (· + ·) 0
def Press.usedAccs (p : Press) : Nat := (p.reservations.map (fun r => r.accs.length)).foldl (· + ·) 0

/-- The tile operations of a gang. -/
def Gang.tileOps (g : Gang) : List TileOp := g.groups.flatMap (fun x => x.tiles)

/-- A refusal is counted. -/
def State.refuse (s : State) (gang : Nat) : State := s.modGang gang (fun g => { g with refused := min 0xFFFF (g.refused + 1) })

/-- MRES's request and its answer (11 R210). -/
def State.reserve (s : State) (g : Gang) (nm nk : Nat) : State × Bool :=
  let p := s.press? g.press
  let grant := s.modPress g.press (fun p => { p with reservations := p.reservations ++
    [{ gang := g.id, releasing := false, moulds := List.replicate nm Mould.fresh, accs := List.replicate nk Acc.fresh }] })
  match s.reservation? g with
  | some r =>
    if r.releasing then (s.refuse g.id, false) else (s, decide (nm ≤ r.moulds.length) && decide (nk ≤ r.accs.length))
  | none =>
    if p.shared ∨ (p.usedMoulds + nm ≤ 32 ∧ p.usedAccs + nk ≤ 8) then (grant, true) else (s.refuse g.id, false)

/-- A reservation's units are free, their contents lost. -/
def State.unreserve (s : State) (g : Gang) : State :=
  s.modPress g.press (fun p => { p with reservations := p.reservations.filter (fun r => r.gang ≠ g.id) })

/-- A trail counts a refusal as its lead does: not where the gang holds a reservation that is too small (11 R210). -/
def State.mresRefused (s : State) (g : Gang) : State :=
  match s.reservation? g with
  | some r => if r.releasing then s.refuse g.id else s
  | none => s.refuse g.id

/-- MRES: a pair's trail takes the lead's answer, and waits for its own press where that is a grant (17 R321). -/
def execMres (x : MResI) (s : State) : Host.Outcome State Fault Refusal :=
  issue (.mres x) { ups := [x.d] }
    (fun c =>
      let mine := fun (s : State) => s.reserve c.gang x.nm.val x.nk.val
      pairLoad c c.s (fun s => .ok ((mine s).1, [BitVec.ofNat 64 (bit (mine s).2)]))
        (fun vs s =>
          let got := decide (vs.headD 0 ≠ 0)
          if s.isTrail c.f.gang then
            if !got then .ok ((s.mresRefused c.gang).writeU c.f (.up x.d false))
            else if (mine s).2 then .ok ((mine s).1.writeU c.f (.up x.d true)) else .error (.stall .busy)
          else .ok (s.writeU c.f (.up x.d got)))) s

/-- A reservation is free at the end of its release, and every MREL of the gang that waits for it is done (11 R211, R212). -/
def State.endRelease (s : State) (g : Gang) : State :=
  let held := fun (y : Focus × Split) => match y.2.status with
    | Status.stalled .release _ => true
    | _ => false
  let now : List (Focus × Split) := ((s.gang? g.id).map Gang.candidates).getD [] |>.filter held
  now.foldl (fun (s : State) (y : Focus × Split) => countIssue (advance (s.modSplit y.1 Split.go) y.1 12) y.1) (s.unreserve g)

/-- MREL (11 R211): waits for every tile operation of the gang. -/
def execMrel (s : State) : Host.Outcome State Fault Refusal :=
  issue .mrel {}
    (fun c =>
      match c.s.reservation? c.gang with
      | none => .ok c.s
      | some _ =>
        if c.gang.tileOps.isEmpty then .ok (c.s.endRelease c.gang)
        else .error (.hold .release (c.s.modReservation c.gang (fun r => { r with releasing := true })))) s

/-- The snapshot of MSTAT (11 R222). -/
def mstatWord (c : Iss) : Word :=
  let p := c.s.press? c.gang.press
  let (m, k, rel) := match c.s.reservation? c.gang with
    | some r => (r.moulds.length, r.accs.length, r.releasing)
    | none => (0, 0, false)
  BitVec.ofNat 64 (m + 2 ^ 8 * k + 2 ^ 12 * bit p.shared + 2 ^ 13 * bit rel + 2 ^ 16 * c.grp.nextb.toNat +
    2 ^ 20 * c.grp.batches.length + 2 ^ 25 * c.grp.tiles.length + 2 ^ 32 * c.gang.refused)

def execMstat (x : DstS) (s : State) : Host.Outcome State Fault Refusal :=
  issue (.mstat x) { ss := [x.d] }
    (fun c => pairLoad c c.s (fun s => .ok (s, [mstatWord c])) (fun vs s => .ok (putUni c s x.d (vs.headD 0)))) s

/-! ## Checks of tile operations (11 R213, R214, R219) -/

/-- The group-collective rule (11 R219). -/
def collective (c : Iss) : Except Stop Unit := if c.sp.lanes = c.grp.live then .ok () else .error (fault 0x02 0 c.exec)

/-- The gang's reservation, in force (11 R213 step 1). -/
def reserved (c : Iss) : Except Stop Reservation :=
  match c.s.reservation? c.gang with
  | none => .error (fault 0x0C 1 c.exec)
  | some r => if r.releasing then .error (fault 0x0C 1 c.exec) else .ok r

/-- Moulds below `nm` and accumulators below `nk` are reserved (11 R213 step 2). -/
def unitsOk (c : Iss) (r : Reservation) (nm nk : Nat) : Except Stop Unit :=
  if r.moulds.length < nm ∨ r.accs.length < nk then .error (fault 0x0C 2 c.exec) else .ok ()

/-- An operand region (11 R214): the record's fields, its alignment, its extent, its place, the stash unit. -/
def pressRegion (c : Iss) (r : SReg) (esz need : Nat) (dst : Bool) : Except Stop Region :=
  let w := c.readS r
  let x := Region.ofWord w
  let own := c.tileBase 0
  let inOwn := decide (own ≤ x.base) && decide (x.base + x.extent ≤ own + 1024 * c.gang.task.tiles)
  let parts := c.gang.stashBase
  let inParts := decide (parts ≤ x.base) && decide (x.base + x.extent ≤ parts + 4096 * (c.gang.task.stash + c.gang.task.prog))
  if !reservedOk w ∨ x.esz ≠ esz ∨ (dst ∧ x.ro) then .error (fault 0x07 2 c.exec)
  else if x.base % 128 ≠ 0 then .error (fault 0x04 0 c.exec (BitVec.ofNat 64 x.base))
  else if x.extent < need then .error (fault 0x07 2 c.exec)
  else if !inOwn && !inParts then .error (fault 0x07 1 c.exec)
  else (stashGuard c x.base x.extent dst).map (fun _ => x)

/-- The width a member works with. -/
def pressWidth (w : Width) (dflt : Nat) : Nat :=
  match w with
  | .fmt => dflt
  | .bfp k => k.val + 2

/-! ## The press queue (11 R209, R215) -/

/-- A tile operation enters the queue: its sources are read-pinned, its destinations owned. -/
def enqueue (c : Iss) (s : State) (k : TileKind) (srcs : List Region) (dsts : List (Nat × Nat)) : Except Stop State :=
  if 16 ≤ c.grp.tiles.length then .error (.stall .busy)
  else do
    let s1 ← releaseFirst c s .rel
    let pins := (srcs.flatMap (fun r => rangeLines r.base r.extent)).eraseDups
    let s2 ← readStash c s1 pins
    let t : TileOp :=
      { kind := k, started := false, fenced := false, order := s2.nextCmd, pins := pins
        owned := (dsts.flatMap (fun d => rangeLines d.1 d.2)).eraseDups }
    .ok { s2.modGroup c.f.gang c.f.group (fun g => { g with tiles := g.tiles ++ [t] }) with nextCmd := s2.nextCmd + 1 }

/-- Moulds take a tag when the operation enters the press (12 R231). -/
def State.tagMoulds (s : State) (g : Gang) (tags : List (Nat × MouldTag)) : State :=
  s.modReservation g (fun r => { r with moulds := (enumFrom 0 r.moulds).map (fun m =>
    match tags.find? (fun t => t.1 == m.1) with
    | some t => { m.2 with tag := t.2 }
    | none => m.2) })

/-- MLDB (11 R216). -/
def execMldb (x : MldbI) (s : State) : Host.Outcome State Fault Refusal :=
  issue (.mldb x) { ss := [x.a, x.b] }
    (fun c => do
      collective c
      let r ← reserved c
      unitsOk c r (x.mould.val + 1) 0
      let w := pressWidth x.w (fmtWB c.sp.fmt)
      let a ← pressRegion c x.a 0 (8192 * w) false
      let b ← pressRegion c x.b 0 256 false
      let s1 ← enqueue c c.s (.mldb x.mould.val w a.base b.base) [a, b] []
      .ok (s1.tagMoulds c.gang [(x.mould.val, .dense)])) s

/-- MMUL (11 R217). -/
def execMmul (x : MMulI) (s : State) : Host.Outcome State Fault Refusal :=
  issue (.mmul x) { ss := [x.a] }
    (fun c => do
      collective c
      let r ← reserved c
      let nm := x.nm1.val + 1
      let nr := x.nr1.val + 1
      unitsOk c r (x.first.val + nm) (x.d.val + 1)
      let w := pressWidth x.w (fmtWA c.sp.fmt)
      let a ← pressRegion c x.a 0 (nm * nr * (32 * w + 8)) false
      enqueue c c.s (.mmul x.d.val x.first.val nm nr w a.base c.grp.dead) [a] []) s

/-- MAMOV (11 R218). -/
def execMamov (x : MaMovI) (s : State) : Host.Outcome State Fault Refusal :=
  issue (.mamov x) { ss := [x.a] }
    (fun c => do
      collective c
      let r ← reserved c
      unitsOk c r 0 (x.d.val + 1)
      let nr := x.nr1.val + 1
      let a ← pressRegion c x.a 2 (1024 * nr) (!x.inward)
      if x.inward then enqueue c c.s (.mamovIn x.d.val nr a.base) [a] []
      else enqueue c c.s (.mamovOut x.d.val nr a.base) [] [(a.base, 1024 * nr)]) s

/-- MZERO (11 R218). -/
def execMzero (x : MZeroI) (s : State) : Host.Outcome State Fault Refusal :=
  issue (.mzero x) {}
    (fun c => do
      collective c
      let r ← reserved c
      unitsOk c r 0 (x.d.val + 1)
      enqueue c c.s (.mzero x.d.val) [] []) s

/-! ## Batches (11 R220, R221) -/

/-- Batches whose operations are done complete, in order; TLC falls with each. -/
def Group.closeBatches (g : Group) : Nat → Group
  | 0 => g
  | n + 1 =>
    match g.batches with
    | b :: rest => if b.left = 0 then ({ g with batches := rest, tlc := g.tlc - 1 } : Group).closeBatches n else g
    | [] => g

/-- MFENCE: the unfenced operations become a batch, complete at once when it is empty and none is open. -/
def fenceBody (i : Instr) (s : State) : Host.Outcome State Fault Refusal :=
  issue i {}
    (fun c =>
      if 16 ≤ c.grp.batches.length then .error (.stall .busy)
      else
        .ok (c.s.modGroup c.f.gang c.f.group (fun g =>
          let left := (g.tiles.filter (fun t => !t.fenced)).length
          ({ g with
             tiles := g.tiles.map (fun t => { t with fenced := true }), batches := g.batches ++ [{ num := g.nextb.toNat, left := left }]
             tlc := g.tlc + 1, nextb := g.nextb + 1 } : Group).closeBatches 17))) s

def execMfenceBase (s : State) : Host.Outcome State Fault Refusal := fenceBody .mfenceBase s
def execMfenceExt (s : State) : Host.Outcome State Fault Refusal := fenceBody .mfenceExt s

/-- MWAIT (11 R221). -/
def execMwait (x : MWaitI) (s : State) : Host.Outcome State Fault Refusal :=
  issue (.mwait x) {}
    (fun c => if c.grp.batches.any (fun b => b.num == x.n.val) then .error (.stall .busy) else .ok c.s) s

end Sys2Proof.Machine
end

