-- ==== Sys2Proof/Machine/Sparse.lean ====
section
/-! DEFINITION. The sparse members of OP 0x38 (12 R223-R235): metadata and its validation, PRUNE, MLDBS, MMULS, MHDR. -/

namespace Sys2Proof.Machine

/-! ## Metadata (12 R224, R225) -/

/-- The header's fields; M as it stands. -/
def SparseHdr.ofBytes (bs : List Byte) : SparseHdr :=
  { n := fieldAt bs 2 1, m := fieldAt bs 3 1, k := fieldAt bs 4 2, cols := fieldAt bs 6 2, wb := fieldAt bs 8 1
    flags := fieldAt bs 9 1, prows := fieldAt bs 10 2, crc := fieldAt bs 12 4 }

def sparseMagic : Nat := 0x5A4D

/-- The header's 16 bytes. -/
def SparseHdr.bytes (h : SparseHdr) : List Byte :=
  leBytes 2 sparseMagic ++ leBytes 1 h.n ++ leBytes 1 h.m ++ leBytes 2 h.k ++ leBytes 2 h.cols ++ leBytes 1 h.wb ++ leBytes 1 h.flags ++
  leBytes 2 h.prows ++ leBytes 4 h.crc

def SparseHdr.pat (h : SparseHdr) : Bool := h.flags.testBit 0
def SparseHdr.complete (h : SparseHdr) : Bool := h.flags.testBit 1

/-- Bits of one index. -/
def SparseHdr.indexBits (h : SparseHdr) : Nat := if h.flags.testBit 2 then 4 else Nat.log2 h.m

/-- Groups of a column, indices of the tile, and the sizes IB and PB. -/
def SparseHdr.groups (h : SparseHdr) : Nat := h.k / h.m
def SparseHdr.indices (h : SparseHdr) : Nat := h.cols * h.groups * h.n
def SparseHdr.ib (h : SparseHdr) : Nat := (h.indices * h.indexBits + 7) / 8
def SparseHdr.pb (h : SparseHdr) : Nat := if h.pat then h.k * h.cols / 8 else 0
def SparseHdr.size (h : SparseHdr) : Nat := 16 + h.ib + h.pb

/-- Mould slices of a packed tile (12 R223). -/
def SparseHdr.slices (h : SparseHdr) : Nat := (h.prows + 255) / 256

/-- `n` bits from bit `b` of a byte-addressed area (08 R169). -/
def bitsAt (at_ : Nat → Nat) (b n : Nat) : Nat := (at_ (b / 8) + 256 * at_ (b / 8 + 1)) / 2 ^ (b % 8) % 2 ^ n

/-- Index `i` of the body. -/
def SparseHdr.index (h : SparseHdr) (at_ : Nat → Nat) (i : Nat) : Nat := bitsAt at_ (128 + i * h.indexBits) h.indexBits

/-- Bit of the pattern for element (k, n). -/
def SparseHdr.patBit (h : SparseHdr) (at_ : Nat → Nat) (k n : Nat) : Bool :=
  bitsAt at_ (8 * (16 + h.ib) + k * h.cols + n) 1 == 1

/-! ## Validation (12 R226) -/

/-- Subcause 4 and the byte of the first failing field, for a header whose M and N are in range. -/
def SparseHdr.shapeFault (h : SparseHdr) (extent : Nat) : Option (Nat × Nat) :=
  if h.k % 32 ≠ 0 ∨ h.k < 32 ∨ 32768 < h.k then some (4, 4)
  else if h.cols < 1 ∨ 256 < h.cols then some (4, 6)
  else if h.wb < 2 ∨ 8 < h.wb then some (4, 8)
  else if h.prows * h.m ≠ h.k * h.n ∨ 8192 < h.prows then some (4, 10)
  else if 8 ≤ h.flags ∨ (h.complete ∧ !h.pat) ∨ (h.pat ∧ h.cols % h.m ≠ 0) then some (4, 9)
  else if extent < h.size then some (4, 0)
  else none

/-- Subcauses 1-4: the header alone. -/
def headerFault (bs : List Byte) (extent : Nat) : Option (Nat × Nat) :=
  let h := SparseHdr.ofBytes bs
  if fieldAt bs 0 2 ≠ sparseMagic then some (1, 0)
  else if h.m ≠ 4 ∧ h.m ≠ 8 ∧ h.m ≠ 16 then some (2, 3)
  else if h.n = 0 ∨ h.m < h.n then some (3, 2)
  else h.shapeFault extent

/-- Set bits of a row and of a column of the pattern block at (k0, n0). -/
def SparseHdr.rowBits (h : SparseHdr) (at_ : Nat → Nat) (k0 n0 r : Nat) : Nat :=
  ((List.range h.m).filter (fun j => h.patBit at_ (k0 + r) (n0 + j))).length
def SparseHdr.colBits (h : SparseHdr) (at_ : Nat → Nat) (k0 n0 j : Nat) : Nat :=
  ((List.range h.m).filter (fun r => h.patBit at_ (k0 + r) (n0 + j))).length

/-- A count of a pattern block that R226 does not allow. -/
def SparseHdr.badCount (h : SparseHdr) (v : Nat) : Bool := decide (h.n < v) || (h.complete && decide (v ≠ h.n))

/-- The corners of the pattern's blocks, row-major. -/
def SparseHdr.blocks (h : SparseHdr) : List (Nat × Nat) :=
  (List.range (h.k / h.m)).flatMap (fun a => (List.range (h.cols / h.m)).map (fun b => (a * h.m, b * h.m)))

/-- Subcauses 5-8: the body, whose bytes `at_` gives by offset in the metadata. -/
def SparseHdr.bodyFault (h : SparseHdr) (at_ : Nat → Nat) : Option (Nat × Nat) :=
  let body := (List.range (h.ib + h.pb)).map (fun i => BitVec.ofNat 8 (at_ (16 + i)))
  let place := fun (i : Nat) => 16 + i * h.indexBits / 8
  if (crc32c body).toNat ≠ h.crc then some (5, 12)
  else
    match (List.range h.indices).find? (fun i => decide (h.m ≤ h.index at_ i)) with
    | some i => some (6, place i)
    | none =>
      match (List.range h.indices).find? (fun i => decide (i % h.n ≠ 0) && decide (h.index at_ i ≤ h.index at_ (i - 1))) with
      | some i => some (7, place i)
      | none =>
        if !h.pat then none
        else
          (h.blocks.find? (fun b => (List.range h.m).any (fun i =>
            h.badCount (h.rowBits at_ b.1 b.2 i) || h.badCount (h.colBits at_ b.1 b.2 i)))).map
            (fun b => (8, 16 + h.ib + (b.1 * h.cols + b.2) / 8))

/-- The byte at an offset in the metadata, as the vat holds it. -/
def metaByte (s : State) (core base i : Nat) : Nat := (s.vatRead core (base + i)).toNat

/-- The lines of a metadata range are read; a line an engine owns, or one whose fill an owner holds up, holds the issue and is counted (12
R227). -/
def readMeta (c : Iss) (s : State) (a n : Nat) : Except Stop State :=
  if (rangeLines a n).any (fun l => s.stashBusy c.gang.core l && !s.ldtHolds c.gang.core l) then .error (.stall .metadata)
  else readStash c s (rangeLines a n)

/-- The validation of a metadata region, after the split's earlier accesses (11 R215): the header where it is well formed, else the subcause
and the byte. -/
def validate (c : Iss) (s : State) (r : Region) : Except Stop (State × Except (Nat × Nat) SparseHdr) := do
  let s0 ← releaseFirst c s .rel
  let s1 ← readMeta c s0 r.base 16
  let bs := s1.vatReadBytes c.gang.core r.base 16
  match headerFault bs r.extent with
    | some e => .ok (s1, .error e)
    | none =>
      let h := SparseHdr.ofBytes bs
      let s2 ← readMeta c s1 r.base h.size
      match h.bodyFault (metaByte s2 c.gang.core r.base) with
        | some e => .ok (s2, .error e)
        | none => .ok (s2, .ok h)

/-- Trap 0x08 at a byte of the metadata. -/
def metaFault (c : Iss) (r : Region) (e : Nat × Nat) : Stop := fault 0x08 e.1 c.exec (BitVec.ofNat 64 (r.base + e.2))

/-- A metadata region that has to be well formed. -/
def validated (c : Iss) (s : State) (r : Region) : Except Stop (State × SparseHdr) := do
  let (s1, v) ← validate c s r
  match v with
    | .error e => .error (metaFault c r e)
    | .ok h => .ok (s1, h)

/-- The tag of slice `i` of a tile agrees: slice, CRC, N, M, K, C, P (12 R231, R232). -/
def MouldTag.agrees (t : MouldTag) (i : Nat) (h : SparseHdr) : Bool :=
  match t with
  | .dense => false
  | .sparse k g => k == i && g.crc == h.crc && g.n == h.n && g.m == h.m && g.k == h.k && g.cols == h.cols && g.prows == h.prows

/-! ## The members (12 R228-R235) -/

/-- The header PRUNE is to write, but for COMPLETE and the CRC. -/
def PruneI.hdr (x : PruneI) (w : Nat) : SparseHdr :=
  let n := x.nm1.val + 1
  let m := 4 * 2 ^ x.mc.val
  let k := 32 * (x.km.val + 1)
  { n := n, m := m, k := k, cols := x.cm1.val + 1, wb := w, flags := bit x.tp + 4 * bit x.idx4, prows := k * n / m, crc := 0 }

def execPrune (x : PruneI) (s : State) : Host.Outcome State Fault Refusal :=
  issue (.prune x) { ss := [x.a, x.b, x.c], ups := [x.d], feature := some 0 }
    (fun c => do
      collective c
      let _ ← reserved c
      let w := pressWidth x.w (fmtWB c.sp.fmt)
      let h := PruneI.hdr x w
      let packed := h.slices * 8192 * w
      let a ← pressRegion c x.a 0 (h.cols * h.k * w / 8 + h.cols) false
      let b ← pressRegion c x.b 0 packed true
      let m ← pressRegion c x.c 0 h.size true
      if 8192 < h.prows ∨ (x.tp ∧ h.cols % h.m ≠ 0) then .error (fault 0x07 2 c.exec)
      else
        let s1 ← enqueue c c.s (.prune x.d.val w h.n h.m h.k h.cols x.tp x.idx4 a.base b.base m.base c.sp.lanes) [a]
          [(b.base, packed), (m.base, h.size)]
        .ok (s1.modGroup c.f.gang c.f.group (fun g => { g with predWait := g.predWait ++ [(x.d.val, c.sp.lanes)] }))) s

def execMldbs (x : MldbsI) (s : State) : Host.Outcome State Fault Refusal :=
  issue (.mldbs x) { ss := [x.a, x.b, x.c], feature := some 0 }
    (fun c => do
      collective c
      let r ← reserved c
      let w := pressWidth x.w (fmtWB c.sp.fmt)
      let a ← pressRegion c x.a 0 0 false
      let b ← pressRegion c x.b 0 0 false
      let m ← pressRegion c x.c 0 16 false
      let (s1, h) ← validated c c.s m
      if a.extent < h.slices * 8192 * w ∨ b.extent < h.cols then .error (fault 0x07 2 c.exec)
      else
        unitsOk c r (x.first.val + h.slices) 0
        if h.wb ≠ w then .error (metaFault c m (9, 0))
        else
          let s2 ← enqueue c s1 (.mldbs x.first.val w a.base b.base h) [a, b, m] []
          .ok (s2.tagMoulds c.gang ((List.range h.slices).map (fun i => (x.first.val + i, .sparse i h))))) s

def execMmuls (x : MmulsI) (s : State) : Host.Outcome State Fault Refusal :=
  issue (.mmuls x) { ss := [x.a, x.c], feature := some 0 }
    (fun c => do
      collective c
      let r ← reserved c
      unitsOk c r 0 (x.d.val + 1)
      let w := pressWidth x.w (fmtWA c.sp.fmt)
      let nr := x.nr1.val + 1
      let a ← pressRegion c x.a 0 0 false
      let m ← pressRegion c x.c 0 16 false
      let (s1, h) ← validated c c.s m
      if a.extent < nr * h.k * (4 * w + 1) / 32 then .error (fault 0x07 2 c.exec)
      else
        unitsOk c r (x.first.val + h.slices) 0
        if (List.range h.slices).any (fun i => match r.moulds[x.first.val + i]? with
            | some y => !y.tag.agrees i h
            | none => true) then .error (metaFault c m (9, 0))
        else enqueue c s1 (.mmuls x.d.val x.first.val nr w a.base m.base h c.grp.dead) [a, m] []) s

/-- What MHDR writes (12 R234). -/
def mhdrWord (v : Except (Nat × Nat) SparseHdr) : Word :=
  match v with
  | .error e => BitVec.ofNat 64 (2 ^ 63 + e.1)
  | .ok h => BitVec.ofNat 64 (h.n + 2 ^ 8 * h.m + 2 ^ 16 * h.k + 2 ^ 32 * h.cols + 2 ^ 41 * h.wb + 2 ^ 45 * (h.flags % 8) + 2 ^ 48 * h.prows)

def execMhdr (x : MHdrI) (s : State) : Host.Outcome State Fault Refusal :=
  issue (.mhdr x) { ss := [x.d, x.a], feature := some 0 }
    (fun c => do
      let m ← pressRegion c x.a 0 16 false
      let (s1, v) ← validate c c.s m
      match v with
        | .error e => if x.try_ then .ok (putUni c s1 x.d (mhdrWord v)) else .error (metaFault c m e)
        | .ok _ => .ok (putUni c s1 x.d (mhdrWord v))) s

end Sys2Proof.Machine
end

