-- ==== Sys2Proof/Machine/Tasks.lean ====
section
/-! DEFINITION. The members of OP 0x39-0x3C (14 R265-R277): queue objects, task spawning, successor counters, work-lists, futures. -/

namespace Sys2Proof.Machine

/-! ## Checks (14 R266) -/

/-- Steps 1 and 2 on the object's own address: alignment, then R55 as an atomic access that ignores H. -/
def objectAt (c : Iss) (a : Word) (align : Nat) : Except Stop Xlat :=
  if a.toNat % align ≠ 0 then .error (fault 0x04 0 c.exec a)
  else
    match c.s.translate { c.s.whoOf c.gang c.f with hp := true } .atomic a with
    | .error e => .error (walkStop c [a] (fault e.1 e.2 c.exec a AccKind.atomic.code))
    | .ok x => .ok x

/-- The object's access takes its place in the miss table; a releasing member's earlier accesses are performed. -/
def openObject (c : Iss) (a : Word) (align : Nat) (ord : MemOrder) : Except Stop (State × Nat) := do
  let x ← objectAt c a align
  let s1 ← touch c c.s [a]
  let s2 ← releaseFirst c s1 ord
  .ok (s2, x.pa)

/-- The line of an object is reached at its home. -/
def reachObject (s : State) (a : Nat) : Except Stop State :=
  if s.physBusy (a / 128) true then .error (.stall .busy) else .ok (s.reach (a / 128) true)

/-- Step 2 on the backing store, and the header. -/
def openQueue (c : Iss) (s : State) (a : Nat) : Except Stop (State × Hdr) := do
  let s1 ← reachObject s a
  let h := s1.hdr a
  let vas := rangePieces h.base (h.cap * h.itemSize)
  match firstXlat s1 { s1.whoOf c.gang c.f with hp := true } (vas.map (fun v => (v, AccKind.atomic))) with
    | .error e => .error (xlatFault c vas e)
    | .ok _ => (touch c s1 vas).map (fun s2 => (s2, h))

/-- Subcauses 1 to 3 of trap 0x0D; a member of one kind names it. -/
def checkQueue (c : Iss) (h : Hdr) (kind : Option Nat) : Except Stop Unit :=
  if !h.valid ∨ h.kind = 3 then .error (fault 0x0D 1 c.exec)
  else if h.owner ≠ c.gang.ctx then .error (fault 0x0D 2 c.exec)
  else match kind with
    | some k => if h.kind = k then .ok () else .error (fault 0x0D 3 c.exec)
    | none => .ok ()

/-- A work-list member: trap 0x0E, subcause 1, in the places of 0x0D, 1 and 3. -/
def checkWork (c : Iss) (h : Hdr) : Except Stop Unit :=
  if !h.valid then .error (fault 0x0E 1 c.exec)
  else if h.owner ≠ c.gang.ctx then .error (fault 0x0D 2 c.exec)
  else if h.kind ≠ 2 then .error (fault 0x0E 1 c.exec)
  else .ok ()

/-- What a performance answers: nothing returned, or the split waits. -/
def performedOr (r : Except Stop (State × Bool)) : Performed := r.map (fun x => (x.1, if x.2 then some [] else none))

/-- The values the active lanes supply, in lane order. -/
def laneValues (c : Iss) (b : VOp) : List Word := (lanesOf c.exec).map (takePair c c.s b)

/-! ## QPUSH (14 R267) -/

def execQpush (x : PushI) (s : State) : Host.Outcome State Fault Refusal :=
  issueJump (.qpush x) { vs := [vuse x.b true], ss := [x.a] }
    (fun c => do
      let (s1, a) ← openObject c (c.readS x.a) 64 .rel
      let vals := laneValues c x.b
      pairRun c s1 (effectSig (.qpush x) (c.readS x.a :: vals))
        (fun s => do
          let (s2, h) ← openQueue c s a
          checkQueue c h (some 0)
          if h.cap < vals.length then .error (fault 0x0D 6 c.exec)
          else performedOr (doEffect c s2 (.qpush a vals) (fun s => s.link c.f a (.push (.qpush a vals) vals.length none))))
        (fun _ s => .ok (advance s c.f c.len))) s

/-! ## QPOP, QTRY, WLPOP (14 R268, R274) -/

/-- Items delivered to the active lanes, behind which the split goes on. -/
def receive (c : Iss) (x : PopI) (vals : List Word) (s : State) : State :=
  let got := (lanesOf c.exec).zip vals
  let at_ := fun (l : Nat) => ((got.find? (fun y => y.1 == l)).map (fun y => y.2)).getD 0
  let (s1, v) := flipValues { c with exec := maskOf (got.map (fun y => y.1)) } s at_
  advance (s1.deliverItems c.f x.d x.c c.exec (got.map (fun y => v y.1))) c.f c.len

/-- A removal. `wait`: an empty queue links the split as its youngest waiter. Removing and waiting make the gang non-replayable. -/
def removeItems (c : Iss) (s : State) (a : Nat) (x : PopI) (wait : Bool) : Performed :=
  if (s.hdr a).occ = 0 ∧ !wait then .ok (s, some [])
  else
    match becomeNR c s true with
    | .error e => .error e
    | .ok s1 =>
      if (s1.hdr a).occ = 0 then .ok (s1.link c.f a (.pop x.d x.c c.exec), none)
      else
        let (s2, vals) := s1.popItems c.f.gang a (laneCount c.exec)
        .ok (s2, some vals)

def popBody (i : Instr) (x : PopI) (check : Iss → Hdr → Except Stop Unit) (wait : Bool) (s : State) :
    Host.Outcome State Fault Refusal :=
  issueJump i { vs := [vdest x.d true], ss := [x.a], ps := [x.c] }
    (fun c => do
      let (s1, a) ← openObject c (c.readS x.a) 64 .plain
      pairRun c s1 (effectSig i [c.readS x.a])
        (fun s => do
          let (s2, h) ← openQueue c s a
          check c h
          removeItems c s2 a x wait)
        (fun vals s => .ok (receive c x vals s))) s

def execQpop (x : PopI) (s : State) : Host.Outcome State Fault Refusal :=
  popBody (.qpop x) x (fun c h => checkQueue c h (some 0)) true s
def execQtry (x : PopI) (s : State) : Host.Outcome State Fault Refusal :=
  popBody (.qtry x) x (fun c h => checkQueue c h (some 0)) false s
def execWlpop (x : PopI) (s : State) : Host.Outcome State Fault Refusal := popBody (.wlpop x) x checkWork false s

/-! ## QLEN, QSTAT (14 R270) -/

/-- A uniform value read from a header. -/
def readHeader (c : Iss) (i : Instr) (a : SReg) (d : SReg) (value : State → Nat → Hdr → Nat) : Except Stop State := do
  let (s1, p) ← openObject c (c.readS a) 64 .plain
  pairRun c s1 (effectSig i [c.readS a])
    (fun s => do
      let (s2, h) ← openQueue c s p
      checkQueue c h none
      .ok (s2, some [BitVec.ofNat 64 (value s2 p h)]))
    (fun vals s => .ok (putUni c s d (vals.headD 0)))

def execQlen (x : DaI) (s : State) : Host.Outcome State Fault Refusal :=
  issue (.qlen x) { ss := [x.d, x.a] } (fun c => readHeader c (.qlen x) x.a x.d (fun _ _ h => h.occ)) s

/-- Sel 0: what a header and its waiters say. -/
def queueStatus (s : State) (a : Nat) (h : Hdr) : Nat :=
  h.badrec + 2 ^ 32 * min 0xFFFF h.dropped + 2 ^ 48 * min 255 ((s.waiters.filter (fun w => w.obj == a)).length) + 2 ^ 56 * h.kind +
  2 ^ 58 * bit h.valid

/-- Sel 1: the gang's effect buffer. -/
def Gang.bufferStatus (g : Gang) : Nat := g.effects.length + 2 ^ 9 * bit g.nr + 2 ^ 10 * bit g.nrOverflow + 2 ^ 11 * bit g.nrRemoval

def execQstat (x : QStatI) (s : State) : Host.Outcome State Fault Refusal :=
  issue (.qstat x) { ss := x.d :: x.a.toList }
    (fun c =>
      match x.a with
      | some a => readHeader c (.qstat x) a x.d queueStatus
      | none =>
        pairRun c c.s (effectSig (.qstat x) []) (fun s => .ok (s, some [BitVec.ofNat 64 c.gang.bufferStatus]))
          (fun vals s => .ok (putUni c s x.d (vals.headD 0)))) s

/-! ## TSPAWN, TDONE (14 R272, R273) -/

/-- The record's region: R214 steps 1 to 4, of a byte record. -/
def recordRegion (c : Iss) (r : SReg) : Except Stop Region :=
  match pressRegion c r 0 64 false with
  | .ok x => .ok x
  | .error (.trap t) => if t.cause = 0x05 then .error (.trap t) else .error (fault 0x0D 4 c.exec)
  | .error (.check _) => .error (fault 0x0D 4 c.exec)
  | .error e => .error e

/-- The issuing context's tag in CTX; none where another one stands there. -/
def stampRecord (bs : List Byte) (tag : Nat) : Option (List Byte) :=
  if fieldAt bs 50 2 = 0 ∨ fieldAt bs 50 2 = tag then some (bs.take 50 ++ leBytes 2 tag ++ bs.drop 52) else none

/-- Record flags whose feature is absent make the record fail (19 R350). -/
def State.recordGood (s : State) (tag : Nat) (bs : List Byte) : Bool :=
  let t := TaskRec.ofBytes bs
  recordOk bs && decide (t.ctx = tag) && (!t.paired || s.feature tag 1) && (decide (t.chk = 0) || s.feature tag 2)

def execTspawn (x : AbI) (s : State) : Host.Outcome State Fault Refusal :=
  issueJump (.tspawn x) { ss := [x.a, x.b] }
    (fun c => do
      let (s1, a) ← openObject c (c.readS x.a) 64 .rel
      pairRun c s1 (effectSig (.tspawn x) [c.readS x.a, c.readS x.b])
        (fun s => do
          let (s2, h) ← openQueue c s a
          checkQueue c h (some 1)
          let r ← recordRegion c x.b
          let s3 ← readStash c s2 (rangeLines r.base 64)
          match stampRecord (s3.vatReadBytes c.gang.core r.base 64) c.gang.ctx with
            | none => .error (fault 0x0D 4 c.exec)
            | some bs =>
              if s3.recordGood c.gang.ctx bs then
                performedOr (doEffect c s3 (.tspawn a bs) (fun s => s.link c.f a (.push (.tspawn a bs) 1 (some r.base))))
              else .error (fault 0x0D 4 c.exec))
        (fun _ s => .ok (advance s c.f c.len))) s

def execTdone (x : SrcA) (s : State) : Host.Outcome State Fault Refusal :=
  issueJump (.tdone x) { ss := [x.a] }
    (fun c => do
      let p ← objectAt c (c.readS x.a) 32
      let (s1, a) ← openObject c (c.readS x.a) 32 .rel
      pairRun c s1 (effectSig (.tdone x) [c.readS x.a])
        (fun s => do
          let s2 ← reachObject s a
          performedOr (doEffect c s2 (.tdone a p.dur) (fun s => s)))
        (fun _ s => .ok (advance s c.f c.len))) s

/-! ## WLPUSH, WLINS (14 R274) -/

/-- An insertion into a work-list: the values that count against CAP are the ones `keep` leaves. -/
def insertBody (i : Instr) (x : PushI) (keep : State → Nat → List Word → List Word) (effect : Nat → List Word → Effect) (s : State) :
    Host.Outcome State Fault Refusal :=
  issueJump i { vs := [vuse x.b true], ss := [x.a] }
    (fun c => do
      let (s1, a) ← openObject c (c.readS x.a) 64 .rel
      let vals := laneValues c x.b
      pairRun c s1 (effectSig i (c.readS x.a :: vals))
        (fun s => do
          let (s2, h) ← openQueue c s a
          checkWork c h
          if h.cap < h.occ + (keep s2 a vals).length then .error (fault 0x0E 2 c.exec)
          else performedOr (doEffect c s2 (effect a vals) (fun s => s)))
        (fun _ s => .ok (advance s c.f c.len))) s

def execWlpush (x : PushI) (s : State) : Host.Outcome State Fault Refusal :=
  insertBody (.wlpush x) x (fun _ _ vs => vs) .wlpush s
def execWlins (x : PushI) (s : State) : Host.Outcome State Fault Refusal :=
  insertBody (.wlins x) x (fun s a vs => newValues (s.onChip a) vs) .wlins s

/-! ## Futures (14 R275) -/

def execFutset (x : FutSetI) (s : State) : Host.Outcome State Fault Refusal :=
  issueJump (.futset x) { ss := x.a :: x.b.toList }
    (fun c => do
      let p ← objectAt c (c.readS x.a) 16
      let (s1, a) ← openObject c (c.readS x.a) 16 .rel
      let v := x.b.map c.readS
      pairRun c s1 (effectSig (.futset x) (c.readS x.a :: v.toList))
        (fun s => do
          let s2 ← reachObject s a
          let clash := match v with
            | some _ => s2.futureFull a
            | none => s2.waiters.any (fun w => w.obj == a)
          if clash then .error (fault 0x0D 5 c.exec)
          else performedOr (doEffect c s2 (.futset a v p.dur) (fun s => s)))
        (fun _ s => .ok (advance s c.f c.len))) s

/-- The value of a full cell. -/
def State.futureValue (s : State) (a : Nat) : Word := BitVec.ofNat 64 (s.mem.readLE a 8)

def execFutget (x : DaI) (s : State) : Host.Outcome State Fault Refusal :=
  issueJump (.futget x) { ss := [x.d, x.a] }
    (fun c => do
      let (s1, a) ← openObject c (c.readS x.a) 16 .plain
      pairRun c s1 (effectSig (.futget x) [c.readS x.a])
        (fun s => do
          let s2 ← reachObject s a
          if s2.futureFull a then .ok (s2, some [s2.futureValue a])
          else
            let s3 ← becomeNR c s2 true
            if s3.futureFull a then .ok (s3, some [s3.futureValue a])
            else .ok (s3.link c.f a (.future x.d c.exec), none))
        (fun vals s => .ok (advance (putUni c s x.d (vals.headD 0)) c.f c.len))) s

end Sys2Proof.Machine
end

