-- ==== Sys2Proof/Machine/Life.lean ====
section
/-! DEFINITION. How gangs and contexts end: the leaves of a page table and the owner of a line (17 R312), the error log (R316), kill (16 R310), termination, the exit of a gang (R308), containment (17 R315, R325). -/

namespace Sys2Proof.Machine

/-- An event: what it does where it can happen, after which stalled splits are tried again; else nothing. -/
def happens (s : State) (o : Option State) : Host.Outcome State Fault Refusal :=
  match o with
  | some t => .next t.retry
  | none => .next s

/-! ## Owners (03 R51; 17 R312) -/

/-- The leaves under a table, in increasing order of address: virtual address, level, entry. -/
def State.leavesFrom (s : State) : Nat → Nat → Nat → Nat → List (Nat × Nat × Nat)
  | 0, _, _, _ => []
  | n + 1, level, base, va =>
    (((s.mem.cells.filter (fun c => decide (base ≤ c.1) && decide (c.1 < base + tableSize level))).map
      (fun c => (c.1 - base) / 8)).eraseDups).flatMap (fun i =>
        let e := s.entry base i
        let v := va + i * 2 ^ levelShift level
        if !e.testBit 0 then [] else if e.testBit 1 ∨ n = 0 then [(v, level, e)] else s.leavesFrom n (level + 1) (nextTable e) v)

def State.leaves (s : State) (root : Nat) : List (Nat × Nat × Nat) := s.leavesFrom 4 0 root 0

/-- The owner tag of the page that holds a physical address; 0 where no page does. -/
def State.ownerOf (s : State) (pa : Nat) : Nat :=
  (s.contexts.findSome? (fun c => (s.leaves c.root).findSome? (fun l =>
    if frameOf l.2.1 l.2.2 ≤ pa ∧ pa < frameOf l.2.1 l.2.2 + 2 ^ levelShift l.2.1 then some (l.2.2 / 2 ^ 52) else none))).getD 0

/-- The owner tag of a poisoned half-line: the tag of the gang whose engine left it, else its page's (05 R102; 17 R312). -/
def State.poisonOwner (s : State) (half : Nat) : Nat :=
  match s.poisonTags.find? (fun h => h.1 == half) with
  | some h => h.2
  | none => s.ownerOf (64 * half)

/-- The contexts an owner tag stands for: itself, or for 0xFFF every one mapped into the shared domain (17 R312). -/
def State.ownedBy (s : State) (tag : Nat) : List Nat :=
  if tag = 0xFFF then (s.contexts.filter (fun c => c.inShared)).map (fun c => c.tag) else [tag]

/-! ## The error log and its counters (17 R316) -/

/-- A 32-byte record. -/
def State.logError (s : State) (struct cls owner die core loc outcome : Nat) : State :=
  { s with errorLog := s.errorLog ++
      [leBytes 1 struct ++ leBytes 1 cls ++ leBytes 2 owner ++ leBytes 1 die ++ zeroBytes 1 ++ leBytes 2 core ++ leBytes 8 loc ++
       leBytes 8 (s.die? die).clock.toNat ++ leBytes 1 outcome ++ zeroBytes 7] }

/-- CORE of a record where no core applies. -/
def noCore : Nat := 0xFFFF

/-- A die's counters of a STRUCT: soft, hard, uncorrectable; they saturate. -/
def State.countError (s : State) (die struct which : Nat) : State :=
  s.modDie die (fun d =>
    if h : struct < 14 then
      let (a, b, c) := d.errors[struct]
      { d with errors := d.errors.set struct (if which = 0 then (addSat32 a, b, c) else if which = 1 then (a, addSat32 b, c) else (a, b, addSat32 c)) }
    else d)

/-! ## Kill (16 R310, R311) -/

/-- The commands of a gang that a kill cancels: engine commands, streams that run, tile operations. -/
def State.cancelled (s : State) (g : Gang) : Nat :=
  (s.commands.filter (fun c => c.gang == g.id && !(c.lines.isEmpty && c.updates.isEmpty))).length + g.tileOps.length +
  ((s.core? g.core).streams.toList.filter (fun st => st.holder == g.id && decide (st.state = .run))).length

/-- The dirty stash lines of a gang. -/
def State.dirtyOf (s : State) (g : Gang) : List (StashUnit × Nat) :=
  ((s.core? g.core).stash.filter (fun u => u.gang == g.id)).flatMap (fun u => (u.lines.filter (fun x => x.2)).map (fun x => (u, x.1)))

/-- Engines, ports, reservation, waiter links, stash tags, deckle and replay entries, arrivals at a rendezvous: what a gang holds outside
itself is released, and the gang is gone. Its frames are unmapped and free. -/
def State.removeGang (s : State) (g : Gang) : State :=
  let s1 := (List.range 4).foldl (fun (s : State) e =>
    if (s.streamAt g.core e).holder = g.id ∧ (s.streamAt g.core e).state ≠ .free then s.freeStream g.core e else s) s
  let s2 := (s1.unreserve g).withdraw g.id
  let s3 := s2.modCore g.core (fun c =>
    { c with
      stash := c.stash.filter (fun u => u.gang ≠ g.id), deckle := c.deckle.filter (fun r => r.gang ≠ g.id)
      replay := c.replay.filter (fun e => e.gang ≠ g.id) })
  let s4 := if s3.isTrail g.id then s3 else s3.unmapOwn g.ctx g.frameVa 1
  let s5 := s4.unmapOwn g.ctx g.spillVa (g.spillSize / 2 ^ 16)
  { s5 with
    gangs := s5.gangs.filter (fun x => x.id ≠ g.id), commands := s5.commands.filter (fun c => c.gang ≠ g.id)
    collWaits := s5.collWaits.filter (fun w => w.gang ≠ g.id), seals := s5.seals.filter (fun x => x.wait.gang ≠ g.id)
    saves := s5.saves.filter (fun x => x.gang ≠ g.id) }

/-- One gang killed: its commands stop at their stopping points (05 R103), and what it had in hand is discarded and counted. -/
def State.killOne (s : State) (id : Nat) : State :=
  match s.gang? id with
  | none => s
  | some g =>
    let s1 := s.finishUnits id
    let n := (s1.dirtyOf g).length + s1.cancelled g
    (s1.modCore g.core (fun c => { c with killDiscards := c.killDiscards + BitVec.ofNat 32 n })).removeGang g

/-- A context terminated: every gang of it is killed. -/
def State.terminate (s : State) (tag : Nat) : State :=
  let ids := (s.gangs.filter (fun g => g.ctx == tag)).map (fun g => g.id)
  (ids.foldl State.killOne s).modCtx tag (fun c => { c with terminated := true })

def State.terminateAll (s : State) (tags : List Nat) : State := tags.foldl State.terminate s

/-- The EAGER contexts among those an owner tag stands for. -/
def State.eagerOwners (s : State) (tag : Nat) : List Nat :=
  (s.ownedBy tag).filter (fun t => match s.ctx? t with
    | some c => c.eager
    | none => false)

/-- Poison that has come about between two states ends every EAGER context that owns it (17 R314). -/
def State.eager (old new : State) : State :=
  (new.poison.filter (fun h => !old.poison.contains h)).foldl (fun (s : State) h => s.terminateAll (s.eagerOwners (s.poisonOwner h))) new

/-- A gang killed, both copies of a pair. -/
def State.killGang (s : State) (id : Nat) : State :=
  s.eager (match (s.gang? id).bind (fun g => g.pair) with
    | some p => (s.killOne p.other).killOne id
    | none => s.killOne id)

/-- A half-line becomes poisoned under its owner; an EAGER owner ends at once (17 R313, R314). -/
def State.poisonOwned (s : State) (half : Nat) : State := s.eager (s.poisonHalf half)

/-! ## Containment (17 R315, R324, R325) -/

/-- A pair stops to roll back: what is not released is discarded, and one record is logged (17 R324; 24 R368). -/
def State.rollback (s : State) (id other : Nat) : State :=
  let stop := fun (p : Pair) => { p with state := .rollback, sigs := [], granted := [], loadq := [] }
  let flipped := fun (i : Nat) => match (s.gang? i).bind (fun g => g.pair) with
    | some p => p.flipped
    | none => false
  let s1 := match s.gang? id with
    | some g => s.logError 0xFF (4 * bit (flipped id || flipped other)) g.ctx (s.part.dieOf g.core) g.core 0 7
    | none => s
  let s2 := ((s1.modPair id stop).modPair other stop).withdraw id |>.withdraw other
  { s2 with
    collWaits := s2.collWaits.filter (fun w => w.gang ≠ id ∧ w.gang ≠ other)
    seals := s2.seals.filter (fun x => x.wait.gang ≠ id ∧ x.wait.gang ≠ other) }

/-- A gang whose record is replayed takes its place again at once: its block and slots have just come free. -/
def State.redispatch (s : State) (die : Nat) (t : TaskRec) : State :=
  match s.place die t (fun _ => true) with
  | some (core, base) => s.startGang core base t none
  | none => s

/-- A gang ended by an error: a pair rolls back, a replayable gang starts again, any other ends its context. The OUTCOME of R316 comes
with it. -/
def State.contain (s : State) (id : Nat) : State × Nat :=
  match s.gang? id with
  | none => (s, 8)
  | some g =>
    match g.pair with
    | some p =>
      let s1 := s.modPair id (fun p => { p with damaged := true })
      (if p.state = .rollback ∨ p.state = .terminated then s1 else s1.rollback id p.other, 7)
    | none =>
      if g.task.replay ∧ ¬ g.nr then ((s.killOne id).redispatch (s.part.dieOf g.core) g.task, 4)
      else ((s.killOne id).terminate g.ctx, 5)

/-! ## The exit of a gang (16 R308) -/

/-- Nothing of the gang is under way: commands, running streams, tile operations, write-backs that would have to wait. -/
def State.quiet (s : State) (g : Gang) : Bool :=
  !(s.commands.any (fun c => c.gang == g.id)) && g.tileOps.isEmpty &&
  (s.core? g.core).streams.all (fun st => !st.starters.any (fun x => x.1 == g.id))

/-- The dirty lines of a gang go to memory; none while one has to wait. -/
def State.flushStash (s : State) (g : Gang) : Option State :=
  let ls := s.dirtyOf g
  if ls.any (fun l => s.physBusy (l.1.phys / 128 + l.2) true) then none
  else some (ls.foldl (fun s l => (s.writeBack g.core l.1 l.2).setStashLine g.core l.1.vat l.2 (some false)) s)

/-- The failure of lowest position of each channel goes to the event record (04 R87). -/
def State.reportHoles (s : State) (g : Gang) : State :=
  g.channels.toList.foldl (fun s c => match c.failed with
    | (_, cause, sub, va) :: _ => s.appendEvent g.ctx (eventEntry 0x83 sub 2 va (BitVec.ofNat 64 cause))
    | [] => s) s

/-- The exit decrement, with the gang's context (14 R273). -/
def State.exitDecrement (s : State) (g : Gang) : State :=
  if g.task.succ = 0 then s
  else
    match s.translate (gangWho g.ctx (s.part.dieOf g.core) false) .atomic g.task.succ with
    | .error (cause, sub) => s.appendEvent g.ctx (eventEntry 0x81 sub 3 g.task.succ (BitVec.ofNat 64 cause))
    | .ok x => s.decrement g.id g.ctx x.pa x.dur

/-- The gang and, of a pair, the trail. -/
def State.copiesOf (s : State) (g : Gang) : List Gang := g :: (s.twin g).toList

/-- An exit: none while something is under way or has to wait; held effects that find no room hold the rest back. -/
def State.exitGang (s : State) (id : Nat) : Option State :=
  match s.gang? id with
  | none => none
  | some g =>
    let all := s.copiesOf g
    if s.isTrail id || !(all.all (fun x => x.groups.isEmpty && x.pend.isEmpty && x.halt.isNone && decide (x.run = .running) && s.quiet x)) ||
        g.pairStopped then none
    else
      match s.writeAppends id with
      | none => none
      | some s1 =>
        match s1.gang? id with
        | none => none
        | some g1 =>
          let (s2, done) := ((s1.reportHoles g1).modGang id Gang.closeEpochs).drainEffects id 257
          if !done then some s2
          else
            match all.foldl (fun o x => match o with
              | none => none
              | some t => State.flushStash t x) (some s2) with
            | none => none
            | some s3 =>
              let busy := match s3.translate (gangWho g.ctx (s3.part.dieOf g.core) false) .atomic g.task.succ with
                | .ok x => decide (g.task.succ ≠ 0) && s3.physBusy (x.pa / 128) true
                | .error _ => false
              if busy then none
              else
                let s4 := all.foldl (fun (s : State) x => match s.gang? x.id with
                  | some y => s.modGang x.id (fun _ => { y with effects := [] })
                  | none => s) s3
                let s5 := s4.exitDecrement g
                some (all.foldl (fun (s : State) x => match s.gang? x.id with
                  | some y => s.removeGang y
                  | none => s) s5)

end Sys2Proof.Machine
end

