-- ==== Sys2Proof/Machine/Traps.lean ====
section
/-! DEFINITION. The members of OP 0x3D and 0x3E (16 R299-R304; 24 R368), and a word that is no instruction (02 R40, R41). -/

namespace Sys2Proof.Machine

/-! ## BKPT, TRAP (16 R300) -/

/-- A trap for every active lane with a code in INFO. -/
def codeTrap (c : Iss) (cause n : Nat) : Except Stop State :=
  .error (.trap { cause := cause, sub := 0, kind := 0, lanes := c.exec, addr := 0, info := BitVec.ofNat 64 n })

def execBkptBase (s : State) : Host.Outcome State Fault Refusal := issue .bkptBase {} (fun c => codeTrap c 0x10 0) s
def execBkptExt (x : CodeI) (s : State) : Host.Outcome State Fault Refusal :=
  issue (.bkptExt x) {} (fun c => codeTrap c 0x10 x.n.toNat) s
def execTrap (x : CodeI) (s : State) : Host.Outcome State Fault Refusal :=
  issue (.trap x) {} (fun c => codeTrap c 0x12 x.n.toNat) s

/-! ## SYSCALL (16 R302, R304) -/

/-- Argument `k` of a lane: the pair (v2k, v2k+1). -/
def callArg (s : State) (gang slot k l : Nat) : Word := (s.lane gang slot (2 * k + 1) l) ++ (s.lane gang slot (2 * k) l)

/-- The pairs that hold a0-a3 and the result. -/
def callUses : List VUse := [vuse (.v 0) true, vuse (.v 2) true, vuse (.v 4) true, vuse (.v 6) true, vdest (.v 0) true]

/-- Results written to (v0, v1), one for each active lane in order; the split goes on. -/
def finishCall (f : Focus) (lanes : LaneMask) (vals : List Word) (s : State) : State :=
  advance (((lanesOf lanes).zip vals).foldl (fun (s : State) (x : Nat × Word) =>
    (s.setLane f.gang f.group 0 x.1 (x.2.truncate 32)).setLane f.gang f.group 1 x.1 ((x.2 >>> 32).truncate 32)) s) f 12

/-- SYSCALL: FENCE.ar.sys, then the group stands still until Ezden has performed the calls. -/
def execSyscall (x : SyscallI) (s : State) : Host.Outcome State Fault Refusal :=
  issueJump (.syscall x) { vs := callUses }
    (fun c => do
      let s1 ← releaseFirst c c.s .ar
      let args := (lanesOf c.exec).flatMap (fun l => (List.range 4).map (fun k => callArg c.s c.f.gang c.f.group k l))
      pairRun c s1 (effectSig (.syscall x) args)
        (fun s => .ok (s.park c.f .syscall, none))
        (fun vals s => .ok (finishCall c.f c.exec vals s))) s

/-! ## ERET (16 R299; 24 R368) -/

/-- The part of a frame that ERET reads. -/
def frameRead : Nat := 2304

/-- What ERET does with the frame's bytes. -/
def leaveHandler (c : Iss) (fr : List Byte) (s : State) : State :=
  match fieldAt fr 3 1 with
  | 0 => (resumeFromHandler s c.f.gang false fr).deadlockAll c.f.gang
  | 1 => (resumeFromHandler s c.f.gang true fr).deadlockAll c.f.gang
  | 2 => s.killGang c.f.gang
  | _ => s.terminate c.gang.ctx

/-- Bytes as 64-bit values, and back. -/
def packWords (bs : List Byte) (n : Nat) : List Word := (List.range n).map (fun i => BitVec.ofNat 64 (leNat ((bs.drop (8 * i)).take 8)))
def unpackWords (ws : List Word) : List Byte := ws.flatMap (fun w => leBytes 8 w.toNat)

/-- An effect of the group waits in the compare buffer. -/
def Gang.buffered (g : Gang) (slot : Nat) : Bool :=
  match g.pair with
  | some p => p.role = .lead && p.sigs.any (fun e => e.1 / 32 == slot)
  | none => false

/-- ERET orders no memory access (16 R300): of the group's stores only those to the frame bytes it reads come first, as for a load. -/
def execEret (s : State) : Host.Outcome State Fault Refusal :=
  issueJump .eret { priv := true }
    (fun c =>
      if c.gang.buffered c.f.group then .error (.stall .busy)
      else
        pairLoad c c.s
          (fun s =>
            let lines := rangeLines c.gang.framePhys frameRead
            match s.performFor c.f.gang c.f.group ((List.range frameRead).map (fun i => c.gang.framePhys + i)) with
            | none => .error (.stall .busy)
            | some s1 =>
              if lines.any (fun l => s1.physBusy l false) then .error (.stall .busy)
              else
                let s2 := s1.reachAll lines false
                .ok (s2, packWords (s2.mem.readBytes c.gang.framePhys frameRead) (frameRead / 8)))
          (fun vals s => .ok (leaveHandler c (unpackWords vals) s))) s

/-! ## CSRR, CSRW (16 R301) -/

/-- The value a control register reads as; none where the access traps. -/
def csrRead (c : Iss) (n : Nat) : Option Word :=
  let r := c.gang.csr
  match n with
  | 0x000 => some r.hvec
  | 0x001 => some r.hdeleg
  | 0x002 => some r.hframe
  | 0x003 => some (BitVec.ofNat 64 (bit (decide (c.f.split = 4))))
  | 0x004 => if c.f.split = 4 then some r.hscratch else none
  | 0x005 => some (r.trapcnt.zeroExtend 64)
  | 0x010 => some r.waddr[0]
  | 0x011 => some r.waddr[1]
  | 0x012 => some r.waddr[2]
  | 0x013 => some r.waddr[3]
  | 0x014 => some r.wctl[0]
  | 0x015 => some r.wctl[1]
  | 0x016 => some r.wctl[2]
  | 0x017 => some r.wctl[3]
  | _ => none

/-- The causes HDELEG holds a bit for: 0x00-0x16 but 0x11. -/
def delegMask : Word := 0x7DFFFF

/-- An address a control register accepts. -/
def csrAddrOk (v : Word) : Bool := decide (v.toNat < 2 ^ 52)

/-- The registers after a write; none where the access traps. -/
def csrWrite (c : Iss) (n : Nat) (v : Word) : Option Csrs :=
  let r := c.gang.csr
  let watch := fun (i : Fin 4) => if csrAddrOk v then some { r with waddr := r.waddr.set i v } else none
  let ctl := fun (i : Fin 4) => if v.toNat < 2 ^ 6 then some { r with wctl := r.wctl.set i v } else none
  match n with
  | 0x000 => if csrAddrOk v ∧ v.toNat % 4 = 0 then some { r with hvec := v } else none
  | 0x001 => some { r with hdeleg := v &&& delegMask }
  | 0x004 => if c.f.split = 4 then some { r with hscratch := v } else none
  | 0x010 => watch 0
  | 0x011 => watch 1
  | 0x012 => watch 2
  | 0x013 => watch 3
  | 0x014 => ctl 0
  | 0x015 => ctl 1
  | 0x016 => ctl 2
  | 0x017 => ctl 3
  | _ => none

def execCsrr (x : CsrRI) (s : State) : Host.Outcome State Fault Refusal :=
  issue (.csrr x) { ss := [x.d] }
    (fun c =>
      match csrRead c x.csr.toNat with
      | some v => .ok (putUni c c.s x.d v)
      | none => .error (fault 0x01 0 c.exec)) s

def execCsrw (x : CsrWI) (s : State) : Host.Outcome State Fault Refusal :=
  issue (.csrw x) { ss := [x.b] }
    (fun c =>
      match csrWrite c x.csr.toNat (c.readS x.b) with
      | some r => .ok (c.s.modGang c.f.gang (fun g => { g with csr := r }))
      | none => .error (fault 0x01 0 c.exec)) s

/-! ## A word that is no instruction (02 R40-R44) -/

/-- The guard of extended words. -/
def guardOf (bs : List Byte) : Guard := Guard.ofCode (leNat bs / 2 ^ 40 % 2 ^ 4)

/-- The vector operands of a guarded member of OP 0x20-0x24 (04 R66). -/
def ownUses (i : Instr) : List VUse :=
  match i with
  | .ldExt x => baseUses x.addr x.sp ++ indexUses x.addr ++ [vdest x.d x.ty.is64]
  | .stExt x => baseUses x.addr x.sp ++ indexUses x.addr ++ [vuse x.d x.ty.is64]
  | .atom x => baseUses x.addr x.sp ++ vsrcUses x.b x.ty.is64 ++ indexUses x.addr ++ [vdest x.d x.ty.is64]
  | .red x => baseUses x.addr x.sp ++ vsrcUses x.b x.ty.is64 ++ indexUses x.addr
  | .pref x | .cflush x => baseUses x.addr false ++ indexUses x.addr
  | _ => []

/-- The trap of a PC at which no member decodes: the fetch's, with the length 0 where word 0 could not be fetched; else 0x01. Where
only a member's own check fails, the checks of its vector operands come first (R40), and the lanes are 0 where the guard is false in every
lane: then the instruction has no effect (R41). -/
def State.badFetch (s : State) (g : Gang) (x : Group) (f : Focus) (pc : Word) (live : LaneMask) : Option (Nat × TrapInfo) :=
  let w := s.whoOf g f
  let t := fun (cause sub kind : Nat) (lanes : LaneMask) =>
    ({ cause := cause, sub := sub, kind := kind, lanes := lanes, addr := pc, info := 0 } : TrapInfo)
  match s.fetch w pc with
  | .error e =>
    let len := match s.fetchWord w pc with
      | .ok bs => 4 * wordsOfLen (leNat bs % 4)
      | .error _ => 0
    some (len, t e.1 e.2 AccKind.fetch.code live)
  | .ok bs => match decode bs with
    | .ok _ => none
    | .error .ownCheck =>
      let code := match acceptedForm (wordsOfBytes bs) with
        | some i => checkNeed s f g x { vs := ownUses i }
        | none => 0
      some (bs.length, if code ≠ 0 then t code 0 0 live else t 0x01 0 0 (live &&& x.guardMask (guardOf bs)))
    | .error _ => some (bs.length, t 0x01 0 0 live)

/-- NOT_AN_INSTRUCTION: the split traps at a PC whose words decode to no member; where they do decode, nothing happens. -/
def execNotAnInstruction (s : State) : Host.Outcome State Fault Refusal :=
  if !s.canIssue s.cur then .fault .noIssuingSplit
  else
    match s.gang? s.cur.gang, s.group? s.cur.gang s.cur.group, s.split? s.cur with
    | some g, some x, some sp =>
      match s.badFetch g x s.cur sp.pc sp.lanes with
      | some (len, t) =>
        if t.lanes = 0 then .next (countIssue (advance s s.cur len) s.cur)
        else .next (raiseTrap s s.cur len t.lanes t)
      | none => .next s
    | _, _, _ => .fault .noIssuingSplit

end Sys2Proof.Machine
end

