-- ==== Sys2Proof/Machine/Area.lean ====
section
/-! DEFINITION. The state area of a recovery point (18 R332): its bytes, its footprint, and what is read back from it. -/

namespace Sys2Proof.Machine

/-- Bytes padded with zeros to a length, and to a multiple of 4 KiB. -/
def padTo (n : Nat) (bs : List Byte) : List Byte := bs ++ zeroBytes (n - bs.length)
def pad4k (bs : List Byte) : List Byte := padTo (roundUp bs.length 4096) bs

/-! ## The press section (DESIGN CHOICE, log 20: the manual gives the fields and no widths) -/

/-- Bytes of a mould: cells, scales, w_B, TAG (kind, slice, header). -/
def mouldSize : Nat := 65536 + 256 + 1 + 2 + 16
def accSizeBytes : Nat := 32768
def pressHead : Nat := 16

def MouldTag.bytes : MouldTag → List Byte
  | .dense => zeroBytes 18
  | .sparse i h => leBytes 1 1 ++ leBytes 1 i ++ h.bytes

def MouldTag.ofBytes (bs : List Byte) : MouldTag :=
  if fieldAt bs 0 1 = 0 then .dense else .sparse (fieldAt bs 1 1) (SparseHdr.ofBytes (bs.drop 2))

def Mould.bytes (m : Mould) : List Byte :=
  m.cells.readBytes 0 65536 ++ m.scales.readBytes 0 256 ++ leBytes 1 m.wB ++ m.tag.bytes

def Mould.ofBytes (bs : List Byte) : Mould :=
  { cells := Memory.empty.writeBytes 0 (bs.take 65536), scales := Memory.empty.writeBytes 0 ((bs.drop 65536).take 256)
    wB := fieldAt (bs.drop 65792) 0 1, tag := MouldTag.ofBytes (bs.drop 65793), bad := false }

def Reservation.bytes (r : Reservation) : List Byte :=
  padTo pressHead (leBytes 1 r.moulds.length ++ leBytes 1 r.accs.length) ++ r.moulds.flatMap Mould.bytes ++
  r.accs.flatMap (fun a => a.vals.readBytes 0 accSizeBytes)

/-- Bytes of the press section. -/
def Reservation.size (r : Reservation) : Nat := pressHead + r.moulds.length * mouldSize + r.accs.length * accSizeBytes

/-- A reservation read back for a gang. -/
def Reservation.ofBytes (gang : Nat) (bs : List Byte) : Reservation :=
  let nm := fieldAt bs 0 1
  let nk := fieldAt bs 1 1
  { gang := gang, releasing := false
    moulds := (List.range nm).map (fun i => Mould.ofBytes ((bs.drop (pressHead + i * mouldSize)).take mouldSize))
    accs := (List.range nk).map (fun i =>
      { vals := Memory.empty.writeBytes 0 ((bs.drop (pressHead + nm * mouldSize + i * accSizeBytes)).take accSizeBytes), poison := 0 }) }

/-! ## The area (18 R332, R333) -/

/-- The control registers in number order (16 R301). -/
def Csrs.words (r : Csrs) (hp : Bool) : List Word :=
  [r.hvec, r.hdeleg, r.hframe, BitVec.ofNat 64 (bit hp), r.hscratch, r.trapcnt.zeroExtend 64] ++ r.waddr.toList ++ r.wctl.toList

def Csrs.ofBytes (bs : List Byte) (frame : Word) : Csrs :=
  let w := fun (i : Nat) => BitVec.ofNat 64 (fieldAt bs (8 * i) 8)
  { hvec := w 0, hdeleg := w 1, hframe := frame, hscratch := w 4, trapcnt := (w 5).truncate 32
    waddr := Vector.ofFn (fun i => w (6 + i.val)), wctl := Vector.ofFn (fun i => w (10 + i.val)) }

/-- The stash tags, 16 bytes a unit. -/
def State.tagBytes (s : State) (g : Gang) : List Byte :=
  (List.range g.task.stash).flatMap (fun j =>
    match (s.core? g.core).unitAt (g.stashBase + 4096 * j) with
    | some u => leBytes 8 u.va.toNat ++ leBytes 1 (1 + 2 * bit u.wr) ++ zeroBytes 7
    | none => zeroBytes 16)

/-- A carry queue's four bytes. -/
def carryBytes (c : Option Carry) : List Byte :=
  match c with
  | some q => leBytes 1 q.base ++ leBytes 1 q.depth ++ leBytes 1 q.head ++ leBytes 1 q.occ
  | none => zeroBytes 4

/-- The 4 KiB of a group, which holds one split. -/
def Group.areaBytes (x : Group) (sp : Split) (pc : Word) : List Byte :=
  let n := x.snapshot sp 0 0 0
  padTo 4096 (padTo 3328
    (uniformBytes n.s n.m n.up n.fmt n.part ++ zeroBytes 2 ++ leBytes 8 pc.toNat ++ leBytes 4 x.live.toNat ++ leBytes 4 x.dead.toNat ++
     leBytes 2 x.gid.toNat ++ leBytes 1 x.slot ++ leBytes 1 x.prio.val ++ x.carry.toList.flatMap carryBytes ++
     (List.range 7).flatMap (fun i => leBytes 4 (x.pred (Fin.ofNat 8 (i + 1))).toNat) ++ leBytes 1 x.nextb.toNat ++
     leBytes 1 (bit x.ucflag)) ++ x.ords.toList.flatMap (fun o => leBytes 4 o.toNat))

/-- The sections after VAT. -/
def State.areaTail (s : State) (g : Gang) (pc : Word) : List Byte :=
  pad4k (s.tagBytes g) ++
  g.order.flatMap (fun a => match g.group? a with
    | some x => match x.liveSplits with
      | (_, sp) :: _ => x.areaBytes sp pc
      | [] => zeroBytes 4096
    | none => []) ++
  (match s.reservation? g with
   | some r => pad4k r.bytes
   | none => [])

/-- The state area of a gang whose groups stand at a barrier; `pc` is RPT.PC. -/
def State.areaBytes (s : State) (g : Gang) (pc : Word) : List Byte :=
  let rest := leBytesPad ++ s.vatReadBytes g.core g.base g.size ++ s.areaTail g pc
  leBytes 4 0x53545241 ++ leBytes 4 (16 + rest.length) ++ leBytes 4 g.order.length ++ leBytes 4 (crc32c rest).toNat ++ rest
where
  /-- Bytes 16 to 4,095. -/
  leBytesPad : List Byte :=
    padTo 4080 (g.task.toBytes ++ leBytes 8 g.size ++ leBytes 8 (g.id % 2 ^ 32) ++ zeroBytes 32 ++
      (g.csr.words false).flatMap (fun v => leBytes 8 v.toNat))

/-- The footprint (18 R333, sel 4). -/
def State.footprint (s : State) (g : Gang) : Nat :=
  4096 + roundUp g.size 4096 + roundUp (16 * g.task.stash) 4096 + 4096 * g.groups.length +
  (match s.reservation? g with
   | some r => roundUp r.size 4096
   | none => 0)

/-! ## Read back (18 R334, R340) -/

/-- MAGIC and HCRC of an area's bytes. -/
def areaOk (bs : List Byte) : Bool :=
  decide (fieldAt bs 0 4 = 0x53545241) && decide (16 ≤ fieldAt bs 4 4) && decide (bs.length = fieldAt bs 4 4) &&
  decide ((crc32c (bs.drop 16)).toNat = fieldAt bs 12 4)

/-- The register file, modulo registers and predicates of a snapshot's bytes (13 R252). -/
def snapS (bs : List Byte) : Vector Word 384 := Vector.ofFn (fun i => BitVec.ofNat 64 (fieldAt (bs.drop (8 * i.val)) 0 8))
def snapM (bs : List Byte) : Vector ModReg 8 :=
  Vector.ofFn (fun i =>
    let b := bs.drop (3072 + 16 * i.val)
    { base := BitVec.ofNat 23 (fieldAt b 0 4), len := BitVec.ofNat 24 (fieldAt b 4 4), idx := BitVec.ofNat 23 (fieldAt b 8 4) })
def snapUp (bs : List Byte) : Vector Bool 4 := Vector.ofFn (fun i => (fieldAt (bs.drop 3200) 0 1).testBit i.val && decide (i.val ≠ 0))

/-- A group of an area's GROUPS section: counters 0, one split at RPT.PC (18 R334). -/
def Group.ofArea (bs : List Byte) (age : Nat) : Group :=
  let t := bs.drop 3202
  let at_ := fun (a n : Nat) => fieldAt t (a - 3202) n
  let x := Group.fresh (at_ 3226 1) (BitVec.ofNat 16 (at_ 3224 2)) (Fin.ofNat 4 (at_ 3227 1))
  let carry : Fin 8 → Option Carry := fun k =>
    let b := 3228 + 4 * k.val
    if at_ (b + 1) 1 = 0 then none
    else some { base := at_ b 1, depth := at_ (b + 1) 1, head := at_ (b + 2) 1, occ := at_ (b + 3) 1, unfilled := [] }
  let sp : Split := { Split.start (BitVec.ofNat 64 (at_ 3208 8)) (BitVec.ofNat 32 (at_ 3216 4)) age with
    fmt := heldFmt 0x003F (BitVec.ofNat 16 (at_ 3202 2)), part := heldPart 5 (BitVec.ofNat 16 (at_ 3204 2)) }
  ({ x with
     s := snapS bs, m := snapM bs, up := snapUp bs, dead := BitVec.ofNat 32 (at_ 3220 4), carry := Vector.ofFn carry
     p := Vector.ofFn (fun i => if i.val = 0 then 0 else BitVec.ofNat 32 (at_ (3260 + 4 * (i.val - 1)) 4))
     nextb := BitVec.ofNat 4 (at_ 3288 1), ucflag := (at_ 3289 1).testBit 0
     ords := Vector.ofFn (fun i => BitVec.ofNat 16 (at_ (3328 + 4 * i.val) 4)) } : Group).setSplit 0 (some sp)

/-- The parts of an area. -/
structure AreaParts where
  task : TaskRec
  alloc : Nat
  gangid : Nat
  csr : List Byte
  vat : List Byte
  tags : List Byte
  groups : List (List Byte)
  press : List Byte

def areaParts (bs : List Byte) : AreaParts :=
  let task := TaskRec.ofBytes ((bs.drop 16).take 64)
  let alloc := fieldAt (bs.drop 80) 0 8
  let n := fieldAt bs 8 4
  let tagAt := 4096 + alloc
  let grpAt := tagAt + roundUp (16 * task.stash) 4096
  { task := task, alloc := alloc, gangid := fieldAt (bs.drop 88) 0 4, csr := (bs.drop 128).take 112
    vat := (bs.drop 4096).take alloc, tags := (bs.drop tagAt).take (16 * task.stash)
    groups := (List.range n).map (fun i => (bs.drop (grpAt + 4096 * i)).take 4096), press := bs.drop (grpAt + 4096 * n) }

end Sys2Proof.Machine
end

