-- ==== Sys2Proof/Machine/Recovery.lean ====
section
/-! DEFINITION. The members of OP 0x3F: CHKMODE (17 R317), RPMARK and RPGET (18 R330, R333), CKSEAL (R335), FINJ (17 R327). -/

namespace Sys2Proof.Machine

/-! ## CHKMODE (17 R317) -/

/-- The mode a request gets: never below the context's minimum. -/
def State.chkFloor (s : State) (ctx : Nat) (mode : Nat) : Fin 3 :=
  let m := match s.ctx? ctx with
    | some c => c.chkmin.val
    | none => 0
  Fin.ofNat 3 (max m mode)

def execChkmode (x : ChkModeI) (s : State) : Host.Outcome State Fault Refusal :=
  issue (.chkmode x) { feature := if x.mode.val = 0 then none else some 2 }
    (fun c =>
      if x.mode.val = 3 then .error (fault 0x01 0 c.exec)
      else .ok (c.s.modGang c.f.gang (fun g => { g with chk := c.s.chkFloor c.gang.ctx x.mode.val }))) s

/-! ## RPMARK (18 R330) -/

/-- The operands with which a split stands at an RPMARK. -/
def Split.mark (sp : Split) : Option (Word × Word) :=
  match sp.status with
  | .waiting (.rpmark a l _) => some (a, l)
  | _ => none

/-- A split that waits at the RPMARK with other operands than the one that decides. -/
def Gang.otherMark (g : Gang) (m : Word × Word) : Option (Nat × Nat × Split) :=
  g.groups.findSome? (fun x => (x.liveSplits.find? (fun y => match y.2.mark with
    | some k => decide (k ≠ m)
    | none => false)).map (fun y => (x.slot, y.1, y.2)))

/-- The split that decides the operands is the issuing one, or waits already: a split that differs from it traps with subcause 6. -/
def arriveMark (c : Iss) (m : Word × Word) : Except Stop State :=
  let wait := fun (s : State) => s.modGroup c.f.gang c.f.group (fun g => g.setWaiting c.f.split (.rpmark m.1 m.2 c.s.order))
  match c.gang.firstSplit with
  | none => .ok (wait c.s)
  | some (slot, i, sp) =>
    if slot = c.f.group ∧ i = c.f.split then
      match c.gang.otherMark m with
      | none => .ok (wait c.s)
      | some (b, j, y) =>
        .ok (raiseTrap (wait c.s) { gang := c.f.gang, group := b, split := j } 12 y.lanes
          { cause := 0x03, sub := 6, kind := 0, lanes := y.lanes, addr := 0, info := 0 })
    else
      match sp.mark with
      | some k => if k = m then .ok (wait c.s) else .error (fault 0x03 6 c.exec)
      | none => .ok (wait c.s)

def execRpmark (x : AbI) (s : State) : Host.Outcome State Fault Refusal :=
  issueWait (.rpmark x) { ss := [x.a, x.b], feature := some 3 }
    (fun c =>
      if c.f.split = 4 then .error (fault 0x01 0 c.exec)
      else if barrierClash c then .error (fault 0x03 2 c.exec)
      else arriveMark c (c.readS x.a, c.readS x.b)) s

/-! ## RPGET (18 R333) -/

def rpgetValue (c : Iss) (sel : Nat) : Word :=
  match sel with
  | 0 => c.gang.rpt.gen.zeroExtend 64
  | 1 => c.gang.rpt.pc
  | 2 => c.gang.rpt.state
  | 3 => match c.s.ctx? c.gang.ctx with
    | some k => BitVec.ofNat 64 k.committed
    | none => 0
  | _ => BitVec.ofNat 64 (c.s.footprint c.gang)

def execRpget (x : RpGetI) (s : State) : Host.Outcome State Fault Refusal :=
  issue (.rpget x) { ss := [x.d] }
    (fun c => if 4 < x.sel.val then .error (fault 0x01 0 c.exec) else .ok (putUni c c.s x.d (rpgetValue c x.sel.val))) s

/-! ## CKSEAL (18 R335) -/

/-- CKSEAL: CPC rises and the split stands at the rendezvous; CHECKPOINT_SEAL takes it from there. -/
def execCkseal (x : CkSealI) (s : State) : Host.Outcome State Fault Refusal :=
  issueJump (.ckseal x) { ss := [x.a], ups := [x.d], feature := some 3 }
    (fun c =>
      let a := (c.readS x.a).toNat
      if 256 ≤ a then .error (fault 0x07 2 c.exec)
      else
        match c.s.collGroup? a c.gang.ctx with
        | none => .error (fault 0x06 6 c.exec)
        | some g =>
          let quota := match c.s.ctx? c.gang.ctx with
            | some k => k.quota
            | none => 0
          if g.chips.length ≠ 8 then .error (fault 0x07 2 c.exec)
          else if quota = 0 then .error (fault 0x06 9 c.exec)
          else do
            roomFor c.grp.cpc
            let s1 ← releaseFirst c c.s .rel
            let wt : CollWait :=
              { group := g.id, gang := c.f.gang, slot := c.f.group, split := c.f.split, lanes := c.exec, pc := c.sp.pc, kind := .bcast
                op := .add, ty := .n8, n := 0, root := 0, dst := [], src := [], isSeal := some x.d }
            pairRun c s1 (effectSig (.ckseal x) [c.readS x.a])
              (fun s => .ok ({ (s.park c.f (.coll g.id)).modCpcs c.f.gang c.grp.gid.toNat (· + 1) with collWaits := s.collWaits ++ [wt] }, none))
              (fun vals s => .ok (advance (s.writeU c.f (.up x.d (decide (vals.headD 0 ≠ 0)))) c.f c.len))) s

/-! ## FINJ (17 R327) -/

/-- The fields of s[B]. -/
structure InjWord where
  kind : Nat
  struct : Nat
  lane : Nat
  bitNo : Nat
  copy : Nat
  deriving DecidableEq, Repr

def InjWord.ofNat (w : Nat) : InjWord :=
  { kind := bitsOf w 3 0, struct := bitsOf w 7 4, lane := bitsOf w 12 8, bitNo := bitsOf w 18 13, copy := bitsOf w 20 19 }

/-- The fields are what R327 allows. -/
def injFieldsOk (j : InjWord) (a b : Word) (armed : Nat) : Bool :=
  decide (j.kind ≤ 2) && (if j.kind = 0 then decide (j.struct = 0) else decide (j.struct ≤ 3)) && decide (j.copy ≠ 3) &&
  decide (b.toNat < 2 ^ 21) && (decide (j.struct ≠ 3) || decide (a.toNat < 2 ^ 16)) &&
  (!(decide (j.struct = 0) || decide (j.struct = 3)) || decide (j.bitNo < 32)) && decide (armed < 4)

/-- A vat address in the register window of a group slot of the gang. -/
def Gang.inWindows (g : Gang) (a : Nat) : Bool :=
  decide (g.base ≤ a) && decide (a < g.appendBase) && decide ((a - g.base) % g.task.slotSize < 128 * g.task.w)

/-- The target: its alignment, then its place. -/
def checkTarget (c : Iss) (j : InjWord) (a : Word) : Except Stop Unit :=
  match j.struct with
  | 0 =>
    if a.toNat % 4 ≠ 0 then .error (fault 0x04 0 c.exec a)
    else if c.gang.inWindows a.toNat then .ok () else .error (fault 0x07 1 c.exec a)
  | 1 =>
    if a.toNat % 128 ≠ 0 then .error (fault 0x04 0 c.exec a)
    else if c.gang.base ≤ a.toNat ∧ a.toNat + 128 ≤ c.gang.base + c.gang.size then .ok () else .error (fault 0x07 1 c.exec a)
  | 2 =>
    if a.toNat % 64 ≠ 0 then .error (fault 0x04 0 c.exec a)
    else
      match c.s.translate (c.s.whoOf c.gang c.f) .write a with
      | .error e => .error (fault e.1 e.2 c.exec a AccKind.write.code)
      | .ok _ => .ok ()
  | _ =>
    match c.s.reservation? c.gang with
    | some r => if a.toNat % 8 < r.accs.length then .ok () else .error (fault 0x0C 2 c.exec)
    | none => .error (fault 0x0C 2 c.exec)

/-- COPY names this copy; a gang that is no pair counts as a lead. -/
def namesCopy (copy : Nat) (trail : Bool) : Bool := decide (copy = 0) || (if trail then decide (copy = 2) else decide (copy = 1))

/-- FINJ; a replay re-arms nothing. -/
def execFinj (x : FinjI) (s : State) : Host.Outcome State Fault Refusal :=
  issue (.finj x) { ss := [x.a, x.b, x.c], priv := true, feature := some 6 }
    (fun c =>
      let permitted := match c.s.ctx? c.gang.ctx with
        | some k => k.finj
        | none => false
      let j := InjWord.ofNat (c.readS x.b).toNat
      if !permitted || !injFieldsOk j (c.readS x.a) (c.readS x.b) c.gang.injections.length then .error (fault 0x01 0 c.exec)
      else do
        checkTarget c j (c.readS x.a)
        let i : Injection :=
          { group := c.f.group, kind := j.kind, struct := j.struct, target := c.readS x.a, lane := j.lane, bitNo := j.bitNo
            remaining := (c.readS x.c).toNat % 2 ^ 32, live := false }
        let replaying := match c.gang.pair with
          | some p => decide (p.state = .replay)
          | none => false
        .ok (if namesCopy j.copy (c.s.isTrail c.f.gang) && !replaying then c.s.modGang c.f.gang (fun g => { g with injections := g.injections ++ [i] })
          else c.s)) s

end Sys2Proof.Machine
end

