-- ==== Sys2Proof/Machine/MemEvents.lean ====
section
/-! DEFINITION. Events of the memory system: page walks (03 R57), page migration (R59), loads and stores becoming performed (04 R75), the update-only state (R83), appended elements (R85), durability (06 R135). -/

namespace Sys2Proof.Machine

/-! ## Walks (03 R57) -/

/-- WALK_START: the first entry that no walker serves starts, at most 32 at once. -/
def execWalkStart (e : EvDie) (s : State) : Host.Outcome State Fault Refusal :=
  let d := s.die? e.die.val
  let first := d.walks.findIdx (fun w => !w.started)
  let running := (d.walks.filter (fun w => w.started)).length
  happens s (if first < d.walks.length ∧ running < 32 then
    some (s.modDie e.die.val (fun d => { d with walks := (enumFrom 0 d.walks).map (fun w =>
      if w.1 = first then { w.2 with started := true } else w.2) }))
  else none)

/-- The cores whose accesses have waited on walks take the translation into their TLBs. -/
def State.answerWalks (s : State) (key : Nat × Nat) (ws : List Walk) : State :=
  ((ws.flatMap (fun w => w.waiters)).eraseDups).foldl (fun (s : State) c => s.fillCoreTlb c key) s

/-- WALK_COMPLETE: every waiter is answered, and every entry of the same page goes without a walk of its own; a walk that finds no page fills
no TLB. -/
def execWalkComplete (e : EvDieIdx) (s : State) : Host.Outcome State Fault Refusal :=
  happens s (match (s.die? e.die.val).walks[e.idx]? with
    | none => none
    | some w =>
      if !w.started then none
      else
        let found := s.walkedPage w.ctx w.page
        let (first, n) := found.getD (w.page, 1)
        let done := fun (v : Walk) => v.ctx == w.ctx && decide (first ≤ v.page) && decide (v.page < first + n)
        let s1 := s.modDie e.die.val (fun d =>
          { d with walks := d.walks.filter (fun v => !done v), walkCount := d.walkCount + 1 })
        some (if found.isNone then s1
          else (s1.fillDieTlb e.die.val (w.ctx, first)).answerWalks (w.ctx, first) ((s.die? e.die.val).walks.filter done)))

/-! ## Loads and stores (04 R75, R79) -/

/-- The lines of a tile load come in, each with its bytes at the sync word (07 R156). -/
def State.fillTile (s : State) (g : Gang) (l : PendLoad) : State :=
  l.tile.foldl (fun s t =>
    let s1 := match t.2 with
      | .phys a => s.copyLineIn g.core t.1 a
      | .vat _ _ => s
    match l.sync with
    | some w => s1.post g.id g.core w 128
    | none => s1) s

/-- LOAD_COMPLETE: destinations are written, LDC falls. -/
def execLoadComplete (e : EvGroupIdx) (s : State) : Host.Outcome State Fault Refusal :=
  happens s (match s.gang? e.gang, s.group? e.gang e.group with
    | some g, some x =>
      match x.loads[e.idx]? with
      | none => none
      | some l =>
        if l.tile.any (fun t => match t.2 with
            | .phys a => s.physBusy (a / 128) false
            | .vat _ _ => false) then none
        else
          let s1 := match l.carry with
            | some (k, place) => fillCarry s e.gang e.group (Fin.ofNat 8 k) place (l.vals.map (fun (v : Nat × Nat × W32) => (v.2.1, v.2.2)))
            | none => l.vals.foldl (fun (s : State) (v : Nat × Nat × W32) => s.setLane e.gang e.group v.1 v.2.1 v.2.2) s
          let s2 := s1.modGroup e.gang e.group (fun x => { x with ldc := x.ldc - 1, loads := x.loads.eraseIdx e.idx })
          some (s2.fillTile g l)
    | _, _ => none)

/-- A first access that writes a LOST line in part ends the contexts that own it, unless the gang's handler takes trap 0x15 (17 R326); `t` is
what the access leaves. -/
def State.endLost (s : State) (gang : Nat) (lines : List Nat) (t : State) : State :=
  if (s.gang? gang).any (fun g => g.csr.hdeleg.getLsbD 0x15 && decide (g.csr.hvec ≠ 0)) then t
  else (lines.filter (fun l => s.lost.contains l)).foldl (fun (t : State) l => t.terminateAll (t.ownedBy (s.ownerOf (128 * l)))) t

/-- STORE_PERFORMED: an outstanding store that no earlier one of its group holds back is performed, STC falls. -/
def execStorePerformed (e : EvGroupIdx) (s : State) : Host.Outcome State Fault Refusal :=
  happens s (match s.group? e.gang e.group with
    | none => none
    | some x =>
      match x.stores[e.idx]? with
      | none => none
      | some p =>
        if x.fenced e.idx || x.overtakes e.idx p.addrs || p.lines.any (fun l => s.physBusy l true) then none
        else
          let s1 := s.performOne e.gang (s.gangDie e.gang) p
          let s2 := s1.modGroup e.gang e.group (fun x => ({ x with stc := x.stc - 1 } : Group).dropStore e.idx)
          some (s.eager (if s.meetsLost p then s.endLost e.gang p.lines s2 else s2)))

/-! ## The update-only state (04 R83) -/

/-- UPDATE_ONLY_MERGE: a line leaves U. -/
def execUpdateOnlyMerge (e : EvLine) (s : State) : Host.Outcome State Fault Refusal :=
  happens s (if s.partials.any (fun p => p.addr / 128 == e.line) then some (s.mergeLine e.line) else none)

/-- The first update of a store with the rest of it. -/
def PendStore.takeUpdate : PendStore → Option (Update × PendStore)
  | .red m (u :: us) => some (u, .red m us)
  | _ => none

/-- RED_UPDATE_ARRIVAL: one update of a RED, or of a SCATADD (counted behind the stores), reaches its slice. -/
def execRedUpdateArrival (e : EvGroupIdx) (s : State) : Host.Outcome State Fault Refusal :=
  happens s (match s.group? e.gang e.group with
    | none => none
    | some x =>
      if e.idx < x.stores.length then
        match (x.stores[e.idx]?).bind PendStore.takeUpdate with
        | none => none
        | some (u, rest) =>
          let bytes := (List.range (u.ty.bits / 8)).map (fun i => u.addr + i)
          if x.fenced e.idx || x.overtakes e.idx bytes || s.physBusy (u.addr / 128) true then none
          else
            let s1 := (s.arriveUpdate e.gang (s.gangDie e.gang) u).modGroup e.gang e.group (fun x => { x with stores := x.stores.set e.idx rest })
            some (s.eager (s.endLost e.gang [u.addr / 128] s1))
      else
        match (s.commands.filter (fun c => c.gang == e.gang && c.group == x.gid.toNat && decide (c.kind = .scatadd)))[e.idx - x.stores.length]? with
        | none => none
        | some c => (s.putUpdate c).map (fun s1 => s.eager (s.endLost e.gang ((c.updates.take 1).map (fun u => u.addr / 128)) s1)))

/-! ## Appended elements (04 R85, R87) -/

/-- APPEND_ELEMENT_WRITE: the waiting element of lowest rank, once every lower-ranked thread has appended or ended. -/
def execAppendElementWrite (e : EvGangIdx) (s : State) : Host.Outcome State Fault Refusal :=
  happens s (match s.gang? e.gang with
    | none => none
    | some g =>
      if 4 ≤ e.idx then none
      else
        let ch := Fin.ofNat 4 e.idx
        match g.firstElem ch with
        | none => none
        | some x => if g.appendDue ch x then s.writeElem e.gang ch else none)

/-! ## Durability (06 R135) -/

/-- DURABLE_ACKNOWLEDGE: the memory base die holds a half-line with its check value. -/
def execDurableAcknowledge (e : EvHalf) (s : State) : Host.Outcome State Fault Refusal :=
  happens s (if s.undurable.any (fun c => c.1 / 64 == e.half) then
    some { s with undurable := s.undurable.filter (fun c => c.1 / 64 ≠ e.half) } else none)

/-! ## Page migration (03 R59) -/

/-- A physical address after the move of `n` bytes from `a` to `b`. -/
def moved (a b n x : Nat) : Nat := if a ≤ x ∧ x < a + n then x - a + b else x

def Loc.remap (f : Nat → Nat) : Loc → Loc
  | .phys a => .phys (f a)
  | l => l

def ByteWrite.remap (f : Nat → Nat) (w : ByteWrite) : ByteWrite := { w with addr := f w.addr }
def Update.remap (f : Nat → Nat) (u : Update) : Update := { u with addr := f u.addr }

/-- Half-lines and lines that physical addresses name. -/
def halfMap (f : Nat → Nat) (h : Nat) : Nat := f (64 * h) / 64
def lineMap (f : Nat → Nat) (l : Nat) : Nat := f (128 * l) / 128

def PendStore.remap (f : Nat → Nat) : PendStore → PendStore
  | .bytes m ws bad => .bytes m (ws.map (ByteWrite.remap f)) (bad.map (halfMap f))
  | .red m us => .red m (us.map (Update.remap f))
  | .flush m ls => .flush m (ls.map (lineMap f))

def PendLoad.remap (f : Nat → Nat) (l : PendLoad) : PendLoad := { l with tile := l.tile.map (fun t => (t.1, t.2.remap f)) }

def Effect.remap (f : Nat → Nat) : Effect → Effect
  | .qpush a vs => .qpush (f a) vs
  | .tspawn a r => .tspawn (f a) r
  | .tdone a d => .tdone (f a) d
  | .wlpush a vs => .wlpush (f a) vs
  | .wlins a vs => .wlins (f a) vs
  | .futset a v d => .futset (f a) v d
  | .red us => .red (us.map (Update.remap f))
  | .redVat us => .redVat us

def WaitKind.remap (f : Nat → Nat) : WaitKind → WaitKind
  | .push e n src => .push (e.remap f) n src
  | k => k

def Group.remapPhys (f : Nat → Nat) (x : Group) : Group :=
  { x with loads := x.loads.map (PendLoad.remap f), stores := x.stores.map (PendStore.remap f) }

def Gang.remapPhys (f : Nat → Nat) (g : Gang) : Gang :=
  { g with
    groups := g.groups.map (Group.remapPhys f), effects := g.effects.map (Effect.remap f)
    framePhys := f g.framePhys, spillPhys := f g.spillPhys }

def Command.remap (f : Nat → Nat) (c : Command) : Command :=
  { c with
    lines := c.lines.map (fun l => { l with moves := l.moves.map (fun m => (m.1, m.2.remap f)) })
    updates := c.updates.map (Update.remap f) }

def Stream.remap (f : Nat → Nat) (st : Stream) : Stream := { st with elems := st.elems.map (fun e => (f e.1, e.2)) }

/-- Every physical address the machine holds outside its page tables. -/
def State.remapPhys (s : State) (f : Nat → Nat) : State :=
  { s with
    gangs := s.gangs.map (Gang.remapPhys f), commands := s.commands.map (Command.remap f)
    cores := s.cores.map (fun c =>
      { c with
        streams := c.streams.map (Stream.remap f), stash := c.stash.map (fun u => { u with phys := f u.phys })
        hostLines := c.hostLines.filter (fun h => lineMap f h.1 == h.1) })
    saves := s.saves.map (fun v =>
      { v with
        streams := v.streams.map (fun st => (st.1, st.2.remap f)), stash := v.stash.map (fun u => { u with phys := f u.phys }) })
    queues := s.queues.map (fun q => { q with hdr := f q.hdr })
    waiters := s.waiters.map (fun w => { w with obj := f w.obj, kind := w.kind.remap f })
    poison := s.poison.map (halfMap f), poisonTags := s.poisonTags.map (fun h => (halfMap f h.1, h.2)), lost := s.lost.map (lineMap f)
    collWaits := s.collWaits.map (fun w => { w with dst := w.dst.map (fun d => (f d.1, d.2)), src := w.src.map f }) }

/-- PAGE_MIGRATION: lines owned by engines and dirty stash lines are back, the data is copied, the leaf is rewritten, and every old translation is
gone. A DUR page stays on the local stacks (R53 by `leafOk`). -/
def execPageMigration (e : EvMigratePage) (s : State) : Host.Outcome State Fault Refusal :=
  happens s (match s.ctx? e.ctx with
    | none => none
    | some c =>
      match s.leafAt c.root e.va with
      | none => none
      | some (level, leaf, at_) =>
        let n := 2 ^ levelShift level
        let old := frameOf level leaf
        let new := e.frame
        let inside := fun (l : Nat) => decide (old / 128 ≤ l) && decide (l < (old + n) / 128)
        let taken := s.contexts.any (fun k => (s.leaves k.root).any (fun y =>
          rangesMeet new n (frameOf y.2.1 y.2.2) (2 ^ levelShift y.2.1)))
        let owned := s.commands.any (fun k => k.lines.any (fun y => match y.line with
            | .phys l => inside l
            | .vat _ _ => false)) ||
          s.cores.any (fun k => k.streams.any (fun st => st.remaining.any (fun y => inside (y.1 / 128))) ||
            k.stash.any (fun u => inside (u.phys / 128) && u.lines.any (fun y => y.2))) ||
          s.saves.any (fun v => v.streams.any (fun st => st.2.remaining.any (fun y => inside (y.1 / 128))) ||
            v.stash.any (fun u => inside (u.phys / 128) && u.lines.any (fun y => y.2)))
        let leaf' := leaf - bitsOf leaf 49 16 * 2 ^ 16 + new
        if new % n ≠ 0 ∨ 2 ^ 50 ≤ new ∨ !s.part.frameOk new n ∨ !leafOk level leaf' ∨ (leaf.testBit 4 ∧ 2 ^ 48 ≤ old) ∨ taken ∨ owned then none
        else
          let dirtyU := ((s.partials.filter (fun p => inside (p.addr / 128))).map (fun p => p.addr / 128)).eraseDups
          let s1 := dirtyU.foldl State.mergeLine s
          let kept := s1.mem.cells.filter (fun k => decide (old ≤ k.1) && decide (k.1 < old + n))
          let cleared := (s1.mem.clear old n).clear new n
          let m := kept.foldl (fun (m : Memory) k => m.write (k.1 - old + new) k.2) cleared
          let undur := (s1.undurable.filter (fun k => !(decide (old ≤ k.1) && decide (k.1 < old + n)))) ++
            (s1.undurable.filter (fun k => decide (old ≤ k.1) && decide (k.1 < old + n))).map (fun k => (k.1 - old + new, k.2))
          let s2 := ({ s1 with mem := m, undurable := undur } : State).remapPhys (moved old new n)
          some ((s2.dropLeaf e.ctx c.root e.va).writeEntry at_ leaf'))

end Sys2Proof.Machine
end

