-- ==== Sys2Proof/Machine/EngineEvents.lean ====
section
/-! DEFINITION. Events of the engines: a line written and released (05 R98-R102), a command's completion (R101), slots of a stream (R113, R117), a collective rendezvous (R122, R123), arrivals at sync words (07 R151), background write-backs (R147). -/

namespace Sys2Proof.Machine

/-- ENGINE_LINE_WRITE: a line is written and released (05 R98). -/
def execEngineLineWrite (e : EvCmdLine) (s : State) : Host.Outcome State Fault Refusal := happens s ((s.engineLine e.cmd e.line).map s.eager)

/-- LINE_RECALL: an access to an owned line makes the engine write it; the access is then performed. -/
def execLineRecall (e : EvCmdLine) (s : State) : Host.Outcome State Fault Refusal := happens s ((s.engineLine e.cmd e.line).map s.eager)

/-- ENGINE_COMMAND_COMPLETE (05 R101): nothing is left to write, CPC falls. -/
def execEngineCommandComplete (e : EvCmd) (s : State) : Host.Outcome State Fault Refusal :=
  happens s (match s.commands.find? (fun c => c.id == e.cmd) with
    | none => none
    | some c =>
      if !c.lines.isEmpty || !c.updates.isEmpty then none
      else some (({ s with commands := s.commands.filter (fun k => k.id ≠ e.cmd) } : State).modCpcs c.gang c.group (· - 1)))

/-! ## Slots (05 R113, R117) -/

/-- The elements of a slot. -/
def Stream.slotElems (st : Stream) (slot : Nat) : List (Nat × Bool) :=
  let per := st.record.slotBytes / 2 ^ st.record.esz
  (st.elems.drop (slot * per)).take per

/-- The vat address of a slot in a copy's ring. -/
def Stream.slotAddr (st : Stream) (slot : Nat) : Nat := st.record.ring + slot % st.record.slots * st.record.slotBytes

/-- The lines of a slot in the vat of each copy: the gang, the address of the ring there. -/
def State.ringSides (s : State) (g : Gang) (st : Stream) (slot : Nat) : List (Gang × Nat) :=
  (g, st.slotAddr slot) :: (match s.twin g with
    | some t => [(t, st.slotAddr slot + t.base - g.base)]
    | none => [])

def State.sidesHeld (s : State) (sides : List (Gang × Nat)) (n seq : Nat) (write : Bool) : Bool :=
  sides.any (fun x => (rangeLines x.2 n).any (fun l =>
    if write then s.writeHeld (.vat x.1.core l) seq else s.readHeld (.vat x.1.core l) seq))

/-- The slot a fill engine writes next, in both copies' rings. -/
def State.fillSlot (s : State) (core e : Nat) : Option State :=
  let st := s.streamAt core e
  let r := st.record
  match s.gang? st.holder with
  | none => none
  | some g =>
    let limit := if (s.twin g).isSome then min st.cons st.twin else st.cons
    let els := st.slotElems st.prod
    let sides := s.ringSides g st st.prod
    let srcs := linesOf (els.map (fun x => x.1))
    if st.state ≠ .run ∨ r.drain ∨ r.totalSlots ≤ st.prod ∨ limit + r.slots ≤ st.prod ∨ !g.moves then none
    else if srcs.any (fun l => s.readHeld (.phys l) st.seq) || s.sidesHeld sides r.slotBytes st.seq true then none
    else
      let s1 := s.reachAll srcs false
      let size := 2 ^ r.esz
      let bytes := els.flatMap (fun x => s1.mem.readBytes x.1 size)
      let per := 128 / size
      let s2 := sides.foldl (fun (s : State) x => (List.range r.slotLines).foldl (fun (s : State) i =>
        let bs := (bytes.drop (128 * i)).take 128
        s.putLine x.1 (.vat x.1.core (x.2 / 128 + i)) (enumFrom 0 (bs ++ zeroBytes (128 - bs.length)))
          (((els.drop (per * i)).take per).any (fun y => s1.tainted y.1 size)) false) s) s1
      some ((setStream s2 core e { s2.streamAt core e with prod := st.prod + 1 }).postBytes g r.sync r.slotBytes)

def execFillSlotReady (e : EvCoreIdx) (s : State) : Host.Outcome State Fault Refusal := happens s (s.fillSlot e.core e.idx)

/-- The slot a drain engine returns next; the lead's slot is written once the trail has handed its own over. -/
def State.drainSlot (s : State) (core e : Nat) : Option State :=
  let st := s.streamAt core e
  let r := st.record
  match s.gang? st.holder with
  | none => none
  | some g =>
    let given := if (s.twin g).isSome then min st.prod st.twin else st.prod
    let els := st.slotElems st.cons
    let a := st.slotAddr st.cons
    let dsts := linesOf (els.map (fun x => x.1))
    if st.state ≠ .run ∨ !r.drain ∨ given ≤ st.cons ∨ r.totalSlots ≤ st.cons ∨ !g.moves then none
    else if dsts.any (fun l => s.writeHeld (.phys l) st.seq) || s.sidesHeld [(g, a)] r.slotBytes st.seq false then none
    else
      let size := 2 ^ r.esz
      let s1 := (rangeLines a r.slotBytes).foldl (fun (s : State) l => s.readLine (.vat g.core l)) s
      let ws := (enumFrom 0 els).flatMap (fun x =>
        (enumFrom 0 (s1.vatReadBytes g.core (a + size * x.1) size)).map (fun b =>
          ({ addr := x.2.1 + b.1, val := b.2, dur := x.2.2 } : ByteWrite)))
      let bad := (enumFrom 0 els).filterMap (fun x => if s1.vatPoisoned g.core (a + size * x.1) then some x.2.1 else none)
      let s2 := bad.foldl (fun (s : State) p => (s.poisonFor g.ctx (p / 128 * 2)).poisonFor g.ctx (p / 128 * 2 + 1)) (s1.writePhys g.id ws)
      some (s.eager ((setStream s2 core e { s2.streamAt core e with cons := st.cons + 1 }).postBytes g r.sync r.slotBytes))

def execDrainSlotReturn (e : EvCoreIdx) (s : State) : Host.Outcome State Fault Refusal := happens s (s.drainSlot e.core e.idx)

/-- STREAM_LAST_ELEMENT (05 R114): IDLE, and every STRGO completes. -/
def execStreamLastElement (e : EvCoreIdx) (s : State) : Host.Outcome State Fault Refusal :=
  let st := s.streamAt e.core e.idx
  happens s (if st.state = .run ∧ st.record.totalSlots ≤ (if st.record.drain then st.cons else st.prod) then
    some (s.haltStream e.core e.idx) else none)

/-! ## Collective commands (05 R122, R123) -/

/-- A step of a reducing kind: RNE in the element type, integers wrap. -/
def collStep (op : RedOp) (ty : Ty) (a b : Nat) : Nat :=
  match ty with
  | .f32 | .f16 | .bf16 => fop2 (RedOp.toFloat op) (fmtOf ty) .rne false a b
  | _ => deliver ty false (intOp (RedOp.toInt op) ty (BitVec.ofNat 64 a) (BitVec.ofNat 64 b))

/-- Element `i` of a source. -/
def elemOf (size : Nat) (src : List Byte) (i : Nat) : Nat := leNat ((src.drop (i * size)).take size)

/-- F(i) over the members' sources in order. -/
def collFold (op : RedOp) (ty : Ty) (size i : Nat) : List (List Byte) → Nat
  | [] => 0
  | s0 :: rest => rest.foldl (fun a x => collStep op ty a (elemOf size x i)) (elemOf size s0 i)

/-- The destination bytes of member `r`. -/
def collBytes (w : CollWait) (size r : Nat) (srcs : List (List Byte)) : List Byte :=
  let at_ := fun (i : Nat) => leBytes size (collFold w.op w.ty size i srcs)
  match w.kind with
  | .allreduce => (List.range w.n).flatMap at_
  | .redscat => (List.range (w.n / srcs.length)).flatMap (fun j => at_ (r * (w.n / srcs.length) + j))
  | .allgather => srcs.flatMap (fun x => x.take (w.n * size))
  | .bcast => (srcs.getD w.root []).take (w.n * size)

/-- The source elements that destination element `i` of member `r` is made from: member and index (05 R123). -/
def collFrom (w : CollWait) (p r i : Nat) : List (Nat × Nat) :=
  match w.kind with
  | .allreduce => (List.range p).map (fun q => (q, i))
  | .redscat => (List.range p).map (fun q => (q, r * (w.n / p) + i))
  | .allgather => [(i / w.n, i % w.n)]
  | .bcast => [(w.root, i)]

/-- The owned lines with their values; a line with a value from a poisoned source is bad; the engine stops between steps of 1 MiB (R103). -/
def collLines (dst : List (Nat × Bool)) (bytes : List Byte) (bad : Nat → Bool) : List CmdLine :=
  let all := enumFrom 0 (dst.zip bytes)
  ((all.map (fun x => x.2.1.1 / 128)).eraseDups).map (fun l =>
    let mine := all.filter (fun x => x.2.1.1 / 128 == l)
    { line := .phys l, moves := [], vals := mine.map (fun x => (x.2.1.1 % 128, x.2.2)), bad := mine.any (fun x => bad x.1)
      dur := mine.any (fun x => x.2.1.2), chunk := (mine.map (fun x => x.1)).headD 0 / 2 ^ 20 })

/-- The members' commands are one command. -/
def agrees (p : PeerCommand) (w : CollWait) : Bool :=
  p.coll && decide (p.kind = w.kind) && decide (p.op = w.op) && decide (p.ty = w.ty) && decide (p.n = w.n) && decide (p.root = w.root)

/-- A waiting arrival is taken away; a seal's CPC falls. -/
def State.dropArrival (s : State) (w : CollWait) : State :=
  let s1 : State := { s with collWaits := s.collWaits.erase w }
  match w.isSeal, s.group? w.gang w.slot with
  | some _, some x => s1.modCpcs w.gang x.gid.toNat (· - 1)
  | _, _ => s1

/-- The trail's split that stands at the lead's instruction. -/
def State.twinFocus (s : State) (w : CollWait) : Option Focus :=
  match (s.gang? w.gang).bind (fun g => s.twin g) with
  | none => none
  | some t =>
    match s.group? t.id w.slot with
    | none => none
    | some x => (x.liveSplits.find? (fun y => decide (y.2.pc = w.pc) && decide (y.2.lanes = w.lanes))).map (fun y =>
        { gang := t.id, group := w.slot, split := y.1 })

/-- Trap 0x03 at a waiting command, in both copies of a pair (05 R122). -/
def State.collTrap (s : State) (w : CollWait) : State :=
  let fs : List Focus := { gang := w.gang, group := w.slot, split := w.split } :: (s.twinFocus w).toList
  fs.foldl (fun (s : State) f =>
    let s1 := (s.modSplit f (fun sp => { sp with status := .ready })).modPair f.gang (fun p =>
      { p with granted := dropKey (pairKey w.slot w.lanes) p.granted })
    raiseTrap s1 f (s.instrAt f).bytes w.lanes { cause := 0x03, sub := 0, kind := 0, lanes := w.lanes, addr := 0, info := 0 })
    (s.dropArrival w)

/-- A waiting split leaves its command behind; a pair's effect is logged. -/
def State.leaveColl (s : State) (w : CollWait) (vals : List Word) : State :=
  let f : Focus := { gang := w.gang, group := w.slot, split := w.split }
  let key := pairKey w.slot w.lanes
  let s1 := match (s.gang? w.gang).bind (fun g => g.pair) with
    | some p => match p.granted.find? (fun (e : Nat × W32) => e.1 == key) with
      | some e => s.logEffect w.gang p.other key e.2 vals
      | none => s
    | none => s
  advance (s1.modSplit f (fun sp => { sp with status := .ready })) f 12

/-- A CKSEAL completes: up[D], CPC (18 R335). -/
def State.endSeal (s : State) (x : Seal) (sealed : Bool) : State :=
  let w := x.wait
  let s1 : State := { s with seals := s.seals.erase x }
  match w.isSeal, s1.gang? w.gang, s1.group? w.gang w.slot with
  | some up, some g, some y =>
    let at_ := fun (i : Nat) => ({ gang := w.gang, group := w.slot, split := i } : Focus)
    let fs := if w.split = 4 then [at_ 4] else
      (y.liveSplits.filter (fun z => decide (z.2.lanes &&& w.lanes ≠ 0))).map (fun z => at_ z.1)
    let s2 := fs.foldl (fun (s : State) f => s.writeU f (.up up sealed)) s1
    let s3 := if g.pair.isSome then s2.leaveColl w [BitVec.ofNat 64 (bit sealed)]
      else s2.modGroup w.gang w.slot (fun z => { z with predWait := z.predWait.eraseP (fun p => p.1 == up.val) })
    s3.modCpcs w.gang y.gid.toNat (· - 1)
  | _, _, _ => s1

/-- COLL_RENDEZVOUS: the peers' commands have arrived; it runs once CPC has room (R101), or every member traps. -/
def State.rendezvous (s : State) (e : EvRendezvous) : Option State :=
  match s.collWaits.find? (fun w => w.group == e.group) with
  | none => none
  | some w =>
    match s.gang? w.gang, s.group? w.gang w.slot, s.collGroups.find? (fun g => g.id == e.group) with
    | some g, some x, some cg =>
      let p := cg.chips.length
      let size := accSize w.ty
      if e.peers.length + 1 ≠ p ∨ (w.isSeal.isNone ∧ 63 ≤ x.cpc) then none
      else if w.isSeal.isSome ∧ e.peers.all (fun y => !y.coll) then none
      else if w.isSeal.isSome ∨ e.peers.any (fun y => !agrees y w) then some (s.collTrap w)
      else
        let lenOk := (enumFrom 0 e.peers).all (fun y =>
          let q := if y.1 < cg.me then y.1 else y.1 + 1
          decide (y.2.src.length = (if w.kind = .bcast ∧ q ≠ w.root then 0 else w.n * size)))
        let lines := linesOf w.src
        if !lenOk || lines.any (fun l => s.physBusy l false) then none
        else
          let s1 := s.reachAll lines false
          let mine := w.src.map (fun a => s1.mem.read a)
          let srcs := (e.peers.take cg.me).map (fun y => y.src) ++ [mine] ++ (e.peers.drop cg.me).map (fun y => y.src)
          let own := (enumFrom 0 w.src).filterMap (fun y => if s1.badAt (.phys y.2) then some y.1 else none)
          let marks := (e.peers.take cg.me).map (fun y => y.bad) ++ [own] ++ (e.peers.drop cg.me).map (fun y => y.bad)
          let bad := fun (b : Nat) => (collFrom w p cg.me (b / size)).any (fun y =>
            (List.range size).any (fun k => (marks.getD y.1 []).contains (y.2 * size + k)))
          let ls := collLines w.dst (collBytes w size cg.me srcs) bad
          some ((({ s1 with collWaits := s1.collWaits.erase w } : State).beginCommand g x.gid.toNat (.coll w.group) ls [] none).leaveColl w [])
    | _, _, _ => none

def execCollRendezvous (e : EvRendezvous) (s : State) : Host.Outcome State Fault Refusal := happens s (s.rendezvous e)

/-! ## Sync words and the stash (07 R147, R151) -/

/-- SYNC_WORD_ARRIVAL: bytes for a block that its gang has left go through a forwarding entry, or are discarded (07 R151; 15 R288). -/
def execSyncWordArrival (e : EvIdx) (s : State) : Host.Outcome State Fault Refusal :=
  happens s (match s.arrivals[e.idx]? with
    | none => none
    | some a =>
      let s1 : State := { s with arrivals := s.arrivals.eraseIdx e.idx }
      match s.gang? a.gang with
      | none => some s1
      | some g =>
        if g.core = a.core ∧ g.base = a.base then
          if s.pinned a.core (a.addr / 128) then none else some (s1.syncArrive a.core a.addr a.bytes)
        else if s.forwards.any (fun f => f.gang == a.gang && f.oldCore == a.core && f.oldBase == a.base) then none
        else some s1)

/-- The dirty lines of a core. -/
def CoreRec.dirty (c : CoreRec) : List (StashUnit × Nat) :=
  c.stash.flatMap (fun u => (u.lines.filter (fun x => x.2)).map (fun x => (u, x.1)))

/-- STASH_WRITEBACK: a dirty line is written back in the background; an owner's write and a pin come first (07 R147). -/
def execStashWriteback (e : EvCoreIdx) (s : State) : Host.Outcome State Fault Refusal :=
  happens s (match (s.core? e.core).dirty[e.idx]? with
    | none => none
    | some (u, i) =>
      let line := u.vat / 128 + i
      if s.physBusy (u.phys / 128 + i) true || s.vatOwned e.core line || s.pinned e.core line then none
      else some (s.eager ((s.writeBack e.core u i).setStashLine e.core u.vat i (some false))))

end Sys2Proof.Machine
end

