-- ==== Sys2Proof/Machine/PressEvents.lean ====
section
/-! DEFINITION. Events of the press: a tile operation's start and what it does when it completes (11 R209, R215-R220; 12 R229-R232), the release of a reservation (11 R211), SHARED mode (R212; 15 R291). -/

namespace Sys2Proof.Machine

/-! ## What an operation touches, and its duration (11 R209, R216-R218; 12 R230-R233; 15 R291) -/

/-- `n` numbers from `a` up. -/
def span (a n : Nat) : List Nat := (List.range n).map (fun i => a + i)

def TileKind.moulds : TileKind → List Nat
  | .mldb m .. => [m]
  | .mmul _ first nm .. => span first nm
  | .mldbs first _ _ _ h => span first h.slices
  | .mmuls _ first _ _ _ _ h _ => span first h.slices
  | _ => []

def TileKind.accs : TileKind → List Nat
  | .mmul a .. | .mamovOut a .. | .mamovIn a .. | .mzero a | .mmuls a .. => [a]
  | _ => []

/-- Core clocks from start to completion. -/
def TileKind.clocks : TileKind → Nat
  | .mldb _ w _ _ => 64 * w + 16
  | .mmul _ _ nm nr w _ _ => nr * w + 13 + nm
  | .mamovOut _ nr _ | .mamovIn _ nr _ => nr + 16
  | .mzero _ => 4
  | .prune _ _ _ _ k cols .. => 2 * k * cols / 256 + 32
  | .mldbs _ w _ _ h => h.slices * (64 * w + 16)
  | .mmuls _ _ _ w _ _ h _ => 32 * w * h.slices + 14

/-- Two operations touch the same mould or accumulator. -/
def TileKind.meets (a b : TileKind) : Bool := a.moulds.any (fun x => b.moulds.contains x) || a.accs.any (fun x => b.accs.contains x)

/-! ## Starting (11 R209, R212; 15 R291) -/

/-- The heads of the press queues on a press, each with the gang and the group. -/
def State.pressHeads (s : State) (press : Nat) : List (Gang × Group × TileOp) :=
  (s.gangs.filter (fun g => g.press == press)).flatMap (fun g => g.groups.filterMap (fun x => x.tiles.head?.map (fun t => (g, x, t))))

/-- The place of a group among those resident on the cluster. -/
def pressKeyOf (g : Gang) (x : Group) : Nat := vatKey g.core (g.window x.slot)

/-- A waiting head that may start: its gang runs, and no operation that entered earlier touches what it touches. -/
def State.headReady (h : Gang × Group × TileOp) : Bool :=
  decide (h.1.run = .running) && !h.2.2.started &&
  !(h.1.tileOps.any (fun t => decide (t.order < h.2.2.order) && t.kind.meets h.2.2.kind))

def Press.creditOf (p : Press) (gang group : Nat) : Nat :=
  ((p.credit.find? (fun c => c.1 == gang && c.2.1 == group)).map (fun c => c.2.2)).getD 0

def Press.setCredit (p : Press) (gang group n : Nat) : Press :=
  { p with credit := (gang, group, n) :: p.credit.filter (fun c => !(c.1 == gang && c.2.1 == group)) }

/-- The head of lowest place in a list. -/
def firstHead : List (Gang × Group × TileOp) → Option (Gang × Group × TileOp)
  | [] => none
  | h :: hs => some (hs.foldl (fun b y => if pressKeyOf y.1 y.2.1 < pressKeyOf b.1 b.2.1 then y else b) h)

/-- Whose turn it is: the next group in round-robin order that has a head to start. -/
def State.pressTurn (s : State) (press : Nat) : Option (Gang × Group × TileOp) :=
  let hs := (s.pressHeads press).filter State.headReady
  match firstHead (hs.filter (fun h => decide ((s.press? press).turn ≤ pressKeyOf h.1 h.2.1))) with
  | some h => some h
  | none => firstHead hs

/-- The queue that has waited for 16,384 clocks, of lowest place. -/
def State.agedHead (s : State) (press : Nat) : Option (Gang × Group × TileOp) :=
  firstHead ((s.pressHeads press).filter (fun h => State.headReady h && decide (16384 ≤ (s.press? press).creditOf h.1.id h.2.1.slot)))

/-- An operation runs on the press: one of a stopped gang does not (12 R235). -/
def State.pressBusy (s : State) (press : Nat) : Bool := (s.pressHeads press).any (fun h => h.2.2.started && h.1.moves)

/-- The press swaps reservations and serves the queues by turns: in SHARED mode, and after it while more units are held than there are (11
R212). -/
def Press.byTurns (p : Press) : Bool := p.shared || decide (32 < p.usedMoulds) || decide (8 < p.usedAccs)

/-- The head starts; where the press serves by turns, the turn moves on, and in SHARED mode the other queues with a head waiting gain its
duration (15 R291). -/
def State.startTile (s : State) (h : Gang × Group × TileOp) (aged : Bool) : State :=
  let press := h.1.press
  let s1 := s.modGroup h.1.id h.2.1.slot (fun x => { x with tiles := match x.tiles with
    | t :: rest => { t with started := true } :: rest
    | [] => [] })
  let others := (s.pressHeads press).filter (fun y => !(y.1.id == h.1.id && y.2.1.slot == h.2.1.slot))
  if !(s.press? press).byTurns then s1
  else
    s1.modPress press (fun p =>
      let p1 := if !p.shared then p else others.foldl (fun (p : Press) y => p.setCredit y.1.id y.2.1.slot (p.creditOf y.1.id y.2.1.slot + h.2.2.kind.clocks)) p
      if aged then p1.setCredit h.1.id h.2.1.slot 0 else { p1 with turn := pressKeyOf h.1 h.2.1 + 1 })

/-- TILE_OPERATION_START. -/
def execTileOperationStart (e : EvGroup) (s : State) : Host.Outcome State Fault Refusal :=
  happens s (match s.gang? e.gang, s.group? e.gang e.group with
    | some g, some x =>
      match x.tiles.head? with
      | none => none
      | some t =>
        if !State.headReady (g, x, t) then none
        else if !(s.press? g.press).byTurns then some (s.startTile (g, x, t) false)
        else if s.pressBusy g.press ∨ ((s.press? g.press).shared ∧ (s.agedHead g.press).isSome) then none
        else
          match s.pressTurn g.press with
          | some (a, b, _) => if a.id = e.gang ∧ b.slot = e.group then some (s.startTile (g, x, t) false) else none
          | none => none
    | _, _ => none)

/-- SHARED_AGEING_SERVE: a queue is served out of turn, and its credit returns to 0. -/
def execSharedAgeingServe (e : EvPress) (s : State) : Host.Outcome State Fault Refusal :=
  happens s (if !(s.press? e.press).shared ∨ s.pressBusy e.press then none
    else (s.agedHead e.press).map (fun h => s.startTile h true))

/-! ## Data in the vat -/

/-- The memory that holds these bytes from address 0. -/
def Memory.ofBytes (bs : List Byte) : Memory := { cells := (enumFrom 0 bs).filter (fun c => decide (c.2 ≠ Memory.unlisted)) }

/-- Element (i, n) of an accumulator, and an accumulator given by its elements. -/
def Acc.elem (a : Acc) (i n : Nat) : Nat := a.vals.readLE (1024 * i + 4 * n) 4
def accValues (f : Nat → Nat → Nat) : Memory :=
  Memory.ofBytes ((List.range 32).flatMap (fun i => (List.range 256).flatMap (fun n => leBytes 4 (f i n))))

/-- The `n` mantissas of a string in the vat. -/
def State.mants (s : State) (core a n w : Nat) : List Int :=
  let bits := s.vatReadLE core a (n * w / 8)
  (List.range n).map (mantAt w bits)

/-- Byte `j` of the block exponents. -/
def State.exps (s : State) (core a j : Nat) : Nat := s.vatReadLE core (a + j) 1

/-- A vat region written line by line; poisoned where `bad` says so. -/
def State.writeRegion (s : State) (core base : Nat) (bs : List Byte) (bad : Nat → Bool) : State :=
  (List.range ((bs.length + 127) / 128)).foldl (fun (s : State) i =>
    let s1 := s.stashWrite core (base + 128 * i) ((bs.drop (128 * i)).take 128)
    if bad i then s1.poisonVat core (base + 128 * i) else s1) s

/-! ## Loads and multiplies (11 R216, R217; 12 R231, R232) -/

/-- A mould loaded from column strings of 256 elements (R216). -/
def State.loadMould (s : State) (core mant w : Nat) (scale : Nat → Nat) (tag : MouldTag) (bad : Bool) : Mould :=
  let cols := (List.range 256).map (fun n => s.mants core (mant + n * (32 * w)) 256 w)
  { cells := Memory.ofBytes ((List.range 256).flatMap (fun k => cols.map (fun c => BitVec.ofInt 8 (c.getD k 0))))
    scales := Memory.ofBytes ((List.range 256).map (fun n => BitVec.ofNat 8 (scale n))), wB := w, tag := tag, bad := bad }

/-- Cell b_k,n and scale Eb_n of a mould. -/
def Mould.cell (m : Mould) (k n : Nat) : Int := (m.cells.read (256 * k + n)).toInt
def Mould.scale (m : Mould) (n : Nat) : Nat := (m.scales.read n).toNat

/-- The mantissas of column `n`. -/
def Mould.column (m : Mould) (n : Nat) : List Int := (List.range 256).map (fun k => m.cell k n)

/-- One slice of MMUL: the mantissas and the block exponents of each row, the columns of its mould, and the mould. -/
structure DenseSlice where
  rows : List (List Int × List Nat)
  cols : List (List Int)
  mould : Mould

/-- The slices of MMUL in increasing K; a row of a dead lane has exponents 0. -/
def State.mmulSlices (s : State) (core src nm nr w : Nat) (dead : LaneMask) (ms : List Mould) : List DenseSlice :=
  (enumFrom 0 ms).map (fun y =>
    { rows := (List.range nr).map (fun i => (s.mants core (src + (y.1 * nr + i) * (32 * w)) 256 w, (List.range 8).map (fun j =>
        if dead.getLsbD i then 0 else s.exps core (src + nm * nr * (32 * w) + (y.1 * nr + i) * 8) j)))
      cols := (List.range 256).map y.2.column, mould := y.2 })

/-- One element of MMUL: RNE after each slice. -/
def mmulElem (w : Nat) (zs : List DenseSlice) (i n old : Nat) : Nat :=
  zs.foldl (fun a z =>
    let row := z.rows.getD i ([], [])
    f32Add a (pressContribution w z.mould.wB row.1 row.2 (z.cols.getD n []) (z.mould.scale n))) old

/-- The row of the tile that packed row `p` of column `n` stands for (12 R232). -/
def SparseHdr.rowOf (h : SparseHdr) (at_ : Nat → Nat) (p n : Nat) : Nat :=
  p / h.n * h.m + h.index at_ ((n * h.groups + p / h.n) * h.n + p % h.n)

/-- One slice of MMULS: the blocks of 32 rows of the tile it takes part in, for each column the rows of the tile with the packed mantissas
that stand for them, and the mould. -/
structure SparseSlice where
  blocks : List Nat
  cols : List (List (Nat × Int))
  mould : Mould

/-- The slices of MMULS. -/
def State.mmulsSlices (s : State) (core hdr : Nat) (h : SparseHdr) (ms : List Mould) : List SparseSlice :=
  let at_ := metaByte s core hdr
  (enumFrom 0 ms).map (fun y =>
    let q := (List.range 256).filter (fun r => decide (256 * y.1 + r < h.prows))
    let last := min (256 * y.1 + 255) (h.prows - 1)
    let lo := 256 * y.1 / h.n * h.m / 32
    let hi := (last / h.n * h.m + h.m - 1) / 32
    { blocks := span lo (hi + 1 - lo)
      cols := (List.range h.cols).map (fun n => q.map (fun r => (h.rowOf at_ (256 * y.1 + r) n, y.2.cell r n))), mould := y.2 })

/-- The mantissas and the block exponents of each row of MMULS's dense tile; a row of a dead lane has exponents 0. -/
def State.mmulsRows (s : State) (core src nr w k : Nat) (dead : LaneMask) : List (List Int × List Nat) :=
  (List.range nr).map (fun i => (s.mants core (src + i * (k * w / 8)) k w, (List.range (k / 32)).map (fun j =>
    if dead.getLsbD i then 0 else s.exps core (src + nr * (k * w / 8) + i * (k / 32)) j)))

/-- One element of MMULS. -/
def mmulsElem (w cols : Nat) (rows : List (List Int × List Nat)) (zs : List SparseSlice) (i n old : Nat) : Nat :=
  let row := rows.getD i ([], [])
  zs.foldl (fun a z =>
    if cols ≤ n then f32Add a 0
    else
      let terms := z.cols.getD n []
      let blocks := z.blocks.map (fun j =>
        ((terms.filter (fun t => t.1 / 32 == j)).foldl (fun (x : Int) t => x + row.1.getD t.1 0 * t.2) 0, row.2.getD j 0))
      f32Add a (blockContribution w z.mould.wB blocks (z.mould.scale n))) old

/-! ## PRUNE (12 R229, R230) -/

/-- The dense tile: mantissa m_k,n and scale Eb_n. -/
structure DenseTile where
  mant : Nat → Nat → Int
  scale : Nat → Nat

/-- Rows of a group that column `n` keeps: the N largest magnitudes, lower rows first on ties, ascending. -/
def DenseTile.kept (t : DenseTile) (h : SparseHdr) (n g : Nat) : List Nat :=
  let mag := fun (r : Nat) => (t.mant (g * h.m + r) n).natAbs
  (List.range h.m).filter (fun r =>
    decide (((List.range h.m).filter (fun x => decide (mag r < mag x) || (decide (mag x = mag r) && decide (x < r)))).length < h.n))

/-- mag(k, n), exact. -/
def DenseTile.mag (t : DenseTile) (k n : Nat) : Nat := if t.scale n = 0 then 0 else (t.mant k n).natAbs * 2 ^ t.scale n

/-- Insertion by decreasing key, behind equals. -/
def insertDown (key : Nat → Nat) (x : Nat) : List Nat → List Nat
  | [] => [x]
  | y :: ys => if key y < key x then x :: y :: ys else y :: insertDown key x ys

/-- Positions of a block kept one by one while their row and column have room. -/
def keepRoom (m n : Nat) : List Nat → List Nat → List Nat
  | kept, [] => kept
  | kept, p :: ps =>
    if (kept.filter (fun q => q / m == p / m)).length < n ∧ (kept.filter (fun q => q % m == p % m)).length < n then
      keepRoom m n (kept ++ [p]) ps
    else keepRoom m n kept ps

/-- The pattern of the block at (k0, n0). -/
def DenseTile.block (t : DenseTile) (h : SparseHdr) (k0 n0 : Nat) : List Nat :=
  let mag := fun (p : Nat) => t.mag (k0 + p / h.m) (n0 + p % h.m)
  let all := List.range (h.m * h.m)
  let sorted := (all.filter (fun p => decide (mag p ≠ 0))).foldl (fun ps p => insertDown mag p ps) []
  let first := keepRoom h.m h.n [] sorted
  keepRoom h.m h.n first (all.filter (fun p => !first.contains p))

/-- Every row and every column of a block holds N. -/
def blockFull (h : SparseHdr) (ps : List Nat) : Bool := decide (ps.length = h.m * h.n)

/-- The metadata body, whether every block is complete, and the packed tile. -/
def pruneBody (t : DenseTile) (h : SparseHdr) (tp : Bool) : List Byte × Bool :=
  let idx := (List.range h.cols).flatMap (fun n => (List.range h.groups).flatMap (fun g => t.kept h n g))
  let ibits := (enumFrom 0 idx).foldl (fun (z : Nat) y => z + y.2 * 2 ^ (y.1 * h.indexBits)) 0
  let blocks := if tp then h.blocks.map (fun b => (b, t.block h b.1 b.2)) else []
  let pbits := blocks.foldl (fun (z : Nat) b => b.2.foldl (fun z p =>
    z + 2 ^ ((b.1.1 + p / h.m) * h.cols + b.1.2 + p % h.m)) z) 0
  (leBytes h.ib ibits ++ leBytes h.pb pbits, blocks.all (fun b => blockFull h b.2))

/-- The packed tile in MLDBS's layout. -/
def prunePacked (t : DenseTile) (h : SparseHdr) (w : Nat) : List Byte :=
  (List.range h.slices).flatMap (fun z => (List.range 256).flatMap (fun n =>
    leBytes (32 * w) ((List.range 256).foldl (fun (a : Nat) r =>
      let p := 256 * z + r
      if h.cols ≤ n ∨ h.prows ≤ p then a
      else a + wrapInt w (t.mant (p / h.n * h.m + (t.kept h n (p / h.n)).getD (p % h.n) 0) n) * 2 ^ (w * r)) 0)))

/-! ## Completing -/

/-- Any line of the pinned sources is poisoned. -/
def State.tileBad (s : State) (core : Nat) (t : TileOp) : Bool := t.pins.any (fun l => s.vatPoisoned core (128 * l))

/-- A destination line cannot be written yet. -/
def State.destHeld (s : State) (core line order : Nat) : Bool :=
  s.ownedBefore (.vat core line) order || (s.tilesOn core).any (fun t => decide (t.order ≠ order) && t.pins.contains line) ||
  s.spawnPins core line ||
  (match s.stashGlobal core line true with
   | some g => s.ownedBefore (.phys g) order || s.copyHolds g order true
   | none => false)

/-- Rows 0 to nr - 1. -/
def rowMask (nr : Nat) : LaneMask := maskWhere (fun l => decide (l < nr))

/-- An accumulator's rows 0 to nr - 1 written; they are poisoned where a source was, or stayed so. -/
def State.putAcc (s : State) (g : Gang) (d nr : Nat) (f : Acc → Nat → Nat → Nat) (poison : LaneMask → LaneMask) : State :=
  s.modReservation g (fun r => match r.accs[d]? with
    | none => r
    | some a =>
      let b : Acc := { vals := accValues (fun i n => if i < nr then f a i n else a.elem i n), poison := poison a.poison }
      { r with accs := r.accs.set d b })

/-- Moulds first to first + n - 1 of the gang. -/
def State.mouldsOf (s : State) (g : Gang) (first n : Nat) : List Mould :=
  match s.reservation? g with
  | none => []
  | some r => (r.moulds.drop first).take n

def State.putMould (s : State) (g : Gang) (d : Nat) (m : Mould) : State :=
  s.modReservation g (fun r => { r with moulds := r.moulds.set d m })

/-- The accumulator of the gang. -/
def State.accOf (s : State) (g : Gang) (d : Nat) : Acc :=
  match s.reservation? g with
  | none => Acc.fresh
  | some r => r.accs.getD d Acc.fresh

/-- A mould keeps the tag it has, which it took when its newest operation entered the press. -/
def State.tagOf (s : State) (g : Gang) (d : Nat) : MouldTag := ((s.mouldsOf g d 1).head?.map (fun m => m.tag)).getD .dense

/-- What the operation does. -/
def State.runTile (s : State) (g : Gang) (slot : Nat) (t : TileOp) : State :=
  let core := g.core
  let bad := s.tileBad core t
  let taint := fun (nr : Nat) (b : Bool) (m : LaneMask) => if b then m ||| rowMask nr else m
  match t.kind with
  | .mldb d w mant scales => s.putMould g d (s.loadMould core mant w (s.exps core scales) (s.tagOf g d) bad)
  | .mmul d first nm nr w src dead =>
    let ms := s.mouldsOf g first nm
    let zs := s.mmulSlices core src nm nr w dead ms
    s.putAcc g d nr (fun a i n => mmulElem w zs i n (a.elem i n)) (taint nr (bad || ms.any (fun m => m.bad)))
  | .mamovOut d nr dst =>
    let a := s.accOf g d
    s.writeRegion core dst (a.vals.readBytes 0 (1024 * nr)) (fun i => a.poison.getLsbD (i / 8))
  | .mamovIn d nr src =>
    s.putAcc g d nr (fun _ i n => s.vatReadLE core (src + 1024 * i + 4 * n) 4)
      (fun m => if bad then m ||| rowMask nr else m &&& ~~~ rowMask nr)
  | .mzero d => s.putAcc g d 32 (fun _ _ _ => 0) (fun _ => 0)
  | .prune up w n m k cols tp idx4 src packed hdr _ =>
    let h0 : SparseHdr := { n := n, m := m, k := k, cols := cols, wb := w, flags := bit tp + 4 * bit idx4, prows := k * n / m, crc := 0 }
    let strings := (List.range cols).map (fun b => s.mants core (src + b * (k * w / 8)) k w)
    let tile : DenseTile :=
      { mant := fun a b => (strings.getD b []).getD a 0, scale := s.exps core (src + cols * (k * w / 8)) }
    let (body, full) := pruneBody tile h0 tp
    let h : SparseHdr := { h0 with flags := h0.flags + 2 * bit (tp && full), crc := (crc32c body).toNat }
    let s1 := (s.writeRegion core packed (prunePacked tile h w) (fun _ => bad)).writeRegion core hdr (h.bytes ++ body) (fun _ => bad)
    s1.modGroup g.id slot (fun x => { (x.putEntry (.up (Fin.ofNat 4 up) (tp && !full))) with predWait := x.predWait.eraseP (fun y => y.1 == up) })
  | .mldbs first w mant scales h =>
    (List.range h.slices).foldl (fun (s1 : State) i =>
      s1.putMould g (first + i) (s.loadMould core (mant + i * 8192 * w) w (fun n => if n < h.cols then s.exps core scales n else 0)
        (s.tagOf g (first + i)) bad)) s
  | .mmuls d first nr w src hdr h dead =>
    let ms := s.mouldsOf g first h.slices
    let zs := s.mmulsSlices core hdr h ms
    let rows := s.mmulsRows core src nr w h.k dead
    s.putAcc g d nr (fun a i n => mmulsElem w h.cols rows zs i n (a.elem i n)) (taint nr (bad || ms.any (fun m => m.bad)))

/-- The completed operation leaves the queue; its batch counts it. -/
def Group.finishTile (x : Group) : Group :=
  match x.tiles with
  | [] => x
  | t :: rest =>
    let x1 := { x with tiles := rest }
    if t.fenced then
      ({ x1 with batches := match x1.batches.find? (fun b => decide (0 < b.left)) with
          | some b => replaceFirst (fun y => decide (0 < y.left)) ({ b with left := b.left - 1 } : Batch) x1.batches
          | none => x1.batches } : Group).closeBatches 17
    else x1

/-- TILE_OPERATION_COMPLETE. -/
def execTileOperationComplete (e : EvGroup) (s : State) : Host.Outcome State Fault Refusal :=
  happens s (match s.gang? e.gang, s.group? e.gang e.group with
    | some g, some x =>
      match x.tiles.head? with
      | none => none
      | some t =>
        if !t.started ∨ !g.moves ∨ t.owned.any (fun l => s.destHeld g.core l t.order) then none
        else some ((s.runTile g e.group t).modGroup e.gang e.group Group.finishTile)
    | _, _ => none)

/-! ## Reservations and modes (11 R211, R212) -/

/-- RESERVATION_RELEASE: the release is over. -/
def execReservationRelease (e : EvGang) (s : State) : Host.Outcome State Fault Refusal :=
  happens s (match s.gang? e.gang with
    | none => none
    | some g =>
      match s.reservation? g with
      | none => none
      | some r => if r.releasing && g.tileOps.isEmpty then some (s.endRelease g) else none)

/-- PRESS_MODE_SWITCH: every reservation stays. -/
def execPressModeSwitch (e : EvPressMode) (s : State) : Host.Outcome State Fault Refusal :=
  happens s (if e.press < s.presses.length then some (s.modPress e.press (fun p => { p with shared := e.shared, credit := [] })) else none)

end Sys2Proof.Machine
end

