-- ==== Sys2Proof/Machine/SplitEvents.lean ====
section
/-! DEFINITION. Events of the splits of a group: merges at matching PCs and at reconvergence points (13 R240), and membership instructions that complete because a lane has gone (10 R197). -/

namespace Sys2Proof.Machine

/-- A status in which a split can stand at a reconvergence point. -/
def Status.mayJoin : Status → Bool
  | .ready | .stalled _ _ | .waiting .reconv => true
  | .waiting _ => false

/-! ## Matching PCs (13 R240) -/

/-- SPLIT_MERGE: the merged split takes the lowest slot. -/
def execSplitMerge (e : EvGroupIdx) (s : State) : Host.Outcome State Fault Refusal :=
  happens s (
    let js := s.mergePartners e.gang e.group e.idx
    if js.isEmpty then none
    else
      let is := sortSlots (e.idx :: js)
      some (s.mergeAt e.gang e.group (is.headD e.idx) is.tail .ready))

/-! ## Reconvergence points (13 R240) -/

/-- The wait is over: the top entry is popped once. -/
def Split.passJoin (sp : Split) : Split := { sp with stack := sp.stack.drop 1, joined := true, status := .ready }

/-- RECONVERGENCE: the splits that stand at the point merge; while others are to come the merged split waits. -/
def State.reconverge (s : State) (gang slot i : Nat) : Option State :=
  match s.gang? gang, s.group? gang slot with
  | some g, some x =>
    match x.split? i with
    | none => none
    | some sp =>
      if !sp.atJoin || !sp.status.mayJoin || !g.lives slot i || x.serial.any (fun k => k.val ≠ i) then none
      else
        let (same, toCome) := x.joining i
        let js := same.filter (fun j => g.lives slot j)
        let is := sortSlots (i :: js)
        let lo := is.headD i
        if toCome then
          if js.isEmpty ∧ sp.status = .waiting .reconv then none
          else some ((s.mergeAt gang slot lo is.tail (.waiting .reconv)).deadlockCheck gang slot)
        else
          let s1 := s.mergeAt gang slot lo is.tail .ready
          some ((s1.modSplit { gang := gang, group := slot, split := lo } Split.passJoin).modGroup gang slot Group.settle)
  | _, _ => none

/-- The same among the parts of a handler split (16 R298): the part that waits is suspended behind the others, and the first of them that is
still on its way goes on. -/
def State.reconvergeHandler (s : State) (gang : Nat) : Option State :=
  match s.gang? gang with
  | none => none
  | some g =>
    match g.handler with
    | none => none
    | some sp =>
      let same := fun (y : Split) => decide (y.stack.head? = some sp.pc)
      let here := g.handlerRest.filter (fun y => same y && decide (y.pc = sp.pc))
      if !sp.atJoin || !sp.status.mayJoin || !decide (g.run = .running) then none
      else if g.handlerRest.any (fun y => same y && decide (y.pc ≠ sp.pc)) then
        match g.handlerRest.find? (fun y => !y.atJoin) with
        | some y => some (s.modGang gang (fun g => { g with handler := some y, handlerRest := g.handlerRest.erase y ++ [sp] }))
        | none => none
      else
        let lo := lowestSplit sp here
        some (s.modGang gang (fun g =>
          { g with
            handler := some (({ lo with lanes := here.foldl (fun a y => a ||| y.lanes) sp.lanes } : Split).passJoin)
            handlerRest := g.handlerRest.filter (fun y => !(same y && decide (y.pc = sp.pc))) }))

def execReconvergence (e : EvGroupIdx) (s : State) : Host.Outcome State Fault Refusal :=
  happens s (if e.idx = 4 then s.reconvergeHandler e.gang else s.reconverge e.gang e.group e.idx)

/-! ## Membership (10 R197, R199) -/

/-- What a membership instruction does when it completes. -/
def memberEffect : Instr → Option (Iss → State → Except Stop State)
  | .vote x => some (voteEffect x)
  | .shfl x => some (shflEffect x)
  | .redux x => some (reduxEffect x)
  | .scan x => some (scanEffect x)
  | .sync _ => some syncEffect
  | _ => none

/-- The first split of a group whose membership wait can end: its slot, its instruction, its mask. -/
def Group.memberReady (x : Group) : Option (Nat × Instr × LaneMask) :=
  x.liveSplits.findSome? (fun y => match y.2.status with
    | .waiting (.member i _ _) => if x.memberDone y.2 then (memberMask x y.2).map (fun m => (y.1, i, m)) else none
    | _ => none)

/-- MEMBERSHIP_COMPLETE: the waiting splits merge, and the instruction completes once for them. -/
def State.completeMember (s : State) (gang slot : Nat) : Option State :=
  match s.gang? gang, s.group? gang slot with
  | some g, some x =>
    match x.memberReady with
    | none => none
    | some (j, i, m) =>
      match x.split? j, memberEffect i with
      | some sp, some effect =>
        let is := sortSlots (x.mates sp.pc m)
        let lo := is.headD j
        if !is.all (fun k => g.lives slot k) then none
        else
          let f : Focus := { gang := gang, group := slot, split := lo }
          let s1 := s.mergeAt gang slot lo is.tail .ready
          match s1.iss? f i.bytes with
          | none => none
          | some c =>
            match effect { c with exec := m } s1 with
            | .ok s2 => some (advance s2 f i.bytes)
            | .error (.trap t) | .error (.shared t) => some (raiseTrap s1 f i.bytes m t)
            | .error (.check t) => some (raiseTrap s1 f i.bytes m { t with addr := sp.pc })
            | .error _ => none
      | _, _ => none
  | _, _ => none

def execMembershipComplete (e : EvGroup) (s : State) : Host.Outcome State Fault Refusal := happens s (s.completeMember e.gang e.group)

end Sys2Proof.Machine
end

