-- ==== Sys2Proof/Machine/DeckleEvents.lean ====
section
/-! DEFINITION. Events of the deckle: a BECOME carried out (13 R251, R252), a materialisation (R253), the completion of GSYNC (R256, R257) and of RPMARK (18 R330-R332; 24 R368). -/

namespace Sys2Proof.Machine

/-! ## BECOME (13 R250-R252) -/

/-- The lanes of a group may move: no vector destination is outstanding, nobody waits at a membership instruction. -/
def State.lanesFree (s : State) (g : Gang) (x : Group) : Bool :=
  !(x.loads.any (fun l => !l.regs.isEmpty || l.carry.isSome || !l.tile.isEmpty)) &&
  !((s.core? g.core).replay.any (fun e => e.gang == g.id && e.group == x.slot)) &&
  !(x.liveSplits.any (fun y => (memberMask x y.2).isSome))

/-- The first request of a core's deckle is carried out; one whose records no longer fit traps. Threads that move to another group leave
no store behind: the group's stores are performed first (04 R78, R79, R90). -/
def State.become (s : State) (core : Nat) : Option State :=
  match (s.core? core).deckle with
  | [] => none
  | r :: _ =>
    match s.gang? r.gang, s.group? r.gang r.group with
    | some g, some x =>
      let i := r.split.val
      match x.split? i with
      | none => some (s.modCore core (fun c => { c with deckle := c.deckle.drop 1 }))
      | some sp =>
        let n := fun (l : Nat) => ((r.counts.find? (fun c => c.1 == l)).map (fun c => c.2)).getD 0
        let f : Focus := { gang := r.gang, group := r.group, split := i }
        let s1 := s.modCore core (fun c => { c with deckle := c.deckle.drop 1 })
        if !g.moves || g.pairStopped || !s.lanesFree g x || g.outOfOrder (becomeAct r.group) then none
        else
          match s.plan g x sp r.carry n r.rpc with
          | none =>
            some (raiseTrap (s1.modSplit f (fun sp => { sp with status := .ready })) f (r.rpc - sp.pc).toNat sp.lanes
              { cause := 0x0A, sub := 0, kind := 0, lanes := sp.lanes, addr := sp.pc, info := 0 })
          | some p =>
            let ts := p.settlers x i r.carry
            let ready :=
              if ts.all (fun t => t.slot ≠ r.group) then s1.settleStores r.gang r.group
              else if ts.any (fun t => t.slot ≠ r.group) then s1.performAll r.gang r.group
              else some s1
            match ready with
            | none => none
            | some s2 => some (((s2.applyPlan r.gang r.group i r.carry r.rpc p).recordDeckle g (becomeAct r.group)).deadlockCheck r.gang r.group)
    | _, _ => some (s.modCore core (fun c => { c with deckle := c.deckle.drop 1 }))

def execDeckleBecome (e : EvCore) (s : State) : Host.Outcome State Fault Refusal := happens s (s.become e.core)

/-! ## Materialisation (13 R253, R256) -/

/-- A record of the gang can materialise, and the lanes it moves are free. -/
def State.recordReady (s : State) (g : Gang) : Bool :=
  match g.canMaterialise with
  | none => false
  | some (idx, _, inside) =>
    !inside || (match (seqGroup (g.seq.take idx).reverse).bind (fun a => g.group? a) with
      | some x => s.lanesFree g x
      | none => false)

/-- The groups that are compacted before a materialisation: the recorded ones, else, while threads wait at a barrier, all that can be. -/
def Gang.compactNow (g : Gang) : List Nat :=
  match g.nextAct with
  | some act => actSet act
  | none => g.compactable

/-- MATERIALISATION: while threads wait at a barrier, the arrived groups are compacted first (13 R256). -/
def State.nextRecord (s : State) (id : Nat) : Option State :=
  match s.gang? id with
  | none => none
  | some g =>
    let idle := decide (g.run = .running) && g.halt.isNone && !g.pairStopped && !g.outOfOrder (materialiseAct []) &&
      !((s.core? g.core).deckle.any (fun r => r.gang == id))
    let set := g.compactNow
    if !idle || g.pend.isEmpty || !set.all (fun a => g.compactable.contains a) then none
    else
      let s1 := if set.isEmpty then s else s.compactSet id set
      match s1.gang? id with
      | none => none
      | some g1 =>
        if s1.recordReady g1 then (s1.settleTail g1).map (fun s2 => (s2.materialise id).recordDeckle g (materialiseAct set)) else none

def execMaterialisation (e : EvGang) (s : State) : Host.Outcome State Fault Refusal := happens s (s.nextRecord e.gang)

/-! ## Barriers (13 R256; 18 R330) -/

/-- A trap in the split that decides, in both copies of a pair. -/
def State.trapCopies (s : State) (ids : List Nat) (cause sub kind : Nat) (addr : Word) : State :=
  ids.foldl (fun (s : State) id => s.trapFirst id { cause := cause, sub := sub, kind := kind, lanes := 0, addr := addr, info := 0 }) s

/-- The epochs close, and every group goes on behind the barrier with one split. -/
def State.passBarrier (s : State) (ids : List Nat) : State :=
  ids.foldl (fun (s : State) id => ((s.compact id).modGang id Gang.closeEpochs).leaveBarrier id) s

/-- Waiting elements are written; a kept failure is the trap. None while a line has to be waited for; `right` goes on. -/
def State.closeAppends (s : State) (id : Nat) (ids : List Nat) (after : State → Option State) : Option State :=
  match s.writeAppends id with
  | none => none
  | some s1 =>
    match (s1.gang? id).bind (fun g => g.appendFailure) with
    | some (cause, sub, va) =>
      some (((s1.modGang id Gang.clearFailures).trapCopies ids cause sub AccKind.write.code va))
    | none => after s1

/-- FENCE.ar.gang in each copy. -/
def State.fenceAll (s : State) (ids : List Nat) : Option State :=
  ids.foldl (fun o id => match o with
    | none => none
    | some s1 => s1.fenceGang id) (some s)

/-! ## RPMARK's steps (18 R330-R332) -/

/-- The pages of the area, from its first byte: the fault of each as a write, or whether it is a DUR page. -/
def State.areaPages (s : State) (w : Who) : Nat → Word → List (Word × Except (Nat × Nat) Bool)
  | 0, _ => []
  | n + 1, va =>
    (va, match s.translate w .write va with
      | .error e => .error e
      | .ok x => .ok x.dur) :: s.areaPages w n (BitVec.ofNat 64 ((va.toNat / 65536 + 1) * 65536))

/-- The first page that fails as a write, else the first with DUR = 0. -/
def areaFault (ps : List (Word × Except (Nat × Nat) Bool)) : Option (Nat × Nat × Word) :=
  match ps.findSome? (fun p => match p.2 with
    | .error e => some (e.1, e.2, p.1)
    | .ok _ => none) with
  | some e => some e
  | none => ps.findSome? (fun p => match p.2 with
    | .ok false => some (0x06, 8, p.1)
    | _ => none)

/-- The checks of R331: cause, subcause, KIND, address. -/
def State.markFault (s : State) (g : Gang) (a b : Word) : Option (Nat × Nat × Nat × Word) :=
  let held := (s.core? g.core).streams.toList.any (fun st => decide (st.state ≠ .free) && st.holder == g.id)
  let ports := g.groups.any (fun x => x.ports.toList.any (fun p => p.isSome))
  let who : Who := { ctx := g.ctx, die := some (s.part.dieOf g.core), hp := false, ezden := false }
  if a.toNat % 4096 ≠ 0 then some (0x04, 0, 0, a)
  else if b.toNat < s.footprint g then some (0x07, 2, 0, 0)
  else if held || ports then some (0x07, 6, 0, 0)
  else (areaFault (s.areaPages who ((a.toNat % 65536 + b.toNat + 65535) / 65536) a)).map (fun e => (e.1, e.2.1, AccKind.write.code, e.2.2))

/-- Counters are 0, commands and tile operations are done. -/
def State.drained (s : State) (g : Gang) : Bool :=
  s.quiet g && g.groups.all (fun x => decide (x.ldc + x.stc + x.cpc + x.tlc = 0))

/-- The bytes of a virtual range, each with its physical place; none where a page fails. -/
def State.placeWrites (s : State) (w : Who) (va : Word) (bs : List Byte) : List ByteWrite :=
  (enumFrom 0 bs).filterMap (fun b => match s.translate w .write (va + BitVec.ofNat 64 b.1) with
    | .ok x => some { addr := x.pa, val := b.2, dur := x.dur }
    | .error _ => none)

/-- Steps 3 to 7. -/
def State.writeMark (s : State) (g : Gang) (ids : List Nat) (a : Word) (pc : Word) : Option State :=
  match (s.copiesOf g).foldl (fun o x => match o with
      | none => none
      | some t => State.flushStash t x) (some s) with
  | none => none
  | some s1 =>
    match s1.gang? g.id with
    | none => none
    | some g1 =>
      let who : Who := { ctx := g.ctx, die := some (s.part.dieOf g.core), hp := false, ezden := false }
      let ws := s1.placeWrites who a (s1.areaBytes g1 pc)
      if (linesOf (ws.map (fun w => w.addr))).any (fun l => s1.physBusy l true) then none
      else
        let s2 := (s1.writePhys g.id ws).makeDurable
        some (ids.foldl (fun (s : State) id => s.modGang id (fun y =>
          { y with
            rpt := { gen := y.rpt.gen + 1, pc := pc, state := a, durpend := false, base := g.base }
            pair := y.pair.map (fun p => { p with log := [], count := 0, committed := 0, plog := false, flipped := false, gids := y.nextGid, acts := [], acted := 0 }) })) s2)

/-- RPMARK, once every copy's groups hold one arrived split. -/
def State.finishMark (s : State) (g : Gang) (ids : List Nat) (sp : Split) (a b : Word) : Option State :=
  if (g.otherMark (a, b)).isSome then
    some (ids.foldl (fun (s : State) id => match (s.gang? id).bind (fun y => y.otherMark (a, b)) with
      | some (slot, j, y) => raiseTrap s { gang := id, group := slot, split := j } 12 y.lanes
          { cause := 0x03, sub := 6, kind := 0, lanes := y.lanes, addr := 0, info := 0 }
      | none => s) s)
  else
    match s.markFault g a b with
    | some (cause, sub, kind, addr) => some (s.trapCopies ids cause sub kind addr)
    | none =>
      s.closeAppends g.id ids (fun s1 =>
        if !((s1.copiesOf g).all (fun x => s1.drained x)) then none
        else (s1.writeMark g ids a (sp.pc + 12)).map (fun s2 => s2.passBarrier ids))

/-- GSYNC_COMPLETE: every thread of the gang has arrived, in both copies of a pair, which then compact alike. A record for which there is no
room is a trap. At a GSYNC a kept failure of an element traps before anything else takes effect (04 R87). -/
def State.finishBarrier (s : State) (id : Nat) : Option State :=
  match s.gang? id with
  | none => none
  | some g =>
    let all := s.copiesOf g
    let ids := all.map (fun x => x.id)
    let here := all.all (fun x => x.allArrived && decide (x.run = .running ∨ x.run = .preempting) && x.halt.isNone)
    if s.isTrail id || g.pairStopped || !here then none
    else
      if all.any (fun x => !x.pend.isEmpty) then
        let s1 := ids.foldl State.compact s
        if (ids.filterMap (fun k => s1.gang? k)).any (fun x => x.canMaterialise.isSome) then none else some (s1.trapCopies ids 0x03 5 0 0)
      else if all.any (fun x => decide (x.compactable ≠ g.compactable)) then none
      else
        match g.firstSplit with
        | none => none
        | some (_, _, sp) =>
          match sp.mark with
          | some (a, b) =>
            let s1 := ids.foldl State.compact s
            (s1.gang? id).bind (fun g1 => s1.finishMark g1 ids ((g1.firstSplit.map (fun f => f.2.2)).getD sp) a b)
          | none => s.closeAppends id ids (fun s2 => (s2.fenceAll ids).map (fun s3 => s3.passBarrier ids))

def execGsyncComplete (e : EvGang) (s : State) : Host.Outcome State Fault Refusal := happens s (s.finishBarrier e.gang)

end Sys2Proof.Machine
end

