-- ==== Sys2Proof/Machine/Move.lean ====
section
/-! DEFINITION. A gang taken off its core and put on another, or on the same at another place (15 R286-R288; 16 R307): its allocation moves, and its vat addresses are rebased. -/

namespace Sys2Proof.Machine

/-! ## Rebasing (15 R286) -/

/-- A word that is a vat address of the old block, or a base-and-extent record in it, refers to the new block. -/
def rebaseWord (f : Nat → Nat) (w : Word) : Word := BitVec.ofNat 64 (w.toNat / 2 ^ 23 * 2 ^ 23 + f (w.toNat % 2 ^ 23) % 2 ^ 23)

/-- Register `r` of the set with number `n0`: s254 and s255 always; any other where the control block has recorded it, which the manual does
not state (log 21). -/
def rebaseReg (f : Nat → Nat) (n0 r : Nat) (w : Word) : Word :=
  if r = 254 ∨ r = 255 ∨ Config.vatRecorded (n0 + r) then rebaseWord f w else w

def ModReg.rebase (f : Nat → Nat) (m : ModReg) : ModReg := if m.len = 0 then m else { m with base := BitVec.ofNat 23 (f m.base.toNat) }

def UEntry.rebase (f : Nat → Nat) (n0 : Nat) : UEntry → UEntry
  | .s r w => .s r (rebaseReg f n0 r.val w)
  | .up r v => .up r v
  | .m r v => .m r (v.rebase f)

/-- A word of a vector register, a carried word or a saved word, likewise: a vat address lies in the low 23 bits (04 R67). -/
def rebaseLane (f : Nat → Nat) (n w : Nat) : Nat := if Config.vatRecorded n then w / 2 ^ 23 * 2 ^ 23 + f (w % 2 ^ 23) % 2 ^ 23 else w

def Split.rebase (f : Nat → Nat) (n0 : Nat) (sp : Split) : Split := { sp with shadows := sp.shadows.map (UEntry.rebase f n0) }

def TileKind.rebase (f : Nat → Nat) : TileKind → TileKind
  | .mldb m w a b => .mldb m w (f a) (f b)
  | .mmul a m n r w src d => .mmul a m n r w (f src) d
  | .mamovOut a n d => .mamovOut a n (f d)
  | .mamovIn a n src => .mamovIn a n (f src)
  | .mzero a => .mzero a
  | .prune up w n m k c tp i src pk hd ls => .prune up w n m k c tp i (f src) (f pk) (f hd) ls
  | .mldbs m w a b h => .mldbs m w (f a) (f b) h
  | .mmuls a m n w src hd h d => .mmuls a m n w (f src) (f hd) h d

/-- Lines of a vat. -/
def vatLines (f : Nat → Nat) (ls : List Nat) : List Nat := ls.map (fun l => f (128 * l) / 128)

def TileOp.rebase (f : Nat → Nat) (t : TileOp) : TileOp :=
  { t with kind := t.kind.rebase f, pins := vatLines f t.pins, owned := vatLines f t.owned }

/-- A group: its registers, its splits and parked entries, its queued tile operations. -/
def Group.rebase (f : Nat → Nat) (n0 : Nat) (x : Group) : Group :=
  let n := n0 + 2 ^ 15 * x.slot
  { x with
    s := Vector.ofFn (fun i => rebaseReg f n i.val x.s[i])
    m := x.m.map (ModReg.rebase f)
    splits := Vector.ofFn (fun i => (x.splits[i]).map (Split.rebase f (n + 512 * (1 + i.val))))
    parked := (enumFrom 0 x.parked).map (fun p => p.2.rebase f (n + 512 * (5 + p.1)))
    tiles := x.tiles.map (TileOp.rebase f) }

/-- A snapshot of pending threads (13 R252). -/
def Snapshot.rebase (f : Nat → Nat) (n0 : Nat) (x : Snapshot) : Snapshot :=
  { x with
    s := Vector.ofFn (fun i => rebaseReg f (n0 + 512 * x.off) i.val x.s[i])
    m := x.m.map (ModReg.rebase f) }

/-- A pending record's carried words (13 R252). -/
def PendRec.rebase (f : Nat → Nat) (n0 : Nat) (p : PendRec) : PendRec :=
  { p with regs := (enumFrom 0 p.regs).map (fun v => BitVec.ofNat 32 (rebaseLane f (n0 + 64 * p.off + v.1) v.2.toNat)) }

/-- A held RED to the vat. -/
def Effect.rebase (f : Nat → Nat) : Effect → Effect
  | .redVat us => .redVat (us.map (fun u => { u with addr := f u.addr }))
  | e => e

/-- The target of an armed injection in the vat (17 R327). -/
def Injection.rebase (f : Nat → Nat) (i : Injection) : Injection :=
  if i.struct ≤ 1 then { i with target := BitVec.ofNat 64 (f i.target.toNat) } else i

/-- What the gang's registers, its splits, its records, its held effects and its armed injections refer to. -/
def Gang.rebase (f : Nat → Nat) (n0 : Nat) (g : Gang) : Gang :=
  { g with
    groups := g.groups.map (Group.rebase f n0)
    snaps := g.snaps.map (Snapshot.rebase f (n0 + 2 ^ 22))
    handler := g.handler.map (Split.rebase f (n0 + 2 ^ 23))
    handlerRest := (enumFrom 1 g.handlerRest).map (fun p => p.2.rebase f (n0 + 2 ^ 23 + 512 * p.1))
    pend := g.pend.map (PendRec.rebase f (n0 + 2 ^ 30))
    effects := g.effects.map (Effect.rebase f)
    injections := g.injections.map (Injection.rebase f) }

/-- The vector registers of the gang's groups (log 70). -/
def State.rebaseWindows (s : State) (f : Nat → Nat) (n0 : Nat) (g : Gang) : State :=
  g.groups.foldl (fun (s : State) x => (List.range (32 * g.task.w)).foldl (fun (s : State) i =>
    s.setLane g.id x.slot (i / 32) (i % 32)
      (BitVec.ofNat 32 (rebaseLane f (n0 + 2 ^ 24 + 2 ^ 13 * x.slot + i) (s.lane g.id x.slot (i / 32) (i % 32)).toNat))) s) s

/-- Words of memory rebased: `n` of them from an address, `step` bytes apart. -/
def Memory.rebaseWords (f : Nat → Nat) (n0 a step n : Nat) (m : Memory) : Memory :=
  (List.range n).foldl (fun (m : Memory) i => m.writeLE (a + step * i) 4 (rebaseLane f (n0 + i) (m.readLE (a + step * i) 4))) m

/-- The registers that the frame of a gang in its handler holds, which ERET writes back (16 R299): SSAVE and VSAVE. -/
def State.rebaseFrame (s : State) (f : Nat → Nat) (n0 : Nat) (g : Gang) : State :=
  if g.handler.isSome then
    { s with mem := (s.mem.rebaseWords f n0 (g.framePhys + 64) 8 16).rebaseWords f (n0 + 16) (g.framePhys + 256) 4 512 }
  else s

/-- The numbers of registers one rebasing may ask about. -/
def rebaseSpan : Nat := 2 ^ 32

/-! ## Locations -/

/-- A vat address of a block that has moved: addresses of the block, and its end. -/
def shiftFrom (old size new a : Nat) : Nat := if old ≤ a ∧ a ≤ old + size then a - old + new else a

def Loc.carry (core old size core' new scale : Nat) : Loc → Loc
  | .vat c n => if c = core ∧ old ≤ scale * n ∧ scale * n < old + size then .vat core' ((scale * n - old + new) / scale) else .vat c n
  | l => l

def Command.carry (gang core old size core' new : Nat) (c : Command) : Command :=
  { c with
    lines := c.lines.map (fun l =>
      { l with line := l.line.carry core old size core' new 128, moves := l.moves.map (fun m => (m.1, m.2.carry core old size core' new 1)) })
    sync := if c.gang = gang then c.sync.map (shiftFrom old size new) else c.sync }

/-- The bytes of a block of a vat moved. -/
def Memory.move (m : Memory) (a b n : Nat) : Memory :=
  let kept := m.cells.filter (fun c => decide (a ≤ c.1) && decide (c.1 < a + n))
  kept.foldl (fun (m : Memory) c => m.write (c.1 - a + b) c.2) ((m.clear a n).clear b n)

def StreamRec.rebase (f : Nat → Nat) (r : StreamRec) : StreamRec := { r with ring := f r.ring, sync := r.sync.map f }

/-! ## Off a core, and onto one -/

/-- What the gang holds in its core and its press. -/
def State.heldBy (s : State) (g : Gang) : Saved :=
  let c := s.core? g.core
  { gang := g.id, die := s.part.dieOf g.core, stash := c.stash.filter (fun u => u.gang == g.id)
    streams := (enumFrom 0 c.streams.toList).filter (fun x => decide (x.2.state ≠ .free) && x.2.holder == g.id)
    deckle := c.deckle.filter (fun r => r.gang == g.id), replay := c.replay.filter (fun e => e.gang == g.id)
    reservation := s.reservation? g }

/-- The gang holds nothing there any more. -/
def State.lift (s : State) (g : Gang) : State :=
  ({ s with
     cores := s.cores.modify g.core (fun c =>
       { c with
         stash := c.stash.filter (fun u => u.gang ≠ g.id)
         streams := c.streams.map (fun st => if st.state ≠ .free ∧ st.holder = g.id then Stream.vacant else st)
         deckle := c.deckle.filter (fun r => r.gang ≠ g.id), replay := c.replay.filter (fun e => e.gang ≠ g.id) }) } : State).unreserve g

/-- The gang's allocation, and every location in it that others name, moved to another place. -/
def State.carry (s : State) (g : Gang) (core base : Nat) : State :=
  let a := vatKey g.core g.base
  let b := vatKey core base
  let inside := fun (l : Nat) => decide (a ≤ 128 * l) && decide (128 * l < a + g.size)
  { s with
    vat := s.vat.move a b g.size
    vatPoison := s.vatPoison.map (fun l => if inside l then (128 * l - a + b) / 128 else l)
    commands := s.commands.map (Command.carry g.id g.core g.base g.size core base)
    gangs := s.gangs.map (fun x => if x.id = g.id then { x with core := core, base := base } else x) }

/-- What it held is put on its new core, its registers refer to the new block, and its groups get partitions afresh (15 R284). -/
def State.land (s : State) (g : Gang) (core base : Nat) (h : Saved) : State :=
  let f := shiftFrom g.base g.size base
  let s1 := s.carry g core base
  let s2 := s1.modCore core (fun c =>
    { c with
      stash := c.stash ++ h.stash.map (fun u => { u with vat := f u.vat })
      streams := h.streams.foldl (fun (v : Vector Stream 4) x =>
        if hx : x.1 < 4 then v.set x.1 { x.2 with record := x.2.record.rebase f } else v) c.streams
      deckle := c.deckle ++ h.deckle, replay := c.replay ++ h.replay })
  let s3 := s2.modPress (clusterOf core) (fun p => { p with reservations := p.reservations ++ h.reservation.toList })
  let s4 : State :=
    { s3 with
      free := s3.free + rebaseSpan
      gangs := s3.gangs.map (fun x => if x.id = g.id then (x.rebase f s.free).assign (s.lift g) core else x) }
  let s5 := (s4.rebaseWindows f s.free { g with core := core, base := base }).rebaseFrame f (s.free + 2 ^ 31) g
  if g.pend.isEmpty then s5 else s5.writeSpill g.id []

/-! ## Where a gang can go (15 R283, R287) -/

/-- Engine numbers and press units that the gang holds are free on a core. -/
def State.landsOn (s : State) (g : Gang) (h : Saved) (core : Nat) : Bool :=
  let p := s.press? (clusterOf core)
  h.streams.all (fun x => decide ((s.streamAt core x.1).state = .free)) &&
  (match h.reservation with
   | none => true
   | some r => (clusterOf core == g.press && p.reservations.any (fun y => y.gang == g.id)) || p.shared ||
       (decide (p.usedMoulds + r.moulds.length ≤ 32) && decide (p.usedAccs + r.accs.length ≤ 8)))

/-- The core a gang moves to, with the block's base: on the die if possible, else in the nearest class; the copies of a pair stay on
different cores. -/
def State.newPlace (s : State) (g : Gang) (h : Saved) (die : Nat) : Option (Nat × Nat) :=
  let twin := match g.pair with
    | some p => (s.gang? p.other).map (fun x => x.core)
    | none => none
  s.place die g.task (fun c => decide (c ≠ g.core) && decide (some c ≠ twin) && s.landsOn g h c)

/-- The place a migration goes to. -/
def State.migrationPlace (s : State) (g : Gang) : Option (Nat × Nat) := s.newPlace g (s.heldBy g) (s.part.dieOf g.core)

end Sys2Proof.Machine
end

