-- ==== Sys2Proof/Machine/SchedEvents.lean ====
section
/-! DEFINITION. Events of the queues and distributors: pushes by the host (14 R271) and by successor counters (R273), dispatch (15 R279-R285, R385), ageing and holding (R281, R285), migration and forwarding (R286-R288), boosts and press wakes (R290, R291). -/

namespace Sys2Proof.Machine

/-! ## Heads (14 R263, R264) -/

/-- The record at the head of a TASK queue, where it holds one. -/
def State.headRecord (s : State) (q : QueueObj) : Option (List Byte) :=
  let h := s.hdr q.hdr
  if h.occ = 0 then none else some (s.homeRead h.owner (h.itemVa h.head) 64)

/-- The head leaves its queue; an empty queue's timer stands at 0. -/
def State.dropHead (s : State) (q : QueueObj) : State :=
  let (s1, _) := s.takeItem 0 q.hdr
  let s2 := s1.servePush q.hdr s1.waiters.length
  s2.modQueue q.hdr (fun q => { q with waited := 0, timer := if (s2.hdr q.hdr).occ = 0 then 0 else q.timer })

/-- A record that fails its checks is discarded and counted. -/
def State.rejectRecord (s : State) (hdr : Nat) : State := { (s.bumpHdr 0 hdr 32) with badRecords := s.badRecords + 1 }

/-! ## Placement of a head (15 R282, R283, R285; 17 R320) -/

/-- A holding queue of the die keeps queues of lower EL off the die's own cores. -/
def State.heldOff (s : State) (q : QueueObj) : Bool :=
  s.queues.any (fun x => decide (x.kind = 1) && x.die == q.die && x.holding && decide (q.el < x.el))

/-- The core of the task, with its vat base, and of the trail of a paired record. -/
def State.placeTask (s : State) (die : Nat) (t : TaskRec) (ok : Nat → Bool) : Option ((Nat × Nat) × Option (Nat × Nat)) :=
  match s.place die t ok with
  | none => none
  | some a =>
    if t.paired then (s.place die t (fun c => ok c && decide (c ≠ a.1))).map (fun b => (a, some b)) else some (a, none)

def State.placeHead (s : State) (q : QueueObj) (t : TaskRec) : Option ((Nat × Nat) × Option (Nat × Nat)) :=
  s.placeTask q.die t (fun c => !(s.heldOff q && decide (s.part.dieOf c = q.die)))

/-- A copy of a pair at its start; a recovery point is implied there (17 R323). -/
def Pair.fresh (role : PairRole) (other : Nat) (gids : BitVec 16) : Pair :=
  { role := role, other := other, state := .run, loadq := [], sigs := [], granted := [], log := [], count := 0, committed := 0
    plog := false, damaged := false, flipped := false, gids := gids, acts := [], acted := 0 }

/-- The trail of a pair uses the lead's trap frame (24 R368). -/
def State.shareFrame (s : State) (lead trail : Nat) : State :=
  match s.gang? lead, s.gang? trail with
  | some g, some t =>
    (s.unmapOwn t.ctx t.frameVa 1).modGang trail (fun x =>
      { x with frameVa := g.frameVa, framePhys := g.framePhys, csr := { x.csr with hframe := g.csr.hframe } })
  | _, _ => s

/-- A task starts where it is placed. -/
def State.startTask (s : State) (t : TaskRec) (p : (Nat × Nat) × Option (Nat × Nat)) : State :=
  match p.2 with
  | none => s.startGang p.1.1 p.1.2 t none
  | some b =>
    let id := s.nextGang
    let n := BitVec.ofNat 16 t.groups
    ((s.startGang p.1.1 p.1.2 t (some (Pair.fresh .lead (id + 1) n))).startGang b.1 b.2 t (some (Pair.fresh .trail id n))).shareFrame id (id + 1)

/-! ## Dispatch (15 R279, R282, R385) -/

/-- A queue that takes part in its die's choice: TASK, not empty, its owner not terminated. -/
def State.served (s : State) (die : Nat) (q : QueueObj) : Bool :=
  decide (q.kind = 1) && q.die == die && decide (0 < (s.hdr q.hdr).occ) && (match s.ctx? q.ctx with
    | some c => !c.terminated
    | none => false)

/-- What the distributor finds at a queue's head: a record to reject, or a task with its places. -/
inductive HeadFound where
  | bad
  | task (t : TaskRec) (p : (Nat × Nat) × Option (Nat × Nat))
  deriving DecidableEq, Repr

def State.findHead (s : State) (q : QueueObj) : Option HeadFound :=
  match s.headRecord q with
  | none => none
  | some bs =>
    if s.recordGood q.ctx bs then
      let t := TaskRec.ofBytes bs
      (s.placeHead q t).map (fun p => .task t p)
    else some .bad

/-- One queue comes before another: EL, then the head's wait, then the header's address. -/
def QueueObj.first (a b : QueueObj) : Bool :=
  if a.el ≠ b.el then decide (b.el < a.el)
  else if a.waited ≠ b.waited then decide (b.waited < a.waited)
  else decide (a.va.toNat ≤ b.va.toNat)

/-- The candidates of a die with what their heads are. -/
def State.candidates (s : State) (die : Nat) : List (QueueObj × HeadFound) :=
  (s.queues.filter (s.served die)).filterMap (fun q => (s.findHead q).map (fun h => (q, h)))

def bestQueue : List (QueueObj × HeadFound) → Option (QueueObj × HeadFound)
  | [] => none
  | x :: xs => some (xs.foldl (fun b y => if b.1.first y.1 then b else y) x)

/-- One dispatch step: records that fail are discarded until one can start. -/
def State.dispatch (s : State) (die : Nat) : Nat → Option State
  | 0 => none
  | n + 1 =>
    match bestQueue (s.candidates die) with
    | none => none
    | some (q, .bad) =>
      let s1 := (s.dropHead q).rejectRecord q.hdr
      some ((s1.dispatch die n).getD s1)
    | some (q, .task t p) =>
      let s1 := ((s.dropHead q).modQueue q.hdr (fun q => { q with el := q.prio, timer := 0, holding := false })).startTask t p
      some (s1.modDie die (fun d => { d with nextDispatch := d.clock.toNat + 8 }))

/-- TASK_DISPATCH. -/
def execTaskDispatch (e : EvDie) (s : State) : Host.Outcome State Fault Refusal :=
  let die := e.die.val
  let d := s.die? die
  let lines := (s.queues.filter (s.served die)).map (fun q => q.hdr / 128)
  let fuel := ((s.queues.filter (s.served die)).map (fun q => (s.hdr q.hdr).occ)).foldl (· + ·) 1
  happens s (if d.clock.toNat < d.nextDispatch ∨ lines.any (fun l => s.physBusy l true) then none else s.dispatch die fuel)

/-! ## Ageing and holding (15 R280, R281, R285) -/

/-- The queue's timer has passed AGE_US of a level on its die. -/
def State.aged (s : State) (q : QueueObj) : Bool :=
  decide (((s.die? q.die).ageing.toList.getD q.el 0).toNat * clocksPerUs ≤ q.timer)

/-- EFFECTIVE_LEVEL_RAISE. -/
def execEffectiveLevelRaise (e : EvIdx) (s : State) : Host.Outcome State Fault Refusal :=
  happens s (match s.queues[e.idx]? with
    | none => none
    | some q =>
      if q.kind = 1 ∧ 0 < (s.hdr q.hdr).occ ∧ q.el < 7 ∧ s.aged q then
        some (s.modQueue q.hdr (fun q => { q with el := q.el + 1, timer := 0 }))
      else none)

/-- A gang whose removal opens a block for the task on its core, and that fits elsewhere. -/
def State.opensBlock (s : State) (t : TaskRec) (g : Gang) : Bool :=
  let s1 : State := { s with gangs := s.gangs.filter (fun x => x.id ≠ g.id) }
  (s1.fitsOn t g.core).isSome && (s.migrationPlace g).isSome

/-- The gang a distributor asks to be moved: the smallest allocation, then the lower core, then the lower gangid. -/
def State.migrationChoice (s : State) (die : Nat) (t : TaskRec) : Option Nat :=
  let gs := s.gangs.filter (fun g => decide (s.part.dieOf g.core = die) && s.opensBlock t g)
  match gs with
  | [] => none
  | g :: rest =>
    some (rest.foldl (fun (b : Gang) y =>
      if y.size < b.size ∨ (y.size = b.size ∧ (y.core < b.core ∨ (y.core = b.core ∧ y.id < b.id))) then y else b) g).id

/-- The distributor's request, where none is outstanding. -/
def State.askMigration (s : State) (die : Nat) (t : TaskRec) : State :=
  let open_ := match (s.die? die).request with
    | some id => (s.gang? id).isSome
    | none => false
  if open_ then s
  else s.modDie die (fun d => { d with request := s.migrationChoice die t })

/-- A head fails only the vat-block condition: it has no place, though some core of the die has its group slots free, and for a paired
record a second core has them too (R283). -/
def State.lacksBlock (s : State) (q : QueueObj) (t : TaskRec) : Bool :=
  let slots := fun (c : Nat) => decide (s.reserved c + t.budget ≤ 256)
  (s.placeTask q.die t (fun _ => true)).isNone &&
  (s.part.coresOf q.die).any (fun c => slots c && (!t.paired || (dieOrder q.die).any (fun d => (s.part.coresOf d).any (fun b => decide (b ≠ c) && slots b))))

/-- QUEUE_HOLDING. -/
def execQueueHolding (e : EvIdx) (s : State) : Host.Outcome State Fault Refusal :=
  happens s (match s.queues[e.idx]? with
    | none => none
    | some q =>
      match s.headRecord q with
      | none => none
      | some bs =>
        let t := TaskRec.ofBytes bs
        if s.served q.die q ∧ q.el = 7 ∧ !q.holding ∧ s.aged q ∧ s.recordGood q.ctx bs ∧ s.lacksBlock q t then
          some ((s.modQueue q.hdr (fun q => { q with holding := true })).askMigration q.die t)
        else none)

/-- Holding queues of a die ask again. -/
def State.retryHolding (s : State) (die : Nat) : State :=
  (s.queues.filter (fun q => q.holding && q.die == die)).foldl (fun (s : State) q => match s.headRecord q with
    | some bs => s.askMigration die (TaskRec.ofBytes bs)
    | none => s) s

/-! ## Migration and forwarding (15 R286-R288) -/

/-- How long a forwarding entry lives: 200 us. -/
def forwardingLife : Nat := 200 * clocksPerUs

/-- A gang that was stopped issues again; a wait that came about meanwhile may be a deadlock (13 R242). -/
def State.resume (s : State) (id : Nat) : State := (s.modGang id (fun x => { x with run := .running })).deadlockAll id

/-- GANG_MIGRATION: a pre-empted gang goes to the place R287 gives, and issues again. -/
def execGangMigration (e : EvGangCore) (s : State) : Host.Outcome State Fault Refusal :=
  happens s (match s.gang? e.gang with
    | none => none
    | some g =>
      match s.migrationPlace g with
      | none => none
      | some (core, base) =>
        if g.run ≠ .preempted ∨ core ≠ e.core then none
        else
          let h := s.heldBy g
          let s1 := ((s.lift g).land g core base h).resume g.id
          some { s1 with
            forwards := s1.forwards ++
              [{ gang := g.id, oldCore := g.core, newCore := core, oldBase := g.base, newBase := base, left := forwardingLife
                 before := s.nextCmd }]
            dies := s1.dies.map (fun d => if d.request = some g.id then { d with request := none } else d) })

/-- FORWARDED_MESSAGE: the oldest message to the old core is redirected. -/
def execForwardedMessage (e : EvIdx) (s : State) : Host.Outcome State Fault Refusal :=
  happens s (match s.forwards[e.idx]? with
    | none => none
    | some f =>
      let i := s.arrivals.findIdx (fun a => a.gang == f.gang && a.core == f.oldCore && a.base == f.oldBase)
      match s.arrivals[i]? with
      | none => none
      | some a => some { s with
          arrivals := s.arrivals.set i { a with core := f.newCore, base := f.newBase, addr := a.addr - f.oldBase + f.newBase } })

/-- A gang has a STRGO issued before a command number still to complete (05 R101). -/
def State.olderStream (s : State) (gang before : Nat) : Bool :=
  match s.gang? gang with
  | none => false
  | some g => (s.core? g.core).streams.any (fun st => decide (st.state = .run) && decide (st.seq < before) && st.starters.any (fun x => x.1 == gang))

/-- FORWARDING_EXPIRE: 200 us are over, and every command the gang had issued before the move has completed. -/
def execForwardingExpire (e : EvIdx) (s : State) : Host.Outcome State Fault Refusal :=
  happens s (match s.forwards[e.idx]? with
    | none => none
    | some f =>
      if f.left = 0 ∧ !(s.commands.any (fun c => c.gang == f.gang && decide (c.id < f.before))) ∧ !s.olderStream f.gang f.before then
        some { s with forwards := s.forwards.eraseIdx e.idx }
      else none)

/-! ## The partition scheduler's events (15 R290, R291) -/

/-- SPLIT_BOOST. -/
def execSplitBoost (e : EvGroupIdx) (s : State) : Host.Outcome State Fault Refusal :=
  let f : Focus := { gang := e.gang, group := e.group, split := e.idx }
  happens s (match s.split? f with
    | none => none
    | some sp =>
      if e.idx < 4 ∧ sp.status.open ∧ sp.boost = none ∧ 64 ≤ sp.idle then
        some (s.modSplit f (fun sp => { sp with boost := some s.order }))
      else none)

/-- PRESS_WAKE: a split stalled at MWAIT, or at a WAIT with a tl limit, is tested again. -/
def execPressWake (e : EvGroupIdx) (s : State) : Host.Outcome State Fault Refusal :=
  let f : Focus := { gang := e.gang, group := e.group, split := e.idx }
  happens s (match s.split? f with
    | none => none
    | some sp =>
      let here := match s.instrAt f with
        | .mwait _ => true
        | .wait x => decide (x.tl.val < 63)
        | _ => false
      match sp.status with
      | .stalled _ _ => if here then some s else none
      | _ => none)

/-! ## Pushes (14 R271, R273) -/

/-- The 64-bit items of a push, in ascending order. -/
def pushItems (bs : List Byte) : List Word := (List.range 8).map (fun i => BitVec.ofNat 64 (fieldAt bs (8 * i) 8))

/-- A push to an object from outside; none of it where it finds no room. -/
def State.pushOutside (s : State) (q : QueueObj) (bs : List Byte) : Option State :=
  let h := s.hdr q.hdr
  match h.kind with
  | 1 => s.push 0 (.tspawn q.hdr bs)
  | 2 => s.wlInsert 0 q.hdr (pushItems bs)
  | _ => s.push 0 (.qpush q.hdr (pushItems bs))

/-- HOST_PUSH: 64 bytes written to CMDAP, or to the aperture of an object. -/
def execHostPush (e : EvPush) (s : State) : Host.Outcome State Fault Refusal :=
  happens s (if s.boot.state = 0 ∨ 64 < e.data.length then none
    else
      match e.aperture with
      | none =>
        if e.data.length < 64 then none
        else some { s with fns := s.fns.modify e.fn (fun f => { f with commands := f.commands ++ [e.data] }) }
      | some i =>
        match s.queues.find? (fun q => q.fn == e.fn && q.aperture == i) with
        | none => none
        | some q =>
          if s.physBusy (q.hdr / 128) true then none
          else if e.data.length < 64 then some (s.bumpHdr 0 q.hdr 36)
          else some ((s.pushOutside q e.data).getD (s.bumpHdr 0 q.hdr 36)))

/-- The checks of a fired counter's record and queue: cause and subcause of the first that fails, else the record and the header's place. -/
def State.succCheck (s : State) (p : SuccPush) : Except (Nat × Nat) (Nat × Nat) :=
  let who := gangWho p.ctx p.die false
  match s.translate who .read p.record, s.translate who .read (p.record + 63) with
  | .error e, _ => .error e
  | _, .error e => .error e
  | .ok r, .ok _ =>
    if p.queue.toNat % 64 ≠ 0 then .error (0x0D, 1)
    else
      match s.translate (gangWho p.ctx p.die true) .atomic p.queue with
      | .error e => .error e
      | .ok q =>
        let h := s.hdr q.pa
        match firstXlat s (gangWho p.ctx p.die true) ((rangePieces h.base (h.cap * h.itemSize)).map (fun v => (v, AccKind.atomic))) with
        | .error e => .error (e.2.2.1, e.2.2.2)
        | .ok _ =>
          if !h.valid ∨ h.kind = 3 then .error (0x0D, 1)
          else if h.owner ≠ p.ctx then .error (0x0D, 2)
          else if h.kind ≠ 1 then .error (0x0D, 3)
          else .ok (r.pa, q.pa)

/-- SUCCESSOR_PUSH. -/
def execSuccessorPush (e : EvIdx) (s : State) : Host.Outcome State Fault Refusal :=
  happens s (match s.succs[e.idx]? with
    | none => none
    | some p =>
      let s1 : State := { s with succs := s.succs.eraseIdx e.idx }
      match s.succCheck p with
      | .error (cause, sub) => some (s1.appendEvent p.ctx (eventEntry 0x82 sub 1 p.record (BitVec.ofNat 64 cause)))
      | .ok (r, q) =>
        if s.physBusy (q / 128) true || s.physBusy (r / 128) false then none
        else
          let s2 := (s1.reach (r / 128) false).reach (q / 128) true
          match stampRecord (s2.homeRead p.ctx p.record 64) p.ctx with
          | none => some (s2.rejectRecord q)
          | some bs =>
            if s2.recordGood p.ctx bs then s2.push 0 (.tspawn q bs) else some (s2.rejectRecord q))

end Sys2Proof.Machine
end

