-- ==== Sys2Proof/Machine/TrapEvents.lean ====
section
/-! DEFINITION. Events of traps (16 R294-R298, R252 of 13, R314 of 17, R368 of 24), of pre-emption and the context switch (16 R305-R307), of exit and kill (R308, R310). -/

namespace Sys2Proof.Machine

/-! ## The skid (16 R294) -/

/-- SKID_END: 96 clocks have passed, or every group has stopped; a group may stop earlier than its bound. -/
def execSkidEnd (e : EvGang) (s : State) : Host.Outcome State Fault Refusal :=
  happens s (match (s.gang? e.gang).bind (fun g => g.halt) with
    | none => none
    | some h =>
      if h.phase = .skid then some (s.modGang e.gang (fun g => { g with halt := some { h with phase := .stopped } })) else none)

/-! ## Poison consumed (17 R314, R316) -/

/-- The instruction accesses vat space. -/
def inVatSpace : Instr → Bool
  | .ldExt x => vatSpace x.addr x.sp
  | .ldu x => vatSpace x.addr x.sp
  | .atom x => vatSpace x.addr x.sp
  | .atomu x => vatSpace x.addr x.sp
  | _ => false

/-- The split that raised a halt's trap: at handler privilege the handler split (16 R297). -/
def haltFocus (g : Gang) (h : Halt) : Focus := { gang := g.id, group := h.group, split := if h.double.isSome then 4 else h.split.val }

/-- What a consumption met: STRUCT, owner tag, LOC. -/
def State.consumed (s : State) (g : Gang) (h : Halt) : Nat × Nat × Nat :=
  if inVatSpace (s.instrAt (haltFocus g h)) then (1, g.ctx, h.trap.addr.toNat)
  else
    match s.translate (homeWho g.ctx) .read h.trap.addr with
    | .ok x => (2, s.ownerOf x.pa, x.pa)
    | .error _ => (2, g.ctx, h.trap.addr.toNat)

/-- The record of a consumption; a trail's is the lead's. -/
def State.logConsumption (s : State) (g : Gang) (h : Halt) (outcome : Nat) : State :=
  if h.trap.cause ≠ 0x15 ∨ s.isTrail g.id then s
  else
    let (st, owner, loc) := s.consumed g h
    s.logError st 8 owner (s.part.dieOf g.core) g.core loc outcome

/-! ## The spill pool (13 R252; 16 R297) -/

/-- The area of a gang as it would be with more 64 KiB units. -/
def Gang.withSpill (g : Gang) (units : Nat) : Gang := { g with spillSize := g.spillSize + units * 2 ^ 16 }

/-- The BECOME at the focus would find room in an area that has grown. -/
def State.becomeFits (s : State) (g : Gang) (f : Focus) (units : Nat) : Bool :=
  let test := fun (i : Instr) (carry : Nat) (b : VSrc) =>
    match s.iss? f i.bytes with
    | none => false
    | some c =>
      match takeSrc c s false b with
      | .error _ => false
      | .ok (s1, v) => (s1.plan (g.withSpill units) c.grp c.sp carry (fun l => (v l).toNat % 2 ^ 32) c.after).isSome
  match s.instrAt f with
  | .becomeBase x => test (.becomeBase x) x.d.val (.reg (vreg x.b))
  | .becomeExt x => test (.becomeExt x) x.carry.val x.b
  | _ => false

/-- The smallest growth that holds what the BECOME needs, at most to 16 MiB. -/
def State.growth (s : State) (g : Gang) (h : Halt) : Option Nat :=
  ((List.range (256 - g.spillSize / 2 ^ 16)).map (· + 1)).find? (fun n => s.becomeFits g (haltFocus g h) n)

/-- Units of the pool that no gang of the context holds. -/
def State.freeUnits (s : State) (tag : Nat) : Nat :=
  let held := ((s.gangs.filter (fun g => g.ctx == tag)).map (fun g => g.spillSize / 2 ^ 16)).foldl (· + ·) 0
  match s.ctx? tag with
  | some c => c.pool - held
  | none => 0

/-- Ezden's growth of the area for trap 0x0A, where the pool allows it. -/
def State.poolGrowth (s : State) (g : Gang) (h : Halt) : Option Nat :=
  if h.trap.cause ≠ 0x0A ∨ h.double.isSome then none
  else
    match s.growth g h with
    | none => none
    | some n => if n * (s.copiesOf g).length ≤ s.freeUnits g.ctx then some n else none

/-- The area moves to a larger range; contents, offsets and its virtual address stay. -/
def State.growSpill (s : State) (id units : Nat) : State :=
  match s.gang? id with
  | none => s
  | some g =>
    let size := g.spillSize + units * 2 ^ 16
    let new := s.allocPool size
    let s1 := s.unmapOwn g.ctx g.spillVa (g.spillSize / 2 ^ 16)
    let inside := fun (h : Nat) => decide (g.spillPhys ≤ 64 * h) && decide (64 * h < g.spillPhys + g.spillSize)
    let s2 : State := { s1 with
      mem := s1.mem.move g.spillPhys new g.spillSize
      poison := s1.poison.map (fun h => if inside h then (64 * h - g.spillPhys + new) / 64 else h)
      poisonTags := s1.poisonTags.map (fun h => if inside h.1 then ((64 * h.1 - g.spillPhys + new) / 64, h.2) else h)
      lost := s1.lost.map (fun l => if inside (2 * l) then (128 * l - g.spillPhys + new) / 128 else l) }
    (s2.modGang id (fun g => { g with spillPhys := new, spillSize := size })).mapOwn g.ctx g.spillVa new (size / 2 ^ 16)

/-- The halt is lifted: every split goes on at its PC (16 R295), and a wait that came about meanwhile may be a deadlock. -/
def State.liftHalt (s : State) (id : Nat) : State :=
  (s.modGang id (fun g => { g with halt := none, handler := none, handlerRest := [] })).deadlockAll id

/-! ## Delivery (16 R297, R298; 24 R368) -/

/-- The key under which a lead forwards its delivery for a group. -/
def handlerKey (group : Nat) : Nat := 2 ^ 17 + group

/-- How many instructions the group had issued when the trap was raised. -/
def Gang.trapCount (g : Gang) (h : Halt) : Nat :=
  let n := match g.group? h.group with
    | some x => x.issued
    | none => 0
  n - ((h.skid.find? (fun k => k.1 == h.group)).map (fun k => k.2)).getD 0

/-- s0, s1 and the count, as a lead forwards them. -/
def Gang.delivery (g : Gang) (h : Halt) : List Word :=
  [g.csr.hframe, BitVec.ofNat 64 (h.trap.cause + 2 ^ 8 * h.trap.sub), BitVec.ofNat 64 (g.trapCount h)]

/-- The frame's lines, written in full, lose what they held before. -/
def State.clearFrame (s : State) (g : Gang) : State :=
  let lines := rangeLines g.framePhys 12288
  let s1 := s.reachAll lines true
  let mine := fun (l : Nat) => decide (g.framePhys ≤ l) && decide (l < g.framePhys + 12288)
  { s1 with
    poison := s1.poison.filter (fun h => !mine (64 * h)), poisonTags := s1.poisonTags.filter (fun h => !mine (64 * h.1))
    lost := s1.lost.filter (fun l => !mine (128 * l)) }

/-- A line of the frame belongs to another agent: the write of the frame waits. -/
def State.frameBusy (s : State) (g : Gang) : Bool := (rangeLines g.framePhys 12288).any (fun l => s.physBusy l true)

/-- HANDLER_DELIVERY. -/
def State.deliver (s : State) (id : Nat) : Option State :=
  match s.gang? id with
  | none => none
  | some g =>
    match g.halt with
    | none => none
    | some h =>
      if h.phase ≠ .stopped ∨ g.run ≠ .running ∨ g.pairStopped ∨ !g.delegated h ∨ (!s.isTrail id && (s.poolGrowth g h).isSome) then none
      else
        match g.pair with
        | some p =>
          match p.role with
          | .trail =>
            if p.next (handlerKey h.group) = some (g.delivery h) then
              some (deliverToHandler (s.modPair id (fun p => { p with loadq := dropKey (handlerKey h.group) p.loadq })) id
                (some (g.delivery h)))
            else none
          | .lead =>
            if s.frameBusy g then none
            else
              some (((deliverToHandler (s.clearFrame g) id none).forward p.other (handlerKey h.group) (g.delivery h)).logConsumption g h 6)
        | none =>
          if s.frameBusy g then none
          else some ((deliverToHandler (s.clearFrame g) id none).logConsumption g h 6)

def execHandlerDelivery (e : EvGang) (s : State) : Host.Outcome State Fault Refusal := happens s (s.deliver e.gang)

/-! ## What Ezden does with a trap (16 R297; 17 R314) -/

/-- The copies of a pair stand at the same trap. -/
def sameTrap (g t : Gang) : Bool :=
  match g.halt, t.halt with
  | some h, some k =>
    decide (h.group = k.group) && decide (g.trapCount h = t.trapCount k) && decide (h.trap.cause = k.trap.cause) &&
    decide (h.trap.sub = k.trap.sub) && decide (k.phase ≠ .skid) && decide (h.double.isSome = k.double.isSome)
  | _, _ => false

/-- A double fault as a halt of its own, for its event entry and its record. -/
def Halt.second (h : Halt) (t : TrapInfo) : Halt := { h with trap := t, pc := h.dpc, npc := h.dnpc, execm := h.dexec }

/-- The contexts that own what a consumption met end; nothing ends where the trap is another (17 R314). -/
def State.endConsumed (s : State) (g : Gang) (h : Halt) : State :=
  if h.trap.cause = 0x15 then
    let (_, owner, _) := s.consumed g h
    (s.logConsumption g h 5).terminateAll (s.ownedBy owner)
  else s

/-- EZDEN_TRAP: a double fault ends the context. For any other trap the frame has been written at the halt (16 R296); the spill area
grows; poison ends the contexts that own it; any other trap ends the gang. -/
def State.ezdenTrap (s : State) (id : Nat) : Option State :=
  match s.gang? id with
  | none => none
  | some g =>
    match g.halt with
    | none => none
    | some h =>
      let both := match s.twin g with
        | some t => sameTrap g t
        | none => true
      if s.isTrail id || g.pairStopped || decide (g.run ≠ .running) || !both then none
      else
        match h.double with
        | some t => some (((s.appendEvent g.ctx (g.frameHead (h.second t))).endConsumed g (h.second t)).terminate g.ctx)
        | none =>
          if h.phase ≠ .stopped ∨ (g.delegated h ∧ s.poolGrowth g h = none) ∨ s.frameBusy g then none
          else
            let s0 := (s.clearFrame g).writeFrame g h
            match s.poolGrowth g h with
            | some n => some ((s.copiesOf g).foldl (fun (s : State) x => (s.growSpill x.id n).liftHalt x.id) s0)
            | none => some (((s0.appendEvent g.ctx (g.frameHead h)).endConsumed g h).killGang id)

def execEzdenTrap (e : EvGang) (s : State) : Host.Outcome State Fault Refusal := happens s (s.ezdenTrap e.gang)

/-! ## Pre-emption (16 R305, R306; 06 R137) -/

/-- PREEMPTION: the collector stops the gang's issue. -/
def execPreemption (e : EvGang) (s : State) : Host.Outcome State Fault Refusal :=
  happens s (match s.gang? e.gang with
    | none => none
    | some g => if g.run = .running ∧ !g.pairStopped then some (s.modGang e.gang (fun g => { g with run := .preempting })) else none)

/-- A wait that pre-emption withdraws: its split issues the instruction again. -/
def Status.withdrawn : Status → Bool
  | .waiting (.member ..) | .waiting (.swwait ..) | .waiting (.coll _) | .waiting (.object _) => true
  | _ => false

/-- The splits of a gang, the handler split among them. -/
def Gang.allSplits (g : Gang) : List Split :=
  g.groups.flatMap (fun x => x.liveSplits.map (fun y => y.2)) ++ g.handler.toList ++ g.handlerRest

/-- A tile operation that stops at an internal step, where it stays in the saved state (12 R235). -/
def TileKind.stepped : TileKind → Bool
  | .prune .. | .mldbs .. | .mmuls .. => true
  | _ => false

/-- Every class has acknowledged: accesses are drained and their counters with them (04 R76), no tile operation is under way but between its
internal steps, no system call is, and every engine command stands at a stopping point (05 R103). -/
def State.acknowledged (s : State) (g : Gang) : Bool :=
  g.groups.all (fun x => x.loads.isEmpty && x.stores.isEmpty && decide (x.ldc = 0) && decide (x.stc = 0) &&
    x.tiles.all (fun t => !t.started || t.kind.stepped)) &&
  (s.commands.filter (fun c => c.gang == g.id)).all Command.atStop &&
  !((s.core? g.core).replay.any (fun e => e.gang == g.id)) &&
  g.allSplits.all (fun sp => decide (sp.status ≠ .waiting .syscall)) &&
  (match g.halt with
   | some h => decide (h.phase ≠ .skid)
   | none => true)

/-- Sync words of the gang that splits wait on lose their waiters. -/
def State.unlinkSync (s : State) (g : Gang) : State :=
  g.allSplits.foldl (fun (s : State) sp => match sp.status with
    | .waiting (.swwait a _) => s.putSync g.core a { (s.syncWord g.core a) with wtr := false }
    | _ => s) s

/-- Waits are withdrawn: at queues and futures, at a rendezvous, at sync words, at membership instructions. -/
def State.withdrawAll (s : State) (g : Gang) : State :=
  let s1 := (s.collWaits.filter (fun w => w.gang == g.id)).foldl State.dropArrival (s.withdraw g.id)
  (s1.unlinkSync g).modGang g.id (fun x =>
    let again := fun (sp : Split) => if sp.status.withdrawn then { sp with status := .ready } else sp
    { x with groups := x.groups.map (fun y => { y with splits := y.splits.map (fun o => o.map again) }), handler := x.handler.map again })

/-- PREEMPTION_COMPLETE: the gang's accesses so far are performed, as by FENCE.ar.dev. -/
def execPreemptionComplete (e : EvGang) (s : State) : Host.Outcome State Fault Refusal :=
  happens s (match s.gang? e.gang with
    | none => none
    | some g =>
      if g.run ≠ .preempting ∨ !s.acknowledged g then none
      else (s.fenceGang g.id).map (fun s1 => (s1.withdrawAll g).modGang g.id (fun g => { g with run := .preempted })))

/-! ## Context switch (16 R307) -/

/-- The core number under which a saved gang's allocation is kept. -/
def savedCore (id : Nat) : Nat := 2 ^ 16 + id

/-- One gang saved: its dirty stash lines are back first. -/
def State.saveGang (s : State) (g : Gang) : Option State :=
  if g.run ≠ .preempted then none
  else
    (s.flushStash g).map (fun s1 =>
      let h := s1.heldBy g
      let s2 := (s1.lift g).carry g (savedCore g.id) g.base
      { s2.modGang g.id (fun x => { x with run := .saved }) with
        saves := s2.saves ++ [h]
        arrivals := s2.arrivals.map (fun a => if a.gang = g.id ∧ a.core = g.core then { a with core := savedCore g.id } else a) })

/-- CONTEXT_SWITCH: gangs that still run are pre-empted, those that are pre-empted are saved. -/
def execContextSwitch (e : EvCtx) (s : State) : Host.Outcome State Fault Refusal :=
  let mine := s.gangs.filter (fun g => g.ctx == e.ctx && !g.pairStopped)
  let running := mine.filter (fun g => decide (g.run = .running))
  let stopped := mine.filter (fun g => decide (g.run = .preempted))
  happens s (if running.isEmpty ∧ stopped.isEmpty then none
    else
      let s1 := running.foldl (fun (s : State) g => s.modGang g.id (fun g => { g with run := .preempting })) s
      some (stopped.foldl (fun (s : State) g => (s.saveGang g).getD s) s1))

/-- A saved gang is placed again; none where no core has room. -/
def State.restoreGang (s : State) (g : Gang) : Option State :=
  match s.saves.find? (fun x => x.gang == g.id) with
  | none => none
  | some h =>
    match s.newPlace g h h.die with
    | none => none
    | some (core, base) =>
      let s1 := (s.land g core base h).resume g.id
      some { s1 with
        saves := s1.saves.filter (fun x => x.gang ≠ g.id)
        arrivals := s1.arrivals.map (fun a =>
          if a.gang = g.id ∧ a.core = g.core then { a with core := core, base := base, addr := a.addr - g.base + base } else a) }

/-- CONTEXT_RESTORE: saved gangs are placed and resume, pre-empted ones resume. -/
def execContextRestore (e : EvCtx) (s : State) : Host.Outcome State Fault Refusal :=
  let mine := s.gangs.filter (fun g => g.ctx == e.ctx)
  let saved := mine.filter (fun g => decide (g.run = .saved))
  let stopped := mine.filter (fun g => decide (g.run = .preempted))
  happens s (if saved.isEmpty ∧ stopped.isEmpty then none
    else
      let s1 := stopped.foldl (fun (s : State) g => s.resume g.id) s
      some (saved.foldl (fun (s : State) g => (s.restoreGang g).getD s) s1))

/-! ## Exit and kill (16 R308, R310) -/

/-- GANG_EXIT; holding queues of the dies of its copies ask again (15 R285). -/
def execGangExit (e : EvGang) (s : State) : Host.Outcome State Fault Refusal :=
  let dies := match s.gang? e.gang with
    | some g => ((s.copiesOf g).map (fun (x : Gang) => s.part.dieOf x.core)).eraseDups
    | none => []
  happens s ((s.exitGang e.gang).map (fun s1 => if (s1.gang? e.gang).isNone then dies.foldl State.retryHolding s1 else s1))

/-- GANG_KILL. -/
def execGangKill (e : EvGang) (s : State) : Host.Outcome State Fault Refusal :=
  happens s ((s.gang? e.gang).map (fun _ => s.killGang e.gang))

end Sys2Proof.Machine
end

