-- ==== Sys2Proof/Machine/SysEvents.lean ====
section
/-! DEFINITION. System calls as Ezden performs them (16 R302-R304): what the outside answers comes with the event, what the part itself decides is decided here. -/

namespace Sys2Proof.Machine

/-- An error result. -/
def callError (n : Nat) : Word := BitVec.ofInt 64 (-(n : Int))

/-- An answer that is one of the error codes of R303. -/
def isFailure (r : Word) : Bool := decide (r.toInt < 0) && decide (-12 ≤ r.toInt)

/-- Who calls: the gang, the split, for whose lane the accesses are made. -/
structure Caller where
  g : Gang
  f : Focus
  deriving DecidableEq, Repr

/-! ## Buffers and paths -/

/-- The longest buffer. -/
def callMax : Nat := 2 ^ 24

/-- The bytes of a buffer as accesses of the lane: their places, or none where R55 fails. -/
def State.callBytes (s : State) (c : Caller) (k : AccKind) (va : Word) (n : Nat) : Option (List (Nat × Bool)) :=
  let ps := rangePieces va n
  match firstXlat s (s.whoOf c.g c.f) (ps.map (fun v => (v, k))) with
  | .error _ => none
  | .ok xs => some ((List.range n).map (fun i => placeByte (ps.zip xs) (va + BitVec.ofNat 64 i)))

/-- A result of a lane's call: the lane waits for a line, or it is done. -/
abbrev CallStep := Option (State × Word)

/-- A lane's call that ends with a result at once. -/
def callDone (s : State) (r : Word) : CallStep := some (s, r)

/-- Read a buffer: -4 where it fails R55, -12 where it is poisoned. -/
def State.readCall (s : State) (c : Caller) (va : Word) (n : Nat) (next : State → List Byte → CallStep) : CallStep :=
  match s.callBytes c .read va n with
  | none => callDone s (callError 4)
  | some bs =>
    let lines := linesOf (bs.map (fun b => b.1))
    if lines.any (fun l => s.physBusy l false) then none
    else
      let s1 := s.reachAll lines false
      if bs.any (fun b => s1.tainted b.1 1) then callDone s1 (callError 12) else next s1 (bs.map (fun b => s1.mem.read b.1))

/-- Check a buffer of `n` bytes that will be written: -4 where it fails R55. -/
def State.writeCall (s : State) (c : Caller) (va : Word) (n : Nat) (next : (List Byte → State) → CallStep) : CallStep :=
  match s.callBytes c .write va n with
  | none => callDone s (callError 4)
  | some bs =>
    if (linesOf (bs.map (fun b => b.1))).any (fun l => s.physBusy l true) then none
    else next (fun data => s.writePhys c.g.id ((bs.zip data).map (fun x => ({ addr := x.1.1, val := x.2, dur := x.1.2 } : ByteWrite))))

/-- The namespace number and the file name of a path: a decimal number, a colon, printable ASCII without a slash. -/
def parsePath (bs : List Byte) : Option Nat :=
  let digits := bs.takeWhile (fun b => decide (48 ≤ b.toNat) && decide (b.toNat ≤ 57))
  match bs.drop digits.length with
  | colon :: name =>
    if digits.isEmpty ∨ colon ≠ 58 ∨ name.isEmpty ∨
        name.any (fun b => decide (b.toNat < 32) || decide (126 < b.toNat) || decide (b.toNat = 47)) then none
    else some (digits.foldl (fun n b => 10 * n + (b.toNat - 48)) 0)
  | [] => none

/-- A path: its length (-5), its bytes (-4, -12), its form (-5), its namespace (-1). -/
def State.pathCall (s : State) (c : Caller) (k : Context) (va : Word) (n : Nat) (next : State → CallStep) : CallStep :=
  if n = 0 ∨ 255 < n then callDone s (callError 5)
  else s.readCall c va n (fun s1 bs => match parsePath bs with
    | none => callDone s1 (callError 5)
    | some ns => if ns < 64 ∧ k.namespaces.getLsbD ns then next s1 else callDone s1 (callError 1))

/-! ## Descriptors and answers -/

/-- An outside answer: one of the error codes, or a value the call allows; none where it is neither. -/
def answered (s : State) (a : SysAnswer) (ok : Nat → Bool) (good : State) : CallStep :=
  if isFailure a.result then callDone s a.result
  else if ok a.result.toNat then callDone good a.result
  else none

/-- A new descriptor: the one the answer names, of those that are free; -7 where none is. -/
def newDescriptor (s : State) (k : Context) (a : SysAnswer) (good : State) : CallStep :=
  if 1024 ≤ k.descs.length then callDone s (callError 7)
  else answered s a (fun d => decide (d < 1024) && !k.descs.contains d)
    (good.modCtx k.tag (fun c => { c with descs := c.descs ++ [a.result.toNat] }))

/-- A call on a descriptor: -3 where it is not open. -/
def onDescriptor (s : State) (k : Context) (d : Word) (next : CallStep) : CallStep :=
  if k.descs.contains d.toNat then next else callDone s (callError 3)

/-- Bytes that come in from outside, up to the length asked for. -/
def State.receiveCall (s : State) (c : Caller) (k : Context) (d va n : Word) (a : SysAnswer) : CallStep :=
  onDescriptor s k d (if callMax < n.toNat then callDone s (callError 5)
    else s.writeCall c va n.toNat (fun put =>
      answered s a (fun r => decide (r = a.data.length) && decide (r ≤ n.toNat)) (put a.data)))

/-- Bytes that go out. -/
def State.sendCall (s : State) (c : Caller) (k : Context) (d va n : Word) (a : SysAnswer) : CallStep :=
  onDescriptor s k d (if callMax < n.toNat then callDone s (callError 5)
    else s.readCall c va n.toNat (fun s1 _ => answered s1 a (fun r => decide (r ≤ n.toNat)) s1))

/-- A socket address as R302 lays it out: family, port, the bytes that stay 0. -/
def addressOk (bs : List Byte) : Bool :=
  let family := fieldAt bs 0 2
  decide (family ≤ 1) && (sliceBytes bs (if family = 0 then 8 else 20) (if family = 0 then 24 else 12)).all (fun b => decide (b = 0))

/-- bind and connect; bind's port lies in the context's range, else -1 (log 22). -/
def State.addressCall (s : State) (c : Caller) (k : Context) (bind : Bool) (d va : Word) (a : SysAnswer) : CallStep :=
  onDescriptor s k d (s.readCall c va 32 (fun s1 bs =>
    let port := fieldAt bs 2 2
    if !addressOk bs then callDone s1 (callError 5)
    else if bind ∧ (port < k.portLo ∨ k.portHi < port) then callDone s1 (callError 1)
    else answered s1 a (fun r => decide (r = 0)) s1))

/-! ## One lane's call (16 R302, R303) -/

/-- A call number whose feature the context has not accepted, or that no call has (19 R350). -/
def State.callKnown (s : State) (tag n : Nat) : Bool :=
  if n ≤ 7 then s.feature tag 7 else if n ≤ 14 then s.feature tag 8 else decide (n ≤ 16)

/-- One lane's call. -/
def State.laneCall (s : State) (c : Caller) (n : Nat) (x : Nat → Word) (a : SysAnswer) : CallStep :=
  match s.ctx? c.g.ctx with
  | none => callDone s (callError 10)
  | some k =>
    if !s.callKnown k.tag n then callDone s (callError 10)
    else
      match n with
      | 0 => s.pathCall c k (x 0) (x 1).toNat (fun s1 =>
          if 32 ≤ (x 2).toNat then callDone s1 (callError 5) else newDescriptor s1 k a s1)
      | 1 => onDescriptor s k (x 0) (answered s a (fun r => decide (r = 0))
          (s.modCtx k.tag (fun c => { c with descs := c.descs.filter (fun d => d ≠ (x 0).toNat) })))
      | 2 => s.receiveCall c k (x 0) (x 1) (x 2) a
      | 3 => s.sendCall c k (x 0) (x 1) (x 2) a
      | 4 => s.receiveCall c k (x 0) (x 1) (x 2) a
      | 5 => s.sendCall c k (x 0) (x 1) (x 2) a
      | 6 => onDescriptor s k (x 0) (answered s a (fun r => decide (r = 0)) s)
      | 7 => s.pathCall c k (x 0) (x 1).toNat (fun s1 => s1.writeCall c (x 2) 32 (fun put =>
          answered s1 a (fun r => decide (r = 0)) (put (padTo 32 (padTo 16 (a.data.take 16))))))
      | 8 => if 1 < (x 0).toNat ∨ 1 < (x 1).toNat then callDone s (callError 5) else newDescriptor s k a s
      | 9 => s.addressCall c k true (x 0) (x 1) a
      | 10 => s.addressCall c k false (x 0) (x 1) a
      | 11 => onDescriptor s k (x 0)
          (if (x 1).toNat = 0 ∨ 256 < (x 1).toNat then callDone s (callError 5) else answered s a (fun r => decide (r = 0)) s)
      | 12 => onDescriptor s k (x 0)
          (if x 1 = 0 then newDescriptor s k a s
           else if !addressOk (padTo 32 (a.data.take 32)) then none
           else s.writeCall c (x 1) 32 (fun put => newDescriptor s k a (put (padTo 32 (a.data.take 32)))))
      | 13 => s.sendCall c k (x 0) (x 1) (x 2) a
      | 14 => s.receiveCall c k (x 0) (x 1) (x 2) a
      | 15 => if 1 < (x 0).toNat then callDone s (callError 5)
          else if x 0 = 0 then answered s a (fun r => decide (r < 2 ^ 63)) s
          else answered s a (fun r => decide (s.monotonic ≤ r) && decide (r < 2 ^ 63)) { s with monotonic := a.result.toNat }
      | _ => callDone s (callError 10)

/-- The lanes' calls in increasing lane order. -/
def State.laneCalls (s : State) (c : Caller) (n : Nat) : List (Nat × SysAnswer) → Option (State × List Word)
  | [] => some (s, [])
  | (l, a) :: rest =>
    match s.laneCall c n (fun k => callArg s c.f.gang c.f.group k l) a with
    | none => none
    | some (s1, r) => (s1.laneCalls c n rest).map (fun y => (y.1, r :: y.2))

/-! ## The events (16 R302, R304) -/

/-- The split of a group that stands in a system call. -/
def State.callFocus (s : State) (gang group : Nat) : Option Focus :=
  match s.gang? gang with
  | none => none
  | some g =>
    let own := match g.handler, g.halt with
      | some sp, some h => decide (sp.status = Status.waiting .syscall) && h.group == group
      | _, _ => false
    if own then some { gang := gang, group := group, split := 4 }
    else
      match g.group? group with
      | none => none
      | some x => (x.liveSplits.find? (fun (y : Nat × Split) => decide (y.2.status = Status.waiting .syscall))).map (fun (y : Nat × Split) =>
          { gang := gang, group := group, split := y.1 })

/-- Results are in: they are written, and in a pair logged and forwarded; the group goes on. -/
def State.endCall (s : State) (f : Focus) (lanes : LaneMask) (vals : List Word) : State :=
  let s1 := match (s.gang? f.gang).bind (fun g => g.pair) with
    | some p => match p.granted.find? (fun (e : Nat × W32) => e.1 == pairKey f.group lanes) with
      | some e => s.logEffect f.gang p.other (pairKey f.group lanes) e.2 vals
      | none => s
    | none => s
  finishCall f lanes vals (s1.modSplit f (fun sp => { sp with status := .ready }))

/-- Ezden performs the calls of the group that waits; exit ends the context. -/
def State.performCall (s : State) (gang group : Nat) (allowed : Nat → Bool) (answers : Nat → List SysAnswer) : Option State :=
  match s.gang? gang, s.callFocus gang group with
  | some g, some f =>
    match s.instrAt f, s.split? f with
    | .syscall x, some sp =>
      let n := x.n.toNat
      let lanes := lanesOf sp.lanes
      let as := answers lanes.length
      if g.pairStopped || !g.moves || !allowed n || decide (as.length ≠ lanes.length) then none
      else if n = 16 then
        let status := callArg s gang group 0 (lanes.headD 0)
        some ((s.appendEvent g.ctx (eventEntry 0x85 0 0 0 status)).terminate g.ctx)
      else
        (s.laneCalls { g := g, f := f } n (lanes.zip as)).map (fun y => (s.eager y.1).endCall f sp.lanes y.2)
    | _, _ => none
  | _, _ => none

/-- SYSCALL_COMPLETE. -/
def execSyscallComplete (e : EvSyscall) (s : State) : Host.Outcome State Fault Refusal :=
  happens s (s.performCall e.gang e.group (fun _ => true) (fun _ => e.answers))

/-- SYSCALL_TIMEOUT: accept, connect or recv has waited 100 ms. -/
def execSyscallTimeout (e : EvGroup) (s : State) : Host.Outcome State Fault Refusal :=
  happens s (s.performCall e.gang e.group (fun n => n = 10 || n = 12 || n = 14)
    (fun n => List.replicate n { result := callError 11, data := [] }))

end Sys2Proof.Machine
end

