-- ==== Sys2Proof/Machine/ErrorEvents.lean ====
section
/-! DEFINITION. Errors and their containment (17 R312-R316), injections (R327), the replay queue (R318), lost chips and links (R312, R326). -/

namespace Sys2Proof.Machine

/-! ## The end of a thread (17 R315; 04 R85; 10 R193) -/

/-- The thread in a lane has gone from the gang: its place in the sequence, its place in the channels' epochs, the holes it leaves: one for
each channel on which it has not appended in this epoch, counted once (DESIGN CHOICE, log 111: later epochs do not count the dead lane again). -/
def Gang.dropThread (g : Gang) (slot lane : Nat) : Gang :=
  let x : SeqItem := .lane slot lane
  let mark : SeqItem := .ended (32 * slot + lane + 8192 * g.nextSeq)
  let waits := g.channels.toList.any (fun c => c.waiting.any (fun e => decide (e.place = x)))
  let chan := fun (i : Nat) (c : Channel) =>
    { c with
      done := c.done.filter (fun d => d ≠ (slot, lane))
      waiting := c.waiting.map (fun e => if e.place = x then { e with place := mark } else e)
      holes := if g.task.chan.testBit i && !c.done.contains (slot, lane) then c.holes + 1 else c.holes }
  { g with
    seq := if waits then g.seq.map (fun y => if y = x then mark else y) else g.seq.filter (fun y => y ≠ x)
    nextSeq := g.nextSeq + 1, channels := Vector.ofFn (fun i => chan i.val g.channels[i]) }

/-- The registers of a lane read as 0. -/
def State.zeroLane (s : State) (g : Gang) (slot lane : Nat) : State :=
  { s with vat := (List.range g.task.w).foldl (fun (m : Memory) r => m.clear (vatKey g.core (g.window slot) + 128 * r + 4 * lane) 4) s.vat }

/-- The split that a rendezvous or a BECOME names still stands there. -/
def State.stands (s : State) (gang slot split : Nat) (w : Wait → Bool) : Bool :=
  match s.split? { gang := gang, group := slot, split := split } with
  | some sp => match sp.status with
    | .waiting x => w x
    | _ => false
  | none => false

/-- What splits of a group that have retired left outside it: links to objects, arrivals at a rendezvous, requests to the deckle. -/
def State.tidyGroup (s : State) (gang slot : Nat) : State :=
  let gone := fun (w : CollWait) => w.gang == gang && w.slot == slot && decide (w.split < 4) && !s.stands gang slot w.split (fun x => match x with
    | .coll _ => true
    | _ => false)
  let s1 := ((s.collWaits.filter gone).foldl State.dropArrival s).tidyWaiters gang slot
  { s1 with
    cores := s1.cores.map (fun c =>
      { c with deckle := c.deckle.filter (fun r => !(r.gang == gang && r.group == slot) || s.stands gang slot r.split.val (fun x => decide (x = .become))) }) }

/-- What a group leaves outside itself goes with it; a halt whose trap it raised is lifted. -/
def State.dropGroup (s : State) (gang slot : Nat) : State :=
  let s1 := (s.retireGroup gang slot).tidyGroup gang slot
  let s2 : State := { s1 with cores := s1.cores.map (fun c => { c with replay := c.replay.filter (fun e => !(e.gang == gang && e.group == slot)) }) }
  match (s2.gang? gang).bind (fun g => g.halt) with
  | some h => if h.group = slot then s2.liftHalt gang else s2
  | none => s2

/-- A lane leaves the handler split, or the part of it that holds the lane; the next part goes on where none is left (16 R298). -/
def Gang.cutHandler (g : Gang) (lane : Nat) : Gang :=
  let cut := fun (sp : Split) => if sp.lanes &&& ~~~ (laneBit lane) = 0 then none else some { sp with lanes := sp.lanes &&& ~~~ (laneBit lane) }
  match (g.handler.toList ++ g.handlerRest).filterMap cut with
  | [] => { g with handler := none, handlerRest := [] }
  | sp :: rest => { g with handler := some sp, handlerRest := rest }

/-- The lane of a group is dead: it leaves its split, and its predicates read as 0 (10 R193). -/
def Group.killLane (x : Group) (lane : Nat) : Group :=
  { (x.keepLanes (~~~ (laneBit lane))) with dead := x.dead ||| laneBit lane, p := x.p.map (fun m => m &&& ~~~ (laneBit lane)) }

/-- A thread is killed: its lane is dead; the last one takes its group with it. None while the group's outstanding work has to be waited for. -/
def State.killThread (s : State) (gang slot lane : Nat) : Option State :=
  match s.gang? gang, s.group? gang slot with
  | some g, some x =>
    let last := decide (x.live &&& ~~~ (laneBit lane) = 0)
    let s1 := (s.zeroLane g slot lane).modGang gang (fun g =>
      let y := g.dropThread slot lane
      if (y.halt.map (fun h => h.group)) = some slot then y.cutHandler lane else y)
    if last then (s1.settleStores gang slot).map (fun s2 => s2.dropGroup gang slot)
    else some (((s1.modGroup gang slot (fun x => x.killLane lane)).tidyGroup gang slot).deadlockCheck gang slot)
  | _, _ => none

/-- Every live thread of a group is killed, and the group retires. -/
def State.killGroup (s : State) (gang slot : Nat) : Option State :=
  match s.group? gang slot with
  | none => none
  | some x =>
    let s1 := (lanesOf x.live).foldl (fun (s : State) l => s.modGang gang (fun g => g.dropThread slot l)) s
    (s1.settleStores gang slot).map (fun s2 => s2.dropGroup gang slot)

/-- A pair rolls back in place of the loss of a thread, a group or the gang (17 R325). -/
def State.orRollback (s : State) (g : Gang) (o : Option (State × Nat)) : Option (State × Nat) :=
  if g.pair.isSome then some (s.contain g.id) else o

/-! ## Where an error strikes (17 R312) -/

/-- The tables of a page table. -/
def State.tablesFrom (s : State) : Nat → Nat → Nat → List (Nat × Nat)
  | 0, _, _ => []
  | n + 1, level, base =>
    (base, tableSize level) ::
    (((s.mem.cells.filter (fun c => decide (base ≤ c.1) && decide (c.1 < base + tableSize level))).map
      (fun c => (c.1 - base) / 8)).eraseDups).flatMap (fun i =>
        let e := s.entry base i
        if !e.testBit 0 ∨ e.testBit 1 ∨ n = 0 then [] else s.tablesFrom n (level + 1) (nextTable e))

/-- The context whose page table holds a physical address. -/
def State.tableOwner (s : State) (pa : Nat) : Option Nat :=
  (s.contexts.find? (fun c => (s.tablesFrom 4 0 c.root).any (fun t => decide (t.1 ≤ pa) && decide (pa < t.1 + t.2)))).map (fun c => c.tag)

/-- The gang whose allocation holds a vat address of a core. -/
def State.gangAt (s : State) (core a : Nat) : Option Gang :=
  s.gangs.find? (fun g => g.core == core && decide (g.base ≤ a) && decide (a < g.base + g.size))

/-- The register word at a vat address: its gang, group slot and lane. -/
def State.wordAt (s : State) (core a : Nat) : Option (Gang × Nat × Nat) :=
  match s.windowAt core a with
  | some (g, slot, off) => if off < 128 * g.task.w then some (g, slot, off % 128 / 4) else none
  | none => none

/-- What an uncorrectable error does, its owner tag, its die and core, and the OUTCOME of R316. -/
structure Struck where
  s : State
  owner : Nat
  die : Nat
  core : Nat
  outcome : Nat
  deriving DecidableEq, Repr

/-- The die of a line: of its home stack, two to a die. -/
def dieOfLine (pa : Nat) : Nat := pa / 2 ^ 36 / 2 % 4

/-- The die whose counters an error at a physical address raises: of its home stack, or for data of a peer or the host the die that has
found it. -/
def errorDie (pa die : Nat) : Nat := if pa < 2 ^ 48 then dieOfLine pa else die

/-- Half-lines that an error has destroyed: in a page table their context ends; else they are poisoned, and an error owned by 0xFFF ends every
context mapped into the shared domain (17 R312). -/
def State.strikeHalves (s : State) (pa die : Nat) (halves : List Nat) : Struck :=
  match s.tableOwner pa with
  | some tag => { s := s.terminateAll (s.ownedBy tag), owner := 0, die := errorDie pa die, core := noCore, outcome := 5 }
  | none =>
    let owner := s.ownerOf pa
    let t := halves.foldl State.poisonOwned s
    if owner = 0xFFF then
      { s := t.terminateAll (s.ownedBy owner), owner := owner, die := errorDie pa die, core := noCore, outcome := 5 }
    else { s := t, owner := owner, die := errorDie pa die, core := noCore, outcome := 6 }

/-- Both half-lines of the line at an address. -/
def lineHalves (pa : Nat) : List Nat := [pa / 128 * 2, pa / 128 * 2 + 1]

/-- A gang is struck. -/
def State.strikeGang (s : State) (g : Gang) : Struck :=
  let (t, out) := s.contain g.id
  { s := t, owner := g.ctx, die := s.part.dieOf g.core, core := g.core, outcome := out }

/-- A thread, a group: the pair rolls back, or `o` happens. -/
def State.strikeIn (s : State) (g : Gang) (o : Option State) (out : Nat) : Option Struck :=
  (s.orRollback g (o.map (fun t => (t, out)))).map (fun r =>
    { s := r.1, owner := g.ctx, die := s.part.dieOf g.core, core := g.core, outcome := r.2 })

/-- The register word at a vat address holds a thread's value. -/
def State.liveWord (s : State) (core a : Nat) : Bool :=
  match s.wordAt core a with
  | some (g, slot, lane) => (s.group? g.id slot).any (fun x => x.live.getLsbD lane)
  | none => false

/-- A register word: its thread is killed; a word of an empty or dead lane has no owner and is cleared. -/
def State.strikeWord (s : State) (core a : Nat) : Option Struck :=
  match s.wordAt core a with
  | none => none
  | some (g, slot, lane) =>
    if s.liveWord core a then s.strikeIn g (s.killThread g.id slot lane) 2
    else some { s := { s with vat := s.vat.clear (vatKey core (a / 4 * 4)) 4 }, owner := 0, die := s.part.dieOf core, core := core, outcome := 8 }

/-! ## The reserved range (03 R50; 18 R328, R339) -/

/-- Units of 64 KiB that a context's slots take of one stack's reserved range: two record areas, two image slots and two parity slots,
interleaved over the stacks; the record areas are there when the quota is 0 too. -/
def slotUnits (q : Nat) : Nat := 2 + 2 * ((q + 7) / 8) + 2 * (((q + 6) / 7 + 7) / 8)

/-- The context and the place among its units that a unit of a stack's reserved range belongs to: contexts stand in the order of their
creation, a context's record areas before its slots (DESIGN CHOICE, log 112). -/
def slotUnit : List Context → Nat → Option (Context × Nat)
  | [], _ => none
  | c :: cs, u => if u < slotUnits c.quota then some (c, u) else slotUnit cs (u - slotUnits c.quota)

/-- A place in a reserved range: the stack, the context, and its unit there. -/
def State.reservedAt (s : State) (pa : Nat) : Option (Nat × Context × Nat) :=
  let j := pa / 2 ^ 36
  let unit := pa % 2 ^ 36 / 2 ^ 16
  let m := s.part.mappable.toList.getD j 0
  if pa < 2 ^ 39 ∧ m ≤ unit then (slotUnit s.contexts (unit - m)).map (fun x => (j, x.1, x.2)) else none

/-- A slot after an error at one of its units: a record copy of a stack is lost, or the image or the parity no longer has the check values of its
record. -/
def CkptSlot.hit (k : CkptSlot) (j : Nat) (record : Bool) : CkptSlot := if record then { k with records := k.records.set j [] } else { k with struck := true }

/-- An error strikes a unit of a context's slots; the generation in the slot is torn. -/
def Context.hitSlot (c : Context) (j u : Nat) : Context :=
  let n := (c.quota + 7) / 8
  let i : Fin 2 := if u < 2 then Fin.ofNat 2 u else if u < 2 + 2 * n then Fin.ofNat 2 ((u - 2) / n) else Fin.ofNat 2 ((u - 2 - 2 * n) / (((c.quota + 6) / 7 + 7) / 8))
  { c with slots := c.slots.set i.val ((c.slots[i.val]).map (fun k => k.hit j (decide (u < 2)))) i.isLt }

/-- A half-line of memory at rest or in hand; one of a reserved range tears the generation that it is part of (18 R339). -/
def State.strikeHalf (s : State) (pa die : Nat) : Struck :=
  match s.reservedAt pa with
  | some (j, c, u) => { s := s.modCtx c.tag (fun y => y.hitSlot j u), owner := c.tag, die := errorDie pa die, core := noCore, outcome := 6 }
  | none => s.strikeHalves pa die [pa / 64]

/-- A cache line: an update-only line, or one that is dirty (which the model leaves open, log 14), is poisoned; else it is fetched again. -/
def State.strikeCache (s : State) (pa die : Nat) : Struck :=
  let u := s.partials.any (fun p => p.addr / 128 == pa / 128)
  let (s1, bs) := s.drawBytes 1
  if u ∨ (bs.headD 0).getLsbD 0 then (s1.mergeLine (pa / 128)).strikeHalves pa die (lineHalves pa)
  else { s := s1, owner := s.ownerOf pa, die := errorDie pa die, core := noCore, outcome := 1 }

/-- A TLB or miss-table entry of a die is dropped, and walked again; entries are numbered through the L2 TLB, the miss table and the cores'
TLBs (DESIGN CHOICE, log 115). -/
def State.strikeEntry (s : State) (die i : Nat) : Option Struck :=
  let d := s.die? die
  let n := d.tlb.length
  let w := d.walks.length
  let hit := fun (s : State) (owner core : Nat) => ({ s := s, owner := owner, die := die, core := core, outcome := 1 } : Struck)
  match d.tlb[i]?, d.walks[i - n]? with
  | some e, _ => some (hit (s.modDie die (fun d => { d with tlb := d.tlb.eraseIdx i })) e.1 noCore)
  | none, some x => some (hit (s.modDie die (fun d => { d with walks := d.walks.set (i - n) { x with started := false } })) x.ctx noCore)
  | none, none =>
    let all := (s.part.coresOf die).flatMap (fun c => (enumFrom 0 (s.core? c).tlb).map (fun e => (c, e.1, e.2.1)))
    (all[i - n - w]?).map (fun e => hit (s.modCore e.1 (fun c => { c with tlb := c.tlb.eraseIdx e.2.1 })) e.2.2 e.1)

/-- The gang whose engine command has a number: a command, or a stream engine that runs. -/
def State.commandGang (s : State) (id : Nat) : Option Gang :=
  match s.commands.find? (fun c => c.id == id) with
  | some c => s.gang? c.gang
  | none =>
    (s.cores.flatMap (fun c => c.streams.toList)).findSome? (fun st => if st.state = .run ∧ st.seq = id then s.gang? st.holder else none)

/-- The core an error names exists (00 R2). -/
def State.coreThere (s : State) (core : Nat) : Bool := decide (core < s.part.coreCount)

/-- The outcome of an uncorrectable error by STRUCT. An injection of STRUCT 1 may name any line of the allocation (17 R327). -/
def State.strike (s : State) (e : EvError) (injected : Bool) : Option Struck :=
  match e.struct.val with
  | 0 => if s.coreThere e.core then s.strikeWord e.core e.loc else none
  | 1 => if !s.coreThere e.core || (!injected && (s.wordAt e.core e.loc).isSome) then none else (s.gangAt e.core e.loc).map s.strikeGang
  | 2 => if e.loc < 2 ^ 50 then some (s.strikeHalf e.loc e.die.val) else none
  | 3 | 4 => (s.gang? e.gang).bind (fun g => if (s.reservation? g).isSome then some (s.strikeGang g) else none)
  | 5 | 6 => if e.loc < 2 ^ 50 then some (s.strikeCache e.loc e.die.val) else none
  | 7 => if e.loc < 2 ^ 50 then some (s.strikeHalves e.loc e.die.val (lineHalves e.loc)) else none
  | 8 => s.strikeEntry e.die.val e.loc
  | 9 => some { s := s, owner := s.ownerOf e.loc, die := e.die.val, core := noCore, outcome := 1 }
  | 10 => (s.commandGang e.loc).map s.strikeGang
  | 11 => (s.gang? e.gang).bind (fun g => s.strikeIn g (s.killGroup g.id e.group) 3)
  | 12 => (s.gang? e.gang).map s.strikeGang
  | _ =>
    if s.coreThere e.core ∧ (s.gangAt e.core e.loc).isNone then
      some { s := s, owner := 0, die := s.part.dieOf e.core, core := e.core, outcome := 1 }
    else none

/-- An uncorrectable error: its outcome, its record, its counter. -/
def State.uncorrectable (s : State) (e : EvError) (cls : Nat) : Option State :=
  (s.strike e (decide (cls ≠ 0))).map (fun r =>
    (r.s.logError e.struct.val (cls + 1 + 2 * bit e.hard) r.owner r.die r.core e.loc r.outcome).countError r.die e.struct.val 2)

def execUncorrectableError (e : EvError) (s : State) : Host.Outcome State Fault Refusal := happens s (s.uncorrectable e 0)

/-- The owner of a location, and its die and core, where an error is corrected in place. -/
def State.errorPlace (s : State) (e : EvError) : Nat × Nat × Nat :=
  match e.struct.val with
  | 0 | 1 =>
    let owned := decide (e.struct.val = 1) || s.liveWord e.core e.loc
    (if owned then ((s.gangAt e.core e.loc).map (fun g => g.ctx)).getD 0 else 0, s.part.dieOf e.core, e.core)
  | 2 | 5 | 6 | 7 => (s.ownerOf e.loc, errorDie e.loc e.die.val, noCore)
  | 3 | 4 | 10 | 11 | 12 => match s.gang? e.gang with
    | some g => (g.ctx, s.part.dieOf g.core, g.core)
    | none => (0, e.die.val, noCore)
  | 13 => (0, s.part.dieOf e.core, e.core)
  | _ => (0, e.die.val, noCore)

/-- A structure that a core which exists holds. -/
def State.placeThere (s : State) (e : EvError) : Bool := !decide (e.struct.val ∈ [0, 1, 13]) || s.coreThere e.core

/-- CORRECTABLE_ERROR (17 R316): soft or hard; a hard one is recorded. -/
def State.correctable (s : State) (e : EvError) (cls : Nat) : State :=
  let (owner, die, core) := s.errorPlace e
  let s1 := s.countError die e.struct.val (bit e.hard)
  if e.hard then s1.logError e.struct.val (cls + 2) owner die core e.loc 0 else s1

def execCorrectableError (e : EvError) (s : State) : Host.Outcome State Fault Refusal :=
  happens s (if s.placeThere e then some (s.correctable e 0) else none)

/-! ## Injections (17 R327) -/

/-- What an injection of KIND 1 or 2 strikes. -/
def State.injectionError (s : State) (g : Gang) (i : Injection) : Option EvError :=
  let at_ := fun (loc : Nat) =>
    ({ struct := Fin.ofNat 14 i.struct, gang := g.id, group := i.group, die := Fin.ofNat 4 (s.part.dieOf g.core), core := g.core, loc := loc
       hard := false } : EvError)
  if i.struct = 2 then
    match s.translate (homeWho g.ctx) .write i.target with
    | .ok x => some (at_ x.pa)
    | .error _ => none
  else some (at_ i.target.toNat)

/-- The target of an injection is still there. -/
def State.targetThere (s : State) (e : EvError) : Bool :=
  match e.struct.val with
  | 0 => (s.wordAt e.core e.loc).isSome
  | 1 => (s.gangAt e.core e.loc).isSome
  | 3 => (s.gang? e.gang).any (fun g => (s.reservation? g).isSome)
  | _ => true

/-- INJECTION_FIRE: the group has issued its N instructions. An injection whose target is gone strikes nothing; one whose outcome has to wait for
the group's outstanding work stays armed until then. -/
def execInjectionFire (e : EvInject) (s : State) : Host.Outcome State Fault Refusal :=
  happens s (match s.gang? e.gang with
    | none => none
    | some g =>
      match g.injections[e.idx]? with
      | none => none
      | some i =>
        if !i.live ∨ i.remaining ≠ 0 ∨ i.kind = 0 then none
        else
          let s1 := s.modGang e.gang (fun g => { g with injections := g.injections.eraseIdx e.idx })
          match s1.injectionError g i with
          | none => some s1
          | some x =>
            if i.kind = 1 then some (s1.correctable x 4)
            else if s1.targetThere x then s1.uncorrectable x 4
            else some s1)

/-! ## The replay queue (17 R318, R319) -/

/-- What an entry holds is written: to its registers, to its place in a carry queue, or through its port; none while the port is not ready. -/
def State.writeReplayed (s : State) (r : ReplayEntry) : Option State :=
  let lows := r.load.vals.map (fun (v : Nat × Nat × W32) => (v.2.1, v.2.2))
  match r.port, r.load.carry with
  | some q, _ =>
    match s.gang? r.gang, s.group? r.gang r.group with
    | some g, some x =>
      let c : Iss :=
        { s := s, gang := g, grp := x, sp := Split.start 0 r.load.lanes 0, f := { gang := r.gang, group := r.group, split := 0 }, exec := r.load.lanes
          len := 0 }
      (pushPort c s q (fun l => ((lows.find? (fun v => v.1 == l)).map Prod.snd).getD 0)).toOption
    | _, _ => some s
  | none, some (k, place) => some (fillCarry s r.gang r.group (Fin.ofNat 8 k) place lows)
  | none, none => some (r.load.vals.foldl (fun (s : State) (v : Nat × Nat × W32) => s.setLane r.gang r.group v.1 v.2.1 v.2.2) s)

/-- REPLAY_QUEUE_EXECUTION: the oldest entry of a partition executes again for the unpaired lanes; a flip is outvoted, and the destinations are
written. -/
def execReplayQueueExecution (e : EvCoreIdx) (s : State) : Host.Outcome State Fault Refusal :=
  let q := (s.core? e.core).replay
  happens s (match q[e.idx]? with
    | none => none
    | some r =>
      if (q.take e.idx).any (fun x => x.partition == r.partition) then none
      else
        ((s.modCore e.core (fun c => { c with replay := c.replay.eraseIdx e.idx })).writeReplayed r).map (fun t =>
          countResolved t e.core r.wrong))

/-! ## Chips and links (17 R312, R326; 05 R102) -/

/-- A half-line that a link could not deliver, or a line whose only copy is gone. -/
def State.loseLine (s : State) (line : Nat) : State :=
  let s1 : State := if s.lost.contains line then s else { s with lost := line :: s.lost }
  s1.terminateAll (s1.eagerOwners (s1.ownerOf (128 * line)))

/-- PEER_CHIP_LOSS: lines whose only modified copy it held are LOST; its collective commands leave unwritten lines poisoned, a
seal of its groups ends with its slot torn (18 R339). -/
def execPeerChipLoss (e : EvPeerLoss) (s : State) : Host.Outcome State Fault Refusal :=
  happens s (if s.part.lostPeers.contains e.chip ∨ !(s.part.peers.any (fun p => p.1 == e.chip)) then none
    else
      let mine := fun (k : CmdKind) => match k with
        | .coll g => s.collGroups.any (fun (y : CollGroup) => y.id == g && y.chips.contains e.chip)
        | _ => false
      let s1 : State := { s with
        part := { s.part with lostPeers := e.chip :: s.part.lostPeers }
        commands := s.commands.map (fun (c : Command) =>
          if mine c.kind then { c with lines := c.lines.map (fun (l : CmdLine) => { l with bad := true }) } else c) }
      let mineToo := fun (x : Seal) => s.collGroups.any (fun (y : CollGroup) => y.id == x.wait.group && y.chips.contains e.chip)
      let s2 := (s1.seals.filter mineToo).foldl (fun (s : State) x => s.endSeal x false) s1
      some ((e.lost.filter (fun l => decide (l < 2 ^ 41))).foldl State.loseLine s2))

/-- HALUF_RETRANSMIT: a packet is sent again; after the eighth failure its data is poisoned. -/
def execHalufRetransmit (e : EvRetransmit) (s : State) : Host.Outcome State Fault Refusal :=
  let pa := 64 * e.half
  let r : Struck := if e.failed then s.strikeHalves pa (dieOfLine pa) [e.half] else
    { s := s, owner := s.ownerOf pa, die := dieOfLine pa, core := noCore, outcome := 1 }
  happens s (some ((r.s.logError 9 1 r.owner r.die noCore pa r.outcome).countError r.die 9 2))

end Sys2Proof.Machine
end

