-- ==== Sys2Proof/Machine/PairEvents.lean ====
section
/-! DEFINITION. Events of redundant pairs: SIGNATURE_MATCH (17 R322, R323), PAIR_ROLLBACK (R324; 24 R368), PAIR_RESTORE (18 R334); and a gang read back from its state area (18 R332, R334, R340). -/

namespace Sys2Proof.Machine

/-- The lead, the trail and their pair fields, named by either copy. -/
structure PairOf where
  lead : Gang
  trail : Gang
  p : Pair
  q : Pair
  deriving DecidableEq, Repr

def State.pairOf (s : State) (id : Nat) : Option PairOf :=
  match s.gang? id with
  | none => none
  | some g =>
    match g.pair with
    | none => none
    | some p =>
      match s.gang? p.other with
      | none => none
      | some o =>
        match o.pair with
        | none => none
        | some q => if p.role = .lead then some { lead := g, trail := o, p := p, q := q } else some { lead := o, trail := g, p := q, q := p }

/-! ## Signatures (17 R322, R323) -/

/-- The oldest signature of an issuer that has none before it. -/
def firstSig (key : Nat) (l : List (Nat × W32 × Bool)) : Option (W32 × Bool) := (l.find? (fun e => e.1 == key)).map (fun e => e.2)

/-- An issuer whose oldest signatures in the two copies are there, with them. -/
def meetings (a b : List (Nat × W32 × Bool)) : List (Nat × (W32 × Bool) × (W32 × Bool)) :=
  (a.map (fun e => e.1)).eraseDups.filterMap (fun k => match firstSig k a, firstSig k b with
    | some x, some y => some (k, x, y)
    | _, _ => none)

/-- SIGNATURE_MATCH: the oldest matching signatures leave both copies; an effect that was held is released. -/
def State.matchSigs (s : State) (id : Nat) : Option State :=
  match s.pairOf id with
  | none => none
  | some o =>
    if o.p.state = .rollback ∨ o.p.state = .terminated then none
    else
      ((meetings o.p.sigs o.q.sigs).find? (fun m => decide (m.2.1 = m.2.2))).map (fun m =>
        let release := fun (p : Pair) =>
          { p with
            sigs := dropKey m.1 p.sigs
            granted := if m.2.1.2 then p.granted ++ [(m.1, m.2.1.1)] else p.granted }
        (s.modPair o.lead.id release).modPair o.trail.id release)

def execSignatureMatch (e : EvGang) (s : State) : Host.Outcome State Fault Refusal := happens s (s.matchSigs e.gang)

/-! ## Mismatches (17 R324; 24 R368) -/

/-- The instructions a group of a gang has issued. -/
def Gang.issuedBy (g : Gang) (slot : Nat) : Nat :=
  match g.group? slot with
  | some x => x.issued
  | none => 0

/-- The halt of a trap that has not reached its handler. -/
def Gang.trapped (g : Gang) : Option Halt := g.halt.bind (fun h => if h.phase = .handling then none else some h)

/-- The trail's group waits for what the lead would send, and the lead's trap is not one that it sends. -/
def Gang.awaitsLead (t : Gang) (q : Pair) (slot : Nat) : Bool :=
  match t.group? slot with
  | none => false
  | some x => x.liveSplits.any (fun y => (match y.2.status with
      | .stalled .lead _ => true
      | _ => false) && (q.next (pairKey slot y.2.lanes)).isNone && (q.next (trapKey (pairKey slot y.2.lanes))).isNone)

/-- The copies trap differently at one instruction, or one traps where the other goes on. -/
def trapMismatch (g t : Gang) (q : Pair) : Bool :=
  let delivered := q.loadq.filter (fun e => decide (handlerKey 0 ≤ e.1))
  let byTrail := match t.trapped with
    | none => false
    | some h =>
      match q.next (handlerKey h.group) with
      | some v => decide (v ≠ t.delivery h)
      | none =>
        match g.trapped with
        | some k =>
          decide (k.group = h.group) && decide (g.trapCount k = t.trapCount h) &&
            !(decide (k.trap.cause = h.trap.cause) && decide (k.trap.sub = h.trap.sub))
        | none => decide (t.trapCount h < g.issuedBy h.group)
  let ahead := delivered.any (fun e =>
    decide ((e.2.getD 2 0).toNat < t.issuedBy (e.1 - handlerKey 0)) && !(match t.trapped with
      | some h => decide (handlerKey h.group = e.1)
      | none => false))
  let passed := match g.trapped with
    | some k => (decide (g.trapCount k < t.issuedBy k.group) || (decide (g.trapCount k = t.issuedBy k.group) && t.awaitsLead q k.group)) &&
      !(match t.trapped with
        | some h => decide (h.group = k.group)
        | none => false)
    | none => false
  byTrail || ahead || passed

/-- PAIR_ROLLBACK: a mismatch stops both copies; a pair that cannot roll back ends its context. -/
def State.pairRollback (s : State) (id : Nat) : Option State :=
  match s.pairOf id with
  | none => none
  | some o =>
    match o.p.state with
    | .terminated => some (s.terminate o.lead.ctx)
    | .rollback => if o.p.plog then some (s.terminate o.lead.ctx) else none
    | _ =>
      if (meetings o.p.sigs o.q.sigs).any (fun m => decide (m.2.1 ≠ m.2.2)) || trapMismatch o.lead o.trail o.q then
        some (s.rollback o.lead.id o.trail.id)
      else none

def execPairRollback (e : EvGang) (s : State) : Host.Outcome State Fault Refusal := happens s (s.pairRollback e.gang)

/-! ## A gang read back from its area (18 R332, R334, R340) -/

/-- The bytes of a virtual range as Ezden reads them; none where a page is missing or a byte is poisoned or lost. -/
def State.virtBytes (s : State) (ctx : Nat) (va : Word) : Nat → Option (List Byte)
  | 0 => some []
  | n + 1 =>
    match s.translate (homeWho ctx) .read va with
    | .error _ => none
    | .ok x => if s.tainted x.pa 1 then none else (s.virtBytes ctx (va + 1) n).map (fun bs => s.mem.read x.pa :: bs)

/-- The parts of the area at a virtual address; none where MAGIC, LEN or HCRC is wrong. -/
def State.readArea (s : State) (ctx : Nat) (va : Word) : Option AreaParts :=
  match s.virtBytes ctx va 16 with
  | none => none
  | some h =>
    match s.virtBytes ctx va (fieldAt h 4 4) with
    | none => none
    | some bs => if areaOk bs then some (areaParts bs) else none

/-- The base of the vat block the area was written from: where the part has kept it, that; else what s255 of the area's first group gives
(DESIGN CHOICE, log 113). -/
def AreaParts.base (p : AreaParts) (kept : Option Nat) : Nat :=
  match kept, p.groups with
  | some b, _ => b
  | none, [] => 0
  | none, b :: _ => ((Group.ofArea b 0).s[255].toNat % 2 ^ 23) - (Group.ofArea b 0).slot * p.task.slotSize

/-- Groups, their threads in the gang sequence, and control registers from an area; vat addresses refer to the gang's own block. Elements
that the gang appended before stay with their channels. -/
def Gang.fromArea (g : Gang) (p : AreaParts) (n0 : Nat) (gids : BitVec 16) (kept : Option Nat) : Gang :=
  let xs := p.groups.map (fun b => (Group.ofArea b g.age).rebase (shiftFrom (p.base kept) g.size g.base) n0)
  { g with
    groups := xs, seq := xs.flatMap (fun x => (lanesOf x.live).map (fun l => SeqItem.lane x.slot l)), nextGid := gids
    pend := [], snaps := [], channels := g.channels.map (fun c => { c with done := [] })
    csr := Csrs.ofBytes p.csr g.csr.hframe, halt := none, handler := none, handlerRest := [] }

/-- The press state of an area. -/
def AreaParts.reservation (p : AreaParts) (gang : Nat) : Option Reservation :=
  if p.press.isEmpty then none else some (Reservation.ofBytes gang p.press)

/-- The stash units of an area, mapped again with every line INVALID; a unit whose page has gone stays unmapped. -/
def State.areaUnits (s : State) (g : Gang) (p : AreaParts) : List StashUnit :=
  (List.range g.task.stash).filterMap (fun j =>
    let b := p.tags.drop (16 * j)
    let va := BitVec.ofNat 64 (fieldAt b 0 8)
    let fl := fieldAt (b.drop 8) 0 1
    if !fl.testBit 0 then none
    else
      match s.translate (homeWho g.ctx) .read va with
      | .error _ => none
      | .ok x => some { vat := g.stashBase + 4096 * j, va := va, phys := x.pa, wr := fl.testBit 1
                        coh := x.region == 2 && !isHost x.pa, dur := x.dur, gang := g.id, lines := [], cut := false })

/-- What an area puts on a core: the vat block without poison, the stash units, the press state, the gang's registers, whose vat addresses refer
to its own block. -/
def State.fillGang (s : State) (id : Nat) (p : AreaParts) (gids : BitVec 16) (kept : Option Nat) : State :=
  match s.gang? id with
  | none => s
  | some g =>
    let a := vatKey g.core g.base
    let s1 : State := { s with
      vat := (s.vat.clear a g.size).writeBytes a (p.vat.take g.size)
      vatPoison := s.vatPoison.filter (fun l => decide (128 * l < a) || decide (a + g.size ≤ 128 * l))
      free := s.free + rebaseSpan }
    let s2 := s1.modCore g.core (fun c => { c with stash := c.stash ++ s1.areaUnits g p })
    let s3 := s2.modPress g.press (fun r => { r with reservations := r.reservations ++ (p.reservation id).toList })
    let s4 := s3.modGang id (fun g => g.fromArea p s.free gids kept)
    match s4.gang? id with
    | some y => s4.rebaseWindows (shiftFrom (p.base kept) g.size g.base) s.free y
    | none => s4

/-! ## The restore of a pair (18 R334) -/

/-- What a copy will hold. -/
def State.heldAfter (s : State) (g : Gang) (p : AreaParts) : Saved :=
  { gang := g.id, die := s.part.dieOf g.core, stash := [], streams := [], deckle := [], replay := [], reservation := p.reservation g.id }

/-- Where a copy is restored: a damaged one on a fresh core, the other where it is. -/
def State.restorePlace (s : State) (g : Gang) (h : Saved) (damaged : Bool) : Option (Nat × Nat) :=
  if damaged then s.newPlace g h h.die else if s.landsOn g h g.core then some (g.core, g.base) else none

/-- One copy restored from the lead's area. -/
def State.restoreCopy (s : State) (id : Nat) (damaged : Bool) (p : AreaParts) (base : Nat) : Option State :=
  match s.gang? id with
  | none => none
  | some g =>
    let s1 := s.lift g
    (s1.restorePlace g (s1.heldAfter g p) damaged).map (fun at_ =>
      let gids := match g.pair with
        | some q => q.gids
        | none => g.nextGid
      let move := fun (x : Gang) => let y := if damaged then x.assign { s1 with gangs := s1.gangs.filter (fun z => z.id ≠ id) } at_.1 else x
        { y with core := at_.1, base := at_.2 }
      let s2 : State := { (s1.modGang id move) with arrivals := s1.arrivals.filter (fun a => a.gang ≠ id) }
      s2.fillGang id p gids (some base))

/-- Both copies enter REPLAY. -/
def Pair.replaying (p : Pair) : Pair :=
  { p with state := .replay, loadq := [], sigs := [], granted := [], count := 0, damaged := false, acted := 0 }

/-- What stays of a copy that starts again from its record: effects released or held before, armed injections, the pair log. -/
def Gang.restarted (old new : Gang) : Gang :=
  { new with
    effects := old.effects, nr := old.nr, nrOverflow := old.nrOverflow, nrRemoval := old.nrRemoval
    channels := old.channels.map (fun c => { c with done := [] }), injections := old.injections, refused := old.refused
    pair := old.pair.bind (fun p => new.pair.map (fun q => { p.replaying with other := q.other, gids := q.gids })) }

/-- A pair with no recovery point starts again from its record, placed afresh. -/
def State.restartPair (s : State) (g t : Gang) : Option State :=
  let s1 := (s.removeGang t).removeGang g
  (s1.placeTask (s.part.dieOf g.core) g.task (fun _ => true)).map (fun p =>
    let s2 := ({ s1 with nextGang := g.id } : State).startTask g.task p
    { ((s2.modGang g.id g.restarted).modGang t.id t.restarted) with nextGang := s.nextGang })

/-- PAIR_RESTORE: once every command of the pair and every released store has been performed. -/
def State.pairRestore (s : State) (id : Nat) : Option State :=
  match s.pairOf id with
  | none => none
  | some o =>
    if o.p.state ≠ .rollback ∨ o.p.plog ∨ s.commands.any (fun c => c.gang == o.lead.id || c.gang == o.trail.id) ∨
        o.lead.run = .saved ∨ o.trail.run = .saved then none
    else
      match s.fenceAll [o.lead.id, o.trail.id] with
      | none => none
      | some s1 =>
        if o.lead.rpt.gen = 0 then s1.restartPair o.lead o.trail
        else
          match s1.readArea o.lead.ctx o.lead.rpt.state with
          | none => some (s1.terminate o.lead.ctx)
          | some a =>
            match s1.restoreCopy o.lead.id o.p.damaged a o.lead.rpt.base with
            | none => none
            | some s2 =>
              (s2.restoreCopy o.trail.id o.q.damaged a o.lead.rpt.base).map (fun s3 =>
                (s3.modPair o.lead.id Pair.replaying).modPair o.trail.id Pair.replaying)

def execPairRestore (e : EvGang) (s : State) : Host.Outcome State Fault Refusal := happens s (s.pairRestore e.gang)

end Sys2Proof.Machine
end

