-- ==== Sys2Proof/Machine/RecoveryEvents.lean ====
section
/-! DEFINITION. Checkpoints and resets: CHECKPOINT_SEAL and SEAL_COMMIT (18 R336-R339, R341), DIE_RESET and CHIP_RESET (01 R9; 06 R136; 17 R312). -/

namespace Sys2Proof.Machine

/-! ## The image of a context (18 R336, R338, R341) -/

/-- The DUR pages a context owns, in increasing VA order: address, size code, frame, size. -/
def State.durPages (s : State) (c : Context) : List (Nat × Nat × Nat × Nat) :=
  ((s.leaves c.root).filter (fun l => l.2.2.testBit 4 && decide (l.2.2 / 2 ^ 52 = c.tag))).map (fun l =>
    (l.1, 3 - l.2.1, frameOf l.2.1 l.2.2, 2 ^ levelShift l.2.1))

/-- The gangs with a recovery point; of a pair, the lead. -/
def State.marked (s : State) (tag : Nat) : List Gang :=
  s.gangs.filter (fun g => g.ctx == tag && decide (g.rpt.gen ≠ 0) && !s.isTrail g.id)

/-- The RP table. -/
def State.rpTable (s : State) (tag : Nat) : List Byte :=
  (s.marked tag).flatMap (fun g =>
    leBytes 4 (g.id % 2 ^ 32) ++ leBytes 4 g.rpt.gen.toNat ++ leBytes 8 g.rpt.pc.toNat ++ leBytes 8 g.rpt.state.toNat ++ zeroBytes 8)

/-- The page list. -/
def State.pageList (s : State) (c : Context) : List Byte :=
  (s.durPages c).flatMap (fun p => leBytes 8 (p.1 / 2 ^ 16 * 2 ^ 16 + p.2.1))

/-- RP table and page list, as a slot holds them. -/
def State.sealTable (s : State) (c : Context) : List Byte := s.rpTable c.tag ++ s.pageList c

/-- The bytes of a table in an image. -/
def leadBytes (table : List Byte) : List Byte := padTo (roundUp table.length 65536) table

/-- EXTENT. -/
def State.imageSize (s : State) (c : Context) : Nat :=
  roundUp (s.sealTable c).length 65536 + ((s.durPages c).map (fun p => p.2.2.2)).foldl (· + ·) 0

/-- The image: the table, then the pages. -/
def State.image (s : State) (c : Context) : List Byte :=
  leadBytes (s.sealTable c) ++ (s.durPages c).flatMap (fun p => s.mem.readBytes p.2.2.1 p.2.2.2)

/-- The half-lines of the image whose bytes were poisoned or lost: their check values, copied with the page, do not match (03 R62). -/
def State.imageMarks (s : State) (c : Context) : List Nat :=
  let fill := fun (acc : Nat × List Nat) (p : Nat × Nat × Nat × Nat) =>
    let inside := fun (a : Nat) => decide (p.2.2.1 ≤ a) && decide (a < p.2.2.1 + p.2.2.2)
    let halves := (s.poison ++ s.lost.flatMap (fun l => [2 * l, 2 * l + 1])).filter (fun h => inside (64 * h))
    (acc.1 + p.2.2.2, acc.2 ++ (halves.map (fun h => (acc.1 + (64 * h - p.2.2.1)) / 64)).eraseDups)
  ((s.durPages c).foldl fill (roundUp (s.sealTable c).length 65536, [])).2

/-! ## Parity (18 R337) -/

/-- Bytes cut into half-lines. -/
def halfLines (bs : List Byte) : List (List Byte) := (List.range ((bs.length + 63) / 64)).map (fun i => (bs.drop (64 * i)).take 64)

/-- The check values of a slot's bytes, little-endian in half-line order (03 R60); a marked half-line has one that does not match, which the
manual does not give (log 14). -/
def checkValues (bs : List Byte) (marks : List Nat) : List Byte :=
  (enumFrom 0 (halfLines bs)).flatMap (fun h => leBytes 4 (if marks.contains h.1 then Config.badCheck (crc32c h.2) else crc32c h.2).toNat)

/-- ICRC or PCRC. -/
def slotCrc (bs : List Byte) (marks : List Nat) : Nat := (crc32c (checkValues bs marks)).toNat

/-- LP: the largest extent rounded up to a multiple of 7 x 64 KiB. -/
def padLength (extents : List Nat) : Nat := roundUp (extents.foldl max 0) (7 * 65536)

/-- A slice of an image padded to LP. -/
def imageSlice (lp : Nat) (image : List Byte) (i : Nat) : List Byte := ((padTo lp image).drop (i * (lp / 7))).take (lp / 7)

def xorBytes (a b : List Byte) : List Byte := List.zipWith (fun (x y : Byte) => x ^^^ y) a b

/-- The slice of image q that enters parity j. -/
def sliceOf (j q : Nat) : Nat := (j + 15 - q) % 8

/-- The XOR, over the images but those of `without`, of the slices that enter parity j. -/
def xorSlices (lp : Nat) (images : List (Nat × List Byte)) (j : Nat) (without : List Nat) : List Byte :=
  (images.filter (fun x => !without.contains x.1)).foldl (fun acc x => xorBytes acc (imageSlice lp x.2 (sliceOf j x.1))) (zeroBytes (lp / 7))

/-- P_j. -/
def parityOf (lp : Nat) (images : List (Nat × List Byte)) (j : Nat) : List Byte := xorSlices lp images j [j]

/-! ## The commit record (18 R338) -/

/-- The 128 bytes. -/
def commitRecord (gen ctx me group : Nat) (image : List Byte) (marks : List Nat) (parity : List Byte) (lp ngang npage : Nat) (clock : Word)
    (icrcs : List Nat) : List Byte :=
  let body := padTo 124
    (leBytes 4 0x434B5243 ++ leBytes 4 gen ++ leBytes 2 ctx ++ leBytes 1 me ++ leBytes 1 group ++ zeroBytes 4 ++ leBytes 8 image.length ++
     leBytes 8 lp ++ leBytes 4 (slotCrc image marks) ++ leBytes 4 (slotCrc parity []) ++ leBytes 4 ngang ++ leBytes 4 npage ++ leBytes 8 clock.toNat ++
     icrcs.flatMap (leBytes 4))
  body ++ leBytes 4 (crc32c body).toNat

/-- A copy of a commit record has the right MAGIC and RCRC and is of a generation. -/
def recordOkFor (gen : Nat) (r : List Byte) : Bool :=
  decide (r.length = 128) && decide (fieldAt r 0 4 = 0x434B5243) && decide (fieldAt r 124 4 = (crc32c (r.take 124)).toNat) && decide (fieldAt r 4 4 = gen)

/-- A generation is intact (18 R339): eight equal right copies of its record in the slot it names, whose ICRC and PCRC match the slot. -/
def CkptSlot.intact (k : CkptSlot) (i : Nat) : Bool :=
  match k.records with
  | [] => false
  | r :: rest =>
    decide (rest = List.replicate 7 r) && recordOkFor k.gen r && decide (k.gen % 2 = i) && !k.struck &&
    decide (fieldAt r 32 4 = slotCrc k.image k.marks) && decide (fieldAt r 36 4 = slotCrc k.parity [])

/-! ## CHECKPOINT_SEAL (18 R336) -/

/-- This chip's `ok`: no gang has DURPEND, the image fits the quota. -/
def State.sealOk (s : State) (c : Context) : Bool :=
  !(s.gangs.any (fun g => g.ctx == c.tag && g.rpt.durpend)) && decide (s.imageSize c ≤ c.quota * 65536)

/-- The slot of generation G + 1. -/
def Context.nextSlot (c : Context) : Fin 2 := Fin.ofNat 2 (c.committed + 1)

/-- What the seal writes to the slot before its record. -/
def State.newSlot (s : State) (c : Context) (cg : CollGroup) (peers : List PeerSeal) : CkptSlot :=
  let mine := s.image c
  let images := enumFrom 0 ((peers.take cg.me).map (fun p => p.image) ++ [mine] ++ (peers.drop cg.me).map (fun p => p.image))
  let lp := padLength (images.map (fun x => x.2.length))
  { gen := c.committed + 1, table := s.sealTable c, image := mine, marks := s.imageMarks c, parity := parityOf lp images cg.me, struck := false
    records := [], bases := (s.marked c.tag).map (fun g => (g.id, g.rpt.base)) }

/-- The commit record of a seal (R338). -/
def State.sealRecord (s : State) (c : Context) (cg : CollGroup) (peers : List PeerSeal) : List Byte :=
  let k := s.newSlot c cg peers
  let lp := padLength ((peers.map (fun p => p.image.length)) ++ [k.image.length])
  let icrcs := fun (ps : List PeerSeal) => ps.map (fun p => slotCrc p.image p.marks)
  commitRecord k.gen c.tag cg.me cg.id k.image k.marks k.parity lp (s.marked c.tag).length (s.durPages c).length (s.die? 0).clock
    (icrcs (peers.take cg.me) ++ [slotCrc k.image k.marks] ++ icrcs (peers.drop cg.me))

/-- The rendezvous of a CKSEAL: refused, or the image is copied. -/
def State.sealImage (s : State) (e : EvSeal) : Option State :=
  match s.collWaits.find? (fun w => w.group == e.group) with
  | none => none
  | some w =>
    match w.isSeal, s.gang? w.gang, s.collGroups.find? (fun g => g.id == e.group) with
    | some up, some g, some cg =>
      match s.ctx? g.ctx with
      | none => none
      | some c =>
        if e.peers.length ≠ 7 ∨ s.seals.any (fun x => x.wait.group == e.group) then none
        else
          let x : Seal := { ctx := c.tag, wait := w, record := s.sealRecord c cg e.peers }
          let s1 : State := { s with collWaits := s.collWaits.erase w }
          let s2 := if g.pair.isSome then s1
            else (s1.leaveColl w []).modGroup w.gang w.slot (fun y => { y with predWait := y.predWait ++ [(up.val, w.lanes)] })
          if s.sealOk c && e.peers.all (fun p => p.ok && decide (p.quota = c.quota)) then
            let k := s.newSlot c cg e.peers
            some { s2.modCtx c.tag (fun c => { c with slots := c.slots.set c.nextSlot.val (some k) c.nextSlot.isLt }) with seals := s2.seals ++ [x] }
          else
            some ((({ s2 with seals := s2.seals ++ [x] } : State).endSeal x false).modCtx c.tag (fun c => { c with sealRefusals := c.sealRefusals + 1 }))
    | _, _, _ => none

def execCheckpointSeal (e : EvSeal) (s : State) : Host.Outcome State Fault Refusal := happens s (s.sealImage e)

/-! ## SEAL_COMMIT (18 R336, R339) -/

/-- Rendezvous 2 is over: the records are written, and the generation is committed. -/
def State.commitSeal (s : State) (group : Nat) : Option State :=
  match s.seals.find? (fun x => x.wait.group == group) with
  | none => none
  | some x =>
    match s.ctx? x.ctx with
    | none => none
    | some c =>
      match c.slots[c.nextSlot.val] with
      | none => none
      | some k =>
        some ((s.modCtx c.tag (fun c =>
          { c with
            committed := k.gen
            slots := c.slots.set c.nextSlot.val (some { k with records := List.replicate 8 x.record }) c.nextSlot.isLt })).endSeal x true)

def execSealCommit (e : EvSealCommit) (s : State) : Host.Outcome State Fault Refusal := happens s (s.commitSeal e.group)

/-! ## Resets (01 R9; 06 R136) -/

/-- Bytes whose last write is not durable hold again what was durable: all, or those that an address test names. -/
def State.revert (s : State) (lost : Nat → Bool) : State :=
  { s with
    mem := (s.undurable.filter (fun c => lost c.1)).foldl (fun (m : Memory) c => m.write c.1 c.2) s.mem
    undurable := s.undurable.filter (fun c => !lost c.1) }

/-- What a reset does to a queue object of the die: its on-chip part starts again. -/
def QueueObj.restart (q : QueueObj) : QueueObj := { q with el := q.prio, timer := 0, waited := 0, holding := false, onchip := [] }

/-- Cores, presses, translations and L2 of a die start again; what ran there has ended with its context. -/
def State.resetDie (s : State) (die : Nat) : State :=
  let tags := ((s.gangs.filter (fun g => s.part.dieOf g.core == die)).map (fun g => g.ctx)).eraseDups
  let s1 := (s.terminateAll tags).revert (fun _ => true)
  let cs := s.part.coresOf die
  { s1 with
    partials := s1.partials.filter (fun p => p.die ≠ die)
    dies := if h : die < 4 then s1.dies.set die DieRec.reset else s1.dies
    cores := (enumFrom 0 s1.cores).map (fun c => if cs.contains c.1 then CoreRec.reset else c.2)
    presses := (enumFrom 0 s1.presses).map (fun p => if (cs.map clusterOf).contains p.1 then Press.reset else p.2)
    arrivals := s1.arrivals.filter (fun a => !cs.contains a.core)
    queues := s1.queues.map (fun q => if q.die = die then q.restart else q) }

/-- The LLC of stack j starts again (01 R9): writes to DUR pages of the stack that are not durable are lost, and the contexts that own such bytes
end (DESIGN CHOICE, log 89). -/
def State.resetBase (s : State) (j : Nat) : State :=
  let here := fun (a : Nat) => decide (a / 2 ^ 36 = j)
  let tags := (((s.undurable.filter (fun c => here c.1)).map (fun c => s.ownerOf c.1)).eraseDups).flatMap s.ownedBy
  (s.terminateAll tags).revert here

/-- The I/O die starts again: the endpoint, the collective engine and Ezden (01 R8). Contexts with a collective command under way end, every
function is as after reset, and the boot begins anew (DESIGN CHOICE, log 89). -/
def State.resetIo (s : State) : State :=
  let coll := fun (k : CmdKind) => match k with
    | .coll _ => true
    | _ => false
  let ids := (s.commands.filter (fun c => coll c.kind)).map (fun c => c.gang) ++ s.collWaits.map (fun w => w.gang) ++ s.seals.map (fun x => x.wait.gang)
  let s1 := s.terminateAll ((ids.filterMap s.gang?).map (fun g => g.ctx)).eraseDups
  { s1 with
    boot := { state := 0, patched := false, failure := 0 }, fns := List.replicate 17 Fn.reset, interrupts := [], completion := none
    collWaits := [], seals := [], powerCap := 2400, monotonic := 0 }

/-- DIE_RESET. -/
def execDieReset (e : EvReset) (s : State) : Host.Outcome State Fault Refusal :=
  happens s (some (match e.die with
    | .compute d => s.resetDie d.val
    | .base j => s.resetBase j.val
    | .io => s.resetIo))

/-- Everything but the memory base dies starts again: no context goes on, every function is as after reset, the boot begins anew. -/
def State.resetChip (s : State) : State :=
  let s1 := ((List.range 4).foldl State.resetDie (s.terminateAll (s.contexts.map (fun c => c.tag)))).resetIo
  { s1.revert (fun _ => true) with arrivals := [], forwards := [], saves := [], succs := [] }

def execChipReset (s : State) : Host.Outcome State Fault Refusal := happens s (some s.resetChip)

end Sys2Proof.Machine
end

