-- ==== Sys2Proof/Machine/Commands.lean ====
section
/-! DEFINITION. Ezden's commands (19 R348-R350): records and completions; negotiation, contexts, pages, code, queue objects (R349, R383, R264). -/

namespace Sys2Proof.Machine

/-! ## Command records (19 R348) -/

structure CmdRec where
  opc : Nat
  flags : Nat
  vec : Nat
  tag : Nat
  cpl : Nat
  bytes : List Byte
  deriving DecidableEq, Repr

def CmdRec.ofBytes (bs : List Byte) : CmdRec :=
  { opc := fieldAt bs 0 2, flags := fieldAt bs 2 1, vec := fieldAt bs 3 1, tag := fieldAt bs 4 4, cpl := fieldAt bs 8 8, bytes := bs }

/-- A field of ARGS, by its byte in the record. -/
def CmdRec.arg (r : CmdRec) (a n : Nat) : Nat := fieldAt r.bytes a n

/-- The bytes of ARGS that a command uses (19 R349): offset and length; none for an unknown OPC. -/
def argBytes (opc : Nat) : Option (List (Nat × Nat)) :=
  match opc with
  | 0x01 => some [(16, 16)]
  | 0x02 => some [(16, 28)]
  | 0x03 => some [(16, 2)]
  | 0x04 => some [(16, 2), (24, 23)]
  | 0x05 => some [(16, 2), (24, 8), (40, 4)]
  | 0x06 => some [(16, 2), (24, 20)]
  | 0x07 => some [(16, 2), (24, 15), (40, 8)]
  | 0x08 => some [(24, 8)]
  | 0x09 => some [(24, 12)]
  | 0x0A => some [(16, 2), (24, 13)]
  | 0x0B => some [(16, 2)]
  | 0x0C => some [(16, 1), (24, 16)]
  | 0x0D => some [(16, 5), (24, 8)]
  | 0x0E => some [(16, 6)]
  | 0x0F => some [(16, 40)]
  | 0x10 => some [(16, 2), (24, 8)]
  | _ => none

/-- A record that is performed: a known OPC, a 16-byte aligned CPL, a vector that exists, zero where nothing is defined. -/
def CmdRec.ok (r : CmdRec) : Bool :=
  (match argBytes r.opc with
   | none => false
   | some us => (List.range 48).all (fun i =>
       us.any (fun u => decide (u.1 ≤ 16 + i) && decide (16 + i < u.1 + u.2)) || decide (fieldAt r.bytes (16 + i) 1 = 0))) &&
  decide (r.flags < 2) && decide (r.cpl % 16 = 0) && (decide (r.flags = 0) || decide (r.vec ≤ 63))

/-! ## Host memory and completions -/

/-- A host address as a physical one (03 R50). -/
def hostPhys (a : Nat) : Nat := 2 ^ 48 + a % 2 ^ 48

/-- Bytes written to host memory. -/
def State.hostWrite (s : State) (a : Nat) (bs : List Byte) : State :=
  s.writePhys 0 ((enumFrom 0 bs).map (fun b => ({ addr := hostPhys (a + b.1), val := b.2, dur := false } : ByteWrite)))

def State.hostRead (s : State) (a n : Nat) : List Byte := (List.range n).map (fun i => s.mem.read (hostPhys (a + i)))

/-- An engine or a press still writes a line of the range. -/
def State.hostBusy (s : State) (a n : Nat) (write : Bool) : Bool :=
  (linesOf ((List.range n).map (fun i => hostPhys (a + i)))).any (fun l => s.physBusy l write)

def State.fn? (s : State) (fn : Nat) : Fn := s.fns.getD fn Fn.reset

def State.modFn (s : State) (fn : Nat) (h : Fn → Fn) : State := { s with fns := s.fns.modify fn h }

/-- What a command answers: the state, STATUS and RESULT; none while it has to wait. A failed one changes nothing. -/
abbrev CmdStep := Option (State × Nat × Nat)

def failed (s : State) (status : Nat) : CmdStep := some (s, status, 0)
def done (s : State) (result : Nat) : CmdStep := some (s, 0, result)

/-- The completion, then the vector. -/
def State.complete (s : State) (fn : Nat) (r : CmdRec) (status result : Nat) : State :=
  let s1 := s.hostWrite (r.cpl / 16 * 16) (leBytes 4 r.tag ++ leBytes 2 status ++ zeroBytes 2 ++ leBytes 8 result)
  if r.flags % 2 = 1 ∧ r.vec ≤ 63 then { s1 with interrupts := s1.interrupts ++ [(fn, r.vec)] } else s1

/-- Whether the function may name the command now: 6 before its negotiation, 3 for a PF command of a VF; 0 if it may. -/
def State.cmdGate (s : State) (fn opc : Nat) : Nat :=
  if !(s.fn? fn).negotiated ∧ ¬ opc ∈ [0x01, 0x09, 0x0A, 0x0B, 0x0C, 0x0F] then 6
  else if fn ≠ 0 ∧ opc ∈ [0x0B, 0x0C, 0x0D] then 3
  else 0

/-- The record that is performed next, with its place: the oldest; in STATE 15 the oldest read-counters. -/
def State.nextCommand (s : State) (fn : Nat) : Option (Nat × CmdRec) :=
  let rs := enumFrom 0 ((s.fn? fn).commands.map CmdRec.ofBytes)
  if s.boot.state = 3 then rs.head?
  else if s.boot.state = 15 then rs.find? (fun r => decide (r.2.opc = 0x0A) && r.2.ok)
  else none

/-- A command performed: its OPC is the next record's. -/
def State.command (s : State) (fn opc : Nat) (effect : State → CmdRec → CmdStep) : Option State :=
  match s.nextCommand fn with
  | none => none
  | some (i, r) =>
    if r.opc ≠ opc ∨ !r.ok ∨ s.hostBusy r.cpl 16 true then none
    else
      let s1 := s.modFn fn (fun f => { f with commands := f.commands.eraseIdx i })
      let g := s.cmdGate fn opc
      if g ≠ 0 then some (s1.complete fn r g 0) else (effect s1 r).map (fun x => x.1.complete fn r x.2.1 x.2.2)

/-- INVALID_COMMAND_RECORD. -/
def execInvalidCommandRecord (e : EvFn) (s : State) : Host.Outcome State Fault Refusal :=
  happens s (if s.boot.state ≠ 3 then none
    else
      match s.nextCommand e.fn with
      | none => none
      | some (_, r) =>
        if r.ok || s.hostBusy (r.cpl / 16 * 16) 16 true then none
        else some ((s.modFn e.fn (fun f => { f with commands := f.commands.drop 1 })).complete e.fn r 1 0))

/-! ## Negotiation (19 R350) -/

/-- FEATADV. -/
def featAdv : BitVec 128 := 0x1FF

def execNegotiateFeatures (e : EvFn) (s : State) : Host.Outcome State Fault Refusal :=
  happens s (s.command e.fn 0x01 (fun s r =>
    let w := BitVec.ofNat 128 (r.arg 16 16)
    if (s.fn? e.fn).hadContext then failed s 6
    else if w &&& ~~~ featAdv ≠ 0 then failed s 2
    else done (s.modFn e.fn (fun f => { f with negotiated := true, featacc := w })) 0))

/-- The function has accepted a feature. -/
def State.accepted (s : State) (fn bitNo : Nat) : Bool := (s.fn? fn).featacc.getLsbD bitNo

/-! ## Contexts (19 R349, R383) -/

/-- A context the function names: 7 if there is none, 3 if it is another function's. -/
def State.ownContext (s : State) (fn tag : Nat) (next : Context → CmdStep) : CmdStep :=
  if 2 ^ 12 ≤ tag then failed s 1
  else
    match s.ctx? tag with
    | none => failed s 7
    | some c => if c.fn = fn then next c else failed s 3

/-- The slots fit the reserved ranges beside those of the contexts that exist. -/
def State.slotsFit (s : State) (q : Nat) : Bool :=
  let used := (s.contexts.map (fun c => slotUnits c.quota)).foldl (· + ·) 0
  s.part.mappable.toList.all (fun m => decide (used + slotUnits q ≤ 2 ^ 20 - m))

/-- CREATE_CONTEXT. -/
def execCreateContext (e : EvFn) (s : State) : Host.Outcome State Fault Refusal :=
  happens s (s.command e.fn 0x02 (fun s r =>
    let quota := r.arg 20 4
    let slack := if r.arg 24 2 = 0 then 256 else r.arg 24 2
    let fl := r.arg 27 1
    let tag := s.freeTag
    if r.arg 16 4 ≥ 2 ^ 20 ∨ slack < 16 ∨ 4096 < slack ∨ 2 < r.arg 26 1 ∨ 3 < fl then failed s 1
    else if (quota ≠ 0 ∧ !s.accepted e.fn 3) ∨ (fl.testBit 1 ∧ !s.accepted e.fn 6) then failed s 2
    else if !s.slotsFit quota ∨ (s.ctx? tag).isSome then failed s 4
    else
      let mk := fun (root : Nat) =>
        { Context.fresh tag e.fn root with
          pasid := r.arg 16 4, quota := quota, slack := slack, chkmin := Fin.ofNat 3 (r.arg 26 1), eager := fl.testBit 0, finj := fl.testBit 1
          pool := r.arg 28 4, namespaces := BitVec.ofNat 64 (r.arg 32 8), portLo := r.arg 40 2, portHi := r.arg 42 2
          inShared := Config.sharedDomain tag }
      done ((s.addContext mk).modFn e.fn (fun f => { f with hadContext := true })) tag))

/-! ## Narrowing (03 R58; 07 R148) -/

/-- A stash unit is mapped through a leaf of a context's table (07 R148): by its virtual address, of a gang that translates with that table. -/
def State.unitMapped (s : State) (ctx va size : Nat) (u : StashUnit) : Bool :=
  decide (va ≤ u.va.toNat) && decide (u.va.toNat < va + size) && (s.gang? u.gang).any (fun g => (s.ownedBy ctx).contains g.ctx)

/-- A held effect reaches an address of a test. -/
def Effect.reaches (inside : Nat → Bool) : Effect → Bool
  | .qpush a _ | .tspawn a _ | .tdone a _ | .wlpush a _ | .wlins a _ | .futset a _ _ => inside a
  | .red us => us.any (fun u => inside u.addr)
  | .redVat _ => false

/-- An access by the old entry is still to be performed (03 R58): a command, stream, tile load, store, held effect or command at a rendezvous touches
a physical line of the frame, or an owner or a pin holds a line of a stash unit mapped by the entry (07 R148). -/
def State.rangeInUse (s : State) (ctx : Nat) (l : Nat × Nat × Nat) : Bool :=
  let inside := fun (a : Nat) => decide (l.2.1 ≤ a) && decide (a < l.2.1 + l.2.2)
  let locIn := fun (x : Loc) (scale : Nat) => match x with
    | .phys a => inside (scale * a)
    | .vat _ _ => false
  let unitHeld := fun (core : Nat) (u : StashUnit) => s.unitMapped ctx l.1 l.2.2 u && (List.range 32).any (fun i =>
    s.vatOwned core (u.vat / 128 + i) || s.pinned core (u.vat / 128 + i))
  s.commands.any (fun c =>
    c.lines.any (fun x => locIn x.line 128 || x.moves.any (fun m => locIn m.2 1)) || c.updates.any (fun u => inside u.addr)) ||
  (enumFrom 0 s.cores).any (fun c => c.2.stash.any (unitHeld c.1) || c.2.streams.any (fun st =>
    decide (st.state = .run) && st.elems.any (fun x => inside x.1))) ||
  s.saves.any (fun v => v.stash.any (unitHeld (savedCore v.gang)) || v.streams.any (fun st =>
    decide (st.2.state = .run) && st.2.elems.any (fun x => inside x.1))) ||
  s.gangs.any (fun g => g.effects.any (Effect.reaches inside) || g.groups.any (fun x =>
    x.stores.any (fun p => p.addrs.any inside) || x.loads.any (fun y => y.tile.any (fun t => locIn t.2 1)))) ||
  s.collWaits.any (fun w => w.dst.any (fun d => inside d.1) || w.src.any inside)

/-- The stash units mapped through a leaf lose their lines, dirty ones after a write-back, and their mapping. -/
def State.cutUnits (s : State) (ctx va size : Nat) : State :=
  let hit := s.unitMapped ctx va size
  let cut := fun (u : StashUnit) => if hit u then { u with lines := [], cut := true } else u
  let s1 := (enumFrom 0 s.cores).foldl (fun (s : State) c =>
    (c.2.stash.filter hit).foldl (fun (s : State) u => (u.lines.filter (fun x => x.2)).foldl (fun (s : State) x => s.writeBack c.1 u x.1) s) s) s
  { s1 with
    cores := s1.cores.map (fun k => { k with stash := k.stash.map cut })
    saves := s1.saves.map (fun v => { v with stash := v.stash.map cut }) }

/-- A run of leaves, each beginning where the previous one ends: virtual address, frame, size. -/
def State.leafRun (s : State) (root : Nat) : Nat → Nat → Option (List (Nat × Nat × Nat))
  | 0, _ => some []
  | n + 1, va =>
    match s.leafAt root va with
    | none => none
    | some (level, e, _) =>
      let size := 2 ^ levelShift level
      if va % size ≠ 0 ∨ 2 ^ 52 ≤ va then none
      else (s.leafRun root n (va + size)).map (fun rest => (va, frameOf level e, size) :: rest)

/-- Lines of a frame are LOST no longer (17 R326). -/
def State.unlose (s : State) (a n : Nat) : State :=
  { s with lost := s.lost.filter (fun l => !(decide (a ≤ 128 * l) && decide (128 * l < a + n))) }

/-- Leaves removed, after every access by them. -/
def State.unmapRun (s : State) (ctx root : Nat) (ls : List (Nat × Nat × Nat)) : Option State :=
  if ls.any (s.rangeInUse ctx) then none
  else some (ls.foldl (fun (s : State) l => ((s.cutUnits ctx l.1 l.2.2).dropLeaf ctx root l.1).unlose l.2.1 l.2.2) s)

/-! ## Pages (19 R383) -/

/-- The bytes of a page of a size code. -/
def pageBytes (code : Nat) : Nat := 2 ^ levelShift (sizeLevel code)

/-- What forbids a leaf: its bits 9:2 with the frame (03 R53), or the frame itself (R50, R351). -/
def State.leafBad (s : State) (bits frame size : Nat) : Bool :=
  let region := bits % 4
  let dur := bits.testBit 2
  decide (region = 3) || (dur && (decide (region = 1) || decide (2 ^ 48 ≤ frame))) || (decide (64 ≤ bits) && decide (region ≠ 0)) ||
  !s.part.frameOk frame size

/-- A leaf of some context maps a byte of a physical range. -/
def State.frameMapped (s : State) (a n : Nat) : Bool :=
  s.contexts.any (fun c => (s.leaves c.root).any (fun l =>
    decide (frameOf l.2.1 l.2.2 < a + n) && decide (a < frameOf l.2.1 l.2.2 + 2 ^ levelShift l.2.1)))

/-- Bytes of memory set by Ezden: durable, with new check values. -/
def State.setPage (s : State) (a n : Nat) (bs : List Byte) : State :=
  let inside := fun (x : Nat) => decide (a ≤ x) && decide (x < a + n)
  { s with
    mem := (s.mem.clear a n).writeBytes a (bs.take n), poison := s.poison.filter (fun h => !inside (64 * h))
    poisonTags := s.poisonTags.filter (fun h => !inside (64 * h.1)), lost := s.lost.filter (fun l => !inside (128 * l))
    undurable := s.undurable.filter (fun c => !inside c.1), partials := s.partials.filter (fun p => !inside p.addr)
    queues := s.queues.map (fun q => if inside q.hdr then { q with onchip := [] } else q) }

/-- One page mapped. A frame of a COH page in local memory that no leaf maps yet is zeroed, so that cells on it are created zeroed (14 R275;
DESIGN CHOICE, log 93). -/
def State.mapOne (s : State) (c : Context) (code bits : Nat) (p : Nat × Nat) : State :=
  let size := pageBytes code
  let fresh := decide (bits % 4 = 2) && decide (p.2 < 2 ^ 48) && !s.frameMapped p.2 size
  (if fresh then s.setPage p.2 size [] else s).mapPage c.root p.1 p.2 code bits c.tag

/-- MAP. -/
def execMap (e : EvFn) (s : State) : Host.Outcome State Fault Refusal :=
  happens s (s.command e.fn 0x04 (fun s r => s.ownContext e.fn (r.arg 16 2) (fun c =>
    let va := r.arg 24 8
    let pa := r.arg 32 8
    let n := r.arg 40 4
    let code := r.arg 44 1
    let bits := r.arg 45 2
    let size := pageBytes code
    let pages := (List.range n).map (fun i => (va + i * size, pa + i * size))
    if 2 < code ∨ 2 ^ 8 ≤ bits ∨ n = 0 ∨ va % size ≠ 0 ∨ pa % size ≠ 0 ∨ 2 ^ 52 < va + n * size ∨ 2 ^ 50 < pa + n * size then failed s 1
    else if pages.any (fun p => s.leafBad bits p.2 size || s.covered c.root p.1 code) then failed s 1
    else if (bits.testBit 2 ∧ !s.accepted e.fn 3) ∨ (pages.any (fun p => decide (p.2 / 2 ^ 48 = 2)) ∧ !s.accepted e.fn 4) then failed s 2
    else if pages.any (fun p => s.poolRanges.any (fun q => decide (p.2 < q.1 + q.2) && decide (q.1 < p.2 + size))) then failed s 5
    else done (pages.foldl (fun (s : State) p => s.mapOne c code bits p) s) 0)))

/-- UNMAP. -/
def execUnmap (e : EvFn) (s : State) : Host.Outcome State Fault Refusal :=
  happens s (s.command e.fn 0x05 (fun s r => s.ownContext e.fn (r.arg 16 2) (fun c =>
    if r.arg 40 4 = 0 then failed s 1
    else
      match s.leafRun c.root (r.arg 40 4) (r.arg 24 8) with
      | none => failed s 7
      | some ls => (s.unmapRun c.tag c.root ls).map (fun t => (t, 0, 0)))))

/-- LOAD_CODE: bytes from host memory, which fetches see at once (02 R44). -/
def execLoadCode (e : EvFn) (s : State) : Host.Outcome State Fault Refusal :=
  happens s (s.command e.fn 0x06 (fun s r => s.ownContext e.fn (r.arg 16 2) (fun c =>
    let va := BitVec.ofNat 64 (r.arg 24 8)
    let n := r.arg 40 4
    let ps := rangePieces va n
    if 2 ^ 52 < va.toNat + n then failed s 1
    else
      match firstXlat s (homeWho c.tag) (ps.map (fun v => (v, AccKind.read))) with
      | .error _ => failed s 1
      | .ok xs =>
        let to_ := (List.range n).map (fun i => placeByte (ps.zip xs) (va + BitVec.ofNat 64 i))
        if (linesOf (to_.map (fun p => p.1))).any (fun l => s.physBusy l true) || s.hostBusy (r.arg 32 8) n false then none
        else
          let bs := s.hostRead (r.arg 32 8) n
          done (s.writePhys 0 ((to_.zip bs).map (fun x => ({ addr := x.1.1, val := x.2, dur := x.1.2 } : ByteWrite)))) 0)))

/-! ## Queue objects (14 R264, R274; 15 R279) -/

/-- The range lies on pages the context has mapped COH, writable, H = 1, with its own tag. -/
def State.ownPages (s : State) (c : Context) (va : Word) (n : Nat) : Bool :=
  decide (va.toNat + n ≤ 2 ^ 52) && (rangePieces va n).all (fun v =>
    match s.leafAt c.root v.toNat, s.translate (homeWho c.tag) .atomic v with
    | some (_, l, _), .ok x => decide (x.region = 2) && l.testBit 7 && decide (l / 2 ^ 52 = c.tag)
    | _, _ => false)

/-- The lowest aperture index the function has free. -/
def State.freeAperture (s : State) (fn : Nat) : Option Nat :=
  (List.range 4096).find? (fun i => !(s.queues.any (fun q => q.fn == fn && q.aperture == i)))

/-- The die has room for one more queue of the kind. -/
def State.dieServes (s : State) (kind die : Nat) : Bool :=
  let n := (s.queues.filter (fun q => q.kind == kind && q.die == die)).length
  decide (kind = 0) || decide (n < (if kind = 1 then 256 else 16))

/-- CREATE_QUEUE_OBJECT. -/
def execCreateQueueObject (e : EvFn) (s : State) : Host.Outcome State Fault Refusal :=
  happens s (s.command e.fn 0x07 (fun s r => s.ownContext e.fn (r.arg 16 2) (fun c =>
    let va := BitVec.ofNat 64 (r.arg 24 8)
    let cap := r.arg 32 4
    let kind := r.arg 36 1
    let prio := r.arg 37 1
    let die := r.arg 38 1
    let base := BitVec.ofNat 64 (r.arg 40 8)
    if 2 < kind ∨ cap = 0 ∨ 2 ^ 24 ≤ cap ∨ 7 < prio ∨ (kind ≠ 1 ∧ prio ≠ 0) ∨ 3 < die ∨ va.toNat % 64 ≠ 0 ∨ base.toNat % 64 ≠ 0 then failed s 1
    else if !s.ownPages c va 64 || !s.ownPages c base (cap * (if kind = 1 then 64 else 8)) then failed s 1
    else
      match s.translate (homeWho c.tag) .atomic va, s.freeAperture e.fn with
      | .ok x, some i =>
        if (s.queue? x.pa).isSome then failed s 1
        else if !s.dieServes kind die then failed s 4
        else if s.physBusy (x.pa / 128) true then none
        else
          let h : Hdr :=
            { base := base, cap := cap, kind := kind, prio := prio, die := die, valid := true, owner := c.tag, head := 0, tail := 0, badrec := 0
              dropped := 0 }
          let q : QueueObj :=
            { hdr := x.pa, va := va, ctx := c.tag, kind := kind, die := die, fn := e.fn, aperture := i, prio := prio, el := prio, timer := 0
              waited := 0, holding := false, onchip := [] }
          let s1 := s.writePhys 0 ((enumFrom 0 h.bytes).map (fun b => ({ addr := x.pa + b.1, val := b.2, dur := x.dur } : ByteWrite)))
          done { s1 with queues := s1.queues ++ [q] } i
      | .ok _, none => failed s 4
      | .error _, _ => failed s 1)))

/-- An object destroyed: VALID falls, its waiters try again and trap (14 R269). -/
def State.destroyQueue (s : State) (q : QueueObj) : State :=
  let mine := s.waiters.filter (fun w => w.obj == q.hdr)
  let h := s.hdr q.hdr
  let s1 := s.writePhys 0 [{ addr := q.hdr + 12, val := BitVec.ofNat 8 (h.kind + 4 * h.prio + 32 * h.die), dur := s.durQueue q.hdr }]
  let s2 := mine.foldl (fun (s : State) w => s.modSplit { gang := w.gang, group := w.group, split := w.split } (fun sp => { sp with status := .ready })) s1
  { s2 with waiters := s2.waiters.filter (fun w => w.obj ≠ q.hdr), queues := s2.queues.filter (fun x => x.hdr ≠ q.hdr) }

/-- DESTROY_QUEUE_OBJECT: the header's address names an object of a context of the function. -/
def execDestroyQueueObject (e : EvFn) (s : State) : Host.Outcome State Fault Refusal :=
  happens s (s.command e.fn 0x08 (fun s r =>
    match s.queues.find? (fun q => q.fn == e.fn && decide (q.va.toNat = r.arg 24 8)) with
    | none => failed s 7
    | some q => if s.physBusy (q.hdr / 128) true then none else done (s.destroyQueue q) 0))

/-- DESTROY_CONTEXT: gangs killed, objects destroyed, pages unmapped; its slots and windows are free. -/
def execDestroyContext (e : EvFn) (s : State) : Host.Outcome State Fault Refusal :=
  happens s (s.command e.fn 0x03 (fun s r => s.ownContext e.fn (r.arg 16 2) (fun c =>
    let qs := s.queues.filter (fun q => q.ctx == c.tag)
    if qs.any (fun q => s.physBusy (q.hdr / 128) true) then none
    else
      let s1 := qs.foldl State.destroyQueue (s.terminate c.tag)
      let ls := (s1.leaves c.root).map (fun l => (l.1, frameOf l.2.1 l.2.2, 2 ^ levelShift l.2.1))
      match s1.unmapRun c.tag c.root ls with
      | none => none
      | some s2 =>
        done { s2 with
          contexts := s2.contexts.filter (fun x => x.tag ≠ c.tag), succs := s2.succs.filter (fun p => p.ctx ≠ c.tag)
          fns := s2.fns.map (fun f => if (f.window.map (fun w => w.1)) = some c.tag then { f with window := none } else f) } 0)))

end Sys2Proof.Machine
end

