-- ==== Sys2Proof/Machine/HostEvents.lean ====
section
/-! DEFINITION. The endpoint and the boot (19 R345, R346, R350, R352), and Ezden's other commands: enumeration table (R351), counters (R349, R384), power cap (01 R17), ageing blocks (15 R280), collective groups (05 R120), attestation (19 R353), the BAR2 window (R346). -/

namespace Sys2Proof.Machine

/-! ## Boot (19 R352, R354) -/

/-- PERST_DEASSERT: PERST# is deasserted, the chip's number is read from its pins and the ROM verifies the patch area (STATE 1); then, in the same
row, that verification is over (STATE 2). -/
def execPerstDeassert (e : EvPerst) (s : State) : Host.Outcome State Fault Refusal :=
  happens s (
    if s.boot.state = 0 then
      some { s with boot := { state := 1, patched := false, failure := 0 }, part := { s.part with chip := e.chipid.val }, monotonic := 0 }
    else if s.boot.state = 1 then some { s with boot := { s.boot with state := 2, patched := e.patched } }
    else none)

/-- A chip with this chip's number fails link training (R354). -/
def Part.trained (p : Part) : Part := { p with peers := p.peers.filter (fun x => x.1 ≠ p.chip) }

/-- BOOT_READY: the firmware is verified and the links are trained; Ezden's table of the shared domain stands, the presses have left the SHARED
mode of start-up (11 R212; log 116), and the power cap is that of a boot (01 R17). -/
def execBootReady (s : State) : Host.Outcome State Fault Refusal :=
  happens s (if s.boot.state ≠ 2 then none
    else
      let s1 : State := { s with
        boot := { s.boot with state := 3 }, part := s.part.trained, presses := s.presses.map (fun p => { p with shared := false })
        powerCap := 2400 }
      some (if (s1.ctx? 0xFFF).isSome then s1 else s1.addContext (Context.fresh 0xFFF 0)))

/-- BOOT_TIMEOUT: the boot has failed. -/
def execBootTimeout (e : EvBoot) (s : State) : Host.Outcome State Fault Refusal :=
  happens s (if s.boot.state = 1 ∨ s.boot.state = 2 then some { s with boot := { s.boot with state := 15, failure := e.code } } else none)

/-- FUNCTION_LEVEL_RESET: the accepted word ends. -/
def execFunctionLevelReset (e : EvFn) (s : State) : Host.Outcome State Fault Refusal :=
  happens s (some (s.modFn e.fn (fun f => { f with negotiated := false, featacc := 0, hadContext := false })))

/-! ## BAR0 and BAR2 (19 R345, R346) -/

/-- BOOTST. -/
def Boot.word (b : Boot) : Nat := b.state.toNat + 16 * bit b.patched + 256 * b.failure.toNat

/-- A host read of a byte of a function's BAR0; registers that are written only, and offsets not listed, read as 0. -/
def State.bar0Read (s : State) (fn offset : Nat) : Byte :=
  BitVec.ofNat 8 (
    if offset < 8 then s.boot.word / 2 ^ (8 * offset)
    else if 0x10 ≤ offset ∧ offset < 0x20 then (if s.boot.state = 0 then 0 else featAdv.toNat) / 2 ^ (8 * (offset - 0x10))
    else if 0x20 ≤ offset ∧ offset < 0x30 then (s.fn? fn).featacc.toNat / 2 ^ (8 * (offset - 0x20))
    else 0)

/-- The host as it acts on a context: below handler privilege, on no die. -/
def hostWho (ctx : Nat) : Who := { ctx := ctx, die := none, hp := false, ezden := false }

/-- An access through the window: its context, its virtual address and its bytes' places, or the first failure. -/
def State.windowRange (s : State) (fn offset n : Nat) (k : AccKind) : Option (Nat × Word × Except (Nat × Nat) (List (Nat × Bool))) :=
  if 2 ^ 36 < offset + n then none
  else
    (s.fn? fn).window.map (fun w =>
      let va := w.2 + BitVec.ofNat 64 offset
      let ps := rangePieces va n
      match firstXlat s (hostWho w.1) (ps.map (fun v => (v, k))) with
      | .error x => (w.1, x.1, .error x.2.2)
      | .ok xs => (w.1, va, .ok ((List.range n).map (fun i => placeByte (ps.zip xs) (va + BitVec.ofNat 64 i)))))

/-- The entry of a failed access. -/
def State.windowFailed (s : State) (ctx kind : Nat) (va : Word) (err : Nat × Nat) : State :=
  s.appendEvent ctx (eventEntry 0x80 err.2 kind va (BitVec.ofNat 64 err.1))

/-- HOST_BAR2_READ: caches are snooped, and the read completes with its bytes, the EP bit where one is poisoned (03 R63); a failing read, or one
through no window, completes with Completer Abort. -/
def execHostBar2Read (e : EvRead) (s : State) : Host.Outcome State Fault Refusal :=
  let answer := fun (s : State) (data : List Byte) (aborted poisoned : Bool) =>
    ({ s with completion := some { fn := e.fn, data := data, aborted := aborted, poisoned := poisoned } } : State)
  happens s (if 2 ^ 36 < e.offset + e.length then none
    else
      match s.windowRange e.fn e.offset e.length .read with
      | none => some (answer s [] true false)
      | some (ctx, va, .error err) => some (answer (s.windowFailed ctx 1 va err) [] true false)
      | some (_, _, .ok bs) =>
        let lines := linesOf (bs.map (fun b => b.1))
        if lines.any (fun l => s.physBusy l false) then none
        else
          let s1 := s.reachAll lines false
          some (answer s1 (bs.map (fun b => s1.mem.read b.1)) false (bs.any (fun b => s1.tainted b.1 1))))

/-- HOST_BAR2_WRITE. -/
def execHostBar2Write (e : EvWrite) (s : State) : Host.Outcome State Fault Refusal :=
  happens s (match s.windowRange e.fn e.offset e.data.length .write with
    | none => none
    | some (ctx, va, .error err) => some (s.windowFailed ctx 2 va err)
    | some (_, _, .ok bs) =>
      if (linesOf (bs.map (fun b => b.1))).any (fun l => s.physBusy l true) then none
      else some (s.writePhys 0 ((bs.zip e.data).map (fun x => ({ addr := x.1.1, val := x.2, dur := x.1.2 } : ByteWrite)))))

/-- BAR0_OTHER_WRITE: discarded. -/
def execBar0OtherWrite (_ : EvWrite) (s : State) : Host.Outcome State Fault Refusal := happens s (some s)

/-! ## The enumeration table (19 R351; 01 R12, R13, R18) -/

/-- The enabled physical clusters of a die, in increasing order. -/
def Part.enabled (p : Part) (die : Nat) : List Nat :=
  ((List.range 9).filter (fun c => !(p.disabled.toList.getD die []).contains c)).take p.clusters

/-- The eight sections, in order. Each cache base die is listed as one slice with the number 0, and a peer's own entry in the latency matrix has
class 0 (DESIGN CHOICE, log 114). -/
def Part.sections (p : Part) : List (List Byte) :=
  let cores := (List.range 4).flatMap (fun d => (enumFrom 0 (p.enabled d)).flatMap (fun c => (List.range 4).flatMap (fun i =>
    leBytes 2 (4 * (p.clusters * d + c.1) + i) ++ leBytes 1 d ++ leBytes 1 c.2 ++ leBytes 1 i ++ leBytes 1 (p.clusters * d + c.1) ++ zeroBytes 2)))
  let l2 := (List.range 4).flatMap (fun d => (List.range 32).flatMap (fun i => leBytes 2 d ++ leBytes 2 i))
  let llc := (List.range 8).flatMap (fun j => leBytes 2 j ++ leBytes 2 0)
  let stackRows := (List.range 8).flatMap (fun j => leBytes 4 j ++ leBytes 4 (p.mappable.toList.getD j 0))
  let link := fun (a b up : Nat) => leBytes 1 a ++ leBytes 2 b ++ leBytes 1 up
  let dieLinks := link 0 1 1 ++ link 2 3 1 ++ link 0 2 1 ++ link 1 3 1
  let near := p.peers.filter (fun x => x.2 == 1 && !p.lostPeers.contains x.1)
  let haluf := (List.range 16).flatMap (fun i => match near[i]? with
    | some x => link i x.1 1
    | none => link i 0xFFFF 0)
  let peers := p.peers.flatMap (fun x => leBytes 2 x.1 ++ leBytes 2 x.2)
  let ends : List (Nat × Nat) := (List.range 4).map (fun d => (d, 0)) ++ p.peers.map (fun x => (x.1, x.2))
  let cls := fun (a b : Nat × Nat) =>
    if a.2 = 0 ∧ b.2 = 0 then latencyClass a.1 b.1
    else if a.2 = 0 then 2 + b.2
    else if b.2 = 0 then 2 + a.2
    else if a = b then 0 else if p.neighbours.contains (a.1, b.1) || p.neighbours.contains (b.1, a.1) then 3 else 4
  let lat := ends.flatMap (fun a => ends.flatMap (fun b => leBytes 1 (cls a b)))
  [cores, l2, llc, stackRows, dieLinks, haluf, peers, lat]

/-- Offsets of the sections. -/
def sectionOffsets : Nat → List (List Byte) → List Nat
  | _, [] => []
  | a, x :: xs => a :: sectionOffsets (a + x.length) xs

def Part.enumTable (p : Part) : List Byte :=
  let body := p.sections.flatMap id
  leBytes 4 0x4D554E45 ++ leBytes 4 (64 + body.length) ++ leBytes 1 p.grade.val ++ leBytes 1 p.clusters ++ leBytes 2 p.coreCount ++
  leBytes 2 p.chip ++ leBytes 2 p.peers.length ++ (sectionOffsets 64 p.sections).flatMap (leBytes 4) ++ zeroBytes 12 ++
  leBytes 4 (crc32c body).toNat ++ body

/-- Bytes delivered to the host, up to a length. -/
def State.deliverBytes (s : State) (dest len : Nat) (bs : List Byte) : CmdStep :=
  let out := bs.take len
  if s.hostBusy dest out.length true then none else done (s.hostWrite dest out) out.length

def execReadEnumerationTable (e : EvFn) (s : State) : Host.Outcome State Fault Refusal :=
  happens s (s.command e.fn 0x09 (fun s r => s.deliverBytes (r.arg 24 8) (r.arg 32 4) s.part.enumTable))

/-! ## Counters (19 R349, R384) -/

/-- The counters, in an order the manual does not give (DESIGN CHOICE, log 23): of the part, its dies, cores, objects, contexts and
resident gangs: a channel's hole counter ends with its gang (DESIGN CHOICE, log 111). -/
def State.counterBytes (s : State) : List Byte :=
  let w := fun (x : W32) => leBytes 4 x.toNat
  leBytes 8 s.withheld.toNat ++ w s.badRecords ++ zeroBytes 4 ++
  s.dies.toList.flatMap (fun d =>
    leBytes 8 d.walkCount.toNat ++ leBytes 8 d.coalesced.toNat ++ leBytes 8 d.fullWaits.toNat ++
    d.errors.toList.flatMap (fun x => w x.1 ++ w x.2.1 ++ w x.2.2)) ++
  (s.cores.take s.part.coreCount).flatMap (fun c =>
    [c.conflicts, c.serialisations, c.reconvOverflow, c.stashDrops, c.syncOverflow, c.metaWaits, c.killDiscards, c.resolved, c.unresolved].flatMap w) ++
  s.queues.flatMap (fun q => leBytes 8 q.va.toNat ++ leBytes 4 (s.hdr q.hdr).badrec ++ leBytes 4 (s.hdr q.hdr).dropped) ++
  s.contexts.flatMap (fun c => leBytes 4 c.tag ++ w c.sealRefusals) ++
  s.gangs.flatMap (fun g => leBytes 4 (g.id % 2 ^ 32) ++ g.channels.toList.flatMap (fun c => w c.holes))

/-- READ_COUNTERS. -/
def execReadCounters (e : EvFn) (s : State) : Host.Outcome State Fault Refusal :=
  happens s (s.command e.fn 0x0A (fun s r =>
    let dest := r.arg 24 8
    let len := r.arg 32 4
    let tag := r.arg 16 2
    match r.arg 36 1 with
    | 0 => if tag ≠ 0 then failed s 1 else s.deliverBytes dest len s.counterBytes
    | 1 => if tag ≠ 0 then failed s 1 else s.deliverBytes dest len (s.errorLog.flatMap id)
    | 2 => s.ownContext e.fn tag (fun c => s.deliverBytes dest len (leBytes 8 c.eventCount.toNat ++ zeroBytes 56 ++ c.events.flatMap id))
    | _ => failed s 1))

/-! ## Power and ageing (01 R17; 15 R280) -/

/-- SET_POWER_CAP. -/
def execSetPowerCap (e : EvFn) (s : State) : Host.Outcome State Fault Refusal :=
  happens s (s.command e.fn 0x0B (fun s r =>
    let w := r.arg 16 2 / 25 * 25
    if w < 1000 ∨ 2400 < w then failed s 1 else done { s with powerCap := w } w))

/-- SET_AGEING_BLOCK: the block applies from the next microsecond (R281). -/
def execSetAgeingBlock (e : EvFn) (s : State) : Host.Outcome State Fault Refusal :=
  happens s (s.command e.fn 0x0C (fun s r =>
    let v := Vector.ofFn (fun (i : Fin 8) => BitVec.ofNat 16 (r.arg (24 + 2 * i.val) 2))
    if 3 < r.arg 16 1 ∨ v.toList.any (fun a => decide (a = 0)) then failed s 1
    else done (s.modDie (r.arg 16 1) (fun d => { d with newAgeing := some v })) 0))

/-! ## Collective groups (05 R120; 19 R354) -/

/-- A member this chip reaches: itself, or a listed peer that is not lost. -/
def Part.reaches (p : Part) (chip : Nat) : Bool :=
  decide (chip = p.chip) || (p.peers.any (fun x => x.1 == chip) && !p.lostPeers.contains chip)

/-- No chip twice. -/
def distinct : List Nat → Bool
  | [] => true
  | x :: xs => !xs.contains x && distinct xs

/-- CONFIGURE_PARITY_GROUP: every member is reachable and holds no other definition of the group (19 R354). -/
def execConfigureParityGroup (e : EvParity) (s : State) : Host.Outcome State Fault Refusal :=
  happens s (s.command e.fn 0x0D (fun s r =>
    let id := r.arg 16 1
    let p := r.arg 17 2
    let tag := r.arg 19 2
    if !s.accepted e.fn 4 then failed s 2
    else if p < 2 ∨ 512 < p ∨ 2 ^ 12 ≤ tag then failed s 1
    else if s.hostBusy (r.arg 24 8) (2 * p) false then none
    else
      let bs := s.hostRead (r.arg 24 8) (2 * p)
      let chips := (List.range p).map (fun i => fieldAt bs (2 * i) 2)
      if !distinct chips || !chips.contains s.part.chip || !chips.all s.part.reaches || e.clash then failed s 1
      else if s.collWaits.any (fun w => w.group == id) || s.seals.any (fun x => x.wait.group == id) then failed s 5
      else
        let g : CollGroup := { id := id, chips := chips, me := chips.findIdx (fun c => c == s.part.chip), tag := tag }
        done { s with collGroups := s.collGroups.filter (fun x => x.id ≠ id) ++ [g] } 0))

/-! ## Attestation and the window (19 R353, R346) -/

/-- The 256 bytes of a report. -/
def State.report (s : State) (nonce : List Byte) : List Byte :=
  let head := nonce ++ (List.range 32).map Config.romHash ++
    (if s.boot.patched then (List.range 32).map Config.patchHash else zeroBytes 32) ++ leBytes 16 featAdv.toNat ++ leBytes 1 s.part.grade.val ++
    zeroBytes 15 ++ (List.range 64).map Config.identityKey
  head ++ (List.range 64).map (Config.signature head)

def execAttest (e : EvFn) (s : State) : Host.Outcome State Fault Refusal :=
  happens s (s.command e.fn 0x0F (fun s r =>
    if s.hostBusy (r.arg 48 8) 256 true then none
    else done (s.hostWrite (r.arg 48 8) (s.report (sliceBytes r.bytes 16 32))) 0))

/-- BIND_WINDOW. -/
def execBindWindow (e : EvFn) (s : State) : Host.Outcome State Fault Refusal :=
  happens s (s.command e.fn 0x10 (fun s r => s.ownContext e.fn (r.arg 16 2) (fun c =>
    let base := r.arg 24 8
    if base % 2 ^ 36 ≠ 0 ∨ 2 ^ 52 ≤ base then failed s 1
    else done (s.modFn e.fn (fun f => { f with window := some (c.tag, BitVec.ofNat 64 base) })) 0)))

end Sys2Proof.Machine
end

