-- ==== Sys2Proof/Machine/RestoreEvents.lean ====
section
/-! DEFINITION. RESTORE: a context brought back to its newest intact generation (18 R340-R342). -/

namespace Sys2Proof.Machine

/-! ## What a generation's tables say (18 R338, R341) -/

/-- A page of the page list: address and size code. -/
structure ListedPage where
  va : Nat
  code : Nat
  deriving DecidableEq, Repr

/-- An entry of the RP table. -/
structure ListedGang where
  id : Nat
  gen : Nat
  pc : Word
  state : Word
  deriving DecidableEq, Repr

def pagesOf (table : List Byte) (ngang npage : Nat) : List ListedPage :=
  (List.range npage).map (fun i =>
    let e := fieldAt (table.drop (32 * ngang + 8 * i)) 0 8
    { va := bitsOf e 51 16 * 2 ^ 16, code := e % 4 })

def gangsOf (table : List Byte) (ngang : Nat) : List ListedGang :=
  (List.range ngang).map (fun i =>
    let b := table.drop (32 * i)
    { id := fieldAt b 0 4, gen := fieldAt b 4 4, pc := BitVec.ofNat 64 (fieldAt b 8 8), state := BitVec.ofNat 64 (fieldAt b 16 8) })

/-- A generation as this chip holds it. -/
structure HeldGen where
  gen : Nat
  ngang : Nat
  npage : Nat
  slot : CkptSlot
  deriving DecidableEq, Repr

/-- The bytes of the RP table and the page list. -/
def tableBytes (ngang npage : Nat) : Nat := 32 * ngang + 8 * npage

/-- A slot's own generation. -/
def CkptSlot.held (k : CkptSlot) : HeldGen :=
  let r := k.records.headD []
  { gen := k.gen, ngang := fieldAt r 40 4, npage := fieldAt r 44 4, slot := k }

/-! ## A lost image (18 R337, R340 step 4) -/

/-- A member's report of a generation. -/
def reportsOf (ps : List PeerRestore) (gen : Nat) : List (Nat × PeerGen) :=
  ps.filterMap (fun p => (p.gens.find? (fun g => g.gen == gen)).map (fun g => (p.member, g)))

/-- The LP bytes of the lost image, slice by slice. -/
def rebuiltBytes (lp lost : Nat) (others : List (Nat × PeerGen)) : List Byte :=
  let images := others.map (fun o => (o.1, o.2.image))
  (List.range 7).flatMap (fun i =>
    let j := (lost + i + 1) % 8
    let pj := ((others.find? (fun o => o.1 == j)).map (fun o => padTo (lp / 7) o.2.parity)).getD (zeroBytes (lp / 7))
    xorBytes pj (xorSlices lp images j [j, lost]))

/-- The slot a replacement writes for a generation; none where the rebuilt image is not the lost one. -/
def State.rebuild (s : State) (c : Context) (cg : CollGroup) (ps : List PeerRestore) (tables : List (Nat × Nat × Nat)) (gen : Nat) : Option HeldGen :=
  match tables.find? (fun t => t.1 == gen), reportsOf ps gen with
  | some (_, ngang, npage), (m, g) :: rest =>
    let others := (m, g) :: rest
    if others.length ≠ 7 then none
    else
      let full := rebuiltBytes g.lp cg.me others
      let table := full.take (tableBytes ngang npage)
      let extent := roundUp table.length 65536 + ((pagesOf table ngang npage).map (fun p => pageBytes p.code)).foldl (· + ·) 0
      let image := full.take extent
      if slotCrc image [] ≠ g.icrcAll.getD cg.me 0 then none
      else
        let parity := parityOf g.lp (others.map (fun o => (o.1, o.2.image))) cg.me
        let record := commitRecord gen c.tag cg.me cg.id image [] parity g.lp ngang npage (s.die? 0).clock g.icrcAll
        some { gen := gen, ngang := ngang, npage := npage
               slot := { gen := gen, table := table, image := image, marks := [], parity := parity, struck := false
                         records := List.replicate 8 record, bases := [] } }
  | _, _ => none

/-! ## Which generation (18 R339, R340 step 2) -/

/-- The largest first. -/
def insertNewest (h : HeldGen) : List HeldGen → List HeldGen
  | [] => [h]
  | x :: xs => if x.gen ≤ h.gen then h :: x :: xs else x :: insertNewest h xs

def newestFirst (l : List HeldGen) : List HeldGen := l.foldl (fun acc h => insertNewest h acc) []

/-- The generations this chip can offer, the newest first. -/
def State.offers (s : State) (c : Context) (cg : CollGroup) (e : EvRestore) (replaced : Bool) : List HeldGen :=
  newestFirst (if replaced then (e.tables.map (fun t => t.1)).filterMap (fun g => s.rebuild c cg e.peers e.tables g)
    else (enumFrom 0 c.slots.toList).filterMap (fun k => k.2.bind (fun x => if x.intact k.1 then some x.held else none)))

/-- G*: every other member has it too. -/
def State.newestIntact (s : State) (c : Context) (cg : CollGroup) (e : EvRestore) (replaced : Bool) : Option HeldGen :=
  (s.offers c cg e replaced).find? (fun h => e.peers.all (fun p => p.gens.any (fun g => g.gen == h.gen)))

/-- The newest generation that some member began and that is not used. -/
def skippedGen (c : Context) (e : EvRestore) (gen : Nat) : Option Nat :=
  let all := (c.slots.toList.filterMap id).map (fun k => k.gen) ++ e.peers.flatMap (fun p => p.gens.map (fun g => g.gen)) ++ e.tables.map (fun t => t.1)
  let newest := all.foldl max 0
  if gen < newest then some newest else none

/-! ## Pages (18 R340 steps 5, 6) -/

/-- A physical range is mapped by no context and is not Ezden's own. -/
def State.frameFree (s : State) (a n : Nat) : Bool :=
  s.part.frameOk a n && !s.frameMapped a n && !(s.poolRanges.any (fun q => decide (q.1 < a + n) && decide (a < q.1 + q.2)))

/-- The lowest free local frame of a size. -/
def State.freeFrame (s : State) (size : Nat) : Option Nat :=
  ((List.range (2 ^ 39 / size)).map (fun i => i * size)).find? (fun a => s.frameFree a size)

/-- A leaf that may hold the page as it is: of its size, the context's own, not RSH, its frame in the local stacks (03 R53). -/
def State.holdsDur (s : State) (c : Context) (p : ListedPage) (level leaf : Nat) : Bool :=
  decide (level = sizeLevel p.code) && decide (leaf / 2 ^ 52 = c.tag) && decide (leaf / 4 % 4 ≠ 1) && decide (leaf / 4 % 4 ≠ 3) &&
  s.part.frameOk (frameOf level leaf) (pageBytes p.code) && decide (frameOf level leaf < 2 ^ 39)

/-- A page's bytes with the half-lines whose check values do not match: those are poisoned. -/
def State.pageFill (s : State) (a n : Nat) (bs : List Byte) (marks : List Nat) : State :=
  marks.foldl (fun (s : State) h => s.poisonHalf (a / 64 + h)) (s.setPage a n bs)

/-- One page of the image back at its address, mapped with DUR = 1 and the context's tag: in the frame of the leaf that is there, where that may
hold it, else in a free one. -/
def State.pageBack (s : State) (c : Context) (p : ListedPage) (bs : List Byte) (marks : List Nat) : Option State :=
  let size := pageBytes p.code
  let place := fun (s : State) => (s.freeFrame size).map (fun f => (s.mapPage c.root p.va f p.code 0x0E c.tag).pageFill f size bs marks)
  match s.leafAt c.root p.va with
  | some (level, l, a) =>
    if s.holdsDur c p level l then some ((s.writeEntry a (l / 32 * 32 + l % 16 + 16)).pageFill (frameOf level l) size bs marks)
    else place (s.dropLeaf c.tag c.root p.va)
  | none => place s

/-- Every page of the list, with the bytes that follow the table in the image; `at_` is the half-line of the image that they begin with. -/
def State.pagesBack (s : State) (c : Context) (marks : List Nat) (at_ : Nat) : List ListedPage → List Byte → Option State
  | [], _ => some s
  | p :: ps, bs =>
    let n := pageBytes p.code
    let mine := (marks.filter (fun h => decide (at_ ≤ h) && decide (h < at_ + n / 64))).map (fun h => h - at_)
    match s.pageBack c p (bs.take n) mine with
    | none => none
    | some s1 => s1.pagesBack c marks (at_ + n / 64) ps (bs.drop n)

/-- On a replacement the other pages of the context in local memory are zero. -/
def State.zeroPages (s : State) (c : Context) : State :=
  ((s.leaves c.root).filter (fun l => !l.2.2.testBit 4 && decide (frameOf l.2.1 l.2.2 < 2 ^ 48))).foldl (fun (s : State) l =>
    let a := frameOf l.2.1 l.2.2
    { s with mem := s.mem.clear a (2 ^ levelShift l.2.1) }) s

/-! ## Gangs (18 R340 step 7, R342) -/

/-- The press of a core has room for a reservation. -/
def State.pressRoom (s : State) (r : Option Reservation) (core : Nat) : Bool :=
  let p := s.press? (clusterOf core)
  match r with
  | none => true
  | some x => p.shared || (decide (p.usedMoulds + x.moulds.length ≤ 32) && decide (p.usedAccs + x.accs.length ≤ 8))

/-- The gang takes trap 0x14, subcause 1, before its first instruction. -/
def Gang.tornTrap (g : Gang) (pc : Word) (gen : Nat) : Gang :=
  if !g.csr.hdeleg.getLsbD 0x14 then g
  else
    match g.firstSplit with
    | none => g
    | some (slot, i, sp) =>
      let t : TrapInfo := { cause := 0x14, sub := 1, kind := 0, lanes := 0, addr := 0, info := BitVec.ofNat 64 gen }
      let h : Halt :=
        { trap := t, group := slot, split := Fin.ofNat 4 i, pc := pc, npc := pc, execm := sp.lanes, phase := .stopped
          skid := g.order.map (fun a => (a, 0)), ended := [], double := none, dpc := 0, dnpc := 0, dexec := 0 }
      { g with halt := some h }

/-- One gang of the RP table placed from its state area, under its own gangid where that is free; none while no core has room. An area that
cannot be read places nothing. -/
def State.gangBack (s : State) (tag : Nat) (x : ListedGang) (kept : Option Nat) (skipped : Option Nat) : Option State :=
  match s.readArea tag x.state with
  | none => some s
  | some p =>
    let t := { p.task with ctx := tag }
    match s.placeTask 0 t (s.pressRoom (p.reservation 0)) with
    | none => none
    | some place =>
      let ids := if t.paired then [x.id, x.id + 1] else [x.id]
      let free := decide (x.id ≠ 0) && ids.all (fun i => (s.gang? i).isNone)
      let id := if free then x.id else s.nextGang
      let now := ids.map (fun i => i - x.id + id)
      let s1 := ({ s with nextGang := id } : State).startTask t place
      let s2 : State := { s1 with nextGang := max s.nextGang s1.nextGang }
      let gids := BitVec.ofNat 16 (((p.groups.map (fun b => (Group.ofArea b 0).gid.toNat)).foldl max 0) + 1)
      some (now.foldl (fun (s : State) i =>
        (s.fillGang i p gids kept).modGang i (fun g =>
          let y := { g with
            rpt := { gen := BitVec.ofNat 32 x.gen, pc := x.pc, state := x.state, durpend := false, base := p.base kept }
            pair := g.pair.map (fun q => { q with gids := gids }) }
          match skipped with
          | some n => y.tornTrap x.pc n
          | none => y)) s2)

def State.gangsBack (s : State) (tag : Nat) (bases : List (Nat × Nat)) (skipped : Option Nat) : List ListedGang → Option State
  | [] => some s
  | x :: xs =>
    match s.gangBack tag x ((bases.find? (fun b => b.1 == x.id)).map (fun b => b.2)) skipped with
    | none => none
    | some s1 => s1.gangsBack tag bases skipped xs

/-! ## The command (18 R340) -/

/-- The reports come from every other member, in order. -/
def peersOk (cg : CollGroup) (ps : List PeerRestore) : Bool :=
  decide (ps.map (fun p => p.member) = (List.range 8).filter (fun m => m ≠ cg.me))

/-- Steps 4 to 8. -/
def State.bringBack (s : State) (c : Context) (h : HeldGen) (replaced : Bool) (skipped : Option Nat) : Option State :=
  let s0 := if replaced then s.zeroPages c else s
  let table := h.slot.image.take (tableBytes h.ngang h.npage)
  let lead := roundUp table.length 65536
  match s0.pagesBack c h.slot.marks (lead / 64) (pagesOf table h.ngang h.npage) (h.slot.image.drop lead) with
  | none => none
  | some s1 =>
    let keep := Vector.ofFn (fun (i : Fin 2) => if i.val = h.gen % 2 then some h.slot else none)
    let s2 := s1.modCtx c.tag (fun c => { c with terminated := false, committed := h.gen, slots := keep })
    (s2.gangsBack c.tag h.slot.bases skipped (gangsOf table h.ngang)).map (fun s3 => match skipped with
      | some n => s3.appendEvent c.tag (eventEntry 0x84 0 0 0 (BitVec.ofNat 64 n))
      | none => s3)

/-- RESTORE. -/
def execRestore (e : EvRestore) (s : State) : Host.Outcome State Fault Refusal :=
  happens s (s.command e.fn 0x0E (fun s r =>
    if !s.accepted e.fn 3 then failed s 2
    else s.ownContext e.fn (r.arg 16 2) (fun c =>
      let lost := r.arg 19 1
      match s.collGroups.find? (fun g => g.id == r.arg 18 1) with
      | none => failed s 7
      | some cg =>
        if cg.chips.length ≠ 8 ∨ cg.tag ≠ c.tag ∨ (lost ≠ 0xFF ∧ (7 < lost ∨ cg.chips[lost]? ≠ some (r.arg 20 2))) then failed s 1
        else if !peersOk cg e.peers then none
        else
          let replaced := decide (lost = cg.me)
          let s1 := s.terminate c.tag
          match s1.newestIntact c cg e replaced with
          | none => some (s1, 8, 0)
          | some h => (s1.bringBack c h replaced (skippedGen c e h.gen)).map (fun t => (t, 0, h.gen)))))

end Sys2Proof.Machine
end

