-- ==== Sys2Proof/Machine/Dispatch.lean ====
section
/-! DEFINITION. One arm per row of the opcode table: a call of its meaning. -/

namespace Sys2Proof.Machine

def exec (i : Instr) (s : State) : Host.Outcome State Fault Refusal :=
  match i with
  | .uaddBase x => Sys2Proof.Machine.execUaddBase x s
  | .uaddExt x => Sys2Proof.Machine.execUaddExt x s
  | .usub x => Sys2Proof.Machine.execUsub x s
  | .umul x => Sys2Proof.Machine.execUmul x s
  | .umulh x => Sys2Proof.Machine.execUmulh x s
  | .umin x => Sys2Proof.Machine.execUmin x s
  | .umax x => Sys2Proof.Machine.execUmax x s
  | .uset x => Sys2Proof.Machine.execUset x s
  | .usel x => Sys2Proof.Machine.execUsel x s
  | .upopc x => Sys2Proof.Machine.execUpopc x s
  | .uclz x => Sys2Proof.Machine.execUclz x s
  | .ubfx x => Sys2Proof.Machine.execUbfx x s
  | .ubfi x => Sys2Proof.Machine.execUbfi x s
  | .uandBase x => Sys2Proof.Machine.execUandBase x s
  | .uandExt x => Sys2Proof.Machine.execUandExt x s
  | .uor x => Sys2Proof.Machine.execUor x s
  | .uxor x => Sys2Proof.Machine.execUxor x s
  | .ushlBase x => Sys2Proof.Machine.execUshlBase x s
  | .ushlExt x => Sys2Proof.Machine.execUshlExt x s
  | .ushr x => Sys2Proof.Machine.execUshr x s
  | .usra x => Sys2Proof.Machine.execUsra x s
  | .umovBase x => Sys2Proof.Machine.execUmovBase x s
  | .umovExt x => Sys2Proof.Machine.execUmovExt x s
  | .uli x => Sys2Proof.Machine.execUli x s
  | .vaddBase x => Sys2Proof.Machine.execVaddBase x s
  | .vaddExt x => Sys2Proof.Machine.execVaddExt x s
  | .vsub x => Sys2Proof.Machine.execVsub x s
  | .vmul x => Sys2Proof.Machine.execVmul x s
  | .vmulh x => Sys2Proof.Machine.execVmulh x s
  | .vmin x => Sys2Proof.Machine.execVmin x s
  | .vmax x => Sys2Proof.Machine.execVmax x s
  | .vabs x => Sys2Proof.Machine.execVabs x s
  | .vset x => Sys2Proof.Machine.execVset x s
  | .vsel x => Sys2Proof.Machine.execVsel x s
  | .vpopc x => Sys2Proof.Machine.execVpopc x s
  | .vclz x => Sys2Proof.Machine.execVclz x s
  | .vbfx x => Sys2Proof.Machine.execVbfx x s
  | .vbfi x => Sys2Proof.Machine.execVbfi x s
  | .vaddc x => Sys2Proof.Machine.execVaddc x s
  | .vidx x => Sys2Proof.Machine.execVidx x s
  | .vmad x => Sys2Proof.Machine.execVmad x s
  | .vdot4 x => Sys2Proof.Machine.execVdot4 x s
  | .vandBase x => Sys2Proof.Machine.execVandBase x s
  | .vandExt x => Sys2Proof.Machine.execVandExt x s
  | .vor x => Sys2Proof.Machine.execVor x s
  | .vxor x => Sys2Proof.Machine.execVxor x s
  | .vshlBase x => Sys2Proof.Machine.execVshlBase x s
  | .vshlExt x => Sys2Proof.Machine.execVshlExt x s
  | .vshr x => Sys2Proof.Machine.execVshr x s
  | .vsra x => Sys2Proof.Machine.execVsra x s
  | .vmovBase x => Sys2Proof.Machine.execVmovBase x s
  | .vmovExt x => Sys2Proof.Machine.execVmovExt x s
  | .faddBase x => Sys2Proof.Machine.execFaddBase x s
  | .faddExt x => Sys2Proof.Machine.execFaddExt x s
  | .fsub x => Sys2Proof.Machine.execFsub x s
  | .fmul x => Sys2Proof.Machine.execFmul x s
  | .fmin x => Sys2Proof.Machine.execFmin x s
  | .fmax x => Sys2Proof.Machine.execFmax x s
  | .fabs x => Sys2Proof.Machine.execFabs x s
  | .fneg x => Sys2Proof.Machine.execFneg x s
  | .fset x => Sys2Proof.Machine.execFset x s
  | .fclass x => Sys2Proof.Machine.execFclass x s
  | .ffma x => Sys2Proof.Machine.execFfma x s
  | .fcvt x => Sys2Proof.Machine.execFcvt x s
  | .icvt x => Sys2Proof.Machine.execIcvt x s
  | .bcvt x => Sys2Proof.Machine.execBcvt x s
  | .frnd x => Sys2Proof.Machine.execFrnd x s
  | .frcpBase x => Sys2Proof.Machine.execFrcpBase x s
  | .frcpExt x => Sys2Proof.Machine.execFrcpExt x s
  | .frsq x => Sys2Proof.Machine.execFrsq x s
  | .fsqrt x => Sys2Proof.Machine.execFsqrt x s
  | .fexp2 x => Sys2Proof.Machine.execFexp2 x s
  | .flog2 x => Sys2Proof.Machine.execFlog2 x s
  | .fsin x => Sys2Proof.Machine.execFsin x s
  | .fcos x => Sys2Proof.Machine.execFcos x s
  | .ftanh x => Sys2Proof.Machine.execFtanh x s
  | .vrng x => Sys2Proof.Machine.execVrng x s
  | .vote x => Sys2Proof.Machine.execVote x s
  | .shfl x => Sys2Proof.Machine.execShfl x s
  | .redux x => Sys2Proof.Machine.execRedux x s
  | .scan x => Sys2Proof.Machine.execScan x s
  | .ffs x => Sys2Proof.Machine.execFfs x s
  | .setpart x => Sys2Proof.Machine.execSetpart x s
  | .lmask x => Sys2Proof.Machine.execLmask x s
  | .bra x => Sys2Proof.Machine.execBra x s
  | .brc x => Sys2Proof.Machine.execBrc x s
  | .ubrc x => Sys2Proof.Machine.execUbrc x s
  | .jmp x => Sys2Proof.Machine.execJmp x s
  | .call x => Sys2Proof.Machine.execCall x s
  | .ret x => Sys2Proof.Machine.execRet x s
  | .becomeBase x => Sys2Proof.Machine.execBecomeBase x s
  | .becomeExt x => Sys2Proof.Machine.execBecomeExt x s
  | .merge x => Sys2Proof.Machine.execMerge x s
  | .sync x => Sys2Proof.Machine.execSync x s
  | .gsync => Sys2Proof.Machine.execGsync s
  | .yield => Sys2Proof.Machine.execYield s
  | .nopBase => Sys2Proof.Machine.execNopBase s
  | .nopExt => Sys2Proof.Machine.execNopExt s
  | .setfmtBase x => Sys2Proof.Machine.execSetfmtBase x s
  | .setfmtExt x => Sys2Proof.Machine.execSetfmtExt x s
  | .getfmt x => Sys2Proof.Machine.execGetfmt x s
  | .getsr x => Sys2Proof.Machine.execGetsr x s
  | .setprio x => Sys2Proof.Machine.execSetprio x s
  | .ldBase x => Sys2Proof.Machine.execLdBase x s
  | .ldExt x => Sys2Proof.Machine.execLdExt x s
  | .ldu x => Sys2Proof.Machine.execLdu x s
  | .stBase x => Sys2Proof.Machine.execStBase x s
  | .stExt x => Sys2Proof.Machine.execStExt x s
  | .stu x => Sys2Proof.Machine.execStu x s
  | .atom x => Sys2Proof.Machine.execAtom x s
  | .atomu x => Sys2Proof.Machine.execAtomu x s
  | .red x => Sys2Proof.Machine.execRed x s
  | .oapp x => Sys2Proof.Machine.execOapp x s
  | .pref x => Sys2Proof.Machine.execPref x s
  | .cflush x => Sys2Proof.Machine.execCflush x s
  | .fence x => Sys2Proof.Machine.execFence x s
  | .ifence => Sys2Proof.Machine.execIfence s
  | .setmod x => Sys2Proof.Machine.execSetmod x s
  | .stmap x => Sys2Proof.Machine.execStmap x s
  | .stunmap x => Sys2Proof.Machine.execStunmap x s
  | .stwb x => Sys2Proof.Machine.execStwb x s
  | .stdrop x => Sys2Proof.Machine.execStdrop x s
  | .swinit x => Sys2Proof.Machine.execSwinit x s
  | .swarrive x => Sys2Proof.Machine.execSwarrive x s
  | .swexpect x => Sys2Proof.Machine.execSwexpect x s
  | .swwait x => Sys2Proof.Machine.execSwwait x s
  | .wait x => Sys2Proof.Machine.execWait x s
  | .ldt x => Sys2Proof.Machine.execLdt x s
  | .stt x => Sys2Proof.Machine.execStt x s
  | .cqcfg x => Sys2Proof.Machine.execCqcfg x s
  | .copy x => Sys2Proof.Machine.execCopy x s
  | .gather x => Sys2Proof.Machine.execGather x s
  | .scatter x => Sys2Proof.Machine.execScatter x s
  | .scatadd x => Sys2Proof.Machine.execScatadd x s
  | .strcfg x => Sys2Proof.Machine.execStrcfg x s
  | .strgo x => Sys2Proof.Machine.execStrgo x s
  | .strhalt x => Sys2Proof.Machine.execStrhalt x s
  | .spbind x => Sys2Proof.Machine.execSpbind x s
  | .slotsig x => Sys2Proof.Machine.execSlotsig x s
  | .coll x => Sys2Proof.Machine.execColl x s
  | .mres x => Sys2Proof.Machine.execMres x s
  | .mrel => Sys2Proof.Machine.execMrel s
  | .mstat x => Sys2Proof.Machine.execMstat x s
  | .mldb x => Sys2Proof.Machine.execMldb x s
  | .mmul x => Sys2Proof.Machine.execMmul x s
  | .mamov x => Sys2Proof.Machine.execMamov x s
  | .mzero x => Sys2Proof.Machine.execMzero x s
  | .mfenceBase => Sys2Proof.Machine.execMfenceBase s
  | .mfenceExt => Sys2Proof.Machine.execMfenceExt s
  | .mwait x => Sys2Proof.Machine.execMwait x s
  | .prune x => Sys2Proof.Machine.execPrune x s
  | .mldbs x => Sys2Proof.Machine.execMldbs x s
  | .mmuls x => Sys2Proof.Machine.execMmuls x s
  | .mhdr x => Sys2Proof.Machine.execMhdr x s
  | .qpush x => Sys2Proof.Machine.execQpush x s
  | .qpop x => Sys2Proof.Machine.execQpop x s
  | .qtry x => Sys2Proof.Machine.execQtry x s
  | .qlen x => Sys2Proof.Machine.execQlen x s
  | .qstat x => Sys2Proof.Machine.execQstat x s
  | .tspawn x => Sys2Proof.Machine.execTspawn x s
  | .tdone x => Sys2Proof.Machine.execTdone x s
  | .wlpush x => Sys2Proof.Machine.execWlpush x s
  | .wlins x => Sys2Proof.Machine.execWlins x s
  | .wlpop x => Sys2Proof.Machine.execWlpop x s
  | .futset x => Sys2Proof.Machine.execFutset x s
  | .futget x => Sys2Proof.Machine.execFutget x s
  | .bkptBase => Sys2Proof.Machine.execBkptBase s
  | .bkptExt x => Sys2Proof.Machine.execBkptExt x s
  | .trap x => Sys2Proof.Machine.execTrap x s
  | .syscall x => Sys2Proof.Machine.execSyscall x s
  | .eret => Sys2Proof.Machine.execEret s
  | .csrr x => Sys2Proof.Machine.execCsrr x s
  | .csrw x => Sys2Proof.Machine.execCsrw x s
  | .chkmode x => Sys2Proof.Machine.execChkmode x s
  | .rpmark x => Sys2Proof.Machine.execRpmark x s
  | .rpget x => Sys2Proof.Machine.execRpget x s
  | .ckseal x => Sys2Proof.Machine.execCkseal x s
  | .finj x => Sys2Proof.Machine.execFinj x s
  | .walkStart x => Sys2Proof.Machine.execWalkStart x s
  | .walkComplete x => Sys2Proof.Machine.execWalkComplete x s
  | .pageMigration x => Sys2Proof.Machine.execPageMigration x s
  | .loadComplete x => Sys2Proof.Machine.execLoadComplete x s
  | .storePerformed x => Sys2Proof.Machine.execStorePerformed x s
  | .updateOnlyMerge x => Sys2Proof.Machine.execUpdateOnlyMerge x s
  | .redUpdateArrival x => Sys2Proof.Machine.execRedUpdateArrival x s
  | .appendElementWrite x => Sys2Proof.Machine.execAppendElementWrite x s
  | .lineRecall x => Sys2Proof.Machine.execLineRecall x s
  | .engineCommandComplete x => Sys2Proof.Machine.execEngineCommandComplete x s
  | .engineLineWrite x => Sys2Proof.Machine.execEngineLineWrite x s
  | .fillSlotReady x => Sys2Proof.Machine.execFillSlotReady x s
  | .drainSlotReturn x => Sys2Proof.Machine.execDrainSlotReturn x s
  | .streamLastElement x => Sys2Proof.Machine.execStreamLastElement x s
  | .collRendezvous x => Sys2Proof.Machine.execCollRendezvous x s
  | .syncWordArrival x => Sys2Proof.Machine.execSyncWordArrival x s
  | .stashWriteback x => Sys2Proof.Machine.execStashWriteback x s
  | .tileOperationStart x => Sys2Proof.Machine.execTileOperationStart x s
  | .tileOperationComplete x => Sys2Proof.Machine.execTileOperationComplete x s
  | .reservationRelease x => Sys2Proof.Machine.execReservationRelease x s
  | .sharedAgeingServe x => Sys2Proof.Machine.execSharedAgeingServe x s
  | .splitMerge x => Sys2Proof.Machine.execSplitMerge x s
  | .reconvergence x => Sys2Proof.Machine.execReconvergence x s
  | .membershipComplete x => Sys2Proof.Machine.execMembershipComplete x s
  | .deckleBecome x => Sys2Proof.Machine.execDeckleBecome x s
  | .materialisation x => Sys2Proof.Machine.execMaterialisation x s
  | .gsyncComplete x => Sys2Proof.Machine.execGsyncComplete x s
  | .hostPush x => Sys2Proof.Machine.execHostPush x s
  | .successorPush x => Sys2Proof.Machine.execSuccessorPush x s
  | .taskDispatch x => Sys2Proof.Machine.execTaskDispatch x s
  | .effectiveLevelRaise x => Sys2Proof.Machine.execEffectiveLevelRaise x s
  | .queueHolding x => Sys2Proof.Machine.execQueueHolding x s
  | .gangMigration x => Sys2Proof.Machine.execGangMigration x s
  | .forwardingExpire x => Sys2Proof.Machine.execForwardingExpire x s
  | .forwardedMessage x => Sys2Proof.Machine.execForwardedMessage x s
  | .splitBoost x => Sys2Proof.Machine.execSplitBoost x s
  | .pressWake x => Sys2Proof.Machine.execPressWake x s
  | .skidEnd x => Sys2Proof.Machine.execSkidEnd x s
  | .handlerDelivery x => Sys2Proof.Machine.execHandlerDelivery x s
  | .ezdenTrap x => Sys2Proof.Machine.execEzdenTrap x s
  | .syscallComplete x => Sys2Proof.Machine.execSyscallComplete x s
  | .syscallTimeout x => Sys2Proof.Machine.execSyscallTimeout x s
  | .preemption x => Sys2Proof.Machine.execPreemption x s
  | .preemptionComplete x => Sys2Proof.Machine.execPreemptionComplete x s
  | .contextSwitch x => Sys2Proof.Machine.execContextSwitch x s
  | .contextRestore x => Sys2Proof.Machine.execContextRestore x s
  | .gangExit x => Sys2Proof.Machine.execGangExit x s
  | .gangKill x => Sys2Proof.Machine.execGangKill x s
  | .uncorrectableError x => Sys2Proof.Machine.execUncorrectableError x s
  | .correctableError x => Sys2Proof.Machine.execCorrectableError x s
  | .replayQueueExecution x => Sys2Proof.Machine.execReplayQueueExecution x s
  | .signatureMatch x => Sys2Proof.Machine.execSignatureMatch x s
  | .pairRollback x => Sys2Proof.Machine.execPairRollback x s
  | .pairRestore x => Sys2Proof.Machine.execPairRestore x s
  | .injectionFire x => Sys2Proof.Machine.execInjectionFire x s
  | .peerChipLoss x => Sys2Proof.Machine.execPeerChipLoss x s
  | .halufRetransmit x => Sys2Proof.Machine.execHalufRetransmit x s
  | .durableAcknowledge x => Sys2Proof.Machine.execDurableAcknowledge x s
  | .checkpointSeal x => Sys2Proof.Machine.execCheckpointSeal x s
  | .sealCommit x => Sys2Proof.Machine.execSealCommit x s
  | .dieReset x => Sys2Proof.Machine.execDieReset x s
  | .chipReset => Sys2Proof.Machine.execChipReset s
  | .perstDeassert x => Sys2Proof.Machine.execPerstDeassert x s
  | .bootReady => Sys2Proof.Machine.execBootReady s
  | .bootTimeout x => Sys2Proof.Machine.execBootTimeout x s
  | .functionLevelReset x => Sys2Proof.Machine.execFunctionLevelReset x s
  | .hostBar2Read x => Sys2Proof.Machine.execHostBar2Read x s
  | .hostBar2Write x => Sys2Proof.Machine.execHostBar2Write x s
  | .bar0OtherWrite x => Sys2Proof.Machine.execBar0OtherWrite x s
  | .invalidCommandRecord x => Sys2Proof.Machine.execInvalidCommandRecord x s
  | .negotiateFeatures x => Sys2Proof.Machine.execNegotiateFeatures x s
  | .createContext x => Sys2Proof.Machine.execCreateContext x s
  | .destroyContext x => Sys2Proof.Machine.execDestroyContext x s
  | .map x => Sys2Proof.Machine.execMap x s
  | .unmap x => Sys2Proof.Machine.execUnmap x s
  | .loadCode x => Sys2Proof.Machine.execLoadCode x s
  | .createQueueObject x => Sys2Proof.Machine.execCreateQueueObject x s
  | .destroyQueueObject x => Sys2Proof.Machine.execDestroyQueueObject x s
  | .readEnumerationTable x => Sys2Proof.Machine.execReadEnumerationTable x s
  | .readCounters x => Sys2Proof.Machine.execReadCounters x s
  | .setPowerCap x => Sys2Proof.Machine.execSetPowerCap x s
  | .setAgeingBlock x => Sys2Proof.Machine.execSetAgeingBlock x s
  | .configureParityGroup x => Sys2Proof.Machine.execConfigureParityGroup x s
  | .restore x => Sys2Proof.Machine.execRestore x s
  | .attest x => Sys2Proof.Machine.execAttest x s
  | .bindWindow x => Sys2Proof.Machine.execBindWindow x s
  | .notAnInstruction => Sys2Proof.Machine.execNotAnInstruction s
  | .pressModeSwitch x => Sys2Proof.Machine.execPressModeSwitch x s

end Sys2Proof.Machine
end

