-- ==== Sys2Proof/Machine/Step.lean ====
section
/-! DEFINITION. One step: the row that is due runs. -/

namespace Sys2Proof.Machine

/-- One step of the part: an instruction of one split or an event, whole and indivisible (95). -/
def step (s : State) : Host.Outcome State Fault Refusal :=
  match s.due with
  | .run i s' => exec i s'
  | .idle s' => .next s'

/-- The state with an instruction stored where the next step fetches; where no split is due, with a program placed from
outside, so that the very next step issues it (log 18). -/
def State.withFetchWord (s : State) (nbits w : Nat) : State :=
  let bytes := bytesOfNat 20 (w % 2 ^ nbits)
  match s.fetchPlace with
  | some a => { s with mem := s.mem.writeBytes a bytes }
  | none => s.placeProgram bytes

end Sys2Proof.Machine
end

