-- ==== Sys2Proof/Safety.lean ====
section
/-! DEFINITION. What claims are stated with: the invariant of the model's own representation, what a split sees in its registers, when an instruction issues with nothing against it, and what a step leaves as it was. -/

namespace Sys2Proof.Machine

/-- The memories of the state are in canonical form. -/
def State.memWf (s : State) : Prop := s.mem.wf = true ∧ s.vat.wf = true

/-- An outcome is a next state. -/
def goesOn (o : Host.Outcome State Fault Refusal) : Prop := ∃ t, o = .next t

/-! ## What a split sees -/

/-- A uniform register as a split sees it (13 R243); 0 where there is no such split. -/
def State.sAt (s : State) (f : Focus) (r : SReg) : Word :=
  match s.group? f.gang f.group, s.split? f with
  | some g, some sp => g.readS sp r
  | _, _ => 0

/-- A uniform predicate as a split sees it. -/
def State.upAt (s : State) (f : Focus) (r : UPReg) : Bool :=
  match s.group? f.gang f.group, s.split? f with
  | some g, some sp => g.readUp sp r
  | _, _ => false

/-- A modulo register as a split sees it. -/
def State.mAt (s : State) (f : Focus) (r : MReg) : Option ModReg :=
  match s.group? f.gang f.group, s.split? f with
  | some g, some sp => some (g.readM sp r)
  | _, _ => none

/-- A predicate of a group. -/
def State.predAt (s : State) (gang slot : Nat) (p : PReg) : LaneMask :=
  match s.group? gang slot with
  | some g => g.pred p
  | none => 0

/-- The PC of a split. -/
def State.pcAt (s : State) (f : Focus) : Word :=
  match s.split? f with
  | some sp => sp.pc
  | none => 0

/-- A vector operand as the issuing split reads it: a lane of a register, or of a pair with the low half in the first (02 R28). -/
def State.vecAt (s : State) (f : Focus) (wide : Bool) (n l : Nat) : Word :=
  if wide then s.lane f.gang f.group (n + 1) l ++ s.lane f.gang f.group n l else (s.lane f.gang f.group n l).zeroExtend 64

/-- None of the bytes of a lane of a register belongs to a dead lane, whose writes are discarded (10 R193). -/
def State.laneLives (s : State) (f : Focus) (r l : Nat) : Prop :=
  ∀ g, s.gang? f.gang = some g → ∀ i, i < 4 → s.deadByte g.core (g.window f.group + 128 * r + 4 * l + i) = false

/-- The vat bytes of the active lanes of a register, or of a pair (07 R141). -/
def State.laneBytes (s : State) (f : Focus) (wide : Bool) (n : Nat) (exec : LaneMask) (k : Nat) : Prop :=
  ∃ g l r i, s.gang? f.gang = some g ∧ l < 32 ∧ exec.getLsbD l = true ∧ (r = n ∨ wide = true ∧ r = n + 1) ∧ i < 4 ∧
    k = vatKey g.core (g.window f.group + 128 * r + 4 * l) + i

/-! ## An instruction that issues with nothing against it -/

/-- The split in focus can issue an instruction of `len` bytes that needs `n`: the checks of 02 R41 before its own ones pass, a lane is
active, the operands are ready. `c` is what it issues in. -/
structure Issues (s : State) (n : Need) (len : Nat) (c : Iss) : Prop where
  can : s.canIssue s.cur = true
  place : c.f = s.cur
  len : c.len = len
  state : c.s = s.modSplit s.cur Split.go
  gang : s.gang? s.cur.gang = some c.gang
  grp : s.group? s.cur.gang s.cur.group = some c.grp
  sp : s.split? s.cur = some c.sp
  mask : c.exec = c.sp.lanes &&& c.grp.guardMask n.g
  need : checkNeed s c.f c.gang c.grp n = 0
  active : c.exec ≠ 0
  ready : s.operandsReady c.gang c.grp c.sp n = true
  slack : s.slackStall c.gang c.grp = false

/-- The state after an instruction whose body leaves `t`: the PC is behind the instruction, the issue is counted (02 R42). -/
def State.after (t : State) (c : Iss) : State := countIssue (advance t c.f c.len) c.f

/-- The state after an instruction whose body has placed the PC. -/
def State.jumped (t : State) (c : Iss) : State := countIssue t c.f

/-! ## Frames -/

/-- Only gangs and the cores' counters and queues differ: memory, the vats, queues, contexts and everything else are as before. -/
def gangsOnly (s t : State) : Prop := ∃ gs cs, t = { s with gangs := gs, cores := cs }

/-- Only gangs, cores and the vats differ. -/
def coreOnly (s t : State) : Prop := ∃ gs cs v, t = { s with gangs := gs, cores := cs, vat := v }

/-- Every gang but one, and every other group of that one, is as before. -/
def othersSame (s t : State) (f : Focus) : Prop :=
  (∀ id, id ≠ f.gang → t.gang? id = s.gang? id) ∧ ∀ slot, slot ≠ f.group → t.group? f.gang slot = s.group? f.gang slot

/-- The issuing split sees every uniform register but those named as before. -/
def uniformSame (s t : State) (f : Focus) (ss : List SReg) (ups : List UPReg) (ms : List MReg) : Prop :=
  (∀ r, r ∉ ss → t.sAt f r = s.sAt f r) ∧ (∀ r, r ∉ ups → t.upAt f r = s.upAt f r) ∧ ∀ r, r ∉ ms → t.mAt f r = s.mAt f r

/-- A group's identity, predicates, lane ordinals, parked lanes, counters, queues, ports and tile operations are as before. -/
def groupSame (x y : Group) : Prop :=
  y.slot = x.slot ∧ y.gid = x.gid ∧ y.p = x.p ∧ y.ords = x.ords ∧ y.dead = x.dead ∧ y.parked = x.parked ∧
  y.ucflag = x.ucflag ∧ y.ldc = x.ldc ∧ y.stc = x.stc ∧ y.cpc = x.cpc ∧ y.tlc = x.tlc ∧ y.loads = x.loads ∧ y.stores = x.stores ∧ y.fences = x.fences ∧
  y.predWait = x.predWait ∧ y.carry = x.carry ∧ y.ports = x.ports ∧ y.nextb = x.nextb ∧ y.batches = x.batches ∧ y.tiles = x.tiles ∧
  y.prio = x.prio

/-- A gang's place, task, sequence, control and recovery registers, effects and pair are as before. -/
def gangSame (g h : Gang) : Prop :=
  h.id = g.id ∧ h.ctx = g.ctx ∧ h.core = g.core ∧ h.task = g.task ∧ h.base = g.base ∧ h.csr = g.csr ∧ h.rpt = g.rpt ∧ h.chk = g.chk ∧
  h.seq = g.seq ∧ h.pend = g.pend ∧ h.channels = g.channels ∧ h.effects = g.effects ∧ h.run = g.run ∧ h.pair = g.pair

/-- Another split of the group is as before, but that a stall of it is to be tried again. -/
def bystander (a b : Option Split) : Prop := b = a ∨ b = a.map Split.retry

/-- The issuing split holds the lanes, formats, stack and age it held. -/
def ownSame (a b : Split) : Prop :=
  b.lanes = a.lanes ∧ b.fmt = a.fmt ∧ b.part = a.part ∧ b.stack = a.stack ∧ b.age = a.age ∧ b.boost = a.boost ∧ b.idle = a.idle

/-- A core's stash, stream engines, deckle queue and replay queue, and its counters but that of serialisations, are as before. -/
def coreSame (a b : CoreRec) : Prop := b = { a with serialisations := b.serialisations }

/-- What every instruction that works on its own registers leaves alone. -/
structure Kept (s t : State) (f : Focus) : Prop where
  others : othersSame s t f
  group : ∀ x, s.group? f.gang f.group = some x → ∃ y, t.group? f.gang f.group = some y ∧ groupSame x y ∧
    ∀ i, i ≠ f.split → bystander (x.split? i) (y.split? i)
  gang : ∀ g, s.gang? f.gang = some g → ∃ h, t.gang? f.gang = some h ∧ gangSame g h
  own : ∀ a, s.split? f = some a → ∃ b, t.split? f = some b ∧ ownSame a b
  cores : ∀ c, coreSame (s.core? c) (t.core? c)

end Sys2Proof.Machine
end

