-- ==== Sys2Proof/Certificates/Slice0/Obligations.lean ====
section
/-! DEFINITION. The statements for the provers. -/

open Sys2Proof Sys2Proof.Machine

namespace Sys2Proof.Claims

/-! ## Uniform members (09 R176-R178, R180, R182, R183) -/

/-- What a uniform member writes: the registers it needs, its destination, whether the checks of its fields pass, and the value from
what the split reads in its s registers and uniform predicates. -/
structure Uni where
  need : Need
  dst : UEntry
  good : Bool
  value : (SReg → Word) → (UPReg → Bool) → Word

def src (rd : SReg → Word) : USrc → Word
  | .reg r => rd r
  | .short v | .long v => v

/-- Two sources read at the type's width, an exact integer, delivered wrapping or saturating and extended (09 R176, R177). -/
def bin (x : UBin) (op : Int → Int → Int) : Uni :=
  { need := { ss := x.d :: x.a :: usrcRegs x.b }, dst := .s x.d 0, good := true
    value := fun rd _ => extendTy x.ty (deliver x.ty x.sat (op (readInt x.ty (rd x.a)) (readInt x.ty (src rd x.b)))) }

/-- A bitwise or shift operation on the sources' n bits. -/
def bits (x : UBin) (op : Nat → Nat → Nat) : Uni :=
  { need := { ss := x.d :: x.a :: usrcRegs x.b }, dst := .s x.d 0, good := true
    value := fun rd _ =>
      extendTy x.ty (op ((rd x.a).toNat % 2 ^ x.ty.bits) ((src rd x.b).toNat % 2 ^ x.ty.bits) % 2 ^ x.ty.bits) }

/-- Arithmetic shift right: the sign fills, and a shift of the width or more leaves the sign (09 R177). -/
def sra (n : Nat) (i : Int) (k : Nat) : Int := if k < n then i / 2 ^ k else if i < 0 then -1 else 0

/-- Byte `k` of a value as a signed number. -/
def byteOf (w : Word) (k : Nat) : Int := signedOf 8 (w.toNat / 2 ^ (8 * k) % 2 ^ 8)

def base (x : Base3) : UBin := { ty := .i64, sat := false, d := sreg x.d, a := sreg x.a, b := .reg (sreg x.b) }

def move (d b : SReg) : Uni :=
  { need := { ss := [d, b] }, dst := .s d 0, good := true, value := fun rd _ => rd b }

def one (x : UUn) (op : Nat → Nat) : Uni :=
  { need := { ss := [x.d, x.a] }, dst := .s x.d 0, good := true
    value := fun rd _ => extendTy x.ty (deliver x.ty false (op ((rd x.a).toNat % 2 ^ x.ty.bits))) }

/-- The uniform members that write an s register, and USET. -/
def uni : Instr → Option Uni
  | .uaddBase x => some (bin (base x) (· + ·))
  | .uaddExt x => some (bin x (· + ·))
  | .usub x => some (bin x (· - ·))
  | .umul x => some (bin x (· * ·))
  | .umulh x => some (bin x (fun a b => a * b / 2 ^ x.ty.bits))
  | .umin x => some (bin x min)
  | .umax x => some (bin x max)
  | .uandBase x => some (bits (base x) (· &&& ·))
  | .uandExt x => some (bits x (· &&& ·))
  | .uor x => some (bits x (· ||| ·))
  | .uxor x => some (bits x (· ^^^ ·))
  | .ushlBase x => some (bits (base x) (fun a k => if k < 64 then a * 2 ^ k else 0))
  | .ushlExt x => some (bits x (fun a k => if k < x.ty.bits then a * 2 ^ k else 0))
  | .ushr x => some (bits x (fun a k => if k < x.ty.bits then a / 2 ^ k else 0))
  | .usra x => some
      { need := { ss := x.d :: x.a :: usrcRegs x.b }, dst := .s x.d 0, good := true
        value := fun rd _ => extendTy x.ty (deliver x.ty x.sat
          (sra x.ty.bits (signedOf x.ty.bits (rd x.a).toNat) ((src rd x.b).toNat % 2 ^ x.ty.bits))) }
  | .uset x => some
      { need := { ss := x.a :: usrcRegs x.b, ups := [x.d] }, dst := .up x.d false, good := intCondOk x.cc
        value := fun rd _ => BitVec.ofNat 64 (bit (intCond x.cc (readInt x.ty (rd x.a)) (readInt x.ty (src rd x.b)))) }
  | .usel x => some
      { need := { ss := x.d :: x.a :: usrcRegs x.b, ups := [x.c] }, dst := .s x.d 0, good := true
        value := fun rd up => if up x.c then rd x.a else src rd x.b }
  | .upopc x => some (one x (fun a => ((List.range x.ty.bits).filter (fun i => a.testBit i)).length))
  | .uclz x => some (one x (leadingZeros x.ty.bits))
  | .ubfx x => some
      { need := { ss := [x.d, x.a] }, dst := .s x.d 0, good := fieldOk x.ty.bits x.pos x.len
        value := fun rd _ => extendTy x.ty (bfx x.ty (rd x.a) x.pos.val x.len.val) }
  | .ubfi x => some
      { need := { ss := x.d :: x.a :: usrcRegs x.b }, dst := .s x.d 0, good := fieldOk x.ty.bits x.pos x.len
        value := fun rd _ => extendTy x.ty (bfi x.ty (rd x.a) (src rd x.b) x.pos.val x.len.val) }
  | .umovBase x => some (move (sreg x.d) (sreg x.b))
  | .umovExt x => some (move x.d x.b)
  | .uli x => some { need := { ss := [x.d] }, dst := .s x.d 0, good := true, value := fun _ _ => x.lit }
  | _ => none

/-- The split reads the value in the destination; in up0, which discards writes, it still reads true (02 R29). -/
def reads (t : State) (f : Focus) (v : Word) : UEntry → Prop
  | .s r _ => t.sAt f r = v
  | .up r _ => t.upAt f r = (decide (r = 0) || decide (v = 1))
  | .m .. => True

/-- Registers of the split that an instruction with a destination leaves alone. -/
def restSame (s t : State) (f : Focus) : UEntry → Prop
  | .s r _ => uniformSame s t f [r] [] []
  | .up r _ => uniformSame s t f [] [r] []
  | .m r _ => uniformSame s t f [] [] [r]

end Sys2Proof.Claims

open Sys2Proof.Claims

/-- 09 R176-R178, R180, R182, R183: a uniform member writes the R177 value to its destination, nothing else of what the split sees, and
the PC goes behind it; memory, the vats, predicates, counters and control registers stay. No flip is due. -/
def Obligations.UniformResult : Prop :=
  ∀ (i : Instr) (u : Uni) (s : State) (c : Iss), uni i = some u → i.wellFormed = true → Issues s u.need i.bytes c →
    u.good = true → c.dueFlip c.s = none →
    ∃ t, exec i s = .next t ∧ reads t c.f (u.value (s.sAt c.f) (s.upAt c.f)) u.dst ∧ restSame s t c.f u.dst ∧
      t.pcAt c.f = s.pcAt c.f + BitVec.ofNat 64 i.bytes ∧ gangsOnly s t ∧ Kept s t c.f

/-! ## Vector members of OP 0x08-0x13, FFS and LMASK -/

namespace Sys2Proof.Claims

/-- What a vector member writes to its destination: what it needs, its sources in the order of its operands with whether each is a pair, its
check, the width and the name of the destination, and the value of a lane from the sources' values. -/
structure Vec where
  need : Need
  srcs : List (Bool × VSrc)
  good : Bool
  wide : Bool
  dst : VOp
  value : Iss → List (Nat → Word) → Nat → Word

def nth (xs : List (Nat → Word)) (k l : Nat) : Word := (xs.getD k (fun _ => 0)) l

def vbase (x : Base3) : VBin := { g := .none, ty := .i32, sat := false, d := .v x.d, a := .v x.a, b := .reg (.v x.b) }

/-- Two sources of one type and a destination of it. -/
def vtwo (g : Guard) (w : Bool) (d a : VOp) (b : VSrc) (value : Iss → List (Nat → Word) → Nat → Word) : Vec :=
  { need := { vs := vuse a w :: vsrcUses b w ++ [vdest d w], ps := guardPreds g, g := g }
    srcs := [(w, .reg a), (w, b)], good := true, wide := w, dst := d, value := value }

/-- Exact integer, delivered wrapping or saturating (09 R177, 08 R167). -/
def vint (x : VBin) (op : Int → Int → Int) : Vec :=
  vtwo x.g x.ty.is64 x.d x.a x.b (fun _ xs l =>
    BitVec.ofNat 64 (deliver x.ty x.sat (op (readInt x.ty (nth xs 0 l)) (readInt x.ty (nth xs 1 l)))))

def vbits (x : VBin) (op : Nat → Nat → Nat) : Vec :=
  vtwo x.g x.ty.is64 x.d x.a x.b (fun _ xs l =>
    BitVec.ofNat 64 (op ((nth xs 0 l).toNat % 2 ^ x.ty.bits) ((nth xs 1 l).toNat % 2 ^ x.ty.bits) % 2 ^ x.ty.bits))

def vone (g : Guard) (w dw : Bool) (d a : VOp) (value : Iss → List (Nat → Word) → Nat → Word) : Vec :=
  { need := { vs := [vuse a w, vdest d dw], ps := guardPreds g, g := g }
    srcs := [(w, .reg a)], good := true, wide := dw, dst := d, value := value }

/-- One float element of each source, rounded once by RM or FMT (08 R162, R163; 09 R185). -/
def vfloat (x : FBin) (op : FOp) : Vec :=
  vtwo x.g x.ty.is64 x.d x.a x.b (fun c xs l =>
    perElement2 x.ty (fop2 op (fmtOf x.ty) (roundOf x.rm c.sp.fmt) (fmtFtz c.sp.fmt)) (nth xs 0 l) (nth xs 1 l))

def vfun (x : FUn) (dw : Bool) (op : FFmt → RoundMode → Bool → Nat → Nat) : Vec :=
  vone x.g x.ty.is64 dw x.d x.a (fun c xs l =>
    perElement x.ty (op (fmtOf x.ty) (roundOf x.rm c.sp.fmt) (fmtFtz c.sp.fmt)) (nth xs 0 l))

def vthree (g : Guard) (w : Bool) (d a : VOp) (b : VSrc) (e : VOp) (value : Iss → List (Nat → Word) → Nat → Word) : Vec :=
  { need := { vs := vuse a w :: vsrcUses b w ++ [vuse e w, vdest d w], ps := guardPreds g, g := g }
    srcs := [(w, .reg a), (w, b), (w, .reg e)], good := true, wide := w, dst := d, value := value }

def vmove (g : Guard) (w : Bool) (d : VOp) (b : VSrc) : Vec :=
  { need := { vs := vsrcUses b w ++ [vdest d w], ps := guardPreds g, g := g }
    srcs := [(w, b)], good := true, wide := w, dst := d, value := fun _ xs l => nth xs 0 l }

def vconvert (x : FCvtI) (good : Bool) : Vec :=
  { vone x.g (srcType x).is64 x.dty.is64 x.d x.a (fun c xs l =>
      widenResult x.dty (convert x.dty (srcType x) (roundOf x.rm c.sp.fmt) (fmtFtz c.sp.fmt) (fmtSatc c.sp.fmt) (nth xs 0 l))) with
    good := good }

/-- The vector members whose whole effect is the value of a V-class destination. -/
def vec : Instr → Option Vec
  | .vaddBase x => some (vint (vbase x) (· + ·))
  | .vaddExt x => some (vint x (· + ·))
  | .vsub x => some (vint x (· - ·))
  | .vmul x => some (vint x (· * ·))
  | .vmulh x => some (vint x (fun a b => a * b / 2 ^ x.ty.bits))
  | .vmin x => some (vint x min)
  | .vmax x => some (vint x max)
  | .vandBase x => some (vbits (vbase x) (· &&& ·))
  | .vandExt x => some (vbits x (· &&& ·))
  | .vor x => some (vbits x (· ||| ·))
  | .vxor x => some (vbits x (· ^^^ ·))
  | .vshlBase x => some (vbits (vbase x) (fun a k => if k < 32 then a * 2 ^ k else 0))
  | .vshlExt x => some (vbits x (fun a k => if k < x.ty.bits then a * 2 ^ k else 0))
  | .vshr x => some (vbits x (fun a k => if k < x.ty.bits then a / 2 ^ k else 0))
  | .vsra x => some (vtwo x.g x.ty.is64 x.d x.a x.b (fun _ xs l =>
      BitVec.ofNat 64 (deliver x.ty false
        (sra x.ty.bits (signedOf x.ty.bits (nth xs 0 l).toNat) ((nth xs 1 l).toNat % 2 ^ x.ty.bits)))))
  | .vabs x => some (vone x.g x.ty.is64 x.ty.is64 x.d x.a (fun _ xs l =>
      BitVec.ofNat 64 (deliver x.ty x.sat (readInt x.ty (nth xs 0 l)).natAbs)))
  | .vpopc x => some (vone x.g x.ty.is64 false x.d x.a (fun _ xs l =>
      BitVec.ofNat 64 ((List.range x.ty.bits).filter (fun i => (nth xs 0 l).getLsbD i)).length))
  | .vclz x => some (vone x.g x.ty.is64 false x.d x.a (fun _ xs l => BitVec.ofNat 64 (leadingZeros x.ty.bits (nth xs 0 l).toNat)))
  | .vbfx x => some { vone x.g false false x.d x.a (fun _ xs l =>
      BitVec.ofNat 64 (bfx x.ty (nth xs 0 l) x.pos.val x.len.val)) with good := fieldOk x.ty.bits x.pos x.len }
  | .vbfi x => some { vtwo x.g false x.d x.a x.b (fun _ xs l =>
      BitVec.ofNat 64 (bfi x.ty (nth xs 0 l) (nth xs 1 l) x.pos.val x.len.val)) with good := fieldOk x.ty.bits x.pos x.len }
  | .vsel x => some
      { need := { vs := vuse x.a x.ty.is64 :: vsrcUses x.b x.ty.is64 ++ [vdest x.d x.ty.is64], ps := x.c :: guardPreds x.g, g := x.g }
        srcs := [(x.ty.is64, .reg x.a), (x.ty.is64, x.b)], good := true, wide := x.ty.is64, dst := x.d
        value := fun c xs l => if (c.grp.pred x.c).getLsbD l then nth xs 0 l else nth xs 1 l }
  | .vidx x => some
      { need := { vs := [vdest x.d false], ss := x.a :: usrcRegs x.b, ps := guardPreds x.g, g := x.g }
        srcs := [], good := true, wide := false, dst := x.d
        value := fun c _ l => c.readS x.a + BitVec.ofNat 64 l * c.usrc x.b }
  | .vmad x => some (vthree x.g false x.d x.a x.b x.c (fun _ xs l =>
      BitVec.ofNat 64 (deliver x.ty x.sat
        (readInt x.ty (nth xs 0 l) * readInt x.ty (nth xs 1 l) + readInt x.ty (nth xs 2 l)))))
  | .vdot4 x => some (vthree x.g false x.d x.a x.b x.c (fun _ xs l =>
      BitVec.ofNat 64 (deliver .i32 x.sat (readInt .i32 (nth xs 2 l) +
        (byteOf (nth xs 0 l) 0 * byteOf (nth xs 1 l) 0 + byteOf (nth xs 0 l) 1 * byteOf (nth xs 1 l) 1 +
         byteOf (nth xs 0 l) 2 * byteOf (nth xs 1 l) 2 + byteOf (nth xs 0 l) 3 * byteOf (nth xs 1 l) 3)))))
  | .vmovBase x => some (vmove .none false (.v x.d) (.reg (.v x.b)))
  | .vmovExt x => some (vmove x.g x.ty.is64 x.d x.b)
  | .faddBase x => some (vfloat { g := .none, ty := .f32, rm := .fmt, d := .v x.d, a := .v x.a, b := .reg (.v x.b) } .add)
  | .faddExt x => some (vfloat x .add)
  | .fsub x => some (vfloat x .sub)
  | .fmul x => some (vfloat x .mul)
  | .fmin x => some (vfloat x .min)
  | .fmax x => some (vfloat x .max)
  | .ffma x => some (vthree x.g x.ty.is64 x.d x.a x.b x.c (fun c xs l =>
      perElement3 x.ty (ffma (fmtOf x.ty) (roundOf x.rm c.sp.fmt) (fmtFtz c.sp.fmt)) (nth xs 0 l) (nth xs 1 l) (nth xs 2 l)))
  | .fabs x => some (vfun x x.ty.is64 (fun F _ ftz a => fabsF F ftz a))
  | .fneg x => some (vfun x x.ty.is64 (fun F _ ftz a => fnegF F ftz a))
  | .fclass x => some (vfun x false (fun F _ _ a => fclass F a))
  | .frnd x => some (vfun x x.ty.is64 frndF)
  | .fcvt x => some (vconvert x (x.dty.isFloat && (srcType x).isFloat))
  | .icvt x => some (vconvert x ((x.dty.isInt && ((srcType x).isInt || (srcType x).isFloat)) || (x.dty.isFloat && (srcType x).isInt)))
  | .frcpBase x => some (vfun { g := .none, ty := .f32, rm := .fmt, d := .v x.d, a := .v x.a } false frcpF)
  | .frcpExt x => some (vfun x false frcpF)
  | .fsqrt x => some (vfun x false fsqrtF)
  | .frsq x => some (vfun x false (fun _ _ ftz a => frsqF ftz a))
  | .fexp2 x => some (vfun x false (fun _ _ ftz a => fexp2F ftz a))
  | .flog2 x => some (vfun x false (fun _ _ ftz a => flog2F ftz a))
  | .fsin x => some (vfun x false (fun _ _ ftz a => fsinF ftz a))
  | .fcos x => some (vfun x false (fun _ _ ftz a => fcosF ftz a))
  | .ftanh x => some (vfun x false (fun _ _ ftz a => ftanhF ftz a))
  | .ffs x => some
      { need := { vs := [vuse x.a x.ty.is64, vdest x.d false] }
        srcs := [(x.ty.is64, .reg x.a)], good := true, wide := false, dst := x.d
        value := fun _ xs l => BitVec.ofNat 64 (((List.range x.ty.bits).find? (fun i => (nth xs 0 l).getLsbD i)).getD x.ty.bits) }
  | .lmask x => some
      { need := { vs := [vdest x.d false] }, srcs := [], good := true, wide := false, dst := x.d
        value := fun c _ l => (lmaskValue x.kind c.sp.tile c.grp.live l).zeroExtend 64 }
  | _ => none

/-- A plain source: a literal, a register pair, or a register that names no port. -/
def plainSrc (c : Iss) : Bool × VSrc → Bool
  | (w, .reg (.v n)) => w || !c.grp.isPort n.val
  | (_, .reg (.k _)) => false
  | _ => true

/-- What a plain source holds in each lane. -/
def srcAt (s : State) (f : Focus) : Bool × VSrc → Nat → Word
  | (w, .reg (.v n)) => fun l => s.vecAt f w n.val l
  | (_, .reg (.k _)) => fun _ => 0
  | (w, .short v) | (w, .long v) => fun _ => if w then v else (v.truncate 32).zeroExtend 64

/-- The sources of a member read at issue in the order of its operands: a port gives a line, a queue its head (02 R28, 05 R119, 07 R145). -/
def takeAll (c : Iss) (s : State) : List (Bool × VSrc) → Except Stop (State × List (Nat → Word))
  | [] => .ok (s, [])
  | x :: xs =>
    match takeSrc c s x.1 x.2 with
    | .error e => .error e
    | .ok (s1, a) =>
      match takeAll c s1 xs with
      | .error e => .error e
      | .ok (s2, as) => .ok (s2, a :: as)

/-- No result of the issuing split is held back for a second execution (17 R318): the mode is not full, or every active lane has a partner. -/
def atOnce (c : Iss) : Prop := c.gang.chk ≠ 2 ∨ c.exec &&& ~~~ pairedLanes c.exec = 0

/-- The active lanes of a register, or of a pair, hold the values, the other lanes what they held; no byte of the vats outside them changes,
and nothing but the vats, the issuing gang and the cores' records. -/
def lanesWritten (s t : State) (c : Iss) (wide : Bool) (n : Fin 256) (v : Nat → Word) : Prop :=
  (∀ l, l < 32 → t.lane c.f.gang c.f.group n.val l = if c.exec.getLsbD l then (v l).truncate 32 else s.lane c.f.gang c.f.group n.val l) ∧
  (wide = true → ∀ l, l < 32 → t.lane c.f.gang c.f.group (n.val + 1) l =
    if c.exec.getLsbD l then (v l >>> 32).truncate 32 else s.lane c.f.gang c.f.group (n.val + 1) l) ∧
  (∀ k, ¬ s.laneBytes c.f wide n.val c.exec k → t.vat.read k = s.vat.read k) ∧ coreOnly s t ∧ Kept s t c.f ∧
  uniformSame s t c.f [] [] []

/-- The active lanes of a destination take writes. -/
def takesWrites (s : State) (c : Iss) (wide : Bool) (n : Fin 256) : Prop :=
  c.grp.isPort n.val = false ∧
  ∀ l, l < 32 → c.exec.getLsbD l = true → s.laneLives c.f n.val l ∧ (wide = true → s.laneLives c.f (n.val + 1) l)

end Sys2Proof.Claims

/-- 09 R177, R179, R181, R182, R184-R189, 10 R204, R206: a vector member with plain sources and a plain destination writes the active lanes
of the destination, and nothing else of registers, predicates, memory or control registers; the PC goes behind it. -/
def Obligations.VectorResult : Prop :=
  ∀ (i : Instr) (v : Vec) (s : State) (c : Iss) (n : Fin 256), vec i = some v → i.wellFormed = true → Issues s v.need i.bytes c →
    v.good = true → v.dst = .v n → v.srcs.all (plainSrc c) = true → takesWrites s c v.wide n → c.dueFlip c.s = none → atOnce c →
    s.vat.wf = true →
    ∃ t, exec i s = .next t ∧ lanesWritten s t c v.wide n (v.value c (v.srcs.map (srcAt s c.f))) ∧
      t.pcAt c.f = s.pcAt c.f + BitVec.ofNat 64 i.bytes

/-- 02 R28, 05 R119, 07 R145, 17 R318: with any sources and any destination a vector member takes its sources in the order of its operands and
delivers its value to the destination, which may be a port, a queue or the replay queue. -/
def Obligations.VectorPorts : Prop :=
  ∀ (i : Instr) (v : Vec) (s : State) (c : Iss) (s1 t : State) (xs : List (Nat → Word)), vec i = some v → i.wellFormed = true →
    Issues s v.need i.bytes c → v.good = true → takeAll c c.s v.srcs = .ok (s1, xs) →
    deliverV c s1 v.dst v.wide c.exec (v.value c xs) = .ok t → exec i s = .next (t.after c)

/-! ## Predicates, carries, random numbers and blocks (09 R180, R181, R188, R190) -/

namespace Sys2Proof.Claims

/-- A predicate write: `u` changes the named predicate in the active lanes of the mask to the given bits and nothing else; p0 takes none
(02 R29, R33). -/
def predWrite (exec : LaneMask) (d : PReg) (v : Nat → Bool) (u : Vector LaneMask 8 → Vector LaneMask 8) : Prop :=
  ∀ p : Vector LaneMask 8, ∀ q : PReg, ∀ l, l < 32 →
    (u p)[q.val].getLsbD l = if q = d ∧ d ≠ 0 ∧ exec.getLsbD l = true then v l else p[q.val].getLsbD l

/-- A comparison member: what it needs, its sources, its check, its destination and the bit of a lane. -/
structure Cmp where
  need : Need
  srcs : List (Bool × VSrc)
  good : Bool
  dst : PReg
  value : Iss → List (Nat → Word) → Nat → Bool

def cmp : Instr → Option Cmp
  | .vset x => some
      { need := { vs := vuse x.a x.ty.is64 :: vsrcUses x.b x.ty.is64, ps := x.d :: guardPreds x.g, g := x.g }
        srcs := [(x.ty.is64, .reg x.a), (x.ty.is64, x.b)], good := intCondOk x.cc, dst := x.d
        value := fun _ xs l => intCond x.cc (readInt x.ty (nth xs 0 l)) (readInt x.ty (nth xs 1 l)) }
  | .fset x => some
      { need := { vs := vuse x.a x.ty.is64 :: vsrcUses x.b x.ty.is64, ps := x.d :: guardPreds x.g, g := x.g }
        srcs := [(x.ty.is64, .reg x.a), (x.ty.is64, x.b)], good := floatCondOk x.cc, dst := x.d
        value := fun c xs l => fcond x.cc (fmtOf x.ty) (fmtFtz c.sp.fmt) ((nth xs 0 l).toNat % 2 ^ x.ty.bits) ((nth xs 1 l).toNat % 2 ^ x.ty.bits) }
  | _ => none

end Sys2Proof.Claims

/-- 09 R180, R181, R190, R188: VSET and FSET write the condition to the predicate in the active lanes; the rest of the state is what reading the
sources left, with the PC behind the instruction. VADDC delivers the low 32 bits of the 33-bit sum and puts its bit 32 into the predicate that gave
the carry in; VRNG delivers the generator's value and advances each active lane's counter by 1; BCVT, in a split that holds every live lane, writes
the mantissa string of the block in the first w lanes, zeros in the others, and the exponent to s[C]; in any other split it traps with 0x02. -/
def Obligations.CompareCarryBlock : Prop :=
  (∀ (i : Instr) (v : Cmp) (s : State) (c : Iss) (s1 : State) (xs : List (Nat → Word)), cmp i = some v → Issues s v.need i.bytes c →
     v.good = true → takeAll c c.s v.srcs = .ok (s1, xs) →
     ∃ u, predWrite c.exec v.dst (v.value c xs) u ∧
       exec i s = .next (State.after (s1.modGroup c.f.gang c.f.group (fun g => { g with p := u g.p })) c)) ∧
  (((∀ (x : VPredI) (s : State) (c : Iss) (s1 t : State) (xs : List (Nat → Word)),
      Issues s { vs := vuse x.a false :: vsrcUses x.b false ++ [vdest x.d false], ps := x.c :: guardPreds x.g, g := x.g } (Instr.vaddc x).bytes c →
      takeAll c c.s [(false, .reg x.a), (false, x.b)] = .ok (s1, xs) →
      let sum := fun l => (nth xs 0 l).toNat % 2 ^ 32 + (nth xs 1 l).toNat % 2 ^ 32 + bit ((c.grp.pred x.c).getLsbD l)
      deliverV c s1 x.d false c.exec (fun l => BitVec.ofNat 64 (sum l % 2 ^ 32)) = .ok t →
      ∃ u, predWrite c.exec x.c (fun l => decide (2 ^ 32 ≤ sum l)) u ∧
        exec (.vaddc x) s = .next (State.after (t.modGroup c.f.gang c.f.group (fun g => { g with p := u g.p })) c)) ∧
    (∀ (x : VRngI) (s : State) (c : Iss) (n : Fin 256) (s1 t : State),
      Issues s { vs := [vuse x.b true, vdest x.d false], ss := [x.a], ps := guardPreds x.g, g := x.g } (Instr.vrng x).bytes c →
      x.b = .v n → (∀ m : Fin 256, x.d = .v m → m.val ≠ n.val ∧ m.val ≠ n.val + 1) →
      deliverV c c.s x.d false c.exec
        (fun l => (rngValue (c.readS x.a) (c.s.vecAt c.f true n.val l)).zeroExtend 64) = .ok s1 →
      storeV c s1 x.b true c.exec (fun l => c.s.vecAt c.f true n.val l + 1) = .ok t →
      exec (.vrng x) s = .next (t.after c))) ∧
   (∀ (x : BCvtI) (s : State) (c : Iss),
      Issues s { vs := [vuse x.a false, vdest x.d false], ss := [x.c] } (Instr.bcvt x).bytes c →
      (c.grp.live ≠ c.sp.lanes →
        exec (.bcvt x) s = .next (raiseTrap (s.trapCopy c none) c.f (Instr.bcvt x).bytes c.exec
          { cause := 0x02, sub := 0, kind := 0, lanes := c.exec, addr := c.sp.pc, info := 0 })) ∧
      (∀ (s1 t : State) (a : Nat → W32), c.grp.live = c.sp.lanes → takeV c c.s x.a = .ok (s1, a) →
        let w := x.w2.val + 2
        let r := bcvt w (fmtFtz c.sp.fmt) ((List.range 32).map (fun l => if c.exec.getLsbD l then a l else 0))
        deliverV c s1 x.d false c.exec
          (fun l => BitVec.ofNat 64 (if l < w then fieldAt (mantString w r.2) (4 * l) 4 else 0)) = .ok t →
        exec (.bcvt x) s = .next ((deliverS c t x.c (BitVec.ofNat 64 r.1)).after c))))

/-! ## Membership instructions (10 R194-R203, 13 R255) -/

namespace Sys2Proof.Claims

/-- The members that wait for the lanes of a mask: what each needs, its mask, and its effect when all have arrived. -/
def member : Instr → Option (Need × MaskSrc × (Iss → State → Except Stop State))
  | .vote x => some (voteNeed x, x.mask, voteEffect x)
  | .shfl x => some (shflNeed x, x.mask, shflEffect x)
  | .redux x => some ({ vs := [vuse x.a x.ty.is64, vdest x.d x.ty.is64] }, x.mask, reduxEffect x)
  | .scan x => some ({ vs := [vuse x.a x.ty.is64, vdest x.d x.ty.is64] }, x.mask, scanEffect x)
  | .sync x => some ({}, x.mask, syncEffect)
  | _ => none

/-- The mask of a membership instruction without lanes that are not live (M' of 10 R197). -/
def memberLanes (c : Iss) (k : MaskSrc) : LaneMask :=
  (match k with
   | .all => 0xFFFFFFFF#32
   | .reg r => (c.readS r).truncate 32) &&& c.grp.live

/-- The mask names no lane outside the issuing split. -/
def maskInside (c : Iss) : MaskSrc → Prop
  | .all => c.exec = 0xFFFFFFFF#32
  | .reg r => (c.readS r).truncate 32 &&& ~~~ c.exec = 0

def memberNeed (n : Need) (k : MaskSrc) : Need := { n with ss := n.ss ++ maskRegs k }

end Sys2Proof.Claims

/-- 10 R197, R198: a membership instruction whose last lanes arrive merges the splits that wait there, has its effect for all of M', and the
merged split goes on behind it; while lanes of M' are missing the arriving split waits, merged with those that wait there for the same lanes. A split with a lane outside
M' traps with 0x03 subcause 3, one that clashes with a waiting split with subcause 1 or 2; the handler split traps with 0x01 where its mask names a
lane outside it, and else completes alone (16 R298). -/
def Obligations.MembershipArrival : Prop :=
  (∀ (i : Instr) (n : Need) (k : MaskSrc) (eff : Iss → State → Except Stop State) (s : State) (c : Iss),
     member i = some (n, k, eff) → Issues s (memberNeed n k) i.bytes c → c.f.split ≠ 4 →
     let m := memberLanes c k
     let slots := sortSlots (c.f.split :: c.grp.mates c.sp.pc m)
     let lo := slots.headD c.f.split
     c.exec &&& ~~~ m = 0 → c.grp.memberClash c.f.split c.sp.pc c.exec m = 0 →
     (∀ t : State, m &&& ~~~ (c.grp.lanesAt slots) = 0 →
       let s1 := if slots.length ≤ 1 then c.s else c.s.mergeAt c.f.gang c.f.group lo slots.tail .ready
       eff (c.completed s1 lo m) s1 = .ok t →
       exec i s = .next (((advance t { c.f with split := lo } c.len).jumped c).deadlockCheck c.f.gang c.f.group)) ∧
     (m &&& ~~~ (c.grp.lanesAt slots) ≠ 0 →
       exec i s = .next (((c.s.mergeAt c.f.gang c.f.group lo slots.tail
         (.waiting (.member i m c.s.order))).jumped c).deadlockCheck c.f.gang c.f.group))) ∧
  (∀ (i : Instr) (n : Need) (k : MaskSrc) (eff : Iss → State → Except Stop State) (s : State) (c : Iss),
     member i = some (n, k, eff) → Issues s (memberNeed n k) i.bytes c →
     let m := memberLanes c k
     let trap := fun cause sub => Host.Outcome.next (State.deadlockCheck (raiseTrap (s.trapCopy c none) c.f i.bytes c.exec
       { cause := cause, sub := sub, kind := 0, lanes := c.exec, addr := c.sp.pc, info := 0 }) c.f.gang c.f.group)
     (c.f.split ≠ 4 → c.exec &&& ~~~ m ≠ 0 → exec i s = trap 0x03 3) ∧
     (c.f.split ≠ 4 → c.exec &&& ~~~ m = 0 → c.grp.memberClash c.f.split c.sp.pc c.exec m ≠ 0 →
       exec i s = trap 0x03 (c.grp.memberClash c.f.split c.sp.pc c.exec m)) ∧
     (c.f.split = 4 → ¬ maskInside c k → exec i s = trap 0x01 0) ∧
     (c.f.split = 4 → maskInside c k → c.exec &&& ~~~ m ≠ 0 → exec i s = trap 0x03 3) ∧
     (∀ t, c.f.split = 4 → maskInside c k → c.exec &&& ~~~ m = 0 → eff { c with exec := m } c.s = .ok t →
       exec i s = .next (((advance t c.f c.len).jumped c).deadlockCheck c.f.gang c.f.group)))

/-- 10 R194, R201: no lane of a shuffle reads outside its tile, an index or xor form always names a lane, and the up and down forms name
none exactly where they would leave the tile. -/
def Obligations.ShuffleStaysInTile : Prop :=
  ∀ (k : ShflKind) (e l d : Nat), e ≤ 5 → l < 32 →
    (∀ j, shflSource k (2 ^ e) l d = some j → j < 32 ∧ j / 2 ^ e = l / 2 ^ e) ∧
    (shflSource k (2 ^ e) l d = none ↔
      (k = .up ∧ (2 ^ e ≤ d ∨ l % 2 ^ e < d)) ∨ (k = .down ∧ (2 ^ e ≤ d ∨ 2 ^ e ≤ l % 2 ^ e + d)))

/-- 10 R200: a vote writes to every member lane whether any, or every, contributing lane of its tile has the predicate (a tile with none gives 1 to the
latter), or the mask of those that have. The members and contributors are the lanes that M' has left (R199). -/
def Obligations.VoteResult : Prop :=
  ∀ (x : VoteI) (c : Iss) (s : State), c.sp.tile ≤ 32 →
    let inTile := fun l j => j < 32 ∧ j / c.sp.tile = l / c.sp.tile ∧ c.exec.getLsbD j = true
    let has := fun j => (c.grp.pred x.a).getLsbD j = true
    (∀ d, x.d = .any d → ∃ u v, predWrite c.exec d v u ∧ (∀ l, l < 32 → (v l = true ↔ ∃ j, inTile l j ∧ has j)) ∧
      voteEffect x c s = .ok (s.modGroup c.f.gang c.f.group (fun g => { g with p := u g.p }))) ∧
    (∀ d, x.d = .all d → ∃ u v, predWrite c.exec d v u ∧ (∀ l, l < 32 → (v l = true ↔ ∀ j, inTile l j → has j)) ∧
      voteEffect x c s = .ok (s.modGroup c.f.gang c.f.group (fun g => { g with p := u g.p }))) ∧
    (∀ d, x.d = .bal d → ∃ v : Nat → LaneMask, (∀ l, l < 32 → ∀ j, (v l).getLsbD j = true ↔ inTile l j ∧ has j) ∧
      voteEffect x c s = deliverV c s d false c.exec (fun l => (v l).zeroExtend 64))

/-! ## Control (13 R237-R249, R255-R261) -/

namespace Sys2Proof.Claims

/-- The members that move lanes, but CALL: what each needs and each lane's target (13 R246, R247). -/
def transfer : Instr → Option (Need × (Iss → Nat → Word))
  | .bra x => some ({}, fun c _ => c.sp.pc + x.ofs.signExtend 64)
  | .brc x => some ({ ps := [x.p] }, fun c l =>
      if ((c.grp.pred x.p).getLsbD l != x.neg) = true then c.sp.pc + x.ofs.signExtend 64 else c.sp.pc + BitVec.ofNat 64 c.len)
  | .ubrc x => some ({ ups := [x.p] }, fun c _ =>
      if (c.grp.readUp c.sp x.p != x.neg) = true then c.sp.pc + x.ofs.signExtend 64 else c.sp.pc + BitVec.ofNat 64 c.len)
  | .jmp x => some ({ vs := targetUses x.target, ss := targetRegs x.target }, fun c => targetOf c x.target)
  | .ret x => some ({ vs := [vuse x.a true] }, fun c => targetOf c (.pair x.a))
  | _ => none
where
  targetOf (c : Iss) : Target → Nat → Word
    | .pair (.v n) => fun l => c.s.vecAt c.f true n.val l
    | .pair (.k _) => fun _ => 0
    | .sreg r => fun _ => c.readS r
    | .lit w => fun _ => w

/-- The lanes of a mask that go to a target that is no multiple of 4. -/
def strays (exec : LaneMask) (tgt : Nat → Word) : List Nat := (lanesOf exec).filter (fun l => (tgt l).toNat % 4 ≠ 0)

/-- Where the lanes go: the group's split, or the handler's, divides by its lanes' targets at the clock. -/
def lanesMoved (s : State) (c : Iss) (tgt : Nat → Word) : State :=
  if c.f.split = 4 then s.modGang c.f.gang (fun g => g.goHandler c.clock.toNat tgt)
  else s.modGroup c.f.gang c.f.group (fun g => g.goTo c.f.split c.clock.toNat tgt)

end Sys2Proof.Claims

/-- 13 R246, R247: branches, jumps and returns move the lanes to their targets where all are multiples of 4; CALL writes the address behind
itself to the link pair first. Lanes whose target is no multiple of 4 trap with 0x04 at the transfer. -/
def Obligations.Transfers : Prop :=
  ((∀ (i : Instr) (n : Need) (tgt : Iss → Nat → Word) (s : State) (c : Iss), transfer i = some (n, tgt) → Issues s n i.bytes c →
     strays c.exec (tgt c) = [] →
     exec i s = .next ((lanesMoved c.s c (tgt c)).jumped c)) ∧
   (∀ (x : CallI) (s : State) (c : Iss) (s1 : State),
     Issues s { vs := targetUses x.target ++ [vdest x.link true], ss := targetRegs x.target } (Instr.call x).bytes c →
     let tgt := transfer.targetOf c x.target
     storeV c c.s x.link true c.exec (fun _ => c.sp.pc + BitVec.ofNat 64 c.len) = .ok s1 → c.dueFlip c.s = none →
     strays c.exec tgt = [] →
     exec (.call x) s = .next ((lanesMoved s1 c tgt).jumped c))) ∧
  (∀ (i : Instr) (n : Need) (tgt : Iss → Nat → Word) (s : State) (c : Iss), transfer i = some (n, tgt) → Issues s n i.bytes c →
     strays c.exec (tgt c) ≠ [] →
     exec i s = .next (raiseTrap (s.trapCopy c none) c.f i.bytes c.exec
       { cause := 0x04, sub := 0, kind := 0, lanes := maskOf (strays c.exec (tgt c)), addr := c.sp.pc, info := 0 }))

/-- 13 R237-R239: a split whose lanes all go to one target keeps its place, its lanes and its registers. When lanes go to several targets, every lane
of the split is in one split or parked entry that stands at its target, and the other splits stay as they were. The handler split divides too: it runs
in serial mode (16 R298), so the part of the lowest lane goes on and the others are suspended behind it (DESIGN CHOICE, log 38). -/
def Obligations.Divergence : Prop :=
  (∀ (g : Group) (i clock : Nat) (sp : Split) (tgt : Nat → Word) (pc : Word), g.split? i = some sp → sp.lanes ≠ 0 →
     (∀ l, l < 32 → sp.lanes.getLsbD l = true → tgt l = pc) →
     g.goTo i clock tgt = g.setSplit i (some { sp with pc := pc, joined := false })) ∧
  (∀ (g : Group) (i clock : Nat) (sp : Split) (tgt : Nat → Word), g.split? i = some sp →
     (∀ l, l < 32 → sp.lanes.getLsbD l = true →
       ∃ y, (y ∈ (g.goTo i clock tgt).parked ∨ ∃ j, (g.goTo i clock tgt).split? j = some y) ∧ y.lanes.getLsbD l = true ∧ y.pc = tgt l ∧
         y.fmt = sp.fmt ∧ y.part = sp.part ∧ y.stack = sp.stack ∧ y.shadows = sp.shadows) ∧
     ∀ j y, j ≠ i → g.split? j = some y → (g.goTo i clock tgt).split? j = some y) ∧
  (∀ (g : Gang) (clock : Nat) (sp : Split) (tgt : Nat → Word), g.handler = some sp → sp.lanes ≠ 0 →
     ∀ l, l < 32 → sp.lanes.getLsbD l = true →
       ∃ y, ((g.goHandler clock tgt).handler = some y ∨ y ∈ (g.goHandler clock tgt).handlerRest) ∧ y.lanes.getLsbD l = true ∧ y.pc = tgt l ∧
         y.fmt = sp.fmt ∧ y.part = sp.part ∧ (l = lowestLane sp.lanes → (g.goHandler clock tgt).handler = some y))

/-- 13 R240, R241, R256, R258, R259, R261, 10 R205: MERGE pushes its address onto the reconvergence stack, of which four entries stay and a lost
one is counted; SETPART, SETFMT and SETPRIO set their fields; YIELD makes the split the youngest; NOP does nothing. -/
def Obligations.SplitRegisters : Prop :=
  (∀ (x : BraI) (s : State) (c : Iss), Issues s {} (Instr.merge x).bytes c → (c.sp.pc + x.ofs.signExtend 64).toNat % 4 = 0 →
    let s1 := c.s.modSplit c.f (fun sp => { sp with stack := ((c.sp.pc + x.ofs.signExtend 64) :: sp.stack).take 4 })
    exec (.merge x) s = .next (State.after (if c.sp.stack.length < 4 then s1
      else s1.modCore c.gang.core (fun k => { k with reconvOverflow := k.reconvOverflow + 1 })) c)) ∧
  (∀ (x : SetPartI) (s : State) (c : Iss), Issues s {} (Instr.setpart x).bytes c →
    exec (.setpart x) s = .next (State.after (c.s.modSplit c.f (fun sp => { sp with part := BitVec.ofNat 16 x.tlog.val })) c)) ∧
  (∀ (x : SetFmtI) (s : State) (c : Iss), Issues s { ss := usrcRegs x.b } (Instr.setfmtExt x).bytes c → fmtOk ((c.usrc x.b).toNat % 2 ^ 16) = true →
    exec (.setfmtExt x) s = .next (State.after (c.s.modSplit c.f (fun sp => { sp with fmt := BitVec.ofNat 16 ((c.usrc x.b).toNat % 2 ^ 16) })) c)) ∧
  (∀ (x : BaseB) (s : State) (c : Iss), Issues s { ss := [sreg x.b] } (Instr.setfmtBase x).bytes c → fmtOk ((c.readS (sreg x.b)).toNat % 2 ^ 16) = true →
    exec (.setfmtBase x) s = .next (State.after (c.s.modSplit c.f (fun sp =>
      { sp with fmt := BitVec.ofNat 16 ((c.readS (sreg x.b)).toNat % 2 ^ 16) })) c)) ∧
  (∀ (x : SetPrioI) (s : State) (c : Iss), Issues s {} (Instr.setprio x).bytes c →
    exec (.setprio x) s = .next (State.after (c.s.modGroup c.f.gang c.f.group (fun g => { g with prio := x.n })) c)) ∧
  (∀ (s : State) (c : Iss), Issues s {} Instr.yield.bytes c → ∃ age : Nat,
    (∀ g x sp, g ∈ c.s.gangs → g.core = c.gang.core → x ∈ g.groups → sp ∈ x.liveSplits.map (·.2) → sp.age < age) ∧ c.clock.toNat ≤ age ∧
    exec .yield s = .next (State.after (c.s.modSplit c.f (fun sp => { sp with age := age })) c)) ∧
  (∀ (s : State) (c : Iss), Issues s {} Instr.nopBase.bytes c → exec .nopBase s = .next (c.s.after c)) ∧
  (∀ (s : State) (c : Iss), Issues s {} Instr.nopExt.bytes c → exec .nopExt s = .next (c.s.after c))

/-- 13 R259, R260, 16 R301: GETFMT, GETSR and CSRR write the register they name; GETSR's CLR lowers the flag it has read. Outside a pair, with no
flip due. -/
def Obligations.SpecialReads : Prop :=
  (∀ (x : DstS) (s : State) (c : Iss), Issues s { ss := [x.d] } (Instr.getfmt x).bytes c → c.dueFlip c.s = none →
    exec (.getfmt x) s = .next (State.after (c.s.writeU c.f (.s x.d (c.sp.fmt.zeroExtend 64))) c)) ∧
  (∀ (x : GetSrI) (d : SReg) (s : State) (c : Iss), x.d = .s d → Issues s { ss := [d] } (Instr.getsr x).bytes c → c.dueFlip c.s = none →
    c.gang.pair = none →
    let s1 := c.s.writeU c.f (.s d (uniSpecial c x.sel))
    exec (.getsr x) s = .next (State.after (if x.clr then s1.modGroup c.f.gang c.f.group (fun g => { g with ucflag := false }) else s1) c)) ∧
  (∀ (x : GetSrI) (d : VOp) (s : State) (c : Iss) (t : State), x.d = .v d → Issues s { vs := [vdest d false] } (Instr.getsr x).bytes c →
    c.dueFlip c.s = none → (x.sel = .rank → deckleBusy c = false) →
    storeV c c.s d false c.exec (fun l => BitVec.ofNat 64 (laneSpecial c x.sel l)) = .ok t → exec (.getsr x) s = .next (t.after c)) ∧
  (∀ (x : CsrRI) (s : State) (c : Iss) (v : Word), Issues s { ss := [x.d] } (Instr.csrr x).bytes c → c.dueFlip c.s = none →
    csrRead c x.csr.toNat = some v → exec (.csrr x) s = .next (State.after (c.s.writeU c.f (.s x.d v)) c))

/-- 13 R249: a BECOME that the deckle can take is queued with its counts, and the split waits; GSYNC makes its split wait for the gang (13 R256). -/
def Obligations.BecomeAndBarrier : Prop :=
  (∀ (i : Instr) (carry : Nat) (b : VSrc) (s : State) (c : Iss) (s1 : State) (v : Nat → Word) (p : Plan),
    ((∃ x : BecomeI, i = .becomeExt x ∧ carry = x.carry.val ∧ b = x.b) ∨
      ∃ x : BaseDB, i = .becomeBase x ∧ carry = x.d.val ∧ b = .reg (.v x.b)) →
    Issues s { vs := vsrcUses b false } i.bytes c → c.f.split ≠ 4 →
    (∀ y, y ∈ c.grp.liveSplits → y.1 ≠ c.f.split → memberMask c.grp y.2 = none) → vectorPending c = false → deckleBusy c = false →
    carry ≤ 64 → carry ≤ c.gang.task.w → (∀ k, k ∈ c.grp.carry.toList → k = none) →
    takeSrc c c.s false b = .ok (s1, v) → (∀ l, l ∈ lanesOf c.exec → (v l).toNat % 2 ^ 32 ≤ 4096) →
    s1.plan c.gang c.grp c.sp carry (fun l => (v l).toNat % 2 ^ 32) c.after = some p →
    c.gang.outOfOrder (becomeAct c.f.group) = false →
    exec i s = .next (((s1.modGroup c.f.gang c.f.group (fun g => g.hold c.f.split .become)).modCore c.gang.core (fun k =>
      { k with deckle := k.deckle ++ [{
          gang := c.f.gang, group := c.f.group, split := Fin.ofNat 4 c.f.split, carry := carry
          counts := (lanesOf c.exec).map (fun l => (l, (v l).toNat % 2 ^ 32)), rpc := c.sp.pc + BitVec.ofNat 64 c.len }] })).jumped c
      |>.deadlockCheck c.f.gang c.f.group)) ∧
  (∀ (s : State) (c : Iss), Issues s {} Instr.gsync.bytes c → c.f.split ≠ 4 → barrierClash c = false →
    exec .gsync s = .next (((c.s.modGroup c.f.gang c.f.group (fun g =>
      g.setWaiting c.f.split (.gsync c.s.order))).jumped c).deadlockCheck c.f.gang c.f.group))

/-! ## Memory (04 R64-R91) -/

namespace Sys2Proof.Claims

def ldBase (x : Base3) : LdI :=
  { g := .none, ty := .n32, ord := .plain, scope := .dflt, d := .v x.d, addr := .base (sreg x.a) 0 x.b, sp := false, nt := false }

/-- The address of a lane (04 R65-R67): `size` is the element's bytes, `base` and `index` the values of vector address registers. -/
def laneAddress (c : Iss) (size : Nat) (base index : Nat → Word) (l : Nat) : AddrExp → Word
  | .base a ofs n => c.readS a + (ofs.signExtend 64 + BitVec.ofNat 64 (n.val * size)) + BitVec.ofNat 64 (l * size)
  | .indexed a _ ofs n =>
    c.readS a + (ofs.signExtend 64 + BitVec.ofNat 64 (n.val * size)) + ((index l).truncate 32 : W32).signExtend 64 * BitVec.ofNat 64 size
  | .postinc a _ => c.readS a + BitVec.ofNat 64 (l * size)
  | .modulo m _ =>
    (c.grp.readM c.sp m).base.zeroExtend 64 +
      BitVec.ofNat 64 (((c.grp.readM c.sp m).idx.toNat + l * size) % (c.grp.readM c.sp m).len.toNat)
  | .lane _ ofs n => base l + (ofs.signExtend 64 + BitVec.ofNat 64 (n.val * size))

/-- The accesses of a member with one access per active lane, and of a uniform member (04 R67). -/
def laneAccess (c : Iss) (e : AddrExp) (size : Nat) (base index : Nat → Word) : List Access :=
  (lanesOf c.exec).map (fun l => { lanes := laneBit l, lane := l, addr := laneAddress c size base index l e })

def oneAccess (c : Iss) (e : AddrExp) (size : Nat) : List Access :=
  [{ lanes := c.exec, lane := 0, addr := laneAddress c size (fun _ => 0) (fun _ => 0) 0 e }]

/-- A member's operands for its address are read: the state after them, the vector base, the vector index. -/
def addressRead (c : Iss) (s : State) (e : AddrExp) (sp : Bool) (s2 : State) (base index : Nat → Word) : Prop :=
  ∃ s1, takeBase c s e sp = .ok (s1, base) ∧ takeIndex c s1 e = .ok (s2, index)

/-- The accesses of a load pass the checks of R71 and are not held back; the state in which the load goes on, and the values it has read. A ring of
AM 3 lies in the vat, whatever SP (04 R64). -/
def loadPasses (c : Iss) (s : State) (e : AddrExp) (sp : Bool) (size : Nat) (as : List Access) (ps : List Placed) (t : State)
    (vals : List Word) : Prop :=
  checkAccesses c s { sp := vatSpace e sp, kind := .read, size := size, align := true, empty := lenZero c e, own := noOwn } as = .ok ps ∧
  c.grp.ldc < 63 ∧
  (if vatSpace e sp then readyVat c s false ps = .ok () ∧ consume s c.gang.core true .read size ps = .ok () ∧ t = s ∧
     vals = ps.map (fun p => BitVec.ofNat 64 (s.vat.readLE (vatKey c.gang.core p.x.pa) size))
   else checkWatch c .read size as = .ok () ∧
     ∃ s1 s2, touch c s (vasOf ps) = .ok s1 ∧ reachNow c s1 false size ps = .ok s2 ∧ consume s2 c.gang.core false .read size ps = .ok () ∧
       loadValues s2 c.gang.core size ps = (t, vals))

/-- The accesses of a store pass the checks and are not held back; the state in which it is issued. -/
def storePasses (c : Iss) (s : State) (e : AddrExp) (sp : Bool) (ord : MemOrder) (size : Nat) (as : List Access) (ps : List Placed)
    (t : State) : Prop :=
  checkAccesses c s { sp := vatSpace e sp, kind := .write, size := size, align := true, empty := lenZero c e, own := noOwn } as = .ok ps ∧
  c.grp.stc < 63 ∧
  (if vatSpace e sp then readyVat c s true ps = .ok () ∧ ∃ s1, afterFences c s = .ok s1 ∧ releaseFirst c s1 ord = .ok t
   else checkWatch c .write size as = .ok () ∧ touch c s (vasOf ps) = .ok t)

/-- What a store does: in the vat its bytes are written, in memory they become outstanding, behind every earlier store of the group where the store
releases; then its address register is updated. -/
def stored (c : Iss) (t : State) (e : AddrExp) (sp : Bool) (ord : MemOrder) (size : Nat) (ps : List Placed) (v : Nat → Word) : State :=
  if vatSpace e sp then addStore c (updateBase c (t.storeVat c.gang.core (storeWrites size ps v)) e size) (.bytes c.exec [] [])
  else updateBase c (addStore c (fenceStores c t ord) (.bytes c.exec (storeWrites size ps v) [])) e size

/-- The accesses of an atomic pass the checks and are not held back; the state in which it is performed. -/
def atomPasses (c : Iss) (s : State) (e : AddrExp) (sp : Bool) (op : AtomOp) (ty : Ty) (ord : MemOrder) (as : List Access) (ps : List Placed)
    (t : State) : Prop :=
  checkAccesses c s
    { sp := vatSpace e sp, kind := .atomic, size := accSize ty, align := true, empty := lenZero c e, own := hostOwn c op ty } as = .ok ps ∧
  c.grp.ldc < 63 ∧
  (if vatSpace e sp then readyVat c s true ps = .ok () ∧ consume s c.gang.core true .atomic (accSize ty) ps = .ok () ∧
     ∃ s1 s2, afterFences c s = .ok s1 ∧ releaseFirst c s1 ord = .ok s2 ∧ becomeNR c s2 true = .ok t
   else checkWatch c .atomic (accSize ty) as = .ok () ∧
     ∃ s1 s2 s3 s4, touch c s (vasOf ps) = .ok s1 ∧ afterFences c s1 = .ok s2 ∧ releaseFirst c s2 ord = .ok s3 ∧
       reachNow c s3 true (accSize ty) ps = .ok s4 ∧ consume s4 c.gang.core false .atomic (accSize ty) ps = .ok () ∧
       becomeNR c s4 true = .ok t)

end Sys2Proof.Claims

/-- 04 R72, R74: a load whose accesses pass reads their bytes and is outstanding with its destination until it completes; its address register
is updated. Outside a pair. What a virtual load reads are the bytes at its places; of a host line on an RSH page they may be those of the core's copy,
which then is held (19 R347). -/
def Obligations.LoadIssues : Prop :=
  (∀ (i : Instr) (x : LdI) (s : State) (c : Iss) (s2 t u : State) (base index : Nat → Word) (ps : List Placed) (vals : List Word),
    (i = .ldExt x ∨ ∃ b, i = .ldBase b ∧ x = ldBase b) →
    Issues s { vs := baseUses x.addr x.sp ++ indexUses x.addr ++ [vdest x.d x.ty.is64], ss := addrRegs x.addr, ps := guardPreds x.g, g := x.g }
      i.bytes c → c.gang.pair = none → addressRead c c.s x.addr x.sp s2 base index →
    loadPasses c s2 x.addr x.sp (accSize x.ty) (laneAccess c x.addr (accSize x.ty) base index) ps t vals →
    finishLoad c (updateBase c t x.addr (accSize x.ty)) x.d x.ty.is64 (fun l => loadLane x.ty (valueAt ps vals l).toNat) = .ok u →
    exec i s = .next (u.after c)) ∧
  (∀ (x : LdUI) (s : State) (c : Iss) (t : State) (p : Placed) (w : Word),
    Issues s { ss := x.d :: addrRegs x.addr } (Instr.ldu x).bytes c → c.gang.pair = none → c.dueFlip (updateBase c t x.addr (accSize x.ty)) = none →
    loadPasses c c.s x.addr x.sp (accSize x.ty) (oneAccess c x.addr (accSize x.ty)) [p] t [w] →
    let v := extendTy x.ty w.toNat
    exec (.ldu x) s = .next (State.after (addLoad c ((updateBase c t x.addr (accSize x.ty)).writeU c.f (.s x.d v))
      { lanes := c.sp.lanes, regs := [], vals := [], uni := some (.s x.d v), carry := none, tile := [], sync := none }) c)) ∧
  (∀ (s : State) (core size : Nat) (ps : List Placed),
    (hostLinesOf ps = [] → loadValues s core size ps = (s, ps.map (fun p => BitVec.ofNat 64 (s.mem.readLE p.x.pa size)))) ∧
    ∀ l, (s.hostLoad core l).1.mem = s.mem ∧
      ((s.hostLoad core l).2 = s.mem.readBytes (128 * l) 128 ∨
       ∃ h, h ∈ (s.core? core).hostLines ∧ h.1 = l ∧ (s.hostLoad core l).2 = h.2))

/-- 04 R73, R74: a store whose accesses pass writes its vat bytes, or is outstanding with its bytes in lane order until it is performed, behind the
group's earlier stores where it releases (R78); its address register is updated. Outside a pair. -/
def Obligations.StoreIssues : Prop :=
  (∀ (i : Instr) (x : LdI) (s : State) (c : Iss) (s2 s3 t : State) (base index v : Nat → Word) (ps : List Placed),
    (i = .stExt x ∨ ∃ b, i = .stBase b ∧ x = ldBase b) →
    Issues s { vs := baseUses x.addr x.sp ++ indexUses x.addr ++ [vuse x.d x.ty.is64], ss := addrRegs x.addr, ps := guardPreds x.g, g := x.g }
      i.bytes c → c.gang.pair = none → addressRead c c.s x.addr x.sp s2 base index → takeTy c s2 x.ty.is64 x.d = .ok (s3, v) →
    storePasses c s3 x.addr x.sp x.ord (accSize x.ty) (laneAccess c x.addr (accSize x.ty) base index) ps t →
    exec i s = .next (State.after (stored c t x.addr x.sp x.ord (accSize x.ty) ps v) c)) ∧
  (∀ (x : LdUI) (s : State) (c : Iss) (t : State) (ps : List Placed),
    Issues s { ss := x.d :: addrRegs x.addr } (Instr.stu x).bytes c → c.gang.pair = none →
    storePasses c c.s x.addr x.sp x.ord (accSize x.ty) (oneAccess c x.addr (accSize x.ty)) ps t →
    exec (.stu x) s = .next (State.after (stored c t x.addr x.sp x.ord (accSize x.ty) ps (fun _ => c.readS x.d)) c))

/-- 04 R71, 03 R57: accesses that all pass their checks go on, each at the place its check gave; where some fail, the trap has the cause and the address
of the first that fails and marks the lanes of all that fail; the walks of those that have reached translation stand in the miss table, for which the
instruction waits while it is full. A misaligned access fails with 0x04 before anything else. -/
def Obligations.AccessChecks : Prop :=
  (∀ (c : Iss) (s : State) (m : AccessMode) (as : List Access),
    (∀ f : Access → Xlat, (∀ a, a ∈ as → checkAccess c s m a = .ok (f a)) →
      checkAccesses c s m as = .ok (as.map (fun a => { acc := a, x := f a }))) ∧
    (∀ (pre post : List Access) (a : Access) (e : Nat × Nat), as = pre ++ a :: post → (∀ b, b ∈ pre → ∃ x, checkAccess c s m b = .ok x) →
      checkAccess c s m a = .error e → ∃ lanes : LaneMask,
        (∀ l, lanes.getLsbD l = true ↔ ∃ b, b ∈ as ∧ b.lanes.getLsbD l = true ∧ ∃ k, checkAccess c s m b = .error k) ∧
        checkAccesses c s m as = .error (walkStop c (m.translated as)
          (.trap { cause := e.1, sub := e.2, kind := m.kind.code, lanes := lanes, addr := a.addr, info := 0 }))) ∧
    (∀ a, m.align = true → a.addr.toNat % m.size ≠ 0 → checkAccess c s m a = .error (0x04, 0))) ∧
  (∀ (c : Iss) (vas : List Word) (k : TrapInfo),
    (vas = [] → walkStop c vas (.trap k) = .trap k) ∧
    (∀ t, vas ≠ [] → c.s.touchPages c.gang.core c.gang.ctx vas = some t → walkStop c vas (.trap k) = .walked t k) ∧
    (c.s.touchPages c.gang.core c.gang.ctx vas = none → walkStop c vas (.trap k) = .stall .table))

/-- 04 R68, R73, R75, 07 R141: the issue of a store to memory, releasing or not, changes no byte of memory and none of a vat; a store to the vat leaves the bytes
outside its accesses, every byte of memory, and all gangs. -/
def Obligations.StoreFrames : Prop :=
  ((∀ (x : LdI) (s t : State), vatSpace x.addr x.sp = false → exec (.stExt x) s = .next t → t.mem = s.mem ∧ t.vat = s.vat) ∧
   (∀ (x : Base3) (s t : State), exec (.stBase x) s = .next t → t.mem = s.mem ∧ t.vat = s.vat) ∧
   (∀ (x : LdUI) (s t : State), vatSpace x.addr x.sp = false → exec (.stu x) s = .next t → t.mem = s.mem ∧ t.vat = s.vat)) ∧
  (∀ (s : State) (core size : Nat) (ps : List Placed) (v : Nat → Word),
     (∀ k, (∀ p, p ∈ ps → ∀ i, i < size → k ≠ vatKey core (p.x.pa + i)) →
       (s.storeVat core (storeWrites size ps v)).vat.read k = s.vat.read k) ∧
     ∃ m q, s.storeVat core (storeWrites size ps v) = { s with vat := m, vatPoison := q })

/-- 04 R80, R81: an atomic whose accesses pass is performed in lane order, each on the result of the one before; the values before it go to the
destination. Outside a pair. -/
def Obligations.AtomicIssues : Prop :=
  (∀ (x : AtomI) (s : State) (c : Iss) (s1 s2 s3 s4 t u : State) (base v index cmp : Nat → Word) (ps : List Placed),
    Issues s { vs := baseUses x.addr x.sp ++ vsrcUses x.b x.ty.is64 ++ indexUses x.addr ++ [vdest x.d x.ty.is64], ss := addrRegs x.addr
               ps := guardPreds x.g, g := x.g } (Instr.atom x).bytes c → c.gang.pair = none →
    takeBase c c.s x.addr x.sp = .ok (s1, base) → takeSrc c s1 x.ty.is64 x.b = .ok (s2, v) → takeIndex c s2 x.addr = .ok (s3, index) →
    (if x.op = .cas then takeTy c s3 x.ty.is64 x.d = .ok (s4, cmp) else s4 = s3 ∧ cmp = fun _ => 0) →
    atomPasses c s4 x.addr x.sp x.op x.ty x.ord (laneAccess c x.addr (accSize x.ty) base index) ps t →
    let r := atomFold c.f.gang c.gang.core (vatSpace x.addr x.sp) x.op x.ty v cmp ps t
    finishLoad c (updateBase c r.1 x.addr (accSize x.ty)) x.d x.ty.is64 (valueAt ps r.2) = .ok u →
    exec (.atom x) s = .next (u.after c)) ∧
  (∀ (x : AtomUI) (s : State) (c : Iss) (t : State) (p : Placed),
    Issues s { ss := x.d :: (addrRegs x.addr ++ usrcRegs x.b) } (Instr.atomu x).bytes c → c.gang.pair = none →
    atomPasses c c.s x.addr x.sp x.op x.ty x.ord (oneAccess c x.addr (accSize x.ty)) [p] t →
    let r := atomFold c.f.gang c.gang.core (vatSpace x.addr x.sp) x.op x.ty (fun _ => c.usrc x.b) (fun _ => if x.op = .cas then c.readS x.d else 0) [p] t
    exec (.atomu x) s = .next (State.after (finishUniform c (updateBase c r.1 x.addr (accSize x.ty)) x.d
      (extendTy x.ty (valueAt [p] r.2 0).toNat)) c))

/-- 04 R79, R80: 32-bit additions of several lanes to one place of memory leave its value plus all operands, modulo 2^32; every other byte stays. -/
def Obligations.AtomicAddsTotal : Prop :=
  ∀ (s : State) (gang core pa : Nat) (ty : Ty) (v : Nat → Word) (ps : List Placed), (ty = .i32 ∨ ty = .n32) → s.mem.wf = true →
    (∀ p, p ∈ ps → p.x.pa = pa) →
    let t := (atomFold gang core false .add ty v (fun _ => 0) ps s).1
    t.mem.readLE pa 4 = (s.mem.readLE pa 4 + (ps.map (fun p => (v p.acc.lane).toNat)).sum) % 2 ^ 32 ∧
    ∀ a, a < pa ∨ pa + 4 ≤ a → t.mem.read a = s.mem.read a

/-- 04 R83-R87, 14 R276: RED's updates are held as one effect of a replayable gang; else they are performed in the vat at once, or are outstanding with
their operands; OAPP's elements join the channel at their threads' places, and stand in its buffer or in spill lines. Outside a pair. -/
def Obligations.RedAndAppend : Prop :=
  (∀ (x : RedI) (s : State) (c : Iss) (s1 s2 s3 : State) (base v index : Nat → Word) (ps : List Placed),
    Issues s { vs := baseUses x.addr x.sp ++ vsrcUses x.b x.ty.is64 ++ indexUses x.addr, ss := addrRegs x.addr, ps := guardPreds x.g, g := x.g }
      (Instr.red x).bytes c → c.gang.pair = none →
    takeBase c c.s x.addr x.sp = .ok (s1, base) → takeSrc c s1 x.ty.is64 x.b = .ok (s2, v) → takeIndex c s2 x.addr = .ok (s3, index) →
    let size := accSize x.ty
    let vat := vatSpace x.addr x.sp
    let as := laneAccess c x.addr size base index
    let us := ps.map (fun p =>
      ({ addr := p.x.pa, op := x.op, ty := x.ty, val := v p.acc.lane, dur := p.x.dur, bad := false, chunk := 0 } : Update))
    let held := fun (t : State) (e : Effect) => t.modGang c.f.gang (fun g => { g with effects := g.effects ++ [e] })
    let room := c.gang.task.replay = true ∧ c.gang.nr = false ∧ c.gang.effects.length < 256
    checkAccesses c s3 { sp := vat, kind := .atomic, size := size, align := true, empty := lenZero c x.addr, own := hostOwn c x.op x.ty } as =
      .ok ps → c.grp.stc < 63 →
    (∀ s4 t, vat = true → readyVat c s3 true ps = .ok () → afterFences c s3 = .ok s4 → releaseFirst c s4 x.ord = .ok t →
      (room → exec (.red x) s = .next (State.after (updateBase c (held t (.redVat us)) x.addr size) c)) ∧
      (∀ u, ¬ room → becomeNR c t false = .ok u → exec (.red x) s = .next (State.after (addStore c (updateBase c
        (atomFold c.f.gang c.gang.core true x.op x.ty v (fun _ => 0) ps u).1 x.addr size) (.red c.exec [])) c))) ∧
    (∀ t, vat = false → checkWatch c .atomic size as = .ok () → touch c s3 (vasOf ps) = .ok t →
      (∀ u, room → releaseFirst c t x.ord = .ok u →
        exec (.red x) s = .next (State.after (updateBase c (held u (.red us)) x.addr size) c)) ∧
      (∀ u, ¬ room → becomeNR c t false = .ok u → exec (.red x) s = .next (State.after
        (updateBase c (addStore c (fenceStores c u x.ord) (.red c.exec us)) x.addr size) c)))) ∧
  (∀ (x : OAppI) (s : State) (c : Iss) (s1 s2 s3 : State) (v : Nat → Word) (ps : List Placed) (g : Gang),
    Issues s { vs := [vuse x.d x.ty.is64], ss := [x.a] } (Instr.oapp x).bytes c → c.gang.pair = none →
    takeTy c c.s x.ty.is64 x.d = .ok (s1, v) →
    let addr := c.readS x.a + x.ofs.signExtend 64
    let as := (lanesOf c.exec).map (fun l => ({ lanes := laneBit l, lane := l, addr := addr } : Access))
    let es := (lanesOf c.exec).map (fun l =>
      ({ place := .lane c.f.group l, base := addr.toNat, size := accSize x.ty, val := v l, line := none } : AppendElem))
    checkAccesses c s1 { sp := false, kind := .write, size := accSize x.ty, align := true, empty := false, own := noOwn } as = .ok ps →
    (∀ l, l ∈ lanesOf c.exec → (c.f.group, l) ∉ (c.gang.channel x.ch).done) → checkWatch c .write (accSize x.ty) as = .ok () →
    touch c s1 (vasOf ps) = .ok s2 → c.gang.append x.ch es = some g → afterFences c s2 = .ok s3 →
    exec (.oapp x) s = .next (State.after
      ((((s3.liftElems c.f.gang x.ch).modGang c.f.gang (fun g => (g.append x.ch es).getD g)).layElems c.f.gang x.ch).modGang c.f.gang (fun g =>
        g.setChannel x.ch { g.channel x.ch with done := (g.channel x.ch).done ++ (lanesOf c.exec).map (fun l => (c.f.group, l)) })) c))

/-- 04 R69, R88-R91, 06 R131: PREF changes nothing but what reading its operands does; CFLUSH is outstanding with its lines and drops the copies of
host lines; FENCE.ar performs the group's stores, FENCE.rel only puts them before every later write of the group, FENCE.acq holds nothing back, and at
.rec every write is made durable; IFENCE passes when no store is outstanding; SETMOD writes a modulo register whose
ring lies in the gang's allocation. -/
def Obligations.OrderAndRing : Prop :=
  (∀ (x : LineI) (s : State) (c : Iss) (t : State) (base index : Nat → Word),
    Issues s { vs := baseUses x.addr false ++ indexUses x.addr, ss := addrRegs x.addr, ps := guardPreds x.g, g := x.g } (Instr.pref x).bytes c →
    addressRead c c.s x.addr false t base index → exec (.pref x) s = .next (t.after c)) ∧
  (∀ (x : LineI) (s : State) (c : Iss) (s1 t : State) (base index : Nat → Word) (ps : List Placed),
    Issues s { vs := baseUses x.addr false ++ indexUses x.addr, ss := addrRegs x.addr, ps := guardPreds x.g, g := x.g } (Instr.cflush x).bytes c →
    addressRead c c.s x.addr false s1 base index →
    checkAccesses c s1 { sp := false, kind := .read, size := 128, align := false, empty := false, own := noOwn }
      (laneAccess c x.addr 128 base index) = .ok ps → c.grp.stc < 63 → touch c s1 (vasOf ps) = .ok t →
    let lines := (ps.map (fun p => p.x.pa / 128)).eraseDups
    exec (.cflush x) s = .next (State.after (addStore c (t.dropHost x.scope c.gang.core (lines.filter (fun l => isHost (128 * l))))
      (.flush c.exec lines)) c)) ∧
  (∀ (x : FenceI) (s : State) (c : Iss), Issues s {} (Instr.fence x).bytes c →
    (∀ t, (x.ord = .ar ∨ x.ord = .plain ∨ x.scope = .recov) → c.s.performAll c.f.gang c.f.group = some t →
      exec (.fence x) s = .next (State.after (if x.scope = .recov then t.makeDurable else t) c)) ∧
    (x.ord = .rel → x.scope ≠ .recov → exec (.fence x) s = .next (State.after (c.s.modGroup c.f.gang c.f.group (fun g =>
      if g.stores.isEmpty then g else { g with fences := (g.stores.length :: g.fences).eraseDups })) c)) ∧
    (x.ord = .acq → x.scope ≠ .recov → exec (.fence x) s = .next (c.s.after c))) ∧
  (∀ (s : State) (c : Iss), Issues s {} Instr.ifence.bytes c → c.grp.stc = 0 → exec .ifence s = .next (c.s.after c)) ∧
  (∀ (x : SetModI) (s : State) (c : Iss), Issues s { ss := x.a :: usrcRegs x.b } (Instr.setmod x).bytes c →
    let b := (c.readS x.a).toNat
    let n := (c.usrc x.b).toNat
    b % 8 = 0 → n % 8 = 0 → 0 < n → x.idx.toNat < n → c.gang.base ≤ b → b + n ≤ c.gang.base + c.gang.size →
    exec (.setmod x) s = .next (State.after (c.s.writeU c.f
      (.m x.d { base := BitVec.ofNat 23 b, len := BitVec.ofNat 24 n, idx := BitVec.ofNat 23 x.idx.toNat })) c))

/-! ## The vat and the stash (07) -/

/-- 07 R148, R149: STMAP maps its units, STUNMAP writes back and takes units away, STWB writes back and leaves lines clean, STDROP drops lines and
counts the dirty ones. Write-backs of a split outside a pair. -/
def Obligations.StashMembers : Prop :=
  (∀ (x : StMapI) (s : State) (c : Iss) (xs : List Xlat) (t : State), Issues s { ss := [x.d, x.a] } (Instr.stmap x).bytes c →
    let r := Region.ofWord (c.readS x.d)
    let va := c.readS x.a
    let units := (List.range (r.extent / 4096)).map (fun u => (r.base + 4096 * u, va + BitVec.ofNat 64 (4096 * u)))
    stashRecordOk (c.readS x.d) 4096 = true → c.gang.inStash r.base r.extent = true →
    (∀ u y, u ∈ units → y ∈ (c.s.core? c.gang.core).stash → y.vat ≠ u.1 ∧
      ((c.s.gang? y.gang).map Gang.ctx = some c.gang.ctx → pageMeets y.va.toNat u.2.toNat = false)) →
    va.toNat % 4096 = 0 → firstXlat c.s (c.s.whoOf c.gang c.f) (units.map (fun u => (u.2, AccKind.read))) = .ok xs →
    (∃ ys, firstXlat c.s (c.s.whoOf c.gang c.f)
      (units.flatMap (fun u => (u.2, AccKind.read) :: (if x.wr then [(u.2, AccKind.write)] else []))) = .ok ys) →
    c.s.touchPages c.gang.core c.gang.ctx (units.map (fun u => u.2)) = some t →
    exec (.stmap x) s = .next (State.after (t.modCore c.gang.core (fun k => { k with stash := k.stash ++ (units.zip xs).map (fun y =>
      { vat := y.1.1, va := y.1.2, phys := y.2.pa, wr := x.wr, coh := y.2.region == 2 && !isHost y.2.pa, dur := y.2.dur, gang := c.f.gang
        lines := [], cut := false }) })) c)) ∧
  (∀ (x : DstS) (s : State) (c : Iss) (r : Region) (ls : List (StashUnit × Nat)) (t : State),
    Issues s { ss := [x.d] } (Instr.stunmap x).bytes c → stashRange c x.d 4096 true = .ok (r, ls) → c.gang.pair = none → c.grp.stc < 63 →
    c.s.performAll c.f.gang c.f.group = some t →
    exec (.stunmap x) s = .next (State.after (addStore c (((dirtyLines ls).foldl (fun s l => s.writeBack c.gang.core l.1 l.2) t).modCore
      c.gang.core (fun k => { k with stash := k.stash.filter (fun u => !(ls.any (fun l => l.1.vat == u.vat))) })) (.bytes c.exec [] [])) c)) ∧
  (∀ (x : DstS) (s : State) (c : Iss) (r : Region) (ls : List (StashUnit × Nat)) (t : State),
    Issues s { ss := [x.d] } (Instr.stwb x).bytes c → stashRange c x.d 128 false = .ok (r, ls) → c.gang.pair = none → c.grp.stc < 63 →
    c.s.performAll c.f.gang c.f.group = some t →
    exec (.stwb x) s = .next (State.after (addStore c ((dirtyLines ls).foldl (fun s l => s.setStashLine c.gang.core l.1.vat l.2 (some false))
      ((dirtyLines ls).foldl (fun s l => s.writeBack c.gang.core l.1 l.2) t)) (.bytes c.exec [] [])) c)) ∧
  (∀ (x : DstS) (s : State) (c : Iss) (r : Region) (ls : List (StashUnit × Nat)), Issues s { ss := [x.d] } (Instr.stdrop x).bytes c →
    stashRange c x.d 128 true = .ok (r, ls) →
    exec (.stdrop x) s = .next (State.after ((ls.foldl (fun s l => s.setStashLine c.gang.core l.1.vat l.2 none) c.s).modCore c.gang.core
      (fun k => { k with stashDrops := k.stashDrops + BitVec.ofNat 32 (dirtyLines ls).length })) c))

/-- 07 R151-R153: SWINIT, SWARRIVE and SWEXPECT write the word they name and try its completion; SWWAIT answers at once when the generation has
advanced, or when it only tries, and else waits with WTR set (outside a pair). A word whose COUNT has reached its TARGET completes: COUNT is 0, GEN one
higher, TARGET stays only where KEEP says so, WTR falls, and OVR is set where COUNT had passed TARGET; any other word stays as it is. -/
def Obligations.SyncMembers : Prop :=
  (∀ (s : State) (c : Iss) (a : SReg) (b : USrc),
     let v := (c.readS a).toNat
     let n := (c.usrc b).toNat
     let w := c.s.syncWord c.gang.core v
     let put := fun (t : State) (w : SyncWord) => State.after ((t.putSync c.gang.core v w).syncStep c.gang.core v) c
     (∀ keep, Issues s { ss := a :: usrcRegs b } (Instr.swinit { a := a, b := b, keep := keep }).bytes c → syncCheck c (c.readS a) false = .ok () →
       n < 2 ^ 28 → syncReady c (c.readS a) = .ok () →
       exec (.swinit { a := a, b := b, keep := keep }) s = .next (put c.s
         { w with
           target := n, count := 0, ovr := false, valid := true, keep := keep, gen := if w.valid then w.gen else 0
           group := c.grp.gid.toNat, gang := c.gang.id % 2 ^ 16 })) ∧
     (∀ t, Issues s { ss := a :: usrcRegs b } (Instr.swarrive { a := a, b := b }).bytes c → syncCheck c (c.readS a) true = .ok () →
       w.count + n < 2 ^ 28 → (w.target = 0 ∨ w.count + n ≤ w.target) → syncReady c (c.readS a) = .ok () → releaseFirst c c.s .rel = .ok t →
       exec (.swarrive { a := a, b := b }) s = .next (put t { w with count := w.count + n })) ∧
     (Issues s { ss := a :: usrcRegs b } (Instr.swexpect { a := a, b := b }).bytes c → syncCheck c (c.readS a) true = .ok () →
       w.target + n < 2 ^ 28 → syncReady c (c.readS a) = .ok () →
       exec (.swexpect { a := a, b := b }) s = .next (put c.s { w with target := w.target + n })) ∧
     (∀ d try_, Issues s { ss := a :: usrcRegs b, ups := [d] } (Instr.swwait { d := d, a := a, b := b, try_ := try_ }).bytes c →
       syncCheck c (c.readS a) true = .ok () → c.gang.pair = none →
       let past := (w.gen + 2 ^ 32 - n % 2 ^ 32) % 2 ^ 32
       let adv := decide (1 ≤ past ∧ past ≤ 2 ^ 31)
       ((adv = true ∨ try_ = true) → exec (.swwait { d := d, a := a, b := b, try_ := try_ }) s =
         .next ((advance (c.s.writeU c.f (.up d adv)) c.f c.len).jumped c)) ∧
       (adv = false → try_ = false → c.s.isTrail c.f.gang = false → syncReady c (c.readS a) = .ok () →
         let t := c.s.putSync c.gang.core v { w with wtr := true }
         let k : Wait := .swwait v ((c.usrc b).truncate 32)
         exec (.swwait { d := d, a := a, b := b, try_ := try_ }) s = .next (State.jumped
           (if c.f.split = 4 then t.modSplit c.f (fun sp => { sp with status := .waiting k })
            else t.modGroup c.f.gang c.f.group (fun g => g.setWaiting c.f.split k)) c)))) ∧
  (∀ (s : State) (core a : Nat), s.vat.wf = true → (∀ i, i < 16 → s.deadByte core (a + i) = false) →
     let w := s.syncWord core a
     (0 < w.target → w.target ≤ w.count → (s.syncStep core a).syncWord core a =
       { w with
         ovr := w.ovr || decide (w.target < w.count), count := 0, gen := (w.gen + 1) % 2 ^ 32, target := if w.keep then w.target else 0
         wtr := false }) ∧
     ((w.target = 0 ∨ w.count < w.target) → s.syncStep core a = s))

/-- 07 R146, R155, R156: WAIT passes when no counter is above its bound; LDT and STT are outstanding with their lines; CQCFG configures an empty
queue, or takes one away. LDT and STT outside a pair. -/
def Obligations.TileMovesAndQueues : Prop :=
  (∀ (x : WaitI) (s : State) (c : Iss), Issues s {} (Instr.wait x).bytes c →
    c.grp.ldc ≤ x.ld.val → c.grp.stc ≤ x.st.val → c.grp.cpc ≤ x.cp.val → c.grp.tlc ≤ x.tl.val → exec (.wait x) s = .next (c.s.after c)) ∧
  (∀ (x : LdtI) (s : State) (c : Iss) (xs : List Xlat) (s1 t : State), Issues s { ss := x.a :: x.b :: x.sw.toList } (Instr.ldt x).bytes c →
    tileCheck c x.d (x.n1.val + 1) x.a x.b x.sw .read = .ok xs → c.grp.ldc < 63 →
    (∀ i, i < 8 * (x.n1.val + 1) → c.s.vatBusy c.gang.core ((c.tileBase x.d + 128 * i) / 128) true = false) →
    releaseFirst c c.s .rel = .ok s1 →
    s1.touchPages c.gang.core c.gang.ctx (tileLineVas (c.readS x.a) (c.readS x.b) (x.n1.val + 1)) = some t →
    c.gang.pair = none →
    exec (.ldt x) s = .next (State.after (addLoad c t
      { lanes := c.sp.lanes, regs := [], vals := [], uni := none, carry := none
        tile := (enumFrom 0 xs).map (fun y => (c.tileBase x.d + 128 * y.1, .phys y.2.pa)), sync := x.sw.map (fun r => (c.readS r).toNat) }) c)) ∧
  (∀ (x : SttI) (s : State) (c : Iss) (xs : List Xlat) (t : State), Issues s { ss := [x.a, x.b] } (Instr.stt x).bytes c →
    tileCheck c x.d (x.n1.val + 1) x.a x.b none .write = .ok xs → c.grp.stc < 63 →
    (∀ i, i < 8 * (x.n1.val + 1) → c.s.vatBusy c.gang.core ((c.tileBase x.d + 128 * i) / 128) false = false) →
    c.s.touchPages c.gang.core c.gang.ctx (tileLineVas (c.readS x.a) (c.readS x.b) (x.n1.val + 1)) = some t →
    c.gang.pair = none →
    exec (.stt x) s = .next (State.after (addStore c t (.bytes c.exec
      ((enumFrom 0 xs).flatMap (fun y => (enumFrom 0 (c.s.vatReadBytes c.gang.core (c.tileBase x.d + 128 * y.1) 128)).map (fun b =>
        ({ addr := y.2.pa + b.1, val := b.2, dur := y.2.dur } : ByteWrite))))
      ((enumFrom 0 xs).flatMap (fun y =>
        if c.s.vatPoisoned c.gang.core (c.tileBase x.d + 128 * y.1) then [y.2.pa / 64, y.2.pa / 64 + 1] else [])))) c)) ∧
  (∀ (x : CqCfgI) (s : State) (c : Iss), Issues s { vs := [vuse (.v x.a) false] } (Instr.cqcfg x).bytes c → c.sp.lanes = c.grp.live →
    x.depth.val ≤ 8 → (0 < x.depth.val → x.a.val + x.depth.val ≤ c.gang.task.w ∧ c.grp.rangeTaken x.k.val x.a.val x.depth.val = false) →
    (∀ q, c.grp.carry[x.k.val] = some q → q.unfilled = []) →
    let q : Option Carry := if x.depth.val = 0 then none else some { base := x.a.val, depth := x.depth.val, head := 0, occ := 0, unfilled := [] }
    exec (.cqcfg x) s = .next (State.after (c.s.modGroup c.f.gang c.f.group (fun g => { g with carry := g.carry.set x.k.val q })) c))

/-! ## Engines (05) -/

/-- 05 R97-R99, R104-R111: an engine command whose checks pass starts: COPY with the moves of its bytes, GATHER and SCATTER with those of their
elements, SCATADD with its updates. Outside a pair. A command that starts owns every destination line, counts in CPC of the groups with the issuing
group's number, and leaves memory, the vats and everything but the gangs and the commands as they were. A pin of the press holds the ownership of its
line back (11 R215). A command knows its stopping units: 4 KiB of a COPY's destination, 256 elements of a list (R103). -/
def Obligations.EngineCommands : Prop :=
  ((∀ (x : CopyI) (s : State) (c : Iss) (dr sr : Option Region) (sp dp : List (Word × Xlat)) (s1 t : State),
     Issues s { ss := x.d :: x.a :: x.b :: x.sw.toList } (Instr.copy x).bytes c → c.gang.pair = none → t.isTrail c.f.gang = false →
     let len := (c.readS x.b).toNat
     sideRegion c x.dv (c.readS x.d) true = .ok dr → sideRegion c x.av (c.readS x.a) false = .ok sr → checkSync c x.sw = .ok () →
     len < 2 ^ 32 → fitsExtent c dr len = .ok () → fitsExtent c sr len = .ok () → sidePages c sr (c.readS x.a) len .read = .ok sp →
     sidePages c dr (c.readS x.d) len .write = .ok dp → touchRange c c.s (sp ++ dp) = .ok s1 → c.grp.cpc < 63 →
     releaseFirst c s1 .rel = .ok t →
     let first := match dr with
       | some r => r.base
       | none => (c.readS x.d).toNat
     exec (.copy x) s = .next (State.after (t.startCommand c .copy (cmdLines (fun i => (first + i) / 4096) ((List.range len).map (fun i =>
       ((sideByte c dr dp (c.readS x.d) i).1, (sideByte c sr sp (c.readS x.a) i).1, (sideByte c dr dp (c.readS x.d) i).2)))) []
       (x.sw.map (fun r => (c.readS r).toNat))) c)) ∧
   (∀ (x : GatherI) (s : State) (c : Iss) (s1 s2 t : State) (l : ListCmd) (xs : List Xlat),
     Issues s { ss := x.d :: x.a :: x.b :: x.sw.toList } (Instr.gather x).bytes c → c.gang.pair = none → t.isTrail c.f.gang = false →
     listChecks c x.ty x.d x.a x.b x.sw true = .ok (s1, l) → listXlat c .read noOwn l.addrs = .ok xs →
     stashGuard c l.data.base (l.addrs.length * l.size) true = .ok () → touchRange c s1 (l.addrs.zip xs) = .ok s2 → c.grp.cpc < 63 →
     releaseFirst c s2 .rel = .ok t →
     exec (.gather x) s = .next (State.after (t.startCommand c .gather (cmdLines (fun i => i / l.size / 256) (listBytes c l xs true)) []
       (x.sw.map (fun r => (c.readS r).toNat))) c)) ∧
   (∀ (x : ScatterI) (s : State) (c : Iss) (s1 s2 t : State) (l : ListCmd) (xs : List Xlat),
     Issues s { ss := [x.d, x.a, x.b] } (Instr.scatter x).bytes c → c.gang.pair = none →
     listChecks c x.ty x.d x.a x.b none false = .ok (s1, l) → stashGuard c l.data.base (l.addrs.length * l.size) false = .ok () →
     listXlat c .write noOwn l.addrs = .ok xs → touchRange c s1 (l.addrs.zip xs) = .ok s2 → c.grp.cpc < 63 → releaseFirst c s2 .rel = .ok t →
     exec (.scatter x) s = .next (State.after (t.startCommand c .scatter (cmdLines (fun i => i / l.size / 256) (listBytes c l xs false)) [] none) c)) ∧
   (∀ (x : ScatAddI) (s : State) (c : Iss) (s1 s2 s3 t : State) (l : ListCmd) (xs : List Xlat),
     Issues s { ss := [x.d, x.a, x.b] } (Instr.scatadd x).bytes c → c.gang.pair = none →
     listChecks c x.ty x.d x.a x.b none false = .ok (s1, l) → stashGuard c l.data.base (l.addrs.length * l.size) false = .ok () →
     listXlat c .atomic (hostOwn c x.op.atom x.ty) l.addrs = .ok xs → touchRange c s1 (l.addrs.zip xs) = .ok s2 →
     readStash c s2 (rangeLines l.data.base (l.addrs.length * l.size)) = .ok s3 → c.grp.cpc < 63 → releaseFirst c s3 .rel = .ok t →
     exec (.scatadd x) s = .next (State.after (t.startCommand c .scatadd [] ((enumFrom 0 xs).map (fun y =>
       let a := l.data.base + y.1 * l.size
       { addr := y.2.pa, op := x.op.atom, ty := x.ty, val := BitVec.ofNat 64 (s3.vatReadLE c.gang.core a l.size), dur := y.2.dur
         bad := (List.range l.size).any (fun i => s3.vatPoisoned c.gang.core (a + i)), chunk := y.1 / 256 })) none) c))) ∧
  (∀ (s : State) (c : Iss) (kind : CmdKind) (ls : List CmdLine) (us : List Update) (sync : Option Nat),
     let t := s.startCommand c kind ls us sync
     (∀ l, l ∈ ls → t.pinnedLoc l.line = false → t.commandOwns l.line = true) ∧
     (∀ slot x, s.group? c.gang.id slot = some x → (s.gang? c.gang.id).bind (fun g => s.twin g) = none →
       t.group? c.gang.id slot = some (if x.gid = c.grp.gid then { x with cpc := x.cpc + 1 } else x)) ∧
     ∃ gs cs, t = { s with gangs := gs, commands := cs, nextCmd := s.nextCmd + 1 })

/-- The next command comes behind this one. -/
def Sys2Proof.Claims.ordered (s : State) : State := { s with nextCmd := s.nextCmd + 1 }

/-- 05 R114-R119: STRCFG takes a free engine or one of its own gang and answers whether it has; STRGO starts it, or joins its run; STRHALT halts or
releases it; SPBIND binds or unbinds a port; SLOTSIG hands slots over. Outside a pair. -/
def Obligations.StreamMembers : Prop :=
  (∀ (x : StrCfgI) (s : State) (c : Iss) (s0 s1 : State), Issues s { ss := [x.a], ups := [x.d] } (Instr.strcfg x).bytes c →
    c.gang.pair = none → s1.isTrail c.f.gang = false →
    let a := (c.readS x.a).toNat
    let bs := s1.vatReadBytes c.gang.core a 64
    let r := StreamRec.ofBytes bs
    a % 64 = 0 → c.gang.freeRange a 64 = true → stashGuard c a 64 false = .ok () → releaseFirst c c.s .rel = .ok s0 →
    readStash c s0 [a / 128] = .ok s1 →
    (crc32c (bs.take 60)).toNat = fieldAt bs 60 4 → streamRecOk bs = true → c.gang.freeRange r.ring (r.slots * r.slotBytes) = true →
    (∀ w, r.sync = some w → c.gang.freeRange w 16 = true) → c.grp.cpc < 63 →
    let st := s1.streamAt c.gang.core x.e.val
    ((st.state = .free ∨ st.holder = c.f.gang) → exec (.strcfg x) s = .next (State.after
      ((setStream (s1.haltStream c.gang.core x.e.val) c.gang.core x.e.val
        { (s1.haltStream c.gang.core x.e.val).streamAt c.gang.core x.e.val with
          state := .idle, holder := c.f.gang, record := r, prod := 0, cons := 0, twin := 0 }).writeU c.f (.up x.d true)) c)) ∧
    (st.state ≠ .free → st.holder ≠ c.f.gang → exec (.strcfg x) s = .next (State.after (s1.writeU c.f (.up x.d false)) c))) ∧
  (∀ (x : StrGoI) (s : State) (c : Iss) (xs : List Xlat) (s1 t : State), Issues s {} (Instr.strgo x).bytes c → c.gang.pair = none →
    t.isTrail c.f.gang = false → holdsEngine c x.e.val = .ok () →
    let st := c.s.streamOf c.gang x.e.val
    listXlat c (if st.record.drain then .write else .read) noOwn st.record.walk = .ok xs →
    stashGuard c st.record.ring (st.record.slots * st.record.slotBytes) (!st.record.drain) = .ok () →
    touchRange c c.s (st.record.walk.zip xs) = .ok s1 → c.grp.cpc < 63 → releaseFirst c s1 .rel = .ok t →
    let old := t.streamAt c.gang.core x.e.val
    let me := (c.f.gang, c.grp.gid.toNat)
    let u := t.modCpcs c.f.gang c.grp.gid.toNat (· + 1)
    (old.state = .run → exec (.strgo x) s = .next (State.after
      (setStream u c.gang.core x.e.val { old with starters := old.starters ++ [me] }) c)) ∧
    let u1 := match old.port with
      | some (slot, q) => setPort u c.f.gang slot q (some { engine := x.e.val, line := 0 })
      | none => u
    (old.state ≠ .run → u1.twin c.gang = none → exec (.strgo x) s = .next (State.after
      (ordered (setStream u1 c.gang.core x.e.val
        { old with
          state := .run, seq := t.nextCmd, elems := xs.map (fun y => (y.pa, y.dur)), prod := 0, cons := 0, twin := 0, starters := [me] })) c))) ∧
  (∀ (x : StrHaltI) (s : State) (c : Iss) (t : State), Issues s {} (Instr.strhalt x).bytes c → c.gang.pair = none →
    t.isTrail c.f.gang = false → holdsEngine c x.e.val = .ok () → c.grp.cpc < 63 → releaseFirst c c.s .rel = .ok t →
    exec (.strhalt x) s = .next (State.after (if x.rel then t.freeStream c.gang.core x.e.val else t.haltStream c.gang.core x.e.val) c)) ∧
  (∀ (x : SpBindI) (s : State) (c : Iss), Issues s {} (Instr.spbind x).bytes c →
    (∀ e, x.e = some e → holdsEngine c e.val = .ok () → (c.s.streamOf c.gang e.val).port = none → c.grp.portBound x.q.val = false →
      exec (.spbind x) s = .next (State.after ((setPort c.s c.f.gang c.f.group x.q.val (some { engine := e.val, line := 0 })).putStream c.gang
        e.val { c.s.streamOf c.gang e.val with port := some (c.f.group, x.q.val) }) c)) ∧
    (∀ p, x.e = none → c.grp.ports[x.q.val] = some p →
      exec (.spbind x) s = .next (State.after ((setPort c.s c.f.gang c.f.group x.q.val none).putStream c.gang p.engine
        { c.s.streamOf c.gang p.engine with port := none }) c))) ∧
  (∀ (x : SlotSigI) (s : State) (c : Iss) (t : State), Issues s {} (Instr.slotsig x).bytes c → holdsEngine c x.e.val = .ok () →
    let st := c.s.streamOf c.gang x.e.val
    st.port = none → x.n.val ≤ st.groupSide → releaseFirst c c.s .rel = .ok t →
    exec (.slotsig x) s = .next (State.after (t.putStream c.gang x.e.val
      (if st.record.drain then { st with prod := st.prod + x.n.val } else { st with cons := st.cons + x.n.val })) c))

/-- 05 R119: a port line is popped from the head slot of a fill ring, and the last line of a slot returns the slot; a line pushed to a drain ring
writes the values of the active lanes and zeros elsewhere, and no byte outside that line, which is then not poisoned (17 R313). -/
def Obligations.PortLines : Prop :=
  (∀ (x : Iss) (s : State) (q : Nat) (p : Port) (st : Stream), x.stream s q = some (p, st) → st.record.drain = false → st.cons < st.prod →
    let a := st.record.ring + (st.cons % st.record.slots) * st.record.slotBytes + 128 * p.line
    s.vatBusy x.gang.core (a / 128) false = false →
    ∃ t v, popPort x s q = .ok (t, v) ∧ t.vat = s.vat ∧ t.mem = s.mem ∧ (∀ l, l < 32 → v l = BitVec.ofNat 32 (s.vatReadLE x.gang.core (a + 4 * l) 4)) ∧
      (p.line + 1 < st.record.slotLines → t = setPort s x.f.gang x.f.group q (some { p with line := p.line + 1 })) ∧
      (st.record.slotLines ≤ p.line + 1 → t = (setPort s x.f.gang x.f.group q (some { p with line := 0 })).putStream x.gang p.engine
        { st with cons := st.cons + 1 })) ∧
  (∀ (x : Iss) (s t : State) (q : Nat) (p : Port) (st : Stream) (v : Nat → W32), x.stream s q = some (p, st) → pushPort x s q v = .ok t →
    s.vat.wf = true →
    let a := st.record.ring + (st.prod % st.record.slots) * st.record.slotBytes + 128 * p.line
    (∀ i, i < 128 → s.deadByte x.gang.core (a + i) = false) →
    (∀ l, l < 32 → t.vatReadLE x.gang.core (a + 4 * l) 4 = if x.exec.getLsbD l then (v l).toNat else 0) ∧
    (a % 128 = 0 → t.vatPoisoned x.gang.core a = false) ∧
    (∀ k, (∀ i, i < 128 → k ≠ vatKey x.gang.core (a + i)) → t.vat.read k = s.vat.read k) ∧ t.mem = s.mem)

/-- 05 R121, R122, 18 R335: a COLL and a CKSEAL whose checks pass stand at their rendezvous with what they bring, and their split waits. Outside a
pair. -/
def Obligations.RendezvousEntered : Prop :=
  (∀ (x : CollI) (s : State) (c : Iss) (g : CollGroup) (sp dp : List (Word × Xlat)) (s1 t : State),
    Issues s { ss := [x.d, x.a, x.b, x.c], feature := some 4 } (Instr.coll x).bytes c → c.gang.pair = none →
    let n := (c.readS x.b).toNat
    let w := (c.readS x.c).toNat
    let size := accSize x.ty
    let root := w / 256
    let d := c.readS x.d
    let a := c.readS x.a
    let dn := collDst x.kind g.chips.length n size
    let sn := if x.kind = .bcast ∧ root ≠ g.me then 0 else n * size
    0 < n → n < 2 ^ 32 → w < 2 ^ 18 → (x.kind = .bcast ∨ root = 0) → c.s.collGroup? (w % 256) c.gang.ctx = some g →
    (x.kind = .redscat → n % g.chips.length = 0) → (x.kind = .bcast → root < g.chips.length) →
    (rangesMeet d.toNat dn a.toNat (n * size) = true → d = a ∧ (x.kind = .allreduce ∨ x.kind = .bcast ∧ root = g.me)) →
    d.toNat % size = 0 → a.toNat % size = 0 → xlatRange c .read a sn = .ok sp → xlatRange c .write d dn = .ok dp →
    touchRange c c.s (sp ++ dp) = .ok s1 → c.grp.cpc < 63 → releaseFirst c s1 .rel = .ok t →
    exec (.coll x) s = .next (State.jumped { t.park c.f (.coll g.id) with collWaits := t.collWaits ++ [
      { group := g.id, gang := c.f.gang, slot := c.f.group, split := c.f.split, lanes := c.exec, pc := c.sp.pc, kind := x.kind, op := x.op
        ty := x.ty, n := n, root := root, dst := (List.range dn).map (fun i => placeByte dp (d + BitVec.ofNat 64 i))
        src := (List.range sn).map (fun i => (placeByte sp (a + BitVec.ofNat 64 i)).1), isSeal := none }] } c)) ∧
  (∀ (x : CkSealI) (s : State) (c : Iss) (g : CollGroup) (k : Context) (t : State),
    Issues s { ss := [x.a], ups := [x.d], feature := some 3 } (Instr.ckseal x).bytes c → c.gang.pair = none →
    (c.readS x.a).toNat < 256 → c.s.collGroup? (c.readS x.a).toNat c.gang.ctx = some g → g.chips.length = 8 →
    c.s.ctx? c.gang.ctx = some k → 0 < k.quota → c.grp.cpc < 63 → releaseFirst c c.s .rel = .ok t →
    exec (.ckseal x) s = .next (State.jumped { (t.park c.f (.coll g.id)).modCpcs c.f.gang c.grp.gid.toNat (· + 1) with
      collWaits := t.collWaits ++ [
        { group := g.id, gang := c.f.gang, slot := c.f.group, split := c.f.split, lanes := c.exec, pc := c.sp.pc, kind := .bcast, op := .add
          ty := .n8, n := 0, root := 0, dst := [], src := [], isSeal := some x.d }] } c))

/-! ## The press (11, 12) -/

namespace Sys2Proof.Claims

/-- A collective tile operation finds its group whole and its gang's reservation in force, with the units it names (11 R213, R219). -/
def pressOpen (c : Iss) (r : Reservation) (nm nk : Nat) : Prop :=
  c.sp.lanes = c.grp.live ∧ c.s.reservation? c.gang = some r ∧ r.releasing = false ∧ nm ≤ r.moulds.length ∧ nk ≤ r.accs.length

end Sys2Proof.Claims

/-- 11 R208-R212, R222: MRES answers whether the units are granted, MREL frees them when no tile operation is left, MSTAT reads the status (outside a
pair, with no flip due). A request is granted exactly where the press is shared or has the units, and gives the gang cleared units; a refusal is
counted; a gang that has a reservation keeps it. The end of a release leaves the gang without a reservation and keeps the others'. -/
def Obligations.Reservations : Prop :=
  ((∀ (x : MResI) (s : State) (c : Iss), Issues s { ups := [x.d] } (Instr.mres x).bytes c → c.gang.pair = none →
     let r := c.s.reserve c.gang x.nm.val x.nk.val
     r.1.isTrail c.f.gang = false → exec (.mres x) s = .next (State.after (r.1.writeU c.f (.up x.d r.2)) c)) ∧
   (∀ (s : State) (c : Iss), Issues s {} Instr.mrel.bytes c →
     (c.s.reservation? c.gang = none → exec .mrel s = .next (c.s.after c)) ∧
     (c.s.reservation? c.gang ≠ none → c.gang.tileOps = [] → exec .mrel s = .next (State.after (c.s.endRelease c.gang) c))) ∧
   (∀ (x : DstS) (s : State) (c : Iss), Issues s { ss := [x.d] } (Instr.mstat x).bytes c → c.gang.pair = none → c.dueFlip c.s = none →
     exec (.mstat x) s = .next (State.after (c.s.writeU c.f (.s x.d (mstatWord c))) c))) ∧
  (∀ (s : State) (g : Gang), g.press < s.presses.length →
     (s.endRelease g).reservation? g = none ∧ ∀ (k : Gang) (r : Reservation), k.id ≠ g.id → s.reservation? k = some r →
       (s.endRelease g).reservation? k = some r) ∧
  (∀ (s : State) (g : Gang) (nm nk : Nat),
     let p := s.press? g.press
     (∀ r, s.reservation? g = some r → r.releasing = false →
       s.reserve g nm nk = (s, decide (nm ≤ r.moulds.length ∧ nk ≤ r.accs.length))) ∧
     (s.reservation? g = none → (p.shared = true ∨ p.usedMoulds + nm ≤ 32 ∧ p.usedAccs + nk ≤ 8) → g.press < s.presses.length →
       (s.reserve g nm nk).2 = true ∧ ∃ r, (s.reserve g nm nk).1.reservation? g = some r ∧ r.releasing = false ∧
         r.moulds = List.replicate nm Mould.fresh ∧ r.accs = List.replicate nk Acc.fresh) ∧
     (s.reservation? g = none → ¬(p.shared = true ∨ p.usedMoulds + nm ≤ 32 ∧ p.usedAccs + nk ≤ 8) →
       (s.reserve g nm nk).2 = false ∧ (s.reserve g nm nk).1.presses = s.presses ∧
       ∀ h, s.gang? g.id = some h → ((s.reserve g nm nk).1.gang? g.id).map Gang.refused = some (min 0xFFFF (h.refused + 1))))

/-- 11 R213-R219: MLDB, MMUL, MAMOV and MZERO enter the press queue with their units and regions; MLDB tags its mould at once.
The group is whole, the reservation in force, the units reserved. -/
def Obligations.TileOperations : Prop :=
  (∀ (x : MldbI) (s : State) (c : Iss) (r : Reservation) (a b : Region) (t : State), Issues s { ss := [x.a, x.b] } (Instr.mldb x).bytes c →
    pressOpen c r (x.mould.val + 1) 0 → pressRegion c x.a 0 (8192 * pressWidth x.w (fmtWB c.sp.fmt)) false = .ok a →
    pressRegion c x.b 0 256 false = .ok b →
    enqueue c c.s (.mldb x.mould.val (pressWidth x.w (fmtWB c.sp.fmt)) a.base b.base) [a, b] [] = .ok t →
    exec (.mldb x) s = .next (State.after (t.tagMoulds c.gang [(x.mould.val, .dense)]) c)) ∧
  (∀ (x : MMulI) (s : State) (c : Iss) (r : Reservation) (a : Region) (t : State), Issues s { ss := [x.a] } (Instr.mmul x).bytes c →
    let nm := x.nm1.val + 1
    let nr := x.nr1.val + 1
    let w := pressWidth x.w (fmtWA c.sp.fmt)
    pressOpen c r (x.first.val + nm) (x.d.val + 1) → pressRegion c x.a 0 (nm * nr * (32 * w + 8)) false = .ok a →
    enqueue c c.s (.mmul x.d.val x.first.val nm nr w a.base c.grp.dead) [a] [] = .ok t → exec (.mmul x) s = .next (t.after c)) ∧
  (∀ (x : MaMovI) (s : State) (c : Iss) (r : Reservation) (a : Region) (t : State), Issues s { ss := [x.a] } (Instr.mamov x).bytes c →
    let nr := x.nr1.val + 1
    pressOpen c r 0 (x.d.val + 1) → pressRegion c x.a 2 (1024 * nr) (!x.inward) = .ok a →
    (if x.inward then enqueue c c.s (.mamovIn x.d.val nr a.base) [a] []
     else enqueue c c.s (.mamovOut x.d.val nr a.base) [] [(a.base, 1024 * nr)]) = .ok t → exec (.mamov x) s = .next (t.after c)) ∧
  (∀ (x : MZeroI) (s : State) (c : Iss) (r : Reservation) (t : State), Issues s {} (Instr.mzero x).bytes c → pressOpen c r 0 (x.d.val + 1) →
    enqueue c c.s (.mzero x.d.val) [] [] = .ok t → exec (.mzero x) s = .next (t.after c))

/-- 11 R209, R215, R220, R221: an operation enters the queue behind the others with a number of its own, with its source lines pinned and its
destination lines owned, once the group's earlier stores are performed; while 16 are there it waits. MFENCE closes a batch of the operations no earlier
fence holds, numbers it and counts it in TLC; with none left and none open it is complete at once, and MFENCE goes on while fewer than 16 batches are
open; MWAIT goes on when its batch is not open. -/
def Obligations.QueueAndBatches : Prop :=
  ((∀ (i : Instr) (s : State) (c : Iss), (i = .mfenceBase ∨ i = .mfenceExt) → Issues s {} i.bytes c → c.grp.batches.length < 16 →
     exec i s = .next (State.after (c.s.modGroup c.f.gang c.f.group (fun g =>
       ({ g with
          tiles := g.tiles.map (fun t => { t with fenced := true })
          batches := g.batches ++ [{ num := g.nextb.toNat, left := (g.tiles.filter (fun t => !t.fenced)).length }]
          tlc := g.tlc + 1, nextb := g.nextb + 1 } : Group).closeBatches 17)) c)) ∧
   (∀ (x : MWaitI) (s : State) (c : Iss), Issues s {} (Instr.mwait x).bytes c → (∀ b, b ∈ c.grp.batches → b.num ≠ x.n.val) →
     exec (.mwait x) s = .next (c.s.after c)) ∧
   (∀ (g : Group), g.batches.length ≤ 17 → ∃ done,
     g.batches = done ++ (g.closeBatches 17).batches ∧ (∀ b, b ∈ done → b.left = 0) ∧ (g.closeBatches 17).tlc = g.tlc - done.length ∧
     (g.closeBatches 17).tiles = g.tiles ∧ (g.closeBatches 17).nextb = g.nextb ∧
     ∀ b, (g.closeBatches 17).batches.head? = some b → b.left ≠ 0)) ∧
  (∀ (c : Iss) (s : State) (k : TileKind) (srcs : List Region) (dsts : List (Nat × Nat)),
     (16 ≤ c.grp.tiles.length → enqueue c s k srcs dsts = .error (.stall .busy)) ∧
     (∀ (s1 s2 : State), c.grp.tiles.length < 16 → releaseFirst c s .rel = .ok s1 →
       readStash c s1 ((srcs.flatMap (fun r => rangeLines r.base r.extent)).eraseDups) = .ok s2 →
       ∃ op : TileOp, op.kind = k ∧ op.started = false ∧ op.fenced = false ∧ op.order = s2.nextCmd ∧
         (∀ l, l ∈ op.pins ↔ ∃ r, r ∈ srcs ∧ l ∈ rangeLines r.base r.extent) ∧
         (∀ l, l ∈ op.owned ↔ ∃ d, d ∈ dsts ∧ l ∈ rangeLines d.1 d.2) ∧
         enqueue c s k srcs dsts = .ok
           { s2.modGroup c.f.gang c.f.group (fun g => { g with tiles := g.tiles ++ [op] }) with nextCmd := s2.nextCmd + 1 }))

/-- 12 R226-R235: PRUNE, MLDBS and MMULS enter the press queue after their metadata is validated; MHDR writes what the metadata says. With no flip
due. -/
def Obligations.SparseMembers : Prop :=
  (∀ (x : PruneI) (s : State) (c : Iss) (r : Reservation) (a b m : Region) (t : State),
    Issues s { ss := [x.a, x.b, x.c], ups := [x.d], feature := some 0 } (Instr.prune x).bytes c → pressOpen c r 0 0 →
    let w := pressWidth x.w (fmtWB c.sp.fmt)
    let h := PruneI.hdr x w
    let packed := h.slices * 8192 * w
    pressRegion c x.a 0 (h.cols * h.k * w / 8 + h.cols) false = .ok a → pressRegion c x.b 0 packed true = .ok b →
    pressRegion c x.c 0 h.size true = .ok m → h.prows ≤ 8192 → (x.tp = true → h.cols % h.m = 0) →
    enqueue c c.s (.prune x.d.val w h.n h.m h.k h.cols x.tp x.idx4 a.base b.base m.base c.sp.lanes) [a]
      [(b.base, packed), (m.base, h.size)] = .ok t →
    exec (.prune x) s = .next (State.after (t.modGroup c.f.gang c.f.group (fun g =>
      { g with predWait := g.predWait ++ [(x.d.val, c.sp.lanes)] })) c)) ∧
  (∀ (x : MldbsI) (s : State) (c : Iss) (r : Reservation) (a b m : Region) (h : SparseHdr) (s1 t : State),
    Issues s { ss := [x.a, x.b, x.c], feature := some 0 } (Instr.mldbs x).bytes c →
    let w := pressWidth x.w (fmtWB c.sp.fmt)
    pressOpen c r (x.first.val + h.slices) 0 → pressRegion c x.a 0 0 false = .ok a → pressRegion c x.b 0 0 false = .ok b →
    pressRegion c x.c 0 16 false = .ok m → validated c c.s m = .ok (s1, h) → h.slices * 8192 * w ≤ a.extent → h.cols ≤ b.extent → h.wb = w →
    enqueue c s1 (.mldbs x.first.val w a.base b.base h) [a, b, m] [] = .ok t →
    exec (.mldbs x) s = .next (State.after (t.tagMoulds c.gang ((List.range h.slices).map (fun i => (x.first.val + i, .sparse i h)))) c)) ∧
  (∀ (x : MmulsI) (s : State) (c : Iss) (r : Reservation) (a m : Region) (h : SparseHdr) (s1 t : State),
    Issues s { ss := [x.a, x.c], feature := some 0 } (Instr.mmuls x).bytes c →
    let w := pressWidth x.w (fmtWA c.sp.fmt)
    let nr := x.nr1.val + 1
    pressOpen c r (x.first.val + h.slices) (x.d.val + 1) → pressRegion c x.a 0 0 false = .ok a → pressRegion c x.c 0 16 false = .ok m →
    validated c c.s m = .ok (s1, h) → nr * h.k * (4 * w + 1) / 32 ≤ a.extent →
    (∀ i, i < h.slices → ∃ y, r.moulds[x.first.val + i]? = some y ∧ y.tag.agrees i h = true) →
    enqueue c s1 (.mmuls x.d.val x.first.val nr w a.base m.base h c.grp.dead) [a, m] [] = .ok t → exec (.mmuls x) s = .next (t.after c)) ∧
  (∀ (x : MHdrI) (s : State) (c : Iss) (m : Region) (v : Except (Nat × Nat) SparseHdr) (t : State),
    Issues s { ss := [x.d, x.a], feature := some 0 } (Instr.mhdr x).bytes c → pressRegion c x.a 0 16 false = .ok m →
    validate c c.s m = .ok (t, v) → c.dueFlip t = none → ((∃ h, v = .ok h) ∨ x.try_ = true) →
    exec (.mhdr x) s = .next (State.after (t.writeU c.f (.s x.d (mhdrWord v))) c))

/-! ## Tasks, queues, futures (14) -/

namespace Sys2Proof.Claims

/-- The queue object at s[a] is open: where it lies, its header, and the state in which the member acts on it (14 R266). -/
def queueOpen (c : Iss) (a : SReg) (ord : MemOrder) (p : Nat) (h : Hdr) (t : State) : Prop :=
  ∃ s1, openObject c (c.readS a) 64 ord = .ok (s1, p) ∧ openQueue c s1 p = .ok (t, h)

/-- The valid queue of the issuing context of a kind. -/
def queueOf (c : Iss) (h : Hdr) (kind : Nat) : Prop := h.valid = true ∧ h.owner = c.gang.ctx ∧ h.kind = kind

end Sys2Proof.Claims

/-- 14 R267, R272-R276: QPUSH, TSPAWN, TDONE, WLPUSH, WLINS and FUTSET hold their effect, or perform it; the split goes on, or waits for room. Outside a
pair. An effect is held while the gang is replayable and fewer than 256 are held; a gang that is not replayable performs it. -/
def Obligations.EffectMembers : Prop :=
  ((∀ (x : PushI) (s : State) (c : Iss) (p : Nat) (h : Hdr) (t u : State) (done : Bool),
     Issues s { vs := [vuse x.b true], ss := [x.a] } (Instr.qpush x).bytes c → c.gang.pair = none → queueOpen c x.a .rel p h t → queueOf c h 0 →
     let vals := laneValues c x.b
     vals.length ≤ h.cap → doEffect c t (.qpush p vals) (fun s => s.link c.f p (.push (.qpush p vals) vals.length none)) = .ok (u, done) →
     exec (.qpush x) s = .next (State.jumped (if done then advance u c.f c.len else u) c)) ∧
   (∀ (x : AbI) (s : State) (c : Iss) (p : Nat) (h : Hdr) (r : Region) (bs : List Byte) (t t1 u : State) (done : Bool),
     Issues s { ss := [x.a, x.b] } (Instr.tspawn x).bytes c → c.gang.pair = none → queueOpen c x.a .rel p h t → queueOf c h 1 →
     recordRegion c x.b = .ok r → readStash c t (rangeLines r.base 64) = .ok t1 →
     stampRecord (t1.vatReadBytes c.gang.core r.base 64) c.gang.ctx = some bs → t1.recordGood c.gang.ctx bs = true →
     doEffect c t1 (.tspawn p bs) (fun s => s.link c.f p (.push (.tspawn p bs) 1 (some r.base))) = .ok (u, done) →
     exec (.tspawn x) s = .next (State.jumped (if done then advance u c.f c.len else u) c)) ∧
   (∀ (x : SrcA) (s : State) (c : Iss) (y : Xlat) (p : Nat) (t t1 u : State) (done : Bool),
     Issues s { ss := [x.a] } (Instr.tdone x).bytes c → c.gang.pair = none → objectAt c (c.readS x.a) 32 = .ok y →
     openObject c (c.readS x.a) 32 .rel = .ok (t, p) → reachObject t p = .ok t1 →
     doEffect c t1 (.tdone p y.dur) (fun s => s) = .ok (u, done) →
     exec (.tdone x) s = .next (State.jumped (if done then advance u c.f c.len else u) c)) ∧
   (∀ (x : PushI) (s : State) (c : Iss) (p : Nat) (h : Hdr) (t u : State) (done : Bool),
     Issues s { vs := [vuse x.b true], ss := [x.a] } (Instr.wlpush x).bytes c → c.gang.pair = none → queueOpen c x.a .rel p h t → queueOf c h 2 →
     h.occ + (laneValues c x.b).length ≤ h.cap → doEffect c t (.wlpush p (laneValues c x.b)) (fun s => s) = .ok (u, done) →
     exec (.wlpush x) s = .next (State.jumped (if done then advance u c.f c.len else u) c)) ∧
   (∀ (x : PushI) (s : State) (c : Iss) (p : Nat) (h : Hdr) (t u : State) (done : Bool),
     Issues s { vs := [vuse x.b true], ss := [x.a] } (Instr.wlins x).bytes c → c.gang.pair = none → queueOpen c x.a .rel p h t → queueOf c h 2 →
     h.occ + (newValues (t.onChip p) (laneValues c x.b)).length ≤ h.cap → doEffect c t (.wlins p (laneValues c x.b)) (fun s => s) = .ok (u, done) →
     exec (.wlins x) s = .next (State.jumped (if done then advance u c.f c.len else u) c)) ∧
   (∀ (x : FutSetI) (s : State) (c : Iss) (y : Xlat) (p : Nat) (t t1 u : State) (done : Bool),
     Issues s { ss := x.a :: x.b.toList } (Instr.futset x).bytes c → c.gang.pair = none → objectAt c (c.readS x.a) 16 = .ok y →
     openObject c (c.readS x.a) 16 .rel = .ok (t, p) → reachObject t p = .ok t1 →
     (x.b.isSome = true → t1.futureFull p = false) → (x.b = none → ∀ w, w ∈ t1.waiters → w.obj ≠ p) →
     doEffect c t1 (.futset p (x.b.map c.readS) y.dur) (fun s => s) = .ok (u, done) →
     exec (.futset x) s = .next (State.jumped (if done then advance u c.f c.len else u) c))) ∧
  (∀ (c : Iss) (s : State) (e : Effect) (w : State → State) (g : Gang), s.gang? c.f.gang = some g →
     (g.task.replay = true → g.nr = false → g.effects.length < 256 →
       doEffect c s e w = .ok (s.modGang c.f.gang (fun g => { g with effects := g.effects ++ [e] }), true)) ∧
     (g.task.replay = false → ∀ t, s.performEffect c.f.gang e = some t → doEffect c s e w = .ok (t, true)) ∧
     (g.task.replay = false → s.performEffect c.f.gang e = none → doEffect c s e w = .ok (w s, false)))

/-- 14 R268, R270, R274, R275: QPOP, QTRY and WLPOP take items for their lanes, FUTGET takes the value of a full cell; QPOP at an empty queue and FUTGET at
an empty cell link the split as a waiter; QTRY and WLPOP at an empty one go on without items. QLEN reads the occupancy, QSTAT the status of a queue
or of the gang's effect buffer. Outside a pair, QLEN and QSTAT with no flip due. -/
def Obligations.RemovalAndReads : Prop :=
  ((∀ (i : Instr) (x : PopI) (kind : Nat) (s : State) (c : Iss) (p : Nat) (h : Hdr) (t u : State) (vals : List Word),
     (i = .qpop x ∧ kind = 0 ∨ i = .qtry x ∧ kind = 0 ∨ i = .wlpop x ∧ kind = 2) →
     Issues s { vs := [vdest x.d true], ss := [x.a], ps := [x.c] } i.bytes c → c.gang.pair = none → queueOpen c x.a .plain p h t → queueOf c h kind →
     (t.hdr p).occ ≠ 0 → becomeNR c t true = .ok u → (u.hdr p).occ ≠ 0 →
     exec i s = .next (State.jumped (receive c x (u.popItems c.f.gang p (laneCount c.exec)).2 (u.popItems c.f.gang p (laneCount c.exec)).1) c)) ∧
   (∀ (x : PopI) (s : State) (c : Iss) (p : Nat) (h : Hdr) (t u : State),
     Issues s { vs := [vdest x.d true], ss := [x.a], ps := [x.c] } (Instr.qpop x).bytes c → c.gang.pair = none → queueOpen c x.a .plain p h t →
     queueOf c h 0 → (t.hdr p).occ = 0 → becomeNR c t true = .ok u → (u.hdr p).occ = 0 →
     exec (.qpop x) s = .next (State.jumped (u.link c.f p (.pop x.d x.c c.exec)) c)) ∧
   (∀ (i : Instr) (x : PopI) (kind : Nat) (s : State) (c : Iss) (p : Nat) (h : Hdr) (t : State),
     (i = .qtry x ∧ kind = 0 ∨ i = .wlpop x ∧ kind = 2) →
     Issues s { vs := [vdest x.d true], ss := [x.a], ps := [x.c] } i.bytes c → c.gang.pair = none → queueOpen c x.a .plain p h t → queueOf c h kind →
     (t.hdr p).occ = 0 → exec i s = .next (State.jumped (receive c x [] t) c)) ∧
   (∀ (x : DaI) (s : State) (c : Iss) (p : Nat) (t t1 : State), Issues s { ss := [x.d, x.a] } (Instr.futget x).bytes c → c.gang.pair = none →
     openObject c (c.readS x.a) 16 .plain = .ok (t, p) → reachObject t p = .ok t1 →
     (t1.futureFull p = true → c.dueFlip t1 = none → exec (.futget x) s =
       .next (State.jumped (advance (t1.writeU c.f (.s x.d (t1.futureValue p))) c.f c.len) c)) ∧
     (∀ u, t1.futureFull p = false → becomeNR c t1 true = .ok u → u.futureFull p = false → exec (.futget x) s =
       .next (State.jumped (u.link c.f p (.future x.d c.exec)) c)))) ∧
  ((∀ (x : DaI) (s : State) (c : Iss) (p : Nat) (h : Hdr) (t : State), Issues s { ss := [x.d, x.a] } (Instr.qlen x).bytes c → c.gang.pair = none →
     queueOpen c x.a .plain p h t → h.valid = true → h.kind ≠ 3 → h.owner = c.gang.ctx → c.dueFlip t = none →
     exec (.qlen x) s = .next (State.after (t.writeU c.f (.s x.d (BitVec.ofNat 64 h.occ))) c)) ∧
   (∀ (x : QStatI) (a : SReg) (s : State) (c : Iss) (p : Nat) (h : Hdr) (t : State), x.a = some a →
     Issues s { ss := [x.d, a] } (Instr.qstat x).bytes c → c.gang.pair = none → queueOpen c a .plain p h t → h.valid = true → h.kind ≠ 3 →
     h.owner = c.gang.ctx → c.dueFlip t = none →
     exec (.qstat x) s = .next (State.after (t.writeU c.f (.s x.d (BitVec.ofNat 64 (queueStatus t p h)))) c)) ∧
   (∀ (x : QStatI) (s : State) (c : Iss), x.a = none → Issues s { ss := [x.d] } (Instr.qstat x).bytes c → c.gang.pair = none →
     c.dueFlip c.s = none →
     exec (.qstat x) s = .next (State.after (c.s.writeU c.f (.s x.d (BitVec.ofNat 64 c.gang.bufferStatus))) c)))

/-! ## Traps, control registers, recovery (16, 17, 18) -/

/-- 16 R294, R295, R297, R298: the first trap of a gang halts it with the trap, the faulting split and its next address, and every group's skid count at 0; a
trap during the skid only stops its split; a trap of the handler is kept as its double fault. Delivery writes the trap frame at HFRAME's place and
starts the handler split at HVEC with every live lane of the faulting group, FMT 0x003F and PART 5, s0 the frame's address and s1 the cause and subcause. -/
def Obligations.TrapsAndHandler : Prop :=
  (∀ (s : State) (f : Focus) (len : Nat) (execm : LaneMask) (t : TrapInfo) (g : Gang) (sp : Split), s.gang? f.gang = some g → s.split? f = some sp →
     let u := raiseTrap s f len execm t
     (g.halt = none → g.run = .running → f.split < 4 → ∃ h, (u.gang? f.gang).map Gang.halt = some (some h) ∧ h.trap = t ∧ h.group = f.group ∧
       h.split.val = f.split ∧ h.pc = sp.pc ∧ h.npc = sp.pc + BitVec.ofNat 64 len ∧ h.execm = execm ∧ h.phase = .skid ∧
       h.skid = g.order.map (fun k => (k, 0)) ∧ h.ended = [] ∧ h.double = none ∧ u.split? f = some { sp with status := .ready }) ∧
     (∀ h, g.halt = some h → f.split < 4 → (u.gang? f.gang).map Gang.halt = some (some { h with ended := (f.group, f.split) :: h.ended }) ∧
       u.split? f = some sp) ∧
     (∀ h, g.halt = some h → f.split = 4 → (u.gang? f.gang).map Gang.halt = some (some
       { h with double := some t, dpc := sp.pc, dnpc := sp.pc + BitVec.ofNat 64 len, dexec := execm })) ∧
     gangsOnly s u) ∧
  (∀ (s : State) (id : Nat) (g : Gang) (h : Halt) (x : Group), s.gang? id = some g → g.halt = some h → g.group? h.group = some x →
     let u := deliverToHandler s id none
     ∃ hs : Split, (u.gang? id).bind Gang.handler = some hs ∧ hs.pc = g.csr.hvec ∧ hs.lanes = x.live ∧ hs.fmt = 0x003F ∧ hs.part = 5 ∧
       hs.status = .ready ∧ hs.shadows = [] ∧ (u.gang? id).map Gang.halt = some (some { h with phase := .handling }) ∧
       u.sAt { gang := id, group := h.group, split := 4 } 0 = g.csr.hframe ∧
       u.sAt { gang := id, group := h.group, split := 4 } 1 = BitVec.ofNat 64 (h.trap.cause + 2 ^ 8 * h.trap.sub) ∧
       u.mem = s.mem.writeBytes g.framePhys (s.frameBytes g h) ∧ u.vat = s.vat)

/-- 16 R299-R302: ERET leaves the handler as the frame says, after the group's stores to the frame and no others; SYSCALL performs the group's stores and waits for Ezden; CSRW writes a control
register (outside a pair). Reading back a control register that was written gives what was written, HDELEG but for its reserved bits; no other control
register changes; HP, HFRAME and TRAPCNT cannot be written. BKPT and TRAP raise their trap in the active lanes with the code in INFO; the split stays at
the instruction. -/
def Obligations.SystemMembers : Prop :=
  (((∀ (s : State) (c : Iss) (t : State), Issues s { priv := true } Instr.eret.bytes c → c.gang.pair = none →
      c.s.performFor c.f.gang c.f.group ((List.range 2304).map (fun i => c.gang.framePhys + i)) = some t →
      (∀ l, l ∈ rangeLines c.gang.framePhys 2304 → t.physBusy l false = false) →
      let u := t.reachAll (rangeLines c.gang.framePhys 2304) false
      exec .eret s = .next (State.jumped (leaveHandler c (u.mem.readBytes c.gang.framePhys 2304) u) c)) ∧
    (∀ (x : SyscallI) (s : State) (c : Iss) (t : State), Issues s { vs := callUses } (Instr.syscall x).bytes c → c.gang.pair = none →
      c.s.performAll c.f.gang c.f.group = some t → exec (.syscall x) s = .next (State.jumped (t.park c.f .syscall) c)) ∧
    (∀ (x : CsrWI) (s : State) (c : Iss) (r : Csrs), Issues s { ss := [x.b] } (Instr.csrw x).bytes c →
      csrWrite c x.csr.toNat (c.readS x.b) = some r →
      exec (.csrw x) s = .next (State.after (c.s.modGang c.f.gang (fun g => { g with csr := r })) c))) ∧
   (∀ (c : Iss) (n : Nat) (v : Word) (r : Csrs), csrWrite c n v = some r →
      (∀ d : Iss, d.gang.csr = r → d.f = c.f → csrRead d n = some (if n = 1 then v &&& delegMask else v)) ∧
      (∀ d : Iss, d.gang.csr = r → d.f = c.f → ∀ k, k ≠ n → csrRead d k = csrRead c k) ∧ n ≠ 2 ∧ n ≠ 3 ∧ n ≠ 5)) ∧
  (∀ (i : Instr) (cause n : Nat) (s : State) (c : Iss),
     ((i = .bkptBase ∧ cause = 0x10 ∧ n = 0) ∨ (∃ x : CodeI, i = .bkptExt x ∧ cause = 0x10 ∧ n = x.n.toNat) ∨
       ∃ x : CodeI, i = .trap x ∧ cause = 0x12 ∧ n = x.n.toNat) →
     Issues s {} i.bytes c →
     exec i s = .next (raiseTrap (s.trapCopy c none) c.f i.bytes c.exec
       { cause := cause, sub := 0, kind := 0, lanes := c.exec, addr := 0, info := BitVec.ofNat 64 n }))

/-- 16 R299, 08 R174, 10 R194: a return with ACTION 0 goes on at the faulting instruction, with ACTION 1 behind it; the halt is lifted, the handler ends,
TRAPCNT rises by 1, FMT and PART are those of the frame as far as they can be held (DESIGN CHOICE, log 100), and the groups are tested for a deadlock
that came during the halt; ACTION 2 kills the gang, 3 ends the context. -/
def Obligations.EretResumes : Prop :=
  (∀ (c : Iss) (s : State) (fr : List Byte) (g : Gang) (h : Halt) (x : Group) (sp : Split), s.gang? c.f.gang = some g → g.halt = some h →
    g.group? h.group = some x → x.split? h.split.val = some sp →
    let f : Focus := { gang := c.f.gang, group := h.group, split := h.split.val }
    let r := resumeFromHandler s c.f.gang (decide (fieldAt fr 3 1 = 1)) fr
    let u := leaveHandler c fr s
    (fieldAt fr 3 1 ≤ 1 → u = r.deadlockAll c.f.gang ∧ r.pcAt f = (if fieldAt fr 3 1 = 1 then h.npc else h.pc) ∧
      (r.gang? c.f.gang).map Gang.halt = some none ∧ (r.gang? c.f.gang).map Gang.handler = some none ∧
      (r.gang? c.f.gang).map (fun g => g.csr) = some { g.csr with trapcnt := g.csr.trapcnt + 1 } ∧
      (r.split? f).map (fun y => (y.fmt, y.part, y.status)) =
        some (heldFmt sp.fmt (BitVec.ofNat 16 (fieldAt fr 222 2)), heldPart sp.part (BitVec.ofNat 16 (fieldAt fr 224 2)), .ready) ∧
      r.sAt f 0 = BitVec.ofNat 64 (fieldAt fr 64 8)) ∧
    (fieldAt fr 3 1 = 2 → u = s.killGang c.f.gang) ∧ (3 ≤ fieldAt fr 3 1 → u = s.terminate c.gang.ctx)) ∧
  (∀ old v : BitVec 16, (fmtOk v.toNat = true → heldFmt old v = v) ∧ (heldFmt old v).toNat < 2 ^ 10 ∧
    (1 ≤ v.toNat → v.toNat ≤ 5 → heldPart old v = v) ∧ (heldPart old v).toNat < 2 ^ 3)

/-- 17 R317, R327, 18 R330, R333: CHKMODE sets the mode but never below the context's minimum; RPMARK waits for the gang, RPGET reads a recovery-point
register, FINJ arms its injection. -/
def Obligations.RecoveryMembers : Prop :=
  (∀ (x : ChkModeI) (s : State) (c : Iss) (k : Context), Issues s { feature := if x.mode.val = 0 then none else some 2 } (Instr.chkmode x).bytes c →
    x.mode.val ≤ 2 → c.s.ctx? c.gang.ctx = some k → ∃ m : Fin 3, m.val = max k.chkmin.val x.mode.val ∧
      exec (.chkmode x) s = .next (State.after (c.s.modGang c.f.gang (fun g => { g with chk := m })) c)) ∧
  (∀ (x : AbI) (s : State) (c : Iss) (slot i : Nat) (sp : Split),
    Issues s { ss := [x.a, x.b], feature := some 3 } (Instr.rpmark x).bytes c → c.f.split ≠ 4 → barrierClash c = false →
    c.gang.firstSplit = some (slot, i, sp) →
    ((slot = c.f.group ∧ i = c.f.split ∧ c.gang.otherMark (c.readS x.a, c.readS x.b) = none) ∨
      (¬(slot = c.f.group ∧ i = c.f.split) ∧ (sp.mark = none ∨ sp.mark = some (c.readS x.a, c.readS x.b)))) →
    exec (.rpmark x) s = .next (((c.s.modGroup c.f.gang c.f.group (fun g =>
      g.setWaiting c.f.split (.rpmark (c.readS x.a) (c.readS x.b) c.s.order))).jumped c).deadlockCheck c.f.gang c.f.group)) ∧
  (∀ (x : RpGetI) (s : State) (c : Iss), Issues s { ss := [x.d] } (Instr.rpget x).bytes c → x.sel.val ≤ 4 → c.dueFlip c.s = none →
    exec (.rpget x) s = .next (State.after (c.s.writeU c.f (.s x.d (rpgetValue c x.sel.val))) c)) ∧
  (∀ (x : FinjI) (s : State) (c : Iss) (k : Context),
    Issues s { ss := [x.a, x.b, x.c], priv := true, feature := some 6 } (Instr.finj x).bytes c → c.s.ctx? c.gang.ctx = some k → k.finj = true →
    let j := InjWord.ofNat (c.readS x.b).toNat
    injFieldsOk j (c.readS x.a) (c.readS x.b) c.gang.injections.length = true → checkTarget c j (c.readS x.a) = .ok () →
    namesCopy j.copy (c.s.isTrail c.f.gang) = true → c.gang.pair = none →
    exec (.finj x) s = .next (State.after (c.s.modGang c.f.gang (fun g => { g with injections := g.injections ++ [
      { group := c.f.group, kind := j.kind, struct := j.struct, target := c.readS x.a, lane := j.lane, bitNo := j.bitNo
        remaining := (c.readS x.c).toNat % 2 ^ 32, live := false }] })) c))

/-! ## Events of the memory system (03 R57, R59; 04 R75, R83-R87; 06 R135) -/

namespace Sys2Proof.Claims

/-- Dies differ, and stalled splits are tried again. -/
def diesOnly (s t : State) : Prop := ∃ ds, t = State.retry { s with dies := ds }

/-- Some line of a range is still to be written by an engine, or is dirty in a stash: by lines of memory. -/
def lineHeld (s : State) (inside : Nat → Prop) : Prop :=
  (∃ k y l, k ∈ s.commands ∧ y ∈ k.lines ∧ y.line = Loc.phys l ∧ inside l) ∨
  (∃ k st y, k ∈ s.cores ∧ st ∈ k.streams.toList ∧ y ∈ st.remaining ∧ inside (y.1 / 128)) ∨
  (∃ k u y, k ∈ s.cores ∧ u ∈ k.stash ∧ y ∈ u.lines ∧ y.2 = true ∧ inside (u.phys / 128)) ∨
  (∃ k st y, k ∈ s.saves ∧ st ∈ k.streams ∧ y ∈ st.2.remaining ∧ inside (y.1 / 128)) ∨
  ∃ k u y, k ∈ s.saves ∧ u ∈ k.stash ∧ y ∈ u.lines ∧ y.2 = true ∧ inside (u.phys / 128)

end Sys2Proof.Claims

/-- 03 R57, R59: the first entry no walker serves starts while fewer than 32 do; a completed walk answers every entry of its page and is counted; the
die and the cores whose accesses have waited hold a page that it finds, and nothing where it finds none. A page that no engine or stash, running or
saved, still writes moves to a free frame: its bytes are there, and its leaf names it; the tables of the walk lie in neither frame, and no line of the
page is update-only. -/
def Obligations.WalksAndPages : Prop :=
  (∀ (s : State) (die : Fin 4) (i : Nat) (w : Walk), (s.die? die.val).walks[i]? = some w → w.started = false →
    (∀ v, v ∈ (s.die? die.val).walks.take i → v.started = true) → ((s.die? die.val).walks.filter (fun v => v.started)).length < 32 →
    ∃ t, exec (.walkStart { die := die }) s = .next t ∧ diesOnly s t ∧
      t.die? die.val = { s.die? die.val with walks := (s.die? die.val).walks.set i { w with started := true } }) ∧
  (∀ (s : State) (die : Fin 4) (i : Nat) (w : Walk), (s.die? die.val).walks[i]? = some w → w.started = true →
    let r := (s.walkedPage w.ctx w.page).getD (w.page, 1)
    ∃ t, exec (.walkComplete { die := die, idx := i }) s = .next t ∧ t.mem = s.mem ∧ t.vat = s.vat ∧ t.contexts = s.contexts ∧
      (t.die? die.val).walkCount = (s.die? die.val).walkCount + 1 ∧
      (∀ v, v ∈ (t.die? die.val).walks ↔ v ∈ (s.die? die.val).walks ∧ ¬(v.ctx = w.ctx ∧ r.1 ≤ v.page ∧ v.page < r.1 + r.2)) ∧
      (s.walkedPage w.ctx w.page = some r → (w.ctx, r.1) ∈ (t.die? die.val).tlb ∧
        ∀ v c, v ∈ (s.die? die.val).walks → v.ctx = w.ctx → r.1 ≤ v.page → v.page < r.1 + r.2 → c ∈ v.waiters → c < s.cores.length →
          (w.ctx, r.1) ∈ (t.core? c).tlb) ∧
      (s.walkedPage w.ctx w.page = none → (t.die? die.val).tlb = (s.die? die.val).tlb ∧ ∀ c, t.core? c = s.core? c)) ∧
  (∀ (s : State) (ctx va new level leaf at_ : Nat) (c : Context), s.ctx? ctx = some c → s.leafAt c.root va = some (level, leaf, at_) →
    let n := 2 ^ levelShift level
    let old := frameOf level leaf
    let inFrames := fun a => old ≤ a ∧ a < old + n ∨ new ≤ a ∧ a < new + n
    let leaf' := leaf - bitsOf leaf 49 16 * 2 ^ 16 + new
    new % n = 0 → s.part.frameOk new n = true → leafOk level leaf' = true → (leaf.testBit 4 = true → old < 2 ^ 48) →
    (old + n ≤ new ∨ new + n ≤ old) → new < 2 ^ 50 →
    (∀ k y, k ∈ s.contexts → y ∈ s.leaves k.root → rangesMeet new n (frameOf y.2.1 y.2.2) (2 ^ levelShift y.2.1) = false) →
    ¬ lineHeld s (fun l => old / 128 ≤ l ∧ l < (old + n) / 128) → (∀ p, p ∈ s.partials → ¬(old / 128 ≤ p.addr / 128 ∧ p.addr / 128 < (old + n) / 128)) →
    (∀ u : State, (∀ a, ¬ inFrames a → u.mem.read a = s.mem.read a) → u.leafAt c.root va = some (level, leaf, at_)) →
    (∀ i, i < 8 → ¬ inFrames (at_ + i)) → s.mem.wf = true →
    ∃ t, exec (.pageMigration { ctx := ctx, va := va, frame := new }) s = .next t ∧
      (∀ i, i < n → t.mem.read (new + i) = s.mem.read (old + i)) ∧ t.mem.readLE at_ 8 = leaf' ∧
      ∀ a, ¬ inFrames a → (a < at_ ∨ at_ + 8 ≤ a) → t.mem.read a = s.mem.read a)

/-- 04 R72, R74, R75, R78, R79, R83, R85, 06 R135, 07 R145, R156, 17 R326: a load that completes writes its registers, its carry queue's places or its
vat lines, and LDC falls; a store that no release holds back and none of whose bytes an earlier one of its group writes is performed, and STC falls; a
line leaves the update-only state; one update of a RED or SCATADD arrives, after what an earlier store of its group writes there; the appended element
of lowest rank is written; a half-line becomes durable. -/
def Obligations.AccessEvents : Prop :=
  (∀ (s : State) (gang slot i : Nat) (g : Gang) (x : Group) (l : PendLoad), s.gang? gang = some g → s.group? gang slot = some x →
    x.loads[i]? = some l →
    let less := fun (t : State) => t.modGroup gang slot (fun x => { x with ldc := x.ldc - 1, loads := x.loads.eraseIdx i })
    let e : EvGroupIdx := { gang := gang, group := slot, idx := i }
    (l.carry = none → l.tile = [] →
      exec (.loadComplete e) s = .next (less (l.vals.foldl (fun (s : State) v => s.setLane gang slot v.1 v.2.1 v.2.2) s)).retry) ∧
    (∀ (k : Fin 8) (place : Nat), l.carry = some (k.val, place) → l.tile = [] →
      exec (.loadComplete e) s = .next (less (fillCarry s gang slot k place (l.vals.map (fun v => (v.2.1, v.2.2))))).retry) ∧
    (l.carry = none → l.vals = [] → (∀ t a, t ∈ l.tile → t.2 = Loc.phys a → s.physBusy (a / 128) false = false) →
      exec (.loadComplete e) s = .next ((less s).fillTile g l).retry)) ∧
  (∀ (s : State) (gang slot i : Nat) (x : Group) (p : PendStore), s.group? gang slot = some x → x.stores[i]? = some p →
    (∀ n q, n ∈ x.fences → n ≤ i → q ∈ x.stores.take n → q.isEmptied = true) → (∀ q a, q ∈ x.stores.take i → a ∈ q.addrs → a ∉ p.addrs) → (∀ l, l ∈ p.lines → s.physBusy l true = false) →
    let t := (s.performOne gang (s.gangDie gang) p).modGroup gang slot (fun x => Group.dropStore { x with stc := x.stc - 1 } i)
    exec (.storePerformed { gang := gang, group := slot, idx := i }) s = .next (State.retry (s.eager
      (if s.meetsLost p then s.endLost gang p.lines t else t)))) ∧
  (∀ (s : State) (line : Nat) (p : Partial), p ∈ s.partials → p.addr / 128 = line →
    exec (.updateOnlyMerge { line := line }) s = .next (s.mergeLine line).retry ∧ ∀ q, q ∈ (s.mergeLine line).partials → q.addr / 128 ≠ line) ∧
  (∀ (s : State) (gang slot i : Nat) (x : Group) (m : LaneMask) (u : Update) (us : List Update), s.group? gang slot = some x →
    x.stores[i]? = some (.red m (u :: us)) → (∀ n q, n ∈ x.fences → n ≤ i → q ∈ x.stores.take n → q.isEmptied = true) →
    (∀ q k, q ∈ x.stores.take i → k < u.ty.bits / 8 → u.addr + k ∉ q.addrs) → s.physBusy (u.addr / 128) true = false →
    exec (.redUpdateArrival { gang := gang, group := slot, idx := i }) s = .next (State.retry (s.eager (s.endLost gang [u.addr / 128]
      ((s.arriveUpdate gang (s.gangDie gang) u).modGroup gang slot (fun x => { x with stores := x.stores.set i (.red m us) })))))) ∧
  (∀ (s : State) (gang slot i : Nat) (x : Group) (g : Gang) (k : Command) (u : Update) (us : List Update), s.group? gang slot = some x →
    x.stores.length ≤ i →
    (s.commands.filter (fun c => c.gang == gang && c.group == x.gid.toNat && decide (c.kind = .scatadd)))[i - x.stores.length]? = some k →
    s.gang? gang = some g → g.moves = true → k.updates = u :: us → s.physBusy (u.addr / 128) true = false →
    let t := s.arriveUpdate g.id (s.gangDie g.id) u
    exec (.redUpdateArrival { gang := gang, group := slot, idx := i }) s = .next (State.retry (s.eager (s.endLost gang [u.addr / 128]
      { t with commands := t.commands.map (fun c =>
        if c.id = k.id then { c with updates := us, begun := (u.chunk :: c.begun).eraseDups } else c) })))) ∧
  (∀ (s t : State) (gang : Nat) (ch : Fin 4) (g : Gang) (x : AppendElem), s.gang? gang = some g → g.firstElem ch = some x → g.appendDue ch x = true →
    s.writeElem gang ch = some t → exec (.appendElementWrite { gang := gang, idx := ch.val }) s = .next t.retry) ∧
  (∀ (s : State) (half : Nat), (∃ c, c ∈ s.undurable ∧ c.1 / 64 = half) →
    exec (.durableAcknowledge { half := half }) s = .next (State.retry { s with undurable := s.undurable.filter (fun c => c.1 / 64 ≠ half) }))

/-! ## Events of the engines, the stash and the sync words (05 R98-R102, R113-R117, R122, R123; 07 R147, R151) -/

/-- 05 R92, R98-R103, R113-R117, R122, R123, 07 R147, R151: an engine whose turn it is writes a line, in both copies of a pair, with the bytes its
sources hold and poisoned where one of them is, releases it and posts its bytes; a command with nothing left completes and CPC falls; a fill slot is
written and handed over, a drain slot is stored and returned, a walk that is over ends the run; a collective command whose members agree begins its
result lines, and traps where they do not; bytes arrive at a sync word, or are discarded where their gang has gone; a dirty stash line is written back
and clean. -/
def Obligations.EngineEvents : Prop :=
  ((∀ (i : Instr) (s : State) (cmd line : Nat) (k : Command) (g : Gang) (l : CmdLine),
    (i = .engineLineWrite { cmd := cmd, line := line } ∨ i = .lineRecall { cmd := cmd, line := line }) →
    s.commands.find? (fun c => c.id == cmd) = some k → s.gang? k.gang = some g → k.lines[line]? = some l → g.moves = true →
    (∀ core n, l.line = .vat core n → core = g.core) → s.writeHeld l.line cmd = false → (∀ m, m ∈ l.moves → s.readHeld m.2.line cmd = false) →
    (∀ t y, s.twinLine g l.line = some (t, y) → s.writeHeld y cmd = false) → s.worked g.core k = true →
    let s1 := ((l.moves.map (fun m => m.2.line)).eraseDups).foldl State.readLine s
    let bs := l.moves.map (fun m => (m.1, s1.byteAt m.2)) ++ l.vals
    let bad := l.bad || l.moves.any (fun m => s1.badAt m.2)
    let s2 := s1.putLine g l.line bs bad l.dur
    let s3 := match s.twinLine g l.line with
      | some (t, y) => s2.putLine t y bs bad l.dur
      | none => s2
    let gone := fun (y : CmdLine) => decide (y.line = l.line) || (match s.twinLine g l.line with
      | some (_, z) => decide (y.line = z)
      | none => false)
    let t := State.postBytes { s3 with commands := s3.commands.map (fun c =>
      if c.id = cmd then
        { c with
          lines := (c.lines.filter (fun y => !gone y)).map (fun y => y.capture s1 ((l.moves.map (fun m => m.2.unit)).eraseDups))
          begun := (l.chunk :: c.begun).eraseDups }
      else c) } g k.sync bs.length
    exec i s = .next (s.eager t).retry ∧ ∀ c y, c ∈ t.commands → c.id = cmd → y ∈ c.lines → y.line ≠ l.line) ∧
  (∀ (s : State) (cmd : Nat) (k : Command), s.commands.find? (fun c => c.id == cmd) = some k → k.lines = [] → k.updates = [] →
    exec (.engineCommandComplete { cmd := cmd }) s = .next (State.retry
      (State.modCpcs { s with commands := s.commands.filter (fun c => c.id ≠ cmd) } k.gang k.group (· - 1))))) ∧
  ((∀ (s : State) (core e : Nat) (g : Gang), let st := s.streamAt core e
    let r := st.record
    let els := st.slotElems st.prod
    let sides := s.ringSides g st st.prod
    st.state = .run → r.drain = false → s.gang? st.holder = some g → g.moves = true → st.prod < r.totalSlots → st.prod < st.cons + r.slots →
    ((s.twin g).isSome = true → st.prod < st.twin + r.slots) → (∀ l, l ∈ linesOf (els.map (fun x => x.1)) → s.readHeld (.phys l) st.seq = false) →
    s.sidesHeld sides r.slotBytes st.seq true = false →
    let s1 := s.reachAll (linesOf (els.map (fun x => x.1))) false
    let size := 2 ^ r.esz
    let bytes := els.flatMap (fun x => s1.mem.readBytes x.1 size)
    let s2 := sides.foldl (fun (s : State) x => (List.range r.slotLines).foldl (fun (s : State) i =>
      let bs := (bytes.drop (128 * i)).take 128
      s.putLine x.1 (.vat x.1.core (x.2 / 128 + i)) (enumFrom 0 (bs ++ zeroBytes (128 - bs.length)))
        (((els.drop (128 / size * i)).take (128 / size)).any (fun y => s1.tainted y.1 size)) false) s) s1
    exec (.fillSlotReady { core := core, idx := e }) s = .next
      (State.retry ((setStream s2 core e { s2.streamAt core e with prod := st.prod + 1 }).postBytes g r.sync r.slotBytes))) ∧
  (∀ (s : State) (core e : Nat) (g : Gang), let st := s.streamAt core e
    let r := st.record
    let els := st.slotElems st.cons
    let a := st.slotAddr st.cons
    st.state = .run → r.drain = true → s.gang? st.holder = some g → g.moves = true → st.cons < st.prod → ((s.twin g).isSome = true → st.cons < st.twin) →
    st.cons < r.totalSlots → (∀ l, l ∈ linesOf (els.map (fun x => x.1)) → s.writeHeld (.phys l) st.seq = false) →
    s.sidesHeld [(g, a)] r.slotBytes st.seq false = false →
    let size := 2 ^ r.esz
    let s1 := (rangeLines a r.slotBytes).foldl (fun (s : State) l => s.readLine (.vat g.core l)) s
    let s2 := s1.writePhys g.id ((enumFrom 0 els).flatMap (fun x =>
      (enumFrom 0 (s1.vatReadBytes g.core (a + size * x.1) size)).map (fun b =>
        ({ addr := x.2.1 + b.1, val := b.2, dur := x.2.2 } : ByteWrite))))
    let s3 := ((enumFrom 0 els).filterMap (fun x => if s1.vatPoisoned g.core (a + size * x.1) then some x.2.1 else none)).foldl
      (fun (s : State) p => (s.poisonFor g.ctx (p / 128 * 2)).poisonFor g.ctx (p / 128 * 2 + 1)) s2
    exec (.drainSlotReturn { core := core, idx := e }) s = .next (State.retry (s.eager
      ((setStream s3 core e { s3.streamAt core e with cons := st.cons + 1 }).postBytes g r.sync r.slotBytes)))) ∧
  (∀ (s : State) (core e : Nat), let st := s.streamAt core e
    st.state = .run → st.record.totalSlots ≤ (if st.record.drain then st.cons else st.prod) →
    exec (.streamLastElement { core := core, idx := e }) s = .next (s.haltStream core e).retry)) ∧
  (∀ (s : State) (id : Nat) (ps : List PeerCommand) (w : CollWait) (g : Gang) (x : Group) (cg : CollGroup),
    s.collWaits.find? (fun w => w.group == id) = some w → s.gang? w.gang = some g → s.group? w.gang w.slot = some x →
    s.collGroups.find? (fun g => g.id == id) = some cg → ps.length + 1 = cg.chips.length →
    let size := accSize w.ty
    (w.isSeal ≠ none → (∃ y, y ∈ ps ∧ y.coll = true) → exec (.collRendezvous { group := id, peers := ps }) s = .next (s.collTrap w).retry) ∧
    (w.isSeal = none → x.cpc < 63 → (∃ y, y ∈ ps ∧ agrees y w = false) →
      exec (.collRendezvous { group := id, peers := ps }) s = .next (s.collTrap w).retry) ∧
    (w.isSeal = none → x.cpc < 63 → (∀ y, y ∈ ps → agrees y w = true) →
      (∀ k y, (enumFrom 0 ps)[k]? = some y → y.2.src.length =
        if w.kind = .bcast ∧ (if k < cg.me then k else k + 1) ≠ w.root then 0 else w.n * size) →
      (∀ l, l ∈ linesOf w.src → s.physBusy l false = false) →
      let s1 := s.reachAll (linesOf w.src) false
      let srcs := (ps.take cg.me).map (fun y => y.src) ++ [w.src.map (fun a => s1.mem.read a)] ++ (ps.drop cg.me).map (fun y => y.src)
      let marks := (ps.take cg.me).map (fun y => y.bad) ++
        [(enumFrom 0 w.src).filterMap (fun y => if s1.badAt (.phys y.2) then some y.1 else none)] ++ (ps.drop cg.me).map (fun y => y.bad)
      exec (.collRendezvous { group := id, peers := ps }) s = .next (State.retry (State.leaveColl
        (State.beginCommand { s1 with collWaits := s1.collWaits.erase w } g x.gid.toNat (.coll w.group)
          (collLines w.dst (collBytes w size cg.me srcs) (fun b => (collFrom w cg.chips.length cg.me (b / size)).any (fun y =>
            (List.range size).any (fun k => (marks.getD y.1 []).contains (y.2 * size + k))))) [] none) w [])))) ∧
  ((∀ (s : State) (i : Nat) (a : Arrival), s.arrivals[i]? = some a →
    let t : State := { s with arrivals := s.arrivals.eraseIdx i }
    (s.gang? a.gang = none → exec (.syncWordArrival { idx := i }) s = .next t.retry) ∧
    (∀ g, s.gang? a.gang = some g → g.core = a.core → g.base = a.base → s.pinned a.core (a.addr / 128) = false →
      exec (.syncWordArrival { idx := i }) s = .next (t.syncArrive a.core a.addr a.bytes).retry) ∧
    (∀ g, s.gang? a.gang = some g → ¬(g.core = a.core ∧ g.base = a.base) →
      (∀ f, f ∈ s.forwards → ¬(f.gang = a.gang ∧ f.oldCore = a.core ∧ f.oldBase = a.base)) →
      exec (.syncWordArrival { idx := i }) s = .next t.retry)) ∧
  (∀ (s : State) (core k : Nat) (u : StashUnit) (i : Nat), (s.core? core).dirty[k]? = some (u, i) → s.physBusy (u.phys / 128 + i) true = false →
    s.vatOwned core (u.vat / 128 + i) = false → s.pinned core (u.vat / 128 + i) = false →
    exec (.stashWriteback { core := core, idx := k }) s = .next (State.retry (s.eager
      ((s.writeBack core u i).setStashLine core u.vat i (some false))))))

/-! ## Events of the press (11 R209, R211, R212; 15 R291) -/

/-- 11 R209, R211, R212, R218, 15 R291: the head of a press queue that no earlier operation of its gang meets starts; on a press that is shared, or
whose reservations hold more units than there are, in its turn, on a shared one also out of turn when it has waited long; an operation that has started and whose destinations are free has its effect and leaves the queue; a reservation that
is to be released ends with the last operation, and the MRELs that wait for it are done; the mode switches and reservations stay. MZERO leaves 0 in every element and no poisoned row. -/
def Obligations.PressEvents : Prop :=
  (∀ (s : State) (gang slot : Nat) (g : Gang) (x : Group) (t : TileOp) (ts : List TileOp), s.gang? gang = some g → s.group? gang slot = some x →
    x.tiles = t :: ts → g.run = .running → t.started = false → (∀ u, u ∈ g.tileOps → u.order < t.order → u.kind.meets t.kind = false) →
    ((s.press? g.press).shared = false → (s.press? g.press).usedMoulds ≤ 32 → (s.press? g.press).usedAccs ≤ 8 → exec (.tileOperationStart { gang := gang, group := slot }) s =
      .next (State.retry (s.modGroup g.id x.slot (fun x => match x.tiles with
        | t :: rest => { x with tiles := { t with started := true } :: rest }
        | [] => x)))) ∧
    (∀ a b c, ((s.press? g.press).shared = true ∨ 32 < (s.press? g.press).usedMoulds ∨ 8 < (s.press? g.press).usedAccs) →
      s.pressBusy g.press = false → ((s.press? g.press).shared = true → s.agedHead g.press = none) → s.pressTurn g.press = some (a, b, c) →
      a.id = gang → b.slot = slot → exec (.tileOperationStart { gang := gang, group := slot }) s = .next (s.startTile (g, x, t) false).retry)) ∧
  (∀ (s : State) (press : Nat) (h : Gang × Group × TileOp), (s.press? press).shared = true → s.pressBusy press = false → s.agedHead press = some h →
    exec (.sharedAgeingServe { press := press }) s = .next (s.startTile h true).retry) ∧
  (∀ (s : State) (gang slot : Nat) (g : Gang) (x : Group) (t : TileOp), s.gang? gang = some g → s.group? gang slot = some x →
    x.tiles.head? = some t → t.started = true → g.moves = true → (∀ l, l ∈ t.owned → s.destHeld g.core l t.order = false) →
    exec (.tileOperationComplete { gang := gang, group := slot }) s = .next (State.retry
      ((s.runTile g slot t).modGroup gang slot Group.finishTile))) ∧
  (∀ (s : State) (g : Gang) (slot d : Nat) (t : TileOp) (r : Reservation), t.kind = .mzero d → s.reservation? g = some r → d < r.accs.length →
    ((s.runTile g slot t).accOf g d).poison = 0 ∧ ∀ i n, i < 32 → n < 256 → ((s.runTile g slot t).accOf g d).elem i n = 0) ∧
  (∀ (s : State) (gang : Nat) (g : Gang) (r : Reservation), s.gang? gang = some g → s.reservation? g = some r → r.releasing = true → g.tileOps = [] →
    exec (.reservationRelease { gang := gang }) s = .next (s.endRelease g).retry) ∧
  (∀ (s : State) (press : Nat) (b : Bool), press < s.presses.length →
    exec (.pressModeSwitch { press := press, shared := b }) s = .next (s.modPress press (fun p => { p with shared := b, credit := [] })).retry)

/-! ## Events of the splits and the deckle (10 R197; 13 R240, R250-R253, R256, R257; 18 R330-R332) -/

/-- 10 R197, 13 R240, R251-R253, R256, R257, 18 R330-R332: splits with matching PCs merge into the lowest slot; splits at their reconvergence point merge,
and wait while others are to come or pop the entry once, and so do the parts of a divergent handler; a membership instruction whose lanes have all come or gone completes; the first BECOME of a
deckle is carried out, once the stores of the threads it moves are performed, or traps with 0x0A where its records do not fit; the first record that can
start materialises, after the groups that wait at a barrier are compacted; GSYNC and RPMARK complete when every thread of the gang has arrived (of a gang
outside a pair), a failure kept for an appended element traps at GSYNC, RPMARK completes after its checks and the write of the state area. -/
def Obligations.SplitAndDeckleEvents : Prop :=
  (∀ (s : State) (gang slot i : Nat), s.mergePartners gang slot i ≠ [] →
    let is := sortSlots (i :: s.mergePartners gang slot i)
    exec (.splitMerge { gang := gang, group := slot, idx := i }) s = .next (s.mergeAt gang slot (is.headD i) is.tail .ready).retry) ∧
  (∀ (s : State) (gang slot i : Nat) (g : Gang) (x : Group) (sp : Split), s.gang? gang = some g → s.group? gang slot = some x → x.split? i = some sp →
    sp.joined = false → sp.stack.head? = some sp.pc → sp.status.mayJoin = true → g.lives slot i = true → (∀ k, x.serial = some k → k.val = i) →
    let js := (x.joining i).1.filter (fun j => g.lives slot j)
    let is := sortSlots (i :: js)
    let lo := is.headD i
    let e : EvGroupIdx := { gang := gang, group := slot, idx := i }
    ((x.joining i).2 = true → (js ≠ [] ∨ sp.status ≠ .waiting .reconv) →
      exec (.reconvergence e) s = .next (State.retry ((s.mergeAt gang slot lo is.tail (.waiting .reconv)).deadlockCheck gang slot))) ∧
    ((x.joining i).2 = false → exec (.reconvergence e) s = .next (State.retry
      (((s.mergeAt gang slot lo is.tail .ready).modSplit { gang := gang, group := slot, split := lo }
        (fun sp => { sp with stack := sp.stack.drop 1, joined := true, status := .ready })).modGroup gang slot Group.settle)))) ∧
  (∀ (s : State) (gang slot : Nat) (g : Gang) (sp : Split), s.gang? gang = some g → g.handler = some sp → sp.joined = false →
    sp.stack.head? = some sp.pc → sp.status.mayJoin = true → g.run = .running →
    let e : EvGroupIdx := { gang := gang, group := slot, idx := 4 }
    (∀ y, (∃ z, z ∈ g.handlerRest ∧ z.stack.head? = some sp.pc ∧ z.pc ≠ sp.pc) → g.handlerRest.find? (fun y => !y.atJoin) = some y →
      exec (.reconvergence e) s = .next (State.retry
        (s.modGang gang (fun g => { g with handler := some y, handlerRest := g.handlerRest.erase y ++ [sp] })))) ∧
    ((∀ z, z ∈ g.handlerRest → z.stack.head? = some sp.pc → z.pc = sp.pc) →
      let here := g.handlerRest.filter (fun y => decide (y.stack.head? = some sp.pc) && decide (y.pc = sp.pc))
      exec (.reconvergence e) s = .next (State.retry (s.modGang gang (fun g =>
        { g with
          handler := some { lowestSplit sp here with
            lanes := here.foldl (fun a y => a ||| y.lanes) sp.lanes, stack := (lowestSplit sp here).stack.drop 1, joined := true, status := .ready }
          handlerRest := g.handlerRest.filter (fun y => !(decide (y.stack.head? = some sp.pc) && decide (y.pc = sp.pc))) }))))) ∧
  (∀ (s : State) (gang slot j : Nat) (g : Gang) (x : Group) (i : Instr) (m : LaneMask) (sp : Split) (eff : Iss → State → Except Stop State)
    (c : Iss) (t : State), s.gang? gang = some g → s.group? gang slot = some x → x.memberReady = some (j, i, m) → x.split? j = some sp →
    memberEffect i = some eff →
    let is := sortSlots (x.mates sp.pc m)
    let f : Focus := { gang := gang, group := slot, split := is.headD j }
    let s1 := s.mergeAt gang slot f.split is.tail .ready
    (∀ k, k ∈ is → g.lives slot k = true) → s1.iss? f i.bytes = some c → eff { c with exec := m } s1 = .ok t →
    exec (.membershipComplete { gang := gang, group := slot }) s = .next (advance t f i.bytes).retry) ∧
  (∀ (s : State) (core : Nat) (r : DeckleReq) (rs : List DeckleReq) (g : Gang) (x : Group) (sp : Split), (s.core? core).deckle = r :: rs →
    s.gang? r.gang = some g → s.group? r.gang r.group = some x → x.split? r.split.val = some sp → g.moves = true → g.pairStopped = false →
    s.lanesFree g x = true → g.outOfOrder (becomeAct r.group) = false →
    let n := fun (l : Nat) => ((r.counts.find? (fun c => c.1 == l)).map (fun c => c.2)).getD 0
    let f : Focus := { gang := r.gang, group := r.group, split := r.split.val }
    let s1 := s.modCore core (fun c => { c with deckle := c.deckle.drop 1 })
    (s.plan g x sp r.carry n r.rpc = none → exec (.deckleBecome { core := core }) s = .next (State.retry
      (raiseTrap (s1.modSplit f (fun sp => { sp with status := .ready })) f (r.rpc - sp.pc).toNat sp.lanes
        { cause := 0x0A, sub := 0, kind := 0, lanes := sp.lanes, addr := sp.pc, info := 0 }))) ∧
    (∀ p s2, s.plan g x sp r.carry n r.rpc = some p →
      let ts := p.settlers x r.split.val r.carry
      ((∀ t, t ∈ ts → t.slot ≠ r.group) → s1.settleStores r.gang r.group = some s2) →
      ((∃ t, t ∈ ts ∧ t.slot = r.group) → (∃ t, t ∈ ts ∧ t.slot ≠ r.group) → s1.performAll r.gang r.group = some s2) →
      ((∃ t, t ∈ ts ∧ t.slot = r.group) → (∀ t, t ∈ ts → t.slot = r.group) → s2 = s1) →
      exec (.deckleBecome { core := core }) s = .next (State.retry
        (((s2.applyPlan r.gang r.group r.split.val r.carry r.rpc p).recordDeckle g (becomeAct r.group)).deadlockCheck r.gang r.group)))) ∧
  (∀ (s : State) (id : Nat) (g g1 : Gang) (s2 : State), s.gang? id = some g → g.run = .running → g.halt = none → g.pairStopped = false →
    g.outOfOrder (materialiseAct []) = false → (∀ r, r ∈ (s.core? g.core).deckle → r.gang ≠ id) → g.pend ≠ [] →
    (∀ a, a ∈ g.compactNow → a ∈ g.compactable) →
    let s1 := if g.compactNow = [] then s else s.compactSet id g.compactNow
    s1.gang? id = some g1 → s1.recordReady g1 = true → s1.settleTail g1 = some s2 →
    exec (.materialisation { gang := id }) s = .next ((s2.materialise id).recordDeckle g (materialiseAct g.compactNow)).retry) ∧
  ((∀ (s : State) (id k j : Nat) (g g2 : Gang) (sp : Split) (s1 : State), s.gang? id = some g → g.pair = none → g.groups ≠ [] →
    (∀ x, x ∈ g.groups → x.arrived = true) → (g.run = .running ∨ g.run = .preempting) → g.halt = none → g.pend = [] →
    g.firstSplit = some (k, j, sp) → sp.mark = none → s.writeAppends id = some s1 → s1.gang? id = some g2 →
    (∀ cause sub va, g2.appendFailure = some (cause, sub, va) → exec (.gsyncComplete { gang := id }) s = .next (State.retry
      ((s1.modGang id Gang.clearFailures).trapFirst id { cause := cause, sub := sub, kind := 1, lanes := 0, addr := va, info := 0 }))) ∧
    (∀ t, g2.appendFailure = none → s1.fenceGang id = some t → exec (.gsyncComplete { gang := id }) s = .next (t.passBarrier [id]).retry)) ∧
  (∀ (s : State) (id k j k' j' : Nat) (g g1 g2 : Gang) (sp sp' : Split) (a b : Word) (s1 t : State), s.gang? id = some g → g.pair = none →
    g.groups ≠ [] → (∀ x, x ∈ g.groups → x.arrived = true) → (g.run = .running ∨ g.run = .preempting) → g.halt = none → g.pend = [] →
    g.firstSplit = some (k, j, sp) → sp.mark = some (a, b) → (s.compact id).gang? id = some g1 → g1.pair = none →
    g1.firstSplit = some (k', j', sp') → g1.otherMark (a, b) = none → (s.compact id).markFault g1 a b = none →
    (s.compact id).writeAppends id = some s1 → s1.gang? id = some g2 → g2.appendFailure = none → s1.drained g1 = true →
    s1.writeMark g1 [id] a (sp'.pc + 12) = some t → exec (.gsyncComplete { gang := id }) s = .next (t.passBarrier [id]).retry))

/-! ## Events of the queues, distributors and schedulers (14 R271, R273; 15 R279-R291, R385) -/

/-- 14 R271, R273, 15 R279-R290, R385: a host write to CMDAP is a command record, one to an object a push; a fired counter pushes its record, or its failure
is an event entry; a distributor starts the head of the best queue at its place, with the queue at its own level again, and is busy for 8 clocks; a
waiting queue rises by one level, and at the highest holds its die for a task that finds no vat block; a pre-empted gang moves; a message to its old core
is forwarded until the entry expires; a split that has waited 64 issue slots is boosted; the press wakes a stalled wait. -/
def Obligations.SchedulerEvents : Prop :=
  (∀ (s : State) (fn : Nat) (data : List Byte), s.boot.state ≠ 0 → data.length = 64 →
    exec (.hostPush { fn := fn, aperture := none, data := data }) s =
      .next (State.retry { s with fns := s.fns.modify fn (fun f => { f with commands := f.commands ++ [data] }) })) ∧
  (∀ (s : State) (fn i : Nat) (q : QueueObj) (data : List Byte), s.boot.state ≠ 0 → data.length = 64 →
    s.queues.find? (fun q => q.fn == fn && q.aperture == i) = some q → s.physBusy (q.hdr / 128) true = false →
    (∀ t, s.pushOutside q data = some t → exec (.hostPush { fn := fn, aperture := some i, data := data }) s = .next t.retry) ∧
    (s.pushOutside q data = none → exec (.hostPush { fn := fn, aperture := some i, data := data }) s = .next (s.bumpHdr 0 q.hdr 36).retry)) ∧
  (∀ (s : State) (i : Nat) (p : SuccPush), s.succs[i]? = some p →
    let s1 : State := { s with succs := s.succs.eraseIdx i }
    (∀ e, s.succCheck p = .error e → exec (.successorPush { idx := i }) s = .next (State.retry
      (s1.appendEvent p.ctx (eventEntry 0x82 e.2 1 p.record (BitVec.ofNat 64 e.1))))) ∧
    (∀ r q bs t, s.succCheck p = .ok (r, q) → s.physBusy (q / 128) true = false → s.physBusy (r / 128) false = false →
      let s2 := (s1.reach (r / 128) false).reach (q / 128) true
      stampRecord (s2.homeRead p.ctx p.record 64) p.ctx = some bs → s2.recordGood p.ctx bs = true → s2.push 0 (.tspawn q bs) = some t →
      exec (.successorPush { idx := i }) s = .next t.retry)) ∧
  (∀ (s : State) (die : Fin 4) (q : QueueObj) (t : TaskRec) (p : (Nat × Nat) × Option (Nat × Nat)),
    (s.die? die.val).nextDispatch ≤ (s.die? die.val).clock.toNat →
    (∀ q, q ∈ s.queues → s.served die.val q = true → s.physBusy (q.hdr / 128) true = false) →
    bestQueue (s.candidates die.val) = some (q, .task t p) →
    exec (.taskDispatch { die := die }) s = .next (State.retry
      ((((s.dropHead q).modQueue q.hdr (fun q => { q with el := q.prio, timer := 0, holding := false })).startTask t p).modDie die.val
        (fun d => { d with nextDispatch := d.clock.toNat + 8 })))) ∧
  (∀ (s : State) (i : Nat) (q : QueueObj), s.queues[i]? = some q → q.kind = 1 → 0 < (s.hdr q.hdr).occ → q.el < 7 → s.aged q = true →
    exec (.effectiveLevelRaise { idx := i }) s = .next (s.modQueue q.hdr (fun q => { q with el := q.el + 1, timer := 0 })).retry) ∧
  (∀ (s : State) (i : Nat) (q : QueueObj) (bs : List Byte), s.queues[i]? = some q → s.headRecord q = some bs → s.served q.die q = true → q.el = 7 →
    q.holding = false → s.aged q = true → s.recordGood q.ctx bs = true → s.lacksBlock q (TaskRec.ofBytes bs) = true →
    exec (.queueHolding { idx := i }) s = .next (State.retry
      ((s.modQueue q.hdr (fun q => { q with holding := true })).askMigration q.die (TaskRec.ofBytes bs)))) ∧
  (∀ (s : State) (id core base : Nat) (g : Gang), s.gang? id = some g → g.run = .preempted → s.migrationPlace g = some (core, base) →
    let s1 := ((s.lift g).land g core base (s.heldBy g)).resume g.id
    exec (.gangMigration { gang := id, core := core }) s = .next (State.retry { s1 with
      forwards := s1.forwards ++ [{
        gang := g.id, oldCore := g.core, newCore := core, oldBase := g.base, newBase := base, left := forwardingLife, before := s.nextCmd }]
      dies := s1.dies.map (fun d => if d.request = some g.id then { d with request := none } else d) })) ∧
  (∀ (s : State) (i : Nat) (f : Forwarding) (pre post : List Arrival) (a : Arrival), s.forwards[i]? = some f → s.arrivals = pre ++ a :: post →
    (∀ b, b ∈ pre → ¬(b.gang = f.gang ∧ b.core = f.oldCore ∧ b.base = f.oldBase)) → a.gang = f.gang → a.core = f.oldCore → a.base = f.oldBase →
    exec (.forwardedMessage { idx := i }) s = .next (State.retry
      { s with arrivals := pre ++ { a with core := f.newCore, base := f.newBase, addr := a.addr - f.oldBase + f.newBase } :: post })) ∧
  (∀ (s : State) (i : Nat) (f : Forwarding), s.forwards[i]? = some f → f.left = 0 → (∀ c, c ∈ s.commands → c.gang = f.gang → f.before ≤ c.id) →
    s.olderStream f.gang f.before = false → exec (.forwardingExpire { idx := i }) s = .next (State.retry { s with forwards := s.forwards.eraseIdx i })) ∧
  (∀ (s : State) (f : Focus) (sp : Split), s.split? f = some sp → f.split < 4 → (sp.status = .ready ∨ ∃ why, sp.status = .stalled why true) →
    sp.boost = none → 64 ≤ sp.idle →
    exec (.splitBoost { gang := f.gang, group := f.group, idx := f.split }) s = .next (s.modSplit f (fun sp => { sp with boost := some s.order })).retry) ∧
  (∀ (s : State) (f : Focus) (sp : Split) (why : Stall) (b : Bool), s.split? f = some sp → sp.status = .stalled why b →
    ((∃ x, s.instrAt f = .mwait x) ∨ ∃ x : WaitI, s.instrAt f = .wait x ∧ x.tl.val < 63) →
    exec (.pressWake { gang := f.gang, group := f.group, idx := f.split }) s = .next s.retry)

/-! ## Events of traps, calls, pre-emption, exit and kill (16 R294-R310) -/

/-- 16 R294-R298, R302-R310, 13 R252, 17 R314: a halt stops; a delegated trap is delivered to its handler; Ezden ends the context of a double fault, lets a
spill area grow, ends the gang of a trap that is not delegated; a system call and one that has waited too long end with their results, exit ends the
context; a gang is stopped, and when it has drained its accesses are performed and its waits withdrawn; a context's gangs are saved, and placed again; a
gang exits, or is killed. Traps and calls of gangs outside a pair. -/
def Obligations.TrapEvents : Prop :=
  (∀ (s : State) (id : Nat) (g : Gang) (h : Halt), s.gang? id = some g → g.halt = some h →
    (h.phase = .skid → exec (.skidEnd { gang := id }) s =
      .next (s.modGang id (fun g => { g with halt := some { h with phase := .stopped } })).retry) ∧
    (h.phase = .stopped → g.run = .running → g.pair = none → g.delegated h = true → s.poolGrowth g h = none →
      (∀ l, l ∈ rangeLines g.framePhys 12288 → s.physBusy l true = false) →
      exec (.handlerDelivery { gang := id }) s = .next ((deliverToHandler (s.clearFrame g) id none).logConsumption g h 6).retry) ∧
    (∀ t, h.double = some t → g.run = .running → g.pair = none →
      let k : Halt := { h with trap := t, pc := h.dpc, npc := h.dnpc, execm := h.dexec }
      exec (.ezdenTrap { gang := id }) s = .next (State.retry (((s.appendEvent g.ctx (g.frameHead k)).endConsumed g k).terminate g.ctx))) ∧
    (h.double = none → h.phase = .stopped → g.run = .running → g.pair = none → (∀ l, l ∈ rangeLines g.framePhys 12288 → s.physBusy l true = false) →
      let s0 := (s.clearFrame g).writeFrame g h
      (∀ n, s.poolGrowth g h = some n → exec (.ezdenTrap { gang := id }) s = .next ((s0.growSpill g.id n).liftHalt g.id).retry) ∧
      (s.poolGrowth g h = none → g.delegated h = false → exec (.ezdenTrap { gang := id }) s = .next (State.retry
        (((s0.appendEvent g.ctx (g.frameHead h)).endConsumed g h).killGang id))))) ∧
  (∀ (s : State) (g : Gang) (h : Halt), h.trap.cause = 0x15 → s.isTrail g.id = false →
    s.endConsumed g h = (s.logConsumption g h 5).terminateAll (s.ownedBy (s.consumed g h).2.1)) ∧
  (∀ (s : State) (i : Instr) (gang slot : Nat) (g : Gang) (f : Focus) (x : SyscallI) (sp : Split) (as : List SysAnswer), s.gang? gang = some g →
    s.callFocus gang slot = some f → s.instrAt f = .syscall x → s.split? f = some sp → g.pairStopped = false → g.moves = true →
    (i = .syscallComplete { gang := gang, group := slot, answers := as } ∨
      (i = .syscallTimeout { gang := gang, group := slot } ∧ x.n.toNat ∈ [10, 12, 14] ∧
        as = List.replicate (lanesOf sp.lanes).length { result := callError 11, data := [] })) →
    as.length = (lanesOf sp.lanes).length →
    (∀ t vals, x.n.toNat ≠ 16 → s.laneCalls { g := g, f := f } x.n.toNat ((lanesOf sp.lanes).zip as) = some (t, vals) →
      exec i s = .next ((s.eager t).endCall f sp.lanes vals).retry) ∧
    (x.n.toNat = 16 → exec i s = .next (State.retry ((s.appendEvent g.ctx
      (eventEntry 0x85 0 0 0 (callArg s gang slot 0 ((lanesOf sp.lanes).headD 0)))).terminate g.ctx)))) ∧
  (∀ (s : State) (id : Nat) (g : Gang), s.gang? id = some g →
    (g.run = .running → g.pairStopped = false →
      exec (.preemption { gang := id }) s = .next (s.modGang id (fun g => { g with run := .preempting })).retry) ∧
    (∀ t, g.run = .preempting → s.acknowledged g = true → s.fenceGang g.id = some t →
      exec (.preemptionComplete { gang := id }) s = .next ((t.withdrawAll g).modGang g.id (fun g => { g with run := .preempted })).retry) ∧
    (∀ t, g.pair = none → s.exitGang id = some t → exec (.gangExit { gang := id }) s = .next (State.retry
      (if (t.gang? id).isNone = true then t.retryHolding (s.part.dieOf g.core) else t))) ∧
    exec (.gangKill { gang := id }) s = .next (s.killGang id).retry) ∧
  (∀ (s t : State) (g : Gang), s.gangs = [g] → g.run = .preempted → g.pairStopped = false → s.saveGang g = some t →
    exec (.contextSwitch { ctx := g.ctx }) s = .next t.retry) ∧
  (∀ (s : State) (ctx : Nat), let running := s.gangs.filter (fun g => g.ctx == ctx && !g.pairStopped && decide (g.run = .running))
    running ≠ [] → (∀ g, g ∈ s.gangs → g.ctx = ctx → g.run ≠ .preempted) →
    exec (.contextSwitch { ctx := ctx }) s = .next (State.retry
      (running.foldl (fun (s : State) g => s.modGang g.id (fun g => { g with run := .preempting })) s))) ∧
  (∀ (s : State) (ctx : Nat), let stopped := s.gangs.filter (fun g => g.ctx == ctx && decide (g.run = .preempted))
    let saved := s.gangs.filter (fun g => g.ctx == ctx && decide (g.run = .saved))
    (stopped ≠ [] ∨ saved ≠ []) → exec (.contextRestore { ctx := ctx }) s = .next (State.retry
      (saved.foldl (fun (s : State) g => (s.restoreGang g).getD s)
        (stopped.foldl (fun (s : State) g => s.resume g.id) s))))

/-! ## Events of errors, chips and links (17 R312-R319, R326, R327) -/

/-- 00 R2, 17 R312, R316, R318, R319, R326, R327: an uncorrectable error has the outcome of its structure, one record and one count; a correctable one is
counted, and recorded where it is hard; a core that does not exist has none; the oldest entry of a partition's replay queue writes what it holds, and a
flip is outvoted; an injection that has counted down strikes, or nothing where its target has gone; a chip that is lost leaves its lines LOST and the lines
of its collective commands poisoned; a link's eighth failure destroys its half-line. -/
def Obligations.ErrorEvents : Prop :=
  (∀ (s : State) (e : EvError) (r : Struck), s.strike e false = some r → exec (.uncorrectableError e) s = .next (State.retry
    ((r.s.logError e.struct.val (1 + 2 * bit e.hard) r.owner r.die r.core e.loc r.outcome).countError r.die e.struct.val 2))) ∧
  (∀ (s : State) (e : EvError), e.struct.val ∈ [0, 1, 13] → s.part.coreCount ≤ e.core →
    exec (.uncorrectableError e) s = .next s ∧ exec (.correctableError e) s = .next s) ∧
  (∀ (s : State) (e : EvError), (e.struct.val ∈ [0, 1, 13] → e.core < s.part.coreCount) →
    let p := s.errorPlace e
    (e.hard = false → exec (.correctableError e) s = .next (s.countError p.2.1 e.struct.val 0).retry) ∧
    (e.hard = true → exec (.correctableError e) s = .next (State.retry
      ((s.countError p.2.1 e.struct.val 1).logError e.struct.val 2 p.1 p.2.1 p.2.2 e.loc 0)))) ∧
  (∀ (s : State) (core i : Nat) (r : ReplayEntry), (s.core? core).replay[i]? = some r →
    (∀ x, x ∈ (s.core? core).replay.take i → x.partition ≠ r.partition) →
    let s1 := s.modCore core (fun c => { c with replay := c.replay.eraseIdx i })
    (∀ t, s1.writeReplayed r = some t → exec (.replayQueueExecution { core := core, idx := i }) s = .next (countResolved t core r.wrong).retry) ∧
    (r.port = none → r.load.carry = none →
      s1.writeReplayed r = some (r.load.vals.foldl (fun (s : State) v => s.setLane r.gang r.group v.1 v.2.1 v.2.2) s1)) ∧
    (∀ k place, r.port = none → r.load.carry = some (k, place) →
      s1.writeReplayed r = some (fillCarry s1 r.gang r.group (Fin.ofNat 8 k) place (r.load.vals.map (fun v => (v.2.1, v.2.2)))))) ∧
  (∀ (s : State) (gang i : Nat) (g : Gang) (j : Injection), s.gang? gang = some g → g.injections[i]? = some j → j.live = true → j.remaining = 0 →
    let s1 := s.modGang gang (fun g => { g with injections := g.injections.eraseIdx i })
    (∀ x, j.kind = 1 → s1.injectionError g j = some x → exec (.injectionFire { gang := gang, idx := i }) s = .next (s1.correctable x 4).retry) ∧
    (∀ x t, 2 ≤ j.kind → s1.injectionError g j = some x → s1.targetThere x = true → s1.uncorrectable x 4 = some t →
      exec (.injectionFire { gang := gang, idx := i }) s = .next t.retry) ∧
    (2 ≤ j.kind → (s1.injectionError g j = none ∨ ∃ x, s1.injectionError g j = some x ∧ s1.targetThere x = false) →
      exec (.injectionFire { gang := gang, idx := i }) s = .next s1.retry)) ∧
  (∀ (s : State) (chip : Nat) (lost : List Nat), chip ∉ s.part.lostPeers → (∃ p, p ∈ s.part.peers ∧ p.1 = chip) →
    (∀ x y, x ∈ s.seals → y ∈ s.collGroups → y.id = x.wait.group → chip ∉ y.chips) →
    let concerned := fun (k : CmdKind) => match k with
      | .coll g => s.collGroups.any (fun (y : CollGroup) => y.id == g && y.chips.contains chip)
      | _ => false
    exec (.peerChipLoss { chip := chip, lost := lost }) s = .next (State.retry ((lost.filter (fun l => decide (l < 2 ^ 41))).foldl State.loseLine
      { s with
        part := { s.part with lostPeers := chip :: s.part.lostPeers }
        commands := s.commands.map (fun (c : Command) =>
          if concerned c.kind = true then { c with lines := c.lines.map (fun (l : CmdLine) => { l with bad := true }) } else c) }))) ∧
  (∀ (s : State) (half : Nat),
    let die := dieOfLine (64 * half)
    let x := s.strikeHalves (64 * half) die [half]
    exec (.halufRetransmit { failed := false, half := half }) s = .next (State.retry
      ((s.logError 9 1 (s.ownerOf (64 * half)) die noCore (64 * half) 1).countError die 9 2)) ∧
    exec (.halufRetransmit { failed := true, half := half }) s = .next (State.retry
      ((x.s.logError 9 1 x.owner x.die noCore (64 * half) x.outcome).countError x.die 9 2)) ∧
    (s.tableOwner (64 * half) = none → s.ownerOf (64 * half) ≠ 0xFFF → x.s = s.poisonOwned half ∧ x.outcome = 6))

/-! ## Events of pairs and seals (17 R322-R325; 18 R334, R336, R339) -/

/-- 17 R322-R324, 18 R334, R336, R339: the oldest signatures of an issuer that match leave both copies, and release a held effect; signatures that differ stop
the pair, as do traps that differ, and a pair that cannot roll back ends its context; a stopped pair is restored from the lead's recovery point, or starts
again from its record, and ends its context where the point's area is not intact; a seal every member can make puts the image into the slot of the next
generation, any other is refused and counted; a written seal is committed, with the eight copies of its record. -/
def Obligations.PairAndSealEvents : Prop :=
  (∀ (s : State) (id : Nat) (o : PairOf) (m : Nat × (W32 × Bool) × (W32 × Bool)), s.pairOf id = some o → o.p.state ≠ .rollback →
    o.p.state ≠ .terminated → (meetings o.p.sigs o.q.sigs).find? (fun m => decide (m.2.1 = m.2.2)) = some m →
    let release := fun (p : Pair) =>
      { p with sigs := dropKey m.1 p.sigs, granted := if m.2.1.2 = true then p.granted ++ [(m.1, m.2.1.1)] else p.granted }
    exec (.signatureMatch { gang := id }) s = .next (State.retry ((s.modPair o.lead.id release).modPair o.trail.id release))) ∧
  (∀ (s : State) (id : Nat) (o : PairOf), s.pairOf id = some o →
    (o.p.state = .run ∨ o.p.state = .replay →
      ((∃ m, m ∈ meetings o.p.sigs o.q.sigs ∧ m.2.1 ≠ m.2.2) ∨ trapMismatch o.lead o.trail o.q = true) →
      exec (.pairRollback { gang := id }) s = .next (s.rollback o.lead.id o.trail.id).retry) ∧
    (o.p.state = .terminated ∨ (o.p.state = .rollback ∧ o.p.plog = true) →
      exec (.pairRollback { gang := id }) s = .next (s.terminate o.lead.ctx).retry)) ∧
  (∀ (s : State) (id : Nat) (o : PairOf) (s1 : State), s.pairOf id = some o → o.p.state = .rollback → o.p.plog = false →
    (∀ c, c ∈ s.commands → c.gang ≠ o.lead.id ∧ c.gang ≠ o.trail.id) → o.lead.run ≠ .saved → o.trail.run ≠ .saved →
    s.fenceAll [o.lead.id, o.trail.id] = some s1 →
    (∀ t, o.lead.rpt.gen = 0 → s1.restartPair o.lead o.trail = some t → exec (.pairRestore { gang := id }) s = .next t.retry) ∧
    (o.lead.rpt.gen ≠ 0 → s1.readArea o.lead.ctx o.lead.rpt.state = none →
      exec (.pairRestore { gang := id }) s = .next (s1.terminate o.lead.ctx).retry) ∧
    (∀ a s2 s3, o.lead.rpt.gen ≠ 0 → s1.readArea o.lead.ctx o.lead.rpt.state = some a →
      s1.restoreCopy o.lead.id o.p.damaged a o.lead.rpt.base = some s2 → s2.restoreCopy o.trail.id o.q.damaged a o.lead.rpt.base = some s3 →
      exec (.pairRestore { gang := id }) s = .next (State.retry ((s3.modPair o.lead.id Pair.replaying).modPair o.trail.id Pair.replaying)))) ∧
  (∀ (s : State) (id : Nat) (ps : List PeerSeal) (w : CollWait) (g : Gang) (cg : CollGroup) (c : Context) (up : UPReg),
    s.collWaits.find? (fun w => w.group == id) = some w → w.isSeal = some up → s.gang? w.gang = some g → g.pair = none →
    s.collGroups.find? (fun g => g.id == id) = some cg → s.ctx? g.ctx = some c → ps.length = 7 → (∀ x, x ∈ s.seals → x.wait.group ≠ id) →
    let s2 := (State.leaveColl { s with collWaits := s.collWaits.erase w } w []).modGroup w.gang w.slot (fun y =>
      { y with predWait := y.predWait ++ [(up.val, w.lanes)] })
    let x : Seal := { ctx := c.tag, wait := w, record := s.sealRecord c cg ps }
    let all := s.sealOk c = true ∧ ∀ p, p ∈ ps → p.ok = true ∧ p.quota = c.quota
    (all → exec (.checkpointSeal { group := id, peers := ps }) s = .next (State.retry
      { s2.modCtx c.tag (fun k => { k with slots := k.slots.set k.nextSlot.val (some (s.newSlot c cg ps)) k.nextSlot.isLt }) with
        seals := s2.seals ++ [x] })) ∧
    (¬ all → exec (.checkpointSeal { group := id, peers := ps }) s = .next (State.retry
      ((State.endSeal { s2 with seals := s2.seals ++ [x] } x false).modCtx c.tag (fun c => { c with sealRefusals := c.sealRefusals + 1 }))))) ∧
  (∀ (s : State) (id : Nat) (x : Seal) (c : Context) (k : CkptSlot), s.seals.find? (fun x => x.wait.group == id) = some x → s.ctx? x.ctx = some c →
    c.slots[c.nextSlot.val] = some k →
    exec (.sealCommit { group := id }) s = .next (State.retry ((s.modCtx c.tag (fun y =>
      { y with committed := k.gen, slots := y.slots.set y.nextSlot.val (some { k with records := List.replicate 8 x.record }) y.nextSlot.isLt })).endSeal x true)))

/-! ## Resets, the boot and the host (01 R9, 06 R136, 19 R345, R346, R348, R350, R352) -/

/-- 01 R9, R17, 03 R63, 06 R136, 11 R212, 19 R345, R346, R348, R350, R352, R354: after a die's reset nothing waits for durability and its cores are as
after reset; after a cache base die's, what waits on its stack; after the I/O die's and after a chip's the boot begins anew and every function is as after
reset; the boot goes from 0 to 1 to 2 to 3, or fails; a booted chip has its table of the shared domain, presses out of SHARED mode, a power cap of 2,400 W
and no peer of its own number; a function's reset ends its negotiation; the window reads and writes what it shows, and a failed access is an event entry
of its context; a read completes with its bytes, marked where one is poisoned, and a failed one with Completer Abort; other writes to BAR0 change nothing,
and its first word reads as the state of the boot; an invalid record completes with status 1. -/
def Obligations.ResetAndHostEvents : Prop :=
  (∀ (s : State) (die : Fin 4), exec (.dieReset { die := .compute die }) s = .next (s.resetDie die.val).retry ∧ (s.resetDie die.val).undurable = [] ∧
    ∀ core, core ∈ s.part.coresOf die.val → (s.resetDie die.val).core? core = CoreRec.reset) ∧
  (∀ (s : State) (j : Fin 8), exec (.dieReset { die := .base j }) s = .next (s.resetBase j.val).retry ∧
    ∀ c, c ∈ (s.resetBase j.val).undurable → c.1 / 2 ^ 36 ≠ j.val) ∧
  (∀ (s : State), exec (.dieReset { die := .io }) s = .next s.resetIo.retry ∧ s.resetIo.boot.state = 0 ∧ s.resetIo.fns = List.replicate 17 Fn.reset ∧
    s.resetIo.collWaits = []) ∧
  (∀ (s : State), exec .chipReset s = .next s.resetChip.retry ∧ s.resetChip.boot.state = 0 ∧ s.resetChip.fns = List.replicate 17 Fn.reset ∧
    s.resetChip.undurable = []) ∧
  (∀ (s : State) (chip : Fin 512) (b : Bool),
    (s.boot.state = 0 → exec (.perstDeassert { chipid := chip, patched := b }) s = .next (State.retry
      { s with boot := { state := 1, patched := false, failure := 0 }, part := { s.part with chip := chip.val }, monotonic := 0 })) ∧
    (s.boot.state = 1 → exec (.perstDeassert { chipid := chip, patched := b }) s =
      .next (State.retry { s with boot := { s.boot with state := 2, patched := b } }))) ∧
  (∀ (s : State), s.boot.state = 2 → ∃ t, exec .bootReady s = .next t ∧ t.boot = { s.boot with state := 3 } ∧ (t.ctx? 0xFFF).isSome = true ∧
    t.powerCap = 2400 ∧ (∀ p, p ∈ t.presses → p.shared = false) ∧ ∀ x, x ∈ t.part.peers ↔ x ∈ s.part.peers ∧ x.1 ≠ s.part.chip) ∧
  (∀ (s : State) (code : Byte), (s.boot.state = 1 ∨ s.boot.state = 2) → exec (.bootTimeout { code := code }) s =
    .next (State.retry { s with boot := { s.boot with state := 15, failure := code } })) ∧
  (∀ (s : State) (fn : Nat), exec (.functionLevelReset { fn := fn }) s =
    .next (s.modFn fn (fun f => { f with negotiated := false, featacc := 0, hadContext := false })).retry) ∧
  (∀ (s : State) (fn ofs n : Nat), ofs + n ≤ 2 ^ 36 →
    let answer := fun (s : State) (data : List Byte) (aborted poisoned : Bool) =>
      ({ s with completion := some { fn := fn, data := data, aborted := aborted, poisoned := poisoned } } : State)
    ((s.fn? fn).window = none → exec (.hostBar2Read { fn := fn, offset := ofs, length := n }) s = .next (answer s [] true false).retry) ∧
    (∀ ctx va err, s.windowRange fn ofs n .read = some (ctx, va, .error err) → exec (.hostBar2Read { fn := fn, offset := ofs, length := n }) s =
      .next (answer (s.appendEvent ctx (eventEntry 0x80 err.2 1 va (BitVec.ofNat 64 err.1))) [] true false).retry) ∧
    (∀ ctx va bs, s.windowRange fn ofs n .read = some (ctx, va, .ok bs) → (∀ l, l ∈ linesOf (bs.map (fun b => b.1)) → s.physBusy l false = false) →
      let t := s.reachAll (linesOf (bs.map (fun b => b.1))) false
      exec (.hostBar2Read { fn := fn, offset := ofs, length := n }) s =
        .next (answer t (bs.map (fun b => t.mem.read b.1)) false (bs.any (fun b => t.tainted b.1 1))).retry)) ∧
  (∀ (s : State) (fn : Nat), leNat ((List.range 8).map (s.bar0Read fn)) =
    s.boot.state.toNat + 2 ^ 4 * bit s.boot.patched + 2 ^ 8 * s.boot.failure.toNat) ∧
  (∀ (s : State) (fn ofs ctx : Nat) (data : List Byte) (va : Word) (err : Nat × Nat), s.windowRange fn ofs data.length .write = some (ctx, va, .error err) →
    exec (.hostBar2Write { fn := fn, offset := ofs, data := data }) s =
      .next (s.appendEvent ctx (eventEntry 0x80 err.2 2 va (BitVec.ofNat 64 err.1))).retry) ∧
  (∀ (s : State) (fn ofs ctx : Nat) (data : List Byte) (va : Word) (bs : List (Nat × Bool)),
    s.windowRange fn ofs data.length .write = some (ctx, va, .ok bs) → (∀ l, l ∈ linesOf (bs.map (fun b => b.1)) → s.physBusy l true = false) →
    exec (.hostBar2Write { fn := fn, offset := ofs, data := data }) s = .next (State.retry
      (s.writePhys 0 ((bs.zip data).map (fun x => ({ addr := x.1.1, val := x.2, dur := x.1.2 } : ByteWrite)))))) ∧
  (∀ (s : State) (e : EvWrite), exec (.bar0OtherWrite e) s = .next s.retry) ∧
  (∀ (s : State) (fn i : Nat) (r : CmdRec), s.boot.state = 3 → s.nextCommand fn = some (i, r) → r.ok = false →
    s.hostBusy (r.cpl / 16 * 16) 16 true = false →
    exec (.invalidCommandRecord { fn := fn }) s = .next (State.retry
      ((s.modFn fn (fun f => { f with commands := f.commands.drop 1 })).complete fn r 1 0)))

/-! ## Ezden's commands (19 R348-R351, R353, R383, R384; 18 R340) -/

namespace Sys2Proof.Claims

/-- The next record of the function is one of the command, and is to be performed; `s1` is the state without it. -/
structure Commanded (s : State) (fn opc : Nat) (r : CmdRec) (s1 : State) : Prop where
  next : ∃ i, s.nextCommand fn = some (i, r) ∧ s1 = s.modFn fn (fun f => { f with commands := f.commands.eraseIdx i })
  code : r.opc = opc
  ok : r.ok = true
  free : s.hostBusy r.cpl 16 true = false
  gate : s.cmdGate fn opc = 0

/-- The context that the record names belongs to the function. -/
def names (s : State) (fn tag : Nat) (c : Context) : Prop := tag < 2 ^ 12 ∧ s.ctx? tag = some c ∧ c.fn = fn

/-- A command completes with status 0: the completion is written and the vector sent. -/
def succeeds (s : State) (i : Instr) (fn : Nat) (r : CmdRec) (t : State) (result : Nat) : Prop :=
  exec i s = .next (t.complete fn r 0 result).retry

end Sys2Proof.Claims

/-- 19 R348-R351, R353, R383, R384, 18 R340: each of Ezden's commands, with arguments that pass, has its effect, its completion carries STATUS 0 and its
result, and its vector is sent; a page of a COH frame that is not mapped yet is cleared (DESIGN CHOICE, log 93); a group that another member defines
otherwise is refused with status 1. A record that comes before its function's negotiation completes with status 6, a command of the physical function that
a virtual one issues with status 3; neither has any other effect. -/
def Obligations.HostCommands : Prop :=
  (∀ (s : State) (fn : Nat) (r : CmdRec) (s1 : State),
     (Commanded s fn 0x01 r s1 → (s1.fn? fn).hadContext = false → BitVec.ofNat 128 (r.arg 16 16) &&& ~~~ featAdv = 0 →
       succeeds s (.negotiateFeatures { fn := fn }) fn r
         (s1.modFn fn (fun f => { f with negotiated := true, featacc := BitVec.ofNat 128 (r.arg 16 16) })) 0) ∧
     (Commanded s fn 0x02 r s1 → r.arg 16 4 < 2 ^ 20 → (r.arg 24 2 = 0 ∨ (16 ≤ r.arg 24 2 ∧ r.arg 24 2 ≤ 4096)) → r.arg 26 1 ≤ 2 → r.arg 27 1 ≤ 3 →
       (r.arg 20 4 = 0 ∨ s1.accepted fn 3 = true) → ((r.arg 27 1).testBit 1 = false ∨ s1.accepted fn 6 = true) → s1.slotsFit (r.arg 20 4) = true →
       s1.ctx? s1.freeTag = none →
       ∃ mk : Nat → Context, (∀ a, (mk a).tag = s1.freeTag ∧ (mk a).fn = fn ∧ (mk a).pasid = r.arg 16 4 ∧ (mk a).quota = r.arg 20 4 ∧
           (mk a).slack = (if r.arg 24 2 = 0 then 256 else r.arg 24 2) ∧ (mk a).chkmin.val = r.arg 26 1 ∧ (mk a).eager = (r.arg 27 1).testBit 0 ∧
           (mk a).finj = (r.arg 27 1).testBit 1 ∧ (mk a).pool = r.arg 28 4 ∧ (mk a).portLo = r.arg 40 2 ∧ (mk a).portHi = r.arg 42 2 ∧
           (mk a).root = a ∧ (mk a).terminated = false) ∧
         succeeds s (.createContext { fn := fn }) fn r ((s1.addContext mk).modFn fn (fun f => { f with hadContext := true })) s1.freeTag) ∧
     (∀ c t, Commanded s fn 0x03 r s1 → names s1 fn (r.arg 16 2) c →
       (∀ q, q ∈ s1.queues → q.ctx = c.tag → s1.physBusy (q.hdr / 128) true = false) →
       let u := (s1.queues.filter (fun q => q.ctx == c.tag)).foldl State.destroyQueue (s1.terminate c.tag)
       u.unmapRun c.tag c.root ((u.leaves c.root).map (fun l => (l.1, frameOf l.2.1 l.2.2, 2 ^ levelShift l.2.1))) = some t →
       succeeds s (.destroyContext { fn := fn }) fn r
         { t with
           contexts := t.contexts.filter (fun x => x.tag ≠ c.tag), succs := t.succs.filter (fun p => p.ctx ≠ c.tag)
           fns := t.fns.map (fun f => if (f.window.map (fun w => w.1)) = some c.tag then { f with window := none } else f) } 0) ∧
     (∀ c, Commanded s fn 0x04 r s1 → names s1 fn (r.arg 16 2) c →
       let size := pageBytes (r.arg 44 1)
       let bits := r.arg 45 2
       let pages := (List.range (r.arg 40 4)).map (fun i => (r.arg 24 8 + i * size, r.arg 32 8 + i * size))
       r.arg 44 1 ≤ 2 → bits < 2 ^ 8 → 0 < r.arg 40 4 → r.arg 24 8 % size = 0 → r.arg 32 8 % size = 0 →
       r.arg 24 8 + r.arg 40 4 * size ≤ 2 ^ 52 → r.arg 32 8 + r.arg 40 4 * size ≤ 2 ^ 50 →
       (∀ p, p ∈ pages → s1.leafBad bits p.2 size = false ∧ s1.covered c.root p.1 (r.arg 44 1) = false ∧
         (p.2 / 2 ^ 48 = 2 → s1.accepted fn 4 = true) ∧ ∀ q, q ∈ s1.poolRanges → ¬(p.2 < q.1 + q.2 ∧ q.1 < p.2 + size)) →
       (bits.testBit 2 = true → s1.accepted fn 3 = true) →
       succeeds s (.map { fn := fn }) fn r (pages.foldl (fun (s : State) p => s.mapOne c (r.arg 44 1) bits p) s1) 0) ∧
     (∀ c ls t, Commanded s fn 0x05 r s1 → names s1 fn (r.arg 16 2) c → r.arg 40 4 ≠ 0 →
       s1.leafRun c.root (r.arg 40 4) (r.arg 24 8) = some ls → s1.unmapRun c.tag c.root ls = some t → succeeds s (.unmap { fn := fn }) fn r t 0) ∧
     (∀ c xs, Commanded s fn 0x06 r s1 → names s1 fn (r.arg 16 2) c →
       let va := BitVec.ofNat 64 (r.arg 24 8)
       let n := r.arg 40 4
       let ps := rangePieces va n
       va.toNat + n ≤ 2 ^ 52 → firstXlat s1 (homeWho c.tag) (ps.map (fun v => (v, AccKind.read))) = .ok xs →
       let dst := (List.range n).map (fun i => placeByte (ps.zip xs) (va + BitVec.ofNat 64 i))
       (∀ l, l ∈ linesOf (dst.map (fun p => p.1)) → s1.physBusy l true = false) → s1.hostBusy (r.arg 32 8) n false = false →
       succeeds s (.loadCode { fn := fn }) fn r (s1.writePhys 0 ((dst.zip (s1.hostRead (r.arg 32 8) n)).map (fun x =>
         ({ addr := x.1.1, val := x.2, dur := x.1.2 } : ByteWrite)))) 0) ∧
     (∀ c x i, Commanded s fn 0x07 r s1 → names s1 fn (r.arg 16 2) c →
       let va := BitVec.ofNat 64 (r.arg 24 8)
       let cap := r.arg 32 4
       let kind := r.arg 36 1
       let base := BitVec.ofNat 64 (r.arg 40 8)
       kind ≤ 2 → 0 < cap → cap < 2 ^ 24 → r.arg 37 1 ≤ 7 → (kind = 1 ∨ r.arg 37 1 = 0) → r.arg 38 1 ≤ 3 → va.toNat % 64 = 0 → base.toNat % 64 = 0 →
       s1.ownPages c va 64 = true → s1.ownPages c base (cap * (if kind = 1 then 64 else 8)) = true →
       s1.translate (homeWho c.tag) .atomic va = .ok x → s1.freeAperture fn = some i → s1.queue? x.pa = none →
       s1.dieServes kind (r.arg 38 1) = true → s1.physBusy (x.pa / 128) true = false →
       let h : Hdr := {
         base := base, cap := cap, kind := kind, prio := r.arg 37 1, die := r.arg 38 1, valid := true, owner := c.tag, head := 0, tail := 0
         badrec := 0, dropped := 0 }
       let t := s1.writePhys 0 ((enumFrom 0 h.bytes).map (fun b => ({ addr := x.pa + b.1, val := b.2, dur := x.dur } : ByteWrite)))
       succeeds s (.createQueueObject { fn := fn }) fn r { t with queues := t.queues ++ [{
         hdr := x.pa, va := va, ctx := c.tag, kind := kind, die := r.arg 38 1, fn := fn, aperture := i, prio := r.arg 37 1, el := r.arg 37 1
         timer := 0, waited := 0, holding := false, onchip := [] }] } i) ∧
     (∀ q, Commanded s fn 0x08 r s1 → s1.queues.find? (fun q => q.fn == fn && decide (q.va.toNat = r.arg 24 8)) = some q →
       s1.physBusy (q.hdr / 128) true = false → succeeds s (.destroyQueueObject { fn := fn }) fn r (s1.destroyQueue q) 0) ∧
     (Commanded s fn 0x09 r s1 →
       let out := s1.part.enumTable.take (r.arg 32 4)
       s1.hostBusy (r.arg 24 8) out.length true = false →
       succeeds s (.readEnumerationTable { fn := fn }) fn r (s1.hostWrite (r.arg 24 8) out) out.length) ∧
     (Commanded s fn 0x0A r s1 →
       let deliver := fun (bs : List Byte) => s1.hostBusy (r.arg 24 8) (bs.take (r.arg 32 4)).length true = false →
         succeeds s (.readCounters { fn := fn }) fn r (s1.hostWrite (r.arg 24 8) (bs.take (r.arg 32 4))) (bs.take (r.arg 32 4)).length
       (r.arg 36 1 = 0 → r.arg 16 2 = 0 → deliver s1.counterBytes) ∧ (r.arg 36 1 = 1 → r.arg 16 2 = 0 → deliver (s1.errorLog.flatMap id)) ∧
       (∀ c, r.arg 36 1 = 2 → names s1 fn (r.arg 16 2) c → deliver (leBytes 8 c.eventCount.toNat ++ zeroBytes 56 ++ c.events.flatMap id))) ∧
     (Commanded s fn 0x0B r s1 →
       let w := r.arg 16 2 / 25 * 25
       1000 ≤ w → w ≤ 2400 → succeeds s (.setPowerCap { fn := fn }) fn r { s1 with powerCap := w } w) ∧
     (Commanded s fn 0x0C r s1 → r.arg 16 1 ≤ 3 → (∀ i, i < 8 → r.arg (24 + 2 * i) 2 ≠ 0) →
       succeeds s (.setAgeingBlock { fn := fn }) fn r (s1.modDie (r.arg 16 1) (fun d =>
         { d with newAgeing := some (Vector.ofFn (fun (i : Fin 8) => BitVec.ofNat 16 (r.arg (24 + 2 * i.val) 2))) })) 0) ∧
     (Commanded s fn 0x0D r s1 → s1.accepted fn 4 = true →
       let id := r.arg 16 1
       let p := r.arg 17 2
       let chips := (List.range p).map (fun i => fieldAt (s1.hostRead (r.arg 24 8) (2 * p)) (2 * i) 2)
       2 ≤ p → p ≤ 512 → r.arg 19 2 < 2 ^ 12 → s1.hostBusy (r.arg 24 8) (2 * p) false = false → distinct chips = true → s1.part.chip ∈ chips →
       (∀ k, k ∈ chips → s1.part.reaches k = true) → (∀ w, w ∈ s1.collWaits → w.group ≠ id) → (∀ x, x ∈ s1.seals → x.wait.group ≠ id) →
       succeeds s (.configureParityGroup { fn := fn, clash := false }) fn r { s1 with collGroups := s1.collGroups.filter (fun x => x.id ≠ id) ++ [{
         id := id, chips := chips, me := chips.findIdx (fun k => k == s1.part.chip), tag := r.arg 19 2 }] } 0) ∧
     (Commanded s fn 0x0D r s1 → s1.accepted fn 4 = true → 2 ≤ r.arg 17 2 → r.arg 17 2 ≤ 512 → r.arg 19 2 < 2 ^ 12 →
       s1.hostBusy (r.arg 24 8) (2 * r.arg 17 2) false = false →
       exec (.configureParityGroup { fn := fn, clash := true }) s = .next (s1.complete fn r 1 0).retry) ∧
     (∀ c cg ps tabs h t, Commanded s fn 0x0E r s1 → s1.accepted fn 3 = true → names s1 fn (r.arg 16 2) c →
       s1.collGroups.find? (fun g => g.id == r.arg 18 1) = some cg → cg.chips.length = 8 → cg.tag = c.tag →
       (r.arg 19 1 = 0xFF ∨ (r.arg 19 1 ≤ 7 ∧ cg.chips[r.arg 19 1]? = some (r.arg 20 2))) → peersOk cg ps = true →
       let e : EvRestore := { fn := fn, peers := ps, tables := tabs }
       let replaced := decide (r.arg 19 1 = cg.me)
       (s1.terminate c.tag).newestIntact c cg e replaced = some h → (s1.terminate c.tag).bringBack c h replaced (skippedGen c e h.gen) = some t →
       succeeds s (.restore e) fn r t h.gen) ∧
     (Commanded s fn 0x0F r s1 → s1.hostBusy (r.arg 48 8) 256 true = false →
       succeeds s (.attest { fn := fn }) fn r (s1.hostWrite (r.arg 48 8) (s1.report (sliceBytes r.bytes 16 32))) 0) ∧
     (∀ c, Commanded s fn 0x10 r s1 → names s1 fn (r.arg 16 2) c → r.arg 24 8 % 2 ^ 36 = 0 → r.arg 24 8 < 2 ^ 52 →
       succeeds s (.bindWindow { fn := fn }) fn r
         (s1.modFn fn (fun f => { f with window := some (c.tag, BitVec.ofNat 64 (r.arg 24 8)) })) 0)) ∧
  (∀ (s : State) (fn opc i : Nat) (cmd : Instr) (r : CmdRec),
     ((opc = 0x02 ∧ cmd = .createContext { fn := fn }) ∨ (opc = 0x04 ∧ cmd = .map { fn := fn }) ∨ (opc = 0x05 ∧ cmd = .unmap { fn := fn }) ∨
       (opc = 0x07 ∧ cmd = .createQueueObject { fn := fn }) ∨ (opc = 0x0B ∧ cmd = .setPowerCap { fn := fn }) ∨
       (opc = 0x0C ∧ cmd = .setAgeingBlock { fn := fn }) ∨ (opc = 0x0D ∧ ∃ b, cmd = .configureParityGroup { fn := fn, clash := b })) →
     s.nextCommand fn = some (i, r) → r.opc = opc → r.ok = true → s.hostBusy r.cpl 16 true = false →
     let s1 := s.modFn fn (fun f => { f with commands := f.commands.eraseIdx i })
     ((s.fn? fn).negotiated = false → opc ∉ [0x0B, 0x0C] → exec cmd s = .next (s1.complete fn r 6 0).retry) ∧
     ((s.fn? fn).negotiated = true → fn ≠ 0 → opc ∈ [0x0B, 0x0C, 0x0D] → exec cmd s = .next (s1.complete fn r 3 0).retry)) ∧
  (∀ (s : State) (c : Context) (code bits : Nat) (p : Nat × Nat),
     (bits % 4 = 2 → p.2 < 2 ^ 48 → s.frameMapped p.2 (pageBytes code) = false →
       s.mapOne c code bits p = (s.setPage p.2 (pageBytes code) []).mapPage c.root p.1 p.2 code bits c.tag) ∧
     ((bits % 4 ≠ 2 ∨ 2 ^ 48 ≤ p.2 ∨ s.frameMapped p.2 (pageBytes code) = true) → s.mapOne c code bits p = s.mapPage c.root p.1 p.2 code bits c.tag) ∧
     ∀ i, i < pageBytes code → (s.setPage p.2 (pageBytes code) []).mem.read (p.2 + i) = 0)

/-! ## The checks before an instruction (02 R28, R39-R41, 13 R245, 19 R350) -/

namespace Sys2Proof.Claims

/-- The members that take a guard, with what each needs. -/
def guarded (i : Instr) : Option Need :=
  match i with
  | .vaddc x => some { vs := vuse x.a false :: vsrcUses x.b false ++ [vdest x.d false], ps := x.c :: guardPreds x.g, g := x.g }
  | .vrng x => some { vs := [vuse x.b true, vdest x.d false], ss := [x.a], ps := guardPreds x.g, g := x.g }
  | .ldExt x => some
      { vs := baseUses x.addr x.sp ++ indexUses x.addr ++ [vdest x.d x.ty.is64], ss := addrRegs x.addr, ps := guardPreds x.g, g := x.g }
  | .stExt x => some
      { vs := baseUses x.addr x.sp ++ indexUses x.addr ++ [vuse x.d x.ty.is64], ss := addrRegs x.addr, ps := guardPreds x.g, g := x.g }
  | .atom x => some
      { vs := baseUses x.addr x.sp ++ vsrcUses x.b x.ty.is64 ++ indexUses x.addr ++ [vdest x.d x.ty.is64], ss := addrRegs x.addr
        ps := guardPreds x.g, g := x.g }
  | .red x => some
      { vs := baseUses x.addr x.sp ++ vsrcUses x.b x.ty.is64 ++ indexUses x.addr, ss := addrRegs x.addr, ps := guardPreds x.g, g := x.g }
  | .pref x | .cflush x => some { vs := baseUses x.addr false ++ indexUses x.addr, ss := addrRegs x.addr, ps := guardPreds x.g, g := x.g }
  | i => match vec i, cmp i with
    | some v, _ => some v.need
    | none, some v => some v.need
    | none, none => none

/-- The members that need handler privilege or an accepted feature (02 R39, 19 R350). -/
def special (i : Instr) : Option Need :=
  match i with
  | .eret => some { priv := true }
  | .finj x => some { ss := [x.a, x.b, x.c], priv := true, feature := some 6 }
  | .prune x => some { ss := [x.a, x.b, x.c], ups := [x.d], feature := some 0 }
  | .mldbs x => some { ss := [x.a, x.b, x.c], feature := some 0 }
  | .mmuls x => some { ss := [x.a, x.c], feature := some 0 }
  | .mhdr x => some { ss := [x.d, x.a], feature := some 0 }
  | .chkmode x => if x.mode.val = 0 then none else some { feature := some 2 }
  | .ckseal x => some { ss := [x.a], ups := [x.d], feature := some 3 }
  | .coll x => some { ss := [x.d, x.a, x.b, x.c], feature := some 4 }
  | _ => none

/-- A trap of the whole split at word 0 of its instruction (02 R41, steps 1 and 2). -/
def splitTrap (s : State) (sp : Split) (len cause sub kind : Nat) : Host.Outcome State Fault Refusal :=
  .next (raiseTrap s s.cur len sp.lanes { cause := cause, sub := sub, kind := kind, lanes := sp.lanes, addr := sp.pc, info := 0 })

end Sys2Proof.Claims

/-- 02 R28, R39, R40, R41, 19 R350: a V-class operand names the bound port, the register inside the window, or traps: 0x0F for an unbound port, 0x01 for a
register beyond the window and for a pair that is odd, reaches beyond the window, includes a bound port or is a carry queue. The first that fails, 0x01
before 0x0F, traps every live lane of the split at word 0, whatever the guard; so do, with 0x01, a privileged member outside the handler and a member
of a feature that the context's function has not accepted. -/
def Obligations.IssueChecks : Prop :=
  (∀ (g : Group) (w : Nat) (n : Fin 256) (write : Bool),
    (248 ≤ n.val → g.portBound (n.val - 248) = true → g.checkV w { op := .v n, pair := false, write := write } = 0) ∧
    ((n.val < 248 ∨ g.portBound (n.val - 248) = false) → n.val < w → g.checkV w { op := .v n, pair := false, write := write } = 0) ∧
    (248 ≤ n.val → g.portBound (n.val - 248) = false → w ≤ n.val → g.checkV w { op := .v n, pair := false, write := write } = 0x0F) ∧
    (n.val < 248 → w ≤ n.val → g.checkV w { op := .v n, pair := false, write := write } = 0x01) ∧
    (g.checkV w { op := .v n, pair := true, write := write } =
      if n.val % 2 = 0 ∧ n.val + 1 < w ∧ g.isPort n.val = false ∧ g.isPort (n.val + 1) = false then 0 else 0x01) ∧
    (∀ k : Fin 8, g.checkV w { op := .k k, pair := true, write := write } = 0x01 ∧ g.checkV w { op := .k k, pair := false, write := write } = 0)) ∧
  (∀ (i : Instr) (n : Need) (s : State) (g : Gang) (x : Group) (sp : Split),
    ((∃ v, vec i = some v ∧ n = v.need) ∨ guarded i = some n ∨ special i = some n) → s.canIssue s.cur = true →
    s.gang? s.cur.gang = some g → s.group? s.cur.gang s.cur.group = some x → s.split? s.cur = some sp →
    ((∃ u, u ∈ n.vs ∧ x.checkV g.task.w u = 0x01) → exec i s = splitTrap s sp i.bytes 0x01 0 0) ∧
    ((∃ u, u ∈ n.vs ∧ x.checkV g.task.w u = 0x0F) → (∀ u, u ∈ n.vs → x.checkV g.task.w u ≠ 0x01) → exec i s = splitTrap s sp i.bytes 0x0F 0 0) ∧
    ((∀ u, u ∈ n.vs → x.checkV g.task.w u = 0) →
      ((n.priv = true ∧ s.cur.split ≠ 4) ∨ ∃ b, n.feature = some b ∧ s.feature g.ctx b = false) → exec i s = splitTrap s sp i.bytes 0x01 0 0))

/-- 13 R245, 02 R33, R42: a guarded member whose guard is false in every lane of its split, with checks that pass and no slack that holds the lead (17 R320), is issued and counted and its PC
advances: it changes nothing else of the split, nothing of another gang, no register, predicate, memory, vat, counter or queue. -/
def Obligations.EmptyMask : Prop :=
  ∀ (i : Instr) (n : Need) (s : State) (g : Gang) (x : Group) (sp : Split), guarded i = some n → s.canIssue s.cur = true →
    s.gang? s.cur.gang = some g → s.group? s.cur.gang s.cur.group = some x → s.split? s.cur = some sp →
    checkNeed s s.cur g x n = 0 → s.slackStall g x = false → sp.lanes &&& x.guardMask n.g = 0 →
    ∃ t, exec i s = .next t ∧ t.pcAt s.cur = sp.pc + BitVec.ofNat 64 i.bytes ∧ uniformSame s t s.cur [] [] [] ∧ gangsOnly s t ∧ Kept s t s.cur

/-- 02 R34, R40-R43, 03 R55, 17 R314: where the words at a split's PC cannot be fetched, the split traps with the fetch's cause and subcause and access
kind 4; where they decode to no member, it traps with 0x01, and its next address lies behind as many words as LEN says. All live lanes are marked, the
address is that of word 0. Where only a check of R65 or R80 fails, the checks of the vector operands come first, whatever the guard; behind them the
lanes are those of the guard; with none, the instruction has no effect (DEDUCED, log 24). -/
def Obligations.NotAnInstruction : Prop :=
  ∀ (s : State) (g : Gang) (x : Group) (sp : Split), s.canIssue s.cur = true → s.gang? s.cur.gang = some g →
    s.group? s.cur.gang s.cur.group = some x → s.split? s.cur = some sp → sp.lanes ≠ 0 →
    let w := s.whoOf g s.cur
    (∀ e, s.fetchWord w sp.pc = .error e → exec .notAnInstruction s = splitTrap s sp 0 e.1 e.2 4) ∧
    (∀ e bs, s.fetchWord w sp.pc = .ok bs → s.fetch w sp.pc = .error e →
      exec .notAnInstruction s = splitTrap s sp (4 * wordsOfLen (leNat bs % 4)) e.1 e.2 4) ∧
    (∀ e bs, s.fetch w sp.pc = .ok bs → decode bs = .error e → e ≠ .ownCheck →
      exec .notAnInstruction s = splitTrap s sp bs.length 0x01 0 0 ∧ bs.length = 4 * wordsOfLen (leNat (bs.take 4) % 4)) ∧
    (∀ bs, s.fetch w sp.pc = .ok bs → decode bs = .error .ownCheck →
      let lanes := sp.lanes &&& x.guardMask (guardOf bs)
      let code := match acceptedForm (wordsOfBytes bs) with
        | some i => checkNeed s s.cur g x { vs := ownUses i }
        | none => 0
      (code ≠ 0 → exec .notAnInstruction s = splitTrap s sp bs.length code 0 0) ∧
      (code = 0 → lanes ≠ 0 → exec .notAnInstruction s = .next (raiseTrap s s.cur bs.length lanes
        { cause := 0x01, sub := 0, kind := 0, lanes := lanes, addr := sp.pc, info := 0 })) ∧
      (code = 0 → lanes = 0 → ∃ t, exec .notAnInstruction s = .next t ∧ t.pcAt s.cur = sp.pc + BitVec.ofNat 64 bs.length ∧ gangsOnly s t))

/-! ## The press's checks (11 R213) and the lane masks (10 R206) -/

namespace Sys2Proof.Claims

/-- The collective tile operations with what each needs, and how many moulds and accumulators it reaches. -/
def tileNeed (i : Instr) : Option (Need × Nat × Nat) :=
  match i with
  | .mldb x => some ({ ss := [x.a, x.b] }, x.mould.val + 1, 0)
  | .mmul x => some ({ ss := [x.a] }, x.first.val + (x.nm1.val + 1), x.d.val + 1)
  | .mamov x => some ({ ss := [x.a] }, 0, x.d.val + 1)
  | .mzero x => some ({}, 0, x.d.val + 1)
  | _ => none

/-- A check of a member's own fails: the active lanes trap at word 0. -/
def ownTrap (s : State) (c : Iss) (cause sub : Nat) : Host.Outcome State Fault Refusal :=
  .next (raiseTrap (s.trapCopy c none) c.f c.len c.exec
    { cause := cause, sub := sub, kind := 0, lanes := c.exec, addr := c.sp.pc, info := 0 })

end Sys2Proof.Claims

/-- 11 R213: MLDB, MMUL, MAMOV and MZERO, once the checks of 02 R41 pass, trap with 0x02 in a split that lacks a live lane of its group; else with 0x0C
subcause 1 where the gang has no reservation or a releasing one; else with 0x0C subcause 2 where they name a unit beyond the reserved count. Where the
checks of R41 fail, that trap is raised, whatever the reservation. -/
def Obligations.ReservationChecks : Prop :=
  ∀ (i : Instr) (n : Need) (nm nk : Nat) (s : State), tileNeed i = some (n, nm, nk) →
    (∀ (c : Iss), Issues s n i.bytes c →
      (c.sp.lanes ≠ c.grp.live → exec i s = ownTrap s c 0x02 0) ∧
      (c.sp.lanes = c.grp.live → (c.s.reservation? c.gang = none ∨ ∃ r, c.s.reservation? c.gang = some r ∧ r.releasing = true) →
        exec i s = ownTrap s c 0x0C 1) ∧
      (∀ r, c.sp.lanes = c.grp.live → c.s.reservation? c.gang = some r → r.releasing = false → (r.moulds.length < nm ∨ r.accs.length < nk) →
        exec i s = ownTrap s c 0x0C 2)) ∧
    (∀ (g : Gang) (x : Group) (sp : Split), s.canIssue s.cur = true → s.gang? s.cur.gang = some g → s.group? s.cur.gang s.cur.group = some x →
      s.split? s.cur = some sp → checkNeed s s.cur g x n ≠ 0 → exec i s = splitTrap s sp i.bytes (checkNeed s s.cur g x n) 0 0)

/-- 10 R206: LMASK writes to each active lane the mask of its KIND: bit j is set for the lane itself, the lanes below it, it and those below, those above,
it and those above, the lanes of its tile, or the live lanes of the group. The reserved KIND 7 is no instruction: its words trap with 0x01. -/
def Obligations.LaneMasks : Prop :=
  (∀ (k : LMaskKind) (d : Fin 256) (s : State) (c : Iss) (l : Nat),
    Issues s { vs := [vdest (.v d) false] } 12 c → c.grp.isPort d.val = false → atOnce c → c.dueFlip c.s = none → c.exec.getLsbD l = true →
    s.laneLives c.f d.val l →
    ∃ t, exec (.lmask { kind := k, d := .v d }) s = .next t ∧
      ∀ j, j < 32 → (t.lane c.f.gang c.f.group d.val l).getLsbD j = match k with
        | .eq => decide (j = l)
        | .lt => decide (j < l)
        | .le => decide (j ≤ l)
        | .gt => decide (l < j)
        | .ge => decide (l ≤ j)
        | .tile => decide (l / c.sp.tile * c.sp.tile ≤ j ∧ j < l / c.sp.tile * c.sp.tile + c.sp.tile)
        | .live => c.grp.live.getLsbD j) ∧
  (∀ (d : Fin 256) (s : State) (g : Gang) (x : Group) (sp : Split) (bs : List Byte), s.canIssue s.cur = true → s.gang? s.cur.gang = some g →
    s.group? s.cur.gang s.cur.group = some x → s.split? s.cur = some sp → s.fetch (s.whoOf g s.cur) sp.pc = .ok bs →
    wordsOfBytes bs = [0x62 + 2 ^ 8 * d.val, 6, 7] → exec .notAnInstruction s = splitTrap s sp 12 0x01 0 0)

/-! ## Translation (03 R50-R55) -/

/-- 03 R51-R55: an access that translates lies below 2^52, in a context that exists, behind a walk of well-formed entries that ends in a leaf whose owner is
the context or the shared domain it is mapped into, and whose H, region and W or X admit it; the frame exists; the physical address is the leaf's frame
and the address's low bits. An address of 2^52 or more has subcause 1 of 0x05, one without a walk subcause 2, one with an ill-formed entry
subcause 3. -/
def Obligations.Translation : Prop :=
  ∀ (s : State) (w : Who) (k : AccKind) (va : Word),
    (2 ^ 52 ≤ va.toNat → s.translate w k va = .error (0x05, 1)) ∧
    (∀ c, va.toNat < 2 ^ 52 → s.ctx? w.ctx = some c → s.walkCtx c va.toNat = none → s.translate w k va = .error (0x05, 2)) ∧
    (∀ c es, va.toNat < 2 ^ 52 → s.ctx? w.ctx = some c → s.walkCtx c va.toNat = some es → walkOk es = false →
      s.translate w k va = .error (0x05, 3)) ∧
    (∀ x, s.translate w k va = .ok x → ∃ c es level e, va.toNat < 2 ^ 52 ∧ s.ctx? w.ctx = some c ∧ s.walkCtx c va.toNat = some es ∧
      walkOk es = true ∧ es.getLast? = some (level, e) ∧ e.testBit 0 = true ∧ e.testBit 1 = true ∧ 1 ≤ level ∧ level ≤ 3 ∧
      x.pa = frameOf level e + va.toNat % 2 ^ levelShift level ∧ s.part.frameOk (frameOf level e) (2 ^ levelShift level) = true ∧
      x.shift = levelShift level ∧ x.region = bitsOf e 3 2 ∧ x.dur = e.testBit 4 ∧
      (e / 2 ^ 52 = w.ctx ∨ (e / 2 ^ 52 = 0xFFF ∧ c.inShared = true)) ∧
      (e.testBit 7 = true → w.hp = true ∨ w.ezden = true) ∧
      (x.region = 0 → w.ezden = true ∨ w.die = some (bitsOf e 9 8)) ∧
      (k.writes = true → e.testBit 5 = true ∧ x.region ≠ 1) ∧ (k = .fetch → e.testBit 6 = true))

/-! ## Encodings (02 R20-R27, R34-R38) -/

/-- 02, worked encodings, and those of 04, 05, 07, 09-14 and 16-18: words written out bit by bit from the encoding tables decode to the instruction they
stand for; an all-zero word, NOP with a literal and an extended NOP with a field set decode to none. -/
def Obligations.DecodesWords : Prop :=
  decodeTableWord 32 0x00000078 = some .nopBase ∧
  decodeTableWord 96 0x000000000000000000000075 = some (.becomeExt { carry := 0, b := .short 0 }) ∧
  decodeTableWord 96 0x00000000000003E800030705 = some (.uaddExt { ty := .i64, sat := false, d := 7, a := 3, b := .short 1000 }) ∧
  decodeTableWord 96 0x000000000800000101022C06 = some (.usub { ty := .i64, sat := false, d := 300, a := 2, b := .reg 1 }) ∧
  decodeTableWord 96 0x0000000002B06A0005040A46 =
    some (.ffma { g := .neg 1, ty := .f32, rm := .rtz, d := .v 10, a := .v 4, b := .reg (.v 5), c := .v 6 }) ∧
  decodeTableWord 96 0xFFFFFFF00000000100030072 = some (.brc { neg := false, p := 3, ofs := 0xFFFFFFF0 }) ∧
  decodeTableWord 96 0x009000000010700000060986 =
    some (.stExt { g := .none, ty := .i8, ord := .plain, scope := .dflt, d := .v 9, addr := .indexed 6 (.v 7) 0 0, sp := true, nt := false }) ∧
  decodeTableWord 160 0x000000000000001000000028000010C100050563 =
    some (.shfl { kind := .xor, ty := .i32, d := .v 5, a := .v 5, b := .long 16, c := 1, mask := .reg 40 }) ∧
  decodeTableWord 96 0x00001F0003D00001001800D6 = some (.mmul { d := 0, first := 0, nm1 := 0, nr1 := 31, w := .bfp 2, a := 24 }) ∧
  decodeTableWord 96 0x0000000100000001060000FA = some (.csrw { csr := 1, b := 6 }) ∧
  decodeTableWord 32 0x00000000 = none ∧
  decodeTableWord 96 0x000000000000000000000079 = none ∧
  decodeTableWord 96 0x00000000000000010000007A = none ∧
  decodeTableWord 96 0x00000000000000000000007A = some .nopExt

/-- 02 R20-R33: the words of a well-formed instruction of a program are its LEN's number of bytes, and decoding them, whatever follows, gives it
back with every operand; and what decodes is well formed and has words. -/
def Obligations.RoundTrip : Prop :=
  (∀ (i : Instr) (f : Fields), i.wellFormed = true → i.fields = some f → ∃ bs, encode i = some bs ∧ bs.length = i.bytes ∧
    ∀ rest, decode (bs ++ rest) = .ok i) ∧
  ∀ (bs : List Byte) (i : Instr), decode bs = .ok i → i.wellFormed = true ∧ ∃ ws, encode i = some ws ∧ ws.length = i.bytes ∧ ws.length ≤ bs.length

/-! ## Reset, the start of a gang, and one step -/

/-- 01 R9, 13 R260, 15 R280, 19 R345, R350: right after reset the boot state is 0, no byte of memory or the vat is listed, nothing is poisoned, lost or
not yet durable, every die's clock is 0 and its ageing block as R280 gives it, no function has negotiated or a command, and no context, gang, queue,
engine command or seal exists. Memory and the vat are in canonical form. -/
def Obligations.ResetState : Prop :=
  State.reset.boot.state = 0 ∧ State.reset.boot.failure = 0 ∧ State.reset.mem.cells = [] ∧ State.reset.vat.cells = [] ∧ State.reset.memWf ∧
  State.reset.poison = [] ∧ State.reset.lost = [] ∧ State.reset.undurable = [] ∧
  (∀ die, die < 4 → (State.reset.die? die).clock = 0 ∧
    (State.reset.die? die).ageing.toList = [10000, 5000, 2000, 1000, 500, 200, 100, 50] ∧ (State.reset.die? die).walks = []) ∧
  (∀ fn, (State.reset.fn? fn).negotiated = false ∧ (State.reset.fn? fn).featacc = 0 ∧ (State.reset.fn? fn).commands = [] ∧
    (State.reset.fn? fn).window = none) ∧
  (∀ core, (State.reset.core? core).stash = [] ∧ (State.reset.core? core).deckle = [] ∧ (State.reset.core? core).replay = []) ∧
  State.reset.contexts = [] ∧ State.reset.gangs = [] ∧ State.reset.queues = [] ∧ State.reset.commands = [] ∧ State.reset.seals = []

/-- 07 R142, 13 R237, R248, R261, 14 R263, 16 R301, 17 R318: a gang that starts has its record's groups, each with one split at ENTRY in slot 0 that holds every lane,
FMT 0x003F and tiles of 32; s0 holds ARG, s1 to s3 the TC words, s4 SUCC, s254 the record of its stash and program part, s255 its window base, every other
uniform register 0; predicates are false but p0; the counters are 0; the priority is PRIO div 2; the sequence is the lanes in group order; the trap
registers are 0 but HFRAME; every byte of its allocation is 0. -/
def Obligations.GangStart : Prop :=
  ∀ (s : State) (core base : Nat) (t : TaskRec) (pair : Option Pair), s.memWf → (∀ g, g ∈ s.gangs → g.id < s.nextGang) →
    let u := s.startGang core base t pair
    ∃ g, u.gang? s.nextGang = some g ∧ g.core = core ∧ g.base = base ∧ g.task = t ∧ g.size = t.allocSize ∧ g.pair = pair ∧ g.halt = none ∧
      g.run = .running ∧ g.pend = [] ∧ g.effects = [] ∧ g.seq = launchSeq t.groups ∧ g.csr.hvec = 0 ∧ g.csr.hdeleg = 0 ∧ g.csr.hscratch = 0 ∧
      g.csr.trapcnt = 0 ∧ g.csr.hframe = BitVec.ofNat 64 g.frameVa ∧
      (∀ id, id ≠ s.nextGang → u.gang? id = s.gang? id) ∧
      (∀ b, b < t.allocSize → u.vat.read (vatKey core base + b) = 0) ∧
      (∀ k, (k < vatKey core base ∨ vatKey core base + t.allocSize ≤ k) → u.vat.read k = s.vat.read k) ∧
      (∀ slot, t.groups ≤ slot → u.group? s.nextGang slot = none) ∧
      ∀ slot, slot < t.groups → ∃ x sp, u.group? s.nextGang slot = some x ∧ x.gid = BitVec.ofNat 16 slot ∧ x.splits.toList = [some sp, none, none, none] ∧
        x.parked = [] ∧ sp.pc = t.entry ∧ sp.lanes = 0xFFFFFFFF#32 ∧ sp.fmt = 0x003F ∧ sp.tile = 32 ∧ sp.stack = [] ∧ x.ldc = 0 ∧ x.stc = 0 ∧ x.cpc = 0 ∧
        x.tlc = 0 ∧ x.nextb = 0 ∧ x.dead = 0 ∧ x.ucflag = false ∧ x.prio = Fin.ofNat 4 (t.prio / 2) ∧
        (∀ p : PReg, x.pred p = if p = 0 then 0xFFFFFFFF#32 else 0) ∧ (∀ q : Fin 8, x.carry[q.val] = none ∧ x.ports[q.val] = none) ∧
        ∀ r : SReg, x.readS sp r =
          if r = 0 then t.arg else if r = 1 then t.tc0.zeroExtend 64 else if r = 2 then t.tc1.zeroExtend 64
          else if r = 3 then t.tc2.zeroExtend 64 else if r = 4 then t.succ else if r = 254 then g.partsRecord
          else if r = 255 then BitVec.ofNat 64 (g.window slot) else 0

/-- 02 R42, R43 and 95: a step is one instruction of one split or one event, whole. The turn of a split that can issue, with nothing due
before it, runs the instruction that the words at its PC decode to, or the trap of words that are none; else the injection, reconvergence or merge that
is due. The turn of an event runs it; the turn of a clock lets it pass. Before it issues, the step only takes the turn, names the split in focus
and counts the clock that the other ready splits of its partition wait. Whose turn it is is the model's choice (DESIGN CHOICE, log 1). -/
def Obligations.StepRuns : Prop :=
  ∀ (s : State) (rest : List Turn),
    let s0 : State := { s with agenda := rest, order := s.order + 1 }
    (∀ f, s.nextTurn = (.issue f, rest) → s0.canIssue f = true →
      (∃ gs, s0.pick f = { s0 with cur := f, gangs := gs }) ∧
      (∀ e, s0.mergeDue f = some e → step s = exec e s0) ∧
      (∀ g sp bs i, s0.mergeDue f = none → s0.gang? f.gang = some g → s0.split? f = some sp → s0.fetch (s0.whoOf g f) sp.pc = .ok bs →
        decode bs = .ok i → step s = exec i (s0.pick f)) ∧
      (∀ g sp, s0.mergeDue f = none → s0.gang? f.gang = some g → s0.split? f = some sp →
        (∀ bs i, s0.fetch (s0.whoOf g f) sp.pc = .ok bs → decode bs ≠ .ok i) → step s = exec .notAnInstruction (s0.pick f))) ∧
    (∀ f, s.nextTurn = (.issue f, rest) → s0.canIssue f = false → step s = .next s0) ∧
    (∀ e, s.nextTurn = (.event e, rest) → isEvent e = true → step s = exec e s0) ∧
    (∀ n, s.nextTurn = (.tick n, rest) → step s = .next (s0.tick n).retry) ∧
    ∀ t ts, s.agenda = t :: ts → s.nextTurn = (t, ts)

/-- The model's own invariant (Memory.wf; log 4): every step keeps memory and the vat in canonical form, so that equal memories are equal data. -/
def Obligations.StepKeepsMemory : Prop :=
  ∀ s t : State, s.memWf → step s = .next t → t.memWf
end

