-- ==== Sys2Proof/Laws/State.lean ====
section
/-! SUPPORT. One lemma per field of State and update: what the update leaves as it was. -/

namespace Sys2Proof.Machine

/-! ## modGang -/

@[simp] theorem State.modGang_part (s : State) (id : Nat) (h : Gang → Gang) : (s.modGang id h).part = s.part := rfl
@[simp] theorem State.modGang_boot (s : State) (id : Nat) (h : Gang → Gang) : (s.modGang id h).boot = s.boot := rfl
@[simp] theorem State.modGang_mem (s : State) (id : Nat) (h : Gang → Gang) : (s.modGang id h).mem = s.mem := rfl
@[simp] theorem State.modGang_poison (s : State) (id : Nat) (h : Gang → Gang) : (s.modGang id h).poison = s.poison := rfl
@[simp] theorem State.modGang_poisonTags (s : State) (id : Nat) (h : Gang → Gang) : (s.modGang id h).poisonTags = s.poisonTags := rfl
@[simp] theorem State.modGang_lost (s : State) (id : Nat) (h : Gang → Gang) : (s.modGang id h).lost = s.lost := rfl
@[simp] theorem State.modGang_undurable (s : State) (id : Nat) (h : Gang → Gang) : (s.modGang id h).undurable = s.undurable := rfl
@[simp] theorem State.modGang_vat (s : State) (id : Nat) (h : Gang → Gang) : (s.modGang id h).vat = s.vat := rfl
@[simp] theorem State.modGang_vatPoison (s : State) (id : Nat) (h : Gang → Gang) : (s.modGang id h).vatPoison = s.vatPoison := rfl
@[simp] theorem State.modGang_partials (s : State) (id : Nat) (h : Gang → Gang) : (s.modGang id h).partials = s.partials := rfl
@[simp] theorem State.modGang_dies (s : State) (id : Nat) (h : Gang → Gang) : (s.modGang id h).dies = s.dies := rfl
@[simp] theorem State.modGang_cores (s : State) (id : Nat) (h : Gang → Gang) : (s.modGang id h).cores = s.cores := rfl
@[simp] theorem State.modGang_presses (s : State) (id : Nat) (h : Gang → Gang) : (s.modGang id h).presses = s.presses := rfl
@[simp] theorem State.modGang_commands (s : State) (id : Nat) (h : Gang → Gang) : (s.modGang id h).commands = s.commands := rfl
@[simp] theorem State.modGang_nextCmd (s : State) (id : Nat) (h : Gang → Gang) : (s.modGang id h).nextCmd = s.nextCmd := rfl
@[simp] theorem State.modGang_arrivals (s : State) (id : Nat) (h : Gang → Gang) : (s.modGang id h).arrivals = s.arrivals := rfl
@[simp] theorem State.modGang_nextGang (s : State) (id : Nat) (h : Gang → Gang) : (s.modGang id h).nextGang = s.nextGang := rfl
@[simp] theorem State.modGang_queues (s : State) (id : Nat) (h : Gang → Gang) : (s.modGang id h).queues = s.queues := rfl
@[simp] theorem State.modGang_waiters (s : State) (id : Nat) (h : Gang → Gang) : (s.modGang id h).waiters = s.waiters := rfl
@[simp] theorem State.modGang_nextWaiter (s : State) (id : Nat) (h : Gang → Gang) : (s.modGang id h).nextWaiter = s.nextWaiter := rfl
@[simp] theorem State.modGang_succs (s : State) (id : Nat) (h : Gang → Gang) : (s.modGang id h).succs = s.succs := rfl
@[simp] theorem State.modGang_contexts (s : State) (id : Nat) (h : Gang → Gang) : (s.modGang id h).contexts = s.contexts := rfl
@[simp] theorem State.modGang_fns (s : State) (id : Nat) (h : Gang → Gang) : (s.modGang id h).fns = s.fns := rfl
@[simp] theorem State.modGang_collGroups (s : State) (id : Nat) (h : Gang → Gang) : (s.modGang id h).collGroups = s.collGroups := rfl
@[simp] theorem State.modGang_collWaits (s : State) (id : Nat) (h : Gang → Gang) : (s.modGang id h).collWaits = s.collWaits := rfl
@[simp] theorem State.modGang_seals (s : State) (id : Nat) (h : Gang → Gang) : (s.modGang id h).seals = s.seals := rfl
@[simp] theorem State.modGang_forwards (s : State) (id : Nat) (h : Gang → Gang) : (s.modGang id h).forwards = s.forwards := rfl
@[simp] theorem State.modGang_saves (s : State) (id : Nat) (h : Gang → Gang) : (s.modGang id h).saves = s.saves := rfl
@[simp] theorem State.modGang_powerCap (s : State) (id : Nat) (h : Gang → Gang) : (s.modGang id h).powerCap = s.powerCap := rfl
@[simp] theorem State.modGang_withheld (s : State) (id : Nat) (h : Gang → Gang) : (s.modGang id h).withheld = s.withheld := rfl
@[simp] theorem State.modGang_errorLog (s : State) (id : Nat) (h : Gang → Gang) : (s.modGang id h).errorLog = s.errorLog := rfl
@[simp] theorem State.modGang_badRecords (s : State) (id : Nat) (h : Gang → Gang) : (s.modGang id h).badRecords = s.badRecords := rfl
@[simp] theorem State.modGang_tableNext (s : State) (id : Nat) (h : Gang → Gang) : (s.modGang id h).tableNext = s.tableNext := rfl
@[simp] theorem State.modGang_interrupts (s : State) (id : Nat) (h : Gang → Gang) : (s.modGang id h).interrupts = s.interrupts := rfl
@[simp] theorem State.modGang_completion (s : State) (id : Nat) (h : Gang → Gang) : (s.modGang id h).completion = s.completion := rfl
@[simp] theorem State.modGang_monotonic (s : State) (id : Nat) (h : Gang → Gang) : (s.modGang id h).monotonic = s.monotonic := rfl
@[simp] theorem State.modGang_order (s : State) (id : Nat) (h : Gang → Gang) : (s.modGang id h).order = s.order := rfl
@[simp] theorem State.modGang_free (s : State) (id : Nat) (h : Gang → Gang) : (s.modGang id h).free = s.free := rfl
@[simp] theorem State.modGang_cur (s : State) (id : Nat) (h : Gang → Gang) : (s.modGang id h).cur = s.cur := rfl
@[simp] theorem State.modGang_agenda (s : State) (id : Nat) (h : Gang → Gang) : (s.modGang id h).agenda = s.agenda := rfl

/-! ## modGroup -/

@[simp] theorem State.modGroup_part (s : State) (gang slot : Nat) (h : Group → Group) : (s.modGroup gang slot h).part = s.part := rfl
@[simp] theorem State.modGroup_boot (s : State) (gang slot : Nat) (h : Group → Group) : (s.modGroup gang slot h).boot = s.boot := rfl
@[simp] theorem State.modGroup_mem (s : State) (gang slot : Nat) (h : Group → Group) : (s.modGroup gang slot h).mem = s.mem := rfl
@[simp] theorem State.modGroup_poison (s : State) (gang slot : Nat) (h : Group → Group) : (s.modGroup gang slot h).poison = s.poison := rfl
@[simp] theorem State.modGroup_poisonTags (s : State) (gang slot : Nat) (h : Group → Group) : (s.modGroup gang slot h).poisonTags = s.poisonTags := rfl
@[simp] theorem State.modGroup_lost (s : State) (gang slot : Nat) (h : Group → Group) : (s.modGroup gang slot h).lost = s.lost := rfl
@[simp] theorem State.modGroup_undurable (s : State) (gang slot : Nat) (h : Group → Group) : (s.modGroup gang slot h).undurable = s.undurable := rfl
@[simp] theorem State.modGroup_vat (s : State) (gang slot : Nat) (h : Group → Group) : (s.modGroup gang slot h).vat = s.vat := rfl
@[simp] theorem State.modGroup_vatPoison (s : State) (gang slot : Nat) (h : Group → Group) : (s.modGroup gang slot h).vatPoison = s.vatPoison := rfl
@[simp] theorem State.modGroup_partials (s : State) (gang slot : Nat) (h : Group → Group) : (s.modGroup gang slot h).partials = s.partials := rfl
@[simp] theorem State.modGroup_dies (s : State) (gang slot : Nat) (h : Group → Group) : (s.modGroup gang slot h).dies = s.dies := rfl
@[simp] theorem State.modGroup_cores (s : State) (gang slot : Nat) (h : Group → Group) : (s.modGroup gang slot h).cores = s.cores := rfl
@[simp] theorem State.modGroup_presses (s : State) (gang slot : Nat) (h : Group → Group) : (s.modGroup gang slot h).presses = s.presses := rfl
@[simp] theorem State.modGroup_commands (s : State) (gang slot : Nat) (h : Group → Group) : (s.modGroup gang slot h).commands = s.commands := rfl
@[simp] theorem State.modGroup_nextCmd (s : State) (gang slot : Nat) (h : Group → Group) : (s.modGroup gang slot h).nextCmd = s.nextCmd := rfl
@[simp] theorem State.modGroup_arrivals (s : State) (gang slot : Nat) (h : Group → Group) : (s.modGroup gang slot h).arrivals = s.arrivals := rfl
@[simp] theorem State.modGroup_nextGang (s : State) (gang slot : Nat) (h : Group → Group) : (s.modGroup gang slot h).nextGang = s.nextGang := rfl
@[simp] theorem State.modGroup_queues (s : State) (gang slot : Nat) (h : Group → Group) : (s.modGroup gang slot h).queues = s.queues := rfl
@[simp] theorem State.modGroup_waiters (s : State) (gang slot : Nat) (h : Group → Group) : (s.modGroup gang slot h).waiters = s.waiters := rfl
@[simp] theorem State.modGroup_nextWaiter (s : State) (gang slot : Nat) (h : Group → Group) : (s.modGroup gang slot h).nextWaiter = s.nextWaiter := rfl
@[simp] theorem State.modGroup_succs (s : State) (gang slot : Nat) (h : Group → Group) : (s.modGroup gang slot h).succs = s.succs := rfl
@[simp] theorem State.modGroup_contexts (s : State) (gang slot : Nat) (h : Group → Group) : (s.modGroup gang slot h).contexts = s.contexts := rfl
@[simp] theorem State.modGroup_fns (s : State) (gang slot : Nat) (h : Group → Group) : (s.modGroup gang slot h).fns = s.fns := rfl
@[simp] theorem State.modGroup_collGroups (s : State) (gang slot : Nat) (h : Group → Group) : (s.modGroup gang slot h).collGroups = s.collGroups := rfl
@[simp] theorem State.modGroup_collWaits (s : State) (gang slot : Nat) (h : Group → Group) : (s.modGroup gang slot h).collWaits = s.collWaits := rfl
@[simp] theorem State.modGroup_seals (s : State) (gang slot : Nat) (h : Group → Group) : (s.modGroup gang slot h).seals = s.seals := rfl
@[simp] theorem State.modGroup_forwards (s : State) (gang slot : Nat) (h : Group → Group) : (s.modGroup gang slot h).forwards = s.forwards := rfl
@[simp] theorem State.modGroup_saves (s : State) (gang slot : Nat) (h : Group → Group) : (s.modGroup gang slot h).saves = s.saves := rfl
@[simp] theorem State.modGroup_powerCap (s : State) (gang slot : Nat) (h : Group → Group) : (s.modGroup gang slot h).powerCap = s.powerCap := rfl
@[simp] theorem State.modGroup_withheld (s : State) (gang slot : Nat) (h : Group → Group) : (s.modGroup gang slot h).withheld = s.withheld := rfl
@[simp] theorem State.modGroup_errorLog (s : State) (gang slot : Nat) (h : Group → Group) : (s.modGroup gang slot h).errorLog = s.errorLog := rfl
@[simp] theorem State.modGroup_badRecords (s : State) (gang slot : Nat) (h : Group → Group) : (s.modGroup gang slot h).badRecords = s.badRecords := rfl
@[simp] theorem State.modGroup_tableNext (s : State) (gang slot : Nat) (h : Group → Group) : (s.modGroup gang slot h).tableNext = s.tableNext := rfl
@[simp] theorem State.modGroup_interrupts (s : State) (gang slot : Nat) (h : Group → Group) : (s.modGroup gang slot h).interrupts = s.interrupts := rfl
@[simp] theorem State.modGroup_completion (s : State) (gang slot : Nat) (h : Group → Group) : (s.modGroup gang slot h).completion = s.completion := rfl
@[simp] theorem State.modGroup_monotonic (s : State) (gang slot : Nat) (h : Group → Group) : (s.modGroup gang slot h).monotonic = s.monotonic := rfl
@[simp] theorem State.modGroup_order (s : State) (gang slot : Nat) (h : Group → Group) : (s.modGroup gang slot h).order = s.order := rfl
@[simp] theorem State.modGroup_free (s : State) (gang slot : Nat) (h : Group → Group) : (s.modGroup gang slot h).free = s.free := rfl
@[simp] theorem State.modGroup_cur (s : State) (gang slot : Nat) (h : Group → Group) : (s.modGroup gang slot h).cur = s.cur := rfl
@[simp] theorem State.modGroup_agenda (s : State) (gang slot : Nat) (h : Group → Group) : (s.modGroup gang slot h).agenda = s.agenda := rfl

/-! ## modCore -/

@[simp] theorem State.modCore_part (s : State) (c : Nat) (h : CoreRec → CoreRec) : (s.modCore c h).part = s.part := rfl
@[simp] theorem State.modCore_boot (s : State) (c : Nat) (h : CoreRec → CoreRec) : (s.modCore c h).boot = s.boot := rfl
@[simp] theorem State.modCore_mem (s : State) (c : Nat) (h : CoreRec → CoreRec) : (s.modCore c h).mem = s.mem := rfl
@[simp] theorem State.modCore_poison (s : State) (c : Nat) (h : CoreRec → CoreRec) : (s.modCore c h).poison = s.poison := rfl
@[simp] theorem State.modCore_poisonTags (s : State) (c : Nat) (h : CoreRec → CoreRec) : (s.modCore c h).poisonTags = s.poisonTags := rfl
@[simp] theorem State.modCore_lost (s : State) (c : Nat) (h : CoreRec → CoreRec) : (s.modCore c h).lost = s.lost := rfl
@[simp] theorem State.modCore_undurable (s : State) (c : Nat) (h : CoreRec → CoreRec) : (s.modCore c h).undurable = s.undurable := rfl
@[simp] theorem State.modCore_vat (s : State) (c : Nat) (h : CoreRec → CoreRec) : (s.modCore c h).vat = s.vat := rfl
@[simp] theorem State.modCore_vatPoison (s : State) (c : Nat) (h : CoreRec → CoreRec) : (s.modCore c h).vatPoison = s.vatPoison := rfl
@[simp] theorem State.modCore_partials (s : State) (c : Nat) (h : CoreRec → CoreRec) : (s.modCore c h).partials = s.partials := rfl
@[simp] theorem State.modCore_dies (s : State) (c : Nat) (h : CoreRec → CoreRec) : (s.modCore c h).dies = s.dies := rfl
@[simp] theorem State.modCore_presses (s : State) (c : Nat) (h : CoreRec → CoreRec) : (s.modCore c h).presses = s.presses := rfl
@[simp] theorem State.modCore_commands (s : State) (c : Nat) (h : CoreRec → CoreRec) : (s.modCore c h).commands = s.commands := rfl
@[simp] theorem State.modCore_nextCmd (s : State) (c : Nat) (h : CoreRec → CoreRec) : (s.modCore c h).nextCmd = s.nextCmd := rfl
@[simp] theorem State.modCore_arrivals (s : State) (c : Nat) (h : CoreRec → CoreRec) : (s.modCore c h).arrivals = s.arrivals := rfl
@[simp] theorem State.modCore_gangs (s : State) (c : Nat) (h : CoreRec → CoreRec) : (s.modCore c h).gangs = s.gangs := rfl
@[simp] theorem State.modCore_nextGang (s : State) (c : Nat) (h : CoreRec → CoreRec) : (s.modCore c h).nextGang = s.nextGang := rfl
@[simp] theorem State.modCore_queues (s : State) (c : Nat) (h : CoreRec → CoreRec) : (s.modCore c h).queues = s.queues := rfl
@[simp] theorem State.modCore_waiters (s : State) (c : Nat) (h : CoreRec → CoreRec) : (s.modCore c h).waiters = s.waiters := rfl
@[simp] theorem State.modCore_nextWaiter (s : State) (c : Nat) (h : CoreRec → CoreRec) : (s.modCore c h).nextWaiter = s.nextWaiter := rfl
@[simp] theorem State.modCore_succs (s : State) (c : Nat) (h : CoreRec → CoreRec) : (s.modCore c h).succs = s.succs := rfl
@[simp] theorem State.modCore_contexts (s : State) (c : Nat) (h : CoreRec → CoreRec) : (s.modCore c h).contexts = s.contexts := rfl
@[simp] theorem State.modCore_fns (s : State) (c : Nat) (h : CoreRec → CoreRec) : (s.modCore c h).fns = s.fns := rfl
@[simp] theorem State.modCore_collGroups (s : State) (c : Nat) (h : CoreRec → CoreRec) : (s.modCore c h).collGroups = s.collGroups := rfl
@[simp] theorem State.modCore_collWaits (s : State) (c : Nat) (h : CoreRec → CoreRec) : (s.modCore c h).collWaits = s.collWaits := rfl
@[simp] theorem State.modCore_seals (s : State) (c : Nat) (h : CoreRec → CoreRec) : (s.modCore c h).seals = s.seals := rfl
@[simp] theorem State.modCore_forwards (s : State) (c : Nat) (h : CoreRec → CoreRec) : (s.modCore c h).forwards = s.forwards := rfl
@[simp] theorem State.modCore_saves (s : State) (c : Nat) (h : CoreRec → CoreRec) : (s.modCore c h).saves = s.saves := rfl
@[simp] theorem State.modCore_powerCap (s : State) (c : Nat) (h : CoreRec → CoreRec) : (s.modCore c h).powerCap = s.powerCap := rfl
@[simp] theorem State.modCore_withheld (s : State) (c : Nat) (h : CoreRec → CoreRec) : (s.modCore c h).withheld = s.withheld := rfl
@[simp] theorem State.modCore_errorLog (s : State) (c : Nat) (h : CoreRec → CoreRec) : (s.modCore c h).errorLog = s.errorLog := rfl
@[simp] theorem State.modCore_badRecords (s : State) (c : Nat) (h : CoreRec → CoreRec) : (s.modCore c h).badRecords = s.badRecords := rfl
@[simp] theorem State.modCore_tableNext (s : State) (c : Nat) (h : CoreRec → CoreRec) : (s.modCore c h).tableNext = s.tableNext := rfl
@[simp] theorem State.modCore_interrupts (s : State) (c : Nat) (h : CoreRec → CoreRec) : (s.modCore c h).interrupts = s.interrupts := rfl
@[simp] theorem State.modCore_completion (s : State) (c : Nat) (h : CoreRec → CoreRec) : (s.modCore c h).completion = s.completion := rfl
@[simp] theorem State.modCore_monotonic (s : State) (c : Nat) (h : CoreRec → CoreRec) : (s.modCore c h).monotonic = s.monotonic := rfl
@[simp] theorem State.modCore_order (s : State) (c : Nat) (h : CoreRec → CoreRec) : (s.modCore c h).order = s.order := rfl
@[simp] theorem State.modCore_free (s : State) (c : Nat) (h : CoreRec → CoreRec) : (s.modCore c h).free = s.free := rfl
@[simp] theorem State.modCore_cur (s : State) (c : Nat) (h : CoreRec → CoreRec) : (s.modCore c h).cur = s.cur := rfl
@[simp] theorem State.modCore_agenda (s : State) (c : Nat) (h : CoreRec → CoreRec) : (s.modCore c h).agenda = s.agenda := rfl

/-! ## modPress -/

@[simp] theorem State.modPress_part (s : State) (n : Nat) (h : Press → Press) : (s.modPress n h).part = s.part := rfl
@[simp] theorem State.modPress_boot (s : State) (n : Nat) (h : Press → Press) : (s.modPress n h).boot = s.boot := rfl
@[simp] theorem State.modPress_mem (s : State) (n : Nat) (h : Press → Press) : (s.modPress n h).mem = s.mem := rfl
@[simp] theorem State.modPress_poison (s : State) (n : Nat) (h : Press → Press) : (s.modPress n h).poison = s.poison := rfl
@[simp] theorem State.modPress_poisonTags (s : State) (n : Nat) (h : Press → Press) : (s.modPress n h).poisonTags = s.poisonTags := rfl
@[simp] theorem State.modPress_lost (s : State) (n : Nat) (h : Press → Press) : (s.modPress n h).lost = s.lost := rfl
@[simp] theorem State.modPress_undurable (s : State) (n : Nat) (h : Press → Press) : (s.modPress n h).undurable = s.undurable := rfl
@[simp] theorem State.modPress_vat (s : State) (n : Nat) (h : Press → Press) : (s.modPress n h).vat = s.vat := rfl
@[simp] theorem State.modPress_vatPoison (s : State) (n : Nat) (h : Press → Press) : (s.modPress n h).vatPoison = s.vatPoison := rfl
@[simp] theorem State.modPress_partials (s : State) (n : Nat) (h : Press → Press) : (s.modPress n h).partials = s.partials := rfl
@[simp] theorem State.modPress_dies (s : State) (n : Nat) (h : Press → Press) : (s.modPress n h).dies = s.dies := rfl
@[simp] theorem State.modPress_cores (s : State) (n : Nat) (h : Press → Press) : (s.modPress n h).cores = s.cores := rfl
@[simp] theorem State.modPress_commands (s : State) (n : Nat) (h : Press → Press) : (s.modPress n h).commands = s.commands := rfl
@[simp] theorem State.modPress_nextCmd (s : State) (n : Nat) (h : Press → Press) : (s.modPress n h).nextCmd = s.nextCmd := rfl
@[simp] theorem State.modPress_arrivals (s : State) (n : Nat) (h : Press → Press) : (s.modPress n h).arrivals = s.arrivals := rfl
@[simp] theorem State.modPress_gangs (s : State) (n : Nat) (h : Press → Press) : (s.modPress n h).gangs = s.gangs := rfl
@[simp] theorem State.modPress_nextGang (s : State) (n : Nat) (h : Press → Press) : (s.modPress n h).nextGang = s.nextGang := rfl
@[simp] theorem State.modPress_queues (s : State) (n : Nat) (h : Press → Press) : (s.modPress n h).queues = s.queues := rfl
@[simp] theorem State.modPress_waiters (s : State) (n : Nat) (h : Press → Press) : (s.modPress n h).waiters = s.waiters := rfl
@[simp] theorem State.modPress_nextWaiter (s : State) (n : Nat) (h : Press → Press) : (s.modPress n h).nextWaiter = s.nextWaiter := rfl
@[simp] theorem State.modPress_succs (s : State) (n : Nat) (h : Press → Press) : (s.modPress n h).succs = s.succs := rfl
@[simp] theorem State.modPress_contexts (s : State) (n : Nat) (h : Press → Press) : (s.modPress n h).contexts = s.contexts := rfl
@[simp] theorem State.modPress_fns (s : State) (n : Nat) (h : Press → Press) : (s.modPress n h).fns = s.fns := rfl
@[simp] theorem State.modPress_collGroups (s : State) (n : Nat) (h : Press → Press) : (s.modPress n h).collGroups = s.collGroups := rfl
@[simp] theorem State.modPress_collWaits (s : State) (n : Nat) (h : Press → Press) : (s.modPress n h).collWaits = s.collWaits := rfl
@[simp] theorem State.modPress_seals (s : State) (n : Nat) (h : Press → Press) : (s.modPress n h).seals = s.seals := rfl
@[simp] theorem State.modPress_forwards (s : State) (n : Nat) (h : Press → Press) : (s.modPress n h).forwards = s.forwards := rfl
@[simp] theorem State.modPress_saves (s : State) (n : Nat) (h : Press → Press) : (s.modPress n h).saves = s.saves := rfl
@[simp] theorem State.modPress_powerCap (s : State) (n : Nat) (h : Press → Press) : (s.modPress n h).powerCap = s.powerCap := rfl
@[simp] theorem State.modPress_withheld (s : State) (n : Nat) (h : Press → Press) : (s.modPress n h).withheld = s.withheld := rfl
@[simp] theorem State.modPress_errorLog (s : State) (n : Nat) (h : Press → Press) : (s.modPress n h).errorLog = s.errorLog := rfl
@[simp] theorem State.modPress_badRecords (s : State) (n : Nat) (h : Press → Press) : (s.modPress n h).badRecords = s.badRecords := rfl
@[simp] theorem State.modPress_tableNext (s : State) (n : Nat) (h : Press → Press) : (s.modPress n h).tableNext = s.tableNext := rfl
@[simp] theorem State.modPress_interrupts (s : State) (n : Nat) (h : Press → Press) : (s.modPress n h).interrupts = s.interrupts := rfl
@[simp] theorem State.modPress_completion (s : State) (n : Nat) (h : Press → Press) : (s.modPress n h).completion = s.completion := rfl
@[simp] theorem State.modPress_monotonic (s : State) (n : Nat) (h : Press → Press) : (s.modPress n h).monotonic = s.monotonic := rfl
@[simp] theorem State.modPress_order (s : State) (n : Nat) (h : Press → Press) : (s.modPress n h).order = s.order := rfl
@[simp] theorem State.modPress_free (s : State) (n : Nat) (h : Press → Press) : (s.modPress n h).free = s.free := rfl
@[simp] theorem State.modPress_cur (s : State) (n : Nat) (h : Press → Press) : (s.modPress n h).cur = s.cur := rfl
@[simp] theorem State.modPress_agenda (s : State) (n : Nat) (h : Press → Press) : (s.modPress n h).agenda = s.agenda := rfl

/-! ## modCtx -/

@[simp] theorem State.modCtx_part (s : State) (tag : Nat) (h : Context → Context) : (s.modCtx tag h).part = s.part := rfl
@[simp] theorem State.modCtx_boot (s : State) (tag : Nat) (h : Context → Context) : (s.modCtx tag h).boot = s.boot := rfl
@[simp] theorem State.modCtx_mem (s : State) (tag : Nat) (h : Context → Context) : (s.modCtx tag h).mem = s.mem := rfl
@[simp] theorem State.modCtx_poison (s : State) (tag : Nat) (h : Context → Context) : (s.modCtx tag h).poison = s.poison := rfl
@[simp] theorem State.modCtx_poisonTags (s : State) (tag : Nat) (h : Context → Context) : (s.modCtx tag h).poisonTags = s.poisonTags := rfl
@[simp] theorem State.modCtx_lost (s : State) (tag : Nat) (h : Context → Context) : (s.modCtx tag h).lost = s.lost := rfl
@[simp] theorem State.modCtx_undurable (s : State) (tag : Nat) (h : Context → Context) : (s.modCtx tag h).undurable = s.undurable := rfl
@[simp] theorem State.modCtx_vat (s : State) (tag : Nat) (h : Context → Context) : (s.modCtx tag h).vat = s.vat := rfl
@[simp] theorem State.modCtx_vatPoison (s : State) (tag : Nat) (h : Context → Context) : (s.modCtx tag h).vatPoison = s.vatPoison := rfl
@[simp] theorem State.modCtx_partials (s : State) (tag : Nat) (h : Context → Context) : (s.modCtx tag h).partials = s.partials := rfl
@[simp] theorem State.modCtx_dies (s : State) (tag : Nat) (h : Context → Context) : (s.modCtx tag h).dies = s.dies := rfl
@[simp] theorem State.modCtx_cores (s : State) (tag : Nat) (h : Context → Context) : (s.modCtx tag h).cores = s.cores := rfl
@[simp] theorem State.modCtx_presses (s : State) (tag : Nat) (h : Context → Context) : (s.modCtx tag h).presses = s.presses := rfl
@[simp] theorem State.modCtx_commands (s : State) (tag : Nat) (h : Context → Context) : (s.modCtx tag h).commands = s.commands := rfl
@[simp] theorem State.modCtx_nextCmd (s : State) (tag : Nat) (h : Context → Context) : (s.modCtx tag h).nextCmd = s.nextCmd := rfl
@[simp] theorem State.modCtx_arrivals (s : State) (tag : Nat) (h : Context → Context) : (s.modCtx tag h).arrivals = s.arrivals := rfl
@[simp] theorem State.modCtx_gangs (s : State) (tag : Nat) (h : Context → Context) : (s.modCtx tag h).gangs = s.gangs := rfl
@[simp] theorem State.modCtx_nextGang (s : State) (tag : Nat) (h : Context → Context) : (s.modCtx tag h).nextGang = s.nextGang := rfl
@[simp] theorem State.modCtx_queues (s : State) (tag : Nat) (h : Context → Context) : (s.modCtx tag h).queues = s.queues := rfl
@[simp] theorem State.modCtx_waiters (s : State) (tag : Nat) (h : Context → Context) : (s.modCtx tag h).waiters = s.waiters := rfl
@[simp] theorem State.modCtx_nextWaiter (s : State) (tag : Nat) (h : Context → Context) : (s.modCtx tag h).nextWaiter = s.nextWaiter := rfl
@[simp] theorem State.modCtx_succs (s : State) (tag : Nat) (h : Context → Context) : (s.modCtx tag h).succs = s.succs := rfl
@[simp] theorem State.modCtx_fns (s : State) (tag : Nat) (h : Context → Context) : (s.modCtx tag h).fns = s.fns := rfl
@[simp] theorem State.modCtx_collGroups (s : State) (tag : Nat) (h : Context → Context) : (s.modCtx tag h).collGroups = s.collGroups := rfl
@[simp] theorem State.modCtx_collWaits (s : State) (tag : Nat) (h : Context → Context) : (s.modCtx tag h).collWaits = s.collWaits := rfl
@[simp] theorem State.modCtx_seals (s : State) (tag : Nat) (h : Context → Context) : (s.modCtx tag h).seals = s.seals := rfl
@[simp] theorem State.modCtx_forwards (s : State) (tag : Nat) (h : Context → Context) : (s.modCtx tag h).forwards = s.forwards := rfl
@[simp] theorem State.modCtx_saves (s : State) (tag : Nat) (h : Context → Context) : (s.modCtx tag h).saves = s.saves := rfl
@[simp] theorem State.modCtx_powerCap (s : State) (tag : Nat) (h : Context → Context) : (s.modCtx tag h).powerCap = s.powerCap := rfl
@[simp] theorem State.modCtx_withheld (s : State) (tag : Nat) (h : Context → Context) : (s.modCtx tag h).withheld = s.withheld := rfl
@[simp] theorem State.modCtx_errorLog (s : State) (tag : Nat) (h : Context → Context) : (s.modCtx tag h).errorLog = s.errorLog := rfl
@[simp] theorem State.modCtx_badRecords (s : State) (tag : Nat) (h : Context → Context) : (s.modCtx tag h).badRecords = s.badRecords := rfl
@[simp] theorem State.modCtx_tableNext (s : State) (tag : Nat) (h : Context → Context) : (s.modCtx tag h).tableNext = s.tableNext := rfl
@[simp] theorem State.modCtx_interrupts (s : State) (tag : Nat) (h : Context → Context) : (s.modCtx tag h).interrupts = s.interrupts := rfl
@[simp] theorem State.modCtx_completion (s : State) (tag : Nat) (h : Context → Context) : (s.modCtx tag h).completion = s.completion := rfl
@[simp] theorem State.modCtx_monotonic (s : State) (tag : Nat) (h : Context → Context) : (s.modCtx tag h).monotonic = s.monotonic := rfl
@[simp] theorem State.modCtx_order (s : State) (tag : Nat) (h : Context → Context) : (s.modCtx tag h).order = s.order := rfl
@[simp] theorem State.modCtx_free (s : State) (tag : Nat) (h : Context → Context) : (s.modCtx tag h).free = s.free := rfl
@[simp] theorem State.modCtx_cur (s : State) (tag : Nat) (h : Context → Context) : (s.modCtx tag h).cur = s.cur := rfl
@[simp] theorem State.modCtx_agenda (s : State) (tag : Nat) (h : Context → Context) : (s.modCtx tag h).agenda = s.agenda := rfl

/-! ## A split, a die -/

/-- A split is changed within the gangs. -/
theorem State.setSplit_eq (s : State) (f : Focus) (sp : Option Split) :
    s.setSplit f sp = { s with gangs := (s.setSplit f sp).gangs } := by
  unfold State.setSplit
  split <;> rfl

theorem State.modSplit_eq (s : State) (f : Focus) (h : Split → Split) :
    s.modSplit f h = { s with gangs := (s.modSplit f h).gangs } := by
  unfold State.modSplit
  split
  · exact State.setSplit_eq s f _
  · rfl

theorem State.modDie_eq (s : State) (d : Nat) (h : DieRec → DieRec) :
    s.modDie d h = { s with dies := (s.modDie d h).dies } := by
  unfold State.modDie
  split <;> rfl

@[simp] theorem State.setSplit_part (s : State) (f : Focus) (sp : Option Split) : (s.setSplit f sp).part = s.part := by rw [State.setSplit_eq s f sp]
@[simp] theorem State.setSplit_boot (s : State) (f : Focus) (sp : Option Split) : (s.setSplit f sp).boot = s.boot := by rw [State.setSplit_eq s f sp]
@[simp] theorem State.setSplit_mem (s : State) (f : Focus) (sp : Option Split) : (s.setSplit f sp).mem = s.mem := by rw [State.setSplit_eq s f sp]
@[simp] theorem State.setSplit_poison (s : State) (f : Focus) (sp : Option Split) : (s.setSplit f sp).poison = s.poison := by rw [State.setSplit_eq s f sp]
@[simp] theorem State.setSplit_poisonTags (s : State) (f : Focus) (sp : Option Split) : (s.setSplit f sp).poisonTags = s.poisonTags := by rw [State.setSplit_eq s f sp]
@[simp] theorem State.setSplit_lost (s : State) (f : Focus) (sp : Option Split) : (s.setSplit f sp).lost = s.lost := by rw [State.setSplit_eq s f sp]
@[simp] theorem State.setSplit_undurable (s : State) (f : Focus) (sp : Option Split) : (s.setSplit f sp).undurable = s.undurable := by rw [State.setSplit_eq s f sp]
@[simp] theorem State.setSplit_vat (s : State) (f : Focus) (sp : Option Split) : (s.setSplit f sp).vat = s.vat := by rw [State.setSplit_eq s f sp]
@[simp] theorem State.setSplit_vatPoison (s : State) (f : Focus) (sp : Option Split) : (s.setSplit f sp).vatPoison = s.vatPoison := by rw [State.setSplit_eq s f sp]
@[simp] theorem State.setSplit_partials (s : State) (f : Focus) (sp : Option Split) : (s.setSplit f sp).partials = s.partials := by rw [State.setSplit_eq s f sp]
@[simp] theorem State.setSplit_dies (s : State) (f : Focus) (sp : Option Split) : (s.setSplit f sp).dies = s.dies := by rw [State.setSplit_eq s f sp]
@[simp] theorem State.setSplit_cores (s : State) (f : Focus) (sp : Option Split) : (s.setSplit f sp).cores = s.cores := by rw [State.setSplit_eq s f sp]
@[simp] theorem State.setSplit_presses (s : State) (f : Focus) (sp : Option Split) : (s.setSplit f sp).presses = s.presses := by rw [State.setSplit_eq s f sp]
@[simp] theorem State.setSplit_commands (s : State) (f : Focus) (sp : Option Split) : (s.setSplit f sp).commands = s.commands := by rw [State.setSplit_eq s f sp]
@[simp] theorem State.setSplit_nextCmd (s : State) (f : Focus) (sp : Option Split) : (s.setSplit f sp).nextCmd = s.nextCmd := by rw [State.setSplit_eq s f sp]
@[simp] theorem State.setSplit_arrivals (s : State) (f : Focus) (sp : Option Split) : (s.setSplit f sp).arrivals = s.arrivals := by rw [State.setSplit_eq s f sp]
@[simp] theorem State.setSplit_nextGang (s : State) (f : Focus) (sp : Option Split) : (s.setSplit f sp).nextGang = s.nextGang := by rw [State.setSplit_eq s f sp]
@[simp] theorem State.setSplit_queues (s : State) (f : Focus) (sp : Option Split) : (s.setSplit f sp).queues = s.queues := by rw [State.setSplit_eq s f sp]
@[simp] theorem State.setSplit_waiters (s : State) (f : Focus) (sp : Option Split) : (s.setSplit f sp).waiters = s.waiters := by rw [State.setSplit_eq s f sp]
@[simp] theorem State.setSplit_nextWaiter (s : State) (f : Focus) (sp : Option Split) : (s.setSplit f sp).nextWaiter = s.nextWaiter := by rw [State.setSplit_eq s f sp]
@[simp] theorem State.setSplit_succs (s : State) (f : Focus) (sp : Option Split) : (s.setSplit f sp).succs = s.succs := by rw [State.setSplit_eq s f sp]
@[simp] theorem State.setSplit_contexts (s : State) (f : Focus) (sp : Option Split) : (s.setSplit f sp).contexts = s.contexts := by rw [State.setSplit_eq s f sp]
@[simp] theorem State.setSplit_fns (s : State) (f : Focus) (sp : Option Split) : (s.setSplit f sp).fns = s.fns := by rw [State.setSplit_eq s f sp]
@[simp] theorem State.setSplit_collGroups (s : State) (f : Focus) (sp : Option Split) : (s.setSplit f sp).collGroups = s.collGroups := by rw [State.setSplit_eq s f sp]
@[simp] theorem State.setSplit_collWaits (s : State) (f : Focus) (sp : Option Split) : (s.setSplit f sp).collWaits = s.collWaits := by rw [State.setSplit_eq s f sp]
@[simp] theorem State.setSplit_seals (s : State) (f : Focus) (sp : Option Split) : (s.setSplit f sp).seals = s.seals := by rw [State.setSplit_eq s f sp]
@[simp] theorem State.setSplit_forwards (s : State) (f : Focus) (sp : Option Split) : (s.setSplit f sp).forwards = s.forwards := by rw [State.setSplit_eq s f sp]
@[simp] theorem State.setSplit_saves (s : State) (f : Focus) (sp : Option Split) : (s.setSplit f sp).saves = s.saves := by rw [State.setSplit_eq s f sp]
@[simp] theorem State.setSplit_powerCap (s : State) (f : Focus) (sp : Option Split) : (s.setSplit f sp).powerCap = s.powerCap := by rw [State.setSplit_eq s f sp]
@[simp] theorem State.setSplit_withheld (s : State) (f : Focus) (sp : Option Split) : (s.setSplit f sp).withheld = s.withheld := by rw [State.setSplit_eq s f sp]
@[simp] theorem State.setSplit_errorLog (s : State) (f : Focus) (sp : Option Split) : (s.setSplit f sp).errorLog = s.errorLog := by rw [State.setSplit_eq s f sp]
@[simp] theorem State.setSplit_badRecords (s : State) (f : Focus) (sp : Option Split) : (s.setSplit f sp).badRecords = s.badRecords := by rw [State.setSplit_eq s f sp]
@[simp] theorem State.setSplit_tableNext (s : State) (f : Focus) (sp : Option Split) : (s.setSplit f sp).tableNext = s.tableNext := by rw [State.setSplit_eq s f sp]
@[simp] theorem State.setSplit_interrupts (s : State) (f : Focus) (sp : Option Split) : (s.setSplit f sp).interrupts = s.interrupts := by rw [State.setSplit_eq s f sp]
@[simp] theorem State.setSplit_completion (s : State) (f : Focus) (sp : Option Split) : (s.setSplit f sp).completion = s.completion := by rw [State.setSplit_eq s f sp]
@[simp] theorem State.setSplit_monotonic (s : State) (f : Focus) (sp : Option Split) : (s.setSplit f sp).monotonic = s.monotonic := by rw [State.setSplit_eq s f sp]
@[simp] theorem State.setSplit_order (s : State) (f : Focus) (sp : Option Split) : (s.setSplit f sp).order = s.order := by rw [State.setSplit_eq s f sp]
@[simp] theorem State.setSplit_free (s : State) (f : Focus) (sp : Option Split) : (s.setSplit f sp).free = s.free := by rw [State.setSplit_eq s f sp]
@[simp] theorem State.setSplit_cur (s : State) (f : Focus) (sp : Option Split) : (s.setSplit f sp).cur = s.cur := by rw [State.setSplit_eq s f sp]
@[simp] theorem State.setSplit_agenda (s : State) (f : Focus) (sp : Option Split) : (s.setSplit f sp).agenda = s.agenda := by rw [State.setSplit_eq s f sp]

@[simp] theorem State.modSplit_part (s : State) (f : Focus) (h : Split → Split) : (s.modSplit f h).part = s.part := by rw [State.modSplit_eq s f h]
@[simp] theorem State.modSplit_boot (s : State) (f : Focus) (h : Split → Split) : (s.modSplit f h).boot = s.boot := by rw [State.modSplit_eq s f h]
@[simp] theorem State.modSplit_mem (s : State) (f : Focus) (h : Split → Split) : (s.modSplit f h).mem = s.mem := by rw [State.modSplit_eq s f h]
@[simp] theorem State.modSplit_poison (s : State) (f : Focus) (h : Split → Split) : (s.modSplit f h).poison = s.poison := by rw [State.modSplit_eq s f h]
@[simp] theorem State.modSplit_poisonTags (s : State) (f : Focus) (h : Split → Split) : (s.modSplit f h).poisonTags = s.poisonTags := by rw [State.modSplit_eq s f h]
@[simp] theorem State.modSplit_lost (s : State) (f : Focus) (h : Split → Split) : (s.modSplit f h).lost = s.lost := by rw [State.modSplit_eq s f h]
@[simp] theorem State.modSplit_undurable (s : State) (f : Focus) (h : Split → Split) : (s.modSplit f h).undurable = s.undurable := by rw [State.modSplit_eq s f h]
@[simp] theorem State.modSplit_vat (s : State) (f : Focus) (h : Split → Split) : (s.modSplit f h).vat = s.vat := by rw [State.modSplit_eq s f h]
@[simp] theorem State.modSplit_vatPoison (s : State) (f : Focus) (h : Split → Split) : (s.modSplit f h).vatPoison = s.vatPoison := by rw [State.modSplit_eq s f h]
@[simp] theorem State.modSplit_partials (s : State) (f : Focus) (h : Split → Split) : (s.modSplit f h).partials = s.partials := by rw [State.modSplit_eq s f h]
@[simp] theorem State.modSplit_dies (s : State) (f : Focus) (h : Split → Split) : (s.modSplit f h).dies = s.dies := by rw [State.modSplit_eq s f h]
@[simp] theorem State.modSplit_cores (s : State) (f : Focus) (h : Split → Split) : (s.modSplit f h).cores = s.cores := by rw [State.modSplit_eq s f h]
@[simp] theorem State.modSplit_presses (s : State) (f : Focus) (h : Split → Split) : (s.modSplit f h).presses = s.presses := by rw [State.modSplit_eq s f h]
@[simp] theorem State.modSplit_commands (s : State) (f : Focus) (h : Split → Split) : (s.modSplit f h).commands = s.commands := by rw [State.modSplit_eq s f h]
@[simp] theorem State.modSplit_nextCmd (s : State) (f : Focus) (h : Split → Split) : (s.modSplit f h).nextCmd = s.nextCmd := by rw [State.modSplit_eq s f h]
@[simp] theorem State.modSplit_arrivals (s : State) (f : Focus) (h : Split → Split) : (s.modSplit f h).arrivals = s.arrivals := by rw [State.modSplit_eq s f h]
@[simp] theorem State.modSplit_nextGang (s : State) (f : Focus) (h : Split → Split) : (s.modSplit f h).nextGang = s.nextGang := by rw [State.modSplit_eq s f h]
@[simp] theorem State.modSplit_queues (s : State) (f : Focus) (h : Split → Split) : (s.modSplit f h).queues = s.queues := by rw [State.modSplit_eq s f h]
@[simp] theorem State.modSplit_waiters (s : State) (f : Focus) (h : Split → Split) : (s.modSplit f h).waiters = s.waiters := by rw [State.modSplit_eq s f h]
@[simp] theorem State.modSplit_nextWaiter (s : State) (f : Focus) (h : Split → Split) : (s.modSplit f h).nextWaiter = s.nextWaiter := by rw [State.modSplit_eq s f h]
@[simp] theorem State.modSplit_succs (s : State) (f : Focus) (h : Split → Split) : (s.modSplit f h).succs = s.succs := by rw [State.modSplit_eq s f h]
@[simp] theorem State.modSplit_contexts (s : State) (f : Focus) (h : Split → Split) : (s.modSplit f h).contexts = s.contexts := by rw [State.modSplit_eq s f h]
@[simp] theorem State.modSplit_fns (s : State) (f : Focus) (h : Split → Split) : (s.modSplit f h).fns = s.fns := by rw [State.modSplit_eq s f h]
@[simp] theorem State.modSplit_collGroups (s : State) (f : Focus) (h : Split → Split) : (s.modSplit f h).collGroups = s.collGroups := by rw [State.modSplit_eq s f h]
@[simp] theorem State.modSplit_collWaits (s : State) (f : Focus) (h : Split → Split) : (s.modSplit f h).collWaits = s.collWaits := by rw [State.modSplit_eq s f h]
@[simp] theorem State.modSplit_seals (s : State) (f : Focus) (h : Split → Split) : (s.modSplit f h).seals = s.seals := by rw [State.modSplit_eq s f h]
@[simp] theorem State.modSplit_forwards (s : State) (f : Focus) (h : Split → Split) : (s.modSplit f h).forwards = s.forwards := by rw [State.modSplit_eq s f h]
@[simp] theorem State.modSplit_saves (s : State) (f : Focus) (h : Split → Split) : (s.modSplit f h).saves = s.saves := by rw [State.modSplit_eq s f h]
@[simp] theorem State.modSplit_powerCap (s : State) (f : Focus) (h : Split → Split) : (s.modSplit f h).powerCap = s.powerCap := by rw [State.modSplit_eq s f h]
@[simp] theorem State.modSplit_withheld (s : State) (f : Focus) (h : Split → Split) : (s.modSplit f h).withheld = s.withheld := by rw [State.modSplit_eq s f h]
@[simp] theorem State.modSplit_errorLog (s : State) (f : Focus) (h : Split → Split) : (s.modSplit f h).errorLog = s.errorLog := by rw [State.modSplit_eq s f h]
@[simp] theorem State.modSplit_badRecords (s : State) (f : Focus) (h : Split → Split) : (s.modSplit f h).badRecords = s.badRecords := by rw [State.modSplit_eq s f h]
@[simp] theorem State.modSplit_tableNext (s : State) (f : Focus) (h : Split → Split) : (s.modSplit f h).tableNext = s.tableNext := by rw [State.modSplit_eq s f h]
@[simp] theorem State.modSplit_interrupts (s : State) (f : Focus) (h : Split → Split) : (s.modSplit f h).interrupts = s.interrupts := by rw [State.modSplit_eq s f h]
@[simp] theorem State.modSplit_completion (s : State) (f : Focus) (h : Split → Split) : (s.modSplit f h).completion = s.completion := by rw [State.modSplit_eq s f h]
@[simp] theorem State.modSplit_monotonic (s : State) (f : Focus) (h : Split → Split) : (s.modSplit f h).monotonic = s.monotonic := by rw [State.modSplit_eq s f h]
@[simp] theorem State.modSplit_order (s : State) (f : Focus) (h : Split → Split) : (s.modSplit f h).order = s.order := by rw [State.modSplit_eq s f h]
@[simp] theorem State.modSplit_free (s : State) (f : Focus) (h : Split → Split) : (s.modSplit f h).free = s.free := by rw [State.modSplit_eq s f h]
@[simp] theorem State.modSplit_cur (s : State) (f : Focus) (h : Split → Split) : (s.modSplit f h).cur = s.cur := by rw [State.modSplit_eq s f h]
@[simp] theorem State.modSplit_agenda (s : State) (f : Focus) (h : Split → Split) : (s.modSplit f h).agenda = s.agenda := by rw [State.modSplit_eq s f h]

@[simp] theorem State.modDie_part (s : State) (d : Nat) (h : DieRec → DieRec) : (s.modDie d h).part = s.part := by rw [State.modDie_eq s d h]
@[simp] theorem State.modDie_boot (s : State) (d : Nat) (h : DieRec → DieRec) : (s.modDie d h).boot = s.boot := by rw [State.modDie_eq s d h]
@[simp] theorem State.modDie_mem (s : State) (d : Nat) (h : DieRec → DieRec) : (s.modDie d h).mem = s.mem := by rw [State.modDie_eq s d h]
@[simp] theorem State.modDie_poison (s : State) (d : Nat) (h : DieRec → DieRec) : (s.modDie d h).poison = s.poison := by rw [State.modDie_eq s d h]
@[simp] theorem State.modDie_poisonTags (s : State) (d : Nat) (h : DieRec → DieRec) : (s.modDie d h).poisonTags = s.poisonTags := by rw [State.modDie_eq s d h]
@[simp] theorem State.modDie_lost (s : State) (d : Nat) (h : DieRec → DieRec) : (s.modDie d h).lost = s.lost := by rw [State.modDie_eq s d h]
@[simp] theorem State.modDie_undurable (s : State) (d : Nat) (h : DieRec → DieRec) : (s.modDie d h).undurable = s.undurable := by rw [State.modDie_eq s d h]
@[simp] theorem State.modDie_vat (s : State) (d : Nat) (h : DieRec → DieRec) : (s.modDie d h).vat = s.vat := by rw [State.modDie_eq s d h]
@[simp] theorem State.modDie_vatPoison (s : State) (d : Nat) (h : DieRec → DieRec) : (s.modDie d h).vatPoison = s.vatPoison := by rw [State.modDie_eq s d h]
@[simp] theorem State.modDie_partials (s : State) (d : Nat) (h : DieRec → DieRec) : (s.modDie d h).partials = s.partials := by rw [State.modDie_eq s d h]
@[simp] theorem State.modDie_cores (s : State) (d : Nat) (h : DieRec → DieRec) : (s.modDie d h).cores = s.cores := by rw [State.modDie_eq s d h]
@[simp] theorem State.modDie_presses (s : State) (d : Nat) (h : DieRec → DieRec) : (s.modDie d h).presses = s.presses := by rw [State.modDie_eq s d h]
@[simp] theorem State.modDie_commands (s : State) (d : Nat) (h : DieRec → DieRec) : (s.modDie d h).commands = s.commands := by rw [State.modDie_eq s d h]
@[simp] theorem State.modDie_nextCmd (s : State) (d : Nat) (h : DieRec → DieRec) : (s.modDie d h).nextCmd = s.nextCmd := by rw [State.modDie_eq s d h]
@[simp] theorem State.modDie_arrivals (s : State) (d : Nat) (h : DieRec → DieRec) : (s.modDie d h).arrivals = s.arrivals := by rw [State.modDie_eq s d h]
@[simp] theorem State.modDie_gangs (s : State) (d : Nat) (h : DieRec → DieRec) : (s.modDie d h).gangs = s.gangs := by rw [State.modDie_eq s d h]
@[simp] theorem State.modDie_nextGang (s : State) (d : Nat) (h : DieRec → DieRec) : (s.modDie d h).nextGang = s.nextGang := by rw [State.modDie_eq s d h]
@[simp] theorem State.modDie_queues (s : State) (d : Nat) (h : DieRec → DieRec) : (s.modDie d h).queues = s.queues := by rw [State.modDie_eq s d h]
@[simp] theorem State.modDie_waiters (s : State) (d : Nat) (h : DieRec → DieRec) : (s.modDie d h).waiters = s.waiters := by rw [State.modDie_eq s d h]
@[simp] theorem State.modDie_nextWaiter (s : State) (d : Nat) (h : DieRec → DieRec) : (s.modDie d h).nextWaiter = s.nextWaiter := by rw [State.modDie_eq s d h]
@[simp] theorem State.modDie_succs (s : State) (d : Nat) (h : DieRec → DieRec) : (s.modDie d h).succs = s.succs := by rw [State.modDie_eq s d h]
@[simp] theorem State.modDie_contexts (s : State) (d : Nat) (h : DieRec → DieRec) : (s.modDie d h).contexts = s.contexts := by rw [State.modDie_eq s d h]
@[simp] theorem State.modDie_fns (s : State) (d : Nat) (h : DieRec → DieRec) : (s.modDie d h).fns = s.fns := by rw [State.modDie_eq s d h]
@[simp] theorem State.modDie_collGroups (s : State) (d : Nat) (h : DieRec → DieRec) : (s.modDie d h).collGroups = s.collGroups := by rw [State.modDie_eq s d h]
@[simp] theorem State.modDie_collWaits (s : State) (d : Nat) (h : DieRec → DieRec) : (s.modDie d h).collWaits = s.collWaits := by rw [State.modDie_eq s d h]
@[simp] theorem State.modDie_seals (s : State) (d : Nat) (h : DieRec → DieRec) : (s.modDie d h).seals = s.seals := by rw [State.modDie_eq s d h]
@[simp] theorem State.modDie_forwards (s : State) (d : Nat) (h : DieRec → DieRec) : (s.modDie d h).forwards = s.forwards := by rw [State.modDie_eq s d h]
@[simp] theorem State.modDie_saves (s : State) (d : Nat) (h : DieRec → DieRec) : (s.modDie d h).saves = s.saves := by rw [State.modDie_eq s d h]
@[simp] theorem State.modDie_powerCap (s : State) (d : Nat) (h : DieRec → DieRec) : (s.modDie d h).powerCap = s.powerCap := by rw [State.modDie_eq s d h]
@[simp] theorem State.modDie_withheld (s : State) (d : Nat) (h : DieRec → DieRec) : (s.modDie d h).withheld = s.withheld := by rw [State.modDie_eq s d h]
@[simp] theorem State.modDie_errorLog (s : State) (d : Nat) (h : DieRec → DieRec) : (s.modDie d h).errorLog = s.errorLog := by rw [State.modDie_eq s d h]
@[simp] theorem State.modDie_badRecords (s : State) (d : Nat) (h : DieRec → DieRec) : (s.modDie d h).badRecords = s.badRecords := by rw [State.modDie_eq s d h]
@[simp] theorem State.modDie_tableNext (s : State) (d : Nat) (h : DieRec → DieRec) : (s.modDie d h).tableNext = s.tableNext := by rw [State.modDie_eq s d h]
@[simp] theorem State.modDie_interrupts (s : State) (d : Nat) (h : DieRec → DieRec) : (s.modDie d h).interrupts = s.interrupts := by rw [State.modDie_eq s d h]
@[simp] theorem State.modDie_completion (s : State) (d : Nat) (h : DieRec → DieRec) : (s.modDie d h).completion = s.completion := by rw [State.modDie_eq s d h]
@[simp] theorem State.modDie_monotonic (s : State) (d : Nat) (h : DieRec → DieRec) : (s.modDie d h).monotonic = s.monotonic := by rw [State.modDie_eq s d h]
@[simp] theorem State.modDie_order (s : State) (d : Nat) (h : DieRec → DieRec) : (s.modDie d h).order = s.order := by rw [State.modDie_eq s d h]
@[simp] theorem State.modDie_free (s : State) (d : Nat) (h : DieRec → DieRec) : (s.modDie d h).free = s.free := by rw [State.modDie_eq s d h]
@[simp] theorem State.modDie_cur (s : State) (d : Nat) (h : DieRec → DieRec) : (s.modDie d h).cur = s.cur := by rw [State.modDie_eq s d h]
@[simp] theorem State.modDie_agenda (s : State) (d : Nat) (h : DieRec → DieRec) : (s.modDie d h).agenda = s.agenda := by rw [State.modDie_eq s d h]

end Sys2Proof.Machine
end

