-- ==== Sys2Proof/Laws/Lookup.lean ====
section
/-! SUPPORT. What the lookups of gangs, groups and splits find after an update. -/

namespace Sys2Proof.Machine

/-- A lookup by a key in a list of which the elements of one key are changed. -/
theorem find?_mapKey {α : Type} (key : α → Nat) (h : α → α) (hk : ∀ x, key (h x) = key x) (k k' : Nat) (l : List α) :
    (l.map (fun x => if key x == k then h x else x)).find? (fun x => key x == k') =
      (l.find? (fun x => key x == k')).map (fun x => if k' = k then h x else x) := by
  induction l with
  | nil => rfl
  | cons x xs ih =>
    have hx : key (if key x == k then h x else x) = key x := by split <;> simp [hk]
    simp only [List.map_cons, List.find?_cons, hx]
    by_cases e : key x = k'
    · subst e
      simp
    · have e' : (key x == k') = false := by simpa using e
      rw [e', ih]

theorem gang?_modGang (s : State) (id id' : Nat) {h : Gang → Gang} (hid : ∀ g, (h g).id = g.id) :
    (s.modGang id h).gang? id' = (s.gang? id').map (fun g => if id' = id then h g else g) :=
  find?_mapKey Gang.id h hid id id' s.gangs

theorem gang?_modGang_same (s : State) (id : Nat) {h : Gang → Gang} (hid : ∀ g, (h g).id = g.id) :
    (s.modGang id h).gang? id = (s.gang? id).map h := by
  rw [gang?_modGang s id id hid]
  simp

theorem gang?_modGang_other (s : State) {id id' : Nat} (hne : id' ≠ id) {h : Gang → Gang} (hid : ∀ g, (h g).id = g.id) :
    (s.modGang id h).gang? id' = s.gang? id' := by
  rw [gang?_modGang s id id' hid]
  simp [hne]

theorem Gang.group?_modGroup (g : Gang) (slot slot' : Nat) {h : Group → Group} (hs : ∀ x, (h x).slot = x.slot) :
    (g.modGroup slot h).group? slot' = (g.group? slot').map (fun x => if slot' = slot then h x else x) :=
  find?_mapKey Group.slot h hs slot slot' g.groups

@[simp] theorem Gang.modGroup_id (g : Gang) (slot : Nat) (h : Group → Group) : (g.modGroup slot h).id = g.id := rfl
@[simp] theorem Gang.modGroup_handler (g : Gang) (slot : Nat) (h : Group → Group) : (g.modGroup slot h).handler = g.handler := rfl

theorem group?_modGroup (s : State) (gang slot gang' slot' : Nat) {h : Group → Group} (hs : ∀ x, (h x).slot = x.slot) :
    (s.modGroup gang slot h).group? gang' slot' =
      (s.group? gang' slot').map (fun x => if gang' = gang ∧ slot' = slot then h x else x) := by
  unfold State.group? State.modGroup
  rw [gang?_modGang s gang gang' (fun g => Gang.modGroup_id g slot h)]
  cases s.gang? gang' with
  | none => rfl
  | some g =>
    by_cases e : gang' = gang
    · simp [e, Gang.group?_modGroup g slot slot' hs]
    · simp [e]

theorem group?_modGroup_same (s : State) (gang slot : Nat) {h : Group → Group} (hs : ∀ x, (h x).slot = x.slot) :
    (s.modGroup gang slot h).group? gang slot = (s.group? gang slot).map h := by
  rw [group?_modGroup s gang slot gang slot hs]
  simp

theorem group?_modGroup_other (s : State) {gang slot gang' slot' : Nat} (hne : gang' ≠ gang ∨ slot' ≠ slot) {h : Group → Group}
    (hs : ∀ x, (h x).slot = x.slot) : (s.modGroup gang slot h).group? gang' slot' = s.group? gang' slot' := by
  rw [group?_modGroup s gang slot gang' slot' hs]
  have : ¬(gang' = gang ∧ slot' = slot) := fun e => hne.elim (fun k => k e.1) (fun k => k e.2)
  simp [this]

/-! ## Splits -/

@[simp] theorem Group.setSplit_slot (g : Group) (i : Nat) (sp : Option Split) : (g.setSplit i sp).slot = g.slot := by
  unfold Group.setSplit
  split <;> rfl

theorem Group.split?_setSplit (g : Group) (i j : Nat) (sp : Option Split) :
    (g.setSplit i sp).split? j = if i = j ∧ j < 4 then sp else g.split? j := by
  unfold Group.setSplit Group.split?
  by_cases hj : j < 4
  · by_cases hi : i < 4
    · by_cases e : i = j
      · subst e
        simp [hi]
      · simp [hi, hj, e, Vector.getElem_set_ne]
    · have : i ≠ j := by omega
      simp [hi, hj, this]
  · simp [hj]

/-- Two focuses name the same split: the handler split is its gang's, whatever the group. -/
def Focus.samePlace (f g : Focus) : Prop := f.gang = g.gang ∧ f.split = g.split ∧ (f.split = 4 ∨ f.group = g.group)

theorem split?_setSplit_same (s : State) {f : Focus} (sp : Option Split) (h : (s.split? f).isSome) : (s.setSplit f sp).split? f = sp := by
  unfold State.setSplit State.split? at *
  by_cases e : f.split = 4
  · simp only [e, if_true] at h ⊢
    rw [gang?_modGang_same s f.gang (h := fun g => { g with handler := sp }) (fun _ => rfl)]
    cases hg : s.gang? f.gang with
    | none => simp [hg] at h
    | some g => simp
  · simp only [e, if_false] at h ⊢
    rw [group?_modGroup_same s f.gang f.group (h := fun g => g.setSplit f.split sp) (fun _ => Group.setSplit_slot _ _ _)]
    cases hg : s.group? f.gang f.group with
    | none => simp [hg] at h
    | some g =>
      simp only [hg, Option.bind_some] at h
      have h4 : f.split < 4 := by
        by_contra hn
        simp [Group.split?, hn] at h
      simp [Group.split?_setSplit, h4]

theorem split?_setSplit_other (s : State) {f f' : Focus} (sp : Option Split) (h : ¬f.samePlace f') :
    (s.setSplit f sp).split? f' = s.split? f' := by
  unfold Focus.samePlace at h
  unfold State.setSplit State.split?
  by_cases e : f.split = 4
  · simp only [e, if_true]
    by_cases e' : f'.split = 4
    · have hne : f'.gang ≠ f.gang := fun k => h ⟨k.symm, by omega, Or.inl e⟩
      simp only [e', if_true]
      rw [gang?_modGang_other s hne (h := fun g => { g with handler := sp }) (fun _ => rfl)]
    · simp only [e', if_false]
      unfold State.group?
      rw [gang?_modGang s f.gang f'.gang (h := fun g => { g with handler := sp }) (fun _ => rfl)]
      cases s.gang? f'.gang with
      | none => rfl
      | some g => by_cases k : f'.gang = f.gang <;> simp [k, Gang.group?]
  · simp only [e, if_false]
    by_cases e' : f'.split = 4
    · simp only [e', if_true, State.modGroup]
      rw [gang?_modGang s f.gang f'.gang (fun g => Gang.modGroup_id g _ _)]
      cases s.gang? f'.gang with
      | none => rfl
      | some g => by_cases k : f'.gang = f.gang <;> simp [k]
    · simp only [e', if_false]
      rw [group?_modGroup s f.gang f.group f'.gang f'.group (fun _ => Group.setSplit_slot _ _ _)]
      cases s.group? f'.gang f'.group with
      | none => rfl
      | some g =>
        by_cases k : f'.gang = f.gang ∧ f'.group = f.group
        · have hne : ¬(f.split = f'.split ∧ f'.split < 4) := fun q => h ⟨k.1.symm, q.1, Or.inr k.2.symm⟩
          simp only [Option.map_some, Option.bind_some, if_pos k]
          rw [Group.split?_setSplit, if_neg hne]
        · simp [k]

theorem split?_modSplit_same (s : State) (f : Focus) (h : Split → Split) : (s.modSplit f h).split? f = (s.split? f).map h := by
  unfold State.modSplit
  cases e : s.split? f with
  | none => simp [e]
  | some sp => simp only [Option.map_some]; exact split?_setSplit_same s (some (h sp)) (by simp [e])

theorem split?_modSplit_other (s : State) {f f' : Focus} (h : Split → Split) (hne : ¬f.samePlace f') :
    (s.modSplit f h).split? f' = s.split? f' := by
  unfold State.modSplit
  cases s.split? f with
  | none => rfl
  | some sp => exact split?_setSplit_other s (some (h sp)) hne

end Sys2Proof.Machine
end

