-- ==== Sys2Proof/Laws/Issue.lean ====
section
/-! SUPPORT. Laws of issuing: what an instruction does when nothing stops it, when its body traps or stalls, and when its mask is empty. -/

namespace Sys2Proof.Machine

/-- The issue context of a split that issues. -/
theorem Issues.iss {s : State} {n : Need} {len : Nat} {c : Iss} (h : Issues s n len c) :
    s.iss? s.cur len = some { c with s := s, exec := c.sp.lanes } := by
  unfold State.iss?
  rw [h.gang, h.grp, h.sp]
  obtain ⟨-, hf, hl, -⟩ := h
  cases c
  simp_all

/-- An instruction that issues does what its body does. -/
theorem issueAt_issues {s : State} {n : Need} {len : Nat} {c : Iss} (h : Issues s n len c) (adv : Bool)
    (body : Iss → Except Stop State) :
    issueAt len n adv body s =
      match body c with
      | .ok t => .next (countIssue (if adv then advance t c.f len else t) c.f)
      | .error (.trap t) => .next (raiseTrap (s.trapCopy c none) c.f len c.exec t)
      | .error (.check t) => .next (raiseTrap (s.trapCopy c none) c.f len c.exec { t with addr := c.sp.pc })
      | .error (.walked s' t) => .next (raiseTrap (s'.trapCopy c none) c.f len c.exec t)
      | .error (.shared t) => .next (raiseTrap (s.trapCopy c (some t)) c.f len c.exec t)
      | .error (.hold w s') => .next (s'.modSplit c.f (fun sp => { sp with status := .stalled w false }))
      | .error (.stall w) =>
        .next (stallCheck ((countHold c w s).modSplit c.f (fun sp => { sp with status := .stalled w false })) c.f w) := by
  have hs : s.modSplit c.f Split.go = c.s := by rw [h.place]; exact h.state.symm
  have hb : ({ c with s := s.modSplit c.f Split.go, exec := c.sp.lanes &&& c.grp.guardMask n.g } : Iss) = c := by
    rw [hs, ← h.mask]
  have ha : c.sp.lanes &&& c.grp.guardMask n.g ≠ 0 := h.mask ▸ h.active
  unfold issueAt
  rw [h.iss]
  simp only [h.can, Bool.not_true, Bool.false_eq_true, if_false, h.need, ne_eq, not_true_eq_false, ha, h.ready, h.slack, hb]
  rw [← h.mask]
  all_goals
    cases body c with
    | ok t => rfl
    | error e => cases e <;> rfl

/-- The body completes and the PC advances. -/
theorem issue_ok {s : State} {i : Instr} {n : Need} {c : Iss} (h : Issues s n i.bytes c) {body : Iss → Except Stop State} {t : State}
    (hb : body c = .ok t) : issue i n body s = .next (t.after c) := by
  unfold issue
  rw [issueAt_issues h, hb]
  unfold State.after
  rw [h.len]
  rfl

/-- The body completes and has placed the PC. -/
theorem issueJump_ok {s : State} {i : Instr} {n : Need} {c : Iss} (h : Issues s n i.bytes c) {body : Iss → Except Stop State} {t : State}
    (hb : body c = .ok t) : issueJump i n body s = .next (t.jumped c) := by
  unfold issueJump
  rw [issueAt_issues h, hb]
  rfl

/-- A split may have come to wait for its own group. -/
theorem issueWait_ok {s : State} {i : Instr} {n : Need} {c : Iss} (h : Issues s n i.bytes c) {body : Iss → Except Stop State} {t : State}
    (hb : body c = .ok t) : issueWait i n body s = .next ((t.jumped c).deadlockCheck s.cur.gang s.cur.group) := by
  unfold issueWait
  rw [issueAt_issues h, hb]
  rfl

/-- A check of the body without an address of its own fails: the trap is raised at the instruction (02 R41). -/
theorem issue_check {s : State} {i : Instr} {n : Need} {c : Iss} (h : Issues s n i.bytes c) {body : Iss → Except Stop State} {k : TrapInfo}
    (hb : body c = .error (.check k)) :
    issue i n body s = .next (raiseTrap (s.trapCopy c none) c.f i.bytes c.exec { k with addr := c.sp.pc }) := by
  unfold issue
  rw [issueAt_issues h, hb]

/-- A split that can issue never stops the machine. -/
theorem issueAt_next {s : State} (hc : s.canIssue s.cur = true) (len : Nat) (n : Need) (adv : Bool) (body : Iss → Except Stop State) :
    ∃ t, issueAt len n adv body s = .next t := by
  have hi : ∃ x, s.iss? s.cur len = some x := by
    unfold State.canIssue at hc
    unfold State.iss?
    split at hc
    · exact ⟨_, rfl⟩
    · simp at hc
  obtain ⟨x, hx⟩ := hi
  unfold issueAt
  rw [hx]
  simp only [hc, Bool.not_true, Bool.false_eq_true, if_false]
  split
  · exact ⟨_, rfl⟩
  · split
    · exact ⟨_, rfl⟩
    · split
      · exact ⟨_, rfl⟩
      · split
        · exact ⟨_, rfl⟩
        · split <;> exact ⟨_, rfl⟩

end Sys2Proof.Machine
end

