-- ==== Sys2Proof/Laws/Uniform.lean ====
section
/-! SUPPORT. Laws of the uniform registers: what a split reads after a write (13 R243). -/

namespace Sys2Proof.Machine

/-! ## Entries -/

/-- Entries of one register. -/
theorem UEntry.same_refl (e : UEntry) : e.same e = true := by cases e <;> simp [UEntry.same]

theorem UEntry.same_symm (e e' : UEntry) : e.same e' = e'.same e := by
  cases e <;> cases e' <;> simp [UEntry.same, eq_comm, Bool.beq_eq_decide_eq]

theorem findSome?_replaceFirst_same {α : Type} {q : UEntry → Option α} {e : UEntry} {v : α} (hv : q e = some v) {l : List UEntry}
    (hq : ∀ x, x.same e = false → q x = none) (h : l.any (fun x => x.same e) = true) :
    (replaceFirst (fun x => x.same e) e l).findSome? q = some v := by
  induction l with
  | nil => simp at h
  | cons x xs ih =>
    unfold replaceFirst
    by_cases hx : x.same e = true
    · simp [hx, hv]
    · have hf : x.same e = false := by simpa using hx
      simp only [hf, Bool.false_eq_true, if_false, List.findSome?_cons, hq x hf]
      exact ih (by simpa [hf] using h)

theorem findSome?_replaceFirst_other {α : Type} {q : UEntry → Option α} {e : UEntry} (hq : ∀ x, x.same e = true → q x = none)
    (l : List UEntry) : (replaceFirst (fun x => x.same e) e l).findSome? q = l.findSome? q := by
  induction l with
  | nil => rfl
  | cons x xs ih =>
    unfold replaceFirst
    by_cases hx : x.same e = true
    · simp [hx, hq x hx, hq e (UEntry.same_refl e)]
    · have hf : x.same e = false := by simpa using hx
      simp [hf, List.findSome?_cons, ih]

theorem findSome?_absent {α : Type} {q : UEntry → Option α} {e : UEntry} (hq : ∀ x, x.same e = false → q x = none) {l : List UEntry}
    (h : l.any (fun x => x.same e) = false) : l.findSome? q = none := by
  rw [List.findSome?_eq_none_iff]
  intro x hx
  refine hq x ?_
  simpa using (List.any_eq_false.mp h x hx)

/-- A register of the group after the shadows of a split are copied into it: the split's value. -/
theorem foldr_putEntry {α : Type} {q : UEntry → Option α} {get : Group → α}
    (hs : ∀ (g : Group) x v, q x = some v → get (g.putEntry x) = v) (ho : ∀ (g : Group) x, q x = none → get (g.putEntry x) = get g)
    (g : Group) (l : List UEntry) :
    get (l.foldr (fun x g => g.putEntry x) g) = match l.findSome? q with
      | some v => v
      | none => get g := by
  induction l with
  | nil => rfl
  | cons x xs ih =>
    rw [List.foldr_cons, List.findSome?_cons]
    cases hx : q x with
    | none => simp only [ho _ x hx, ih]
    | some v => simp only [hs _ x v hx]

@[simp] theorem Group.putEntry_slot (g : Group) (e : UEntry) : (g.putEntry e).slot = g.slot := by
  cases e <;> simp only [Group.putEntry]
  split <;> rfl

@[simp] theorem Group.foldr_putEntry_slot (g : Group) (l : List UEntry) :
    (l.foldr (fun x g => g.putEntry x) g).slot = g.slot := by
  induction l with
  | nil => rfl
  | cons x xs ih => simp [ih]

@[simp] theorem Group.putEntry_splits (g : Group) (e : UEntry) : (g.putEntry e).splits = g.splits := by
  cases e <;> simp only [Group.putEntry]
  split <;> rfl

@[simp] theorem Group.foldr_putEntry_splits (g : Group) (l : List UEntry) :
    (l.foldr (fun x g => g.putEntry x) g).splits = g.splits := by
  induction l with
  | nil => rfl
  | cons x xs ih => simp [ih]

/-! ## What a split reads, as one function of the register -/

/-- A way to look a register up: in the shadows by `q`, else in the group by `get`. -/
structure Reader (α : Type) where
  q : UEntry → Option α
  get : Group → α
  key : UEntry → Bool
  hs : ∀ (g : Group) x v, q x = some v → get (g.putEntry x) = v
  ho : ∀ (g : Group) x, q x = none → get (g.putEntry x) = get g
  hk : ∀ e, key e = true → (q e).isSome = true ∧ ∀ x, x.same e = false → q x = none
  hn : ∀ e, key e = false → ∀ x, x.same e = true → q x = none
  hc : ∀ (g g' : Group), g.s = g'.s → g.up = g'.up → g.m = g'.m → get g = get g'

def Reader.read {α : Type} (R : Reader α) (g : Group) (sp : Split) : α :=
  match sp.shadows.findSome? R.q with
  | some v => v
  | none => R.get g

/-- A reader of a split of the machine. -/
def Reader.at_ {α : Type} (R : Reader α) (s : State) (f : Focus) : Option α :=
  match s.group? f.gang f.group, s.split? f with
  | some g, some sp => some (R.read g sp)
  | _, _ => none

theorem Reader.get_putEntry_same {α : Type} (R : Reader α) (g : Group) {e : UEntry} {v : α} (h : R.q e = some v) :
    R.get (g.putEntry e) = v := R.hs g e v h

/-- The reader sees nothing but the registers of the group. -/
theorem Reader.get_setSplit {α : Type} (R : Reader α) (g : Group) (i : Nat) (sp : Option Split) : R.get (g.setSplit i sp) = R.get g := by
  unfold Group.setSplit
  split
  · exact R.hc _ _ rfl rfl rfl
  · rfl

/-- The group a focus names, after its split is set. -/
theorem group?_setSplit (s : State) (f : Focus) (sp : Option Split) (gang slot : Nat) :
    (s.setSplit f sp).group? gang slot =
      if f.split = 4 then s.group? gang slot
      else (s.group? gang slot).map (fun g => if gang = f.gang ∧ slot = f.group then g.setSplit f.split sp else g) := by
  unfold State.setSplit
  by_cases e : f.split = 4
  · simp only [e, if_true]
    unfold State.group?
    rw [gang?_modGang s f.gang gang (h := fun g => { g with handler := sp }) (fun _ => rfl)]
    cases s.gang? gang with
    | none => rfl
    | some g => by_cases k : gang = f.gang <;> simp [k, Gang.group?]
  · simp only [e, if_false]
    exact group?_modGroup s f.gang f.group gang slot (fun _ => Group.setSplit_slot _ _ _)

theorem group?_modCore (s : State) (c : Nat) (h : CoreRec → CoreRec) (gang slot : Nat) : (s.modCore c h).group? gang slot = s.group? gang slot := rfl
theorem split?_modCore (s : State) (c : Nat) (h : CoreRec → CoreRec) (f : Focus) : (s.modCore c h).split? f = s.split? f := rfl

/-- A group changed by a function that leaves its splits alone. -/
theorem split?_modGroup_keep (s : State) (gang slot : Nat) {h : Group → Group} (hs : ∀ x, (h x).slot = x.slot)
    (hp : ∀ x, (h x).splits = x.splits) (f : Focus) : (s.modGroup gang slot h).split? f = s.split? f := by
  unfold State.split?
  by_cases e : f.split = 4
  · simp only [e, if_true, State.modGroup]
    rw [gang?_modGang s gang f.gang (fun g => Gang.modGroup_id g _ _)]
    cases s.gang? f.gang with
    | none => rfl
    | some g => by_cases k : f.gang = gang <;> simp [k]
  · simp only [e, if_false]
    rw [group?_modGroup s gang slot f.gang f.group hs]
    cases s.group? f.gang f.group with
    | none => rfl
    | some g => by_cases k : f.gang = gang ∧ f.group = slot <;> simp [k, Group.split?, hp]

theorem Focus.samePlace_refl (f : Focus) : f.samePlace f := ⟨rfl, rfl, Or.inr rfl⟩

/-- A reader of a split after the split itself is replaced. -/
theorem Reader.at_setSplit {α : Type} (R : Reader α) {s : State} {f : Focus} {g : Group} {sp sp' : Split}
    (hg : s.group? f.gang f.group = some g) (hs : s.split? f = some sp) :
    R.at_ (s.setSplit f (some sp')) f = some (R.read g sp') := by
  unfold Reader.at_
  rw [split?_setSplit_same s (some sp') (by simp [hs]), group?_setSplit, hg]
  by_cases e : f.split = 4
  · simp [e]
  · simp [e, Reader.read, R.get_setSplit]

/-- A reader of a split after its group's registers are written. -/
theorem Reader.at_modGroup {α : Type} (R : Reader α) {s : State} {f : Focus} {g : Group} {sp : Split} {h : Group → Group}
    (hs : ∀ x, (h x).slot = x.slot) (hp : ∀ x, (h x).splits = x.splits) (hg : s.group? f.gang f.group = some g)
    (hsp : s.split? f = some sp) : R.at_ (s.modGroup f.gang f.group h) f = some (R.read (h g) sp) := by
  unfold Reader.at_
  rw [group?_modGroup_same s f.gang f.group hs, split?_modGroup_keep s f.gang f.group hs hp f, hg, hsp]
  rfl

theorem Reader.at_eq {α : Type} (R : Reader α) {s : State} {f : Focus} {g : Group} {sp : Split}
    (hg : s.group? f.gang f.group = some g) (hsp : s.split? f = some sp) : R.at_ s f = some (R.read g sp) := by
  unfold Reader.at_
  rw [hg, hsp]

theorem gang?_of_group? {s : State} {gang slot : Nat} {x : Group} (h : s.group? gang slot = some x) : ∃ g, s.gang? gang = some g := by
  unfold State.group? at h
  cases e : s.gang? gang with
  | none => simp [e] at h
  | some g => exact ⟨g, rfl⟩

/-- After a write, the split reads the value in the register that was written, and every other register as before. -/
theorem Reader.at_writeU {α : Type} (R : Reader α) {s : State} {f : Focus} {g : Group} {sp : Split} (e : UEntry)
    (hg : s.group? f.gang f.group = some g) (hsp : s.split? f = some sp) :
    R.at_ (s.writeU f e) f = some (if R.key e then (R.q e).getD (R.read g sp) else R.read g sp) := by
  obtain ⟨gang, hgang⟩ := gang?_of_group? hg
  have hput : ∀ (g' : Group), (∀ x, x.same e = true → R.q x = none) → R.get (g'.putEntry e) = R.get g' :=
    fun g' hq => R.ho g' e (hq e (UEntry.same_refl e))
  unfold State.writeU
  rw [hgang, hg, hsp]
  simp only
  by_cases h1 : sp.shadows.any (fun x => x.same e) = true
  · rw [if_pos h1, R.at_setSplit hg hsp]
    congr 1
    by_cases hk : R.key e = true
    · obtain ⟨hv, hq⟩ := R.hk e hk
      obtain ⟨v, hv⟩ := Option.isSome_iff_exists.mp hv
      simp [hk, Reader.read, findSome?_replaceFirst_same hv hq h1, hv]
    · have hf : R.key e = false := by simpa using hk
      simp [hf, Reader.read, findSome?_replaceFirst_other (R.hn e hf)]
  · have h1f : sp.shadows.any (fun x => x.same e) = false := by simpa using h1
    rw [if_neg h1]
    -- a write of the group's registers
    have hgrp : ∀ (g' : Group) (l : List UEntry), l = sp.shadows ∨ (l = [] ∧ R.get g' = R.read g sp) → (l = sp.shadows → R.get g' = R.get g) →
        (match l.findSome? R.q with
          | some v => v
          | none => R.get (g'.putEntry e)) = if R.key e then (R.q e).getD (R.read g sp) else R.read g sp := by
      intro g' l hl hsame
      by_cases hk : R.key e = true
      · obtain ⟨hv, hq⟩ := R.hk e hk
        obtain ⟨v, hv⟩ := Option.isSome_iff_exists.mp hv
        have hno : l.findSome? R.q = none := by
          rcases hl with hl | hl
          · rw [hl]; exact findSome?_absent hq h1f
          · rw [hl.1]; rfl
        rw [hno, if_pos hk, R.hs g' e v hv, hv]
        rfl
      · have hf : R.key e = false := by simpa using hk
        rw [hput g' (R.hn e hf)]
        simp only [hf, Bool.false_eq_true, if_false]
        rcases hl with hl | hl
        · rw [hsame hl, hl]; rfl
        · rw [hl.1]; exact hl.2
    by_cases h2 : (decide (f.split = 4) || !g.divergent) = true
    · rw [if_pos (by simpa using h2), R.at_modGroup (h := fun g => g.putEntry e) (fun x => Group.putEntry_slot x e)
        (fun x => Group.putEntry_splits x e) hg hsp]
      exact congrArg some (hgrp g sp.shadows (Or.inl rfl) (fun _ => rfl))
    · rw [if_neg (by simpa using h2)]
      by_cases h3 : ((g.serial.map Fin.val) == some f.split) = true
      · rw [if_pos h3]
        have hg' : (s.modGroup f.gang f.group (fun g => g.putEntry e)).group? f.gang f.group = some (g.putEntry e) := by
          rw [group?_modGroup_same s f.gang f.group (h := fun g => g.putEntry e) (fun x => Group.putEntry_slot x e), hg]; rfl
        have hs' : (s.modGroup f.gang f.group (fun g => g.putEntry e)).split? f = some sp := by
          rw [split?_modGroup_keep s f.gang f.group (h := fun g => g.putEntry e) (fun x => Group.putEntry_slot x e)
            (fun x => Group.putEntry_splits x e), hsp]
        rw [R.at_setSplit hg' hs']
        exact congrArg some (hgrp g sp.shadows (Or.inl rfl) (fun _ => rfl))
      · rw [if_neg h3]
        by_cases h4 : sp.shadows.length < 16
        · rw [if_pos h4, R.at_setSplit hg hsp]
          congr 1
          by_cases hk : R.key e = true
          · obtain ⟨hv, hq⟩ := R.hk e hk
            obtain ⟨v, hv⟩ := Option.isSome_iff_exists.mp hv
            simp [hk, Reader.read, List.findSome?_append, findSome?_absent hq h1f, hv]
          · have hf : R.key e = false := by simpa using hk
            simp [hf, Reader.read, List.findSome?_append, R.hn e hf e (UEntry.same_refl e)]
        · rw [if_neg h4]
          set h : Group → Group := fun g =>
            { (sp.shadows.foldr (fun x g => g.putEntry x) g).putEntry e with
              serial := if h : f.split < 4 then some ⟨f.split, h⟩ else none } with hdef
          have hslot : ∀ x, (h x).slot = x.slot := by intro x; simp [hdef]
          have hspl : ∀ x, (h x).splits = x.splits := by intro x; simp [hdef]
          have hg' : (s.modGroup f.gang f.group h).group? f.gang f.group = some (h g) := by
            rw [group?_modGroup_same s f.gang f.group hslot, hg]; rfl
          have hs' : (s.modGroup f.gang f.group h).split? f = some sp := by
            rw [split?_modGroup_keep s f.gang f.group hslot hspl, hsp]
          have hnew : ∀ (w : List UEntry) (u : CoreRec → CoreRec),
              R.at_ (((s.modGroup f.gang f.group h).setSplit f (some { sp with shadows := [], written := w })).modCore gang.core u) f =
                some (R.read (h g) { sp with shadows := [], written := w }) :=
            fun w u => R.at_setSplit (sp' := { sp with shadows := [], written := w }) hg' hs'
          rw [hnew]
          have hserial : R.get (h g) = R.get ((sp.shadows.foldr (fun x g => g.putEntry x) g).putEntry e) :=
            R.hc _ _ rfl rfl rfl
          have hall : R.get (sp.shadows.foldr (fun x g => g.putEntry x) g) = R.read g sp :=
            foldr_putEntry R.hs R.ho g sp.shadows
          have := hgrp (sp.shadows.foldr (fun x g => g.putEntry x) g) [] (Or.inr ⟨rfl, hall⟩) (fun hl => by
            rw [← hl]; rfl)
          simp only [List.findSome?_nil] at this
          simp only [Reader.read, List.findSome?_nil, hserial]
          exact congrArg some this

/-! ## The three kinds of registers -/

/-- The reader of an s register. -/
def sReader (r : SReg) : Reader Word where
  q := fun e => match e with
    | .s r' v => if r' = r then some v else none
    | _ => none
  get := fun g => g.s[r.val]
  key := fun e => match e with
    | .s r' _ => r' == r
    | _ => false
  hs := by
    intro g x v h
    cases x with
    | s r' w =>
      by_cases e : r' = r
      · subst e; simpa [Group.putEntry] using h
      · simp [e] at h
    | up r' w => simp at h
    | m r' w => simp at h
  ho := by
    intro g x h
    cases x with
    | s r' w =>
      have e : r'.val ≠ r.val := by
        intro e
        simp [Fin.ext e] at h
      simp [Group.putEntry, Vector.getElem_set_ne, e]
    | up r' w => simp only [Group.putEntry]; split <;> rfl
    | m r' w => rfl
  hk := by
    intro e he
    cases e with
    | s r' w =>
      have : r' = r := by simpa using he
      subst this
      refine ⟨by simp, ?_⟩
      intro x hx
      cases x with
      | s r'' w' => simpa [UEntry.same] using hx
      | up _ _ => rfl
      | m _ _ => rfl
    | up _ _ => simp at he
    | m _ _ => simp at he
  hn := by
    intro e he x hx
    cases x with
    | s r'' w' =>
      cases e with
      | s r' w =>
        have h1 : r'' = r' := by simpa [UEntry.same] using hx
        have h2 : ¬r' = r := by simpa using he
        simp [h1, h2]
      | up _ _ => simp [UEntry.same] at hx
      | m _ _ => simp [UEntry.same] at hx
    | up _ _ => rfl
    | m _ _ => rfl
  hc := by intro g g' h _ _; simp only [h]

/-- The reader of a uniform predicate other than up0. -/
def upReader (r : UPReg) (h0 : r ≠ 0) : Reader Bool where
  q := fun e => match e with
    | .up r' v => if r' = r then some v else none
    | _ => none
  get := fun g => g.up[r.val]
  key := fun e => match e with
    | .up r' _ => r' == r
    | _ => false
  hs := by
    intro g x v h
    cases x with
    | up r' w =>
      by_cases e : r' = r
      · subst e; simpa [Group.putEntry, h0] using h
      · simp [e] at h
    | s r' w => simp at h
    | m r' w => simp at h
  ho := by
    intro g x h
    cases x with
    | up r' w =>
      have e : r'.val ≠ r.val := by
        intro e
        simp [Fin.ext e] at h
      simp only [Group.putEntry]
      split
      · rfl
      · simp [Vector.getElem_set_ne, e]
    | s r' w => rfl
    | m r' w => rfl
  hk := by
    intro e he
    cases e with
    | up r' w =>
      have : r' = r := by simpa using he
      subst this
      refine ⟨by simp, ?_⟩
      intro x hx
      cases x with
      | up r'' w' => simpa [UEntry.same] using hx
      | s _ _ => rfl
      | m _ _ => rfl
    | s _ _ => simp at he
    | m _ _ => simp at he
  hn := by
    intro e he x hx
    cases x with
    | up r'' w' =>
      cases e with
      | up r' w =>
        have h1 : r'' = r' := by simpa [UEntry.same] using hx
        have h2 : ¬r' = r := by simpa using he
        simp [h1, h2]
      | s _ _ => simp [UEntry.same] at hx
      | m _ _ => simp [UEntry.same] at hx
    | s _ _ => rfl
    | m _ _ => rfl
  hc := by intro g g' _ h _; simp only [h]

/-- The reader of a modulo register. -/
def mReader (r : MReg) : Reader ModReg where
  q := fun e => match e with
    | .m r' v => if r' = r then some v else none
    | _ => none
  get := fun g => g.m[r.val]
  key := fun e => match e with
    | .m r' _ => r' == r
    | _ => false
  hs := by
    intro g x v h
    cases x with
    | m r' w =>
      by_cases e : r' = r
      · subst e; simpa [Group.putEntry] using h
      · simp [e] at h
    | up r' w => simp at h
    | s r' w => simp at h
  ho := by
    intro g x h
    cases x with
    | m r' w =>
      have e : r'.val ≠ r.val := by
        intro e
        simp [Fin.ext e] at h
      simp [Group.putEntry, Vector.getElem_set_ne, e]
    | up r' w => simp only [Group.putEntry]; split <;> rfl
    | s r' w => rfl
  hk := by
    intro e he
    cases e with
    | m r' w =>
      have : r' = r := by simpa using he
      subst this
      refine ⟨by simp, ?_⟩
      intro x hx
      cases x with
      | m r'' w' => simpa [UEntry.same] using hx
      | up _ _ => rfl
      | s _ _ => rfl
    | up _ _ => simp at he
    | s _ _ => simp at he
  hn := by
    intro e he x hx
    cases x with
    | m r'' w' =>
      cases e with
      | m r' w =>
        have h1 : r'' = r' := by simpa [UEntry.same] using hx
        have h2 : ¬r' = r := by simpa using he
        simp [h1, h2]
      | up _ _ => simp [UEntry.same] at hx
      | s _ _ => simp [UEntry.same] at hx
    | up _ _ => rfl
    | s _ _ => rfl
  hc := by intro g g' _ _ h; simp only [h]

theorem readS_eq (g : Group) (sp : Split) (r : SReg) : g.readS sp r = (sReader r).read g sp := by
  unfold Group.readS Reader.read
  generalize sp.shadows = l
  induction l with
  | nil => rfl
  | cons x xs ih =>
    cases x with
    | s r' v =>
      by_cases e : r' = r
      · simp [sReader, e]
      · simpa [List.findSome?_cons, sReader, e] using ih
    | up _ _ => simpa [List.findSome?_cons, sReader] using ih
    | m _ _ => simpa [List.findSome?_cons, sReader] using ih

theorem readUp_eq (g : Group) (sp : Split) (r : UPReg) (h : r ≠ 0) : g.readUp sp r = (upReader r h).read g sp := by
  unfold Group.readUp Reader.read
  rw [if_neg h]
  generalize sp.shadows = l
  induction l with
  | nil => rfl
  | cons x xs ih =>
    cases x with
    | up r' v =>
      by_cases e : r' = r
      · simp [upReader, e]
      · simpa [List.findSome?_cons, upReader, e] using ih
    | s _ _ => simpa [List.findSome?_cons, upReader] using ih
    | m _ _ => simpa [List.findSome?_cons, upReader] using ih

theorem readM_eq (g : Group) (sp : Split) (r : MReg) : g.readM sp r = (mReader r).read g sp := by
  unfold Group.readM Reader.read
  generalize sp.shadows = l
  induction l with
  | nil => rfl
  | cons x xs ih =>
    cases x with
    | m r' v =>
      by_cases e : r' = r
      · simp [mReader, e]
      · simpa [List.findSome?_cons, mReader, e] using ih
    | s _ _ => simpa [List.findSome?_cons, mReader] using ih
    | up _ _ => simpa [List.findSome?_cons, mReader] using ih

theorem sAt_eq (s : State) (f : Focus) (r : SReg) : s.sAt f r = ((sReader r).at_ s f).getD 0 := by
  unfold State.sAt Reader.at_
  cases s.group? f.gang f.group <;> cases s.split? f <;> simp [readS_eq]

theorem upAt_eq (s : State) (f : Focus) (r : UPReg) (h : r ≠ 0) : s.upAt f r = ((upReader r h).at_ s f).getD false := by
  unfold State.upAt Reader.at_
  cases s.group? f.gang f.group <;> cases s.split? f <;> simp [readUp_eq _ _ _ h]

theorem mAt_eq (s : State) (f : Focus) (r : MReg) : s.mAt f r = (mReader r).at_ s f := by
  unfold State.mAt Reader.at_
  cases s.group? f.gang f.group <;> cases s.split? f <;> simp [readM_eq]

/-- up0 reads as true wherever there is a split (02 R29). -/
theorem upAt_zero {s : State} {f : Focus} {g : Group} {sp : Split} (hg : s.group? f.gang f.group = some g) (hs : s.split? f = some sp) :
    s.upAt f 0 = true := by
  unfold State.upAt
  rw [hg, hs]
  rfl

/-- The split reads what was written to an s register. -/
theorem sAt_writeU_same {s : State} {f : Focus} {g : Group} {sp : Split} (hg : s.group? f.gang f.group = some g)
    (hs : s.split? f = some sp) (r : SReg) (v : Word) : (s.writeU f (.s r v)).sAt f r = v := by
  rw [sAt_eq, (sReader r).at_writeU (.s r v) hg hs]
  simp [sReader]

/-- Every other s register reads as before. -/
theorem sAt_writeU_other {s : State} {f : Focus} {g : Group} {sp : Split} (hg : s.group? f.gang f.group = some g)
    (hs : s.split? f = some sp) (e : UEntry) (r : SReg) (h : ∀ v, e ≠ .s r v) : (s.writeU f e).sAt f r = s.sAt f r := by
  rw [sAt_eq, sAt_eq, (sReader r).at_writeU e hg hs, (sReader r).at_eq hg hs]
  have hk : (sReader r).key e = false := by
    cases e with
    | s r' w =>
      have : r' ≠ r := fun k => h w (by rw [k])
      simpa [sReader] using this
    | up _ _ => rfl
    | m _ _ => rfl
  simp [hk]

/-- The split reads what was written to a uniform predicate. -/
theorem upAt_writeU_same {s : State} {f : Focus} {g : Group} {sp : Split} (hg : s.group? f.gang f.group = some g)
    (hs : s.split? f = some sp) (r : UPReg) (v : Bool) (h0 : r ≠ 0) : (s.writeU f (.up r v)).upAt f r = v := by
  rw [upAt_eq _ _ _ h0, (upReader r h0).at_writeU (.up r v) hg hs]
  simp [upReader]

/-- The write of an entry leaves the split and the group in place. -/
theorem lookups_writeU {s : State} {f : Focus} {g : Group} {sp : Split} (hg : s.group? f.gang f.group = some g)
    (hs : s.split? f = some sp) (e : UEntry) :
    (∃ g', (s.writeU f e).group? f.gang f.group = some g') ∧ ∃ sp', (s.writeU f e).split? f = some sp' := by
  have h := (mReader 0).at_writeU e hg hs
  unfold Reader.at_ at h
  cases hg' : (s.writeU f e).group? f.gang f.group with
  | none => simp [hg'] at h
  | some g' =>
    cases hs' : (s.writeU f e).split? f with
    | none => simp [hg', hs'] at h
    | some sp' => exact ⟨⟨g', rfl⟩, ⟨sp', rfl⟩⟩

theorem upAt_writeU_other {s : State} {f : Focus} {g : Group} {sp : Split} (hg : s.group? f.gang f.group = some g)
    (hs : s.split? f = some sp) (e : UEntry) (r : UPReg) (h : r = 0 ∨ ∀ v, e ≠ .up r v) : (s.writeU f e).upAt f r = s.upAt f r := by
  by_cases h0 : r = 0
  · subst h0
    obtain ⟨⟨g', hg'⟩, ⟨sp', hs'⟩⟩ := lookups_writeU hg hs e
    rw [upAt_zero hg hs, upAt_zero hg' hs']
  · rw [upAt_eq _ _ _ h0, upAt_eq _ _ _ h0, (upReader r h0).at_writeU e hg hs, (upReader r h0).at_eq hg hs]
    have hk : (upReader r h0).key e = false := by
      cases e with
      | up r' w =>
        have : r' ≠ r := fun k => (h.resolve_left h0) w (by rw [k])
        simpa [upReader] using this
      | s _ _ => rfl
      | m _ _ => rfl
    simp [hk]

/-- The split reads what was written to a modulo register. -/
theorem mAt_writeU_same {s : State} {f : Focus} {g : Group} {sp : Split} (hg : s.group? f.gang f.group = some g)
    (hs : s.split? f = some sp) (r : MReg) (v : ModReg) : (s.writeU f (.m r v)).mAt f r = some v := by
  rw [mAt_eq, (mReader r).at_writeU (.m r v) hg hs]
  simp [mReader]

theorem mAt_writeU_other {s : State} {f : Focus} {g : Group} {sp : Split} (hg : s.group? f.gang f.group = some g)
    (hs : s.split? f = some sp) (e : UEntry) (r : MReg) (h : ∀ v, e ≠ .m r v) : (s.writeU f e).mAt f r = s.mAt f r := by
  rw [mAt_eq, mAt_eq, (mReader r).at_writeU e hg hs, (mReader r).at_eq hg hs]
  have hk : (mReader r).key e = false := by
    cases e with
    | m r' w =>
      have : r' ≠ r := fun k => h w (by rw [k])
      simpa [mReader] using this
    | up _ _ => rfl
    | s _ _ => rfl
  simp [hk]

/-! ## What a write leaves alone -/

theorem gangsOnly_refl (s : State) : gangsOnly s s := ⟨s.gangs, s.cores, rfl⟩

theorem gangsOnly_trans {s t u : State} (h : gangsOnly s t) (k : gangsOnly t u) : gangsOnly s u := by
  obtain ⟨_, _, rfl⟩ := h
  obtain ⟨gs, cs, rfl⟩ := k
  exact ⟨gs, cs, rfl⟩

theorem modGang_gangsOnly (s : State) (id : Nat) (h : Gang → Gang) : gangsOnly s (s.modGang id h) := ⟨_, s.cores, rfl⟩
theorem modGroup_gangsOnly (s : State) (gang slot : Nat) (h : Group → Group) : gangsOnly s (s.modGroup gang slot h) := ⟨_, s.cores, rfl⟩
theorem modCore_gangsOnly (s : State) (c : Nat) (h : CoreRec → CoreRec) : gangsOnly s (s.modCore c h) := ⟨s.gangs, _, rfl⟩

theorem setSplit_gangsOnly (s : State) (f : Focus) (sp : Option Split) : gangsOnly s (s.setSplit f sp) := by
  unfold State.setSplit
  split
  · exact modGang_gangsOnly s _ _
  · exact modGroup_gangsOnly s _ _ _

theorem modSplit_gangsOnly (s : State) (f : Focus) (h : Split → Split) : gangsOnly s (s.modSplit f h) := by
  unfold State.modSplit
  split
  · exact setSplit_gangsOnly s _ _
  · exact gangsOnly_refl s

/-- A write changes nothing outside the gangs and the cores. -/
theorem writeU_gangsOnly (s : State) (f : Focus) (e : UEntry) : gangsOnly s (s.writeU f e) := by
  unfold State.writeU
  split
  · split
    · exact setSplit_gangsOnly s _ _
    · split
      · exact modGroup_gangsOnly s _ _ _
      · split
        · exact gangsOnly_trans (modGroup_gangsOnly s _ _ _) (setSplit_gangsOnly _ _ _)
        · split
          · exact setSplit_gangsOnly s _ _
          · exact gangsOnly_trans (gangsOnly_trans (modGroup_gangsOnly s _ _ _) (setSplit_gangsOnly _ _ _)) (modCore_gangsOnly _ _ _)
  · exact gangsOnly_refl s

end Sys2Proof.Machine
end

