-- ==== Sys2Proof/Laws/Frame.lean ====
section
/-! SUPPORT. What the shared parts of an instruction leave alone: the advance of the PC, the count of the issue, a trap. -/

namespace Sys2Proof.Machine

/-! ## Lookups -/

theorem group?_modGang_keep (s : State) (id : Nat) {h : Gang → Gang} (hid : ∀ g, (h g).id = g.id) (hg : ∀ g, (h g).groups = g.groups)
    (gang slot : Nat) : (s.modGang id h).group? gang slot = s.group? gang slot := by
  unfold State.group?
  rw [gang?_modGang s id gang hid]
  cases s.gang? gang with
  | none => rfl
  | some g => by_cases k : gang = id <;> simp [k, Gang.group?, hg]

theorem split?_modGang_keep (s : State) (id : Nat) {h : Gang → Gang} (hid : ∀ g, (h g).id = g.id) (hg : ∀ g, (h g).groups = g.groups)
    (hh : ∀ g, (h g).handler = g.handler) (f : Focus) : (s.modGang id h).split? f = s.split? f := by
  unfold State.split?
  by_cases e : f.split = 4
  · simp only [e, if_true]
    rw [gang?_modGang s id f.gang hid]
    cases s.gang? f.gang with
    | none => rfl
    | some g => by_cases k : f.gang = id <;> simp [k, hh]
  · simp only [e, if_false]
    rw [group?_modGang_keep s id hid hg]

/-- A reader sees nothing of what leaves groups and handler splits alone. -/
theorem Reader.at_modGang {α : Type} (R : Reader α) (s : State) (id : Nat) {h : Gang → Gang} (hid : ∀ g, (h g).id = g.id)
    (hg : ∀ g, (h g).groups = g.groups) (hh : ∀ g, (h g).handler = g.handler) (f : Focus) :
    R.at_ (s.modGang id h) f = R.at_ s f := by
  unfold Reader.at_
  rw [group?_modGang_keep s id hid hg, split?_modGang_keep s id hid hg hh]

/-- A reader sees nothing of a change of a split other than that of its shadows. -/
theorem Reader.at_modSplit {α : Type} (R : Reader α) (s : State) (f : Focus) {h : Split → Split} (hs : ∀ sp, (h sp).shadows = sp.shadows)
    (f' : Focus) : R.at_ (s.modSplit f h) f' = R.at_ s f' := by
  unfold State.modSplit
  cases hsp : s.split? f with
  | none => rfl
  | some sp =>
    unfold Reader.at_
    have hspl : (s.setSplit f (some (h sp))).split? f' = s.split? f' ∨
        (s.split? f' = some sp ∧ (s.setSplit f (some (h sp))).split? f' = some (h sp)) := by
      by_cases hp : f.samePlace f'
      · refine Or.inr ?_
        obtain ⟨h1, h2, h3⟩ := hp
        have key : ∀ t : State, t.split? f' = t.split? f := by
          intro t
          unfold State.split?
          rw [← h1, ← h2]
          by_cases e : f.split = 4
          · simp [e]
          · rw [← h3.resolve_left e]
        exact ⟨by rw [key, hsp], by rw [key]; exact split?_setSplit_same s _ (by simp [hsp])⟩
      · exact Or.inl (split?_setSplit_other s _ hp)
    simp only
    rw [group?_setSplit]
    by_cases e : f.split = 4
    · rw [if_pos e]
      rcases hspl with hk | ⟨hk, hk'⟩
      · rw [hk]
      · rw [hk, hk']
        cases s.group? f'.gang f'.group <;> simp [Reader.read, hs]
    · rw [if_neg e]
      cases hg : s.group? f'.gang f'.group with
      | none => rfl
      | some g =>
        have hget : R.get (if f'.gang = f.gang ∧ f'.group = f.group then g.setSplit f.split (some (h sp)) else g) = R.get g := by
          split
          · exact R.get_setSplit g _ _
          · rfl
        rcases hspl with hk | ⟨hk, hk'⟩
        · rw [hk]
          cases s.split? f' with
          | none => rfl
          | some y => simp only [Option.map_some, Reader.read, hget]
        · rw [hk, hk']
          simp only [Option.map_some, Reader.read, hget, hs]

/-- A reader sees nothing of a change of a group that leaves its registers and its splits' shadows alone. -/
theorem Reader.at_modGroup_keep {α : Type} (R : Reader α) (s : State) (gang slot : Nat) {h : Group → Group} (hs : ∀ x, (h x).slot = x.slot)
    (h1 : ∀ x, (h x).s = x.s) (h2 : ∀ x, (h x).up = x.up) (h3 : ∀ x, (h x).m = x.m) {k : Split → Split}
    (hk : ∀ sp, (k sp).shadows = sp.shadows) (hsp : ∀ x i, (h x).split? i = (x.split? i).map k) (f : Focus) :
    R.at_ (s.modGroup gang slot h) f = R.at_ s f := by
  have hget : ∀ x, R.get (h x) = R.get x := fun x => R.hc _ _ (h1 x) (h2 x) (h3 x)
  unfold Reader.at_
  have hspl : (s.modGroup gang slot h).split? f = s.split? f ∨ (s.modGroup gang slot h).split? f = (s.split? f).map k := by
    unfold State.split?
    by_cases e : f.split = 4
    · refine Or.inl ?_
      simp only [e, if_true, State.modGroup]
      rw [gang?_modGang s gang f.gang (fun g => Gang.modGroup_id g _ _)]
      cases s.gang? f.gang with
      | none => rfl
      | some g => by_cases q : f.gang = gang <;> simp [q]
    · simp only [e, if_false]
      rw [group?_modGroup s gang slot f.gang f.group hs]
      cases s.group? f.gang f.group with
      | none => exact Or.inl rfl
      | some g =>
        by_cases q : f.gang = gang ∧ f.group = slot
        · exact Or.inr (by simp [q, hsp])
        · exact Or.inl (by simp [q])
  rw [group?_modGroup s gang slot f.gang f.group hs]
  cases s.group? f.gang f.group with
  | none => rfl
  | some g =>
    have hg : R.get (if f.gang = gang ∧ f.group = slot then h g else g) = R.get g := by
      split
      · exact hget g
      · rfl
    rcases hspl with q | q <;> rw [q]
    · cases s.split? f with
      | none => rfl
      | some y => simp only [Option.map_some, Reader.read, hg]
    · cases s.split? f with
      | none => rfl
      | some y => simp only [Option.map_some, Reader.read, hg, hk]

@[simp] theorem Split.retry_shadows (sp : Split) : sp.retry.shadows = sp.shadows := by
  unfold Split.retry
  split <;> rfl

@[simp] theorem Split.go_shadows (sp : Split) : sp.go.shadows = sp.shadows := by
  unfold Split.go
  split <;> rfl

/-! ## The frame of an instruction -/

/-- The advance of the PC and the count of an issue change no register. -/
theorem Reader.at_advance {α : Type} (R : Reader α) (s : State) (f f' : Focus) (len : Nat) : R.at_ (advance s f len) f' = R.at_ s f' :=
  R.at_modSplit s f (h := fun sp => { sp with pc := sp.pc + BitVec.ofNat 64 len, joined := false }) (fun _ => rfl) f'

theorem Reader.at_countIssue {α : Type} (R : Reader α) (s : State) (f f' : Focus) : R.at_ (countIssue s f) f' = R.at_ s f' := by
  unfold countIssue
  rw [R.at_modGroup_keep (h := fun x => { x with issued := x.issued + 1, splits := x.splits.map (fun o => o.map Split.retry) })
    _ f.gang f.group (fun _ => rfl) (fun _ => rfl) (fun _ => rfl) (fun _ => rfl) Split.retry_shadows]
  · refine R.at_modGang s f.gang ?_ ?_ ?_ f' <;> intro g <;> rfl
  · intro x i
    unfold Group.split?
    by_cases h : i < 4 <;> simp [h]

theorem Reader.at_after {α : Type} (R : Reader α) (t : State) (c : Iss) (f : Focus) : R.at_ (t.after c) f = R.at_ t f := by
  unfold State.after
  rw [R.at_countIssue, R.at_advance]

theorem Reader.at_jumped {α : Type} (R : Reader α) (t : State) (c : Iss) (f : Focus) : R.at_ (t.jumped c) f = R.at_ t f :=
  R.at_countIssue t c.f f

@[simp] theorem sAt_after (t : State) (c : Iss) (f : Focus) (r : SReg) : (t.after c).sAt f r = t.sAt f r := by
  rw [sAt_eq, sAt_eq, Reader.at_after]

@[simp] theorem mAt_after (t : State) (c : Iss) (f : Focus) (r : MReg) : (t.after c).mAt f r = t.mAt f r := by
  rw [mAt_eq, mAt_eq, Reader.at_after]

/-- Whether the focus names a group and a split. -/
theorem upAt_zero_iff (s : State) (f : Focus) : s.upAt f 0 = ((mReader 0).at_ s f).isSome := by
  unfold State.upAt Reader.at_
  cases s.group? f.gang f.group <;> cases s.split? f <;> rfl

@[simp] theorem upAt_after (t : State) (c : Iss) (f : Focus) (r : UPReg) : (t.after c).upAt f r = t.upAt f r := by
  by_cases h : r = 0
  · subst h
    rw [upAt_zero_iff, upAt_zero_iff, Reader.at_after]
  · rw [upAt_eq _ _ _ h, upAt_eq _ _ _ h, Reader.at_after]

@[simp] theorem sAt_go (s : State) (f f' : Focus) (r : SReg) : (s.modSplit f Split.go).sAt f' r = s.sAt f' r := by
  rw [sAt_eq, sAt_eq, Reader.at_modSplit _ _ _ Split.go_shadows]

@[simp] theorem mAt_go (s : State) (f f' : Focus) (r : MReg) : (s.modSplit f Split.go).mAt f' r = s.mAt f' r := by
  rw [mAt_eq, mAt_eq, Reader.at_modSplit _ _ _ Split.go_shadows]

@[simp] theorem upAt_go (s : State) (f f' : Focus) (r : UPReg) : (s.modSplit f Split.go).upAt f' r = s.upAt f' r := by
  by_cases h : r = 0
  · subst h
    rw [upAt_zero_iff, upAt_zero_iff, Reader.at_modSplit _ _ _ Split.go_shadows]
  · rw [upAt_eq _ _ _ h, upAt_eq _ _ _ h, Reader.at_modSplit _ _ _ Split.go_shadows]

theorem advance_gangsOnly (s : State) (f : Focus) (len : Nat) : gangsOnly s (advance s f len) := modSplit_gangsOnly s _ _

theorem countIssue_gangsOnly (s : State) (f : Focus) : gangsOnly s (countIssue s f) :=
  gangsOnly_trans (modGang_gangsOnly s _ _) (modGroup_gangsOnly _ _ _ _)

theorem after_gangsOnly (t : State) (c : Iss) : gangsOnly t (t.after c) :=
  gangsOnly_trans (advance_gangsOnly t _ _) (countIssue_gangsOnly _ _)

theorem jumped_gangsOnly (t : State) (c : Iss) : gangsOnly t (t.jumped c) := countIssue_gangsOnly t _

/-- A trap changes nothing outside the gangs (16 R294). -/
theorem raiseTrap_gangsOnly (s : State) (f : Focus) (len : Nat) (m : LaneMask) (t : TrapInfo) : gangsOnly s (raiseTrap s f len m t) := by
  unfold raiseTrap
  split
  · split
    · split <;> exact modGang_gangsOnly s _ _
    · split
      · exact modSplit_gangsOnly s _ _
      · exact gangsOnly_trans (modGang_gangsOnly s _ _) (modSplit_gangsOnly _ _ _)
  · exact gangsOnly_refl s

theorem trapCopy_gangsOnly (s : State) (x : Iss) (t : Option TrapInfo) : gangsOnly s (s.trapCopy x t) := by
  unfold State.trapCopy State.forward State.modPair
  split
  · exact gangsOnly_refl s
  · simp only
    split
    · exact gangsOnly_trans (modGang_gangsOnly s _ _) (modGang_gangsOnly _ _ _)
    · exact modGang_gangsOnly s _ _

end Sys2Proof.Machine
end

