-- ==== Sys2Proof/Laws/Kept.lean ====
section
/-! SUPPORT. What the shared parts of an instruction keep: the frame `Kept`, and the PC of the issuing split. -/

namespace Sys2Proof.Machine

@[simp] theorem Split.retry_retry (a : Split) : a.retry.retry = a.retry := by
  unfold Split.retry
  cases a with
  | mk _ _ _ _ _ _ _ _ st _ _ _ => cases st <;> rfl

theorem bystander_refl (a : Option Split) : bystander a a := Or.inl rfl

theorem bystander_trans {a b c : Option Split} (h : bystander a b) (k : bystander b c) : bystander a c := by
  rcases h with rfl | rfl <;> rcases k with rfl | rfl
  · exact Or.inl rfl
  · exact Or.inr rfl
  · exact Or.inr rfl
  · refine Or.inr ?_
    cases a <;> simp

theorem groupSame_refl (x : Group) : groupSame x x := by simp [groupSame]

theorem groupSame_trans {x y z : Group} (h : groupSame x y) (k : groupSame y z) : groupSame x z := by
  simp only [groupSame] at *
  simp [k, h]

theorem gangSame_refl (g : Gang) : gangSame g g := by simp [gangSame]

theorem gangSame_trans {a b c : Gang} (h : gangSame a b) (k : gangSame b c) : gangSame a c := by
  simp only [gangSame] at *
  simp [k, h]

theorem ownSame_refl (a : Split) : ownSame a a := by simp [ownSame]

theorem ownSame_trans {a b c : Split} (h : ownSame a b) (k : ownSame b c) : ownSame a c := by
  simp only [ownSame] at *
  simp [k, h]

theorem coreSame_refl (a : CoreRec) : coreSame a a := rfl

theorem coreSame_trans {a b c : CoreRec} (h : coreSame a b) (k : coreSame b c) : coreSame a c := by
  unfold coreSame at *
  rw [k, h]

theorem kept_refl (s : State) (f : Focus) : Kept s s f where
  others := ⟨fun _ _ => rfl, fun _ _ => rfl⟩
  group x h := ⟨x, h, groupSame_refl x, fun _ _ => bystander_refl _⟩
  gang g h := ⟨g, h, gangSame_refl g⟩
  own a h := ⟨a, h, ownSame_refl a⟩
  cores _ := coreSame_refl _

theorem kept_trans {s t u : State} {f : Focus} (h : Kept s t f) (k : Kept t u f) : Kept s u f where
  others := ⟨fun id hid => (k.others.1 id hid).trans (h.others.1 id hid), fun sl hs => (k.others.2 sl hs).trans (h.others.2 sl hs)⟩
  group x hx := by
    obtain ⟨y, hy, h1, h2⟩ := h.group x hx
    obtain ⟨z, hz, k1, k2⟩ := k.group y hy
    exact ⟨z, hz, groupSame_trans h1 k1, fun i hi => bystander_trans (h2 i hi) (k2 i hi)⟩
  gang g hg := by
    obtain ⟨y, hy, h1⟩ := h.gang g hg
    obtain ⟨z, hz, k1⟩ := k.gang y hy
    exact ⟨z, hz, gangSame_trans h1 k1⟩
  own a ha := by
    obtain ⟨y, hy, h1⟩ := h.own a ha
    obtain ⟨z, hz, k1⟩ := k.own y hy
    exact ⟨z, hz, ownSame_trans h1 k1⟩
  cores c := coreSame_trans (h.cores c) (k.cores c)

theorem kept_modGang (s : State) (f : Focus) {h : Gang → Gang} (h1 : ∀ g, gangSame g (h g)) (h2 : ∀ g, (h g).groups = g.groups)
    (h3 : ∀ g, (h g).handler = g.handler) : Kept s (s.modGang f.gang h) f where
  others := by
    refine ⟨fun id hid => gang?_modGang_other s hid (fun g => (h1 g).1), fun sl _ => ?_⟩
    exact group?_modGang_keep s _ (fun g => (h1 g).1) h2 _ _
  group x hx := ⟨x, by rw [group?_modGang_keep s _ (fun g => (h1 g).1) h2]; exact hx, groupSame_refl x, fun _ _ => bystander_refl _⟩
  gang g hg := ⟨h g, by rw [gang?_modGang_same s _ (fun g => (h1 g).1), hg]; rfl, h1 g⟩
  own a ha := ⟨a, by rw [split?_modGang_keep s _ (fun g => (h1 g).1) h2 h3]; exact ha, ownSame_refl a⟩
  cores _ := coreSame_refl _

theorem gang?_modGroup_same (s : State) (gang slot : Nat) (h : Group → Group) :
    (s.modGroup gang slot h).gang? gang = (s.gang? gang).map (fun g => g.modGroup slot h) :=
  gang?_modGang_same s gang (h := fun g => g.modGroup slot h) (fun _ => rfl)

theorem gang?_modGroup_other (s : State) {gang id : Nat} (hid : id ≠ gang) (slot : Nat) (h : Group → Group) :
    (s.modGroup gang slot h).gang? id = s.gang? id :=
  gang?_modGang_other s hid (h := fun g => g.modGroup slot h) (fun _ => rfl)

theorem kept_modGroup (s : State) (f : Focus) {h : Group → Group} (h1 : ∀ x, groupSame x (h x))
    (h2 : ∀ x i, i ≠ f.split → bystander (x.split? i) ((h x).split? i))
    (h3 : ∀ x a, x.split? f.split = some a → ∃ b, (h x).split? f.split = some b ∧ ownSame a b) :
    Kept s (s.modGroup f.gang f.group h) f where
  others := by
    refine ⟨fun id hid => gang?_modGroup_other s hid _ _, fun sl hs => ?_⟩
    exact group?_modGroup_other s (Or.inr hs) (fun x => (h1 x).1)
  group x hx := ⟨h x, by rw [group?_modGroup_same s _ _ (fun x => (h1 x).1), hx]; rfl, h1 x, h2 x⟩
  gang g hg := ⟨_, by rw [gang?_modGroup_same, hg]; rfl, by simp [gangSame, Gang.modGroup]⟩
  own a ha := by
    unfold State.split? at ha ⊢
    by_cases e : f.split = 4
    · simp only [e, if_true] at ha ⊢
      rw [gang?_modGroup_same]
      cases hg : s.gang? f.gang with
      | none => simp [hg] at ha
      | some g =>
        simp only [hg, Option.bind_some] at ha
        exact ⟨a, by simp [ha], ownSame_refl a⟩
    · simp only [e, if_false] at ha ⊢
      rw [group?_modGroup_same s _ _ (fun x => (h1 x).1)]
      cases hg : s.group? f.gang f.group with
      | none => simp [hg] at ha
      | some x =>
        simp only [hg, Option.bind_some, Option.map_some] at ha ⊢
        exact h3 x a ha
  cores _ := coreSame_refl _

theorem kept_setSplit (s : State) (f : Focus) {a b : Split} (ha : s.split? f = some a) (hab : ownSame a b) :
    Kept s (s.setSplit f (some b)) f where
  others := by
    unfold State.setSplit
    split
    · exact ⟨fun id hid => gang?_modGang_other s hid (h := fun g => { g with handler := some b }) (fun _ => rfl),
        fun _ _ => group?_modGang_keep s _ (h := fun g => { g with handler := some b }) (fun _ => rfl) (fun _ => rfl) _ _⟩
    · exact ⟨fun id hid => gang?_modGroup_other s hid _ _,
        fun sl hs => group?_modGroup_other s (Or.inr hs) (fun _ => Group.setSplit_slot _ _ _)⟩
  group x hx := by
    rw [group?_setSplit]
    by_cases e : f.split = 4
    · simp only [e, if_true]
      exact ⟨x, hx, groupSame_refl x, fun _ _ => bystander_refl _⟩
    · simp only [e, if_false, hx, Option.map_some, and_self, if_true]
      refine ⟨_, rfl, ?_, fun i hi => Or.inl ?_⟩
      · unfold Group.setSplit
        split <;> simp [groupSame]
      · rw [Group.split?_setSplit, if_neg (fun q => hi q.1.symm)]
  gang g hg := by
    unfold State.setSplit
    split
    · exact ⟨_, by rw [gang?_modGang_same s _ (h := fun g => { g with handler := some b }) (fun _ => rfl), hg]; rfl, by simp [gangSame]⟩
    · exact ⟨_, by rw [gang?_modGroup_same, hg]; rfl, by simp [gangSame, Gang.modGroup]⟩
  own a' ha' := by
    obtain rfl : a = a' := Option.some.inj (ha.symm.trans ha')
    exact ⟨b, split?_setSplit_same s _ (by simp [ha]), hab⟩
  cores c := by
    unfold State.setSplit
    split <;> exact coreSame_refl _

theorem kept_modSplit (s : State) (f : Focus) {h : Split → Split} (hs : ∀ a, ownSame a (h a)) : Kept s (s.modSplit f h) f := by
  unfold State.modSplit
  split
  · exact kept_setSplit s f ‹_› (hs _)
  · exact kept_refl s f

theorem core?_modCore (s : State) (c c' : Nat) (h : CoreRec → CoreRec) :
    (s.modCore c h).core? c' = s.core? c' ∨ (c = c' ∧ (s.modCore c h).core? c' = h (s.core? c')) := by
  unfold State.core? State.modCore
  simp only [List.getD_eq_getElem?_getD, List.getElem?_modify]
  by_cases e : c = c'
  · subst e
    cases s.cores[c]? with
    | none => exact Or.inl rfl
    | some x => exact Or.inr ⟨rfl, by simp⟩
  · exact Or.inl (by cases s.cores[c']? <;> simp [e])

theorem kept_modCore (s : State) (f : Focus) (c : Nat) {h : CoreRec → CoreRec} (hc : ∀ x, coreSame x (h x)) :
    Kept s (s.modCore c h) f where
  others := ⟨fun _ _ => rfl, fun _ _ => rfl⟩
  group x hx := ⟨x, hx, groupSame_refl x, fun _ _ => bystander_refl _⟩
  gang g hg := ⟨g, hg, gangSame_refl g⟩
  own a ha := ⟨a, ha, ownSame_refl a⟩
  cores c' := by
    rcases core?_modCore s c c' h with k | ⟨_, k⟩
    · rw [k]; exact coreSame_refl _
    · rw [k]; exact hc _

theorem Group.groupSame_putEntry (g : Group) (e : UEntry) : groupSame g (g.putEntry e) := by
  cases e <;> simp only [Group.putEntry] <;> (try split) <;> simp [groupSame]

theorem Group.groupSame_foldr (g : Group) (l : List UEntry) : groupSame g (l.foldr (fun x g => g.putEntry x) g) := by
  induction l with
  | nil => exact groupSame_refl g
  | cons e l ih => exact groupSame_trans ih (Group.groupSame_putEntry _ _)

theorem Group.split?_putEntry (g : Group) (e : UEntry) (i : Nat) : (g.putEntry e).split? i = g.split? i := by
  unfold Group.split?
  simp

theorem Group.split?_foldr_putEntry (g : Group) (l : List UEntry) (i : Nat) :
    (l.foldr (fun x g => g.putEntry x) g).split? i = g.split? i := by
  unfold Group.split?
  simp

theorem kept_putEntry (s : State) (f : Focus) (e : UEntry) : Kept s (s.modGroup f.gang f.group (fun g => g.putEntry e)) f := by
  refine kept_modGroup s f (fun x => x.groupSame_putEntry e) (fun x i _ => ?_) (fun x a ha => ⟨a, ?_, ownSame_refl a⟩)
  · rw [Group.split?_putEntry]; exact bystander_refl _
  · rw [Group.split?_putEntry]; exact ha

theorem split?_putEntry (s : State) (f : Focus) (e : UEntry) : (s.modGroup f.gang f.group (fun g => g.putEntry e)).split? f = s.split? f :=
  split?_modGroup_keep s _ _ (fun x => Group.putEntry_slot x e) (fun x => Group.putEntry_splits x e) f

/-- The write of a uniform register keeps everything else. -/
theorem kept_writeU (s : State) (f : Focus) (e : UEntry) : Kept s (s.writeU f e) f := by
  unfold State.writeU
  split
  · rename_i gang g sp _ _ hsp
    split
    · exact kept_setSplit s f hsp (by simp [ownSame])
    · split
      · exact kept_putEntry s f e
      · split
        · exact kept_trans (kept_putEntry s f e) (kept_setSplit _ f (by rw [split?_putEntry]; exact hsp) (by simp [ownSame]))
        · split
          · exact kept_setSplit s f hsp (by simp [ownSame])
          · refine kept_trans (kept_trans ?_ (kept_setSplit _ f (a := sp) ?_ ?_)) (kept_modCore _ f _ (fun _ => rfl))
            · refine kept_modGroup s f (fun x => ?_) (fun x i _ => ?_) (fun x a ha => ⟨a, ?_, ownSame_refl a⟩)
              · have := groupSame_trans (x.groupSame_foldr sp.shadows) (Group.groupSame_putEntry _ e)
                simpa [groupSame] using this
              · refine Or.inl ?_
                exact (Group.split?_putEntry _ e i).trans (Group.split?_foldr_putEntry x _ i)
              · exact ((Group.split?_putEntry _ e _).trans (Group.split?_foldr_putEntry x _ _)).trans ha
            · rw [split?_modGroup_keep s _ _ (fun x => ?_) (fun x => ?_)]
              · exact hsp
              · simp
              · simp
            · simp [ownSame]
  · exact kept_refl s f

theorem Group.split?_retry (x : Group) (n : Nat) (i : Nat) :
    ({ x with issued := n, splits := x.splits.map (fun o => o.map Split.retry) } : Group).split? i = (x.split? i).map Split.retry := by
  unfold Group.split?
  split <;> simp

theorem Split.ownSame_retry (a : Split) : ownSame a a.retry := by
  unfold Split.retry
  split <;> simp [ownSame]

theorem Split.ownSame_go (a : Split) : ownSame a a.go := by
  unfold Split.go
  split <;> simp [ownSame]

theorem kept_countIssue (s : State) (f : Focus) : Kept s (countIssue s f) f := by
  unfold countIssue
  refine kept_trans (kept_modGang s f ?_ ?_ ?_) (kept_modGroup _ f (fun x => ?_) (fun x i _ => Or.inr ?_) (fun x a ha => ?_))
  · intro g; simp [gangSame]
  · intro g; rfl
  · intro g; rfl
  · simp [groupSame]
  · exact Group.split?_retry x _ i
  · exact ⟨a.retry, by rw [Group.split?_retry, ha]; rfl, a.ownSame_retry⟩

theorem kept_after (t : State) (c : Iss) : Kept t (t.after c) c.f :=
  kept_trans (kept_modSplit t c.f (fun _ => by simp [ownSame])) (kept_countIssue _ _)

theorem kept_go (s : State) (f : Focus) : Kept s (s.modSplit f Split.go) f := kept_modSplit s f Split.ownSame_go

/-! ## The PC -/

/-- Counting an issue in a group moves no PC. -/
theorem pc_countGroup (t : State) (f : Focus) :
    ((t.modGroup f.gang f.group (fun x => { x with issued := x.issued + 1, splits := x.splits.map (fun o => o.map Split.retry) })).split? f).map
      Split.pc = (t.split? f).map Split.pc := by
  unfold State.split?
  by_cases e : f.split = 4
  · simp only [e, if_true]
    rw [gang?_modGroup_same]
    cases t.gang? f.gang <;> rfl
  · simp only [e, if_false]
    rw [group?_modGroup_same t f.gang f.group
      (h := fun x => { x with issued := x.issued + 1, splits := x.splits.map (fun o => o.map Split.retry) }) (fun _ => rfl)]
    cases t.group? f.gang f.group with
    | none => rfl
    | some x =>
      simp only [Option.map_some, Option.bind_some]
      rw [Group.split?_retry]
      cases x.split? f.split with
      | none => rfl
      | some a => simp only [Option.map_some, Split.retry]; split <;> rfl

theorem split?_countIssue (s : State) (f : Focus) : ((countIssue s f).split? f).map Split.pc = (s.split? f).map Split.pc := by
  refine (pc_countGroup _ f).trans (congrArg (Option.map Split.pc) (split?_modGang_keep s f.gang ?_ ?_ ?_ f)) <;> intro g <;> rfl

theorem pcAt_eq (s : State) (f : Focus) : s.pcAt f = ((s.split? f).map Split.pc).getD 0 := by
  unfold State.pcAt
  cases s.split? f <;> rfl

theorem pcAt_after (t : State) (c : Iss) (h : (t.split? c.f).isSome) : (t.after c).pcAt c.f = t.pcAt c.f + BitVec.ofNat 64 c.len := by
  rw [pcAt_eq, pcAt_eq]
  unfold State.after advance
  rw [split?_countIssue, split?_modSplit_same]
  cases hs : t.split? c.f with
  | none => simp [hs] at h
  | some a => rfl

theorem pcAt_go (s : State) (f : Focus) : (s.modSplit f Split.go).pcAt f = s.pcAt f := by
  rw [pcAt_eq, pcAt_eq, split?_modSplit_same]
  cases s.split? f with
  | none => rfl
  | some a => simp only [Option.map_some, Split.go]; split <;> rfl

/-- The write of a uniform register leaves the PC. -/
theorem pcAt_writeU (s : State) (f : Focus) (e : UEntry) : (s.writeU f e).pcAt f = s.pcAt f := by
  unfold State.writeU
  split
  · rename_i gang g sp _ _ hsp
    have set : ∀ (t : State) (b : Split), t.split? f = some sp → b.pc = sp.pc → (t.setSplit f (some b)).pcAt f = s.pcAt f := by
      intro t b ht hb
      rw [pcAt_eq, pcAt_eq, split?_setSplit_same t _ (by simp [ht]), hsp]
      simp [hb]
    split
    · exact set s _ hsp rfl
    · split
      · rw [pcAt_eq, pcAt_eq, split?_putEntry]
      · split
        · exact set _ _ (by rw [split?_putEntry]; exact hsp) rfl
        · split
          · exact set s _ hsp rfl
          · refine set _ _ ?_ rfl
            rw [split?_modGroup_keep s _ _ (fun x => ?_) (fun x => ?_)]
            · exact hsp
            · simp
            · simp
  · rfl

end Sys2Proof.Machine
end

