-- ==== Sys2Proof/Laws/Memory.lean ====
section
/-! SUPPORT. Laws of memory: what a byte reads as after each operation, and that every operation keeps the canonical form. -/

namespace Sys2Proof.Machine

/-! ## Canonical form -/

theorem wfFrom_mono {lo lo' : Nat} (h : lo' ≤ lo) {l : List Host.Cell} (hw : Memory.wfFrom lo l = true) :
    Memory.wfFrom lo' l = true := by
  cases l with
  | nil => rfl
  | cons c rest =>
    simp only [Memory.wfFrom, Bool.and_eq_true, decide_eq_true_eq] at hw ⊢
    exact ⟨⟨Nat.le_trans h hw.1.1, hw.1.2⟩, hw.2⟩

theorem cellsWrite_wf {l : List Host.Cell} {lo a : Nat} {v : Byte} (hl : Memory.wfFrom lo l = true) (ha : lo ≤ a) :
    Memory.wfFrom lo (cellsWrite l a v) = true := by
  induction l generalizing lo with
  | nil =>
    unfold cellsWrite
    split
    · rfl
    · next hv => simp [Memory.wfFrom, ha, hv]
  | cons c rest ih =>
    obtain ⟨k, b⟩ := c
    simp only [Memory.wfFrom, Bool.and_eq_true, decide_eq_true_eq] at hl
    obtain ⟨⟨hk, hb⟩, hr⟩ := hl
    unfold cellsWrite
    split
    · next hak =>
      split
      · simp [Memory.wfFrom, hk, hb, hr]
      · next hv =>
        have : a + 1 ≤ k := hak
        simp [Memory.wfFrom, ha, hv, this, hb, hr]
    · next hak =>
      split
      · next he =>
        subst he
        split
        · exact wfFrom_mono (Nat.le_succ_of_le hk) hr
        · next hv => simp [Memory.wfFrom, hk, hv, hr]
      · next he =>
        have : k + 1 ≤ a := by omega
        simp [Memory.wfFrom, hk, hb, ih hr this]

@[simp] theorem Memory.empty_wf : Memory.empty.wf = true := rfl

theorem Memory.write_wf {m : Memory} (h : m.wf = true) (a : Nat) (v : Byte) : (m.write a v).wf = true :=
  cellsWrite_wf h (Nat.zero_le a)

theorem Memory.writeBytes_wf {m : Memory} (h : m.wf = true) (a : Nat) (bs : List Byte) : (m.writeBytes a bs).wf = true := by
  induction bs generalizing m a with
  | nil => exact h
  | cons b bs ih => exact ih (Memory.write_wf h a b) (a + 1)

theorem Memory.writeLE_wf {m : Memory} (h : m.wf = true) (a n v : Nat) : (m.writeLE a n v).wf = true :=
  Memory.writeBytes_wf h a _

theorem filter_wf {l : List Host.Cell} {lo : Nat} (h : Memory.wfFrom lo l = true) (q : Host.Cell → Bool) :
    Memory.wfFrom lo (l.filter q) = true := by
  induction l generalizing lo with
  | nil => rfl
  | cons c rest ih =>
    obtain ⟨k, b⟩ := c
    simp only [Memory.wfFrom, Bool.and_eq_true, decide_eq_true_eq] at h
    rw [List.filter_cons]
    split
    · simp [Memory.wfFrom, h.1.1, h.1.2, ih h.2]
    · exact ih (wfFrom_mono (Nat.le_succ_of_le h.1.1) h.2)

theorem Memory.clear_wf {m : Memory} (h : m.wf = true) (a n : Nat) : (m.clear a n).wf = true := filter_wf h _

theorem Memory.foldl_wf {α : Type} {f : Memory → α → Memory} (hf : ∀ m x, m.wf = true → (f m x).wf = true) {m : Memory}
    (h : m.wf = true) (xs : List α) : (xs.foldl f m).wf = true := by
  induction xs generalizing m with
  | nil => exact h
  | cons x xs ih => exact ih (hf m x h)

theorem Memory.move_wf {m : Memory} (h : m.wf = true) (a b n : Nat) : (m.move a b n).wf = true :=
  Memory.foldl_wf (fun _ _ hm => Memory.write_wf hm _ _) (Memory.clear_wf (Memory.clear_wf h a n) b n) _

/-! ## What a byte reads as -/

theorem cellsRead_below {l : List Host.Cell} {lo a : Nat} (h : Memory.wfFrom lo l = true) (ha : a < lo) :
    cellsRead l a = Memory.unlisted := by
  induction l generalizing lo with
  | nil => rfl
  | cons c rest ih =>
    obtain ⟨k, b⟩ := c
    simp only [Memory.wfFrom, Bool.and_eq_true, decide_eq_true_eq] at h
    have hk : k ≠ a := by omega
    simp only [cellsRead, if_neg hk]
    exact ih h.2 (by omega)

/-- A byte reads as what was written there; the form has to be canonical. -/
theorem cellsRead_write_same {l : List Host.Cell} {lo a : Nat} {v : Byte} (h : Memory.wfFrom lo l = true) :
    cellsRead (cellsWrite l a v) a = v := by
  induction l generalizing lo with
  | nil =>
    unfold cellsWrite
    split
    · next hv => simp [cellsRead, hv]
    · simp [cellsRead]
  | cons c rest ih =>
    obtain ⟨k, b⟩ := c
    simp only [Memory.wfFrom, Bool.and_eq_true, decide_eq_true_eq] at h
    unfold cellsWrite
    split
    · next hak =>
      split
      · next hv =>
        have hk : k ≠ a := by omega
        simp only [cellsRead, if_neg hk]
        rw [cellsRead_below h.2 (by omega), hv]
      · simp [cellsRead]
    · split
      · next he =>
        split
        · next hv => rw [cellsRead_below h.2 (by omega), hv]
        · simp [cellsRead]
      · next he =>
        have hk : k ≠ a := fun e => he e.symm
        simp only [cellsRead, if_neg hk]
        exact ih h.2

/-- A write leaves every other byte alone. -/
theorem cellsRead_write_other {l : List Host.Cell} {a a' : Nat} {v : Byte} (hne : a ≠ a') :
    cellsRead (cellsWrite l a v) a' = cellsRead l a' := by
  induction l with
  | nil =>
    unfold cellsWrite
    split
    · rfl
    · simp [cellsRead, hne]
  | cons c rest ih =>
    obtain ⟨k, b⟩ := c
    unfold cellsWrite
    split
    · split
      · rfl
      · simp [cellsRead, hne]
    · split
      · next he =>
        have hk : k ≠ a' := fun e => hne (he.trans e)
        split
        · simp [cellsRead, hk]
        · simp [cellsRead, hne, hk]
      · simp [cellsRead, ih]

theorem Memory.read_write_same {m : Memory} (h : m.wf = true) (a : Nat) (v : Byte) : (m.write a v).read a = v :=
  cellsRead_write_same h

theorem Memory.read_write_other (m : Memory) {a a' : Nat} (h : a ≠ a') (v : Byte) : (m.write a v).read a' = m.read a' :=
  cellsRead_write_other h

/-- Bytes outside the written ones read as before. -/
theorem Memory.read_writeBytes_outside (m : Memory) {a a' : Nat} {bs : List Byte} (h : a' < a ∨ a + bs.length ≤ a') :
    (m.writeBytes a bs).read a' = m.read a' := by
  induction bs generalizing m a with
  | nil => rfl
  | cons b bs ih =>
    simp only [List.length_cons] at h
    rw [Memory.writeBytes, ih (m.write a b) (by omega), Memory.read_write_other m (by omega)]

/-- Bytes inside the written ones read as written. -/
theorem Memory.read_writeBytes_inside {m : Memory} (hm : m.wf = true) (a i : Nat) {bs : List Byte} (h : i < bs.length) :
    (m.writeBytes a bs).read (a + i) = bs[i] := by
  induction bs generalizing m a i with
  | nil => simp at h
  | cons b bs ih =>
    cases i with
    | zero =>
      rw [Memory.writeBytes, Memory.read_writeBytes_outside _ (by omega)]
      exact Memory.read_write_same hm a b
    | succ i =>
      have hi : i < bs.length := by simpa using h
      have := ih (Memory.write_wf hm a b) (a + 1) i hi
      rw [Memory.writeBytes, show a + (i + 1) = a + 1 + i by omega, this]
      rfl

@[simp] theorem leBytes_length (n w : Nat) : (leBytes n w).length = n := by
  induction n generalizing w with
  | zero => rfl
  | succ n ih => simp [leBytes, ih]

@[simp] theorem Memory.readBytes_length (m : Memory) (a n : Nat) : (m.readBytes a n).length = n := by
  induction n generalizing a with
  | zero => rfl
  | succ n ih => simp [Memory.readBytes, ih]

theorem Memory.readBytes_congr {m m' : Memory} {a n : Nat} (h : ∀ i, i < n → m.read (a + i) = m'.read (a + i)) :
    m.readBytes a n = m'.readBytes a n := by
  induction n generalizing a with
  | zero => rfl
  | succ n ih =>
    have h0 : m.read a = m'.read a := h 0 (by omega)
    have ht : m.readBytes (a + 1) n = m'.readBytes (a + 1) n := by
      apply ih
      intro i hi
      have := h (i + 1) (by omega)
      rwa [show a + (i + 1) = a + 1 + i by omega] at this
    simp only [Memory.readBytes, h0, ht]

/-- A read of bytes that were written together. -/
theorem Memory.readBytes_writeBytes {m : Memory} (hm : m.wf = true) (a : Nat) (bs : List Byte) :
    (m.writeBytes a bs).readBytes a bs.length = bs := by
  apply List.ext_getElem
  · simp
  · intro i h1 h2
    have key : ∀ (m' : Memory) (a' n j : Nat) (hj : j < (m'.readBytes a' n).length), (m'.readBytes a' n)[j] = m'.read (a' + j) := by
      intro m' a' n
      induction n generalizing a' with
      | zero => intro j hj; simp [Memory.readBytes] at hj
      | succ n ih =>
        intro j hj
        cases j with
        | zero => rfl
        | succ j =>
          have := ih (a' + 1) j (by simpa [Memory.readBytes] using hj)
          simp only [Memory.readBytes, List.getElem_cons_succ, this]
          congr 1
          omega
    rw [key, Memory.read_writeBytes_inside hm a i h2]

theorem leNat_leBytes (n w : Nat) : leNat (leBytes n w) = w % 2 ^ (8 * n) := by
  induction n generalizing w with
  | zero => simp [leBytes, leNat, Nat.mod_one]
  | succ n ih =>
    have h : (2 : Nat) ^ (8 * (n + 1)) = 2 ^ 8 * 2 ^ (8 * n) := by rw [← Nat.pow_add]; congr 1; omega
    rw [leBytes, leNat, ih, h, Nat.mod_mul]
    simp

/-- A number reads back as what was stored, reduced to its bytes. -/
theorem Memory.readLE_writeLE {m : Memory} (hm : m.wf = true) (a n v : Nat) : (m.writeLE a n v).readLE a n = v % 2 ^ (8 * n) := by
  have h := Memory.readBytes_writeBytes hm a (leBytes n v)
  rw [leBytes_length] at h
  rw [Memory.readLE, Memory.writeLE, h, leNat_leBytes]

/-- A number outside the written bytes reads as before. -/
theorem Memory.readLE_writeBytes_outside (m : Memory) {a a' n : Nat} {bs : List Byte} (h : a' + n ≤ a ∨ a + bs.length ≤ a') :
    (m.writeBytes a bs).readLE a' n = m.readLE a' n := by
  unfold Memory.readLE
  congr 1
  exact Memory.readBytes_congr (fun i hi => Memory.read_writeBytes_outside m (by omega))

end Sys2Proof.Machine
end

