-- ==== Sys2Proof/Laws/Lanes.lean ====
section
/-! SUPPORT. Reading and writing lanes of vector registers (07 R141). -/

namespace Sys2Proof.Machine

theorem vatKey_add (core a b : Nat) : vatKey core (a + b) = vatKey core a + b := by
  unfold vatKey
  omega

/-- Only the vats differ. -/
theorem vatWriteBytes_eq {s : State} {core a : Nat} {bs : List Byte} (h : ∀ i, i < bs.length → s.deadByte core (a + i) = false) :
    s.vatWriteBytes core a bs = { s with vat := s.vat.writeBytes (vatKey core a) bs } := by
  induction bs generalizing s a with
  | nil => rfl
  | cons b bs ih =>
    unfold State.vatWriteBytes
    have h0 : s.deadByte core a = false := h 0 (by simp)
    have hw : s.vatWrite core a b = { s with vat := s.vat.write (vatKey core a) b } := by
      unfold State.vatWrite
      simp [h0]
    rw [hw, ih]
    · simp only [Memory.writeBytes, vatKey_add]
    · intro i hi
      have := h (i + 1) (by simpa using hi)
      rw [show a + 1 + i = a + (i + 1) by omega]
      exact this

theorem setLane_eq {s : State} {f : Focus} {g : Gang} (hg : s.gang? f.gang = some g) {r l : Nat} (h : s.laneLives f r l) (v : W32) :
    s.setLane f.gang f.group r l v =
      { s with vat := s.vat.writeLE (vatKey g.core (g.window f.group + 128 * r + 4 * l)) 4 v.toNat } := by
  unfold State.setLane State.vatWriteLE Memory.writeLE
  simp only [hg]
  exact vatWriteBytes_eq (fun i hi => h g hg i (by simpa using hi))

/-- A memory in which lanes of a register, or of a pair, are written. -/
def writeLanes (m : Memory) (key : Nat → Nat → Nat) (wide : Bool) (n : Nat) (v : Nat → Word) (ls : List Nat) : Memory :=
  ls.foldl (fun m l =>
    let m1 := m.writeLE (key n l) 4 ((v l).truncate 32 : W32).toNat
    if wide then m1.writeLE (key (n + 1) l) 4 ((v l >>> 32).truncate 32 : W32).toNat else m1) m

theorem writeLanes_wf {m : Memory} (h : m.wf = true) (key : Nat → Nat → Nat) (wide : Bool) (n : Nat) (v : Nat → Word) (ls : List Nat) :
    (writeLanes m key wide n v ls).wf = true := by
  refine Memory.foldl_wf (fun m l hm => ?_) h ls
  simp only
  split
  · exact Memory.writeLE_wf (Memory.writeLE_wf hm _ _ _) _ _ _
  · exact Memory.writeLE_wf hm _ _ _

/-- Bytes outside the lanes' places read as before. -/
theorem read_writeLanes_outside (m : Memory) (key : Nat → Nat → Nat) (wide : Bool) (n : Nat) (v : Nat → Word) (ls : List Nat) (k : Nat)
    (h : ∀ l, l ∈ ls → ∀ r, (r = n ∨ wide = true ∧ r = n + 1) → k < key r l ∨ key r l + 4 ≤ k) :
    (writeLanes m key wide n v ls).read k = m.read k := by
  unfold writeLanes
  induction ls generalizing m with
  | nil => rfl
  | cons l ls ih =>
    rw [List.foldl_cons, ih _ (fun l' hl' => h l' (List.mem_cons_of_mem _ hl'))]
    have h1 := h l (List.mem_cons_self ..) n (Or.inl rfl)
    simp only
    split
    · rename_i hw
      have h2 := h l (List.mem_cons_self ..) (n + 1) (Or.inr ⟨hw, rfl⟩)
      rw [Memory.writeLE, Memory.read_writeBytes_outside _ (by simpa using h2), Memory.writeLE,
        Memory.read_writeBytes_outside _ (by simpa using h1)]
    · rw [Memory.writeLE, Memory.read_writeBytes_outside _ (by simpa using h1)]

/-- A written lane reads as written. -/
theorem readLE_writeLanes {m : Memory} (hm : m.wf = true) (base : Nat) (wide : Bool) (n : Nat) (v : Nat → Word) {ls : List Nat}
    (hn : ls.Nodup) (hb : ∀ l, l ∈ ls → l < 32) {l : Nat} (hl : l ∈ ls) :
    (writeLanes m (fun r l => base + 128 * r + 4 * l) wide n v ls).readLE (base + 128 * n + 4 * l) 4 = ((v l).truncate 32 : W32).toNat ∧
    (wide = true → (writeLanes m (fun r l => base + 128 * r + 4 * l) wide n v ls).readLE (base + 128 * (n + 1) + 4 * l) 4 =
      ((v l >>> 32).truncate 32 : W32).toNat) := by
  induction ls generalizing m with
  | nil => simp at hl
  | cons x xs ih =>
    obtain ⟨hx, hxs⟩ := List.nodup_cons.mp hn
    have hx32 := hb x (List.mem_cons_self ..)
    simp only [writeLanes, List.foldl_cons]
    rcases List.mem_cons.mp hl with rfl | hl'
    · have out : ∀ (m' : Memory) (r : Nat), (r = n ∨ r = n + 1) →
          (writeLanes m' (fun r l => base + 128 * r + 4 * l) wide n v xs).readLE (base + 128 * r + 4 * l) 4 = m'.readLE (base + 128 * r + 4 * l) 4 := by
        intro m' r hr
        unfold Memory.readLE
        congr 1
        refine Memory.readBytes_congr (fun i hi => read_writeLanes_outside _ _ _ _ _ _ _ ?_)
        intro l' hl' r' hr'
        have h1 : l' ≠ l := fun e => hx (e ▸ hl')
        have h2 := hb l' (List.mem_cons_of_mem _ hl')
        have h3 : r' = n ∨ r' = n + 1 := hr'.imp id And.right
        show base + 128 * r + 4 * l + i < base + 128 * r' + 4 * l' ∨ base + 128 * r' + 4 * l' + 4 ≤ base + 128 * r + 4 * l + i
        omega
      unfold writeLanes at out
      rw [out _ n (Or.inl rfl)]
      refine ⟨?_, fun hw => ?_⟩
      · split
        · rw [Memory.writeLE, Memory.readLE_writeBytes_outside _ (by simp; omega), Memory.readLE_writeLE hm]
          exact Nat.mod_eq_of_lt (BitVec.isLt _)
        · rw [Memory.readLE_writeLE hm]
          exact Nat.mod_eq_of_lt (BitVec.isLt _)
      · rw [out _ (n + 1) (Or.inr rfl), if_pos hw, Memory.readLE_writeLE (Memory.writeLE_wf hm _ _ _)]
        exact Nat.mod_eq_of_lt (BitVec.isLt _)
    · refine ih ?_ hxs (fun l hl => hb l (List.mem_cons_of_mem _ hl)) hl'
      split
      · exact Memory.writeLE_wf (Memory.writeLE_wf hm _ _ _) _ _ _
      · exact Memory.writeLE_wf hm _ _ _

theorem mem_lanesOf (m : LaneMask) (l : Nat) : l ∈ lanesOf m ↔ l < 32 ∧ m.getLsbD l = true := by
  simp [lanesOf]

theorem lanesOf_nodup (m : LaneMask) : (lanesOf m).Nodup := List.nodup_range.filter _

theorem laneLives_vat (s : State) (m : Memory) (f : Focus) (r l : Nat) : ({ s with vat := m } : State).laneLives f r l ↔ s.laneLives f r l :=
  Iff.rfl

/-- A plain vector destination: the active lanes are written, nothing but the vats differs. -/
theorem storeV_plain {x : Iss} {s : State} {n : Fin 256} {g : Gang} {wide : Bool} {exec : LaneMask} {v : Nat → Word}
    (hp : x.grp.isPort n.val = false) (hg : s.gang? x.f.gang = some g)
    (hl : ∀ l, l < 32 → exec.getLsbD l = true → s.laneLives x.f n.val l ∧ (wide = true → s.laneLives x.f (n.val + 1) l)) :
    storeV x s (.v n) wide exec v = .ok { s with
      vat := writeLanes s.vat (fun r l => vatKey g.core (g.window x.f.group) + 128 * r + 4 * l) wide n.val v (lanesOf exec) } := by
  unfold storeV writeLanes
  simp only [hp, Bool.false_eq_true, false_and, if_false]
  congr 1
  have hl' : ∀ l, l ∈ lanesOf exec → s.laneLives x.f n.val l ∧ (wide = true → s.laneLives x.f (n.val + 1) l) := by
    intro l h
    obtain ⟨h1, h2⟩ := (mem_lanesOf _ _).mp h
    exact hl l h1 h2
  generalize lanesOf exec = ls at hl' ⊢
  induction ls generalizing s with
  | nil => rfl
  | cons l ls ih =>
    obtain ⟨h1, h2⟩ := hl' l (List.mem_cons_self ..)
    simp only [List.foldl_cons]
    have e1 := setLane_eq hg h1 (((v l).truncate 32 : W32))
    have key : ∀ r, vatKey g.core (g.window x.f.group + 128 * r + 4 * l) = vatKey g.core (g.window x.f.group) + 128 * r + 4 * l := by
      intro r
      rw [vatKey_add, vatKey_add]
    rw [key] at e1
    by_cases hw : wide = true
    · simp only [hw, if_true]
      rw [e1]
      have e2 := setLane_eq (s := { s with vat := s.vat.writeLE (vatKey g.core (g.window x.f.group) + 128 * n.val + 4 * l) 4 ((v l).truncate 32 : W32).toNat })
        (f := x.f) (g := g) hg ((laneLives_vat _ _ _ _ _).mpr (h2 hw)) (((v l >>> 32).truncate 32 : W32))
      rw [key] at e2
      rw [e2]
      let m := (s.vat.writeLE (vatKey g.core (g.window x.f.group) + 128 * n.val + 4 * l) 4 ((v l).truncate 32 : W32).toNat).writeLE
        (vatKey g.core (g.window x.f.group) + 128 * (n.val + 1) + 4 * l) 4 ((v l >>> 32).truncate 32 : W32).toNat
      have := ih (s := { s with vat := m }) hg hl (fun l' hl'' => hl' l' (List.mem_cons_of_mem _ hl''))
      simp only [hw, if_true] at this
      exact this
    · simp only [hw, Bool.false_eq_true, if_false]
      rw [e1]
      have := ih (s := { s with vat := s.vat.writeLE (vatKey g.core (g.window x.f.group) + 128 * n.val + 4 * l) 4 ((v l).truncate 32 : W32).toNat }) hg
        hl (fun l' hl'' => hl' l' (List.mem_cons_of_mem _ hl''))
      simp only [hw, Bool.false_eq_true, if_false] at this
      exact this

end Sys2Proof.Machine
end

