-- ==== Sys2Proof/Laws/Lines.lean ====
section
/-! SUPPORT. Laws of lines: every operation on the lines of physical memory and on the bytes of the vats keeps the canonical form; what an access that meets the TLBs and the miss table leaves alone; what FMT and PART can hold. -/

namespace Sys2Proof.Machine

/-! ## The canonical form -/

/-- A fold of steps that keep the memory's form keeps it. -/
theorem State.foldl_memWf {α : Type} {f : State → α → State} (hf : ∀ s x, s.mem.wf = true → (f s x).mem.wf = true) {s : State}
    (h : s.mem.wf = true) (xs : List α) : (xs.foldl f s).mem.wf = true := by
  induction xs generalizing s with
  | nil => exact h
  | cons x xs ih => exact ih (hf s x h)

theorem State.putByte_wf {s : State} (h : s.mem.wf = true) (w : ByteWrite) : (s.putByte w).mem.wf = true := Memory.write_wf h _ _

theorem State.rawWrite_wf {s : State} (h : s.mem.wf = true) (ws : List ByteWrite) : (s.rawWrite ws).mem.wf = true :=
  State.foldl_memWf (fun _ w hs => State.putByte_wf hs w) h ws

@[simp] theorem State.durPend_mem (s : State) (gang : Nat) (dur : Bool) : (s.durPend gang dur).mem = s.mem := by
  unfold State.durPend
  split <;> rfl

theorem State.mergePartial_wf {s : State} (h : s.mem.wf = true) (p : Partial) : (s.mergePartial p).mem.wf = true := State.rawWrite_wf h _

theorem State.mergeLine_wf {s : State} (h : s.mem.wf = true) (line : Nat) : (s.mergeLine line).mem.wf = true := by
  unfold State.mergeLine
  dsimp only
  split
  · exact h
  · refine State.foldl_memWf (fun _ p hs => State.mergePartial_wf hs p) ?_ _
    exact h

theorem State.writeBack_wf {s : State} (h : s.mem.wf = true) (core : Nat) (u : StashUnit) (i : Nat) : (s.writeBack core u i).mem.wf = true := by
  unfold State.writeBack
  split
  · exact h
  · dsimp only
    split <;> simpa using State.rawWrite_wf (State.mergeLine_wf h _) _

@[simp] theorem State.setStashLine_mem (s : State) (core vat i : Nat) (st : Option Bool) : (s.setStashLine core vat i st).mem = s.mem := by
  simp [State.setStashLine]

theorem State.snoopCore_wf {s : State} (h : s.mem.wf = true) (line : Nat) (write : Bool) (core : Nat) :
    (s.snoopCore line write core).mem.wf = true := by
  refine State.foldl_memWf (fun t u ht => ?_) h _
  have hb := State.writeBack_wf ht core u.1 u.2
  dsimp only
  split <;> split <;> (try simp) <;> first | exact hb | exact ht

theorem State.reach_wf {s : State} (h : s.mem.wf = true) (line : Nat) (write : Bool) : (s.reach line write).mem.wf = true :=
  State.foldl_memWf (fun _ c hs => State.snoopCore_wf hs line write c) (State.mergeLine_wf h line) _

theorem State.reachAll_wf {s : State} (h : s.mem.wf = true) (lines : List Nat) (write : Bool) : (s.reachAll lines write).mem.wf = true :=
  State.foldl_memWf (fun _ l hs => State.reach_wf hs l write) h lines

theorem State.writePhys_wf {s : State} (h : s.mem.wf = true) (gang : Nat) (ws : List ByteWrite) : (s.writePhys gang ws).mem.wf = true := by
  simpa [State.writePhys] using State.rawWrite_wf (State.reachAll_wf h _ true) ws

@[simp] theorem State.poisonHalf_mem (s : State) (h : Nat) : (s.poisonHalf h).mem = s.mem := by
  unfold State.poisonHalf
  split <;> rfl

@[simp] theorem State.poisonFor_mem (s : State) (tag h : Nat) : (s.poisonFor tag h).mem = s.mem := by
  unfold State.poisonFor
  split <;> rfl

/-- An update that reaches its slice. -/
theorem State.arriveUpdate_wf {s : State} (h : s.mem.wf = true) (gang die : Nat) (u : Update) : (s.arriveUpdate gang die u).mem.wf = true := by
  have h0 := State.foldl_memWf (fun _ c hs => State.snoopCore_wf hs (u.addr / 128) true c) h (List.range s.cores.length)
  unfold State.arriveUpdate
  dsimp only
  split
  · split <;> simpa using State.rawWrite_wf h _
  · split <;> split <;> split <;> simp <;> first | exact h0 | exact State.mergeLine_wf h0 _

/-- One outstanding store that is performed. -/
theorem State.performOne_wf {s : State} (h : s.mem.wf = true) (gang die : Nat) (p : PendStore) : (s.performOne gang die p).mem.wf = true := by
  cases p with
  | bytes m ws bad =>
    unfold State.performOne
    dsimp only
    split
    · exact h
    · exact State.foldl_memWf (fun _ _ hs => by simpa using hs) (State.writePhys_wf h gang ws) bad
  | red m us => exact State.foldl_memWf (fun _ u hs => State.arriveUpdate_wf hs gang die u) h us
  | flush m ls => exact State.foldl_memWf (fun _ l hs => State.mergeLine_wf hs l) h ls

/-- The first stores of a group that are performed. -/
theorem State.performFirst_wf {s t : State} {gang slot n : Nat} (h : s.mem.wf = true) (ht : s.performFirst gang slot n = some t) : t.mem.wf = true := by
  unfold State.performFirst at ht
  split at ht
  · cases ht; exact h
  · dsimp only at ht
    split at ht
    · cases ht
    · cases ht
      exact State.foldl_memWf (fun _ p hs => State.performOne_wf hs gang _ p) h _

theorem State.performAll_wf {s t : State} {gang slot : Nat} (h : s.mem.wf = true) (ht : s.performAll gang slot = some t) : t.mem.wf = true := by
  unfold State.performAll at ht
  split at ht
  · cases ht; exact h
  · exact State.performFirst_wf h ht

theorem State.performFor_wf {s t : State} {gang slot : Nat} {as : List Nat} (h : s.mem.wf = true) (ht : s.performFor gang slot as = some t) :
    t.mem.wf = true := by
  unfold State.performFor at ht
  split at ht
  · cases ht; exact h
  · dsimp only at ht
    split at ht
    · cases ht; exact h
    · exact State.performFirst_wf h ht

/-! ## The vats -/

theorem State.vatWrite_wf {s : State} (h : s.vat.wf = true) (core a : Nat) (b : Byte) : (s.vatWrite core a b).vat.wf = true := by
  unfold State.vatWrite
  split
  · exact h
  · exact Memory.write_wf h _ b

theorem State.vatWriteBytes_wf {s : State} (h : s.vat.wf = true) (core a : Nat) (bs : List Byte) : (s.vatWriteBytes core a bs).vat.wf = true := by
  induction bs generalizing s a with
  | nil => exact h
  | cons b bs ih => exact ih (State.vatWrite_wf h core a b) (a + 1)

theorem State.writeVat_wf {s : State} (h : s.vat.wf = true) (core a : Nat) (bs : List Byte) : (s.writeVat core a bs).vat.wf = true :=
  State.vatWriteBytes_wf h core a bs

/-! ## The TLBs (03 R57) -/

/-- A TLB never holds more entries than it has. -/
theorem tlbPut_length {cap : Nat} (hc : 0 < cap) (victim : Nat) (key : Nat × Nat) {xs : List (Nat × Nat)} (h : xs.length ≤ cap) :
    (tlbPut cap victim key xs).length ≤ cap := by
  unfold tlbPut
  split
  · exact h
  · split
    · have hv : victim % xs.length < xs.length := Nat.mod_lt _ (by omega)
      simp only [List.length_append, List.length_eraseIdx, hv, if_true, List.length_cons, List.length_nil]
      omega
    · simp only [List.length_append, List.length_cons, List.length_nil]
      omega

/-- The entry that was put in is there. -/
theorem mem_tlbPut (cap victim : Nat) (key : Nat × Nat) (xs : List (Nat × Nat)) : key ∈ tlbPut cap victim key xs := by
  unfold tlbPut
  split <;> simp_all

/-- What a fill of a TLB leaves alone: everything but the TLB and the count of free values. -/
theorem State.victim_same (s : State) (cap : Nat) (xs : List (Nat × Nat)) :
    (s.victim cap xs).1.mem = s.mem ∧ (s.victim cap xs).1.vat = s.vat ∧ (s.victim cap xs).1.gangs = s.gangs := by
  unfold State.victim
  split <;> exact ⟨rfl, rfl, rfl⟩

theorem State.fillCoreTlb_same (s : State) (core : Nat) (key : Nat × Nat) :
    (s.fillCoreTlb core key).mem = s.mem ∧ (s.fillCoreTlb core key).vat = s.vat ∧ (s.fillCoreTlb core key).gangs = s.gangs :=
  s.victim_same coreTlbSize (s.core? core).tlb

/-- An access that meets the TLBs and the miss table changes no memory, no vat and no gang. -/
theorem State.touchPage_same {s t : State} {core ctx : Nat} {va : Word} (h : s.touchPage core ctx va = some t) :
    t.mem = s.mem ∧ t.vat = s.vat ∧ t.gangs = s.gangs := by
  unfold State.touchPage at h
  dsimp only at h
  split at h
  · cases h; exact ⟨rfl, rfl, rfl⟩
  · split at h
    · cases h; exact s.fillCoreTlb_same core _
    · split at h
      · cases h; simp
      · split at h
        · cases h
        · cases h; simp

theorem State.touchPages_same {s t : State} {core ctx : Nat} {vas : List Word} (h : s.touchPages core ctx vas = some t) :
    t.mem = s.mem ∧ t.vat = s.vat ∧ t.gangs = s.gangs := by
  induction vas generalizing s with
  | nil => cases h; exact ⟨rfl, rfl, rfl⟩
  | cons va vas ih =>
    unfold State.touchPages at h
    split at h
    · exact ih h
    · split at h
      · cases h
      · rename_i s' hs
        have h1 := ih h
        have h2 := State.touchPage_same hs
        exact ⟨h1.1.trans h2.1, h1.2.1.trans h2.2.1, h1.2.2.trans h2.2.2⟩

/-! ## FMT and PART (08 R174; 10 R194) -/

/-- The reserved bits of FMT stay 0. -/
theorem heldFmt_reserved (old v : BitVec 16) : (heldFmt old v).toNat < 2 ^ 10 := by
  unfold heldFmt
  dsimp only
  rw [BitVec.toNat_ofNat]
  refine Nat.lt_of_le_of_lt (Nat.mod_le _ _) ?_
  split <;> split <;> omega

/-- PART holds a tile size. -/
theorem heldPart_held {old : BitVec 16} (h : 1 ≤ old.toNat % 8 ∧ old.toNat % 8 ≤ 5) (v : BitVec 16) :
    1 ≤ (heldPart old v).toNat ∧ (heldPart old v).toNat ≤ 5 := by
  unfold heldPart
  dsimp only
  split <;> rw [BitVec.toNat_ofNat, Nat.mod_eq_of_lt] <;> omega

end Sys2Proof.Machine
end

