-- ==== Sys2Proof/Laws/PerInstr.lean ====
section
/-! SUPPORT. The family Length: an instruction's words are as many bytes as its LEN says (02 R20). -/

namespace Sys2Proof.Laws.Length

/-- The encoder writes exactly the instruction's length; an event row has no words. -/
def Statement (i : Instr) : Prop := ∀ bs, encode i = some bs → bs.length = i.bytes

theorem words_length (f : Fields) : f.words.length = wordsOfLen f.len := by
  unfold Fields.words wordsOfLen
  split <;> rfl

theorem bytes_length (ws : List Nat) : (ws.flatMap bytesOfWord).length = 4 * ws.length := by
  induction ws with
  | nil => rfl
  | cons w ws ih =>
    rw [List.flatMap_cons, List.length_append, ih, List.length_cons]
    show 4 + 4 * ws.length = _
    omega

theorem all (i : Instr) : Statement i := by
  intro bs h
  unfold encode encodeWords at h
  unfold Instr.bytes
  cases hf : i.fields with
  | none => rw [hf] at h; cases h
  | some f =>
    rw [hf] at h
    cases h
    rw [bytes_length, words_length]

theorem uaddBase (x) : Statement (.uaddBase x) := all _
theorem uaddExt (x) : Statement (.uaddExt x) := all _
theorem usub (x) : Statement (.usub x) := all _
theorem umul (x) : Statement (.umul x) := all _
theorem umulh (x) : Statement (.umulh x) := all _
theorem umin (x) : Statement (.umin x) := all _
theorem umax (x) : Statement (.umax x) := all _
theorem uset (x) : Statement (.uset x) := all _
theorem usel (x) : Statement (.usel x) := all _
theorem upopc (x) : Statement (.upopc x) := all _
theorem uclz (x) : Statement (.uclz x) := all _
theorem ubfx (x) : Statement (.ubfx x) := all _
theorem ubfi (x) : Statement (.ubfi x) := all _
theorem uandBase (x) : Statement (.uandBase x) := all _
theorem uandExt (x) : Statement (.uandExt x) := all _
theorem uor (x) : Statement (.uor x) := all _
theorem uxor (x) : Statement (.uxor x) := all _
theorem ushlBase (x) : Statement (.ushlBase x) := all _
theorem ushlExt (x) : Statement (.ushlExt x) := all _
theorem ushr (x) : Statement (.ushr x) := all _
theorem usra (x) : Statement (.usra x) := all _
theorem umovBase (x) : Statement (.umovBase x) := all _
theorem umovExt (x) : Statement (.umovExt x) := all _
theorem uli (x) : Statement (.uli x) := all _
theorem vaddBase (x) : Statement (.vaddBase x) := all _
theorem vaddExt (x) : Statement (.vaddExt x) := all _
theorem vsub (x) : Statement (.vsub x) := all _
theorem vmul (x) : Statement (.vmul x) := all _
theorem vmulh (x) : Statement (.vmulh x) := all _
theorem vmin (x) : Statement (.vmin x) := all _
theorem vmax (x) : Statement (.vmax x) := all _
theorem vabs (x) : Statement (.vabs x) := all _
theorem vset (x) : Statement (.vset x) := all _
theorem vsel (x) : Statement (.vsel x) := all _
theorem vpopc (x) : Statement (.vpopc x) := all _
theorem vclz (x) : Statement (.vclz x) := all _
theorem vbfx (x) : Statement (.vbfx x) := all _
theorem vbfi (x) : Statement (.vbfi x) := all _
theorem vaddc (x) : Statement (.vaddc x) := all _
theorem vidx (x) : Statement (.vidx x) := all _
theorem vmad (x) : Statement (.vmad x) := all _
theorem vdot4 (x) : Statement (.vdot4 x) := all _
theorem vandBase (x) : Statement (.vandBase x) := all _
theorem vandExt (x) : Statement (.vandExt x) := all _
theorem vor (x) : Statement (.vor x) := all _
theorem vxor (x) : Statement (.vxor x) := all _
theorem vshlBase (x) : Statement (.vshlBase x) := all _
theorem vshlExt (x) : Statement (.vshlExt x) := all _
theorem vshr (x) : Statement (.vshr x) := all _
theorem vsra (x) : Statement (.vsra x) := all _
theorem vmovBase (x) : Statement (.vmovBase x) := all _
theorem vmovExt (x) : Statement (.vmovExt x) := all _
theorem faddBase (x) : Statement (.faddBase x) := all _
theorem faddExt (x) : Statement (.faddExt x) := all _
theorem fsub (x) : Statement (.fsub x) := all _
theorem fmul (x) : Statement (.fmul x) := all _
theorem fmin (x) : Statement (.fmin x) := all _
theorem fmax (x) : Statement (.fmax x) := all _
theorem fabs (x) : Statement (.fabs x) := all _
theorem fneg (x) : Statement (.fneg x) := all _
theorem fset (x) : Statement (.fset x) := all _
theorem fclass (x) : Statement (.fclass x) := all _
theorem ffma (x) : Statement (.ffma x) := all _
theorem fcvt (x) : Statement (.fcvt x) := all _
theorem icvt (x) : Statement (.icvt x) := all _
theorem bcvt (x) : Statement (.bcvt x) := all _
theorem frnd (x) : Statement (.frnd x) := all _
theorem frcpBase (x) : Statement (.frcpBase x) := all _
theorem frcpExt (x) : Statement (.frcpExt x) := all _
theorem frsq (x) : Statement (.frsq x) := all _
theorem fsqrt (x) : Statement (.fsqrt x) := all _
theorem fexp2 (x) : Statement (.fexp2 x) := all _
theorem flog2 (x) : Statement (.flog2 x) := all _
theorem fsin (x) : Statement (.fsin x) := all _
theorem fcos (x) : Statement (.fcos x) := all _
theorem ftanh (x) : Statement (.ftanh x) := all _
theorem vrng (x) : Statement (.vrng x) := all _
theorem vote (x) : Statement (.vote x) := all _
theorem shfl (x) : Statement (.shfl x) := all _
theorem redux (x) : Statement (.redux x) := all _
theorem scan (x) : Statement (.scan x) := all _
theorem ffs (x) : Statement (.ffs x) := all _
theorem setpart (x) : Statement (.setpart x) := all _
theorem lmask (x) : Statement (.lmask x) := all _
theorem bra (x) : Statement (.bra x) := all _
theorem brc (x) : Statement (.brc x) := all _
theorem ubrc (x) : Statement (.ubrc x) := all _
theorem jmp (x) : Statement (.jmp x) := all _
theorem call (x) : Statement (.call x) := all _
theorem ret (x) : Statement (.ret x) := all _
theorem becomeBase (x) : Statement (.becomeBase x) := all _
theorem becomeExt (x) : Statement (.becomeExt x) := all _
theorem merge (x) : Statement (.merge x) := all _
theorem sync (x) : Statement (.sync x) := all _
theorem gsync : Statement .gsync := all _
theorem yield : Statement .yield := all _
theorem nopBase : Statement .nopBase := all _
theorem nopExt : Statement .nopExt := all _
theorem setfmtBase (x) : Statement (.setfmtBase x) := all _
theorem setfmtExt (x) : Statement (.setfmtExt x) := all _
theorem getfmt (x) : Statement (.getfmt x) := all _
theorem getsr (x) : Statement (.getsr x) := all _
theorem setprio (x) : Statement (.setprio x) := all _
theorem ldBase (x) : Statement (.ldBase x) := all _
theorem ldExt (x) : Statement (.ldExt x) := all _
theorem ldu (x) : Statement (.ldu x) := all _
theorem stBase (x) : Statement (.stBase x) := all _
theorem stExt (x) : Statement (.stExt x) := all _
theorem stu (x) : Statement (.stu x) := all _
theorem atom (x) : Statement (.atom x) := all _
theorem atomu (x) : Statement (.atomu x) := all _
theorem red (x) : Statement (.red x) := all _
theorem oapp (x) : Statement (.oapp x) := all _
theorem pref (x) : Statement (.pref x) := all _
theorem cflush (x) : Statement (.cflush x) := all _
theorem fence (x) : Statement (.fence x) := all _
theorem ifence : Statement .ifence := all _
theorem setmod (x) : Statement (.setmod x) := all _
theorem stmap (x) : Statement (.stmap x) := all _
theorem stunmap (x) : Statement (.stunmap x) := all _
theorem stwb (x) : Statement (.stwb x) := all _
theorem stdrop (x) : Statement (.stdrop x) := all _
theorem swinit (x) : Statement (.swinit x) := all _
theorem swarrive (x) : Statement (.swarrive x) := all _
theorem swexpect (x) : Statement (.swexpect x) := all _
theorem swwait (x) : Statement (.swwait x) := all _
theorem wait (x) : Statement (.wait x) := all _
theorem ldt (x) : Statement (.ldt x) := all _
theorem stt (x) : Statement (.stt x) := all _
theorem cqcfg (x) : Statement (.cqcfg x) := all _
theorem copy (x) : Statement (.copy x) := all _
theorem gather (x) : Statement (.gather x) := all _
theorem scatter (x) : Statement (.scatter x) := all _
theorem scatadd (x) : Statement (.scatadd x) := all _
theorem strcfg (x) : Statement (.strcfg x) := all _
theorem strgo (x) : Statement (.strgo x) := all _
theorem strhalt (x) : Statement (.strhalt x) := all _
theorem spbind (x) : Statement (.spbind x) := all _
theorem slotsig (x) : Statement (.slotsig x) := all _
theorem coll (x) : Statement (.coll x) := all _
theorem mres (x) : Statement (.mres x) := all _
theorem mrel : Statement .mrel := all _
theorem mstat (x) : Statement (.mstat x) := all _
theorem mldb (x) : Statement (.mldb x) := all _
theorem mmul (x) : Statement (.mmul x) := all _
theorem mamov (x) : Statement (.mamov x) := all _
theorem mzero (x) : Statement (.mzero x) := all _
theorem mfenceBase : Statement .mfenceBase := all _
theorem mfenceExt : Statement .mfenceExt := all _
theorem mwait (x) : Statement (.mwait x) := all _
theorem prune (x) : Statement (.prune x) := all _
theorem mldbs (x) : Statement (.mldbs x) := all _
theorem mmuls (x) : Statement (.mmuls x) := all _
theorem mhdr (x) : Statement (.mhdr x) := all _
theorem qpush (x) : Statement (.qpush x) := all _
theorem qpop (x) : Statement (.qpop x) := all _
theorem qtry (x) : Statement (.qtry x) := all _
theorem qlen (x) : Statement (.qlen x) := all _
theorem qstat (x) : Statement (.qstat x) := all _
theorem tspawn (x) : Statement (.tspawn x) := all _
theorem tdone (x) : Statement (.tdone x) := all _
theorem wlpush (x) : Statement (.wlpush x) := all _
theorem wlins (x) : Statement (.wlins x) := all _
theorem wlpop (x) : Statement (.wlpop x) := all _
theorem futset (x) : Statement (.futset x) := all _
theorem futget (x) : Statement (.futget x) := all _
theorem bkptBase : Statement .bkptBase := all _
theorem bkptExt (x) : Statement (.bkptExt x) := all _
theorem trap (x) : Statement (.trap x) := all _
theorem syscall (x) : Statement (.syscall x) := all _
theorem eret : Statement .eret := all _
theorem csrr (x) : Statement (.csrr x) := all _
theorem csrw (x) : Statement (.csrw x) := all _
theorem chkmode (x) : Statement (.chkmode x) := all _
theorem rpmark (x) : Statement (.rpmark x) := all _
theorem rpget (x) : Statement (.rpget x) := all _
theorem ckseal (x) : Statement (.ckseal x) := all _
theorem finj (x) : Statement (.finj x) := all _
theorem walkStart (x) : Statement (.walkStart x) := all _
theorem walkComplete (x) : Statement (.walkComplete x) := all _
theorem pageMigration (x) : Statement (.pageMigration x) := all _
theorem loadComplete (x) : Statement (.loadComplete x) := all _
theorem storePerformed (x) : Statement (.storePerformed x) := all _
theorem updateOnlyMerge (x) : Statement (.updateOnlyMerge x) := all _
theorem redUpdateArrival (x) : Statement (.redUpdateArrival x) := all _
theorem appendElementWrite (x) : Statement (.appendElementWrite x) := all _
theorem lineRecall (x) : Statement (.lineRecall x) := all _
theorem engineCommandComplete (x) : Statement (.engineCommandComplete x) := all _
theorem engineLineWrite (x) : Statement (.engineLineWrite x) := all _
theorem fillSlotReady (x) : Statement (.fillSlotReady x) := all _
theorem drainSlotReturn (x) : Statement (.drainSlotReturn x) := all _
theorem streamLastElement (x) : Statement (.streamLastElement x) := all _
theorem collRendezvous (x) : Statement (.collRendezvous x) := all _
theorem syncWordArrival (x) : Statement (.syncWordArrival x) := all _
theorem stashWriteback (x) : Statement (.stashWriteback x) := all _
theorem tileOperationStart (x) : Statement (.tileOperationStart x) := all _
theorem tileOperationComplete (x) : Statement (.tileOperationComplete x) := all _
theorem reservationRelease (x) : Statement (.reservationRelease x) := all _
theorem sharedAgeingServe (x) : Statement (.sharedAgeingServe x) := all _
theorem splitMerge (x) : Statement (.splitMerge x) := all _
theorem reconvergence (x) : Statement (.reconvergence x) := all _
theorem membershipComplete (x) : Statement (.membershipComplete x) := all _
theorem deckleBecome (x) : Statement (.deckleBecome x) := all _
theorem materialisation (x) : Statement (.materialisation x) := all _
theorem gsyncComplete (x) : Statement (.gsyncComplete x) := all _
theorem hostPush (x) : Statement (.hostPush x) := all _
theorem successorPush (x) : Statement (.successorPush x) := all _
theorem taskDispatch (x) : Statement (.taskDispatch x) := all _
theorem effectiveLevelRaise (x) : Statement (.effectiveLevelRaise x) := all _
theorem queueHolding (x) : Statement (.queueHolding x) := all _
theorem gangMigration (x) : Statement (.gangMigration x) := all _
theorem forwardingExpire (x) : Statement (.forwardingExpire x) := all _
theorem forwardedMessage (x) : Statement (.forwardedMessage x) := all _
theorem splitBoost (x) : Statement (.splitBoost x) := all _
theorem pressWake (x) : Statement (.pressWake x) := all _
theorem skidEnd (x) : Statement (.skidEnd x) := all _
theorem handlerDelivery (x) : Statement (.handlerDelivery x) := all _
theorem ezdenTrap (x) : Statement (.ezdenTrap x) := all _
theorem syscallComplete (x) : Statement (.syscallComplete x) := all _
theorem syscallTimeout (x) : Statement (.syscallTimeout x) := all _
theorem preemption (x) : Statement (.preemption x) := all _
theorem preemptionComplete (x) : Statement (.preemptionComplete x) := all _
theorem contextSwitch (x) : Statement (.contextSwitch x) := all _
theorem contextRestore (x) : Statement (.contextRestore x) := all _
theorem gangExit (x) : Statement (.gangExit x) := all _
theorem gangKill (x) : Statement (.gangKill x) := all _
theorem uncorrectableError (x) : Statement (.uncorrectableError x) := all _
theorem correctableError (x) : Statement (.correctableError x) := all _
theorem replayQueueExecution (x) : Statement (.replayQueueExecution x) := all _
theorem signatureMatch (x) : Statement (.signatureMatch x) := all _
theorem pairRollback (x) : Statement (.pairRollback x) := all _
theorem pairRestore (x) : Statement (.pairRestore x) := all _
theorem injectionFire (x) : Statement (.injectionFire x) := all _
theorem peerChipLoss (x) : Statement (.peerChipLoss x) := all _
theorem halufRetransmit (x) : Statement (.halufRetransmit x) := all _
theorem durableAcknowledge (x) : Statement (.durableAcknowledge x) := all _
theorem checkpointSeal (x) : Statement (.checkpointSeal x) := all _
theorem sealCommit (x) : Statement (.sealCommit x) := all _
theorem dieReset (x) : Statement (.dieReset x) := all _
theorem chipReset : Statement .chipReset := all _
theorem perstDeassert (x) : Statement (.perstDeassert x) := all _
theorem bootReady : Statement .bootReady := all _
theorem bootTimeout (x) : Statement (.bootTimeout x) := all _
theorem functionLevelReset (x) : Statement (.functionLevelReset x) := all _
theorem hostBar2Read (x) : Statement (.hostBar2Read x) := all _
theorem hostBar2Write (x) : Statement (.hostBar2Write x) := all _
theorem bar0OtherWrite (x) : Statement (.bar0OtherWrite x) := all _
theorem invalidCommandRecord (x) : Statement (.invalidCommandRecord x) := all _
theorem negotiateFeatures (x) : Statement (.negotiateFeatures x) := all _
theorem createContext (x) : Statement (.createContext x) := all _
theorem destroyContext (x) : Statement (.destroyContext x) := all _
theorem map (x) : Statement (.map x) := all _
theorem unmap (x) : Statement (.unmap x) := all _
theorem loadCode (x) : Statement (.loadCode x) := all _
theorem createQueueObject (x) : Statement (.createQueueObject x) := all _
theorem destroyQueueObject (x) : Statement (.destroyQueueObject x) := all _
theorem readEnumerationTable (x) : Statement (.readEnumerationTable x) := all _
theorem readCounters (x) : Statement (.readCounters x) := all _
theorem setPowerCap (x) : Statement (.setPowerCap x) := all _
theorem setAgeingBlock (x) : Statement (.setAgeingBlock x) := all _
theorem configureParityGroup (x) : Statement (.configureParityGroup x) := all _
theorem restore (x) : Statement (.restore x) := all _
theorem attest (x) : Statement (.attest x) := all _
theorem bindWindow (x) : Statement (.bindWindow x) := all _
theorem notAnInstruction : Statement .notAnInstruction := all _
theorem pressModeSwitch (x) : Statement (.pressModeSwitch x) := all _

end Sys2Proof.Laws.Length
end

