-- ==== Sys2Proof/Tests/Lab.lean ====
section
/-! SUPPORT. The small states and the checkers that the tests share. -/

namespace Sys2Proof.Tests

open Sys2Proof.Machine

/-- The focus of the lab's split. -/
def here : Focus := { gang := 1, group := 0, split := 0 }

/-- A context whose page at 0x10000 can be read, written and executed. -/
def page : State :=
  let s := State.reset.addContext (Context.fresh 1 0)
  match s.ctx? 1 with
  | some c => s.mapPage c.root 0x10000 0 0 0x1A 1
  | none => s

/-- The gang of a record on core 0, with the groups it starts with, its trap frame at the top of stack 7. -/
def gangFor (t : TaskRec) : Gang :=
  let g : Gang :=
    { id := 1, ctx := t.ctx, core := 0, task := t, base := 0, size := t.allocSize, parts := List.range t.budget, places := assignPlaces (List.range t.budget) [], groups := []
      seq := launchSeq t.groups, nextGid := BitVec.ofNat 16 t.groups, nextSeq := 0, pend := [], snaps := []
      spillVa := spillVaOf 1, spillPhys := 0, spillSize := t.spill * 2 ^ 16, frameVa := frameVaOf 1, framePhys := 0x70FFF0000
      channels := Vector.replicate 4 Channel.empty, effects := [], nr := false, nrOverflow := false, nrRemoval := false
      csr := Csrs.reset (BitVec.ofNat 64 (frameVaOf 1)), rpt := { gen := 0, pc := 0, state := 0, durpend := false, base := 0 }, chk := 0
      refused := 0, halt := none, handler := none, handlerRest := [], run := .running, pair := none, injections := [], age := 0 }
  { g with groups := (List.range t.groups).map g.launchGroup }

/-- On core 0 a gang of one group started from a record, all lanes live; its split 0 is in focus. -/
def labOf (t : TaskRec) : State := { page with gangs := [gangFor t], nextGang := 2, cur := here, agenda := [.issue here] }
def lab : State := labOf (oneGroup 1)

/-- The lab with a uniform register set. -/
def withS (s : State) (r : SReg) (v : Word) : State := s.modGroup 1 0 (fun g => { g with s := g.s.set r.val v r.isLt })

/-- The lab with its gang changed. -/
def labWith (f : Gang → Gang) : State := lab.modGang 1 f
def labGroup (f : Group → Group) : State := lab.modGroup 1 0 f

/-- One live lane. -/
def soloOf (s : State) : State := s.modGroup 1 0 (fun g => g.setSplit 0 (some (Split.start 0x10000 1 0)))
def solo : State := soloOf lab

/-- One live lane, and in the allocation two tile registers, an append buffer, a stash part at 0x11000 and a program part of 128 KiB at 0x12000. -/
def bigTask : TaskRec := { oneGroup 1 with tiles := 2, chan := 1, stash := 1, prog := 32 }
def big : State := soloOf (labOf bigTask)

/-- What the split in focus issues in. -/
def issAt (s : State) (n : Need) (len : Nat) : Iss :=
  let g := (s.gang? s.cur.gang).getD (gangFor (oneGroup 0))
  let x := (s.group? s.cur.gang s.cur.group).getD (Group.fresh 0 0 0)
  let sp := (s.split? s.cur).getD (Split.start 0 0 0)
  { s := s.modSplit s.cur Split.go, f := s.cur, gang := g, grp := x, sp := sp, exec := sp.lanes &&& x.guardMask n.g, len := len }

/-- Nothing stands against the issue. -/
def issuesB (s : State) (n : Need) (len : Nat) : Bool :=
  let c := issAt s n len
  (s.gang? s.cur.gang).isSome && (s.group? s.cur.gang s.cur.group).isSome && (s.split? s.cur).isSome && s.canIssue s.cur &&
  checkNeed s c.f c.gang c.grp n == 0 && !(c.exec == 0) && s.operandsReady c.gang c.grp c.sp n && !s.slackStall c.gang c.grp

theorem issues_of {s : State} {n : Need} {len : Nat} (h : issuesB s n len = true) : Issues s n len (issAt s n len) := by
  unfold issuesB at h
  simp only [Bool.and_eq_true, Bool.not_eq_true', beq_iff_eq, beq_eq_false_iff_ne, Option.isSome_iff_exists] at h
  obtain ⟨⟨⟨⟨⟨⟨⟨⟨g, hg⟩, x, hx⟩, sp, hsp⟩, hc⟩, hn⟩, he⟩, hr⟩, hs⟩ := h
  have e1 : (issAt s n len).gang = g := by simp [issAt, hg]
  have e2 : (issAt s n len).grp = x := by simp [issAt, hx]
  have e3 : (issAt s n len).sp = sp := by simp [issAt, hsp]
  exact ⟨hc, rfl, rfl, rfl, by rw [e1]; exact hg, by rw [e2]; exact hx, by rw [e3]; exact hsp, rfl, hn, he, hr, hs⟩

/-- A computation answers. -/
def okB {α : Type} (x : Except Stop α) : Bool :=
  match x with
  | .ok _ => true
  | .error _ => false

/-- Its answer. -/
def val {α : Type} (x : Except Stop α) (d : α) : α :=
  match x with
  | .ok a => a
  | .error _ => d

theorem ok_of {α : Type} {x : Except Stop α} (d : α) (h : okB x = true) : x = .ok (val x d) := by
  cases x with
  | ok a => rfl
  | error e => cases h

/-- An optional answer. -/
theorem some_of {α : Type} {x : Option α} (d : α) (h : x.isSome = true) : x = some (x.getD d) := by
  cases x with
  | some a => rfl
  | none => cases h

/-- The lanes of a register live. -/
def livesB (s : State) (f : Focus) (r : Nat) : Bool :=
  match s.gang? f.gang with
  | some g => (List.range 32).all (fun l => (List.range 4).all (fun i => !s.deadByte g.core (g.window f.group + 128 * r + 4 * l + i)))
  | none => true

theorem lives_of {s : State} {f : Focus} {r : Nat} (h : livesB s f r = true) {l : Nat} (hl : l < 32) : s.laneLives f r l := by
  intro g hg i hi
  unfold livesB at h
  rw [hg] at h
  have h1 := List.all_eq_true.mp h l (List.mem_range.mpr hl)
  have h2 := List.all_eq_true.mp h1 i (List.mem_range.mpr hi)
  simpa using h2

/-- An outcome is a next state with a property. -/
def nextB (o : Host.Outcome State Fault Refusal) (p : State → Bool) : Bool :=
  match o with
  | .next t => p t
  | _ => false

end Sys2Proof.Tests
end

