-- ==== Sys2Proof/Tests/Slice0.lean ====
section
/-! SUPPORT. The decoder on the words that the manual works out, the checks of WellFormed on ill-formed terms, and single steps whose results the manual
works out. -/

namespace Sys2Proof.Tests.Slice0

open Sys2Proof Sys2Proof.Machine

set_option maxRecDepth 100000
set_option Elab.async false

/-! ## Words of the manual's worked encodings (02, 04, 05, 07, 09-14, 16-18), the first word lowest -/

/-- 04: `LD v2, [s4+12]`. -/
theorem test_decode_ld : decodeTableWord 32 0x03040280 = some (.ldBase { d := 2, a := 4, b := 3 }) := by decide
/-- 04: `ST.i8 v9, [vat:s6+v7]`. -/
theorem test_decode_st : decodeTableWord 96 0x009000000010700000060986 =
    some (.stExt { g := .none, ty := .i8, ord := .plain, scope := .dflt, d := .v 9, addr := .indexed 6 (.v 7) 0 0, sp := true, nt := false }) := by decide
/-- 04: `LDU.n64 s10, [m1]+=1`. -/
theorem test_decode_ldu : decodeTableWord 96 0x00B000010080000100010A82 =
    some (.ldu { ty := .n64, ord := .plain, scope := .dflt, d := 10, addr := .modulo 1 1, sp := true, nt := false }) := by decide
/-- 04: `ATOM.add.i32.ar.dev v1, [s4+v6+8], v3`. -/
theorem test_decode_atom : decodeTableWord 96 0x00100008053060C00304018A =
    some (.atom
      { g := .none, op := .add, ty := .i32, ord := .ar, scope := .dev, d := .v 1, addr := .indexed 4 (.v 6) 8 0, sp := false, b := .reg (.v 3), nt := false }) :=
  by decide
/-- 05: `COPY vat:s10, s4, s5, s12`. -/
theorem test_decode_copy : decodeTableWord 96 0x000000050000C00005040AC2 =
    some (.copy { dv := true, av := false, d := 10, a := 4, b := 5, sw := some 12, nt := false }) := by decide
/-- 05: `GATHER.f32 vat:s20, s6, vat:s21, s22`. -/
theorem test_decode_gather : decodeTableWord 96 0x0000001000B16000150614C6 =
    some (.gather { ty := .f32, d := 20, a := 6, b := 21, sw := some 22, nt := false }) := by decide
/-- 05: `SCATADD.add.f32 vat:s20, s6, vat:s21`. -/
theorem test_decode_scatadd : decodeTableWord 96 0x0000000000B00002150614C6 =
    some (.scatadd { op := .add, ty := .f32, d := 20, a := 6, b := 21, nt := false }) := by decide
/-- 05: `STRCFG up1, s8, 2`. -/
theorem test_decode_strcfg : decodeTableWord 96 0x0000000000000000020801CA = some (.strcfg { d := 1, a := 8, e := 2, nt := false }) := by decide
/-- 05: `COLL.allreduce.add.f32 s20, s21, s22, s23`. -/
theorem test_decode_coll : decodeTableWord 96 0x0000000000B17000161514CE =
    some (.coll { kind := .allreduce, op := .add, ty := .f32, d := 20, a := 21, b := 22, c := 23, nt := false }) := by decide
/-- 07: `STMAP vat:s30, s31, wr`. -/
theorem test_decode_stmap : decodeTableWord 96 0x0000000100000000001F1EA2 = some (.stmap { d := 30, a := 31, wr := true }) := by decide
/-- 07: `SWINIT s20, 4096, keep`. -/
theorem test_decode_swinit : decodeTableWord 160 0x00000000000010000000000100000000001400A7 =
    some (.swinit { a := 20, b := .long 4096, keep := true }) := by decide
/-- 07: `SWEXPECT s20, s21`. -/
theorem test_decode_swexpect : decodeTableWord 96 0x0000000000000002151400A6 = some (.swexpect { a := 20, b := .reg 21 }) := by decide
/-- 07: `SWWAIT up1, s20, s22`. -/
theorem test_decode_swwait : decodeTableWord 96 0x0000000000000003161401A6 =
    some (.swwait { d := 1, a := 20, b := .reg 22, try_ := false }) := by decide
/-- 07: `WAIT ld=0 cp=0`. -/
theorem test_decode_wait : decodeTableWord 96 0x00FC0FC000000000000000AA = some (.wait { ld := 0, st := 63, cp := 0, tl := 63 }) := by decide
/-- 07: `LDT t0, s8, s9, s20, 4`. -/
theorem test_decode_ldt : decodeTableWord 96 0x0000001300014000090800AE = some (.ldt { d := 0, a := 8, b := 9, sw := some 20, n1 := 3 }) := by decide
/-- 07: `CQCFG k2, v40, 4`. -/
theorem test_decode_cqcfg : decodeTableWord 96 0x0000000408000000002802B2 = some (.cqcfg { k := 2, a := 40, depth := 4 }) := by decide
/-- 09: `FRCP v2, v1`. -/
theorem test_decode_frcp : decodeTableWord 32 0x0001024C = some (.frcpBase { d := 2, a := 1 }) := by decide
/-- 09: `USET.lt.n64 up2, s5, s6`. -/
theorem test_decode_uset : decodeTableWord 96 0x000000020080000606050206 =
    some (.uset { cc := .lt, ty := .n64, d := 2, a := 5, b := .reg 6 }) := by decide
/-- 09: `VBFX.i32 v4, v9, 8, 5`. -/
theorem test_decode_vbfx : decodeTableWord 96 0x000005080030000B00090422 =
    some (.vbfx { g := .none, ty := .i32, d := .v 4, a := .v 9, pos := 8, len := 5 }) := by decide
/-- 09: `VMAD.sat v8, v2, v3, v4`. -/
theorem test_decode_vmad : decodeTableWord 96 0x000000000100400003020826 =
    some (.vmad { g := .none, ty := .i32, sat := true, d := .v 8, a := .v 2, b := .reg (.v 3), c := .v 4 }) := by decide
/-- 09: `(p1) FSET.lt.f32 p3, v10, v11`. -/
theorem test_decode_fset : decodeTableWord 96 0x0000000200B001070B0A0342 =
    some (.fset { g := .pos 0, cc := .lt, ty := .f32, d := 3, a := .v 10, b := .reg (.v 11) }) := by decide
/-- 09: `ICVT.i32.f32.rtz v5, v6`. -/
theorem test_decode_icvt : decodeTableWord 96 0x0000000B023000010006054A =
    some (.icvt { g := .none, dty := .i32, sty := 11, rm := .rtz, d := .v 5, a := .v 6 }) := by decide
/-- 09: `BCVT.bfp4 v20, v21, s9`. -/
theorem test_decode_bcvt : decodeTableWord 96 0x0000000003D090020015144A = some (.bcvt { w2 := 2, d := .v 20, a := .v 21, c := 9 }) := by decide
/-- 09: `VRNG v12, s40, v14`. -/
theorem test_decode_vrng : decodeTableWord 96 0x00000000000000000E280C52 = some (.vrng { g := .none, d := .v 12, a := 40, b := .v 14 }) := by decide
/-- 10: `VOTE.bal v3, p2`. -/
theorem test_decode_vote : decodeTableWord 96 0x000002000000008000020362 = some (.vote { d := .bal (.v 3), a := 2, mask := .all }) := by decide
/-- 10: `REDUX.add.f32.rne v8, v9`. -/
theorem test_decode_redux : decodeTableWord 96 0x0000020001B0000200090862 =
    some (.redux { op := .add, ty := .f32, mod := .rm .rne, d := .v 8, a := .v 9, mask := .all }) := by decide
/-- 10: `SETPART 8`. -/
theorem test_decode_setpart : decodeTableWord 96 0x000000030000000500000062 = some (.setpart { tlog := 3 }) := by decide
/-- 11: `MRES up1, 8, 2`. -/
theorem test_decode_mres : decodeTableWord 96 0x0000020800000000000001D2 = some (.mres { d := 1, nm := 8, nk := 2 }) := by decide
/-- 11: `MLDB.bfp8 0, vat:s20, vat:s21`. -/
theorem test_decode_mldb : decodeTableWord 96 0x0000000007D00000151400D6 = some (.mldb { w := .bfp 6, mould := 0, a := 20, b := 21 }) := by decide
/-- 11: `MAMOV.out a0, vat:s26, 32`. -/
theorem test_decode_mamov : decodeTableWord 96 0x00001F0000000002001A00D6 = some (.mamov { inward := false, d := 0, a := 26, nr1 := 31 }) := by decide
/-- 11: `MZERO a3`. -/
theorem test_decode_mzero : decodeTableWord 96 0x0000000000000003000003D6 = some (.mzero { d := 3 }) := by decide
/-- 11: `MFENCE`. -/
theorem test_decode_mfence : decodeTableWord 32 0x000000D8 = some .mfenceBase := by decide
/-- 11: `MWAIT 5`. -/
theorem test_decode_mwait : decodeTableWord 96 0x0000000500000001000000DA = some (.mwait { n := 5 }) := by decide
/-- 11: `MSTAT s12`. -/
theorem test_decode_mstat : decodeTableWord 96 0x000000000000000200000CD2 = some (.mstat { d := 12 }) := by decide
/-- 12: `PRUNE.bfp8 up1, vat:s20, vat:s21, vat:s22, 2, 4, 512, 256, tp`. -/
theorem test_decode_prune : decodeTableWord 96 0x000FFF4107D16000151401E2 =
    some (.prune { w := .bfp 6, d := 1, a := 20, b := 21, c := 22, nm1 := 1, mc := 0, tp := true, idx4 := false, cm1 := 255, km := 15 }) := by decide
/-- 12: `MLDBS.bfp8 0, vat:s21, vat:s23, vat:s22`. -/
theorem test_decode_mldbs : decodeTableWord 96 0x0000000007D16001171500E2 =
    some (.mldbs { w := .bfp 6, first := 0, a := 21, b := 23, c := 22 }) := by decide
/-- 12: `MMULS.bfp4 a0, vat:s24, 0, vat:s22, 32`. -/
theorem test_decode_mmuls : decodeTableWord 96 0x00001F0003D16002001800E2 =
    some (.mmuls { w := .bfp 2, d := 0, a := 24, first := 0, c := 22, nr1 := 31 }) := by decide
/-- 12: `MHDR s12, vat:s22`. -/
theorem test_decode_mhdr : decodeTableWord 96 0x000000000000000300160CE2 = some (.mhdr { d := 12, a := 22, try_ := false }) := by decide
/-- 13: `BECOME v2, carry=2`. -/
theorem test_decode_become : decodeTableWord 32 0x02000274 = some (.becomeBase { d := 2, b := 2 }) := by decide
/-- 13: `CALL v20, v30`. -/
theorem test_decode_call : decodeTableWord 96 0x00000000000000041E001472 = some (.call { link := .v 20, target := .pair (.v 30) }) := by decide
/-- 13: `MERGE join`. -/
theorem test_decode_merge : decodeTableWord 96 0x000000300000000100000076 = some (.merge { ofs := 48 }) := by decide
/-- 13: `SYNC s40`. -/
theorem test_decode_sync : decodeTableWord 96 0x000000280000000200000076 = some (.sync { mask := .reg 40 }) := by decide
/-- 13: `GSYNC`. -/
theorem test_decode_gsync : decodeTableWord 96 0x000000000000000300000076 = some .gsync := by decide
/-- 13: `SETFMT 0x13B`. -/
theorem test_decode_setfmt : decodeTableWord 96 0x000000000000013B0000007D = some (.setfmtExt { b := .short 0x13B }) := by decide
/-- 13: `GETSR v9, rank`. -/
theorem test_decode_getsr : decodeTableWord 96 0x00000002000000020000097E = some (.getsr { sel := .rank, clr := false, d := .v (.v 9) }) := by decide
/-- 14: `QPUSH s10, v4`. -/
theorem test_decode_qpush : decodeTableWord 96 0x0000000000000000040A00E6 = some (.qpush { a := 10, b := .v 4 }) := by decide
/-- 14: `QPOP v6, p2, s10`. -/
theorem test_decode_qpop : decodeTableWord 96 0x0000000000002001000A06E6 = some (.qpop { d := .v 6, c := 2, a := 10 }) := by decide
/-- 14: `QSTAT s20, 0, 1`. -/
theorem test_decode_qstat : decodeTableWord 96 0x0000000100000004000014E6 = some (.qstat { d := 20, a := none }) := by decide
/-- 14: `TSPAWN s12, vat:s13`. -/
theorem test_decode_tspawn : decodeTableWord 96 0x00000000000000000D0C00EA = some (.tspawn { a := 12, b := 13 }) := by decide
/-- 14: `TDONE s12`. -/
theorem test_decode_tdone : decodeTableWord 96 0x0000000000000001000C00EA = some (.tdone { a := 12 }) := by decide
/-- 14: `WLINS s14, v8`. -/
theorem test_decode_wlins : decodeTableWord 96 0x0000000000000001080E00EE = some (.wlins { a := 14, b := .v 8 }) := by decide
/-- 14: `FUTSET s16, s17`. -/
theorem test_decode_futset : decodeTableWord 96 0x0000000000000000111000F2 = some (.futset { a := 16, b := some 17 }) := by decide
/-- 14: `FUTGET s18, s16`. -/
theorem test_decode_futget : decodeTableWord 96 0x0000000000000001001012F2 = some (.futget { d := 18, a := 16 }) := by decide
/-- 16: `BKPT`. -/
theorem test_decode_bkpt : decodeTableWord 32 0x000000F4 = some .bkptBase := by decide
/-- 16: `BKPT 7`. -/
theorem test_decode_bkptExt : decodeTableWord 96 0x0000000700000000000000F6 = some (.bkptExt { n := 7 }) := by decide
/-- 16: `TRAP 0x21`. -/
theorem test_decode_trap : decodeTableWord 96 0x0000002100000001000000F6 = some (.trap { n := 0x21 }) := by decide
/-- 16: `SYSCALL 3`. -/
theorem test_decode_syscall : decodeTableWord 96 0x0000000300000002000000F6 = some (.syscall { n := 3 }) := by decide
/-- 16: `ERET`. -/
theorem test_decode_eret : decodeTableWord 96 0x0000000000000003000000F6 = some .eret := by decide
/-- 16: `CSRR s5, 0x002`. -/
theorem test_decode_csrr : decodeTableWord 96 0x0000000200000000000005FA = some (.csrr { d := 5, csr := 2 }) := by decide
/-- 17: `CHKMODE full`. -/
theorem test_decode_chkmode : decodeTableWord 96 0x0000000200000000000000FE = some (.chkmode { mode := 2 }) := by decide
/-- 17: `FINJ s8, s9, s10`. -/
theorem test_decode_finj : decodeTableWord 96 0x000000000000A004090800FE = some (.finj { a := 8, b := 9, c := 10 }) := by decide
/-- 18: `RPMARK s20, s21`. -/
theorem test_decode_rpmark : decodeTableWord 96 0x0000000000000001151400FE = some (.rpmark { a := 20, b := 21 }) := by decide
/-- 18: `RPGET s12, 1`. -/
theorem test_decode_rpget : decodeTableWord 96 0x000000010000000200000CFE = some (.rpget { d := 12, sel := 1 }) := by decide
/-- 18: `CKSEAL up1, s30`. -/
theorem test_decode_ckseal : decodeTableWord 96 0x0000000000000003001E01FE = some (.ckseal { d := 1, a := 30 }) := by decide

/-! ## What decodes to no instruction (02 R20-R27, R34, R40) -/

/-- The all-zero word, and OP 0x37. -/
theorem test_reject_op : decodeTableWord 32 0 = none ∧ decodeTableWord 32 0x000000DC = none := by decide
/-- ULI in its base and extended LEN. -/
theorem test_reject_len : decodeTableWord 32 0x00000014 = none ∧ decodeTableWord 96 0x000000000000000000000016 = none := by decide
/-- Member 12 of OP 0x01. -/
theorem test_reject_member : decodeTableWord 96 0x000000000000000C00000006 = none := by decide
/-- UADD.f32. -/
theorem test_reject_ty : decodeTableWord 96 0x0000000000B0000000000006 = none := by decide
/-- VADD with guard code 0b1000. -/
theorem test_reject_grd : decodeTableWord 96 0x000000000000080000000022 = none := by decide
/-- UADD of s384: X set beyond the file. -/
theorem test_reject_register : decodeTableWord 96 0x080000000000000000800006 = none := by decide
/-- YIELD with a field set; an extended MFENCE with one. -/
theorem test_reject_fields : decodeTableWord 96 0x000000010000000400000076 = none ∧ decodeTableWord 96 0x0000000100000000000000DA = none := by decide

/-! ## Ill-formed terms are refused -/

def u0 : UBin := { ty := .i64, sat := false, d := 0, a := 0, b := .reg 0 }
def v0 : VBin := { g := .none, ty := .i32, sat := false, d := .v 0, a := .v 0, b := .reg (.v 0) }
def f0 : FBin := { g := .none, ty := .f32, rm := .fmt, d := .v 0, a := .v 0, b := .reg (.v 0) }
def w0 : VUn := { g := .none, ty := .i32, sat := false, d := .v 0, a := .v 0 }
def n0 : FUn := { g := .none, ty := .f32, rm := .fmt, d := .v 0, a := .v 0 }
def t0 : VTri := { g := .none, ty := .i32, sat := false, d := .v 0, a := .v 0, b := .reg (.v 0), c := .v 0 }
def ld0 : LdI := { g := .none, ty := .n32, ord := .plain, scope := .dflt, d := .v 0, addr := .base 0 0 0, sp := false, nt := false }
def ldu0 : LdUI := { ty := .n32, ord := .plain, scope := .dflt, d := 0, addr := .base 0 0 0, sp := false, nt := false }
def atom0 : AtomI :=
  { g := .none, op := .add, ty := .n32, ord := .plain, scope := .dflt, d := .v 0, addr := .base 0 0 0, sp := false, b := .reg (.v 0), nt := false }
def atomu0 : AtomUI :=
  { op := .add, ty := .n32, ord := .plain, scope := .dflt, d := 0, addr := .base 0 0 0, sp := false, b := .reg 0, nt := false }
def red0 : RedI := { g := .none, op := .add, ty := .n32, ord := .plain, scope := .dflt, addr := .base 0 0 0, sp := false, b := .reg (.v 0), nt := false }
def coll0 : CollI := { kind := .allreduce, op := .add, ty := .f32, d := 0, a := 0, b := 0, c := 0, nt := false }
def prune0 : PruneI := { w := .fmt, d := 0, a := 0, b := 0, c := 0, nm1 := 0, mc := 0, tp := false, idx4 := false, cm1 := 0, km := 0 }

/-- Each base term passes. -/
theorem test_wf_good : (Instr.uaddExt u0).wellFormed = true ∧ (Instr.vaddExt v0).wellFormed = true ∧ (Instr.faddExt f0).wellFormed = true ∧
    (Instr.vabs w0).wellFormed = true ∧ (Instr.frcpExt n0).wellFormed = true ∧ (Instr.vmad t0).wellFormed = true ∧ (Instr.ldExt ld0).wellFormed = true ∧
    (Instr.ldu ldu0).wellFormed = true ∧ (Instr.atom atom0).wellFormed = true ∧ (Instr.atomu atomu0).wellFormed = true ∧ (Instr.red red0).wellFormed = true ∧
    (Instr.coll coll0).wellFormed = true ∧ (Instr.prune prune0).wellFormed = true := by decide

/-- 09 R178: a type, a saturation and a short literal that uniform arithmetic does not take. -/
theorem test_wf_uniform : (Instr.uaddExt { u0 with ty := .f32 }).wellFormed = false ∧ (Instr.usub { u0 with ty := .i8 }).wellFormed = false ∧
    (Instr.umul { u0 with b := .short 0 }).wellFormed = false ∧ (Instr.umulh { u0 with sat := true }).wellFormed = false ∧
    (Instr.umin { u0 with sat := true }).wellFormed = false ∧ (Instr.umax { u0 with sat := true }).wellFormed = false ∧
    (Instr.uaddExt { u0 with d := 256, b := .short 0 }).wellFormed = false ∧ (Instr.uaddExt { u0 with ty := .i32, b := .short 0 }).wellFormed = false ∧
    (Instr.uandExt { u0 with sat := true }).wellFormed = false ∧ (Instr.ushlExt { u0 with a := 383, b := .short 0 }).wellFormed = false ∧
    (Instr.uor { u0 with sat := true }).wellFormed = false ∧ (Instr.uxor { u0 with ty := .bf16 }).wellFormed = false ∧
    (Instr.ushr { u0 with b := .short 0 }).wellFormed = false ∧ (Instr.usra { u0 with sat := true }).wellFormed = false := by decide

theorem test_wf_uniformOther : (Instr.uset { cc := .eq, ty := .f64, d := 0, a := 0, b := .reg 0 }).wellFormed = false ∧
    (Instr.uset { cc := .eq, ty := .i64, d := 0, a := 0, b := .short 0 }).wellFormed = false ∧
    (Instr.usel { d := 0, a := 0, b := .short 0, c := 0 }).wellFormed = false ∧ (Instr.upopc { ty := .i16, d := 0, a := 0 }).wellFormed = false ∧
    (Instr.uclz { ty := .f32, d := 0, a := 0 }).wellFormed = false ∧ (Instr.ubfx { ty := .n8, d := 0, a := 0, pos := 0, len := 0 }).wellFormed = false ∧
    (Instr.ubfi { ty := .i64, d := 0, a := 0, b := .short 0, pos := 0, len := 0 }).wellFormed = false ∧
    (Instr.uli { d := 256, lit := 0, long := false }).wellFormed = false := by decide

/-- 09 R179: types and forms that vector arithmetic does not take. -/
theorem test_wf_vector : (Instr.vaddExt { v0 with ty := .f32 }).wellFormed = false ∧ (Instr.vaddExt { v0 with d := .k 0, b := .short 0 }).wellFormed = false ∧
    (Instr.vaddExt { v0 with g := .pos 0, b := .short 0 }).wellFormed = false ∧ (Instr.vsub { v0 with b := .short 0 }).wellFormed = false ∧
    (Instr.vmul { v0 with ty := .i64 }).wellFormed = false ∧ (Instr.vmulh { v0 with sat := true }).wellFormed = false ∧
    (Instr.vmin { v0 with sat := true }).wellFormed = false ∧ (Instr.vmax { v0 with ty := .i8 }).wellFormed = false ∧
    (Instr.vandExt { v0 with sat := true }).wellFormed = false ∧ (Instr.vshlExt { v0 with ty := .f16 }).wellFormed = false ∧
    (Instr.vor { v0 with b := .short 0 }).wellFormed = false ∧ (Instr.vxor { v0 with sat := true }).wellFormed = false ∧
    (Instr.vshr { v0 with sat := true }).wellFormed = false ∧ (Instr.vsra { v0 with ty := .bfp }).wellFormed = false := by decide

theorem test_wf_vectorOther : (Instr.vabs { w0 with ty := .n32 }).wellFormed = false ∧ (Instr.vpopc { w0 with sat := true }).wellFormed = false ∧
    (Instr.vclz { w0 with ty := .f32 }).wellFormed = false ∧
    (Instr.vset { g := .none, cc := .eq, ty := .f32, d := 0, a := .v 0, b := .reg (.v 0) }).wellFormed = false ∧
    (Instr.vsel { g := .none, ty := .n32, d := .v 0, a := .v 0, b := .reg (.v 0), c := 0 }).wellFormed = false ∧
    (Instr.vbfx { g := .none, ty := .i64, d := .v 0, a := .v 0, pos := 0, len := 0 }).wellFormed = false ∧
    (Instr.vbfi { g := .none, ty := .i32, d := .v 0, a := .v 0, b := .short 0, pos := 0, len := 0 }).wellFormed = false ∧
    (Instr.vaddc { g := .none, ty := .i32, d := .v 0, a := .v 0, b := .reg (.v 0), c := 0 }).wellFormed = false ∧
    (Instr.vidx { g := .none, ty := .i64, d := .v 0, a := 0, b := .reg 0 }).wellFormed = false ∧
    (Instr.vmad { t0 with ty := .i64 }).wellFormed = false ∧ (Instr.vdot4 { t0 with ty := .n32 }).wellFormed = false ∧
    (Instr.vmovExt { g := .none, ty := .n32, d := .v 0, b := .reg (.v 0) }).wellFormed = false := by decide

/-- 09 R184-R190. -/
theorem test_wf_float : (Instr.faddExt { f0 with ty := .i32 }).wellFormed = false ∧ (Instr.faddExt { f0 with rm := .rtz, b := .short 0 }).wellFormed = false ∧
    (Instr.fsub { f0 with b := .short 0 }).wellFormed = false ∧ (Instr.fmul { f0 with ty := .bfp }).wellFormed = false ∧
    (Instr.fmin { f0 with rm := .rne }).wellFormed = false ∧ (Instr.fmax { f0 with rm := .rup }).wellFormed = false ∧
    (Instr.fabs { n0 with ty := .i32 }).wellFormed = false ∧ (Instr.fneg { n0 with rm := .rdn }).wellFormed = false ∧
    (Instr.fset { g := .none, cc := .eq, ty := .f16, d := 0, a := .v 0, b := .reg (.v 0) }).wellFormed = false ∧
    (Instr.fclass { n0 with ty := .f16 }).wellFormed = false ∧
    (Instr.ffma { g := .none, ty := .n32, rm := .fmt, d := .v 0, a := .v 0, b := .reg (.v 0), c := .v 0 }).wellFormed = false ∧
    (Instr.fcvt { g := .none, dty := .bfp, sty := 0, rm := .fmt, d := .v 0, a := .v 0 }).wellFormed = false ∧
    (Instr.icvt { g := .none, dty := .i32, sty := 8, rm := .rne, d := .v 0, a := .v 0 }).wellFormed = false ∧
    (Instr.frnd { n0 with ty := .bf16 }).wellFormed = false ∧ (Instr.frcpExt { n0 with ty := .f64 }).wellFormed = false ∧
    (Instr.fsqrt { n0 with ty := .f16 }).wellFormed = false ∧ (Instr.frsq { n0 with rm := .rne }).wellFormed = false ∧
    (Instr.fexp2 { n0 with rm := .rne }).wellFormed = false ∧ (Instr.flog2 { n0 with ty := .f64 }).wellFormed = false ∧
    (Instr.fsin { n0 with rm := .rne }).wellFormed = false ∧ (Instr.fcos { n0 with rm := .rne }).wellFormed = false ∧
    (Instr.ftanh { n0 with rm := .rne }).wellFormed = false := by decide

/-- 10 R195, R196, R202; 13 R249, R259, R260. -/
theorem test_wf_lanes :
    (Instr.shfl { kind := .idx, ty := .f16, d := .v 0, a := .v 0, b := .reg (.v 0), c := 0, mask := .all }).wellFormed = false ∧
    (Instr.redux { op := .xor, ty := .i32, mod := .zero, d := .v 0, a := .v 0, mask := .all }).wellFormed = false ∧
    (Instr.scan { op := .min, excl := false, ty := .i32, mod := .sat, d := .v 0, a := .v 0, mask := .all }).wellFormed = false ∧
    (Instr.ffs { ty := .f32, d := .v 0, a := .v 0 }).wellFormed = false ∧ (Instr.setpart { tlog := 0 }).wellFormed = false ∧
    (Instr.setpart { tlog := 6 }).wellFormed = false ∧ (Instr.getsr { sel := .clock, clr := true, d := .s 0 }).wellFormed = false ∧
    (Instr.getsr { sel := .rank, clr := false, d := .s 0 }).wellFormed = false ∧
    (Instr.getsr { sel := .clock, clr := false, d := .v (.v 0) }).wellFormed = false := by decide

/-- 04 R64-R66, R70-R90. -/
theorem test_wf_memory : (Instr.ldExt { ld0 with ty := .bfp }).wellFormed = false ∧ (Instr.ldExt { ld0 with ord := .rel }).wellFormed = false ∧
    (Instr.ldExt { ld0 with scope := .recov }).wellFormed = false ∧ (Instr.stExt { ld0 with ord := .acq }).wellFormed = false ∧
    (Instr.ldu { ldu0 with addr := .indexed 0 (.v 0) 0 0 }).wellFormed = false ∧ (Instr.stu { ldu0 with addr := .lane (.v 0) 0 0 }).wellFormed = false ∧
    (Instr.atom { atom0 with op := .and, ty := .i32 }).wellFormed = false ∧ (Instr.atom { atom0 with addr := .base 0 0 1 }).wellFormed = false ∧
    (Instr.atom { atom0 with b := .short 0 }).wellFormed = false ∧ (Instr.atomu { atomu0 with addr := .lane (.v 0) 0 0 }).wellFormed = false ∧
    (Instr.red { red0 with op := .exch }).wellFormed = false ∧ (Instr.red { red0 with ord := .ar }).wellFormed = false ∧
    (Instr.oapp { ty := .bfp, ch := 0, d := .v 0, a := 0, ofs := 0, nt := false }).wellFormed = false ∧
    (Instr.pref { g := .none, scope := .sys, addr := .base 0 0 0, nt := false }).wellFormed = false ∧
    (Instr.pref { g := .none, scope := .dflt, addr := .postinc 0 0, nt := false }).wellFormed = false ∧
    (Instr.cflush { g := .none, scope := .recov, addr := .base 0 0 0, nt := false }).wellFormed = false ∧
    (Instr.fence { ord := .acq, scope := .recov }).wellFormed = false ∧ (Instr.setmod { d := 0, a := 0, b := .short 0, idx := 0 }).wellFormed = false := by
  decide

/-- 05, 07, 11, 12, 17, 18. -/
theorem test_wf_rest : (Instr.swinit { a := 0, b := .short 0, keep := false }).wellFormed = false ∧
    (Instr.swarrive { a := 0, b := .short 0 }).wellFormed = false ∧ (Instr.swexpect { a := 0, b := .short 0 }).wellFormed = false ∧
    (Instr.swwait { d := 0, a := 0, b := .short 0, try_ := false }).wellFormed = false ∧
    (Instr.gather { ty := .bfp, d := 0, a := 0, b := 0, sw := none, nt := false }).wellFormed = false ∧
    (Instr.scatter { ty := .bfp, d := 0, a := 0, b := 0, nt := false }).wellFormed = false ∧
    (Instr.scatadd { op := .min, ty := .f32, d := 0, a := 0, b := 0, nt := false }).wellFormed = false ∧
    (Instr.slotsig { e := 0, n := 0, nt := false }).wellFormed = false ∧ (Instr.slotsig { e := 0, n := 65, nt := false }).wellFormed = false ∧
    (Instr.coll { coll0 with op := .xor }).wellFormed = false ∧ (Instr.coll { coll0 with kind := .bcast, op := .max }).wellFormed = false ∧
    (Instr.mres { d := 0, nm := 0, nk := 1 }).wellFormed = false ∧ (Instr.mres { d := 0, nm := 33, nk := 1 }).wellFormed = false ∧
    (Instr.mres { d := 0, nm := 1, nk := 0 }).wellFormed = false ∧ (Instr.mres { d := 0, nm := 1, nk := 9 }).wellFormed = false ∧
    (Instr.prune { prune0 with mc := 3 }).wellFormed = false ∧ (Instr.prune { prune0 with nm1 := 4 }).wellFormed = false ∧
    (Instr.chkmode { mode := 3 }).wellFormed = false ∧ (Instr.rpget { d := 0, sel := 5 }).wellFormed = false := by decide

/-! ## Single steps worked in the manual -/

/-- The one live lane's registers v2, v3, v4. -/
def withV (a b c : Nat) : State :=
  { solo with vat := ((solo.vat.writeBytes 0x100 (leBytes 4 a)).writeBytes 0x180 (leBytes 4 b)).writeBytes 0x200 (leBytes 4 c) }
/-- Lane 0 of v8 after the instruction. -/
def v8After (i : Instr) (s : State) : Option Nat :=
  match exec i s with
  | .next t => some (t.vat.readLE 0x400 4)
  | _ => none

/-- 09 R181: 0x7F7F7F7F by 0x80808080 added to -2,147,450,000, wrapping and saturating. -/
theorem test_vdot4_wraps : v8After (.vdot4 { t0 with d := .v 8, a := .v 2, b := .reg (.v 3), c := .v 4 }) (withV 0x7F7F7F7F 0x80808080 2147517296) =
    some 0x7FFF8570 := by decide +kernel
theorem test_vdot4_saturates : v8After (.vdot4 { t0 with sat := true, d := .v 8, a := .v 2, b := .reg (.v 3), c := .v 4 })
    (withV 0x7F7F7F7F 0x80808080 2147517296) = some 0x80000000 := by decide +kernel
/-- 09 R182: bits 12:8 of 0x1F00, signed and unsigned. -/
theorem test_vbfx_signed : v8After (.vbfx { g := .none, ty := .i32, d := .v 8, a := .v 2, pos := 8, len := 5 }) (withV 0x1F00 0 0) =
    some 0xFFFFFFFF := by decide +kernel
theorem test_vbfx_unsigned : v8After (.vbfx { g := .none, ty := .n32, d := .v 8, a := .v 2, pos := 8, len := 5 }) (withV 0x1F00 0 0) =
    some 0x1F := by decide +kernel

end Sys2Proof.Tests.Slice0
end

