-- ==== Sys2Proof/Tests/WitnessA.lean ====
section
/-! SUPPORT. States and operands that meet the hypotheses of the statements about arithmetic, lanes and control, one theorem for each clause. -/

namespace Sys2Proof.Tests.WitnessA

open Sys2Proof.Machine Sys2Proof.Claims Sys2Proof.Tests

set_option maxRecDepth 100000
set_option Elab.async false

/-! ## Uniform and vector members -/

theorem test_witness_UniformResult : ∃ (i : Instr) (u : Uni) (s : State) (c : Iss), uni i = some u ∧ i.wellFormed = true ∧
    Issues s u.need i.bytes c ∧ u.good = true ∧ c.dueFlip c.s = none :=
  ⟨.uaddBase { d := 1, a := 2, b := 3 }, bin (base { d := 1, a := 2, b := 3 }) (· + ·), lab, _, rfl, by decide, issues_of (by decide +kernel), rfl,
    by decide +kernel⟩

def addVec : Vec := vint (vbase { d := 1, a := 2, b := 3 }) (· + ·)

theorem test_witness_VectorResult : ∃ (i : Instr) (v : Vec) (s : State) (c : Iss) (n : Fin 256), vec i = some v ∧ i.wellFormed = true ∧
    Issues s v.need i.bytes c ∧ v.good = true ∧ v.dst = .v n ∧ v.srcs.all (plainSrc c) = true ∧ takesWrites s c v.wide n ∧
    c.dueFlip c.s = none ∧ atOnce c ∧ s.vat.wf = true :=
  ⟨.vaddBase { d := 1, a := 2, b := 3 }, addVec, lab, issAt lab addVec.need 4, 1, rfl, by decide, issues_of (by decide +kernel), rfl, rfl,
    by decide +kernel, ⟨by decide +kernel, fun _ hl _ => ⟨lives_of (by decide +kernel) hl, fun h => by cases h⟩⟩, by decide +kernel,
    .inl (by decide +kernel), by decide +kernel⟩

def addTaken : Except Stop (State × List (Nat → Word)) := takeAll (issAt lab addVec.need 4) (issAt lab addVec.need 4).s addVec.srcs
def addRead : State × List (Nat → Word) := val addTaken (lab, [])

theorem test_witness_VectorPorts : ∃ (i : Instr) (v : Vec) (s : State) (c : Iss) (s1 t : State) (xs : List (Nat → Word)), vec i = some v ∧
    i.wellFormed = true ∧ Issues s v.need i.bytes c ∧ v.good = true ∧ takeAll c c.s v.srcs = .ok (s1, xs) ∧
    deliverV c s1 v.dst v.wide c.exec (v.value c xs) = .ok t :=
  ⟨.vaddBase { d := 1, a := 2, b := 3 }, addVec, lab, issAt lab addVec.need 4, addRead.1, _, addRead.2, rfl, by decide, issues_of (by decide +kernel),
    rfl, ok_of (lab, []) (by decide +kernel), ok_of lab (by decide +kernel)⟩

/-! ## Comparisons, carries, random numbers, blocks -/

def lessThan : VSetI := { g := .none, cc := .lt, ty := .i32, d := 1, a := .v 2, b := .short 5 }
def lessNeed : Need := { vs := [vuse (.v 2) false], ps := [1] }

theorem test_witness_CompareCarryBlock_compare : ∃ (i : Instr) (v : Cmp) (s : State) (c : Iss) (s1 : State) (xs : List (Nat → Word)),
    cmp i = some v ∧ Issues s v.need i.bytes c ∧ v.good = true ∧ takeAll c c.s v.srcs = .ok (s1, xs) :=
  ⟨.vset lessThan, _, lab, issAt lab lessNeed 12, _, _, rfl, issues_of (by decide +kernel), by decide,
    ok_of (lab, []) (by decide +kernel)⟩

def carry : VPredI := { g := .none, ty := .n32, d := .v 1, a := .v 2, b := .reg (.v 3), c := 1 }
def carryNeed : Need := { vs := vuse carry.a false :: vsrcUses carry.b false ++ [vdest carry.d false], ps := carry.c :: guardPreds carry.g, g := carry.g }
def carryIss : Iss := issAt lab carryNeed 12

theorem test_witness_CompareCarryBlock_carry : ∃ (x : VPredI) (s : State) (c : Iss) (s1 t : State) (xs : List (Nat → Word)),
    Issues s { vs := vuse x.a false :: vsrcUses x.b false ++ [vdest x.d false], ps := x.c :: guardPreds x.g, g := x.g } (Instr.vaddc x).bytes c ∧
    takeAll c c.s [(false, .reg x.a), (false, x.b)] = .ok (s1, xs) ∧
    deliverV c s1 x.d false c.exec (fun l => BitVec.ofNat 64 (((nth xs 0 l).toNat % 2 ^ 32 + (nth xs 1 l).toNat % 2 ^ 32 +
      bit ((c.grp.pred x.c).getLsbD l)) % 2 ^ 32)) = .ok t :=
  ⟨carry, lab, carryIss, (val (takeAll carryIss carryIss.s [(false, .reg carry.a), (false, carry.b)]) (lab, [])).1, _,
    (val (takeAll carryIss carryIss.s [(false, .reg carry.a), (false, carry.b)]) (lab, [])).2, issues_of (by decide +kernel),
    ok_of (lab, []) (by decide +kernel), ok_of lab (by decide +kernel)⟩

def random : VRngI := { g := .none, d := .v 1, a := 2, b := .v 4 }
def randomNeed : Need := { vs := [vuse random.b true, vdest random.d false], ss := [random.a], ps := guardPreds random.g, g := random.g }
def randomIss : Iss := issAt lab randomNeed 12
def randomSt : State := val (deliverV randomIss randomIss.s random.d false randomIss.exec
  (fun l => (rngValue (randomIss.readS random.a) (randomIss.s.vecAt randomIss.f true 4 l)).zeroExtend 64)) lab

theorem test_witness_CompareCarryBlock_random : ∃ (x : VRngI) (s : State) (c : Iss) (n : Fin 256) (s1 t : State),
    Issues s { vs := [vuse x.b true, vdest x.d false], ss := [x.a], ps := guardPreds x.g, g := x.g } (Instr.vrng x).bytes c ∧
    x.b = .v n ∧ (∀ m : Fin 256, x.d = .v m → m.val ≠ n.val ∧ m.val ≠ n.val + 1) ∧
    deliverV c c.s x.d false c.exec
      (fun l => (rngValue (c.readS x.a) (c.s.vecAt c.f true n.val l)).zeroExtend 64) = .ok s1 ∧
    storeV c s1 x.b true c.exec (fun l => c.s.vecAt c.f true n.val l + 1) = .ok t :=
  ⟨random, lab, randomIss, 4, randomSt, _, issues_of (by decide +kernel), rfl, fun m h => by cases h; decide, ok_of lab (by decide +kernel),
    ok_of lab (by decide +kernel)⟩

def block : BCvtI := { w2 := 2, d := .v 4, a := .v 5, c := 9 }
def blockNeed : Need := { vs := [vuse block.a false, vdest block.d false], ss := [block.c] }
/-- Lanes 16-31 are in split 1, at another address. -/
def apart : State := labGroup (fun g =>
  (g.setSplit 0 (some (Split.start 0x10000 0xFFFF 0))).setSplit 1 (some (Split.start 0x10100 0xFFFF0000 0)))
def blockIss : Iss := issAt lab blockNeed 12
def blockRead : State × (Nat → W32) := val (takeV blockIss blockIss.s block.a) (lab, fun _ => 0)

theorem test_witness_CompareCarryBlock_split : ∃ (x : BCvtI) (s : State) (c : Iss),
    Issues s { vs := [vuse x.a false, vdest x.d false], ss := [x.c] } (Instr.bcvt x).bytes c ∧ c.grp.live ≠ c.sp.lanes :=
  ⟨block, apart, issAt apart blockNeed 12, issues_of (by decide +kernel), by decide +kernel⟩

theorem test_witness_CompareCarryBlock_block : ∃ (x : BCvtI) (s : State) (c : Iss) (s1 t : State) (a : Nat → W32),
    Issues s { vs := [vuse x.a false, vdest x.d false], ss := [x.c] } (Instr.bcvt x).bytes c ∧ c.grp.live = c.sp.lanes ∧
    takeV c c.s x.a = .ok (s1, a) ∧
    deliverV c s1 x.d false c.exec
      (fun l => BitVec.ofNat 64 (if l < x.w2.val + 2 then fieldAt (mantString (x.w2.val + 2) (bcvt (x.w2.val + 2) (fmtFtz c.sp.fmt)
        ((List.range 32).map (fun l => if c.exec.getLsbD l then a l else 0))).2) (4 * l) 4 else 0)) = .ok t :=
  ⟨block, lab, blockIss, blockRead.1, _, blockRead.2, issues_of (by decide +kernel), by decide +kernel, ok_of (lab, fun _ => 0) (by decide +kernel),
    ok_of lab (by decide +kernel)⟩

/-! ## Membership -/

def voteAll : VoteI := { d := .all 1, a := 2, mask := .all }
def voteNeedIss (s : State) : Iss := issAt s (memberNeed (voteNeed voteAll) .all) 12

theorem test_witness_MembershipArrival_last : ∃ (i : Instr) (n : Need) (k : MaskSrc) (eff : Iss → State → Except Stop State) (s : State) (c : Iss)
    (t : State), member i = some (n, k, eff) ∧ Issues s (memberNeed n k) i.bytes c ∧ c.f.split ≠ 4 ∧ c.exec &&& ~~~ memberLanes c k = 0 ∧
    c.grp.memberClash c.f.split c.sp.pc c.exec (memberLanes c k) = 0 ∧
    memberLanes c k &&& ~~~ (c.grp.lanesAt (sortSlots (c.f.split :: c.grp.mates c.sp.pc (memberLanes c k)))) = 0 ∧
    (sortSlots (c.f.split :: c.grp.mates c.sp.pc (memberLanes c k))).length ≤ 1 ∧
    eff (c.completed c.s ((sortSlots (c.f.split :: c.grp.mates c.sp.pc (memberLanes c k))).headD c.f.split) (memberLanes c k)) c.s = .ok t :=
  ⟨.vote voteAll, voteNeed voteAll, .all, voteEffect voteAll, lab, voteNeedIss lab, _, rfl, issues_of (by decide +kernel), by decide +kernel,
    by decide +kernel, by decide +kernel, by decide +kernel, by decide +kernel, ok_of lab (by decide +kernel)⟩

/-- Split 1 waits at the same vote for the lanes of split 0. -/
def waited : State := labGroup (fun g =>
  (g.setSplit 0 (some (Split.start 0x10000 0xFFFF 0))).setSplit 1
    (some { Split.start 0x10000 0xFFFF0000 0 with status := .waiting (.member (.vote voteAll) 0xFFFFFFFF 0) }))

def waitedSlots : List Nat :=
  sortSlots ((voteNeedIss waited).f.split :: (voteNeedIss waited).grp.mates (voteNeedIss waited).sp.pc (memberLanes (voteNeedIss waited) .all))
def waitedMerged : State := (voteNeedIss waited).s.mergeAt 1 0 (waitedSlots.headD 0) waitedSlots.tail .ready

theorem test_witness_MembershipArrival_merge : ∃ (i : Instr) (n : Need) (k : MaskSrc) (eff : Iss → State → Except Stop State) (s : State) (c : Iss)
    (t : State), member i = some (n, k, eff) ∧ Issues s (memberNeed n k) i.bytes c ∧ c.f.split ≠ 4 ∧ c.exec &&& ~~~ memberLanes c k = 0 ∧
    c.grp.memberClash c.f.split c.sp.pc c.exec (memberLanes c k) = 0 ∧
    memberLanes c k &&& ~~~ (c.grp.lanesAt (sortSlots (c.f.split :: c.grp.mates c.sp.pc (memberLanes c k)))) = 0 ∧
    sortSlots (c.f.split :: c.grp.mates c.sp.pc (memberLanes c k)) = [0, 1] ∧
    eff (c.completed waitedMerged 0 (memberLanes c k)) waitedMerged = .ok t :=
  ⟨.vote voteAll, voteNeed voteAll, .all, voteEffect voteAll, waited, voteNeedIss waited, _, rfl, issues_of (by decide +kernel), by decide +kernel,
    by decide +kernel, by decide +kernel, by decide +kernel, by decide +kernel, ok_of lab (by decide +kernel)⟩

theorem test_witness_MembershipArrival_wait : ∃ (i : Instr) (n : Need) (k : MaskSrc) (eff : Iss → State → Except Stop State) (s : State) (c : Iss),
    member i = some (n, k, eff) ∧ Issues s (memberNeed n k) i.bytes c ∧ c.f.split ≠ 4 ∧ c.exec &&& ~~~ memberLanes c k = 0 ∧
    c.grp.memberClash c.f.split c.sp.pc c.exec (memberLanes c k) = 0 ∧
    memberLanes c k &&& ~~~ (c.grp.lanesAt (sortSlots (c.f.split :: c.grp.mates c.sp.pc (memberLanes c k)))) ≠ 0 :=
  ⟨.vote voteAll, voteNeed voteAll, .all, voteEffect voteAll, apart, voteNeedIss apart, rfl, issues_of (by decide +kernel), by decide +kernel,
    by decide +kernel, by decide +kernel, by decide +kernel⟩

/-- A SYNC whose mask, in s5, is empty. -/
def syncNone : SyncI := { mask := .reg 5 }
def syncIss (s : State) : Iss := issAt s (memberNeed {} (.reg 5)) 12

theorem test_witness_MembershipArrival_outside : ∃ (i : Instr) (n : Need) (k : MaskSrc) (eff : Iss → State → Except Stop State) (s : State)
    (c : Iss), member i = some (n, k, eff) ∧ Issues s (memberNeed n k) i.bytes c ∧ c.f.split ≠ 4 ∧ c.exec &&& ~~~ memberLanes c k ≠ 0 :=
  ⟨.sync syncNone, {}, .reg 5, syncEffect, lab, syncIss lab, rfl, issues_of (by decide +kernel), by decide +kernel, by decide +kernel⟩

/-- Split 1 waits for other lanes that meet those of split 0. -/
def clashed : State := labGroup (fun g =>
  (g.setSplit 0 (some (Split.start 0x10000 0xFFFF 0))).setSplit 1
    (some { Split.start 0x10100 0xFFFF0000 0 with status := .waiting (.member (.vote voteAll) 0xFFFFFFFF 0) }))

theorem test_witness_MembershipArrival_clash : ∃ (i : Instr) (n : Need) (k : MaskSrc) (eff : Iss → State → Except Stop State) (s : State)
    (c : Iss), member i = some (n, k, eff) ∧ Issues s (memberNeed n k) i.bytes c ∧ c.f.split ≠ 4 ∧ c.exec &&& ~~~ memberLanes c k = 0 ∧
    c.grp.memberClash c.f.split c.sp.pc c.exec (memberLanes c k) ≠ 0 :=
  ⟨.vote voteAll, voteNeed voteAll, .all, voteEffect voteAll, clashed, voteNeedIss clashed, rfl, issues_of (by decide +kernel), by decide +kernel,
    by decide +kernel, by decide +kernel⟩

/-- A trap of group 0 is being handled; the handler split has the given lanes. -/
def handling (lanes : LaneMask) : State :=
  { labWith (fun g =>
      { g with
        halt := some {
          trap := { cause := 0x12, sub := 0, kind := 0, lanes := 1, addr := 0, info := 0 }, group := 0, split := 0, pc := 0x10000, npc := 0x1000C
          execm := 1, phase := .handling, skid := [], ended := [], double := none, dpc := 0, dnpc := 0, dexec := 0 }
        handler := some (Split.start 0x10200 lanes 0) }) with cur := { gang := 1, group := 0, split := 4 } }

theorem test_witness_MembershipArrival_handler_lacks : ∃ (i : Instr) (n : Need) (k : MaskSrc) (eff : Iss → State → Except Stop State) (s : State)
    (c : Iss), member i = some (n, k, eff) ∧ Issues s (memberNeed n k) i.bytes c ∧ c.f.split = 4 ∧ ¬ maskInside c k :=
  ⟨.vote voteAll, voteNeed voteAll, .all, voteEffect voteAll, handling 1, voteNeedIss (handling 1), rfl, issues_of (by decide +kernel),
    by decide +kernel, by unfold maskInside; decide +kernel⟩

theorem test_witness_MembershipArrival_handler : ∃ (i : Instr) (n : Need) (k : MaskSrc) (eff : Iss → State → Except Stop State) (s : State)
    (c : Iss) (t : State), member i = some (n, k, eff) ∧ Issues s (memberNeed n k) i.bytes c ∧ c.f.split = 4 ∧ maskInside c k ∧ c.exec &&& ~~~ memberLanes c k = 0 ∧
    eff { c with exec := memberLanes c k } c.s = .ok t :=
  ⟨.vote voteAll, voteNeed voteAll, .all, voteEffect voteAll, handling 0xFFFFFFFF, voteNeedIss (handling 0xFFFFFFFF), _, rfl,
    issues_of (by decide +kernel), by decide +kernel, by unfold maskInside; decide +kernel, by decide +kernel, ok_of lab (by decide +kernel)⟩

theorem test_witness_MembershipArrival_handler_outside : ∃ (i : Instr) (n : Need) (k : MaskSrc) (eff : Iss → State → Except Stop State) (s : State)
    (c : Iss), member i = some (n, k, eff) ∧ Issues s (memberNeed n k) i.bytes c ∧ c.f.split = 4 ∧ maskInside c k ∧
    c.exec &&& ~~~ memberLanes c k ≠ 0 :=
  ⟨.sync syncNone, {}, .reg 5, syncEffect, handling 1, syncIss (handling 1), rfl, issues_of (by decide +kernel), by decide +kernel,
    by unfold maskInside; decide +kernel, by decide +kernel⟩

theorem test_witness_ShuffleStaysInTile : ∃ (k : ShflKind) (e l d j : Nat), e ≤ 5 ∧ l < 32 ∧ shflSource k (2 ^ e) l d = some j :=
  ⟨.idx, 5, 31, 31, 31, by decide, by decide, by decide⟩

theorem test_witness_ShuffleStaysInTile_outside : ∃ (k : ShflKind) (e l d : Nat), e ≤ 5 ∧ l < 32 ∧ shflSource k (2 ^ e) l d = none :=
  ⟨.up, 0, 31, 1, by decide, by decide, by decide⟩

theorem test_witness_VoteResult : ∃ (x y z : VoteI) (c : Iss), c.sp.tile ≤ 32 ∧ (∃ d, x.d = .any d) ∧ (∃ d, y.d = .all d) ∧ ∃ d, z.d = .bal d :=
  ⟨{ d := .any 1, a := 2, mask := .all }, voteAll, { d := .bal (.v 1), a := 2, mask := .all }, voteNeedIss lab, by decide +kernel, ⟨_, rfl⟩,
    ⟨_, rfl⟩, _, rfl⟩

/-! ## Control -/

def jumpFar : JmpI := { target := .lit 0x20000 }
def jumpBad : JmpI := { target := .lit 0x20002 }

theorem test_witness_Transfers : ∃ (i : Instr) (n : Need) (tgt : Iss → Nat → Word) (s : State) (c : Iss), transfer i = some (n, tgt) ∧
    Issues s n i.bytes c ∧ strays c.exec (tgt c) = [] ∧ (c.f.split = 4 → ∀ l, l ∈ lanesOf c.exec → tgt c l = tgt c (lowestLane c.exec)) :=
  ⟨.jmp jumpFar, {}, _, lab, issAt lab {} 20, rfl, issues_of (by decide +kernel), by decide +kernel, fun _ _ _ => rfl⟩

def callFar : CallI := { link := .v 4, target := .lit 0x20000 }
def callNeed : Need := { vs := targetUses callFar.target ++ [vdest callFar.link true], ss := targetRegs callFar.target }
def callIss : Iss := issAt lab callNeed 20

theorem test_witness_Transfers_call : ∃ (x : CallI) (s : State) (c : Iss) (s1 : State),
    Issues s { vs := targetUses x.target ++ [vdest x.link true], ss := targetRegs x.target } (Instr.call x).bytes c ∧
    storeV c c.s x.link true c.exec (fun _ => c.sp.pc + BitVec.ofNat 64 c.len) = .ok s1 ∧ c.dueFlip c.s = none ∧
    strays c.exec (transfer.targetOf c x.target) = [] ∧
    (c.f.split = 4 → ∀ l, l ∈ lanesOf c.exec → transfer.targetOf c x.target l = transfer.targetOf c x.target (lowestLane c.exec)) :=
  ⟨callFar, lab, callIss, _, issues_of (by decide +kernel), ok_of lab (by decide +kernel), by decide +kernel, by decide +kernel, fun _ _ _ => rfl⟩

theorem test_witness_Transfers_misaligned : ∃ (i : Instr) (n : Need) (tgt : Iss → Nat → Word) (s : State) (c : Iss),
    transfer i = some (n, tgt) ∧ Issues s n i.bytes c ∧ strays c.exec (tgt c) ≠ [] :=
  ⟨.jmp jumpBad, {}, _, lab, issAt lab {} 20, rfl, issues_of (by decide +kernel), by decide +kernel⟩

theorem test_witness_Divergence_one : ∃ (g : Group) (i : Nat) (sp : Split) (tgt : Nat → Word) (pc : Word), g.split? i = some sp ∧
    sp.lanes ≠ 0 ∧ ∀ l, l < 32 → sp.lanes.getLsbD l = true → tgt l = pc :=
  ⟨(Group.fresh 0 0 0).setSplit 3 (some (Split.start 0 1 0)), 3, Split.start 0 1 0, fun _ => 4, 4, by decide +kernel, by decide, fun _ _ _ => rfl⟩

theorem test_witness_Divergence_several : ∃ (g : Group) (i j : Nat) (sp y : Split) (l : Nat), g.split? i = some sp ∧ l < 32 ∧
    sp.lanes.getLsbD l = true ∧ j ≠ i ∧ g.split? j = some y :=
  ⟨((Group.fresh 0 0 0).setSplit 3 (some (Split.start 0 0x80000001 0))).setSplit 0 (some (Split.start 8 2 0)), 3, 0, Split.start 0 0x80000001 0,
    Split.start 8 2 0, 31, by decide +kernel, by decide, by decide, by decide, by decide +kernel⟩

theorem test_witness_Divergence_handler : ∃ (g : Gang) (sp : Split) (l : Nat), g.handler = some sp ∧ sp.lanes ≠ 0 ∧ l < 32 ∧ sp.lanes.getLsbD l = true :=
  ⟨{ gangFor (oneGroup 1) with handler := some (Split.start 8 0x80000001 0) }, Split.start 8 0x80000001 0, 31, rfl, by decide, by decide, by decide⟩

theorem test_witness_SplitRegisters : ∃ (s : State) (c : Iss) (x : BraI) (y : SetFmtI) (z : BaseB),
    Issues s {} 12 c ∧ (c.sp.pc + x.ofs.signExtend 64).toNat % 4 = 0 ∧ (∃ d, Issues s { ss := usrcRegs y.b } (Instr.setfmtExt y).bytes d ∧
      fmtOk ((d.usrc y.b).toNat % 2 ^ 16) = true) ∧
    (∃ d, Issues s { ss := [sreg z.b] } (Instr.setfmtBase z).bytes d ∧ fmtOk ((d.readS (sreg z.b)).toNat % 2 ^ 16) = true) ∧
    ∃ d, Issues s {} Instr.nopBase.bytes d :=
  ⟨withS lab 7 0x13B, issAt (withS lab 7 0x13B) {} 12, { ofs := 48 }, { b := .short 0x13B }, { b := 7 }, issues_of (by decide +kernel),
    by decide +kernel, ⟨issAt (withS lab 7 0x13B) {} 12, issues_of (by decide +kernel), by decide +kernel⟩,
    ⟨issAt (withS lab 7 0x13B) { ss := [sreg 7] } 4, issues_of (by decide +kernel), by decide +kernel⟩, _, issues_of (by decide +kernel)⟩

/-- A MERGE that finds four entries. -/
theorem test_witness_SplitRegisters_full : ∃ (s : State) (c : Iss), Issues s {} 12 c ∧ c.sp.stack.length = 4 :=
  ⟨labGroup (fun g => g.setSplit 0 (some { Split.start 0x10000 0xFFFFFFFF 0 with stack := [4, 8, 12, 16] })), _, issues_of (by decide +kernel),
    by decide +kernel⟩

def readRank : GetSrI := { sel := .rank, clr := false, d := .v (.v 9) }
def readFlag : GetSrI := { sel := .ucflag, clr := true, d := .s 9 }
def rankIss : Iss := issAt lab { vs := [vdest (.v 9) false] } 12

theorem test_witness_SpecialReads : ∃ (s : State) (c : Iss) (x : GetSrI) (d : SReg) (v : Word), x.d = .s d ∧ Issues s { ss := [d] } 12 c ∧
    c.dueFlip c.s = none ∧ c.gang.pair = none ∧ csrRead c 0x017 = some v :=
  ⟨lab, issAt lab { ss := [9] } 12, readFlag, 9, _, rfl, issues_of (by decide +kernel), by decide +kernel, by decide +kernel,
    some_of 0 (by decide +kernel)⟩

theorem test_witness_SpecialReads_lanes : ∃ (x : GetSrI) (d : VOp) (s : State) (c : Iss) (t : State), x.d = .v d ∧
    Issues s { vs := [vdest d false] } (Instr.getsr x).bytes c ∧ c.dueFlip c.s = none ∧ (x.sel = .rank → deckleBusy c = false) ∧
    storeV c c.s d false c.exec (fun l => BitVec.ofNat 64 (laneSpecial c x.sel l)) = .ok t :=
  ⟨readRank, .v 9, lab, rankIss, _, rfl, issues_of (by decide +kernel), by decide +kernel, fun _ => by decide +kernel,
    ok_of lab (by decide +kernel)⟩

def becomeIss : Iss := issAt lab { vs := vsrcUses (.short 1) false } 12

theorem test_witness_BecomeAndBarrier_become : ∃ (x : BecomeI) (s : State) (c : Iss) (s1 : State) (v : Nat → Word) (p : Plan),
    Issues s { vs := vsrcUses x.b false } (Instr.becomeExt x).bytes c ∧ c.f.split ≠ 4 ∧
    (∀ y, y ∈ c.grp.liveSplits → y.1 ≠ c.f.split → memberMask c.grp y.2 = none) ∧ vectorPending c = false ∧ deckleBusy c = false ∧
    x.carry.val ≤ 64 ∧ x.carry.val ≤ c.gang.task.w ∧ (∀ k, k ∈ c.grp.carry.toList → k = none) ∧ takeSrc c c.s false x.b = .ok (s1, v) ∧
    (∀ l, l ∈ lanesOf c.exec → (v l).toNat % 2 ^ 32 ≤ 4096) ∧
    s1.plan c.gang c.grp c.sp x.carry.val (fun l => (v l).toNat % 2 ^ 32) c.after = some p ∧ c.gang.outOfOrder (becomeAct c.f.group) = false :=
  ⟨{ carry := 64, b := .short 1 }, lab, becomeIss, becomeIss.s, _, _, issues_of (by decide +kernel), by decide +kernel, by decide +kernel,
    by decide +kernel, by decide +kernel, by decide, by decide +kernel, by decide +kernel, rfl, fun _ _ => by decide,
    some_of { items := [], recs := [], snap := none } (by decide +kernel), by decide +kernel⟩

theorem test_witness_BecomeAndBarrier_gsync : ∃ (s : State) (c : Iss), Issues s {} Instr.gsync.bytes c ∧ c.f.split ≠ 4 ∧
    barrierClash c = false :=
  ⟨lab, issAt lab {} 12, issues_of (by decide +kernel), by decide +kernel, by decide +kernel⟩

end Sys2Proof.Tests.WitnessA
end

