-- ==== Sys2Proof/Tests/WitnessB.lean ====
section
/-! SUPPORT. States and operands that meet the hypotheses of the statements about memory, the stash and sync words, one theorem for each clause. -/

namespace Sys2Proof.Tests.WitnessB

open Sys2Proof.Machine Sys2Proof.Claims Sys2Proof.Tests

set_option maxRecDepth 100000
set_option Elab.async false

/-! ## Loads -/

/-- LD and ST of a lane each at s5. -/
def memOne (sp : Bool) : LdI :=
  { g := .none, ty := .n32, ord := .plain, scope := .dflt, d := .v 3, addr := .base 5 0 0, sp := sp, nt := false }
/-- LDU and STU at s5. -/
def memUni (sp : Bool) : LdUI := { ty := .n32, ord := .plain, scope := .dflt, d := 9, addr := .base 5 0 0, sp := sp, nt := false }
/-- One lane is live; s5 names the last line of the lab's page, or the first vat bytes of the group's window. -/
def memLab (sp : Bool) : State := withS solo 5 (if sp then 0 else 0x1FF80)
def ldNeed (x : LdI) : Need :=
  { vs := baseUses x.addr x.sp ++ indexUses x.addr ++ [vdest x.d x.ty.is64], ss := addrRegs x.addr, ps := guardPreds x.g, g := x.g }
def ldIss (sp : Bool) : Iss := issAt (memLab sp) (ldNeed (memOne sp)) 12
def modeOf (sp : Bool) (k : AccKind) : AccessMode := { sp := sp, kind := k, size := 4, align := true, empty := false, own := noOwn }
def lanesAt (c : Iss) : List Access := laneAccess c (.base 5 0 0) 4 (fun _ => 0) (fun _ => 0)
def ldPlaced (sp : Bool) : List Placed := val (checkAccesses (ldIss sp) (ldIss sp).s (modeOf sp .read) (lanesAt (ldIss sp))) []
def touched (c : Iss) (s : State) (ps : List Placed) : State := val (touch c s (vasOf ps)) s
def reached (c : Iss) (s : State) (w : Bool) (ps : List Placed) : State := val (reachNow c s w 4 ps) s
def ldReached : State := reached (ldIss false) (touched (ldIss false) (ldIss false).s (ldPlaced false)) false (ldPlaced false)
/-- What a load has reached and read. -/
def ldRead (c : Iss) (sp : Bool) (t : State) (ps : List Placed) : State × List Word :=
  if sp then (c.s, ps.map (fun p => BitVec.ofNat 64 (c.s.vat.readLE (vatKey c.gang.core p.x.pa) 4))) else loadValues t c.gang.core 4 ps
def ldGot (sp : Bool) : State × List Word := ldRead (ldIss sp) sp ldReached (ldPlaced sp)

theorem loadPasses_lab : ∀ sp, loadPasses (ldIss sp) (ldIss sp).s (memOne sp).addr (memOne sp).sp (accSize (memOne sp).ty)
    (laneAccess (ldIss sp) (memOne sp).addr (accSize (memOne sp).ty) (fun _ => 0) (fun _ => 0)) (ldPlaced sp) (ldGot sp).1 (ldGot sp).2 := by
  intro sp
  cases sp
  · refine ⟨ok_of [] ?_, ?_, ok_of () ?_, touched (ldIss false) (ldIss false).s (ldPlaced false), ldReached, ok_of _ ?_, ok_of _ ?_, ok_of () ?_, rfl⟩
      <;> decide +kernel
  · refine ⟨ok_of [] ?_, ?_, ok_of () ?_, ok_of () ?_, rfl, rfl⟩ <;> decide +kernel

theorem test_witness_LoadIssues : ∀ sp, ∃ (x : LdI) (s : State) (c : Iss) (s2 t u : State) (base index : Nat → Word) (ps : List Placed) (vals : List Word),
    x.sp = sp ∧ Issues s (ldNeed x) (Instr.ldExt x).bytes c ∧ c.gang.pair = none ∧ addressRead c c.s x.addr x.sp s2 base index ∧
    loadPasses c s2 x.addr x.sp (accSize x.ty) (laneAccess c x.addr (accSize x.ty) base index) ps t vals ∧
    finishLoad c (updateBase c t x.addr (accSize x.ty)) x.d x.ty.is64 (fun l => loadLane x.ty (valueAt ps vals l).toNat) = .ok u := by
  intro sp
  refine ⟨memOne sp, memLab sp, ldIss sp, (ldIss sp).s, (ldGot sp).1, _, fun _ => 0, fun _ => 0, ldPlaced sp, (ldGot sp).2, rfl, issues_of ?_, ?_,
    ⟨_, rfl, rfl⟩, loadPasses_lab sp, ok_of lab ?_⟩ <;> cases sp <;> decide +kernel

def lduIss (sp : Bool) : Iss := issAt (memLab sp) { ss := (memUni sp).d :: addrRegs (memUni sp).addr } 12
def oneAt (c : Iss) : List Access := oneAccess c (.base 5 0 0) 4
def lduPlaced (sp : Bool) : List Placed := val (checkAccesses (lduIss sp) (lduIss sp).s (modeOf sp .read) (oneAt (lduIss sp))) []
def lduReached : State := reached (lduIss false) (touched (lduIss false) (lduIss false).s (lduPlaced false)) false (lduPlaced false)
def lduOne (sp : Bool) : Placed := (lduPlaced sp).headD { acc := { lanes := 0, lane := 0, addr := 0 }, x := { pa := 0, shift := 16, region := 0, dur := false } }
def lduGot (sp : Bool) : State × List Word := ldRead (lduIss sp) sp lduReached (lduPlaced sp)

theorem test_witness_LoadIssues_uniform : ∀ sp, ∃ (x : LdUI) (s : State) (c : Iss) (t : State) (p : Placed) (w : Word), x.sp = sp ∧
    Issues s { ss := x.d :: addrRegs x.addr } (Instr.ldu x).bytes c ∧ c.gang.pair = none ∧
    c.dueFlip (updateBase c t x.addr (accSize x.ty)) = none ∧
    loadPasses c c.s x.addr x.sp (accSize x.ty) (oneAccess c x.addr (accSize x.ty)) [p] t [w] := by
  intro sp
  have hp : lduPlaced sp = [lduOne sp] := by cases sp <;> decide +kernel
  have hw : (lduGot sp).2 = [(lduGot sp).2.headD 0] := by cases sp <;> decide +kernel
  refine ⟨memUni sp, memLab sp, lduIss sp, (lduGot sp).1, lduOne sp, (lduGot sp).2.headD 0, rfl, issues_of ?_, ?_, ?_, ?_⟩
  · cases sp <;> decide +kernel
  · cases sp <;> decide +kernel
  · cases sp <;> decide +kernel
  · rw [← hp, ← hw]
    cases sp
    · refine ⟨ok_of [] ?_, ?_, ok_of () ?_, touched (lduIss false) (lduIss false).s (lduPlaced false), lduReached, ok_of _ ?_, ok_of _ ?_, ok_of () ?_,
        rfl⟩ <;> decide +kernel
    · refine ⟨ok_of [] ?_, ?_, ok_of () ?_, ok_of () ?_, rfl, rfl⟩ <;> decide +kernel

/-! ## Stores -/

def stNeed (x : LdI) : Need :=
  { vs := baseUses x.addr x.sp ++ indexUses x.addr ++ [vuse x.d x.ty.is64], ss := addrRegs x.addr, ps := guardPreds x.g, g := x.g }
def stIss (sp : Bool) : Iss := issAt (memLab sp) (stNeed (memOne sp)) 12
def stPlaced (sp : Bool) : List Placed := val (checkAccesses (stIss sp) (stIss sp).s (modeOf sp .write) (lanesAt (stIss sp))) []
def stTouched : State := val (touch (stIss false) (stIss false).s (vasOf (stPlaced false))) lab
/-- A plain write that is performed now, with no fence before it. -/
def vatReady (c : Iss) : State := val (afterFences c c.s) c.s
def stSt (sp : Bool) : State := if sp then val (releaseFirst (stIss true) (vatReady (stIss true)) .plain) lab else stTouched

theorem test_witness_StoreIssues : ∀ sp, ∃ (x : LdI) (s : State) (c : Iss) (s2 s3 t : State) (base index v : Nat → Word) (ps : List Placed),
    x.sp = sp ∧ Issues s (stNeed x) (Instr.stExt x).bytes c ∧ c.gang.pair = none ∧ addressRead c c.s x.addr x.sp s2 base index ∧
    takeTy c s2 x.ty.is64 x.d = .ok (s3, v) ∧
    storePasses c s3 x.addr x.sp x.ord (accSize x.ty) (laneAccess c x.addr (accSize x.ty) base index) ps t := by
  intro sp
  refine ⟨memOne sp, memLab sp, stIss sp, (stIss sp).s, (stIss sp).s, stSt sp, fun _ => 0, fun _ => 0,
    fun l => ((stIss sp).s.lane 1 0 3 l).zeroExtend 64, stPlaced sp, rfl, ?_, ?_, ⟨_, rfl, rfl⟩, ?_, ?_⟩ <;> cases sp
  · exact issues_of (by decide +kernel)
  · exact issues_of (by decide +kernel)
  · decide +kernel
  · decide +kernel
  · rfl
  · rfl
  · refine ⟨ok_of [] ?_, ?_, ok_of () ?_, ok_of lab ?_⟩ <;> decide +kernel
  · refine ⟨ok_of [] ?_, ?_, ok_of () ?_, vatReady (stIss true), ok_of _ ?_, ok_of lab ?_⟩ <;> decide +kernel

def stuIss (sp : Bool) : Iss := issAt (memLab sp) { ss := (memUni sp).d :: addrRegs (memUni sp).addr } 12
def stuPlaced (sp : Bool) : List Placed := val (checkAccesses (stuIss sp) (stuIss sp).s (modeOf sp .write) (oneAt (stuIss sp))) []
def stuTouched : State := val (touch (stuIss false) (stuIss false).s (vasOf (stuPlaced false))) lab
def stuSt (sp : Bool) : State :=
  if sp then val (releaseFirst (stuIss true) (vatReady (stuIss true)) .plain) lab else stuTouched

theorem test_witness_StoreIssues_uniform : ∀ sp, ∃ (x : LdUI) (s : State) (c : Iss) (t : State) (ps : List Placed), x.sp = sp ∧
    Issues s { ss := x.d :: addrRegs x.addr } (Instr.stu x).bytes c ∧ c.gang.pair = none ∧
    storePasses c c.s x.addr x.sp x.ord (accSize x.ty) (oneAccess c x.addr (accSize x.ty)) ps t := by
  intro sp
  refine ⟨memUni sp, memLab sp, stuIss sp, stuSt sp, stuPlaced sp, rfl, ?_, ?_, ?_⟩ <;> cases sp
  · exact issues_of (by decide +kernel)
  · exact issues_of (by decide +kernel)
  · decide +kernel
  · decide +kernel
  · refine ⟨ok_of [] ?_, ?_, ok_of () ?_, ok_of lab ?_⟩ <;> decide +kernel
  · refine ⟨ok_of [] ?_, ?_, ok_of () ?_, vatReady (stuIss true), ok_of _ ?_, ok_of lab ?_⟩ <;> decide +kernel

/-! ## The checks of accesses -/

/-- A lane's access to the last word of the page passes, one beyond it fails. -/
def goodAt : Access := { lanes := laneBit 0, lane := 0, addr := 0x1FFFC }
def badAt : Access := { lanes := laneBit 1, lane := 1, addr := 0x20000 }
def oddAt : Access := { lanes := laneBit 2, lane := 2, addr := 0x10001 }

theorem test_witness_AccessChecks_pass : ∃ (c : Iss) (s : State) (m : AccessMode) (x : Xlat), checkAccess c s m goodAt = .ok x :=
  ⟨ldIss false, lab, modeOf false .read, { pa := 0xFFFC, shift := 16, region := 2, dur := false }, by decide +kernel⟩

theorem test_witness_AccessChecks_fail : ∃ (c : Iss) (s : State) (m : AccessMode), checkAccess c s m badAt = .error (0x05, 2) :=
  ⟨ldIss false, lab, modeOf false .read, by decide +kernel⟩

theorem test_witness_AccessChecks_misaligned : (modeOf false .read).align = true ∧ oddAt.addr.toNat % (modeOf false .read).size ≠ 0 := by
  decide +kernel

/-- Plain stores that answer a next state. -/
theorem test_witness_StoreFrames : ∃ t, exec (.stExt (memOne false)) (memLab false) = .next t ∧ (memOne false).sp = false ∧
    (memOne false).ord = .plain := by
  cases h : exec (.stExt (memOne false)) (memLab false) with
  | next t => exact ⟨t, rfl, rfl, rfl⟩
  | fault f =>
    have h1 : nextB (exec (.stExt (memOne false)) (memLab false)) (fun _ => true) = true := by decide +kernel
    rw [h] at h1; cases h1
  | refused r =>
    have h1 : nextB (exec (.stExt (memOne false)) (memLab false)) (fun _ => true) = true := by decide +kernel
    rw [h] at h1; cases h1

theorem test_witness_StoreFrames_others : nextB (exec (.stBase { d := 3, a := 5, b := 0 }) (memLab false)) (fun _ => true) = true ∧
    nextB (exec (.stu (memUni false)) (memLab false)) (fun _ => true) = true := by decide +kernel

/-! ## Atomics -/

def atomOne (sp : Bool) : AtomI :=
  { g := .none, op := .add, ty := .n32, ord := .plain, scope := .dflt, d := .v 3, addr := .base 5 0 0, sp := sp, b := .long 1, nt := false }
def atomNeed (x : AtomI) : Need :=
  { vs := baseUses x.addr x.sp ++ vsrcUses x.b x.ty.is64 ++ indexUses x.addr ++ [vdest x.d x.ty.is64], ss := addrRegs x.addr, ps := guardPreds x.g
    g := x.g }
def atomIss (sp : Bool) : Iss := issAt (memLab sp) (atomNeed (atomOne sp)) 20
def atomMode (c : Iss) (sp : Bool) : AccessMode :=
  { sp := sp, kind := .atomic, size := 4, align := true, empty := false, own := hostOwn c .add .n32 }
def atomPlaced (sp : Bool) : List Placed := val (checkAccesses (atomIss sp) (atomIss sp).s (atomMode (atomIss sp) sp) (lanesAt (atomIss sp))) []
def released (c : Iss) (s : State) : State := val (releaseFirst c s .plain) s
def atomT : State := touched (atomIss false) (atomIss false).s (atomPlaced false)
def fenced (c : Iss) (s : State) : State := val (afterFences c s) s
def atomR : State := reached (atomIss false) (released (atomIss false) (fenced (atomIss false) atomT)) true (atomPlaced false)
def atomSt (sp : Bool) : State :=
  if sp then val (becomeNR (atomIss true) (released (atomIss true) (vatReady (atomIss true))) true) lab else val (becomeNR (atomIss false) atomR true) lab

theorem atomPasses_lab : ∀ sp, atomPasses (atomIss sp) (atomIss sp).s (atomOne sp).addr (atomOne sp).sp (atomOne sp).op (atomOne sp).ty
    (atomOne sp).ord (laneAccess (atomIss sp) (atomOne sp).addr (accSize (atomOne sp).ty) (fun _ => 0) (fun _ => 0)) (atomPlaced sp) (atomSt sp) := by
  intro sp
  cases sp
  · refine ⟨ok_of [] ?_, ?_, ok_of () ?_, atomT, fenced (atomIss false) atomT, released (atomIss false) (fenced (atomIss false) atomT), atomR,
      ok_of (atomIss false).s ?_, ok_of atomT ?_, ok_of _ ?_, ok_of _ ?_, ok_of () ?_, ok_of lab ?_⟩ <;> decide +kernel
  · refine ⟨ok_of [] ?_, ?_, ok_of () ?_, ok_of () ?_, vatReady (atomIss true), released (atomIss true) (vatReady (atomIss true)), ok_of _ ?_, ok_of _ ?_,
      ok_of lab ?_⟩ <;> decide +kernel

theorem test_witness_AtomicIssues : ∀ sp, ∃ (x : AtomI) (s : State) (c : Iss) (s1 s2 s3 t u : State) (base v index : Nat → Word)
    (ps : List Placed), x.sp = sp ∧ Issues s (atomNeed x) (Instr.atom x).bytes c ∧ c.gang.pair = none ∧
    takeBase c c.s x.addr x.sp = .ok (s1, base) ∧ takeSrc c s1 x.ty.is64 x.b = .ok (s2, v) ∧ takeIndex c s2 x.addr = .ok (s3, index) ∧
    x.op ≠ .cas ∧ atomPasses c s3 x.addr x.sp x.op x.ty x.ord (laneAccess c x.addr (accSize x.ty) base index) ps t ∧
    finishLoad c (updateBase c (atomFold c.f.gang c.gang.core (vatSpace x.addr x.sp) x.op x.ty v (fun _ => 0) ps t).1 x.addr (accSize x.ty)) x.d
      x.ty.is64 (valueAt ps (atomFold c.f.gang c.gang.core (vatSpace x.addr x.sp) x.op x.ty v (fun _ => 0) ps t).2) = .ok u := by
  intro sp
  refine ⟨atomOne sp, memLab sp, atomIss sp, (atomIss sp).s, (atomIss sp).s, (atomIss sp).s, atomSt sp, _, fun _ => 0, fun _ => 1, fun _ => 0,
    atomPlaced sp, rfl, issues_of ?_, ?_, rfl, rfl, rfl, (by cases sp <;> decide), atomPasses_lab sp, ok_of lab ?_⟩ <;> cases sp <;> decide +kernel

def atomuOne : AtomUI :=
  { op := .cas, ty := .n32, ord := .plain, scope := .dflt, d := 9, addr := .base 5 0 0, sp := true, b := .long 1, nt := false }
def atomuIss : Iss := issAt (memLab true) { ss := atomuOne.d :: (addrRegs atomuOne.addr ++ usrcRegs atomuOne.b) } 20
def atomuPlaced : List Placed :=
  val (checkAccesses atomuIss atomuIss.s { sp := true, kind := .atomic, size := 4, align := true, empty := false, own := hostOwn atomuIss .cas .n32 }
    (oneAt atomuIss)) []

def atomuP : Placed := atomuPlaced.headD { acc := { lanes := 0, lane := 0, addr := 0 }, x := { pa := 0, shift := 16, region := 0, dur := false } }

theorem test_witness_AtomicIssues_uniform : ∃ (x : AtomUI) (s : State) (c : Iss) (t : State) (p : Placed),
    Issues s { ss := x.d :: (addrRegs x.addr ++ usrcRegs x.b) } (Instr.atomu x).bytes c ∧ c.gang.pair = none ∧
    atomPasses c c.s x.addr x.sp x.op x.ty x.ord (oneAccess c x.addr (accSize x.ty)) [p] t := by
  have hp : atomuPlaced = [atomuP] := by decide +kernel
  refine ⟨atomuOne, memLab true, atomuIss, val (becomeNR atomuIss (released atomuIss (vatReady atomuIss)) true) lab, atomuP, issues_of ?_, ?_, ?_⟩
  · decide +kernel
  · decide +kernel
  · rw [← hp]
    refine ⟨ok_of [] ?_, ?_, ok_of () ?_, ok_of () ?_, vatReady atomuIss, released atomuIss (vatReady atomuIss), ok_of _ ?_, ok_of _ ?_, ok_of lab ?_⟩
      <;> decide +kernel

theorem test_witness_AtomicAddsTotal : ∃ (s : State) (pa : Nat) (ps : List Placed), s.mem.wf = true ∧ ps ≠ [] ∧ ∀ p, p ∈ ps → p.x.pa = pa :=
  ⟨State.reset, 0xFFFC, [{ acc := goodAt, x := { pa := 0xFFFC, shift := 16, region := 2, dur := false } },
    { acc := badAt, x := { pa := 0xFFFC, shift := 16, region := 2, dur := false } }], by decide, by decide, by decide⟩

/-! ## RED, OAPP, PREF, CFLUSH, FENCE, IFENCE, SETMOD -/

def redOne (sp : Bool) : RedI :=
  { g := .none, op := .add, ty := .n32, ord := .plain, scope := .dflt, addr := .base 5 0 0, sp := sp, b := .long 1, nt := false }
def redNeed (x : RedI) : Need :=
  { vs := baseUses x.addr x.sp ++ vsrcUses x.b x.ty.is64 ++ indexUses x.addr, ss := addrRegs x.addr, ps := guardPreds x.g, g := x.g }
def redIss (sp : Bool) : Iss := issAt (memLab sp) (redNeed (redOne sp)) 20
def redPlaced (sp : Bool) : List Placed := val (checkAccesses (redIss sp) (redIss sp).s (atomMode (redIss sp) sp) (lanesAt (redIss sp))) []

/-- The operands of a RED are read and its accesses pass. -/
def RedPasses (x : RedI) (s : State) (c : Iss) (s3 : State) (ps : List Placed) : Prop := ∃ (s1 s2 : State) (base v index : Nat → Word),
  Issues s (redNeed x) (Instr.red x).bytes c ∧ c.gang.pair = none ∧
  takeBase c c.s x.addr x.sp = .ok (s1, base) ∧ takeSrc c s1 x.ty.is64 x.b = .ok (s2, v) ∧ takeIndex c s2 x.addr = .ok (s3, index) ∧
  checkAccesses c s3 { sp := vatSpace x.addr x.sp, kind := .atomic, size := accSize x.ty, align := true, empty := lenZero c x.addr, own := hostOwn c x.op x.ty }
    (laneAccess c x.addr (accSize x.ty) base index) = .ok ps ∧ c.grp.stc < 63

/-- The gang holds effects, and has room for one. -/
def holdLab (sp : Bool) : State := (memLab sp).modGang 1 (fun g => { g with task := { g.task with replay := true } })
def holdIss (sp : Bool) : Iss := issAt (holdLab sp) (redNeed (redOne sp)) 20
def holdPlaced (sp : Bool) : List Placed := val (checkAccesses (holdIss sp) (holdIss sp).s (atomMode (holdIss sp) sp) (lanesAt (holdIss sp))) []
def roomIn (c : Iss) : Prop := c.gang.task.replay = true ∧ c.gang.nr = false ∧ c.gang.effects.length < 256

theorem redPasses_lab : ∀ sp, RedPasses (redOne sp) (memLab sp) (redIss sp) (redIss sp).s (redPlaced sp) ∧
    RedPasses (redOne sp) (holdLab sp) (holdIss sp) (holdIss sp).s (holdPlaced sp) := by
  intro sp
  cases sp <;> constructor
  · refine ⟨(redIss false).s, (redIss false).s, _, fun _ => 1, fun _ => 0, issues_of ?_, ?_, rfl, rfl, rfl, ok_of [] ?_, ?_⟩ <;> decide +kernel
  · refine ⟨(holdIss false).s, (holdIss false).s, _, fun _ => 1, fun _ => 0, issues_of ?_, ?_, rfl, rfl, rfl, ok_of [] ?_, ?_⟩ <;> decide +kernel
  · refine ⟨(redIss true).s, (redIss true).s, _, fun _ => 1, fun _ => 0, issues_of ?_, ?_, rfl, rfl, rfl, ok_of [] ?_, ?_⟩ <;> decide +kernel
  · refine ⟨(holdIss true).s, (holdIss true).s, _, fun _ => 1, fun _ => 0, issues_of ?_, ?_, rfl, rfl, rfl, ok_of [] ?_, ?_⟩ <;> decide +kernel

theorem test_witness_RedAndAppend_vat : ∃ (x : RedI) (s : State) (c : Iss) (s3 s4 t u : State) (ps : List Placed),
    RedPasses x s c s3 ps ∧ vatSpace x.addr x.sp = true ∧ ¬ roomIn c ∧ readyVat c s3 true ps = .ok () ∧ afterFences c s3 = .ok s4 ∧
    releaseFirst c s4 x.ord = .ok t ∧ becomeNR c t false = .ok u := by
  refine ⟨redOne true, memLab true, redIss true, (redIss true).s, vatReady (redIss true), val (releaseFirst (redIss true) (vatReady (redIss true)) .plain) lab,
    _, redPlaced true, (redPasses_lab true).1, rfl, ?_, ok_of () ?_, ok_of _ ?_, ok_of lab ?_, ok_of lab ?_⟩
  · exact fun h => absurd h.1 (by decide +kernel)
  all_goals decide +kernel

theorem test_witness_RedAndAppend_vatHeld : ∃ (x : RedI) (s : State) (c : Iss) (s3 s4 t : State) (ps : List Placed),
    RedPasses x s c s3 ps ∧ vatSpace x.addr x.sp = true ∧ roomIn c ∧ readyVat c s3 true ps = .ok () ∧ afterFences c s3 = .ok s4 ∧
    releaseFirst c s4 x.ord = .ok t := by
  refine ⟨redOne true, holdLab true, holdIss true, (holdIss true).s, vatReady (holdIss true), _, holdPlaced true, (redPasses_lab true).2, rfl,
    ⟨?_, ?_, ?_⟩, ok_of () ?_, ok_of _ ?_, ok_of lab ?_⟩ <;> decide +kernel

theorem test_witness_RedAndAppend_memory : ∃ (x : RedI) (s : State) (c : Iss) (s3 t u : State) (ps : List Placed),
    RedPasses x s c s3 ps ∧ vatSpace x.addr x.sp = false ∧ ¬ roomIn c ∧
    checkWatch c .atomic (accSize x.ty) (lanesAt c) = .ok () ∧ touch c s3 (vasOf ps) = .ok t ∧ becomeNR c t false = .ok u := by
  refine ⟨redOne false, memLab false, redIss false, (redIss false).s, touched (redIss false) (redIss false).s (redPlaced false), _, redPlaced false,
    (redPasses_lab false).1, rfl, ?_, ok_of () ?_, ok_of _ ?_, ok_of lab ?_⟩
  · exact fun h => absurd h.1 (by decide +kernel)
  all_goals decide +kernel

theorem test_witness_RedAndAppend_held : ∃ (x : RedI) (s : State) (c : Iss) (s3 t u : State) (ps : List Placed),
    RedPasses x s c s3 ps ∧ vatSpace x.addr x.sp = false ∧ roomIn c ∧
    checkWatch c .atomic (accSize x.ty) (lanesAt c) = .ok () ∧ touch c s3 (vasOf ps) = .ok t ∧ releaseFirst c t x.ord = .ok u := by
  refine ⟨redOne false, holdLab false, holdIss false, (holdIss false).s, touched (holdIss false) (holdIss false).s (holdPlaced false), _, holdPlaced false,
    (redPasses_lab false).2, rfl, ⟨?_, ?_, ?_⟩, ok_of () ?_, ok_of _ ?_, ok_of lab ?_⟩ <;> decide +kernel

def appOne : OAppI := { ty := .n32, ch := 0, d := .v 3, a := 5, ofs := 0, nt := false }
def appIss : Iss := issAt (withS big 5 0x1FFFC) { vs := [vuse appOne.d appOne.ty.is64], ss := [appOne.a] } 12
def appAs : List Access := (lanesOf appIss.exec).map (fun l => { lanes := laneBit l, lane := l, addr := appIss.readS 5 + appOne.ofs.signExtend 64 })
def appPlaced : List Placed := val (checkAccesses appIss appIss.s (modeOf false .write) appAs) []

theorem test_witness_RedAndAppend_append : ∃ (x : OAppI) (s : State) (c : Iss) (s1 s2 s3 : State) (v : Nat → Word) (ps : List Placed) (g : Gang),
    Issues s { vs := [vuse x.d x.ty.is64], ss := [x.a] } (Instr.oapp x).bytes c ∧ c.gang.pair = none ∧ takeTy c c.s x.ty.is64 x.d = .ok (s1, v) ∧
    checkAccesses c s1 { sp := false, kind := .write, size := accSize x.ty, align := true, empty := false, own := noOwn }
      ((lanesOf c.exec).map (fun l => ({ lanes := laneBit l, lane := l, addr := c.readS x.a + x.ofs.signExtend 64 } : Access))) = .ok ps ∧
    (∀ l, l ∈ lanesOf c.exec → (c.f.group, l) ∉ (c.gang.channel x.ch).done) ∧
    checkWatch c .write (accSize x.ty)
      ((lanesOf c.exec).map (fun l => ({ lanes := laneBit l, lane := l, addr := c.readS x.a + x.ofs.signExtend 64 } : Access))) = .ok () ∧
    touch c s1 (vasOf ps) = .ok s2 ∧ afterFences c s2 = .ok s3 ∧ c.gang.append x.ch ((lanesOf c.exec).map (fun l =>
      ({ place := .lane c.f.group l, base := (c.readS x.a + x.ofs.signExtend 64).toNat, size := accSize x.ty, val := v l, line := none } :
        AppendElem))) = some g :=
  ⟨appOne, withS big 5 0x1FFFC, appIss, appIss.s, touched appIss appIss.s appPlaced, _, fun l => (appIss.s.lane 1 0 3 l).zeroExtend 64, appPlaced, _, issues_of (by decide +kernel),
    by decide +kernel, rfl, ok_of [] (by decide +kernel), by decide +kernel, ok_of () (by decide +kernel), ok_of _ (by decide +kernel), ok_of lab (by decide +kernel),
    some_of appIss.gang (by decide +kernel)⟩

def lineOne : LineI := { g := .none, scope := .dflt, addr := .base 5 0 0, nt := false }
def lineNeed (x : LineI) : Need := { vs := baseUses x.addr false ++ indexUses x.addr, ss := addrRegs x.addr, ps := guardPreds x.g, g := x.g }
def lineIss : Iss := issAt (memLab false) (lineNeed lineOne) 12
def linePlaced : List Placed :=
  val (checkAccesses lineIss lineIss.s { sp := false, kind := .read, size := 128, align := false, empty := false, own := noOwn }
    (laneAccess lineIss lineOne.addr 128 (fun _ => 0) (fun _ => 0))) []

theorem test_witness_OrderAndRing_lines : ∃ (x : LineI) (s : State) (c : Iss) (s1 t : State) (base index : Nat → Word) (ps : List Placed),
    Issues s (lineNeed x) 12 c ∧ addressRead c c.s x.addr false s1 base index ∧
    checkAccesses c s1 { sp := false, kind := .read, size := 128, align := false, empty := false, own := noOwn }
      (laneAccess c x.addr 128 base index) = .ok ps ∧ c.grp.stc < 63 ∧ touch c s1 (vasOf ps) = .ok t :=
  ⟨lineOne, memLab false, lineIss, lineIss.s, _, fun _ => 0, fun _ => 0, linePlaced, issues_of (by decide +kernel), ⟨_, rfl, rfl⟩,
    ok_of [] (by decide +kernel), by decide +kernel, ok_of lab (by decide +kernel)⟩

theorem test_witness_OrderAndRing_fence : ∃ (x : FenceI) (s : State) (c : Iss) (t : State), x.ord ≠ .acq ∧ Issues s {} (Instr.fence x).bytes c ∧
    c.s.performAll c.f.gang c.f.group = some t ∧ c.grp.stc = 0 :=
  ⟨{ ord := .rel, scope := .recov }, lab, issAt lab {} 12, _, by decide, issues_of (by decide +kernel), some_of lab (by decide +kernel),
    by decide +kernel⟩

/-- A ring of the whole allocation of 0x8000 bytes. -/
def ring : SetModI := { d := 1, a := 5, b := .long 0x8000, idx := 0x7FFF }

theorem test_witness_OrderAndRing_setmod : ∃ (x : SetModI) (s : State) (c : Iss), Issues s { ss := x.a :: usrcRegs x.b } (Instr.setmod x).bytes c ∧
    (c.readS x.a).toNat % 8 = 0 ∧ (c.usrc x.b).toNat % 8 = 0 ∧ 0 < (c.usrc x.b).toNat ∧ x.idx.toNat < (c.usrc x.b).toNat ∧
    c.gang.base ≤ (c.readS x.a).toNat ∧ (c.readS x.a).toNat + (c.usrc x.b).toNat ≤ c.gang.base + c.gang.size :=
  ⟨ring, lab, issAt lab { ss := ring.a :: usrcRegs ring.b } 20, issues_of (by decide +kernel), by decide +kernel, by decide, by decide, by decide,
    by decide +kernel, by decide +kernel⟩

end Sys2Proof.Tests.WitnessB
end

