-- ==== Sys2Proof/Tests/WitnessC.lean ====
section
/-! SUPPORT. States and operands that meet the hypotheses of the statements about the stash, sync words, tile moves, the engines, streams and
rendezvous. -/

namespace Sys2Proof.Tests.WitnessC

open Sys2Proof.Machine Sys2Proof.Claims Sys2Proof.Tests

set_option maxRecDepth 100000
set_option Elab.async false

/-- The word of a region record with element size 1. -/
def rec0 (base extent : Nat) : Word := BitVec.ofNat 64 (base + 2 ^ 23 * extent)

/-! ## The stash (07 R148, R149): the one unit of the stash part, mapped to the last 4 KiB of the page -/

def mapOne : StMapI := { d := 5, a := 6, wr := true }
def mapLab : State := withS (withS big 5 (rec0 0x11000 0x1000)) 6 0x1F000
def mapIss : Iss := issAt mapLab { ss := [mapOne.d, mapOne.a] } 12
def mapUnits : List (Nat × Word) := [(0x11000, 0x1F000)]
def mapXlats : List Xlat :=
  match firstXlat mapIss.s (mapIss.s.whoOf mapIss.gang mapIss.f) (mapUnits.map (fun u => (u.2, AccKind.read))) with
  | .ok xs => xs
  | .error _ => []

theorem test_witness_StashMembers_map : ∃ (x : StMapI) (s : State) (c : Iss) (xs : List Xlat) (t : State), Issues s { ss := [x.d, x.a] } (Instr.stmap x).bytes c ∧
    let r := Region.ofWord (c.readS x.d)
    let va := c.readS x.a
    let units := (List.range (r.extent / 4096)).map (fun u => (r.base + 4096 * u, va + BitVec.ofNat 64 (4096 * u)))
    stashRecordOk (c.readS x.d) 4096 = true ∧ c.gang.inStash r.base r.extent = true ∧ units = mapUnits ∧ (c.s.core? c.gang.core).stash = [] ∧
    va.toNat % 4096 = 0 ∧ firstXlat c.s (c.s.whoOf c.gang c.f) (units.map (fun u => (u.2, AccKind.read))) = .ok xs ∧
    (∃ ys, firstXlat c.s (c.s.whoOf c.gang c.f)
      (units.flatMap (fun u => (u.2, AccKind.read) :: (if x.wr then [(u.2, AccKind.write)] else []))) = .ok ys) ∧
    c.s.touchPages c.gang.core c.gang.ctx (units.map (fun u => u.2)) = some t := by
  refine ⟨mapOne, mapLab, mapIss, mapXlats, _, issues_of (by decide +kernel), by decide +kernel, by decide +kernel, by decide +kernel,
    by decide +kernel, by decide +kernel, ?_, ?_, some_of lab (by decide +kernel)⟩
  · decide +kernel
  · exact ⟨mapXlats ++ mapXlats, by decide +kernel⟩

/-- The unit mapped, its last line dirty. -/
def stashLab (w : Word) : State :=
  (withS big 5 w).modCore 0 (fun k => { k with stash :=
    [{ vat := 0x11000, va := 0x1F000, phys := 0xF000, wr := true, coh := false, dur := false, gang := 1, lines := [(31, true)], cut := false }] })
def stashIss (w : Word) : Iss := issAt (stashLab w) { ss := [5] } 12
def stashOk (w : Word) (align : Nat) (drops : Bool) : Region × List (StashUnit × Nat) :=
  val (stashRange (stashIss w) 5 align drops) (Region.ofWord 0, [])

theorem test_witness_StashMembers_unmap : ∃ (x : DstS) (s : State) (c : Iss) (r : Region) (ls : List (StashUnit × Nat)) (t : State),
    Issues s { ss := [x.d] } (Instr.stunmap x).bytes c ∧ stashRange c x.d 4096 true = .ok (r, ls) ∧ dirtyLines ls ≠ [] ∧ c.gang.pair = none ∧
    c.grp.stc < 63 ∧ c.s.performAll c.f.gang c.f.group = some t :=
  ⟨{ d := 5 }, stashLab (rec0 0x11000 0x1000), stashIss (rec0 0x11000 0x1000), (stashOk (rec0 0x11000 0x1000) 4096 true).1,
    (stashOk (rec0 0x11000 0x1000) 4096 true).2, _, issues_of (by decide +kernel), ok_of (Region.ofWord 0, []) (by decide +kernel), by decide +kernel,
    by decide +kernel, by decide +kernel, some_of lab (by decide +kernel)⟩

theorem test_witness_StashMembers_writeBack : ∃ (x : DstS) (s : State) (c : Iss) (r : Region) (ls : List (StashUnit × Nat)) (t : State),
    Issues s { ss := [x.d] } (Instr.stwb x).bytes c ∧ stashRange c x.d 128 false = .ok (r, ls) ∧ dirtyLines ls ≠ [] ∧ c.gang.pair = none ∧
    c.grp.stc < 63 ∧ c.s.performAll c.f.gang c.f.group = some t :=
  ⟨{ d := 5 }, stashLab (rec0 0x11F80 0x80), stashIss (rec0 0x11F80 0x80), (stashOk (rec0 0x11F80 0x80) 128 false).1,
    (stashOk (rec0 0x11F80 0x80) 128 false).2, _, issues_of (by decide +kernel), ok_of (Region.ofWord 0, []) (by decide +kernel), by decide +kernel,
    by decide +kernel, by decide +kernel, some_of lab (by decide +kernel)⟩

theorem test_witness_StashMembers_drop : ∃ (x : DstS) (s : State) (c : Iss) (r : Region) (ls : List (StashUnit × Nat)),
    Issues s { ss := [x.d] } (Instr.stdrop x).bytes c ∧ stashRange c x.d 128 true = .ok (r, ls) ∧ dirtyLines ls ≠ [] :=
  ⟨{ d := 5 }, stashLab (rec0 0x11F80 0x80), stashIss (rec0 0x11F80 0x80), (stashOk (rec0 0x11F80 0x80) 128 true).1,
    (stashOk (rec0 0x11F80 0x80) 128 true).2, issues_of (by decide +kernel), ok_of (Region.ofWord 0, []) (by decide +kernel), by decide +kernel⟩

/-! ## Sync words (07 R151-R153): the last 16 bytes of the allocation -/

def syncLab (w : SyncWord) (b : Word) : State := (withS (withS big 5 0x31FF0) 6 b).putSync 0 0x31FF0 w
def goodWord : SyncWord := { SyncWord.ofNat 0 with valid := true, target := 2, count := 1 }
def syncIss (w : SyncWord) (b : Word) (ups : List UPReg) : Iss := issAt (syncLab w b) { ss := [5, 6], ups := ups } 12

theorem test_witness_SyncMembers_init : ∃ (s : State) (c : Iss), Issues s { ss := [5, 6] } (Instr.swinit { a := 5, b := .reg 6, keep := true }).bytes c ∧
    syncCheck c (c.readS 5) false = .ok () ∧ (c.usrc (.reg 6)).toNat = 2 ^ 28 - 1 ∧ syncReady c (c.readS 5) = .ok () :=
  ⟨syncLab (SyncWord.ofNat 0) 0xFFFFFFF, syncIss (SyncWord.ofNat 0) 0xFFFFFFF [], issues_of (by decide +kernel), ok_of () (by decide +kernel),
    by decide +kernel, ok_of () (by decide +kernel)⟩

theorem test_witness_SyncMembers_arrive : ∃ (s t : State) (c : Iss), Issues s { ss := [5, 6] } (Instr.swarrive { a := 5, b := .reg 6 }).bytes c ∧
    syncCheck c (c.readS 5) true = .ok () ∧ (c.s.syncWord c.gang.core (c.readS 5).toNat).count + (c.usrc (.reg 6)).toNat =
      (c.s.syncWord c.gang.core (c.readS 5).toNat).target ∧ syncReady c (c.readS 5) = .ok () ∧ releaseFirst c c.s .rel = .ok t :=
  ⟨syncLab goodWord 1, _, syncIss goodWord 1 [], issues_of (by decide +kernel), ok_of () (by decide +kernel), by decide +kernel,
    ok_of () (by decide +kernel), ok_of lab (by decide +kernel)⟩

theorem test_witness_SyncMembers_expect : ∃ (s : State) (c : Iss), Issues s { ss := [5, 6] } (Instr.swexpect { a := 5, b := .reg 6 }).bytes c ∧
    syncCheck c (c.readS 5) true = .ok () ∧ (c.s.syncWord c.gang.core (c.readS 5).toNat).target + (c.usrc (.reg 6)).toNat = 2 ^ 28 - 1 ∧
    syncReady c (c.readS 5) = .ok () :=
  ⟨syncLab goodWord 0xFFFFFFD, syncIss goodWord 0xFFFFFFD [], issues_of (by decide +kernel), ok_of () (by decide +kernel), by decide +kernel,
    ok_of () (by decide +kernel)⟩

theorem test_witness_SyncMembers_wait : ∀ adv, ∃ (s : State) (c : Iss),
    Issues s { ss := [5, 6], ups := [1] } (Instr.swwait { d := 1, a := 5, b := .reg 6, try_ := false }).bytes c ∧ syncCheck c (c.readS 5) true = .ok () ∧
    c.gang.pair = none ∧ c.f.split ≠ 4 ∧ c.s.isTrail c.f.gang = false ∧
    (let past := ((c.s.syncWord c.gang.core (c.readS 5).toNat).gen + 2 ^ 32 - (c.usrc (.reg 6)).toNat % 2 ^ 32) % 2 ^ 32
     decide (1 ≤ past ∧ past ≤ 2 ^ 31)) = adv := by
  intro adv
  cases adv
  · exact ⟨syncLab goodWord 0x7FFFFFFF, syncIss goodWord 0x7FFFFFFF [1], issues_of (by decide +kernel), ok_of () (by decide +kernel),
      by decide +kernel, by decide +kernel, by decide +kernel, by decide +kernel⟩
  · exact ⟨syncLab goodWord 0x80000000, syncIss goodWord 0x80000000 [1], issues_of (by decide +kernel), ok_of () (by decide +kernel),
      by decide +kernel, by decide +kernel, by decide +kernel, by decide +kernel⟩

theorem test_witness_SyncMembers_completes : ∃ (s : State) (core a : Nat), s.vat.wf = true ∧ (∀ i, i < 16 → s.deadByte core (a + i) = false) ∧
    0 < (s.syncWord core a).target ∧ (s.syncWord core a).target = (s.syncWord core a).count :=
  ⟨syncLab { goodWord with count := 2 } 0, 0, 0x31FF0, by decide +kernel, by decide +kernel, by decide +kernel, by decide +kernel⟩

theorem test_witness_SyncMembers_stays : ∃ (s : State) (core a : Nat), s.vat.wf = true ∧ (∀ i, i < 16 → s.deadByte core (a + i) = false) ∧
    (s.syncWord core a).count + 1 = (s.syncWord core a).target :=
  ⟨syncLab goodWord 0, 0, 0x31FF0, by decide +kernel, by decide +kernel, by decide +kernel⟩

/-! ## WAIT, LDT, STT, CQCFG -/

theorem test_witness_TileMovesAndQueues_wait : ∃ (x : WaitI) (s : State) (c : Iss), Issues s {} (Instr.wait x).bytes c ∧
    c.grp.ldc ≤ x.ld.val ∧ c.grp.stc = x.st.val ∧ c.grp.cpc ≤ x.cp.val ∧ c.grp.tlc ≤ x.tl.val :=
  ⟨{ ld := 0, st := 63, cp := 0, tl := 0 }, labGroup (fun g => { g with stc := 63 }), issAt (labGroup (fun g => { g with stc := 63 })) {} 12,
    issues_of (by decide +kernel), by decide +kernel, by decide +kernel, by decide +kernel, by decide +kernel⟩

/-- Both tile registers, from the page at a stride of one line. -/
def ldtOne : LdtI := { d := 0, a := 5, b := 6, sw := some 7, n1 := 1 }
def tileLab : State := withS (withS (withS big 5 0x1F800) 6 0x80) 7 0x31FF0
def ldtIss : Iss := issAt tileLab { ss := [5, 6, 7] } 12
def ldtRel : State := val (releaseFirst ldtIss ldtIss.s .rel) lab
def tileXs (k : AccKind) : List Xlat := val (tileCheck ldtIss 0 2 5 6 (some 7) k) []

theorem test_witness_TileMovesAndQueues_load : ∃ (x : LdtI) (s : State) (c : Iss) (xs : List Xlat) (s1 t : State),
    Issues s { ss := x.a :: x.b :: x.sw.toList } (Instr.ldt x).bytes c ∧
    tileCheck c x.d (x.n1.val + 1) x.a x.b x.sw .read = .ok xs ∧ c.grp.ldc < 63 ∧
    (∀ i, i < 8 * (x.n1.val + 1) → c.s.vatBusy c.gang.core ((c.tileBase x.d + 128 * i) / 128) true = false) ∧
    releaseFirst c c.s .rel = .ok s1 ∧
    s1.touchPages c.gang.core c.gang.ctx (tileLineVas (c.readS x.a) (c.readS x.b) (x.n1.val + 1)) = some t ∧
    c.gang.pair = none :=
  ⟨ldtOne, tileLab, ldtIss, tileXs .read, ldtRel, _, issues_of (by decide +kernel), ok_of [] (by decide +kernel), by decide +kernel,
    by decide +kernel, ok_of lab (by decide +kernel), some_of lab (by decide +kernel), by decide +kernel⟩

def sttIss : Iss := issAt tileLab { ss := [5, 6] } 12

theorem test_witness_TileMovesAndQueues_store : ∃ (x : SttI) (s : State) (c : Iss) (xs : List Xlat) (t : State), Issues s { ss := [x.a, x.b] } (Instr.stt x).bytes c ∧
    tileCheck c x.d (x.n1.val + 1) x.a x.b none .write = .ok xs ∧ c.grp.stc < 63 ∧
    (∀ i, i < 8 * (x.n1.val + 1) → c.s.vatBusy c.gang.core ((c.tileBase x.d + 128 * i) / 128) false = false) ∧
    c.s.touchPages c.gang.core c.gang.ctx (tileLineVas (c.readS x.a) (c.readS x.b) (x.n1.val + 1)) = some t ∧
    c.gang.pair = none :=
  ⟨{ d := 0, a := 5, b := 6, n1 := 1 }, tileLab, sttIss, tileXs .write, _, issues_of (by decide +kernel), ok_of [] (by decide +kernel),
    by decide +kernel, by decide +kernel, some_of lab (by decide +kernel), by decide +kernel⟩

/-- The eight registers below the highest of 256. -/
def cqOne : CqCfgI := { k := 7, a := 248, depth := 8 }

theorem test_witness_TileMovesAndQueues_queue : ∃ (x : CqCfgI) (s : State) (c : Iss), Issues s { vs := [vuse (.v x.a) false] } (Instr.cqcfg x).bytes c ∧ c.sp.lanes = c.grp.live ∧
    x.depth.val = 8 ∧ x.a.val + x.depth.val = c.gang.task.w ∧ c.grp.rangeTaken x.k.val x.a.val x.depth.val = false ∧ c.grp.carry[x.k.val] = none :=
  ⟨cqOne, lab, issAt lab { vs := [vuse (.v cqOne.a) false] } 12, issues_of (by decide +kernel), by decide +kernel, by decide, by decide +kernel,
    by decide +kernel, by decide +kernel⟩

/-! ## Engine commands (05 R104-R111) -/

/-- 128 bytes from the last line of the page to the program part, to arrive at the sync word. -/
def copyOne : CopyI := { dv := true, av := false, d := 5, a := 6, b := 7, sw := some 8, nt := false }
def copyLab : State := withS (withS (withS (withS big 5 (rec0 0x12000 0x80)) 6 0x1FF80) 7 0x80) 8 0x31FF0
def copyIss : Iss := issAt copyLab { ss := [5, 6, 7, 8] } 12
def copyDst : Option Region := val (sideRegion copyIss true (copyIss.readS 5) true) none
def copySrcPages : List (Word × Xlat) := val (sidePages copyIss none (copyIss.readS 6) 0x80 .read) []
def copyDstPages : List (Word × Xlat) := val (sidePages copyIss copyDst (copyIss.readS 5) 0x80 .write) []
def copyTouched : State := val (touchRange copyIss copyIss.s (copySrcPages ++ copyDstPages)) copyIss.s
def copyT : State := val (releaseFirst copyIss copyTouched .rel) lab

theorem test_witness_EngineCommands_copy : ∃ (x : CopyI) (s : State) (c : Iss) (dr sr : Option Region) (sp dp : List (Word × Xlat)) (s1 t : State),
    Issues s { ss := x.d :: x.a :: x.b :: x.sw.toList } (Instr.copy x).bytes c ∧ c.gang.pair = none ∧ t.isTrail c.f.gang = false ∧
    let len := (c.readS x.b).toNat
    sideRegion c x.dv (c.readS x.d) true = .ok dr ∧ sideRegion c x.av (c.readS x.a) false = .ok sr ∧ checkSync c x.sw = .ok () ∧
    0 < len ∧ len < 2 ^ 32 ∧ fitsExtent c dr len = .ok () ∧ fitsExtent c sr len = .ok () ∧ sidePages c sr (c.readS x.a) len .read = .ok sp ∧
    sidePages c dr (c.readS x.d) len .write = .ok dp ∧ touchRange c c.s (sp ++ dp) = .ok s1 ∧ c.grp.cpc < 63 ∧
    releaseFirst c s1 .rel = .ok t :=
  ⟨copyOne, copyLab, copyIss, copyDst, none, copySrcPages, copyDstPages, copyTouched, copyT, issues_of (by decide +kernel), by decide +kernel,
    by decide +kernel, ok_of none (by decide +kernel), rfl, ok_of () (by decide +kernel), by decide +kernel, by decide +kernel, ok_of () (by decide +kernel),
    ok_of () (by decide +kernel), ok_of [] (by decide +kernel), ok_of [] (by decide +kernel), ok_of copyIss.s (by decide +kernel), by decide +kernel,
    ok_of lab (by decide +kernel)⟩

/-- A list of one index of 4 bytes; one element of 4 bytes. -/
def rec2 (base extent : Nat) : Word := BitVec.ofNat 64 (base + 2 ^ 23 * extent + 2 ^ 46 * 2)
def listLab : State := withS (withS (withS (withS big 5 (rec2 0x12000 4)) 6 0x1FFFC) 7 (rec2 0x12080 4)) 8 0x31FF0
def listIss (sw : Bool) : Iss := issAt listLab { ss := if sw then [5, 6, 7, 8] else [5, 6, 7] } 12
def listVal (sw dst : Bool) : State × ListCmd :=
  val (listChecks (listIss sw) .n32 5 6 7 (if sw then some 8 else none) dst) (lab, { data := Region.ofWord 0, addrs := [], size := 4 })
def listXs (sw dst : Bool) (k : AccKind) : List Xlat := val (listXlat (listIss sw) k noOwn (listVal sw dst).2.addrs) []
def listTouched (sw dst : Bool) (k : AccKind) : State :=
  val (touchRange (listIss sw) (listVal sw dst).1 ((listVal sw dst).2.addrs.zip (listXs sw dst k))) lab
def listT (sw dst : Bool) (k : AccKind) : State := val (releaseFirst (listIss sw) (listTouched sw dst k) .rel) lab
def listStart : State × ListCmd := (lab, { data := Region.ofWord 0, addrs := [], size := 4 })

theorem test_witness_EngineCommands_gather : ∃ (x : GatherI) (s : State) (c : Iss) (s1 s2 t : State) (l : ListCmd) (xs : List Xlat),
    Issues s { ss := x.d :: x.a :: x.b :: x.sw.toList } (Instr.gather x).bytes c ∧ c.gang.pair = none ∧ t.isTrail c.f.gang = false ∧
    listChecks c x.ty x.d x.a x.b x.sw true = .ok (s1, l) ∧ listXlat c .read noOwn l.addrs = .ok xs ∧
    stashGuard c l.data.base (l.addrs.length * l.size) true = .ok () ∧ touchRange c s1 (l.addrs.zip xs) = .ok s2 ∧ c.grp.cpc < 63 ∧
    releaseFirst c s2 .rel = .ok t ∧ xs ≠ [] :=
  ⟨{ ty := .n32, d := 5, a := 6, b := 7, sw := some 8, nt := false }, listLab, listIss true, (listVal true true).1, listTouched true true .read,
    listT true true .read, (listVal true true).2, listXs true true .read, issues_of (by decide +kernel), by decide +kernel, by decide +kernel,
    ok_of listStart (by decide +kernel), ok_of [] (by decide +kernel), ok_of () (by decide +kernel), ok_of lab (by decide +kernel),
    by decide +kernel, ok_of lab (by decide +kernel), by decide +kernel⟩

theorem test_witness_EngineCommands_scatter : ∃ (x : ScatterI) (s : State) (c : Iss) (s1 s2 t : State) (l : ListCmd) (xs : List Xlat),
    Issues s { ss := [x.d, x.a, x.b] } (Instr.scatter x).bytes c ∧ c.gang.pair = none ∧
    listChecks c x.ty x.d x.a x.b none false = .ok (s1, l) ∧ stashGuard c l.data.base (l.addrs.length * l.size) false = .ok () ∧
    listXlat c .write noOwn l.addrs = .ok xs ∧ touchRange c s1 (l.addrs.zip xs) = .ok s2 ∧ c.grp.cpc < 63 ∧ releaseFirst c s2 .rel = .ok t ∧
    xs ≠ [] :=
  ⟨{ ty := .n32, d := 5, a := 6, b := 7, nt := false }, listLab, listIss false, (listVal false false).1, listTouched false false .write,
    listT false false .write, (listVal false false).2, listXs false false .write, issues_of (by decide +kernel), by decide +kernel,
    ok_of listStart (by decide +kernel), ok_of () (by decide +kernel), ok_of [] (by decide +kernel), ok_of lab (by decide +kernel),
    by decide +kernel, ok_of lab (by decide +kernel), by decide +kernel⟩

def addXs : List Xlat := val (listXlat (listIss false) .atomic (hostOwn (listIss false) RedOp.xor.atom .n32) (listVal false false).2.addrs) []
def addTouched : State := val (touchRange (listIss false) (listVal false false).1 ((listVal false false).2.addrs.zip addXs)) lab
def addRead : State := val (readStash (listIss false) addTouched (rangeLines 0x12000 4)) lab

theorem test_witness_EngineCommands_scatterAdd : ∃ (x : ScatAddI) (s : State) (c : Iss) (s1 s2 s3 t : State) (l : ListCmd) (xs : List Xlat),
    Issues s { ss := [x.d, x.a, x.b] } (Instr.scatadd x).bytes c ∧ c.gang.pair = none ∧
    listChecks c x.ty x.d x.a x.b none false = .ok (s1, l) ∧ stashGuard c l.data.base (l.addrs.length * l.size) false = .ok () ∧
    listXlat c .atomic (hostOwn c x.op.atom x.ty) l.addrs = .ok xs ∧ touchRange c s1 (l.addrs.zip xs) = .ok s2 ∧
    readStash c s2 (rangeLines l.data.base (l.addrs.length * l.size)) = .ok s3 ∧ c.grp.cpc < 63 ∧ releaseFirst c s3 .rel = .ok t ∧
    xs ≠ [] ∧ ∀ j, j < xs.length → s3.vatPoisoned c.gang.core (l.data.base + j * l.size) = false :=
  ⟨{ op := .xor, ty := .n32, d := 5, a := 6, b := 7, nt := false }, listLab, listIss false, (listVal false false).1, addTouched, addRead, _,
    (listVal false false).2, addXs, issues_of (by decide +kernel), by decide +kernel, ok_of listStart (by decide +kernel),
    ok_of () (by decide +kernel), ok_of [] (by decide +kernel), ok_of lab (by decide +kernel), ok_of lab (by decide +kernel), by decide +kernel,
    ok_of lab (by decide +kernel), by decide +kernel, by decide +kernel⟩

theorem test_witness_EngineCommands_starts : ∃ (s : State) (c : Iss) (slot : Nat) (x : Group),
    s.group? c.gang.id slot = some x ∧ (s.gang? c.gang.id).bind (fun g => s.twin g) = none ∧ x.gid = c.grp.gid :=
  ⟨lab, issAt lab {} 12, 0, (lab.group? 1 0).getD (issAt lab {} 12).grp, some_of _ (by decide +kernel), by decide +kernel, by decide +kernel⟩

/-! ## Streams and ports (05 R112-R119) -/

/-- A fill of one dimension, two elements of 4 bytes, into a ring of one slot of one line at 0x12000. -/
def strBody : List Byte :=
  leBytes 8 0x1FFF8 ++ leBytes 4 2 ++ leBytes 4 1 ++ leBytes 4 1 ++ leBytes 4 1 ++ leBytes 4 1 ++ leBytes 4 4 ++ leBytes 4 0 ++ leBytes 4 0 ++
  leBytes 4 0 ++ leBytes 4 0 ++ leBytes 4 0x12000 ++ leBytes 2 1 ++ leBytes 1 1 ++ leBytes 1 0x21 ++ leBytes 4 0
def strBytes : List Byte := strBody ++ leBytes 4 (crc32c strBody).toNat
def strRec : StreamRec := StreamRec.ofBytes strBytes
def strLab (st : Stream) : State := setStream ((withS big 5 0x31FC0).vatWriteBytes 0 0x31FC0 strBytes) 0 3 st
def ownSt (st : StreamState) : Stream := { Stream.vacant with state := st, holder := 1, record := strRec }
def strIss (st : Stream) (n : Need) (len : Nat) : Iss := issAt (strLab st) n len
def strNeed : Need := { ss := [5], ups := [1] }
def cfgRel (st : Stream) : State := val (releaseFirst (strIss st strNeed 12) (strIss st strNeed 12).s .rel) lab
def cfgRead (st : Stream) : State := val (readStash (strIss st strNeed 12) (cfgRel st) [0x31FC0 / 128]) lab

/-- What the statement about STRCFG asks of the state and the operands. -/
def cfgMeets (x : StrCfgI) (s : State) (c : Iss) (s0 s1 : State) : Prop :=
  Issues s { ss := [x.a], ups := [x.d] } (Instr.strcfg x).bytes c ∧ c.gang.pair = none ∧ s1.isTrail c.f.gang = false ∧
    let a := (c.readS x.a).toNat
    let bs := s1.vatReadBytes c.gang.core a 64
    let r := StreamRec.ofBytes bs
    a % 64 = 0 ∧ c.gang.freeRange a 64 = true ∧ stashGuard c a 64 false = .ok () ∧ releaseFirst c c.s .rel = .ok s0 ∧ readStash c s0 [a / 128] = .ok s1 ∧
    (crc32c (bs.take 60)).toNat = fieldAt bs 60 4 ∧ streamRecOk bs = true ∧ c.gang.freeRange r.ring (r.slots * r.slotBytes) = true ∧
    (∀ w, r.sync = some w → c.gang.freeRange w 16 = true) ∧ c.grp.cpc < 63

def strCfg : StrCfgI := { d := 1, a := 5, e := 3, nt := false }

theorem test_witness_StreamMembers_configure : ∃ (x : StrCfgI) (s : State) (c : Iss) (s0 s1 : State), cfgMeets x s c s0 s1 ∧
    (s1.streamAt c.gang.core x.e.val).state = .free := by
  refine ⟨strCfg, strLab Stream.vacant, strIss Stream.vacant strNeed 12, cfgRel Stream.vacant, cfgRead Stream.vacant,
    ⟨issues_of (by decide +kernel), by decide +kernel, by decide +kernel, by decide +kernel, by decide +kernel, ok_of () (by decide +kernel),
      ok_of lab (by decide +kernel), ok_of lab (by decide +kernel), by decide +kernel, by decide +kernel, by decide +kernel, ?_, by decide +kernel⟩,
    by decide +kernel⟩
  intro w h
  have h0 : (StreamRec.ofBytes ((cfgRead Stream.vacant).vatReadBytes (strIss Stream.vacant strNeed 12).gang.core
    ((strIss Stream.vacant strNeed 12).readS 5).toNat 64)).sync = none := by decide +kernel
  exact absurd (h0.symm.trans h) (by simp)

def takenSt : Stream := { ownSt .idle with holder := 2 }

theorem test_witness_StreamMembers_refused : ∃ (x : StrCfgI) (s : State) (c : Iss) (s0 s1 : State), cfgMeets x s c s0 s1 ∧
    (s1.streamAt c.gang.core x.e.val).state ≠ .free ∧ (s1.streamAt c.gang.core x.e.val).holder ≠ c.f.gang := by
  refine ⟨strCfg, strLab takenSt, strIss takenSt strNeed 12, cfgRel takenSt, cfgRead takenSt,
    ⟨issues_of (by decide +kernel), by decide +kernel, by decide +kernel, by decide +kernel, by decide +kernel, ok_of () (by decide +kernel),
      ok_of lab (by decide +kernel), ok_of lab (by decide +kernel), by decide +kernel, by decide +kernel, by decide +kernel, ?_, by decide +kernel⟩,
    by decide +kernel, by decide +kernel⟩
  intro w h
  have h0 : (StreamRec.ofBytes ((cfgRead takenSt).vatReadBytes (strIss takenSt strNeed 12).gang.core
    ((strIss takenSt strNeed 12).readS 5).toNat 64)).sync = none := by decide +kernel
  exact absurd (h0.symm.trans h) (by simp)

def goState (on : Bool) : StreamState := if on then .run else .idle
def goIss (st : StreamState) : Iss := strIss (ownSt st) {} 12
def goRec (st : StreamState) : StreamRec := ((goIss st).s.streamOf (goIss st).gang 3).record
def goXs (st : StreamState) : List Xlat := val (listXlat (goIss st) (if (goRec st).drain then .write else .read) noOwn (goRec st).walk) []
def goTouched (st : StreamState) : State := val (touchRange (goIss st) (goIss st).s ((goRec st).walk.zip (goXs st))) lab
def goT (st : StreamState) : State := val (releaseFirst (goIss st) (goTouched st) .rel) lab

theorem test_witness_StreamMembers_go : ∀ on : Bool, ∃ (x : StrGoI) (s : State) (c : Iss) (xs : List Xlat) (s1 t : State),
    Issues s {} (Instr.strgo x).bytes c ∧ c.gang.pair = none ∧ t.isTrail c.f.gang = false ∧ holdsEngine c x.e.val = .ok () ∧
    let st := c.s.streamOf c.gang x.e.val
    listXlat c (if st.record.drain then .write else .read) noOwn st.record.walk = .ok xs ∧
    stashGuard c st.record.ring (st.record.slots * st.record.slotBytes) (!st.record.drain) = .ok () ∧
    touchRange c c.s (st.record.walk.zip xs) = .ok s1 ∧ c.grp.cpc < 63 ∧ releaseFirst c s1 .rel = .ok t ∧
    (t.streamAt c.gang.core x.e.val).state = goState on ∧ t.twin c.gang = none ∧ xs.length = 2 := by
  intro on
  refine ⟨{ e := 3, nt := false }, strLab (ownSt (goState on)), goIss (goState on), goXs (goState on), goTouched (goState on), goT (goState on), ?_⟩
  cases on
  · exact ⟨issues_of (by decide +kernel), by decide +kernel, by decide +kernel, ok_of () (by decide +kernel), ok_of [] (by decide +kernel),
      ok_of () (by decide +kernel), ok_of lab (by decide +kernel), by decide +kernel, ok_of lab (by decide +kernel), by decide +kernel,
      by decide +kernel, by decide +kernel⟩
  · exact ⟨issues_of (by decide +kernel), by decide +kernel, by decide +kernel, ok_of () (by decide +kernel), ok_of [] (by decide +kernel),
      ok_of () (by decide +kernel), ok_of lab (by decide +kernel), by decide +kernel, ok_of lab (by decide +kernel), by decide +kernel,
      by decide +kernel, by decide +kernel⟩

def haltT : State := val (releaseFirst (goIss .run) (goIss .run).s .rel) lab

theorem test_witness_StreamMembers_halt : ∃ (x : StrHaltI) (s : State) (c : Iss) (t : State), Issues s {} (Instr.strhalt x).bytes c ∧ c.gang.pair = none ∧
    t.isTrail c.f.gang = false ∧ holdsEngine c x.e.val = .ok () ∧ c.grp.cpc < 63 ∧ releaseFirst c c.s .rel = .ok t :=
  ⟨{ e := 3, rel := true, nt := false }, strLab (ownSt .run), goIss .run, haltT, issues_of (by decide +kernel), by decide +kernel,
    by decide +kernel, ok_of () (by decide +kernel), by decide +kernel, ok_of lab (by decide +kernel)⟩

theorem test_witness_StreamMembers_bind : ∃ (x : SpBindI) (s : State) (c : Iss) (e : Fin 4), Issues s {} (Instr.spbind x).bytes c ∧ x.e = some e ∧
    holdsEngine c e.val = .ok () ∧ (c.s.streamOf c.gang e.val).port = none ∧ c.grp.portBound x.q.val = false :=
  ⟨{ q := 7, e := some 3, nt := false }, strLab (ownSt .idle), goIss .idle, 3, issues_of (by decide +kernel), rfl, ok_of () (by decide +kernel),
    by decide +kernel, by decide +kernel⟩

/-- Port 7 bound to the engine, a slot full. -/
def portLab (drain : Bool) : State :=
  setPort (strLab { ownSt .run with record := { strRec with drain := drain }, port := some (0, 7), prod := if drain then 0 else 1 }) 1 0 7
    (some { engine := 3, line := 0 })
def portIss (drain : Bool) (len : Nat) : Iss := issAt (portLab drain) {} len

theorem test_witness_StreamMembers_unbind : ∃ (x : SpBindI) (s : State) (c : Iss) (p : Port), Issues s {} (Instr.spbind x).bytes c ∧ x.e = none ∧
    c.grp.ports[x.q.val] = some p :=
  ⟨{ q := 7, e := none, nt := false }, portLab false, portIss false 12, { engine := 3, line := 0 }, issues_of (by decide +kernel), rfl,
    by decide +kernel⟩

def fullSt : Stream := { ownSt .run with prod := 1 }

theorem test_witness_StreamMembers_signal : ∃ (x : SlotSigI) (s : State) (c : Iss) (t : State), Issues s {} (Instr.slotsig x).bytes c ∧
    holdsEngine c x.e.val = .ok () ∧ (c.s.streamOf c.gang x.e.val).port = none ∧ x.n.val = (c.s.streamOf c.gang x.e.val).groupSide ∧
    x.n.val = 1 ∧ releaseFirst c c.s .rel = .ok t :=
  ⟨{ e := 3, n := 1, nt := false }, strLab fullSt, strIss fullSt {} 12, _, issues_of (by decide +kernel), ok_of () (by decide +kernel),
    by decide +kernel, by decide +kernel, rfl, ok_of lab (by decide +kernel)⟩

theorem test_witness_PortLines_pop : ∃ (x : Iss) (s : State) (q : Nat) (p : Port) (st : Stream), x.stream s q = some (p, st) ∧ st.record.drain = false ∧
    st.cons < st.prod ∧ p.line + 1 = st.record.slotLines :=
  ⟨portIss false 12, portLab false, 7, { engine := 3, line := 0 }, { ownSt .run with port := some (0, 7), prod := 1 }, by decide +kernel,
    by decide +kernel, by decide +kernel, by decide +kernel⟩

theorem test_witness_PortLines_push : ∃ (x : Iss) (s t : State) (q : Nat) (p : Port) (st : Stream) (v : Nat → W32), x.stream s q = some (p, st) ∧
    pushPort x s q v = .ok t ∧ s.vat.wf = true ∧
    ∀ i, i < 128 → s.deadByte x.gang.core (st.record.ring + (st.prod % st.record.slots) * st.record.slotBytes + 128 * p.line + i) = false :=
  ⟨portIss true 12, portLab true, _, 7, { engine := 3, line := 0 }, { ownSt .run with record := { strRec with drain := true }, port := some (0, 7) },
    fun l => BitVec.ofNat 32 l, by decide +kernel, ok_of lab (by decide +kernel), by decide +kernel, by decide +kernel⟩

end Sys2Proof.Tests.WitnessC
end

