-- ==== Sys2Proof/Tests/WitnessD.lean ====
section
/-! SUPPORT. States and operands that meet the hypotheses of the statements about rendezvous, the press, tasks, traps and recovery. -/

namespace Sys2Proof.Tests.WitnessD

open Sys2Proof.Machine Sys2Proof.Claims Sys2Proof.Tests

set_option maxRecDepth 100000
set_option Elab.async false

/-- Every feature of the context's function is accepted. -/
def allFeatures (s : State) : State := s.modFn 0 (fun f => { f with featacc := BitVec.allOnes 128 })
/-- The state the releasing members go on in. -/
def freed (c : Iss) (s : State) : State := val (releaseFirst c s .rel) lab
def region (base extent : Nat) : Word := BitVec.ofNat 64 (base + 2 ^ 23 * extent)

/-! ## Rendezvous (05 R120-R122, 18 R335) -/

def groupOf (chips : List Nat) : CollGroup := { id := 255, chips := chips, me := 0, tag := 1 }
def collLab (chips : List Nat) : State :=
  { withS (withS (withS (withS (allFeatures big) 5 0x1FFFC) 6 0x1FFFC) 7 1) 8 0xFF with collGroups := [groupOf chips] }
def collOne : CollI := { kind := .allreduce, op := .add, ty := .n32, d := 5, a := 6, b := 7, c := 8, nt := false }
def collIss : Iss := issAt (collLab [0, 7]) { ss := [5, 6, 7, 8], feature := some 4 } 12
def collPages (k : AccKind) : List (Word × Xlat) := val (xlatRange collIss k 0x1FFFC 4) []
def collTouched : State := val (touchRange collIss collIss.s (collPages .read ++ collPages .write)) lab

theorem test_witness_RendezvousEntered_collective : ∃ (x : CollI) (s : State) (c : Iss) (g : CollGroup) (sp dp : List (Word × Xlat)) (s1 t : State),
    Issues s { ss := [x.d, x.a, x.b, x.c], feature := some 4 } (Instr.coll x).bytes c ∧ c.gang.pair = none ∧
    let n := (c.readS x.b).toNat
    let w := (c.readS x.c).toNat
    let size := accSize x.ty
    x.kind = .allreduce ∧ 0 < n ∧ n < 2 ^ 32 ∧ w = 255 ∧ c.s.collGroup? (w % 256) c.gang.ctx = some g ∧ c.readS x.d = c.readS x.a ∧
    (c.readS x.d).toNat % size = 0 ∧ xlatRange c .read (c.readS x.a) (n * size) = .ok sp ∧
    xlatRange c .write (c.readS x.d) (collDst x.kind g.chips.length n size) = .ok dp ∧ touchRange c c.s (sp ++ dp) = .ok s1 ∧ c.grp.cpc < 63 ∧
    releaseFirst c s1 .rel = .ok t :=
  ⟨collOne, collLab [0, 7], collIss, groupOf [0, 7], collPages .read, collPages .write, collTouched, freed collIss collTouched,
    issues_of (by decide +kernel), by decide +kernel, rfl, by decide +kernel, by decide, by decide +kernel, by decide +kernel,
    rfl, by decide +kernel, by decide +kernel, by decide +kernel, ok_of lab (by decide +kernel), by decide +kernel,
    ok_of lab (by decide +kernel)⟩

def sealLab : State := (withS (collLab [0, 1, 2, 3, 4, 5, 6, 7]) 5 0xFF).modCtx 1 (fun k => { k with quota := 1 })
def sealIss : Iss := issAt sealLab { ss := [5], ups := [1], feature := some 3 } 12

theorem test_witness_RendezvousEntered_seal : ∃ (x : CkSealI) (s : State) (c : Iss) (g : CollGroup) (k : Context) (t : State),
    Issues s { ss := [x.a], ups := [x.d], feature := some 3 } (Instr.ckseal x).bytes c ∧ c.gang.pair = none ∧
    (c.readS x.a).toNat = 255 ∧ c.s.collGroup? (c.readS x.a).toNat c.gang.ctx = some g ∧ g.chips.length = 8 ∧
    c.s.ctx? c.gang.ctx = some k ∧ k.quota = 1 ∧ c.grp.cpc < 63 ∧ releaseFirst c c.s .rel = .ok t :=
  ⟨{ d := 1, a := 5 }, sealLab, sealIss, groupOf [0, 1, 2, 3, 4, 5, 6, 7], (sealIss.s.ctx? 1).getD (Context.fresh 1 0 0), freed sealIss sealIss.s,
    issues_of (by decide +kernel), by decide +kernel, by decide +kernel, by decide +kernel, by decide +kernel, some_of _ (by decide +kernel),
    by decide +kernel, by decide +kernel, ok_of lab (by decide +kernel)⟩

/-! ## The press (11) -/

theorem test_witness_Reservations_reserve : ∃ (x : MResI) (s : State) (c : Iss), Issues s { ups := [x.d] } (Instr.mres x).bytes c ∧ c.gang.pair = none ∧
    (c.s.reserve c.gang x.nm.val x.nk.val).1.isTrail c.f.gang = false :=
  ⟨{ d := 1, nm := 32, nk := 8 }, big, issAt big { ups := [1] } 12, issues_of (by decide +kernel), by decide +kernel, by decide +kernel⟩

theorem test_witness_Reservations_none : ∃ (s : State) (c : Iss), Issues s {} Instr.mrel.bytes c ∧ c.s.reservation? c.gang = none :=
  ⟨big, issAt big {} Instr.mrel.bytes, issues_of (by decide +kernel), by decide +kernel⟩

/-- The gang holds every unit of its press; its records stand in s5, s6, s7, its metadata at 0x12000. -/
def units : Reservation :=
  { gang := 1, releasing := false, moulds := List.replicate 32 Mould.fresh, accs := List.replicate 8 Acc.fresh }
def pressLab (a b m : Word) : State :=
  (withS (withS (withS (allFeatures big) 5 a) 6 b) 7 m).modPress 0 (fun p => { p with reservations := [units] })

theorem test_witness_Reservations_release : ∃ (s : State) (c : Iss), Issues s {} Instr.mrel.bytes c ∧ c.s.reservation? c.gang ≠ none ∧ c.gang.tileOps = [] :=
  ⟨pressLab 0 0 0, issAt (pressLab 0 0 0) {} Instr.mrel.bytes, issues_of (by decide +kernel), by decide +kernel, by decide +kernel⟩

theorem test_witness_Reservations_status : ∃ (x : DstS) (s : State) (c : Iss), Issues s { ss := [x.d] } (Instr.mstat x).bytes c ∧ c.gang.pair = none ∧
    c.dueFlip c.s = none :=
  ⟨{ d := 5 }, big, issAt big { ss := [5] } 12, issues_of (by decide +kernel), by decide +kernel, by decide +kernel⟩

theorem test_witness_Reservations_grants : ∃ (s : State) (g : Gang) (nm nk : Nat), s.reservation? g = none ∧
    (s.press? g.press).usedMoulds + nm = 32 ∧ (s.press? g.press).usedAccs + nk = 8 ∧ g.press < s.presses.length :=
  ⟨big, (issAt big {} 4).gang, 32, 8, by decide +kernel, by decide +kernel, by decide +kernel, by decide +kernel⟩

theorem test_witness_Reservations_keeps : ∃ (s : State) (g : Gang) (r : Reservation), s.reservation? g = some r ∧ r.releasing = false :=
  ⟨pressLab 0 0 0, (issAt big {} 4).gang, units, by decide +kernel, by decide +kernel⟩

theorem test_witness_Reservations_refuses : ∃ (s : State) (g h : Gang) (nm nk : Nat), s.reservation? g = none ∧
    ¬((s.press? g.press).shared = true ∨ (s.press? g.press).usedMoulds + nm ≤ 32 ∧ (s.press? g.press).usedAccs + nk ≤ 8) ∧ s.gang? g.id = some h :=
  ⟨big.modPress 0 (fun p => { p with shared := false }), (issAt big {} 4).gang, (big.gang? 1).getD (issAt big {} 4).gang, 33, 0, by decide +kernel,
    by decide +kernel, by decide +kernel⟩

theorem test_witness_Reservations_ends : ∃ (s : State) (g k : Gang) (r : Reservation), g.press < s.presses.length ∧ k.id ≠ g.id ∧ s.reservation? k = some r :=
  ⟨pressLab 0 0 0, { gangFor bigTask with id := 2 }, gangFor bigTask, units, by decide +kernel, by decide, by decide +kernel⟩

def queued (c : Iss) (k : TileKind) (srcs : List Region) (dsts : List (Nat × Nat)) (s : State) : State := val (enqueue c s k srcs dsts) lab
def regionOf (c : Iss) (r : SReg) (esz need : Nat) (dst : Bool) : Region := val (pressRegion c r esz need dst) (Region.ofWord 0)
theorem region_of (c : Iss) (r : SReg) (esz need : Nat) (dst : Bool) (h : okB (pressRegion c r esz need dst) = true) :
    pressRegion c r esz need dst = .ok (regionOf c r esz need dst) := ok_of _ h

/-- Width 2: the smallest block of mantissas. -/
def loadOne : MldbI := { w := .bfp 0, mould := 31, a := 5, b := 6 }
def loadLab : State := pressLab (region 0x12000 0x4000) (region 0x16000 0x100) 0
def loadIss : Iss := issAt loadLab { ss := [5, 6] } 12

theorem test_witness_TileOperations_load : ∃ (x : MldbI) (s : State) (c : Iss) (r : Reservation) (a b : Region) (t : State),
    Issues s { ss := [x.a, x.b] } (Instr.mldb x).bytes c ∧
    pressOpen c r (x.mould.val + 1) 0 ∧ pressRegion c x.a 0 (8192 * pressWidth x.w (fmtWB c.sp.fmt)) false = .ok a ∧
    pressRegion c x.b 0 256 false = .ok b ∧
    enqueue c c.s (.mldb x.mould.val (pressWidth x.w (fmtWB c.sp.fmt)) a.base b.base) [a, b] [] = .ok t :=
  ⟨loadOne, loadLab, loadIss, units, regionOf loadIss 5 0 16384 false, regionOf loadIss 6 0 256 false, _, issues_of (by decide +kernel),
    ⟨by decide +kernel, by decide +kernel, rfl, by decide, by decide⟩, region_of _ _ _ _ _ (by decide +kernel), region_of _ _ _ _ _ (by decide +kernel),
    ok_of lab (by decide +kernel)⟩

def mulOne : MMulI := { w := .bfp 0, d := 7, a := 5, first := 31, nm1 := 0, nr1 := 0 }
def mulLab : State := pressLab (region 0x12000 0x80) 0 0
def mulIss : Iss := issAt mulLab { ss := [5] } 12

theorem test_witness_TileOperations_multiply : ∃ (x : MMulI) (s : State) (c : Iss) (r : Reservation) (a : Region) (t : State),
    Issues s { ss := [x.a] } (Instr.mmul x).bytes c ∧
    let nm := x.nm1.val + 1
    let nr := x.nr1.val + 1
    let w := pressWidth x.w (fmtWA c.sp.fmt)
    pressOpen c r (x.first.val + nm) (x.d.val + 1) ∧ pressRegion c x.a 0 (nm * nr * (32 * w + 8)) false = .ok a ∧
    enqueue c c.s (.mmul x.d.val x.first.val nm nr w a.base c.grp.dead) [a] [] = .ok t :=
  ⟨mulOne, mulLab, mulIss, units, regionOf mulIss 5 0 72 false, _, issues_of (by decide +kernel),
    ⟨by decide +kernel, by decide +kernel, rfl, by decide, by decide⟩, region_of _ _ _ _ _ (by decide +kernel), ok_of lab (by decide +kernel)⟩

def movOne (inward : Bool) : MaMovI := { inward := inward, d := 7, a := 5, nr1 := 0 }
def movLab : State := pressLab (region 0x12000 0x400 + 0x800000000000) 0 0
def movIss : Iss := issAt movLab { ss := [5] } 12
def movRegion (inward : Bool) : Region := regionOf movIss 5 2 1024 (!inward)

theorem test_witness_TileOperations_move : ∀ inward, ∃ (x : MaMovI) (s : State) (c : Iss) (r : Reservation) (a : Region) (t : State),
    x.inward = inward ∧ Issues s { ss := [x.a] } (Instr.mamov x).bytes c ∧
    let nr := x.nr1.val + 1
    pressOpen c r 0 (x.d.val + 1) ∧ pressRegion c x.a 2 (1024 * nr) (!x.inward) = .ok a ∧
    (if x.inward then enqueue c c.s (.mamovIn x.d.val nr a.base) [a] []
     else enqueue c c.s (.mamovOut x.d.val nr a.base) [] [(a.base, 1024 * nr)]) = .ok t := by
  intro inward
  refine ⟨movOne inward, movLab, movIss, units, movRegion inward, if inward then queued movIss (.mamovIn 7 1 (movRegion true).base) [movRegion true] [] movIss.s
    else queued movIss (.mamovOut 7 1 (movRegion false).base) [] [((movRegion false).base, 1024)] movIss.s, rfl, ?_,
    ⟨by decide +kernel, by decide +kernel, rfl, by decide, by cases inward <;> decide⟩, ?_⟩ <;> cases inward
  · exact issues_of (by decide +kernel)
  · exact issues_of (by decide +kernel)
  · exact ⟨region_of _ _ _ _ _ (by decide +kernel), ok_of lab (by decide +kernel)⟩
  · exact ⟨region_of _ _ _ _ _ (by decide +kernel), ok_of lab (by decide +kernel)⟩

theorem test_witness_TileOperations_zero : ∃ (x : MZeroI) (s : State) (c : Iss) (r : Reservation) (t : State), Issues s {} (Instr.mzero x).bytes c ∧
    pressOpen c r 0 (x.d.val + 1) ∧ enqueue c c.s (.mzero x.d.val) [] [] = .ok t :=
  ⟨{ d := 7 }, pressLab 0 0 0, issAt (pressLab 0 0 0) {} 12, units, _, issues_of (by decide +kernel),
    ⟨by decide +kernel, by decide +kernel, rfl, by decide, by decide⟩, ok_of lab (by decide +kernel)⟩

def storesDone : State := val (releaseFirst movIss movIss.s .rel) lab
def stashRead : State := val (readStash movIss storesDone ([movRegion true].flatMap (fun r => rangeLines r.base r.extent)).eraseDups) lab

theorem test_witness_QueueAndBatches_enters : ∃ (c : Iss) (s s1 s2 : State) (srcs : List Region), c.grp.tiles.length < 16 ∧
    releaseFirst c s .rel = .ok s1 ∧ readStash c s1 ((srcs.flatMap (fun r => rangeLines r.base r.extent)).eraseDups) = .ok s2 ∧ srcs ≠ [] :=
  ⟨movIss, movIss.s, storesDone, stashRead, [movRegion true], by decide +kernel, ok_of lab (by decide +kernel), ok_of lab (by decide +kernel), by decide⟩

def fullQueue : TileOp := { kind := .mzero 0, started := false, fenced := false, order := 0, pins := [], owned := [] }

theorem test_witness_QueueAndBatches_full : ∃ (c : Iss), c.grp.tiles.length = 16 :=
  ⟨{ movIss with grp := { movIss.grp with tiles := List.replicate 16 fullQueue } }, by decide⟩

def fenceLab (n : Nat) : State := labGroup (fun g => { g with tiles := [fullQueue], batches := List.replicate n { num := 0, left := 1 } })

theorem test_witness_QueueAndBatches_fence : ∃ (i : Instr) (s : State) (c : Iss), (i = .mfenceBase ∨ i = .mfenceExt) ∧ Issues s {} i.bytes c ∧
    c.grp.batches.length = 15 ∧ c.grp.tiles ≠ [] :=
  ⟨.mfenceBase, fenceLab 15, issAt (fenceLab 15) {} 4, Or.inl rfl, issues_of (by decide +kernel), by decide +kernel, by decide +kernel⟩

theorem test_witness_QueueAndBatches_wait : ∃ (x : MWaitI) (s : State) (c : Iss), Issues s {} (Instr.mwait x).bytes c ∧ c.grp.batches ≠ [] ∧
    ∀ b, b ∈ c.grp.batches → b.num ≠ x.n.val :=
  ⟨{ n := 15 }, fenceLab 1, issAt (fenceLab 1) {} 12, issues_of (by decide +kernel), by decide +kernel, by decide +kernel⟩

theorem test_witness_QueueAndBatches_closes : ∃ (g : Group) (b : Batch), g.batches.length = 17 ∧ (g.closeBatches 17).batches.head? = some b :=
  ⟨{ Group.fresh 0 0 0 with batches := { num := 0, left := 0 } :: List.replicate 16 { num := 1, left := 1 } }, { num := 1, left := 1 }, by decide,
    by decide +kernel⟩

/-! ## Sparse members (12) -/

def pruneOne : PruneI := { w := .bfp 0, d := 1, a := 5, b := 6, c := 7, nm1 := 3, mc := 0, tp := true, idx4 := false, cm1 := 3, km := 0 }
def pruneLab : State := pressLab (region 0x12000 0x80) (region 0x14000 0x4000) (region 0x13000 0x80)
def pruneIss : Iss := issAt pruneLab { ss := [5, 6, 7], ups := [1], feature := some 0 } 12
def pruneSrc : Region := regionOf pruneIss 5 0 36 false
def pruneDst : Region := regionOf pruneIss 6 0 16384 true
def pruneMeta : Region := regionOf pruneIss 7 0 (PruneI.hdr pruneOne 2).size true

theorem test_witness_SparseMembers_prune : ∃ (x : PruneI) (s : State) (c : Iss) (r : Reservation) (a b m : Region) (t : State),
    Issues s { ss := [x.a, x.b, x.c], ups := [x.d], feature := some 0 } (Instr.prune x).bytes c ∧ pressOpen c r 0 0 ∧
    let w := pressWidth x.w (fmtWB c.sp.fmt)
    let h := PruneI.hdr x w
    let packed := h.slices * 8192 * w
    pressRegion c x.a 0 (h.cols * h.k * w / 8 + h.cols) false = .ok a ∧ pressRegion c x.b 0 packed true = .ok b ∧
    pressRegion c x.c 0 h.size true = .ok m ∧ h.prows ≤ 8192 ∧ x.tp = true ∧ h.cols = h.m ∧
    enqueue c c.s (.prune x.d.val w h.n h.m h.k h.cols x.tp x.idx4 a.base b.base m.base c.sp.lanes) [a]
      [(b.base, packed), (m.base, h.size)] = .ok t :=
  ⟨pruneOne, pruneLab, pruneIss, units, pruneSrc, pruneDst, pruneMeta, _, issues_of (by decide +kernel),
    ⟨by decide +kernel, by decide +kernel, rfl, by decide, by decide⟩, region_of _ _ _ _ _ (by decide +kernel), region_of _ _ _ _ _ (by decide +kernel),
    region_of _ _ _ _ _ (by decide +kernel), by decide, rfl, by decide, ok_of lab (by decide +kernel)⟩

/-- The smallest tile: N = 1, M = 4, K = 32, one column, every index 0. -/
def tinyHdr : SparseHdr := { n := 1, m := 4, k := 32, cols := 1, wb := 2, flags := 0, prows := 8, crc := (crc32c [0, 0]).toNat }
def sparseLab : State :=
  ((pressLab (region 0x14000 0x4000) (region 0x13000 0x80) (region 0x12000 0x12)).vatWriteBytes 0 0x12000 tinyHdr.bytes).modPress 0
    (fun p => { p with reservations := [{ units with moulds := List.replicate 32 { Mould.fresh with tag := .sparse 0 tinyHdr } }] })
def tagged : Reservation := { units with moulds := List.replicate 32 { Mould.fresh with tag := .sparse 0 tinyHdr } }
def mldbsIss : Iss := issAt sparseLab { ss := [5, 6, 7], feature := some 0 } 12
def checked (c : Iss) (r : SReg) : State × SparseHdr := val (validated c c.s (regionOf c r 0 16 false)) (lab, tinyHdr)

theorem test_witness_SparseMembers_load : ∃ (x : MldbsI) (s : State) (c : Iss) (r : Reservation) (a b m : Region) (h : SparseHdr) (s1 t : State),
    Issues s { ss := [x.a, x.b, x.c], feature := some 0 } (Instr.mldbs x).bytes c ∧
    let w := pressWidth x.w (fmtWB c.sp.fmt)
    pressOpen c r (x.first.val + h.slices) 0 ∧ pressRegion c x.a 0 0 false = .ok a ∧ pressRegion c x.b 0 0 false = .ok b ∧
    pressRegion c x.c 0 16 false = .ok m ∧ validated c c.s m = .ok (s1, h) ∧ h.slices * 8192 * w ≤ a.extent ∧ h.cols ≤ b.extent ∧ h.wb = w ∧
    enqueue c s1 (.mldbs x.first.val w a.base b.base h) [a, b, m] [] = .ok t :=
  ⟨{ w := .bfp 0, first := 31, a := 5, b := 6, c := 7 }, sparseLab, mldbsIss, tagged, regionOf mldbsIss 5 0 0 false, regionOf mldbsIss 6 0 0 false,
    regionOf mldbsIss 7 0 16 false, (checked mldbsIss 7).2, (checked mldbsIss 7).1, _, issues_of (by decide +kernel),
    ⟨by decide +kernel, by decide +kernel, rfl, by decide +kernel, by decide +kernel⟩, region_of _ _ _ _ _ (by decide +kernel),
    region_of _ _ _ _ _ (by decide +kernel), region_of _ _ _ _ _ (by decide +kernel), ok_of (lab, tinyHdr) (by decide +kernel), by decide +kernel,
    by decide +kernel, by decide +kernel, ok_of lab (by decide +kernel)⟩

def mmulsLab : State := withS sparseLab 5 (region 0x14000 0x120)
def mmulsIss : Iss := issAt mmulsLab { ss := [5, 7], feature := some 0 } 12

theorem test_witness_SparseMembers_multiply : ∃ (x : MmulsI) (s : State) (c : Iss) (r : Reservation) (a m : Region) (h : SparseHdr) (s1 t : State),
    Issues s { ss := [x.a, x.c], feature := some 0 } (Instr.mmuls x).bytes c ∧
    let w := pressWidth x.w (fmtWA c.sp.fmt)
    let nr := x.nr1.val + 1
    pressOpen c r (x.first.val + h.slices) (x.d.val + 1) ∧ pressRegion c x.a 0 0 false = .ok a ∧ pressRegion c x.c 0 16 false = .ok m ∧
    validated c c.s m = .ok (s1, h) ∧ nr * h.k * (4 * w + 1) / 32 = a.extent ∧
    (∀ i, i < h.slices → ∃ y, r.moulds[x.first.val + i]? = some y ∧ y.tag.agrees i h = true) ∧
    enqueue c s1 (.mmuls x.d.val x.first.val nr w a.base m.base h c.grp.dead) [a, m] [] = .ok t := by
  refine ⟨{ w := .bfp 0, d := 7, a := 5, first := 31, c := 7, nr1 := 31 }, mmulsLab, mmulsIss, tagged, regionOf mmulsIss 5 0 0 false,
    regionOf mmulsIss 7 0 16 false, (checked mmulsIss 7).2, (checked mmulsIss 7).1, _, issues_of (by decide +kernel),
    ⟨by decide +kernel, by decide +kernel, rfl, by decide +kernel, by decide +kernel⟩, region_of _ _ _ _ _ (by decide +kernel),
    region_of _ _ _ _ _ (by decide +kernel), ok_of (lab, tinyHdr) (by decide +kernel), by decide +kernel, ?_, ok_of lab (by decide +kernel)⟩
  intro i hi
  have h1 : (checked mmulsIss 7).2.slices = 1 := by decide +kernel
  have h2 : i = 0 := by omega
  subst h2
  exact ⟨{ Mould.fresh with tag := .sparse 0 tinyHdr }, by decide +kernel, by decide +kernel⟩

def mhdrIss : Iss := issAt sparseLab { ss := [8, 7], feature := some 0 } 12
def mhdrVal (c : Iss) (m : Region) : State × Except (Nat × Nat) SparseHdr := val (validate c c.s m) (lab, .ok tinyHdr)

theorem test_witness_SparseMembers_header : ∃ (x : MHdrI) (s : State) (c : Iss) (m : Region) (h : SparseHdr) (t : State),
    Issues s { ss := [x.d, x.a], feature := some 0 } (Instr.mhdr x).bytes c ∧ pressRegion c x.a 0 16 false = .ok m ∧
    validate c c.s m = .ok (t, .ok h) ∧ c.dueFlip t = none := by
  refine ⟨{ d := 8, a := 7, try_ := false }, sparseLab, mhdrIss, regionOf mhdrIss 7 0 16 false, tinyHdr, (mhdrVal mhdrIss (regionOf mhdrIss 7 0 16 false)).1,
    issues_of (by decide +kernel), region_of _ _ _ _ _ (by decide +kernel), ?_, by decide +kernel⟩
  have h2 : (mhdrVal mhdrIss (regionOf mhdrIss 7 0 16 false)).2 = .ok tinyHdr := by decide +kernel
  rw [← h2]
  exact ok_of (lab, .ok tinyHdr) (by decide +kernel)

end Sys2Proof.Tests.WitnessD
end

