-- ==== Sys2Proof/Tests/WitnessE.lean ====
section
/-! SUPPORT. States and operands that meet the hypotheses of the statements about tasks, traps, recovery, and the machine as a whole. -/

namespace Sys2Proof.Tests.WitnessE

open Sys2Proof.Machine Sys2Proof.Claims Sys2Proof.Tests

set_option maxRecDepth 100000
set_option Elab.async false

/-! ## Tasks (14): an object in the last 64 bytes of the page -/

def header (kind cap head tail : Nat) : Hdr :=
  { base := 0x10000, cap := cap, kind := kind, prio := 0, die := 0, valid := true, owner := 1, head := head, tail := tail, badrec := 0, dropped := 0 }
def taskLab (h : Hdr) : State :=
  let s := withS solo 5 0x1FFC0
  { s with mem := s.mem.writeBytes 0xFFC0 h.bytes }
def taskIss (h : Hdr) (n : Need) : Iss := issAt (taskLab h) n 12

/-- The object opened for a member. -/
def opened (c : Iss) (a : SReg) (align : Nat) (ord : MemOrder) : State × Nat := val (openObject c (c.readS a) align ord) (lab, 0)
def queue (c : Iss) (a : SReg) (ord : MemOrder) : State × Hdr :=
  val (openQueue c (opened c a 64 ord).1 (opened c a 64 ord).2) (lab, header 0 1 0 0)
theorem queueOpen_of (c : Iss) (a : SReg) (ord : MemOrder) (h : okB (openObject c (c.readS a) 64 ord) = true)
    (h2 : okB (openQueue c (opened c a 64 ord).1 (opened c a 64 ord).2) = true) :
    queueOpen c a ord (opened c a 64 ord).2 (queue c a ord).2 (queue c a ord).1 := ⟨(opened c a 64 ord).1, ok_of (lab, 0) h, ok_of (lab, header 0 1 0 0) h2⟩

theorem queueOf_of (c : Iss) (h : Hdr) (kind : Nat) (hd : (h.valid && decide (h.owner = c.gang.ctx) && decide (h.kind = kind)) = true) :
    queueOf c h kind := by
  simp only [Bool.and_eq_true, decide_eq_true_eq] at hd
  exact ⟨hd.1.1, hd.1.2, hd.2⟩

def pushOne : PushI := { a := 5, b := .v 2 }
def pushIss (kind : Nat) : Iss := taskIss (header kind 1 0 0) { vs := [vuse pushOne.b true], ss := [pushOne.a] }

theorem test_witness_EffectMembers_push : ∃ (x : PushI) (s : State) (c : Iss) (p : Nat) (h : Hdr) (t u : State) (done : Bool),
    Issues s { vs := [vuse x.b true], ss := [x.a] } (Instr.qpush x).bytes c ∧ c.gang.pair = none ∧ queueOpen c x.a .rel p h t ∧ queueOf c h 0 ∧
    (laneValues c x.b).length = h.cap ∧
    doEffect c t (.qpush p (laneValues c x.b)) (fun s => s.link c.f p (.push (.qpush p (laneValues c x.b)) (laneValues c x.b).length none)) = .ok (u, done) :=
  ⟨pushOne, taskLab (header 0 1 0 0), pushIss 0, _, _, _, _, _, issues_of (by decide +kernel), by decide +kernel,
    queueOpen_of (pushIss 0) 5 .rel (by decide +kernel) (by decide +kernel), queueOf_of _ _ _ (by decide +kernel), by decide +kernel, ok_of (lab, true) (by decide +kernel)⟩

def spawnLab : State :=
  let s := (withS (withS big 5 0x1FFC0) 6 (BitVec.ofNat 64 (0x12000 + 2 ^ 23 * 64))).vatWriteBytes 0 0x12000 (oneGroup 1).toBytes
  { s with mem := s.mem.writeBytes 0xFFC0 (header 1 1 0 0).bytes }
def spawnIss : Iss := issAt spawnLab { ss := [5, 6] } 12
def spawnRec : State := val (readStash spawnIss (queue spawnIss 5 .rel).1 (rangeLines 0x12000 64)) lab

theorem test_witness_EffectMembers_spawn : ∃ (x : AbI) (s : State) (c : Iss) (p : Nat) (h : Hdr) (r : Region) (bs : List Byte) (t t1 u : State) (done : Bool),
    Issues s { ss := [x.a, x.b] } (Instr.tspawn x).bytes c ∧ c.gang.pair = none ∧ queueOpen c x.a .rel p h t ∧ queueOf c h 1 ∧
    recordRegion c x.b = .ok r ∧ readStash c t (rangeLines r.base 64) = .ok t1 ∧
    stampRecord (t1.vatReadBytes c.gang.core r.base 64) c.gang.ctx = some bs ∧ t1.recordGood c.gang.ctx bs = true ∧
    doEffect c t1 (.tspawn p bs) (fun s => s.link c.f p (.push (.tspawn p bs) 1 (some r.base))) = .ok (u, done) :=
  ⟨{ a := 5, b := 6 }, spawnLab, spawnIss, _, _, { base := 0x12000, extent := 64, esz := 0, ro := false }, (oneGroup 1).toBytes, _,
    spawnRec, _, _, issues_of (by decide +kernel), by decide +kernel, queueOpen_of spawnIss 5 .rel (by decide +kernel) (by decide +kernel),
    queueOf_of _ _ _ (by decide +kernel), by decide +kernel, ok_of lab (by decide +kernel), by decide +kernel, by decide +kernel, ok_of (lab, true) (by decide +kernel)⟩

/-- The members of an object that is no queue. -/
def cellLab (full : Bool) : State :=
  let s := withS (withS solo 5 0x1FFE0) 6 7
  { s with mem := s.mem.writeBytes 0xFFE0 (leBytes 8 1 ++ leBytes 4 (if full then 1 else 0)) }
def cellIss (full : Bool) (n : Need) : Iss := issAt (cellLab full) n 12
def cellAt (c : Iss) (align : Nat) : Xlat := val (objectAt c (c.readS 5) align) { pa := 0, shift := 0, region := 0, dur := false }
def cellReached (c : Iss) (align : Nat) (ord : MemOrder) : State := val (reachObject (opened c 5 align ord).1 (opened c 5 align ord).2) lab

theorem test_witness_EffectMembers_done : ∃ (x : SrcA) (s : State) (c : Iss) (y : Xlat) (p : Nat) (t t1 u : State) (done : Bool),
    Issues s { ss := [x.a] } (Instr.tdone x).bytes c ∧ c.gang.pair = none ∧ objectAt c (c.readS x.a) 32 = .ok y ∧
    openObject c (c.readS x.a) 32 .rel = .ok (t, p) ∧ reachObject t p = .ok t1 ∧ doEffect c t1 (.tdone p y.dur) (fun s => s) = .ok (u, done) :=
  ⟨{ a := 5 }, cellLab false, cellIss false { ss := [5] }, cellAt (cellIss false { ss := [5] }) 32, (opened (cellIss false { ss := [5] }) 5 32 .rel).2,
    (opened (cellIss false { ss := [5] }) 5 32 .rel).1, cellReached (cellIss false { ss := [5] }) 32 .rel, _, _, issues_of (by decide +kernel),
    by decide +kernel, ok_of { pa := 0, shift := 0, region := 0, dur := false } (by decide +kernel), ok_of (lab, 0) (by decide +kernel),
    ok_of lab (by decide +kernel), ok_of (lab, true) (by decide +kernel)⟩

theorem test_witness_EffectMembers_list : ∃ (x : PushI) (s : State) (c : Iss) (p : Nat) (h : Hdr) (t u : State) (done : Bool),
    Issues s { vs := [vuse x.b true], ss := [x.a] } (Instr.wlpush x).bytes c ∧ c.gang.pair = none ∧ queueOpen c x.a .rel p h t ∧ queueOf c h 2 ∧
    h.occ + (laneValues c x.b).length = h.cap ∧ doEffect c t (.wlpush p (laneValues c x.b)) (fun s => s) = .ok (u, done) :=
  ⟨pushOne, taskLab (header 2 1 0 0), pushIss 2, _, _, _, _, _, issues_of (by decide +kernel), by decide +kernel,
    queueOpen_of (pushIss 2) 5 .rel (by decide +kernel) (by decide +kernel), queueOf_of _ _ _ (by decide +kernel), by decide +kernel, ok_of (lab, true) (by decide +kernel)⟩

theorem test_witness_EffectMembers_insert : ∃ (x : PushI) (s : State) (c : Iss) (p : Nat) (h : Hdr) (t u : State) (done : Bool),
    Issues s { vs := [vuse x.b true], ss := [x.a] } (Instr.wlins x).bytes c ∧ c.gang.pair = none ∧ queueOpen c x.a .rel p h t ∧ queueOf c h 2 ∧
    h.occ + (newValues (t.onChip p) (laneValues c x.b)).length = h.cap ∧ doEffect c t (.wlins p (laneValues c x.b)) (fun s => s) = .ok (u, done) :=
  ⟨pushOne, taskLab (header 2 1 0 0), pushIss 2, _, _, _, _, _, issues_of (by decide +kernel), by decide +kernel,
    queueOpen_of (pushIss 2) 5 .rel (by decide +kernel) (by decide +kernel), queueOf_of _ _ _ (by decide +kernel), by decide +kernel, ok_of (lab, true) (by decide +kernel)⟩

theorem test_witness_EffectMembers_future : ∃ (x : FutSetI) (s : State) (c : Iss) (y : Xlat) (p : Nat) (t t1 u : State) (done : Bool),
    Issues s { ss := x.a :: x.b.toList } (Instr.futset x).bytes c ∧ c.gang.pair = none ∧ objectAt c (c.readS x.a) 16 = .ok y ∧
    openObject c (c.readS x.a) 16 .rel = .ok (t, p) ∧ reachObject t p = .ok t1 ∧ x.b.isSome = true ∧ t1.futureFull p = false ∧
    doEffect c t1 (.futset p (x.b.map c.readS) y.dur) (fun s => s) = .ok (u, done) :=
  ⟨{ a := 5, b := some 6 }, cellLab false, cellIss false { ss := [5, 6] }, cellAt (cellIss false { ss := [5, 6] }) 16,
    (opened (cellIss false { ss := [5, 6] }) 5 16 .rel).2, (opened (cellIss false { ss := [5, 6] }) 5 16 .rel).1,
    cellReached (cellIss false { ss := [5, 6] }) 16 .rel, _, _, issues_of (by decide +kernel), by decide +kernel,
    ok_of { pa := 0, shift := 0, region := 0, dur := false } (by decide +kernel), ok_of (lab, 0) (by decide +kernel),
    ok_of lab (by decide +kernel), rfl, by decide +kernel, ok_of (lab, true) (by decide +kernel)⟩

/-- A replayable gang with 255 effects held. -/
def heldLab : State := labWith (fun g => { g with task := { g.task with replay := true }, effects := List.replicate 255 (.tdone 0 false) })

theorem test_witness_EffectMembers_held : ∃ (c : Iss) (s : State) (g : Gang), s.gang? c.f.gang = some g ∧ g.task.replay = true ∧ g.nr = false ∧
    g.effects.length = 255 :=
  ⟨issAt heldLab {} 12, heldLab, (heldLab.gang? 1).getD (issAt heldLab {} 12).gang, some_of _ (by decide +kernel), by decide +kernel,
    by decide +kernel, by decide +kernel⟩

theorem test_witness_EffectMembers_performed : ∃ (c : Iss) (s t : State) (e : Effect) (g : Gang), s.gang? c.f.gang = some g ∧ g.task.replay = false ∧
    s.performEffect c.f.gang e = some t :=
  ⟨pushIss 0, (queue (pushIss 0) 5 .rel).1, _, .qpush (opened (pushIss 0) 5 64 .rel).2 (laneValues (pushIss 0) (.v 2)),
    ((queue (pushIss 0) 5 .rel).1.gang? 1).getD (pushIss 0).gang, some_of _ (by decide +kernel), by decide +kernel, some_of lab (by decide +kernel)⟩

def fullIss : Iss := taskIss (header 0 1 0 1) { vs := [vuse pushOne.b true], ss := [pushOne.a] }

theorem test_witness_EffectMembers_waits : ∃ (c : Iss) (s : State) (e : Effect) (g : Gang), s.gang? c.f.gang = some g ∧ g.task.replay = false ∧
    s.performEffect c.f.gang e = none :=
  ⟨fullIss, (queue fullIss 5 .rel).1, .qpush (opened fullIss 5 64 .rel).2 (laneValues fullIss (.v 2)),
    ((queue fullIss 5 .rel).1.gang? 1).getD fullIss.gang, some_of _ (by decide +kernel), by decide +kernel, by decide +kernel⟩

def popOne : PopI := { d := .v 2, c := 1, a := 5 }
def popNeed : Need := { vs := [vdest popOne.d true], ss := [popOne.a], ps := [popOne.c] }
def popIss (kind tail : Nat) : Iss := taskIss (header kind 1 0 tail) popNeed
def popT (kind tail : Nat) : State := (queue (popIss kind tail) 5 .plain).1
def popU (kind tail : Nat) : State := val (becomeNR (popIss kind tail) (popT kind tail) true) lab

theorem test_witness_RemovalAndReads_pop : ∀ kind, kind = 0 ∨ kind = 2 → ∃ (i : Instr) (x : PopI) (s : State) (c : Iss) (p : Nat) (h : Hdr) (t u : State),
    (i = .qpop x ∧ kind = 0 ∨ i = .wlpop x ∧ kind = 2) ∧
    Issues s { vs := [vdest x.d true], ss := [x.a], ps := [x.c] } i.bytes c ∧ c.gang.pair = none ∧ queueOpen c x.a .plain p h t ∧ queueOf c h kind ∧
    (t.hdr p).occ ≠ 0 ∧ becomeNR c t true = .ok u ∧ (u.hdr p).occ ≠ 0 := by
  intro kind h
  rcases h with rfl | rfl
  · exact ⟨.qpop popOne, popOne, taskLab (header 0 1 0 1), popIss 0 1, (opened (popIss 0 1) 5 64 .plain).2, (queue (popIss 0 1) 5 .plain).2, popT 0 1,
      popU 0 1, Or.inl ⟨rfl, rfl⟩, issues_of (by decide +kernel), by decide +kernel,
      queueOpen_of (popIss 0 1) 5 .plain (by decide +kernel) (by decide +kernel), queueOf_of _ _ _ (by decide +kernel), by decide +kernel, ok_of lab (by decide +kernel),
      by decide +kernel⟩
  · exact ⟨.wlpop popOne, popOne, taskLab (header 2 1 0 1), popIss 2 1, (opened (popIss 2 1) 5 64 .plain).2, (queue (popIss 2 1) 5 .plain).2, popT 2 1,
      popU 2 1, Or.inr ⟨rfl, rfl⟩, issues_of (by decide +kernel), by decide +kernel,
      queueOpen_of (popIss 2 1) 5 .plain (by decide +kernel) (by decide +kernel), queueOf_of _ _ _ (by decide +kernel), by decide +kernel, ok_of lab (by decide +kernel),
      by decide +kernel⟩

/-- QPOP waits at the empty queue, QTRY goes on. -/
theorem test_witness_RemovalAndReads_empty : ∃ (x : PopI) (s : State) (c : Iss) (p : Nat) (h : Hdr) (t u : State),
    Issues s { vs := [vdest x.d true], ss := [x.a], ps := [x.c] } (Instr.qpop x).bytes c ∧ (Instr.qtry x).bytes = (Instr.qpop x).bytes ∧
    c.gang.pair = none ∧ queueOpen c x.a .plain p h t ∧ queueOf c h 0 ∧ (t.hdr p).occ = 0 ∧ becomeNR c t true = .ok u ∧ (u.hdr p).occ = 0 :=
  ⟨popOne, taskLab (header 0 1 0 0), popIss 0 0, (opened (popIss 0 0) 5 64 .plain).2, (queue (popIss 0 0) 5 .plain).2, popT 0 0, popU 0 0,
    issues_of (by decide +kernel), by decide, by decide +kernel, queueOpen_of (popIss 0 0) 5 .plain (by decide +kernel) (by decide +kernel),
    queueOf_of _ _ _ (by decide +kernel), by decide +kernel, ok_of lab (by decide +kernel), by decide +kernel⟩

def getIss (full : Bool) : Iss := cellIss full { ss := [7, 5] }
def getU : State := val (becomeNR (getIss false) (cellReached (getIss false) 16 .plain) true) lab

theorem test_witness_RemovalAndReads_full : ∃ (x : DaI) (s : State) (c : Iss) (p : Nat) (t t1 : State), Issues s { ss := [x.d, x.a] } (Instr.futget x).bytes c ∧
    c.gang.pair = none ∧ openObject c (c.readS x.a) 16 .plain = .ok (t, p) ∧ reachObject t p = .ok t1 ∧ t1.futureFull p = true ∧ c.dueFlip t1 = none :=
  ⟨{ d := 7, a := 5 }, cellLab true, getIss true, (opened (getIss true) 5 16 .plain).2, (opened (getIss true) 5 16 .plain).1,
    cellReached (getIss true) 16 .plain, issues_of (by decide +kernel), by decide +kernel, ok_of (lab, 0) (by decide +kernel),
    ok_of lab (by decide +kernel), by decide +kernel, by decide +kernel⟩

theorem test_witness_RemovalAndReads_waits : ∃ (x : DaI) (s : State) (c : Iss) (p : Nat) (t t1 u : State), Issues s { ss := [x.d, x.a] } (Instr.futget x).bytes c ∧
    c.gang.pair = none ∧ openObject c (c.readS x.a) 16 .plain = .ok (t, p) ∧ reachObject t p = .ok t1 ∧ t1.futureFull p = false ∧
    becomeNR c t1 true = .ok u ∧ u.futureFull p = false :=
  ⟨{ d := 7, a := 5 }, cellLab false, getIss false, (opened (getIss false) 5 16 .plain).2, (opened (getIss false) 5 16 .plain).1,
    cellReached (getIss false) 16 .plain, getU, issues_of (by decide +kernel), by decide +kernel, ok_of (lab, 0) (by decide +kernel),
    ok_of lab (by decide +kernel), by decide +kernel, ok_of lab (by decide +kernel), by decide +kernel⟩

def lenIss : Iss := taskIss (header 0 1 0 1) { ss := [7, 5] }

/-- QLEN and QSTAT of a queue read alike. -/
theorem test_witness_RemovalAndReads_length : ∃ (x : DaI) (s : State) (c : Iss) (p : Nat) (h : Hdr) (t : State), Issues s { ss := [x.d, x.a] } (Instr.qlen x).bytes c ∧
    (Instr.qstat { d := x.d, a := some x.a }).bytes = (Instr.qlen x).bytes ∧ c.gang.pair = none ∧ queueOpen c x.a .plain p h t ∧ h.valid = true ∧
    h.kind ≠ 3 ∧ h.owner = c.gang.ctx ∧ c.dueFlip t = none :=
  ⟨{ d := 7, a := 5 }, taskLab (header 0 1 0 1), lenIss, (opened lenIss 5 64 .plain).2, (queue lenIss 5 .plain).2, (queue lenIss 5 .plain).1,
    issues_of (by decide +kernel), by decide, by decide +kernel, queueOpen_of lenIss 5 .plain (by decide +kernel) (by decide +kernel),
    by decide +kernel, by decide +kernel, by decide +kernel, by decide +kernel⟩

theorem test_witness_RemovalAndReads_buffer : ∃ (x : QStatI) (s : State) (c : Iss), x.a = none ∧ Issues s { ss := [x.d] } (Instr.qstat x).bytes c ∧
    c.gang.pair = none ∧ c.dueFlip c.s = none :=
  ⟨{ d := 7, a := none }, lab, issAt lab { ss := [7] } 12, rfl, issues_of (by decide +kernel), by decide +kernel, by decide +kernel⟩

end Sys2Proof.Tests.WitnessE
end

