-- ==== Sys2Proof/Tests/WitnessF.lean ====
section
/-! SUPPORT. States and operands that meet the hypotheses of the statements about traps, recovery, and the machine as a whole. -/

namespace Sys2Proof.Tests.WitnessF

open Sys2Proof.Machine Sys2Proof.Claims Sys2Proof.Tests

set_option maxRecDepth 100000
set_option Elab.async false

/-! ## Traps (16) -/

def trapOf : TrapInfo := { cause := 0x12, sub := 0, kind := 0, lanes := 1, addr := 0, info := 0xFFFF }
def haltOf (p : HaltPhase) : Halt :=
  { trap := trapOf, group := 0, split := 0, pc := 0x10000, npc := 0x1000C, execm := 1, phase := p, skid := [(0, 0)], ended := [], double := none, dpc := 0, dnpc := 0, dexec := 0 }
/-- The gang halted, its handler at work on the page. -/
def haltLab : State :=
  { solo.modGang 1 (fun g => { g with halt := some (haltOf .handling), handler := some (Split.start 0x10000 1 0) }) with
    cur := { gang := 1, group := 0, split := 4 } }
def gangOf (s : State) : Gang := (s.gang? 1).getD (issAt lab {} 12).gang
def splitOf (s : State) (f : Focus) : Split := (s.split? f).getD (Split.start 0 0 0)
def handlerAt : Focus := { gang := 1, group := 0, split := 4 }

theorem test_witness_TrapsAndHandler_first : ∃ (s : State) (f : Focus) (g : Gang) (sp : Split), s.gang? f.gang = some g ∧ s.split? f = some sp ∧
    g.halt = none ∧ g.run = .running ∧ f.split = 0 :=
  ⟨solo, here, gangOf solo, splitOf solo here, some_of _ (by decide +kernel), some_of _ (by decide +kernel), by decide +kernel, by decide +kernel,
    by decide⟩

theorem test_witness_TrapsAndHandler_later : ∃ (s : State) (f : Focus) (g : Gang) (sp : Split) (h : Halt), s.gang? f.gang = some g ∧ s.split? f = some sp ∧
    g.halt = some h ∧ f.split < 4 :=
  ⟨haltLab, here, gangOf haltLab, splitOf haltLab here, haltOf .handling, some_of _ (by decide +kernel), some_of _ (by decide +kernel),
    by decide +kernel, by decide⟩

theorem test_witness_TrapsAndHandler_double : ∃ (s : State) (f : Focus) (g : Gang) (sp : Split) (h : Halt), s.gang? f.gang = some g ∧ s.split? f = some sp ∧
    g.halt = some h ∧ f.split = 4 :=
  ⟨haltLab, handlerAt, gangOf haltLab, splitOf haltLab handlerAt, haltOf .handling, some_of _ (by decide +kernel), some_of _ (by decide +kernel),
    by decide +kernel, by decide⟩

theorem test_witness_TrapsAndHandler_delivery : ∃ (s : State) (id : Nat) (g : Gang) (h : Halt) (x : Group), s.gang? id = some g ∧ g.halt = some h ∧
    g.group? h.group = some x :=
  ⟨haltLab, 1, gangOf haltLab, haltOf .handling, ((gangOf haltLab).group? 0).getD (issAt lab {} 12).grp, some_of _ (by decide +kernel),
    by decide +kernel, some_of _ (by decide +kernel)⟩

def eretIss : Iss := issAt haltLab { priv := true } Instr.eret.bytes
def frameBytesAt (c : Iss) : List Nat := (List.range 2304).map (fun i => c.gang.framePhys + i)

theorem test_witness_SystemMembers_return : ∃ (s : State) (c : Iss) (t : State), Issues s { priv := true } Instr.eret.bytes c ∧ c.gang.pair = none ∧
    c.s.performFor c.f.gang c.f.group (frameBytesAt c) = some t ∧ ∀ l, l ∈ rangeLines c.gang.framePhys 2304 → t.physBusy l false = false :=
  ⟨haltLab, eretIss, eretIss.s, issues_of (by decide +kernel), by decide +kernel, by decide +kernel, by decide +kernel⟩

def callIss : Iss := issAt solo { vs := callUses } 12

theorem test_witness_SystemMembers_call : ∃ (x : SyscallI) (s : State) (c : Iss) (t : State), Issues s { vs := callUses } (Instr.syscall x).bytes c ∧
    c.gang.pair = none ∧ c.s.performAll c.f.gang c.f.group = some t :=
  ⟨{ n := 255 }, solo, callIss, _, issues_of (by decide +kernel), by decide +kernel, some_of lab (by decide +kernel)⟩

def csrLab : State := withS solo 5 0x1FFFC
def csrIss : Iss := issAt csrLab { ss := [5] } 12

theorem test_witness_SystemMembers_write : ∃ (x : CsrWI) (s : State) (c : Iss) (r : Csrs), Issues s { ss := [x.b] } (Instr.csrw x).bytes c ∧
    csrWrite c x.csr.toNat (c.readS x.b) = some r :=
  ⟨{ csr := 0, b := 5 }, csrLab, csrIss, _, issues_of (by decide +kernel), some_of (Csrs.reset 0) (by decide +kernel)⟩

theorem test_witness_SystemMembers_code : ∃ (i : Instr) (x : CodeI) (s : State) (c : Iss), i = .trap x ∧ x.n = 0xFFFF ∧ Issues s {} i.bytes c :=
  ⟨.trap { n := 0xFFFF }, { n := 0xFFFF }, solo, issAt solo {} 12, rfl, rfl, issues_of (by decide +kernel)⟩

def frameOf_ (action : Nat) : List Byte := zeroBytes 3 ++ leBytes 1 action ++ zeroBytes 2300

theorem test_witness_EretResumes : ∃ (c : Iss) (s : State) (g : Gang) (h : Halt) (x : Group) (sp : Split), s.gang? c.f.gang = some g ∧ g.halt = some h ∧
    g.group? h.group = some x ∧ x.split? h.split.val = some sp ∧ fieldAt (frameOf_ 1) 3 1 = 1 ∧ fieldAt (frameOf_ 2) 3 1 = 2 :=
  ⟨eretIss, haltLab, gangOf haltLab, haltOf .handling, ((gangOf haltLab).group? 0).getD (issAt lab {} 12).grp,
    ((((gangOf haltLab).group? 0).getD (issAt lab {} 12).grp).split? 0).getD (Split.start 0 0 0), some_of _ (by decide +kernel), by decide +kernel,
    some_of _ (by decide +kernel), some_of _ (by decide +kernel), by decide +kernel, by decide +kernel⟩

theorem test_witness_EretResumes_fields : ∃ v : BitVec 16, fmtOk v.toNat = true ∧ 1 ≤ v.toNat ∧ ∃ w : BitVec 16, w.toNat = 5 :=
  ⟨0x013B, by decide, by decide, 5, by decide⟩

/-! ## Recovery (17, 18) -/

def featured (s : State) : State := s.modFn 0 (fun f => { f with featacc := BitVec.allOnes 128 })
def modeIss : Iss := issAt (featured solo) { feature := some 2 } 12

theorem test_witness_RecoveryMembers_mode : ∃ (x : ChkModeI) (s : State) (c : Iss) (k : Context),
    Issues s { feature := if x.mode.val = 0 then none else some 2 } (Instr.chkmode x).bytes c ∧ x.mode.val = 2 ∧ c.s.ctx? c.gang.ctx = some k :=
  ⟨{ mode := 2 }, featured solo, modeIss, (modeIss.s.ctx? 1).getD (Context.fresh 1 0 0), issues_of (by decide +kernel), by decide,
    some_of _ (by decide +kernel)⟩

def markIss : Iss := issAt (featured solo) { ss := [5, 6], feature := some 3 } 12

theorem test_witness_RecoveryMembers_mark : ∃ (x : AbI) (s : State) (c : Iss) (slot i : Nat) (sp : Split),
    Issues s { ss := [x.a, x.b], feature := some 3 } (Instr.rpmark x).bytes c ∧ c.f.split ≠ 4 ∧ barrierClash c = false ∧
    c.gang.firstSplit = some (slot, i, sp) ∧ slot = c.f.group ∧ i = c.f.split ∧ c.gang.otherMark (c.readS x.a, c.readS x.b) = none :=
  ⟨{ a := 5, b := 6 }, featured solo, markIss, 0, 0, ((markIss.gang.firstSplit).getD (0, 0, Split.start 0 0 0)).2.2, issues_of (by decide +kernel),
    by decide +kernel, by decide +kernel, (some_of (0, 0, Split.start 0 0 0) (by decide +kernel)).trans (congrArg some (Prod.ext (by decide +kernel)
      (Prod.ext (by decide +kernel) rfl))), by decide +kernel, by decide +kernel, by decide +kernel⟩

theorem test_witness_RecoveryMembers_point : ∃ (x : RpGetI) (s : State) (c : Iss), Issues s { ss := [x.d] } (Instr.rpget x).bytes c ∧ x.sel.val = 4 ∧
    c.dueFlip c.s = none :=
  ⟨{ d := 5, sel := 4 }, solo, issAt solo { ss := [5] } 12, issues_of (by decide +kernel), by decide, by decide +kernel⟩

/-- The handler arms an injection in the last lane of the last register of the window. -/
def injLab : State := (withS (withS (featured haltLab) 5 0x7FFC) 6 0x3E000).modCtx 1 (fun k => { k with finj := true })
def injHandler : State := injLab.modGang 1 (fun g => { g with handler := (g.handler.map (fun sp => { sp with shadows := [] })) })
def injIss : Iss := issAt injHandler { ss := [5, 6, 7], priv := true, feature := some 6 } 12

theorem test_witness_RecoveryMembers_inject : ∃ (x : FinjI) (s : State) (c : Iss) (k : Context),
    Issues s { ss := [x.a, x.b, x.c], priv := true, feature := some 6 } (Instr.finj x).bytes c ∧ c.s.ctx? c.gang.ctx = some k ∧ k.finj = true ∧
    let j := InjWord.ofNat (c.readS x.b).toNat
    injFieldsOk j (c.readS x.a) (c.readS x.b) c.gang.injections.length = true ∧ checkTarget c j (c.readS x.a) = .ok () ∧
    j.bitNo = 31 ∧ namesCopy j.copy (c.s.isTrail c.f.gang) = true ∧ c.gang.pair = none :=
  ⟨{ a := 5, b := 6, c := 7 }, injHandler, injIss, (injIss.s.ctx? 1).getD (Context.fresh 1 0 0), issues_of (by decide +kernel),
    some_of _ (by decide +kernel), by decide +kernel, by decide +kernel, ok_of () (by decide +kernel), by decide +kernel, by decide +kernel,
    by decide +kernel⟩

/-! ## Before an instruction (02) -/

/-- A window of 248 registers. -/
def smallTask : TaskRec := { oneGroup 1 with win := 15 }

theorem test_witness_IssueChecks_bound : ∃ (g : Group) (n : Fin 256), 248 ≤ n.val ∧ g.portBound (n.val - 248) = true :=
  ⟨{ Group.fresh 0 0 0 with ports := Vector.replicate 8 (some { engine := 0, line := 0 }) }, 248, by decide, by decide⟩

theorem test_witness_IssueChecks_window : ∃ (i : Instr) (n : Need) (s : State) (g : Gang) (x : Group) (sp : Split),
    guarded i = some n ∧ s.canIssue s.cur = true ∧ s.gang? s.cur.gang = some g ∧ s.group? s.cur.gang s.cur.group = some x ∧ s.split? s.cur = some sp ∧
    ∃ u, u ∈ n.vs ∧ x.checkV g.task.w u = 0x01 :=
  ⟨.ldExt { g := .none, ty := .n32, ord := .plain, scope := .dflt, d := .v 240, addr := .base 5 0 0, sp := false, nt := false }, _,
    soloOf (labOf smallTask), gangOf (soloOf (labOf smallTask)), ((soloOf (labOf smallTask)).group? 1 0).getD (issAt lab {} 12).grp,
    splitOf (soloOf (labOf smallTask)) here, rfl, by decide +kernel, some_of _ (by decide +kernel), some_of _ (by decide +kernel),
    some_of _ (by decide +kernel), vdest (.v 240) false, by decide +kernel, by decide +kernel⟩

theorem test_witness_IssueChecks_unbound : ∃ (i : Instr) (n : Need) (s : State) (g : Gang) (x : Group) (sp : Split),
    guarded i = some n ∧ s.canIssue s.cur = true ∧ s.gang? s.cur.gang = some g ∧ s.group? s.cur.gang s.cur.group = some x ∧ s.split? s.cur = some sp ∧
    (∃ u, u ∈ n.vs ∧ x.checkV g.task.w u = 0x0F) ∧ ∀ u, u ∈ n.vs → x.checkV g.task.w u ≠ 0x01 :=
  ⟨.ldExt { g := .none, ty := .n32, ord := .plain, scope := .dflt, d := .v 248, addr := .base 5 0 0, sp := false, nt := false }, _,
    soloOf (labOf smallTask), gangOf (soloOf (labOf smallTask)), ((soloOf (labOf smallTask)).group? 1 0).getD (issAt lab {} 12).grp,
    splitOf (soloOf (labOf smallTask)) here, rfl, by decide +kernel, some_of _ (by decide +kernel), some_of _ (by decide +kernel),
    some_of _ (by decide +kernel), ⟨vdest (.v 248) false, by decide +kernel, by decide +kernel⟩, by decide +kernel⟩

theorem test_witness_IssueChecks_privilege : ∃ (i : Instr) (n : Need) (s : State) (g : Gang) (x : Group) (sp : Split),
    special i = some n ∧ s.canIssue s.cur = true ∧ s.gang? s.cur.gang = some g ∧ s.group? s.cur.gang s.cur.group = some x ∧ s.split? s.cur = some sp ∧
    n.vs = [] ∧ n.priv = true ∧ s.cur.split ≠ 4 :=
  ⟨.eret, _, solo, gangOf solo, (solo.group? 1 0).getD (issAt lab {} 12).grp, splitOf solo here, rfl, by decide +kernel, some_of _ (by decide +kernel),
    some_of _ (by decide +kernel), some_of _ (by decide +kernel), rfl, rfl, by decide +kernel⟩

theorem test_witness_IssueChecks_feature : ∃ (i : Instr) (n : Need) (s : State) (g : Gang) (x : Group) (sp : Split),
    special i = some n ∧ s.canIssue s.cur = true ∧ s.gang? s.cur.gang = some g ∧ s.group? s.cur.gang s.cur.group = some x ∧ s.split? s.cur = some sp ∧
    n.vs = [] ∧ ∃ b, n.feature = some b ∧ s.feature g.ctx b = false :=
  ⟨.chkmode { mode := 1 }, _, solo, gangOf solo, (solo.group? 1 0).getD (issAt lab {} 12).grp, splitOf solo here, rfl, by decide +kernel,
    some_of _ (by decide +kernel), some_of _ (by decide +kernel), some_of _ (by decide +kernel), rfl, 2, rfl, by decide +kernel⟩

/-- The guard p1 is false everywhere. -/
theorem test_witness_EmptyMask : ∃ (i : Instr) (n : Need) (s : State) (g : Gang) (x : Group) (sp : Split), guarded i = some n ∧ s.canIssue s.cur = true ∧
    s.gang? s.cur.gang = some g ∧ s.group? s.cur.gang s.cur.group = some x ∧ s.split? s.cur = some sp ∧ checkNeed s s.cur g x n = 0 ∧
    s.slackStall g x = false ∧ sp.lanes &&& x.guardMask n.g = 0 :=
  ⟨.ldExt { g := .pos 0, ty := .n32, ord := .plain, scope := .dflt, d := .v 255, addr := .base 5 0 0, sp := false, nt := false }, _, solo,
    gangOf solo, (solo.group? 1 0).getD (issAt lab {} 12).grp, splitOf solo here, rfl, by decide +kernel, some_of _ (by decide +kernel),
    some_of _ (by decide +kernel), some_of _ (by decide +kernel), by decide +kernel, by decide +kernel⟩

/-- The words at the split's PC: none where the page ends, an all-zero word, LMASK of KIND 7, a GETSR whose own check fails. -/
def codeLab (pc : Word) (bs : List Byte) : State :=
  let s := lab.modGroup 1 0 (fun g => g.setSplit 0 (some (Split.start pc 1 0)))
  { s with mem := s.mem.writeBytes 0 bs }
def fetched (s : State) : Except (Nat × Nat) (List Byte) := s.fetch (s.whoOf (gangOf s) s.cur) (splitOf s s.cur).pc

/-- What the statements about words ask of a state. -/
def standsAt (s : State) (g : Gang) (x : Group) (sp : Split) : Prop :=
  s.canIssue s.cur = true ∧ s.gang? s.cur.gang = some g ∧ s.group? s.cur.gang s.cur.group = some x ∧ s.split? s.cur = some sp
theorem standsAt_code (pc : Word) (bs : List Byte) (h : (codeLab pc bs).canIssue (codeLab pc bs).cur = true)
    (h1 : ((codeLab pc bs).gang? (codeLab pc bs).cur.gang).isSome = true)
    (h2 : ((codeLab pc bs).group? (codeLab pc bs).cur.gang (codeLab pc bs).cur.group).isSome = true)
    (h3 : ((codeLab pc bs).split? (codeLab pc bs).cur).isSome = true) :
    ∃ g x sp, standsAt (codeLab pc bs) g x sp := by
  obtain ⟨g, hg⟩ := Option.isSome_iff_exists.mp h1
  obtain ⟨x, hx⟩ := Option.isSome_iff_exists.mp h2
  obtain ⟨sp, hs⟩ := Option.isSome_iff_exists.mp h3
  exact ⟨g, x, sp, h, hg, hx, hs⟩

theorem test_witness_NotAnInstruction_stands : ∃ (s : State) (g : Gang) (x : Group) (sp : Split), standsAt s g x sp :=
  ⟨codeLab 0x10000 [], standsAt_code _ _ (by decide +kernel) (by decide +kernel) (by decide +kernel) (by decide +kernel)⟩

def errB {α β : Type} (x : Except α β) : Bool :=
  match x with
  | .ok _ => false
  | .error _ => true

theorem test_witness_NotAnInstruction_unmapped : errB ((codeLab 0x20000 []).fetchWord
    ((codeLab 0x20000 []).whoOf (gangOf (codeLab 0x20000 [])) here) 0x20000) = true := by decide +kernel

/-- The first word of an extended instruction at the end of the page. -/
def edgeCode : State := { codeLab 0x1FFFC [] with mem := (codeLab 0x1FFFC []).mem.writeBytes 0xFFFC [2] }
theorem test_witness_NotAnInstruction_second : errB (edgeCode.fetchWord (edgeCode.whoOf (gangOf edgeCode) here) 0x1FFFC) = false ∧
    errB (fetched edgeCode) = true := by decide +kernel

theorem test_witness_NotAnInstruction_words : fetched (codeLab 0x10000 []) = .ok [0, 0, 0, 0] ∧ ∃ e, decode [0, 0, 0, 0] = .error e ∧ e ≠ .ownCheck := by
  refine ⟨by decide +kernel, ?_⟩
  cases h : decode [0, 0, 0, 0] with
  | ok i =>
    have h1 : errB (decode [0, 0, 0, 0]) = true := by decide +kernel
    rw [h] at h1; cases h1
  | error e =>
    refine ⟨e, rfl, ?_⟩
    rintro rfl
    have h1 : (match decode [0, 0, 0, 0] with | .error .ownCheck => true | _ => false) = false := by decide +kernel
    rw [h] at h1; cases h1

theorem test_witness_ReservationChecks_issues : ∃ (i : Instr) (n : Need) (nm nk : Nat) (s : State) (c : Iss), tileNeed i = some (n, nm, nk) ∧
    Issues s n i.bytes c ∧ c.sp.lanes = c.grp.live ∧ c.s.reservation? c.gang = none :=
  ⟨.mzero { d := 7 }, {}, 0, 8, solo, issAt solo {} 12, rfl, issues_of (by decide +kernel), by decide +kernel, by decide +kernel⟩

/-- Two splits, so that neither holds every live lane. -/
def twoSplits : State := solo.modGroup 1 0 (fun g => g.setSplit 1 (some (Split.start 0x10000 2 1)))

theorem test_witness_ReservationChecks_divided : ∃ (i : Instr) (n : Need) (nm nk : Nat) (s : State) (c : Iss), tileNeed i = some (n, nm, nk) ∧
    Issues s n i.bytes c ∧ c.sp.lanes ≠ c.grp.live :=
  ⟨.mzero { d := 7 }, {}, 0, 8, twoSplits, issAt twoSplits {} 12, rfl, issues_of (by decide +kernel), by decide +kernel⟩

def heldUnits : State := solo.modPress 0 (fun p => { p with reservations :=
  [{ gang := 1, releasing := false, moulds := [], accs := List.replicate 7 Acc.fresh }] })

theorem test_witness_ReservationChecks_units : ∃ (i : Instr) (n : Need) (nm nk : Nat) (s : State) (c : Iss) (r : Reservation), tileNeed i = some (n, nm, nk) ∧
    Issues s n i.bytes c ∧ c.sp.lanes = c.grp.live ∧ c.s.reservation? c.gang = some r ∧ r.releasing = false ∧ r.accs.length + 1 = nk :=
  ⟨.mzero { d := 7 }, {}, 0, 8, heldUnits, issAt heldUnits {} 12,
    { gang := 1, releasing := false, moulds := [], accs := List.replicate 7 Acc.fresh }, rfl, issues_of (by decide +kernel), by decide +kernel,
    by decide +kernel, by decide, by decide⟩

theorem test_witness_LaneMasks_lane : ∃ (d : Fin 256) (s : State) (c : Iss) (l : Nat), Issues s { vs := [vdest (.v d) false] } 12 c ∧
    c.grp.isPort d.val = false ∧ atOnce c ∧ c.dueFlip c.s = none ∧ c.exec.getLsbD l = true ∧ s.laneLives c.f d.val l ∧ l = 31 ∧ d = 255 :=
  ⟨255, lab, issAt lab { vs := [vdest (.v 255) false] } 12, 31, issues_of (by decide +kernel), by decide +kernel, Or.inl (by decide +kernel),
    by decide +kernel, by decide +kernel, lives_of (by decide +kernel) (by decide), rfl, rfl⟩

def mask7 : List Byte := leBytes 4 (0x62 + 2 ^ 8 * 255) ++ leBytes 4 6 ++ leBytes 4 7
theorem test_witness_LaneMasks_reserved : ∃ (s : State) (g : Gang) (x : Group) (sp : Split), standsAt s g x sp :=
  ⟨codeLab 0x10000 mask7, standsAt_code _ _ (by decide +kernel) (by decide +kernel) (by decide +kernel) (by decide +kernel)⟩
theorem test_witness_LaneMasks_words : fetched (codeLab 0x10000 mask7) = .ok mask7 ∧ wordsOfBytes mask7 = [0x62 + 2 ^ 8 * 255, 6, 7] := by decide +kernel

/-! ## Translation, the start of a gang, steps -/

def whoLab : Who := lab.whoOf (gangOf lab) here

theorem test_witness_Translation_maps : ∃ (s : State) (w : Who) (k : AccKind) (va : Word) (x : Xlat), s.translate w k va = .ok x :=
  ⟨lab, whoLab, .write, 0x1FFFF, { pa := 0xFFFF, shift := 16, region := 2, dur := false }, by decide +kernel⟩

theorem test_witness_Translation_high : ∃ va : Word, va.toNat = 2 ^ 52 := ⟨0x10000000000000, by decide⟩

theorem test_witness_Translation_absent : ∃ (s : State) (w : Who) (va : Word) (c : Context), va.toNat < 2 ^ 52 ∧ s.ctx? w.ctx = some c ∧
    s.walkCtx c va.toNat = none :=
  ⟨lab, whoLab, 0xFFFFFFFFFFFFF, (lab.ctx? whoLab.ctx).getD (Context.fresh 1 0 0), by decide, some_of _ (by decide +kernel), by decide +kernel⟩

/-- The root's first entry valid, its reserved bits set. -/
def brokenLab : State :=
  let k := (lab.ctx? 1).getD (Context.fresh 1 0 0)
  { lab with mem := lab.mem.writeBytes k.root (leBytes 8 (2 ^ 52 - 1)) }

theorem test_witness_Translation_illFormed : ∃ (s : State) (w : Who) (va : Word) (c : Context) (es : List (Nat × Nat)), va.toNat < 2 ^ 52 ∧ s.ctx? w.ctx = some c ∧
    s.walkCtx c va.toNat = some es ∧ walkOk es = false :=
  ⟨brokenLab, whoLab, 0x10000, (brokenLab.ctx? whoLab.ctx).getD (Context.fresh 1 0 0),
    (brokenLab.walkCtx ((brokenLab.ctx? whoLab.ctx).getD (Context.fresh 1 0 0)) 0x10000).getD [], by decide, some_of _ (by decide +kernel),
    some_of [] (by decide +kernel), by decide +kernel⟩

theorem test_witness_RoundTrip : ∃ (i : Instr) (f : Fields), i.wellFormed = true ∧ i.fields = some f ∧ decode [0x78, 0, 0, 0] = .ok i :=
  ⟨.nopBase, _, by decide, rfl, by decide +kernel⟩

theorem test_witness_GangStart : ∃ (s : State) (t : TaskRec), s.memWf ∧ (∀ g, g ∈ s.gangs → g.id < s.nextGang) ∧ t.groups = 32 ∧ s.gangs ≠ [] :=
  ⟨lab, { oneGroup 1 with groups := 32, budget := 32 }, ⟨by decide +kernel, by decide +kernel⟩, by decide +kernel, rfl, by decide +kernel⟩

/-- A NOP in its place after reset: it is the next step's, and it runs. -/
theorem test_witness_StepRuns : ∃ (s : State) (f : Focus) (rest : List Turn), s.nextTurn = (.issue f, rest) ∧
    (let s0 : State := { s with agenda := rest, order := s.order + 1 }
     s0.canIssue f = true ∧ s0.mergeDue f = none) :=
  ⟨lab, here, [], by decide +kernel, by decide +kernel⟩

theorem test_witness_StepRuns_turns : ∃ (s : State) (e : Instr) (n : Nat), isEvent e = true ∧
    ({ s with agenda := [.event e] } : State).nextTurn = (.event e, []) ∧ ({ s with agenda := [.tick n] } : State).nextTurn = (.tick n, []) :=
  ⟨State.reset, .bootReady, 64, by decide, by decide, by decide⟩

theorem test_witness_StepKeepsMemory : ∃ s : State, s.memWf ∧ s.mem.cells ≠ [] ∧ nextB (step s) (fun _ => true) = true :=
  ⟨lab, ⟨by decide +kernel, by decide +kernel⟩, by decide +kernel, by decide +kernel⟩

end Sys2Proof.Tests.WitnessF
end

