-- ==== Sys2Proof/Tests/WitnessG.lean ====
section
/-! SUPPORT. States and operands that meet the hypotheses of the statements about the events of the memory system, the engines, the press and the
splits, one theorem for each clause. -/

namespace Sys2Proof.Tests.WitnessG

open Sys2Proof.Machine Sys2Proof.Claims Sys2Proof.Tests

set_option maxRecDepth 100000
set_option Elab.async false

def gOf (s : State) (id : Nat) : Gang := (s.gang? id).getD (issAt lab {} 12).gang
def xOf (s : State) (id slot : Nat) : Group := (s.group? id slot).getD (issAt lab {} 12).grp
def ctxOf (s : State) (id : Nat) : Context := (s.ctx? id).getD (Context.fresh 0 0 0)

/-! ## Walks and pages (03 R57, R59) -/

def walkLab (n : Nat) : State :=
  lab.modDie 3 (fun d => { d with walks := List.replicate n { ctx := 1, page := 0, started := true, waiters := [] } ++
    [{ ctx := 1, page := 1, started := false, waiters := [] }, { ctx := 1, page := 1, started := true, waiters := [0] }] })

theorem test_witness_WalksAndPages_start : ∃ (s : State) (die : Fin 4) (i : Nat) (w : Walk), (s.die? die.val).walks[i]? = some w ∧ w.started = false ∧
    (∀ v, v ∈ (s.die? die.val).walks.take i → v.started = true) ∧ ((s.die? die.val).walks.filter (fun v => v.started)).length = 31 :=
  ⟨walkLab 30, 3, 30, { ctx := 1, page := 1, started := false, waiters := [] }, by decide +kernel, rfl, by decide +kernel, by decide +kernel⟩

theorem test_witness_WalksAndPages_complete : ∃ (s : State) (die : Fin 4) (i j : Nat) (w v : Walk), (s.die? die.val).walks[i]? = some w ∧ w.started = true ∧
    s.walkedPage w.ctx w.page = none ∧ (s.die? die.val).walks[j]? = some v ∧ v.started = true ∧ s.walkedPage v.ctx v.page = some (1, 1) ∧ v.waiters = [0] :=
  ⟨walkLab 31, 3, 30, 32, { ctx := 1, page := 0, started := true, waiters := [] }, { ctx := 1, page := 1, started := true, waiters := [0] }, by decide +kernel,
    rfl, by decide +kernel, by decide +kernel, rfl, by decide +kernel, rfl⟩

/-- The walk to a leaf reads the entries at these addresses. -/
def leafReads (s : State) (va : Nat) : Nat → Nat → Nat → List Nat
  | 0, _, _ => []
  | fuel + 1, level, base =>
    let a := base + 8 * levelIndex level va
    let e := s.mem.readLE a 8
    a :: (if !e.testBit 0 then [] else if e.testBit 1 ∨ fuel = 0 then [] else leafReads s va fuel (level + 1) (nextTable e))

theorem leafFrom_same {s u : State} {va : Nat} : ∀ (fuel level base : Nat), (∀ a, a ∈ leafReads s va fuel level base → u.mem.readLE a 8 = s.mem.readLE a 8) →
    u.leafFrom va fuel level base = s.leafFrom va fuel level base
  | 0, _, _, _ => rfl
  | fuel + 1, level, base, h => by
    have h0 := h (base + 8 * levelIndex level va) (by simp [leafReads])
    simp only [State.leafFrom, h0]
    by_cases h1 : (!(s.mem.readLE (base + 8 * levelIndex level va) 8).testBit 0) = true
    · simp only [h1, if_true]
    · by_cases h2 : ((s.mem.readLE (base + 8 * levelIndex level va) 8).testBit 1 = true ∨ fuel = 0)
      · simp only [h1, h2, if_true, if_false, Bool.false_eq_true]
      · simp only [h1, h2, if_false, Bool.false_eq_true]
        exact leafFrom_same fuel (level + 1) _ (fun a ha => h a (by simp only [leafReads]; simp only [h1, h2, if_false, Bool.false_eq_true]; exact List.mem_cons_of_mem _ ha))

theorem readLE_same {m k : Memory} {a n : Nat} (h : ∀ i, i < n → m.read (a + i) = k.read (a + i)) : m.readLE a n = k.readLE a n := by
  have : m.readBytes a n = k.readBytes a n := by
    induction n generalizing a with
    | zero => rfl
    | succ n ih =>
      unfold Memory.readBytes
      rw [show m.read a = k.read a from by simpa using h 0 (by omega)]
      congr 1
      exact ih (fun i hi => by have := h (i + 1) (by omega); rwa [show a + (i + 1) = a + 1 + i from by omega] at this)
  unfold Memory.readLE
  rw [this]

def pageLeaf : Nat × Nat × Nat := (lab.leafAt (ctxOf lab 1).root 0x10000).getD (0, 0, 0)

/-- The page of the lab moves to the next frame. -/
theorem test_witness_WalksAndPages_migration : ∃ (s : State) (ctx va new level leaf at_ : Nat) (c : Context), s.ctx? ctx = some c ∧
    s.leafAt c.root va = some (level, leaf, at_) ∧
    let n := 2 ^ levelShift level
    let old := frameOf level leaf
    let inFrames := fun a => old ≤ a ∧ a < old + n ∨ new ≤ a ∧ a < new + n
    new % n = 0 ∧ s.part.frameOk new n = true ∧ leafOk level (leaf - bitsOf leaf 49 16 * 2 ^ 16 + new) = true ∧ old < 2 ^ 48 ∧
    (old + n ≤ new ∨ new + n ≤ old) ∧ new < 2 ^ 50 ∧
    (∀ k, k ∈ s.contexts → ∀ y, y ∈ s.leaves k.root → rangesMeet new n (frameOf y.2.1 y.2.2) (2 ^ levelShift y.2.1) = false) ∧
    s.commands = [] ∧ (∀ k, k ∈ s.cores → k = CoreRec.reset) ∧ s.saves = [] ∧ s.partials = [] ∧
    (∀ u : State, (∀ a, ¬ inFrames a → u.mem.read a = s.mem.read a) → u.leafAt c.root va = some (level, leaf, at_)) ∧
    (∀ i, i < 8 → ¬ inFrames (at_ + i)) ∧ s.mem.wf = true := by
  have hl : lab.leafAt (ctxOf lab 1).root 0x10000 = some (3, pageLeaf.2.1, pageLeaf.2.2) := by decide +kernel
  have ho : frameOf 3 pageLeaf.2.1 = 0 := by decide +kernel
  have hold : ∀ i, i < 8 → 0x20000 ≤ pageLeaf.2.2 + i := by
    have h1 : 0x20000 ≤ pageLeaf.2.2 := by decide +kernel
    omega
  refine ⟨lab, 1, 0x10000, 0x10000, 3, pageLeaf.2.1, pageLeaf.2.2, ctxOf lab 1, some_of _ ?_, hl, ?_, ?_, ?_, ?_, Or.inl ?_, ?_, ?_, ?_, ?_, ?_, ?_, ?_, ?_, ?_⟩
  on_goal 13 =>
    intro u hu
    rw [← hl]
    apply leafFrom_same
    intro a ha
    have h1 : ∀ a, a ∈ leafReads lab 0x10000 4 0 (ctxOf lab 1).root → 0x20000 ≤ a := by decide +kernel
    have h2 := h1 a ha
    refine readLE_same (fun i hi => hu _ ?_)
    rw [ho]
    simp only [show levelShift 3 = 16 from rfl]
    omega
  on_goal 13 =>
    intro i hi
    rw [ho]
    have h1 := hold i hi
    simp only [show levelShift 3 = 16 from rfl]
    omega
  all_goals decide +kernel

/-! ## Accesses (03, 04, 06) -/

def loadOf (carry : Option (Nat × Nat)) (vals : List (Nat × Nat × W32)) (tile : List (Nat × Loc)) : PendLoad :=
  { lanes := 1, regs := [], vals := vals, uni := none, carry := carry, tile := tile, sync := none }
def loadsLab : State := labGroup (fun g => { g with
  ldc := 3, loads := [loadOf none [(255, 31, 7)] [], loadOf (some (7, 0)) [(0, 31, 7)] [], loadOf none [] [(0x8000, .phys 0xFF80)]] })

theorem test_witness_AccessEvents_loads : ∃ (s : State) (g : Gang) (x : Group) (l0 l1 l2 : PendLoad) (k : Fin 8) (place : Nat), s.gang? 1 = some g ∧ s.group? 1 0 = some x ∧
    x.loads[0]? = some l0 ∧ l0.carry = none ∧ l0.tile = [] ∧ x.loads[1]? = some l1 ∧ l1.carry = some (k.val, place) ∧ l1.tile = [] ∧
    x.loads[2]? = some l2 ∧ l2.carry = none ∧ l2.vals = [] ∧ l2.tile ≠ [] ∧ ∀ t a, t ∈ l2.tile → t.2 = Loc.phys a → s.physBusy (a / 128) false = false :=
  ⟨loadsLab, gOf loadsLab 1, xOf loadsLab 1 0, loadOf none [(255, 31, 7)] [], loadOf (some (7, 0)) [(0, 31, 7)] [],
    loadOf none [] [(0x8000, .phys 0xFF80)], 7, 0, some_of _ (by decide +kernel), some_of _ (by decide +kernel), by decide +kernel, rfl, rfl,
    by decide +kernel, rfl, rfl, by decide +kernel, rfl, rfl, by decide, fun t a ht ha => by
      have h1 : t = (0x8000, .phys 0xFF80) := List.mem_singleton.mp ht
      subst h1
      cases ha
      decide +kernel⟩

def byteAt (a : Nat) : ByteWrite := { addr := a, val := 1, dur := false }
def storesLab : State := { labGroup (fun g => { g with
  stc := 3, stores := [.bytes 1 [byteAt 0xFFFF] [], .bytes 1 [byteAt 0xFFFE] [], .red 1 [{ addr := 0xFFF0, op := .add, ty := .n32, val := 1, dur := false, bad := false, chunk := 0 }]] }) with
  commands := [{ id := 0, gang := 1, group := 0, kind := .scatadd, lines := [],
                 updates := [{ addr := 0xFFF0, op := .add, ty := .n32, val := 1, dur := false, bad := false, chunk := 0 }], sync := none, echo := false, begun := [] }]
  partials := [{ die := 3, addr := 0xFF80, size := 4, op := .add, ty := .n32, val := 1, dur := false }] }

/-- The second store meets no byte of the first. -/
theorem test_witness_AccessEvents_store : ∃ (s : State) (x : Group) (p : PendStore), s.group? 1 0 = some x ∧ x.stores[1]? = some p ∧
    x.fences = [] ∧
    (∀ q, q ∈ x.stores.take 1 → ∀ a, a ∈ q.addrs → a ∉ p.addrs) ∧ x.stores.take 1 ≠ [] ∧ ∀ l, l ∈ p.lines → s.physBusy l true = false :=
  ⟨storesLab, xOf storesLab 1 0, .bytes 1 [byteAt 0xFFFE] [], some_of _ (by decide +kernel), by decide +kernel⟩

theorem test_witness_AccessEvents_updateOnly : ∃ (s : State) (line : Nat) (p : Partial), p ∈ s.partials ∧ p.addr / 128 = line :=
  ⟨storesLab, 0x1FF, { die := 3, addr := 0xFF80, size := 4, op := .add, ty := .n32, val := 1, dur := false }, by decide +kernel, by decide⟩

theorem test_witness_AccessEvents_update : ∃ (s : State) (x : Group) (m : LaneMask) (u : Update) (us : List Update), s.group? 1 0 = some x ∧
    x.stores[2]? = some (.red m (u :: us)) ∧ x.fences = [] ∧
    (∀ q, q ∈ x.stores.take 2 → ∀ k, k < u.ty.bits / 8 → u.addr + k ∉ q.addrs) ∧ s.physBusy (u.addr / 128) true = false :=
  ⟨storesLab, xOf storesLab 1 0, 1, { addr := 0xFFF0, op := .add, ty := .n32, val := 1, dur := false, bad := false, chunk := 0 }, [], some_of _ (by decide +kernel),
    by decide +kernel, by decide +kernel, by decide +kernel, by decide +kernel⟩

theorem test_witness_AccessEvents_scatterAdd : ∃ (s : State) (x : Group) (k : Command) (u : Update) (us : List Update), s.group? 1 0 = some x ∧
    x.stores.length = 3 ∧
    (s.commands.filter (fun c => c.gang == 1 && c.group == x.gid.toNat && decide (c.kind = .scatadd)))[3 - x.stores.length]? = some k ∧
    (∃ g, s.gang? 1 = some g ∧ g.moves = true) ∧ k.updates = u :: us ∧ s.physBusy (u.addr / 128) true = false :=
  ⟨storesLab, xOf storesLab 1 0, storesLab.commands.headD { id := 9, gang := 1, group := 0, kind := .scatadd, lines := [], updates := [], sync := none, echo := false, begun := [] },
    { addr := 0xFFF0, op := .add, ty := .n32, val := 1, dur := false, bad := false, chunk := 0 }, [], some_of _ (by decide +kernel), by decide +kernel, by decide +kernel,
    ⟨gOf storesLab 1, some_of _ (by decide +kernel), by decide +kernel⟩, by decide +kernel, by decide +kernel⟩

def elem : AppendElem := { place := .lane 0 31, base := 0x1FFFC, size := 4, val := 7, line := none }
def appendLab : State :=
  (labOf { oneGroup 1 with chan := 8 }).modGang 1 (fun g => { g with channels := g.channels.set 3 { (Channel.empty) with
    done := (List.range 32).map (fun l => (0, l)), waiting := [elem] } })

theorem test_witness_AccessEvents_append : ∃ (s t : State) (ch : Fin 4) (g : Gang) (x : AppendElem), s.gang? 1 = some g ∧ g.firstElem ch = some x ∧
    g.appendDue ch x = true ∧ s.writeElem 1 ch = some t :=
  ⟨appendLab, _, 3, gOf appendLab 1, elem, some_of _ (by decide +kernel), by decide +kernel, by decide +kernel, some_of lab (by decide +kernel)⟩

theorem test_witness_AccessEvents_durable : ∃ (s : State) (half : Nat) (c : Nat × Byte), c ∈ s.undurable ∧ c.1 / 64 = half :=
  ⟨{ State.reset with undurable := [(0xFFC0, 1)] }, 0x3FF, (0xFFC0, 1), by decide, by decide⟩

end Sys2Proof.Tests.WitnessG
end

