-- ==== Sys2Proof/Tests/WitnessH.lean ====
section
/-! SUPPORT. States and operands that meet the hypotheses of the statements about the events of the engines, the press and the splits, one theorem for
each clause. -/

namespace Sys2Proof.Tests.WitnessH

open Sys2Proof.Machine Sys2Proof.Claims Sys2Proof.Tests

set_option maxRecDepth 100000
set_option Elab.async false

def gangIn (s : State) : Gang := (s.gang? 1).getD (issAt lab {} 12).gang
def groupIn (s : State) : Group := (s.group? 1 0).getD (issAt lab {} 12).grp
def splitIn (s : State) (i : Nat) : Split := ((groupIn s).split? i).getD (Split.start 0 0 0)

/-! ## Engines (05) -/

/-- One byte from the page to the vat. -/
def moveLine : CmdLine := { line := .vat 0 0x240, moves := [(0, .phys 0xFF80)], vals := [], bad := false, dur := false, chunk := 0 }
def cmdOf (ls : List CmdLine) : Command :=
  { id := 5, gang := 1, group := 0, kind := .copy, lines := ls, updates := [], sync := none, echo := false, begun := [] }
def engineLab (ls : List CmdLine) : State := { lab with commands := [cmdOf ls], nextCmd := 6 }

theorem test_witness_EngineEvents_line : ∃ (s : State) (cmd line : Nat) (k : Command) (g : Gang) (l : CmdLine),
    s.commands.find? (fun c => c.id == cmd) = some k ∧ s.gang? k.gang = some g ∧ k.lines[line]? = some l ∧ g.moves = true ∧ l.line = .vat g.core 0x240 ∧
    s.writeHeld l.line cmd = false ∧ (∀ m, m ∈ l.moves → s.readHeld m.2.line cmd = false) ∧ s.twinLine g l.line = none ∧ s.worked g.core k = true :=
  ⟨engineLab [moveLine], 5, 0, cmdOf [moveLine], gangIn (engineLab [moveLine]), moveLine, by decide +kernel, some_of _ (by decide +kernel), rfl,
    by decide +kernel⟩

theorem test_witness_EngineEvents_complete : ∃ (s : State) (cmd : Nat) (k : Command), s.commands.find? (fun c => c.id == cmd) = some k ∧ k.lines = [] ∧
    k.updates = [] :=
  ⟨engineLab [], 5, cmdOf [], by decide +kernel, rfl, rfl⟩

/-- A walk of two elements through a ring of one slot. -/
def walkRec (drain : Bool) : StreamRec :=
  { base := 0x1FF80, ext := [2, 1, 1, 1, 1], str := [4, 0, 0, 0, 0], ring := 0x12000, slotLines := 1, slots := 1, drain := drain, esz := 2, sync := none }
def streamLab (drain : Bool) (prod cons : Nat) : State :=
  setStream lab 0 3 { Stream.vacant with
    state := .run, holder := 1, record := walkRec drain, elems := [(0xFF80, false), (0xFF84, false)], prod := prod, cons := cons, starters := [(1, 0)] }

theorem test_witness_EngineEvents_fill : ∃ (s : State) (core e : Nat) (g : Gang), let st := s.streamAt core e
    st.state = .run ∧ st.record.drain = false ∧ s.gang? st.holder = some g ∧ g.moves = true ∧ s.twin g = none ∧
    st.prod + 1 = st.record.totalSlots ∧ st.prod + 1 = st.cons + st.record.slots ∧
    (∀ l, l ∈ linesOf ((st.slotElems st.prod).map (fun x => x.1)) → s.readHeld (.phys l) st.seq = false) ∧ st.slotElems st.prod ≠ [] ∧
    s.sidesHeld (s.ringSides g st st.prod) st.record.slotBytes st.seq true = false :=
  ⟨streamLab false 0 0, 0, 3, gangIn (streamLab false 0 0), by decide +kernel, by decide +kernel, some_of _ (by decide +kernel), by decide +kernel⟩

theorem test_witness_EngineEvents_drain : ∃ (s : State) (core e : Nat) (g : Gang), let st := s.streamAt core e
    st.state = .run ∧ st.record.drain = true ∧ s.gang? st.holder = some g ∧ g.moves = true ∧ s.twin g = none ∧
    st.cons < st.prod ∧ st.cons + 1 = st.record.totalSlots ∧
    (∀ l, l ∈ linesOf ((st.slotElems st.cons).map (fun x => x.1)) → s.writeHeld (.phys l) st.seq = false) ∧ st.slotElems st.cons ≠ [] ∧
    s.sidesHeld [(g, st.slotAddr st.cons)] st.record.slotBytes st.seq false = false :=
  ⟨streamLab true 1 0, 0, 3, gangIn (streamLab true 1 0), by decide +kernel, by decide +kernel, some_of _ (by decide +kernel), by decide +kernel⟩

theorem test_witness_EngineEvents_last : ∀ drain, ∃ (s : State) (core e : Nat), let st := s.streamAt core e
    st.state = .run ∧ st.record.drain = drain ∧ st.record.totalSlots = (if st.record.drain then st.cons else st.prod) := by
  intro drain
  cases drain
  · exact ⟨streamLab false 1 0, 0, 3, by decide +kernel⟩
  · exact ⟨streamLab true 1 1, 0, 3, by decide +kernel⟩

def collW : CollWait :=
  { group := 255, gang := 1, slot := 0, split := 0, lanes := 1, pc := 0x10000, kind := .allreduce, op := .add, ty := .n32, n := 1, root := 0
    dst := [(0xFFFC, false), (0xFFFD, false), (0xFFFE, false), (0xFFFF, false)], src := [0xFFFC, 0xFFFD, 0xFFFE, 0xFFFF], isSeal := none }
def collG : CollGroup := { id := 255, chips := [0, 7], me := 0, tag := 1 }
def meetLab : State := { lab with collWaits := [collW], collGroups := [collG] }
def peerOf (n : Nat) : PeerCommand := { coll := true, kind := .allreduce, op := .add, ty := .n32, n := n, root := 0, src := [1, 2, 3, 4], bad := [2] }

theorem test_witness_EngineEvents_rendezvous : ∃ (s : State) (id : Nat) (ps qs : List PeerCommand) (w : CollWait) (g : Gang) (x : Group) (cg : CollGroup),
    s.collWaits.find? (fun w => w.group == id) = some w ∧ s.gang? w.gang = some g ∧ s.group? w.gang w.slot = some x ∧
    s.collGroups.find? (fun g => g.id == id) = some cg ∧ w.isSeal = none ∧ x.cpc < 63 ∧ ps.length + 1 = cg.chips.length ∧ qs.length + 1 = cg.chips.length ∧
    (∀ y, y ∈ ps → agrees y w = true) ∧ (∀ y, y ∈ ps → y.src.length = w.n * accSize w.ty) ∧ (∀ l, l ∈ linesOf w.src → s.physBusy l false = false) ∧
    ∃ y, y ∈ qs ∧ agrees y w = false :=
  ⟨meetLab, 255, [peerOf 1], [peerOf 2], collW, gangIn meetLab, groupIn meetLab, collG, by decide +kernel, some_of _ (by decide +kernel),
    some_of _ (by decide +kernel), by decide +kernel, rfl, by decide +kernel, rfl, rfl, by decide, by decide, by decide +kernel, peerOf 2, by decide, by decide⟩

def sealLab : State := { lab with collWaits := [{ collW with isSeal := some 1 }], collGroups := [collG] }

theorem test_witness_EngineEvents_seal : ∃ (s : State) (id : Nat) (ps : List PeerCommand) (w : CollWait) (g : Gang) (x : Group) (cg : CollGroup),
    s.collWaits.find? (fun w => w.group == id) = some w ∧ s.gang? w.gang = some g ∧ s.group? w.gang w.slot = some x ∧
    s.collGroups.find? (fun g => g.id == id) = some cg ∧ ps.length + 1 = cg.chips.length ∧ w.isSeal ≠ none ∧ ∃ y, y ∈ ps ∧ y.coll = true :=
  ⟨sealLab, 255, [peerOf 1], { collW with isSeal := some 1 }, gangIn sealLab, groupIn sealLab, collG, by decide +kernel, some_of _ (by decide +kernel),
    some_of _ (by decide +kernel), by decide +kernel, rfl, by decide, peerOf 1, by decide, rfl⟩

def arriveLab (gang core : Nat) : State := { lab with arrivals := [{ gang := gang, core := core, base := 0, addr := 0x12FF0, bytes := 128 }] }

theorem test_witness_EngineEvents_arrival : ∀ gone : Bool, ∃ (s : State) (i : Nat) (a : Arrival), s.arrivals[i]? = some a ∧
    s.pinned a.core (a.addr / 128) = false ∧ (s.gang? a.gang).isNone = gone ∧ (gone = false → (s.gang? a.gang).map (fun g => (g.core, g.base)) = some (a.core, a.base)) := by
  intro gone
  cases gone
  · exact ⟨arriveLab 1 0, 0, { gang := 1, core := 0, base := 0, addr := 0x12FF0, bytes := 128 }, rfl, by decide +kernel, by decide +kernel, by decide +kernel⟩
  · exact ⟨arriveLab 9 0, 0, { gang := 9, core := 0, base := 0, addr := 0x12FF0, bytes := 128 }, rfl, by decide +kernel, by decide +kernel, by decide⟩

theorem test_witness_EngineEvents_late : ∃ (s : State) (i : Nat) (a : Arrival) (g : Gang), s.arrivals[i]? = some a ∧
    s.pinned a.core (a.addr / 128) = false ∧ s.gang? a.gang = some g ∧ g.core ≠ a.core ∧ s.forwards = [] :=
  ⟨arriveLab 1 127, 0, { gang := 1, core := 127, base := 0, addr := 0x12FF0, bytes := 128 }, gangIn (arriveLab 1 127), rfl, by decide +kernel,
    some_of _ (by decide +kernel), by decide +kernel, by decide +kernel⟩

def dirtyUnit : StashUnit :=
  { vat := 0x11000, va := 0x1F000, phys := 0xF000, wr := true, coh := false, dur := false, gang := 1, lines := [(31, true)], cut := false }
def dirtyLab : State := lab.modCore 0 (fun k => { k with stash := [dirtyUnit] })

theorem test_witness_EngineEvents_writeback : ∃ (s : State) (core k : Nat) (u : StashUnit) (i : Nat), (s.core? core).dirty[k]? = some (u, i) ∧
    s.physBusy (u.phys / 128 + i) true = false ∧ s.vatOwned core (u.vat / 128 + i) = false ∧ s.pinned core (u.vat / 128 + i) = false :=
  ⟨dirtyLab, 0, 0, dirtyUnit, 31, by decide +kernel, by decide +kernel, by decide +kernel, by decide +kernel⟩

/-! ## The press (11) -/

def zeroOp (d : Nat) (started : Bool) : TileOp := { kind := .mzero d, started := started, fenced := false, order := 3, pins := [], owned := [0x240] }
def allUnits (releasing : Bool) : Reservation :=
  { gang := 1, releasing := releasing, moulds := [], accs := List.replicate 8 Acc.fresh }
def tileLabOf (shared started : Bool) (credit : List (Nat × Nat × Nat)) : State :=
  (labGroup (fun g => { g with tiles := [zeroOp 7 started] })).modPress 0 (fun p =>
    { p with shared := shared, reservations := [allUnits false], credit := credit })

theorem test_witness_PressEvents_starts : ∃ (s : State) (g : Gang) (x : Group) (t : TileOp) (ts : List TileOp), s.gang? 1 = some g ∧ s.group? 1 0 = some x ∧
    x.tiles = t :: ts ∧ g.run = .running ∧ t.started = false ∧ (∀ u, u ∈ g.tileOps → u.order < t.order → u.kind.meets t.kind = false) ∧
    (s.press? g.press).shared = false ∧ (s.press? g.press).usedMoulds ≤ 32 ∧ (s.press? g.press).usedAccs = 8 :=
  ⟨tileLabOf false false [], gangIn (tileLabOf false false []), groupIn (tileLabOf false false []), zeroOp 7 false, [], some_of _ (by decide +kernel),
    some_of _ (by decide +kernel), by decide +kernel, by decide +kernel, rfl, by decide +kernel, by decide +kernel, by decide +kernel, by decide +kernel⟩

theorem test_witness_PressEvents_turn : ∃ (s : State) (g : Gang) (y : Gang × Group × TileOp), s.gang? 1 = some g ∧ (s.press? g.press).shared = true ∧
    s.pressBusy g.press = false ∧ s.agedHead g.press = none ∧ s.pressTurn g.press = some y ∧ y.1.id = 1 ∧ y.2.1.slot = 0 :=
  ⟨tileLabOf true false [], gangIn (tileLabOf true false []), ((tileLabOf true false []).pressTurn 0).getD (gangIn lab, groupIn lab, zeroOp 0 false),
    some_of _ (by decide +kernel), by decide +kernel, by decide +kernel, by decide +kernel, some_of (gangIn lab, groupIn lab, zeroOp 0 false) (by decide +kernel),
    by decide +kernel, by decide +kernel⟩

/-- A press that is not shared and has more accumulators reserved than it has. -/
def crowded : State := (tileLabOf false false []).modPress 0 (fun p => { p with reservations := [allUnits false, { allUnits false with gang := 9 }] })

theorem test_witness_PressEvents_crowded : ∃ (s : State) (g : Gang) (y : Gang × Group × TileOp), s.gang? 1 = some g ∧ (s.press? g.press).shared = false ∧
    8 < (s.press? g.press).usedAccs ∧ s.pressBusy g.press = false ∧ s.pressTurn g.press = some y ∧ y.1.id = 1 ∧ y.2.1.slot = 0 :=
  ⟨crowded, gangIn crowded, (crowded.pressTurn 0).getD (gangIn lab, groupIn lab, zeroOp 0 false), some_of _ (by decide +kernel), by decide +kernel,
    by decide +kernel, by decide +kernel, some_of (gangIn lab, groupIn lab, zeroOp 0 false) (by decide +kernel), by decide +kernel, by decide +kernel⟩

theorem test_witness_PressEvents_aged : ∃ (s : State) (press : Nat) (h : Gang × Group × TileOp), (s.press? press).shared = true ∧
    s.pressBusy press = false ∧ s.agedHead press = some h :=
  ⟨tileLabOf true false [(1, 0, 16384)], 0, _, by decide +kernel, by decide +kernel, some_of (gangIn lab, groupIn lab, zeroOp 0 false) (by decide +kernel)⟩

theorem test_witness_PressEvents_complete : ∃ (s : State) (g : Gang) (x : Group) (t : TileOp) (r : Reservation), s.gang? 1 = some g ∧ s.group? 1 0 = some x ∧
    x.tiles.head? = some t ∧ t.started = true ∧ g.moves = true ∧ (∀ l, l ∈ t.owned → s.destHeld g.core l t.order = false) ∧ t.kind = .mzero 7 ∧
    s.reservation? g = some r ∧ 7 + 1 = r.accs.length :=
  ⟨tileLabOf false true [], gangIn (tileLabOf false true []), groupIn (tileLabOf false true []), zeroOp 7 true, allUnits false,
    some_of _ (by decide +kernel), some_of _ (by decide +kernel), by decide +kernel, rfl, by decide +kernel, by decide +kernel, rfl, by decide +kernel,
    by decide⟩

def relLab : State := lab.modPress 0 (fun p => { p with reservations := [allUnits true] })

theorem test_witness_PressEvents_release : ∃ (s : State) (g : Gang) (r : Reservation), s.gang? 1 = some g ∧ s.reservation? g = some r ∧
    r.releasing = true ∧ g.tileOps = [] :=
  ⟨relLab, gangIn relLab, allUnits true, some_of _ (by decide +kernel), by decide +kernel, rfl, by decide +kernel⟩

theorem test_witness_PressEvents_mode : ∃ (s : State) (press : Nat), press + 1 = s.presses.length := ⟨State.reset, 31, by decide⟩

/-! ## Splits (10, 13) -/

/-- Two splits of one lane each. -/
def pairLab (a b : Split) : State := labGroup (fun g => (g.setSplit 0 (some a)).setSplit 3 (some b))
def atPc (pc : Word) (lanes : LaneMask) : Split := Split.start pc lanes 0

theorem test_witness_SplitAndDeckleEvents_merge : ∃ (s : State) (i : Nat), s.mergePartners 1 0 i ≠ [] :=
  ⟨pairLab (atPc 0x10000 1) (atPc 0x10000 0x80000000), 3, by decide +kernel⟩

def joinAt (pc : Word) (lanes : LaneMask) : Split := { atPc pc lanes with stack := [0x10000] }

/-- The other split is still to come to the reconvergence point, or has come. -/
theorem test_witness_SplitAndDeckleEvents_join : ∀ wait : Bool, ∃ (s : State) (g : Gang) (x : Group) (sp : Split), s.gang? 1 = some g ∧ s.group? 1 0 = some x ∧
    x.split? 0 = some sp ∧ sp.joined = false ∧ sp.stack.head? = some sp.pc ∧ sp.status.mayJoin = true ∧ g.lives 0 0 = true ∧ x.serial = none ∧
    (x.joining 0).2 = wait ∧ sp.status ≠ .waiting .reconv := by
  intro wait
  cases wait
  · exact ⟨pairLab (joinAt 0x10000 1) (joinAt 0x10000 2), gangIn (pairLab (joinAt 0x10000 1) (joinAt 0x10000 2)),
      groupIn (pairLab (joinAt 0x10000 1) (joinAt 0x10000 2)), splitIn (pairLab (joinAt 0x10000 1) (joinAt 0x10000 2)) 0, some_of _ (by decide +kernel),
      some_of _ (by decide +kernel), some_of _ (by decide +kernel), by decide +kernel⟩
  · exact ⟨pairLab (joinAt 0x10000 1) (joinAt 0x10010 2), gangIn (pairLab (joinAt 0x10000 1) (joinAt 0x10010 2)),
      groupIn (pairLab (joinAt 0x10000 1) (joinAt 0x10010 2)), splitIn (pairLab (joinAt 0x10000 1) (joinAt 0x10010 2)) 0, some_of _ (by decide +kernel),
      some_of _ (by decide +kernel), some_of _ (by decide +kernel), by decide +kernel⟩

/-- The handler stands at its reconvergence point; another part of it is still to come, or has come. -/
def handlerLab (pc : Word) : State :=
  lab.modGang 1 (fun g => { g with handler := some (joinAt 0x10000 1), handlerRest := [joinAt pc 2] })

theorem test_witness_SplitAndDeckleEvents_handlerWaits : ∃ (s : State) (g : Gang) (sp y z : Split), s.gang? 1 = some g ∧ g.handler = some sp ∧
    sp.joined = false ∧ sp.stack.head? = some sp.pc ∧ sp.status.mayJoin = true ∧ g.run = .running ∧ z ∈ g.handlerRest ∧
    z.stack.head? = some sp.pc ∧ z.pc ≠ sp.pc ∧ g.handlerRest.find? (fun y => !y.atJoin) = some y :=
  ⟨handlerLab 0x10010, gangIn (handlerLab 0x10010), joinAt 0x10000 1, joinAt 0x10010 2, joinAt 0x10010 2, some_of _ (by decide +kernel), by decide +kernel,
    by decide +kernel⟩

theorem test_witness_SplitAndDeckleEvents_handlerJoins : ∃ (s : State) (g : Gang) (sp : Split), s.gang? 1 = some g ∧ g.handler = some sp ∧
    sp.joined = false ∧ sp.stack.head? = some sp.pc ∧ sp.status.mayJoin = true ∧ g.run = .running ∧ g.handlerRest ≠ [] ∧
    ∀ z, z ∈ g.handlerRest → z.stack.head? = some sp.pc → z.pc = sp.pc :=
  ⟨handlerLab 0x10000, gangIn (handlerLab 0x10000), joinAt 0x10000 1, some_of _ (by decide +kernel), by decide +kernel, by decide +kernel⟩

def syncAll : Instr := .sync { mask := .all }
def atSync (lanes : LaneMask) : Split := { atPc 0x10000 lanes with status := .waiting (.member syncAll 0x80000001 0) }
def syncLab2 : State := pairLab (atSync 1) (atSync 0x80000000)
def memberOf (s : State) : Nat × Instr × LaneMask := (groupIn s).memberReady.getD (0, .nopBase, 0)
def memberAt : Focus := { gang := 1, group := 0, split := 0 }
def merged : State := syncLab2.mergeAt 1 0 0 [3] .ready
def memberIss : Iss := (merged.iss? memberAt syncAll.bytes).getD (issAt lab {} 12)

theorem test_witness_SplitAndDeckleEvents_member : ∃ (s : State) (g : Gang) (x : Group) (m : LaneMask) (sp : Split) (eff : Iss → State → Except Stop State)
    (c : Iss) (t : State), s.gang? 1 = some g ∧ s.group? 1 0 = some x ∧ x.memberReady = some (0, syncAll, m) ∧ x.split? 0 = some sp ∧
    memberEffect syncAll = some eff ∧ sortSlots (x.mates sp.pc m) = [0, 3] ∧ (∀ k, k ∈ [0, 3] → g.lives 0 k = true) ∧
    (s.mergeAt 1 0 0 [3] .ready).iss? memberAt syncAll.bytes = some c ∧ eff { c with exec := m } (s.mergeAt 1 0 0 [3] .ready) = .ok t := by
  have h1 : (groupIn syncLab2).memberReady = some (0, syncAll, 0x80000001) := by decide +kernel
  exact ⟨syncLab2, gangIn syncLab2, groupIn syncLab2, 0x80000001, splitIn syncLab2 0, syncEffect, memberIss, _, some_of _ (by decide +kernel),
    some_of _ (by decide +kernel), h1, some_of _ (by decide +kernel), rfl, by decide +kernel, by decide +kernel, some_of _ (by decide +kernel),
    ok_of lab (by decide +kernel)⟩

/-- A BECOME with so many threads for each lane: they fit, or there is no slot for them. -/
def forkTask (budget : Nat) : TaskRec := { oneGroup 1 with budget := budget }
def becomeReq (n : Nat) : DeckleReq := { gang := 1, group := 0, split := 0, carry := 0, counts := (List.range 32).map (fun l => (l, n)), rpc := 0x1000C }
def deckleLab (budget n : Nat) : State := (labOf (forkTask budget)).modCore 0 (fun k => { k with deckle := [becomeReq n] })
def forkCount (n l : Nat) : Nat := (((becomeReq n).counts.find? (fun c => c.1 == l)).map (fun c => c.2)).getD 0
def noPlan : Plan := { items := [], recs := [], snap := none }
def planOf (s : State) (n : Nat) : Option Plan := s.plan (gangIn s) (groupIn s) (splitIn s 0) 0 (forkCount n) 0x1000C
def popped (s : State) : State := s.modCore 0 (fun c => { c with deckle := c.deckle.drop 1 })

theorem test_witness_SplitAndDeckleEvents_become : ∀ fits : Bool, ∃ (s : State) (r : DeckleReq) (rs : List DeckleReq) (g : Gang) (x : Group) (sp : Split),
    (s.core? 0).deckle = r :: rs ∧ s.gang? r.gang = some g ∧ s.group? r.gang r.group = some x ∧ x.split? r.split.val = some sp ∧ g.moves = true ∧
    g.pairStopped = false ∧ s.lanesFree g x = true ∧ g.outOfOrder (becomeAct r.group) = false ∧
    (s.plan g x sp r.carry (fun l => ((r.counts.find? (fun c => c.1 == l)).map (fun c => c.2)).getD 0) r.rpc).isSome = fits := by
  intro fits
  refine ⟨deckleLab (if fits then 2 else 1) 2, becomeReq 2, [], gangIn (deckleLab (if fits then 2 else 1) 2), groupIn (deckleLab (if fits then 2 else 1) 2),
    splitIn (deckleLab (if fits then 2 else 1) 2) 0, ?_, some_of _ ?_, some_of _ ?_, some_of _ ?_, ?_, ?_, ?_, ?_, ?_⟩ <;> cases fits <;> decide +kernel

/-- No thread moves, all stay in their group, or some go to another; the stores that have to be performed are. -/
theorem test_witness_SplitAndDeckleEvents_settles : ∀ n, n < 3 → ∃ (s : State) (g : Gang) (x : Group) (sp : Split) (p : Plan) (s2 : State), s.gang? 1 = some g ∧
    s.group? 1 0 = some x ∧ x.split? 0 = some sp ∧ s.plan g x sp 0 (forkCount n) 0x1000C = some p ∧
    (n = 0 → ∀ t, t ∈ p.settlers x 0 0 → t.slot ≠ 0) ∧ (n = 1 → (∃ t, t ∈ p.settlers x 0 0 ∧ t.slot = 0) ∧ ∀ t, t ∈ p.settlers x 0 0 → t.slot = 0) ∧
    (n = 2 → (∃ t, t ∈ p.settlers x 0 0 ∧ t.slot = 0) ∧ ∃ t, t ∈ p.settlers x 0 0 ∧ t.slot ≠ 0) ∧
    (n = 0 → (popped s).settleStores 1 0 = some s2) ∧ (n = 2 → (popped s).performAll 1 0 = some s2) := by
  intro n hn
  have hp : ∀ n, n < 3 → planOf (deckleLab 2 n) n = some ((planOf (deckleLab 2 n) n).getD noPlan) := by
    intro n hn
    refine some_of noPlan ?_
    rcases n with _ | _ | _ | n <;> first | omega | decide +kernel
  refine ⟨deckleLab 2 n, gangIn (deckleLab 2 n), groupIn (deckleLab 2 n), splitIn (deckleLab 2 n) 0, (planOf (deckleLab 2 n) n).getD noPlan,
    (if n = 0 then (popped (deckleLab 2 n)).settleStores 1 0 else (popped (deckleLab 2 n)).performAll 1 0).getD lab, ?_, ?_, ?_, hp n hn, ?_⟩
  · rcases n with _ | _ | _ | n <;> first | omega | exact some_of _ (by decide +kernel)
  · rcases n with _ | _ | _ | n <;> first | omega | exact some_of _ (by decide +kernel)
  · rcases n with _ | _ | _ | n <;> first | omega | exact some_of _ (by decide +kernel)
  · rcases n with _ | _ | _ | n
    · refine ⟨fun _ => ?_, fun h => absurd h (by decide), fun h => absurd h (by decide), fun _ => some_of lab ?_, fun h => absurd h (by decide)⟩ <;>
        decide +kernel
    · refine ⟨fun h => absurd h (by decide), fun _ => ?_, fun h => absurd h (by decide), fun h => absurd h (by decide), fun h => absurd h (by decide)⟩
      decide +kernel
    · refine ⟨fun h => absurd h (by decide), fun h => absurd h (by decide), fun _ => ?_, fun h => absurd h (by decide), fun _ => some_of lab ?_⟩ <;>
        decide +kernel
    · omega

def pendOne : PendRec := { off := 4096, seq := 0, first := 0, last := 0, carry := 0, snap := 0, regs := [], appended := 0 }
def waitOne : Split := { atPc 0x10000 1 with status := .waiting (.gsync 0) }
def pendLab : State := (labOf (forkTask 2)).modGang 1 (fun g => { g with pend := [pendOne], seq := g.seq ++ [.pending 0] })
/-- Both slots are in use, a lane live in each. -/
def fullTask : TaskRec := { oneGroup 1 with budget := 2, groups := 2 }
def compactLab : State :=
  ((((labOf fullTask).modGroup 1 0 (fun g => g.setSplit 0 (some waitOne))).modGroup 1 1 (fun g => g.setSplit 0 (some waitOne))).modGang 1
    (fun g => { g with pend := [pendOne], seq := [.lane 0 0, .lane 1 0, .pending 0] }))

/-- No group waits at a barrier, or two do and are compacted first. -/
theorem test_witness_SplitAndDeckleEvents_materialise : ∀ first : Bool, ∃ (s : State) (g g1 : Gang) (s2 : State), s.gang? 1 = some g ∧ g.run = .running ∧
    g.halt = none ∧ g.pairStopped = false ∧ g.outOfOrder (materialiseAct []) = false ∧ (s.core? g.core).deckle = [] ∧ g.pend ≠ [] ∧
    (∀ a, a ∈ g.compactNow → a ∈ g.compactable) ∧ decide (g.compactNow = []) = !first ∧
    let s1 := if g.compactNow = [] then s else s.compactSet 1 g.compactNow
    s1.gang? 1 = some g1 ∧ s1.recordReady g1 = true ∧ s1.settleTail g1 = some s2 := by
  intro first
  cases first
  · exact ⟨pendLab, gangIn pendLab, gangIn pendLab, (pendLab.settleTail (gangIn pendLab)).getD lab, some_of _ (by decide +kernel), by decide +kernel,
      by decide +kernel, by decide +kernel, by decide +kernel, by decide, by decide +kernel, by decide +kernel, by decide +kernel,
      some_of (gangIn pendLab) (by decide +kernel), by decide +kernel, some_of lab (by decide +kernel)⟩
  · let t := compactLab.compactSet 1 (gangIn compactLab).compactNow
    exact ⟨compactLab, gangIn compactLab, gangIn t, (t.settleTail (gangIn t)).getD lab, some_of _ (by decide +kernel), by decide +kernel⟩

/-- A second page, whose writes are to be durable. -/
def durableLab : State :=
  let s := labOf { oneGroup 1 with win := 1 }
  match s.ctx? 1 with
  | some c => s.mapPage c.root 0x20000 0x10000 0 0x1E 1
  | none => s
def barrierLab (w : Wait) : State := durableLab.modGroup 1 0 (fun g => g.setSplit 0 (some { atPc 0x10000 0xFFFFFFFF with status := .waiting w }))
def afterBarrier (w : Wait) : State := ((barrierLab w).compact 1)
def written (w : Wait) : State := ((barrierLab w).writeAppends 1).getD lab
def writtenAt (w : Wait) : State := ((afterBarrier w).writeAppends 1).getD lab
def firstOf (s : State) : Nat × Nat × Split := (gangIn s).firstSplit.getD (0, 0, Split.start 0 0 0)

/-- The threads of the gang have arrived at a GSYNC. -/
def gsyncMeets (s : State) (g g2 : Gang) (y : Nat × Nat × Split) (s1 : State) : Prop :=
  s.gang? 1 = some g ∧ g.pair = none ∧ g.groups ≠ [] ∧ (∀ x, x ∈ g.groups → x.arrived = true) ∧ g.run = .running ∧ g.halt = none ∧
  g.pend = [] ∧ g.firstSplit = some y ∧ y.2.2.mark = none ∧ s.writeAppends 1 = some s1 ∧ s1.gang? 1 = some g2

theorem test_witness_SplitAndDeckleEvents_barrier : ∃ (s : State) (g g2 : Gang) (y : Nat × Nat × Split) (s1 t : State), gsyncMeets s g g2 y s1 ∧
    g2.appendFailure = none ∧ s1.fenceGang 1 = some t := by
  refine ⟨barrierLab (.gsync 0), gangIn (barrierLab (.gsync 0)), gangIn (written (.gsync 0)), firstOf (barrierLab (.gsync 0)), written (.gsync 0), _,
    ⟨some_of _ ?_, ?_, ?_, ?_, ?_, ?_, ?_, some_of _ ?_, ?_, some_of lab ?_, some_of _ ?_⟩, ?_, some_of lab ?_⟩ <;> decide +kernel

/-- An appended element could not be written. -/
def failLab : State := (barrierLab (.gsync 0)).modGang 1 (fun g =>
  { g with channels := g.channels.set 0 { Channel.empty with failed := [(0, 0x05, 2, 0x30000)] } })

theorem test_witness_SplitAndDeckleEvents_failure : ∃ (s : State) (g g2 : Gang) (y : Nat × Nat × Split) (s1 : State), gsyncMeets s g g2 y s1 ∧
    g2.appendFailure.isSome = true := by
  refine ⟨failLab, gangIn failLab, gangIn ((failLab.writeAppends 1).getD lab), firstOf failLab, (failLab.writeAppends 1).getD lab,
    ⟨some_of _ ?_, ?_, ?_, ?_, ?_, ?_, ?_, some_of _ ?_, ?_, some_of lab ?_, some_of _ ?_⟩, ?_⟩ <;> decide +kernel

theorem mem_enumFrom {α : Type} {xs : List α} : ∀ {n : Nat} {y : Nat × α}, y ∈ enumFrom n xs → y.2 ∈ xs := by
  induction xs with
  | nil => intro n y h; cases h
  | cons x xs ih =>
    intro n y h
    rcases List.mem_cons.mp h with rfl | h
    · exact List.mem_cons_self
    · exact List.mem_cons_of_mem _ (ih h)

/-- Where no engine has a command or a line to write, and no line is held in a stash, no line is busy. -/
theorem physBusy_quiet {s : State} (h1 : s.commands = []) (h3 : s.saves = []) (h2 : ∀ c, c ∈ s.cores → c.stash = [] ∧ ∀ st, st ∈ c.streams.toList → st.remaining = []) (l : Nat)
    (w : Bool) : s.physBusy l w = false := by
  have h4 : s.copyBusy l w = false := by
    unfold State.copyBusy
    rw [List.any_eq_false]
    intro c hc h
    unfold CoreRec.copies at h
    rw [(h2 c.2 (mem_enumFrom hc)).1] at h
    cases h
  have h5 : s.drainOwns l = false := by
    unfold State.drainOwns
    rw [h3, List.any_nil, Bool.or_false, List.any_eq_false]
    intro c hc h
    rw [← Vector.any_toList, List.any_eq_true] at h
    obtain ⟨st, hst, h⟩ := h
    rw [(h2 c hc).2 st hst] at h
    cases h
  unfold State.physBusy State.commandOwns
  rw [h1, h4, h5]
  rfl

/-- RPMARK with the state area at the second page. -/
def markW : Wait := .rpmark 0x20000 0x10000 0
def flushed : State :=
  (((writtenAt markW).copiesOf (gangIn (afterBarrier markW))).foldl (fun o x => o.bind (fun t => State.flushStash t x))
    (some (writtenAt markW))).getD lab

theorem writeMark_some {s s1 : State} {g g1 : Gang} {ids : List Nat} {a pc : Word}
    (h1 : (s.copiesOf g).foldl (fun o x => o.bind (fun t => State.flushStash t x)) (some s) = some s1) (h2 : s1.gang? g.id = some g1)
    (h3 : ∀ l, s1.physBusy l true = false) : ∃ t, s.writeMark g ids a pc = some t := by
  have h5 : ∀ ls : List Nat, ls.any (fun l => s1.physBusy l true) = false := fun ls => List.any_eq_false.mpr (fun l _ h => by
    rw [h3] at h; cases h)
  unfold State.writeMark
  split
  next h =>
    exfalso
    have h6 : (s.copiesOf g).foldl (fun o x => o.bind (fun t => State.flushStash t x)) (some s) = none := by
      rw [← h]; congr 1; funext o x; cases o <;> rfl
    rw [h1] at h6; cases h6
  next t h =>
    have h6 : (s.copiesOf g).foldl (fun o x => o.bind (fun t => State.flushStash t x)) (some s) = some t := by
      rw [← h]; congr 1; funext o x; cases o <;> rfl
    obtain rfl : s1 = t := Option.some.inj (h1.symm.trans h6)
    simp only [h2, h5]
    exact ⟨_, rfl⟩

theorem writeMark_lab : ∃ t, (writtenAt markW).writeMark (gangIn (afterBarrier markW)) [1] 0x20000 ((firstOf (afterBarrier markW)).2.2.pc + 12) = some t :=
  writeMark_some (s1 := flushed) (g1 := (flushed.gang? (gangIn (afterBarrier markW)).id).getD (gangIn lab)) (some_of lab (by decide +kernel))
    (some_of _ (by decide +kernel)) (fun l => physBusy_quiet (by decide +kernel) (by decide +kernel) (by decide +kernel) l true)

theorem test_witness_SplitAndDeckleEvents_mark : ∃ (s : State) (g g1 g2 : Gang) (y z : Nat × Nat × Split) (s1 t : State), s.gang? 1 = some g ∧ g.pair = none ∧
    g.groups ≠ [] ∧ (∀ x, x ∈ g.groups → x.arrived = true) ∧ g.run = .running ∧ g.halt = none ∧ g.pend = [] ∧ g.firstSplit = some y ∧
    y.2.2.mark = some (0x20000, 0x10000) ∧ (s.compact 1).gang? 1 = some g1 ∧ g1.pair = none ∧ g1.firstSplit = some z ∧
    g1.otherMark (0x20000, 0x10000) = none ∧ (s.compact 1).markFault g1 0x20000 0x10000 = none ∧ (s.compact 1).writeAppends 1 = some s1 ∧
    s1.gang? 1 = some g2 ∧ g2.appendFailure = none ∧ s1.drained g1 = true ∧ s1.writeMark g1 [1] 0x20000 (z.2.2.pc + 12) = some t := by
  obtain ⟨t, ht⟩ := writeMark_lab
  refine ⟨barrierLab markW, gangIn (barrierLab markW), gangIn (afterBarrier markW), gangIn (writtenAt markW), firstOf (barrierLab markW),
    firstOf (afterBarrier markW), writtenAt markW, t, some_of _ ?_, ?_, ?_, ?_, ?_, ?_, ?_, some_of _ ?_, ?_, some_of _ ?_, ?_, some_of _ ?_, ?_, ?_,
    some_of lab ?_, some_of _ ?_, ?_, ?_, ht⟩ <;> decide +kernel

end Sys2Proof.Tests.WitnessH
end

