-- ==== Sys2Proof/Tests/WitnessI.lean ====
section
/-! SUPPORT. States and operands that meet the hypotheses of the statements about the events of the schedulers, of traps and of errors, one theorem for
each clause. -/

namespace Sys2Proof.Tests.WitnessI

open Sys2Proof.Machine Sys2Proof.Claims Sys2Proof.Tests

set_option maxRecDepth 100000
set_option Elab.async false

def theGang (s : State) : Gang := (s.gang? 1).getD (issAt lab {} 12).gang
def theSplit (s : State) (f : Focus) : Split := (s.split? f).getD (Split.start 0 0 0)

/-! ## Queues and distributors (14, 15) -/

/-- An object in the last line of the page whose items begin at the page; its first record is the task's. -/
def objectHdr (kind cap tail : Nat) : Hdr :=
  { base := 0x10000, cap := cap, kind := kind, prio := 0, die := 0, valid := true, owner := 1, head := 0, tail := tail, badrec := 0, dropped := 0 }
def objectOf (kind el timer : Nat) : QueueObj :=
  { hdr := 0xFFC0, va := 0x1FFC0, ctx := 1, kind := kind, die := 0, fn := 0, aperture := 7, prio := 0, el := el, timer := timer, waited := 0
    holding := false, onchip := [] }
def objectLab (t : TaskRec) (kind cap tail el timer : Nat) : State :=
  { lab with
    mem := (lab.mem.writeBytes 0 t.toBytes).writeBytes 0xFFC0 (objectHdr kind cap tail).bytes, queues := [objectOf kind el timer]
    boot := { lab.boot with state := 3 } }

def line64 : List Byte := zeroBytes 64

theorem test_witness_SchedulerEvents_command : ∃ (s : State) (data : List Byte), s.boot.state ≠ 0 ∧ data.length = 64 :=
  ⟨{ State.reset with boot := { State.reset.boot with state := 15 } }, line64, by decide, by decide⟩

theorem test_witness_SchedulerEvents_push : ∀ full : Bool, ∃ (s : State) (q : QueueObj) (data : List Byte), s.boot.state ≠ 0 ∧ data.length = 64 ∧
    s.queues.find? (fun q => q.fn == 0 && q.aperture == 7) = some q ∧ s.physBusy (q.hdr / 128) true = false ∧ (s.pushOutside q data).isNone = full := by
  intro full
  cases full
  · exact ⟨objectLab (oneGroup 1) 0 8 0 0 0, objectOf 0 0 0, line64, by decide +kernel, by decide, by decide +kernel, by decide +kernel, by decide +kernel⟩
  · exact ⟨objectLab (oneGroup 1) 0 8 1 0 0, objectOf 0 0 0, line64, by decide +kernel, by decide, by decide +kernel, by decide +kernel, by decide +kernel⟩

def succLab (queue : Word) : State := { objectLab (oneGroup 1) 1 1 0 0 0 with succs := [{ ctx := 1, queue := queue, record := 0x10000, die := 0 }] }
def succFail : Nat × Nat := match (succLab 0x1FFC1).succCheck { ctx := 1, queue := 0x1FFC1, record := 0x10000, die := 0 } with
  | .error e => e
  | .ok _ => (0, 0)

theorem test_witness_SchedulerEvents_successorFails : ∃ (s : State) (p : SuccPush) (e : Nat × Nat), s.succs[0]? = some p ∧ s.succCheck p = .error e :=
  ⟨succLab 0x1FFC1, { ctx := 1, queue := 0x1FFC1, record := 0x10000, die := 0 }, succFail, by decide +kernel, by decide +kernel⟩

def succReached : State := ({ succLab 0x1FFC0 with succs := [] } : State).reach 0 false |>.reach (0xFFC0 / 128) true

theorem test_witness_SchedulerEvents_successor : ∃ (s : State) (p : SuccPush) (r q : Nat) (bs : List Byte) (t : State), s.succs[0]? = some p ∧
    s.succCheck p = .ok (r, q) ∧ s.physBusy (q / 128) true = false ∧ s.physBusy (r / 128) false = false ∧
    let s2 := (({ s with succs := s.succs.eraseIdx 0 } : State).reach (r / 128) false).reach (q / 128) true
    stampRecord (s2.homeRead p.ctx p.record 64) p.ctx = some bs ∧ s2.recordGood p.ctx bs = true ∧ s2.push 0 (.tspawn q bs) = some t :=
  ⟨succLab 0x1FFC0, { ctx := 1, queue := 0x1FFC0, record := 0x10000, die := 0 }, 0, 0xFFC0, (oneGroup 1).toBytes, _, by decide +kernel, by decide +kernel,
    by decide +kernel, by decide +kernel, by decide +kernel, by decide +kernel, some_of lab (by decide +kernel)⟩

def readyQueues : State := objectLab (oneGroup 1) 1 1 1 7 0
def bestOf : QueueObj × HeadFound := (bestQueue (readyQueues.candidates 0)).getD (objectOf 1 0 0, .bad)

theorem test_witness_SchedulerEvents_dispatch : ∃ (s : State) (q : QueueObj) (t : TaskRec) (p : (Nat × Nat) × Option (Nat × Nat)),
    (s.die? 0).nextDispatch ≤ (s.die? 0).clock.toNat ∧
    (∀ q, q ∈ s.queues → s.served 0 q = true → s.physBusy (q.hdr / 128) true = false) ∧ bestQueue (s.candidates 0) = some (q, .task t p) := by
  have h : ∃ q t p, bestOf = (q, .task t p) := by
    cases hb : bestOf with
    | mk q f =>
      cases f with
      | task t p => exact ⟨q, t, p, rfl⟩
      | bad =>
        have h1 : (match bestOf.2 with | .bad => true | _ => false) = false := by decide +kernel
        rw [hb] at h1; cases h1
  obtain ⟨q, t, p, h⟩ := h
  exact ⟨readyQueues, q, t, p, by decide +kernel, by decide +kernel, (some_of (objectOf 1 0 0, .bad) (by decide +kernel)).trans (congrArg some h)⟩

def agedAt (el : Nat) : Nat := ((lab.die? 0).ageing.toList.getD el 0).toNat * clocksPerUs

theorem test_witness_SchedulerEvents_raise : ∃ (s : State) (q : QueueObj), s.queues[0]? = some q ∧ q.kind = 1 ∧ 0 < (s.hdr q.hdr).occ ∧ q.el = 6 ∧
    s.aged q = true :=
  ⟨objectLab (oneGroup 1) 1 1 1 6 (agedAt 6), objectOf 1 6 (agedAt 6), by decide +kernel⟩

/-- A task of the whole vat, on a die whose cores each have a gang. -/
def wideTask : TaskRec := { oneGroup 1 with prog := 2040 }
def crowded : State :=
  let s := objectLab wideTask 1 1 1 7 (agedAt 7)
  { s with gangs := (s.part.coresOf 0 ++ s.part.coresOf 1 ++ s.part.coresOf 2 ++ s.part.coresOf 3).map (fun c => { theGang s with core := c }) }

theorem test_witness_SchedulerEvents_holding : ∃ (s : State) (q : QueueObj) (bs : List Byte), s.queues[0]? = some q ∧ s.headRecord q = some bs ∧
    s.served q.die q = true ∧ q.el = 7 ∧ q.holding = false ∧ s.aged q = true ∧ s.recordGood q.ctx bs = true ∧
    s.lacksBlock q (TaskRec.ofBytes bs) = true :=
  ⟨crowded, objectOf 1 7 (agedAt 7), wideTask.toBytes, by decide +kernel⟩

def stopLab : State := labWith (fun g => { g with run := .preempted })

theorem test_witness_SchedulerEvents_migration : ∃ (s : State) (g : Gang) (at_ : Nat × Nat), s.gang? 1 = some g ∧ g.run = .preempted ∧
    s.migrationPlace g = some at_ :=
  ⟨stopLab, theGang stopLab, (stopLab.migrationPlace (theGang stopLab)).getD (0, 0), some_of _ (by decide +kernel), by decide +kernel,
    some_of _ (by decide +kernel)⟩

def moved : Forwarding := { gang := 1, oldCore := 127, newCore := 0, oldBase := 0, newBase := 0, left := 0, before := 5 }
def arrived (gang core : Nat) : Arrival := { gang := gang, core := core, base := 0, addr := 0x12FF0, bytes := 128 }
def forwardLab : State := { lab with forwards := [moved], arrivals := [arrived 1 0, arrived 1 127] }

theorem test_witness_SchedulerEvents_forwarded : ∃ (s : State) (f : Forwarding) (pre post : List Arrival) (a : Arrival), s.forwards[0]? = some f ∧
    s.arrivals = pre ++ a :: post ∧ (∀ b, b ∈ pre → ¬(b.gang = f.gang ∧ b.core = f.oldCore ∧ b.base = f.oldBase)) ∧
    a.gang = f.gang ∧ a.core = f.oldCore ∧ a.base = f.oldBase :=
  ⟨forwardLab, moved, [arrived 1 0], [], arrived 1 127, rfl, rfl, by decide, rfl, rfl, rfl⟩

theorem test_witness_SchedulerEvents_expires : ∃ (s : State) (f : Forwarding), s.forwards[0]? = some f ∧ f.left = 0 ∧
    (∀ c, c ∈ s.commands → c.gang = f.gang → f.before ≤ c.id) ∧ s.olderStream f.gang f.before = false :=
  ⟨forwardLab, moved, rfl, rfl, by decide +kernel, by decide +kernel⟩

def idleLab : State := lab.modSplit here (fun sp => { sp with idle := 64 })

theorem test_witness_SchedulerEvents_boost : ∃ (s : State) (f : Focus) (sp : Split), s.split? f = some sp ∧ f.split < 4 ∧ sp.status = .ready ∧
    sp.boost = none ∧ sp.idle = 64 :=
  ⟨idleLab, here, theSplit idleLab here, some_of _ (by decide +kernel), by decide, by decide +kernel, by decide +kernel, by decide +kernel⟩

/-- MWAIT of batch 15 at the page. -/
def waitWord : List Byte := (encode (.mwait { n := 15 })).getD []
def wakeLab : State :=
  { lab.modSplit here (fun sp => { sp with status := .stalled .busy false }) with mem := lab.mem.writeBytes 0 waitWord }

theorem test_witness_SchedulerEvents_wake : ∃ (s : State) (f : Focus) (sp : Split), s.split? f = some sp ∧ sp.status = .stalled .busy false ∧
    s.instrAt f = .mwait { n := 15 } :=
  ⟨wakeLab, here, theSplit wakeLab here, some_of _ (by decide +kernel), by decide +kernel, by decide +kernel⟩

/-! ## Traps, calls, pre-emption (16) -/

def trapWith (cause : Nat) : TrapInfo := { cause := cause, sub := 0, kind := 0, lanes := 1, addr := 0, info := 0 }
def haltWith (p : HaltPhase) (cause : Nat) (double : Option TrapInfo) : Halt :=
  { trap := trapWith cause, group := 0, split := 0, pc := 0x10000, npc := 0x1000C, execm := 1, phase := p, skid := [(0, 0)], ended := [], double := double, dpc := 0, dnpc := 0, dexec := 0 }
def haltedLab (hdeleg : Word) (h : Halt) : State := labWith (fun g => { g with halt := some h, csr := { g.csr with hvec := 0x10000, hdeleg := hdeleg } })

theorem test_witness_TrapEvents_skid : ∃ (s : State) (g : Gang) (h : Halt), s.gang? 1 = some g ∧ g.halt = some h ∧ h.phase = .skid :=
  ⟨haltedLab 0 (haltWith .skid 0x12 none), theGang (haltedLab 0 (haltWith .skid 0x12 none)), haltWith .skid 0x12 none, some_of _ (by decide +kernel),
    by decide +kernel, rfl⟩

def givenLab : State := haltedLab (BitVec.allOnes 64) (haltWith .stopped 0x12 none)

theorem test_witness_TrapEvents_delivery : ∃ (s : State) (g : Gang) (h : Halt), s.gang? 1 = some g ∧ g.halt = some h ∧ h.phase = .stopped ∧
    g.run = .running ∧ g.pair = none ∧ g.delegated h = true ∧ s.poolGrowth g h = none ∧
    ∀ l, l ∈ rangeLines g.framePhys 12288 → s.physBusy l true = false :=
  ⟨givenLab, theGang givenLab, haltWith .stopped 0x12 none, some_of _ (by decide +kernel), by decide +kernel, rfl, by decide +kernel⟩

def twiceLab : State := haltedLab 0 (haltWith .handling 0x12 (some (trapWith 1)))

theorem test_witness_TrapEvents_double : ∃ (s : State) (g : Gang) (h : Halt) (t : TrapInfo), s.gang? 1 = some g ∧ g.halt = some h ∧ h.double = some t ∧
    g.run = .running ∧ g.pair = none :=
  ⟨twiceLab, theGang twiceLab, haltWith .handling 0x12 (some (trapWith 1)), trapWith 1, some_of _ (by decide +kernel), by decide +kernel, rfl,
    by decide +kernel, by decide +kernel⟩

def endsLab (cause : Nat) : State := haltedLab 0 (haltWith .stopped cause none)
/-- A BECOME of two threads a lane for which the gang has no second slot and no spill area: the area can grow, or the trap is not delegated. -/
def growLab : State :=
  let s := (endsLab 0x0A).modCtx 1 (fun c => { c with pool := 1 })
  { s with mem := s.mem.writeBytes 0 ((encode (.becomeExt { carry := 0, b := .short 2 })).getD []) }

theorem test_witness_TrapEvents_ends : ∀ grows : Bool, ∃ (s : State) (g : Gang) (h : Halt), s.gang? 1 = some g ∧ g.halt = some h ∧ h.double = none ∧
    h.phase = .stopped ∧ g.run = .running ∧ g.pair = none ∧ (∀ l, l ∈ rangeLines g.framePhys 12288 → s.physBusy l true = false) ∧
    (s.poolGrowth g h).isSome = grows ∧ g.delegated h = false := by
  intro grows
  cases grows
  · refine ⟨endsLab 0x12, theGang (endsLab 0x12), haltWith .stopped 0x12 none, some_of _ ?_, ?_, rfl, rfl, ?_, ?_, ?_, ?_, ?_⟩ <;> decide +kernel
  · refine ⟨growLab, theGang growLab, haltWith .stopped 0x0A none, some_of _ ?_, ?_, rfl, rfl, ?_, ?_, ?_, ?_, ?_⟩ <;> decide +kernel

theorem test_witness_TrapEvents_consumed : ∃ (s : State) (g : Gang) (h : Halt), h.trap.cause = 0x15 ∧ s.isTrail g.id = false :=
  ⟨endsLab 0x15, theGang (endsLab 0x15), haltWith .stopped 0x15 none, rfl, by decide +kernel⟩

/-- SYSCALL of a number at the page, the one live lane waiting. -/
def callWord (n : Byte) : List Byte := (encode (.syscall { n := n })).getD []
def callLab (n : Byte) : State :=
  { (labGroup (fun g => g.setSplit 0 (some { Split.start 0x10000 1 0 with status := .waiting .syscall }))) with mem := lab.mem.writeBytes 0 (callWord n) }
def answer : SysAnswer := { result := 0, data := [] }
def callGang (n : Byte) : Caller := { g := theGang (callLab n), f := here }

theorem test_witness_TrapEvents_call : ∃ (s : State) (g : Gang) (f : Focus) (x : SyscallI) (sp : Split) (t : State × List Word), s.gang? 1 = some g ∧
    s.callFocus 1 0 = some f ∧ s.instrAt f = .syscall x ∧ s.split? f = some sp ∧ g.pairStopped = false ∧ g.moves = true ∧
    [answer].length = (lanesOf sp.lanes).length ∧ x.n.toNat = 10 ∧ s.laneCalls { g := g, f := f } x.n.toNat ((lanesOf sp.lanes).zip [answer]) = some t :=
  ⟨callLab 10, theGang (callLab 10), here, { n := 10 }, theSplit (callLab 10) here, _, some_of _ (by decide +kernel), by decide +kernel, by decide +kernel,
    some_of _ (by decide +kernel), by decide +kernel, by decide +kernel, by decide +kernel, rfl, some_of (lab, []) (by decide +kernel)⟩

theorem test_witness_TrapEvents_exitCall : ∃ (s : State) (g : Gang) (f : Focus) (x : SyscallI) (sp : Split), s.gang? 1 = some g ∧
    s.callFocus 1 0 = some f ∧ s.instrAt f = .syscall x ∧ s.split? f = some sp ∧ g.pairStopped = false ∧ g.moves = true ∧
    [answer].length = (lanesOf sp.lanes).length ∧ x.n.toNat = 16 :=
  ⟨callLab 16, theGang (callLab 16), here, { n := 16 }, theSplit (callLab 16) here, some_of _ (by decide +kernel), by decide +kernel, by decide +kernel,
    some_of _ (by decide +kernel), by decide +kernel, by decide +kernel, by decide +kernel, rfl⟩

def drainLab : State := labWith (fun g => { g with run := .preempting })
def emptyLab : State := labWith (fun g => { g with groups := [] })

theorem test_witness_TrapEvents_stops : ∃ (s : State) (g : Gang) (u : State) (h : Gang) (t : State) (v w : State), s.gang? 1 = some g ∧ g.run = .running ∧
    g.pairStopped = false ∧ u.gang? 1 = some h ∧ h.run = .preempting ∧ u.acknowledged h = true ∧ u.fenceGang h.id = some t ∧ v.exitGang 1 = some w :=
  ⟨lab, theGang lab, drainLab, theGang drainLab, _, emptyLab, _, some_of _ (by decide +kernel), by decide +kernel, by decide +kernel,
    some_of _ (by decide +kernel), by decide +kernel, by decide +kernel, some_of lab (by decide +kernel), some_of lab (by decide +kernel)⟩

theorem test_witness_TrapEvents_save : ∃ (s t : State) (g : Gang), s.gangs = [g] ∧ g.run = .preempted ∧ g.pairStopped = false ∧ s.saveGang g = some t := by
  have h : stopLab.gangs.length = 1 := by decide +kernel
  obtain ⟨g, hg⟩ := List.length_eq_one_iff.mp h
  have h0 : stopLab.gangs.headD (theGang lab) = g := by rw [hg]; rfl
  refine ⟨stopLab, _, g, hg, ?_, ?_, some_of lab ?_⟩ <;> rw [← h0] <;> decide +kernel

theorem test_witness_TrapEvents_switch : ∃ (s : State) (ctx : Nat),
    s.gangs.filter (fun g => g.ctx == ctx && !g.pairStopped && decide (g.run = .running)) ≠ [] ∧ ∀ g, g ∈ s.gangs → g.ctx = ctx → g.run ≠ .preempted :=
  ⟨lab, 1, by decide +kernel, by decide +kernel⟩

theorem test_witness_TrapEvents_restore : ∃ (s : State) (ctx : Nat), s.gangs.filter (fun g => g.ctx == ctx && decide (g.run = .preempted)) ≠ [] :=
  ⟨stopLab, 1, by decide +kernel⟩

/-! ## Errors (17) -/

def errorAt (struct : Fin 14) (loc : Nat) (hard : Bool) : EvError := { struct := struct, gang := 1, group := 0, die := 0, core := 0, loc := loc, hard := hard }
def struckBy : Struck := { s := lab, owner := 0, die := 0, core := 0, outcome := 0 }

theorem test_witness_ErrorEvents_strikes : ∃ (s : State) (e : EvError) (r : Struck), s.strike e false = some r ∧ e.struct = 12 :=
  ⟨lab, errorAt 12 0 false, _, some_of struckBy (by decide +kernel), rfl⟩

theorem test_witness_ErrorEvents_noCore : ∃ (s : State) (e : EvError), e.struct.val ∈ [0, 1, 13] ∧ s.part.coreCount ≤ e.core :=
  ⟨lab, { errorAt 13 0 false with core := 128 }, by decide, by decide +kernel⟩

theorem test_witness_ErrorEvents_corrected : ∃ (s : State) (e : EvError), (e.struct.val ∈ [0, 1, 13] → e.core < s.part.coreCount) ∧ e.hard = true :=
  ⟨lab, errorAt 13 0 true, fun _ => by decide +kernel, rfl⟩

def lateEntry (carry : Option (Nat × Nat)) : ReplayEntry :=
  { gang := 1, group := 0, partition := 0, load := { lanes := 1, regs := [], vals := [(255, 31, 7)], uni := none, carry := carry, tile := [], sync := none }
    port := none, pred := none, wrong := 1 }
def lateLab (carry : Option (Nat × Nat)) : State :=
  lab.modCore 0 (fun c => { c with replay := [{ lateEntry carry with partition := 31 }, lateEntry carry] })

theorem test_witness_ErrorEvents_replay : ∀ queue : Bool, ∃ (s : State) (r : ReplayEntry) (t : State), (s.core? 0).replay[1]? = some r ∧
    (∀ x, x ∈ (s.core? 0).replay.take 1 → x.partition ≠ r.partition) ∧
    (s.modCore 0 (fun c => { c with replay := c.replay.eraseIdx 1 })).writeReplayed r = some t ∧ r.port = none ∧ r.load.carry.isSome = queue ∧ r.wrong = 1 := by
  intro queue
  cases queue
  · exact ⟨lateLab none, lateEntry none, _, by decide +kernel, by decide +kernel, some_of lab (by decide +kernel), rfl, rfl, rfl⟩
  · exact ⟨lateLab (some (7, 0)), lateEntry (some (7, 0)), _, by decide +kernel, by decide +kernel, some_of lab (by decide +kernel), rfl, rfl, rfl⟩

def injection (kind : Nat) : Injection :=
  { group := 0, kind := kind, struct := 0, target := 0x7FFC, lane := 0, bitNo := 31, remaining := 0, live := true }
def firesLab (kind : Nat) : State := labWith (fun g => { g with injections := [injection kind] })
def firesNext (kind : Nat) : State := (firesLab kind).modGang 1 (fun g => { g with injections := g.injections.eraseIdx 0 })

theorem test_witness_ErrorEvents_injection : ∀ kind, kind = 1 ∨ kind = 2 → ∃ (s : State) (g : Gang) (j : Injection) (x : EvError), s.gang? 1 = some g ∧
    g.injections[0]? = some j ∧ j.live = true ∧ j.remaining = 0 ∧ j.kind = kind ∧
    let s1 := s.modGang 1 (fun g => { g with injections := g.injections.eraseIdx 0 })
    s1.injectionError g j = some x ∧ (kind = 2 → s1.targetThere x = true ∧ (s1.uncorrectable x 4).isSome = true) := by
  intro kind h
  rcases h with rfl | rfl
  · exact ⟨firesLab 1, theGang (firesLab 1), injection 1, _, some_of _ (by decide +kernel), by decide +kernel, rfl, rfl, rfl,
      some_of (errorAt 0 0 false) (by decide +kernel), by decide⟩
  · exact ⟨firesLab 2, theGang (firesLab 2), injection 2, ((firesNext 2).injectionError (theGang (firesLab 2)) (injection 2)).getD (errorAt 0 0 false),
      some_of _ (by decide +kernel), by decide +kernel, rfl, rfl, rfl, some_of _ (by decide +kernel), by decide +kernel⟩

/-- The gang has no reservation for an injection into its press. -/
def missLab : State := labWith (fun g => { g with injections := [{ injection 2 with struct := 3 }] })
def missNext : State := missLab.modGang 1 (fun g => { g with injections := g.injections.eraseIdx 0 })

theorem test_witness_ErrorEvents_missed : ∃ (s : State) (g : Gang) (j : Injection), s.gang? 1 = some g ∧ g.injections[0]? = some j ∧ j.live = true ∧
    j.remaining = 0 ∧ j.kind = 2 ∧ ∀ x, missNext.injectionError g j = some x → missNext.targetThere x = false :=
  ⟨missLab, theGang missLab, { injection 2 with struct := 3 }, some_of _ (by decide +kernel), by decide +kernel, rfl, rfl, rfl, by
    intro x hx
    have h : (missNext.injectionError (theGang missLab) { injection 2 with struct := 3 }).all (fun x => !missNext.targetThere x) = true := by decide +kernel
    rw [hx] at h
    simpa using h⟩

theorem test_witness_ErrorEvents_loss : ∃ (s : State) (chip : Nat), chip ∉ s.part.lostPeers ∧ (∃ p, p ∈ s.part.peers ∧ p.1 = chip) ∧ s.seals = [] :=
  ⟨{ lab with part := { lab.part with peers := [(511, 0)] } }, 511, by decide +kernel, ⟨(511, 0), by decide, rfl⟩, by decide +kernel⟩

end Sys2Proof.Tests.WitnessI
end

