-- ==== Sys2Proof/Tests/WitnessJ.lean ====
section
/-! SUPPORT. States and operands that meet the hypotheses of the statements about the events of pairs and seals, of resets and the host, and about Ezden's
commands, one theorem for each clause. -/

namespace Sys2Proof.Tests.WitnessJ

open Sys2Proof.Machine Sys2Proof.Claims Sys2Proof.Tests

set_option maxRecDepth 100000
set_option Elab.async false

def theGang (s : State) : Gang := (s.gang? 1).getD (issAt lab {} 12).gang
def theCtx (s : State) : Context := (s.ctx? 1).getD (Context.fresh 1 0 0)

/-! ## Pairs (17, 18) -/

def pairWith (role : PairRole) (other : Nat) (st : PairState) (sigs : List (Nat × W32 × Bool)) : Pair :=
  { Pair.fresh role other 1 with state := st, sigs := sigs }

/-- Gang 1 leads on core 0, gang 2 trails on core 127; the newest recovery point has the given generation, its area at the page. -/
def twins (st : PairState) (a b : List (Nat × W32 × Bool)) (gen : W32) : State :=
  let g := gangFor { oneGroup 1 with paired := true }
  let r : Rpt := { gen := gen, pc := 0x10000, state := 0x10000, durpend := false, base := 0 }
  { lab with
    gangs := [{ g with pair := some (pairWith .lead 2 st a), rpt := r }, { g with id := 2, core := 127, pair := some (pairWith .trail 1 st b), rpt := r }]
    nextGang := 3 }
def pairAt (s : State) : PairOf :=
  (s.pairOf 1).getD { lead := theGang lab, trail := theGang lab, p := pairWith .lead 2 .run [], q := pairWith .trail 1 .run [] }

def oneSig (v : W32) : List (Nat × W32 × Bool) := [(255, v, true)]
def meeting (a b : W32) : Nat × (W32 × Bool) × (W32 × Bool) := (255, (a, true), (b, true))

theorem test_witness_PairAndSealEvents_match : ∃ (s : State) (o : PairOf) (m : Nat × (W32 × Bool) × (W32 × Bool)), s.pairOf 1 = some o ∧
    o.p.state ≠ .rollback ∧ o.p.state ≠ .terminated ∧ (meetings o.p.sigs o.q.sigs).find? (fun m => decide (m.2.1 = m.2.2)) = some m :=
  ⟨twins .run (oneSig 7) (oneSig 7) 0, pairAt (twins .run (oneSig 7) (oneSig 7) 0), meeting 7 7, some_of _ (by decide +kernel), by decide +kernel,
    by decide +kernel, by decide +kernel⟩

theorem test_witness_PairAndSealEvents_differ : ∀ st, st = .run ∨ st = .replay → ∃ (s : State) (o : PairOf), s.pairOf 1 = some o ∧ o.p.state = st ∧
    ∃ m, m ∈ meetings o.p.sigs o.q.sigs ∧ m.2.1 ≠ m.2.2 := by
  intro st h
  rcases h with rfl | rfl
  · exact ⟨twins .run (oneSig 7) (oneSig 8) 0, pairAt (twins .run (oneSig 7) (oneSig 8) 0), some_of _ (by decide +kernel), by decide +kernel, meeting 7 8,
      by decide +kernel, by decide⟩
  · exact ⟨twins .replay (oneSig 7) (oneSig 8) 0, pairAt (twins .replay (oneSig 7) (oneSig 8) 0), some_of _ (by decide +kernel), by decide +kernel,
      meeting 7 8, by decide +kernel, by decide⟩

def logged : State := (twins .rollback [] [] 0).modPair 1 (fun p => { p with plog := true })

theorem test_witness_PairAndSealEvents_ends : ∀ over_ : Bool, ∃ (s : State) (o : PairOf), s.pairOf 1 = some o ∧
    (if over_ then o.p.state = .terminated else o.p.state = .rollback ∧ o.p.plog = true) := by
  intro over_
  cases over_
  · exact ⟨logged, pairAt logged, some_of _ (by decide +kernel), by decide +kernel⟩
  · exact ⟨twins .terminated [] [] 0, pairAt (twins .terminated [] [] 0), some_of _ (by decide +kernel), by decide +kernel⟩

def stopped : State := twins .rollback [] [] 0
def drainedOf (s : State) : State := (s.fenceAll [1, 2]).getD lab

theorem test_witness_PairAndSealEvents_restart : ∃ (s : State) (o : PairOf) (s1 t : State), s.pairOf 1 = some o ∧ o.p.state = .rollback ∧ o.p.plog = false ∧
    (∀ c, c ∈ s.commands → c.gang ≠ o.lead.id ∧ c.gang ≠ o.trail.id) ∧ o.lead.run ≠ .saved ∧ o.trail.run ≠ .saved ∧
    s.fenceAll [o.lead.id, o.trail.id] = some s1 ∧ o.lead.rpt.gen = 0 ∧ s1.restartPair o.lead o.trail = some t :=
  ⟨stopped, pairAt stopped, (stopped.fenceAll [(pairAt stopped).lead.id, (pairAt stopped).trail.id]).getD lab, _, some_of _ (by decide +kernel),
    by decide +kernel, by decide +kernel, by decide +kernel, by decide +kernel, by decide +kernel, some_of _ (by decide +kernel), by decide +kernel,
    some_of lab (by decide +kernel)⟩

/-- An area of no group: its header and nothing after it. -/
def smallArea : List Byte := leBytes 4 0x53545241 ++ leBytes 4 16 ++ leBytes 4 0 ++ leBytes 4 0
def areaLab : State := { twins .rollback [] [] 0xFFFFFFFF with mem := lab.mem.writeBytes 0 smallArea }
def areaOf : AreaParts := ((drainedOf areaLab).readArea 1 0x10000).getD (areaParts [])
def leadBack : State := ((drainedOf areaLab).restoreCopy 1 false areaOf 0).getD lab

theorem test_witness_PairAndSealEvents_restore : ∃ (s : State) (o : PairOf) (s1 : State) (a : AreaParts) (s2 s3 : State), s.pairOf 1 = some o ∧
    o.p.state = .rollback ∧ o.p.plog = false ∧ (∀ c, c ∈ s.commands → c.gang ≠ o.lead.id ∧ c.gang ≠ o.trail.id) ∧ o.lead.run ≠ .saved ∧
    o.trail.run ≠ .saved ∧ s.fenceAll [o.lead.id, o.trail.id] = some s1 ∧ o.lead.rpt.gen ≠ 0 ∧
    s1.readArea o.lead.ctx o.lead.rpt.state = some a ∧ s1.restoreCopy o.lead.id o.p.damaged a o.lead.rpt.base = some s2 ∧
    s2.restoreCopy o.trail.id o.q.damaged a o.lead.rpt.base = some s3 := by
  have hl : (pairAt areaLab).lead.id = 1 := by decide +kernel
  have ht : (pairAt areaLab).trail.id = 2 := by decide +kernel
  have hd : (pairAt areaLab).p.damaged = false := by decide +kernel
  have he : (pairAt areaLab).q.damaged = false := by decide +kernel
  have hc : (pairAt areaLab).lead.ctx = 1 := by decide +kernel
  have hs : (pairAt areaLab).lead.rpt.state = 0x10000 := by decide +kernel
  have hb : (pairAt areaLab).lead.rpt.base = 0 := by decide +kernel
  refine ⟨areaLab, pairAt areaLab, drainedOf areaLab, areaOf, leadBack, (leadBack.restoreCopy 2 false areaOf 0).getD lab, some_of _ (by decide +kernel),
    by decide +kernel, by decide +kernel, by decide +kernel, by decide +kernel, by decide +kernel, ?_, by decide +kernel, ?_, ?_, ?_⟩
  · rw [hl, ht]; exact some_of lab (by decide +kernel)
  · rw [hc, hs]; exact some_of _ (by decide +kernel)
  · rw [hl, hd, hb]; exact some_of lab (by decide +kernel)
  · rw [ht, he, hb]; exact some_of lab (by decide +kernel)

/-- The newest recovery point names a page that cannot be read. -/
def lostArea : State := (twins .rollback [] [] 1).modGang 1 (fun g => { g with rpt := { g.rpt with state := 0x80000 } })

theorem test_witness_PairAndSealEvents_lost : ∃ (s : State) (o : PairOf) (s1 : State), s.pairOf 1 = some o ∧ o.p.state = .rollback ∧ o.p.plog = false ∧
    (∀ c, c ∈ s.commands → c.gang ≠ o.lead.id ∧ c.gang ≠ o.trail.id) ∧ o.lead.run ≠ .saved ∧ o.trail.run ≠ .saved ∧
    s.fenceAll [o.lead.id, o.trail.id] = some s1 ∧ o.lead.rpt.gen ≠ 0 ∧ (s1.readArea o.lead.ctx o.lead.rpt.state).isNone = true := by
  have hl : (pairAt lostArea).lead.id = 1 := by decide +kernel
  have ht : (pairAt lostArea).trail.id = 2 := by decide +kernel
  refine ⟨lostArea, pairAt lostArea, drainedOf lostArea, some_of _ (by decide +kernel), by decide +kernel, by decide +kernel, by decide +kernel,
    by decide +kernel, by decide +kernel, ?_, by decide +kernel⟩
  rw [hl, ht]; exact some_of lab (by decide +kernel)

/-- The copies halt in the skid of one instruction, the lead by a breakpoint, the trail by an unaligned access. -/
def haltBy (cause : Nat) : Halt :=
  { trap := { cause := cause, sub := 0, kind := 0, lanes := 1, addr := 0, info := 0 }, group := 0, split := 0, pc := 0x10000, npc := 0x1000C, execm := 1
    phase := .skid, skid := [(0, 0)], ended := [], double := none, dpc := 0, dnpc := 0, dexec := 0 }
def trapped : State :=
  ((twins .run [] [] 0).modGang 1 (fun g => { g with halt := some (haltBy 0x12) })).modGang 2 (fun g => { g with halt := some (haltBy 0x04) })

theorem test_witness_PairAndSealEvents_traps : ∃ (s : State) (o : PairOf), s.pairOf 1 = some o ∧ o.p.state = .run ∧
    trapMismatch o.lead o.trail o.q = true :=
  ⟨trapped, pairAt trapped, some_of _ (by decide +kernel), by decide +kernel⟩

/-! ## Seals (18) -/

def sealGroup : CollGroup := { id := 255, chips := [0, 1, 2, 3, 4, 5, 6, 511], me := 0, tag := 1 }
def sealWait : CollWait :=
  { group := 255, gang := 1, slot := 0, split := 0, lanes := 1, pc := 0x10000, kind := .allreduce, op := .add, ty := .f32, n := 0, root := 0, dst := []
    src := [], isSeal := some 3 }
def sealLab : State := { lab with collWaits := [sealWait], collGroups := [sealGroup] }
def others (ok : Bool) : List PeerSeal := List.replicate 6 { ok := true, quota := 0, image := [], marks := [] } ++ [{ ok := ok, quota := 0, image := [], marks := [] }]

theorem test_witness_PairAndSealEvents_seal : ∀ ok : Bool, ∃ (s : State) (ps : List PeerSeal) (w : CollWait) (g : Gang) (cg : CollGroup) (c : Context)
    (up : UPReg), s.collWaits.find? (fun w => w.group == 255) = some w ∧ w.isSeal = some up ∧ s.gang? w.gang = some g ∧ g.pair = none ∧
    s.collGroups.find? (fun g => g.id == 255) = some cg ∧ s.ctx? g.ctx = some c ∧ ps.length = 7 ∧ (∀ x, x ∈ s.seals → x.wait.group ≠ 255) ∧
    ((s.sealOk c = true ∧ ∀ p, p ∈ ps → p.ok = true ∧ p.quota = c.quota) ↔ ok = true) := by
  intro ok
  cases ok
  · exact ⟨sealLab, others false, sealWait, theGang sealLab, sealGroup, theCtx sealLab, 3, by decide +kernel, rfl, some_of _ (by decide +kernel),
      by decide +kernel, by decide +kernel, some_of _ (by decide +kernel), by decide, by decide +kernel, by decide +kernel⟩
  · exact ⟨sealLab, others true, sealWait, theGang sealLab, sealGroup, theCtx sealLab, 3, by decide +kernel, rfl, some_of _ (by decide +kernel),
      by decide +kernel, by decide +kernel, some_of _ (by decide +kernel), by decide, by decide +kernel, by decide +kernel⟩

def slotOne : CkptSlot := { gen := 1, table := [], image := [], marks := [], parity := [], struck := false, records := [], bases := [] }
def copied : Seal := { ctx := 1, wait := sealWait, record := [] }
def copiedLab : State := ({ lab with seals := [copied] } : State).modCtx 1 (fun c => { c with slots := #v[none, some slotOne] })

theorem test_witness_PairAndSealEvents_commit : ∃ (s : State) (x : Seal) (c : Context) (k : CkptSlot),
    s.seals.find? (fun x => x.wait.group == 255) = some x ∧ s.ctx? x.ctx = some c ∧ c.slots[c.nextSlot.val] = some k :=
  ⟨copiedLab, copied, theCtx copiedLab, slotOne, by decide +kernel, some_of _ (by decide +kernel), by decide +kernel⟩

/-! ## Resets, the boot and the host (01, 19) -/

def booting (b : BitVec 4) : State := { State.reset with boot := { State.reset.boot with state := b } }

theorem test_witness_ResetAndHostEvents_boot : ∃ a b c d : State, a.boot.state = 0 ∧ b.boot.state = 2 ∧ c.boot.state = 1 ∧ d.boot.state = 2 :=
  ⟨booting 0, booting 2, booting 1, booting 2, rfl, rfl, rfl, rfl⟩

/-- The last function has a window on the context of the page. -/
def windowLab : State := lab.modFn 16 (fun f => { f with window := some (1, 0) })

theorem test_witness_ResetAndHostEvents_windowFails : ∀ k, k = .read ∨ k = .write → ∃ (s : State) (ofs n ctx : Nat) (va : Word) (err : Nat × Nat),
    s.windowRange 16 ofs n k = some (ctx, va, .error err) := by
  intro k h
  rcases h with rfl | rfl
  · exact ⟨windowLab, 0xFFFF, 2, 1, 0xFFFF, (5, 2), by decide +kernel⟩
  · exact ⟨windowLab, 0x1FFFF, 2, 1, 0x20000, (5, 2), by decide +kernel⟩

def lastByte : List (Nat × Bool) := [(0xFFFF, false)]

theorem test_witness_ResetAndHostEvents_window : ∀ k, k = .read ∨ k = .write → ∃ (s : State) (ofs n ctx : Nat) (va : Word) (bs : List (Nat × Bool)),
    s.windowRange 16 ofs n k = some (ctx, va, .ok bs) ∧ n = 1 ∧
    ∀ l, l ∈ linesOf (bs.map (fun b => b.1)) → s.physBusy l (decide (k = .write)) = false := by
  intro k h
  rcases h with rfl | rfl
  · exact ⟨windowLab, 0x1FFFF, 1, 1, 0x1FFFF, lastByte, by decide +kernel, rfl, by decide +kernel⟩
  · exact ⟨windowLab, 0x1FFFF, 1, 1, 0x1FFFF, lastByte, by decide +kernel, rfl, by decide +kernel⟩

/-! ## Ezden's commands (19) -/

/-- A record: its code, a completion at host address 0x1000, and its arguments. -/
def recordOf (opc : Nat) (args : List Byte) : List Byte := padTo 64 (leBytes 2 opc ++ zeroBytes 2 ++ leBytes 4 0xFFFFFFFF ++ leBytes 8 0x1000 ++ args)

/-- The part has booted; the function has negotiated with every feature, and the record stands in its queue. -/
def cmdOf (s : State) (fn opc : Nat) (args : List Byte) : State :=
  ({ s with boot := { s.boot with state := 3 } } : State).modFn fn (fun f =>
    { f with negotiated := true, featacc := 0x1FF, commands := [recordOf opc args] })
def recOf (opc : Nat) (args : List Byte) : CmdRec := CmdRec.ofBytes (recordOf opc args)
def taken (s : State) (fn opc : Nat) (args : List Byte) : State := (cmdOf s fn opc args).modFn fn (fun f => { f with commands := f.commands.eraseIdx 0 })

theorem test_witness_ResetAndHostEvents_invalid : ∃ (s : State) (i : Nat) (r : CmdRec), s.boot.state = 3 ∧ s.nextCommand 16 = some (i, r) ∧ r.ok = false ∧
    s.hostBusy (r.cpl / 16 * 16) 16 true = false :=
  ⟨cmdOf State.reset 16 0x11 [], 0, recOf 0x11 [], rfl, by decide +kernel, by decide +kernel, by decide +kernel⟩

/-- The record is the next of its function, right, and to be performed. -/
def commandedB (s : State) (fn opc : Nat) (args : List Byte) : Bool :=
  let t := cmdOf s fn opc args
  let r := recOf opc args
  decide (t.nextCommand fn = some (0, r)) && r.opc == opc && r.ok && !t.hostBusy r.cpl 16 true && t.cmdGate fn opc == 0

theorem commanded {s : State} {fn opc : Nat} {args : List Byte} (h : commandedB s fn opc args = true) :
    Commanded (cmdOf s fn opc args) fn opc (recOf opc args) (taken s fn opc args) := by
  simp only [commandedB, Bool.and_eq_true, decide_eq_true_eq, beq_iff_eq, Bool.not_eq_true'] at h
  obtain ⟨⟨⟨⟨h1, h2⟩, h3⟩, h4⟩, h5⟩ := h
  exact ⟨⟨0, h1, rfl⟩, h2, h3, h4, h5⟩

/-- Features 0 to 8, all the part advertises. -/
def allFeatures : List Byte := leBytes 16 0x1FF

theorem test_witness_HostCommands_negotiate : ∃ (s : State) (r : CmdRec) (s1 : State), Commanded s 0 0x01 r s1 ∧ (s1.fn? 0).hadContext = false ∧
    BitVec.ofNat 128 (r.arg 16 16) &&& ~~~ featAdv = 0 ∧ r.arg 16 16 = 0x1FF :=
  ⟨cmdOf State.reset 0 0x01 allFeatures, recOf 0x01 allFeatures, taken State.reset 0 0x01 allFeatures,
    commanded (by decide +kernel), by decide +kernel, by decide +kernel,
    by decide +kernel⟩

/-- The largest PASID, a quota, the largest slack and check mode, both flags. -/
def newArgs (slack : Nat) : List Byte :=
  leBytes 4 0xFFFFF ++ leBytes 4 1 ++ leBytes 2 slack ++ leBytes 1 2 ++ leBytes 1 3 ++ leBytes 4 7 ++ leBytes 8 1 ++ leBytes 2 0xFFFE ++ leBytes 2 0xFFFF

theorem test_witness_HostCommands_create : ∀ slack, slack = 0 ∨ slack = 16 ∨ slack = 4096 → ∃ (s : State) (r : CmdRec) (s1 : State),
    Commanded s 0 0x02 r s1 ∧ r.arg 24 2 = slack ∧ r.arg 16 4 < 2 ^ 20 ∧ (r.arg 24 2 = 0 ∨ (16 ≤ r.arg 24 2 ∧ r.arg 24 2 ≤ 4096)) ∧ r.arg 26 1 ≤ 2 ∧
    r.arg 27 1 ≤ 3 ∧ (r.arg 20 4 = 0 ∨ s1.accepted 0 3 = true) ∧ ((r.arg 27 1).testBit 1 = false ∨ s1.accepted 0 6 = true) ∧
    s1.slotsFit (r.arg 20 4) = true ∧ s1.ctx? s1.freeTag = none := by
  intro slack h
  rcases h with rfl | rfl | rfl
  · exact ⟨cmdOf page 0 0x02 (newArgs 0), recOf 0x02 (newArgs 0), taken page 0 0x02 (newArgs 0),
      commanded (by decide +kernel), by decide +kernel⟩
  · exact ⟨cmdOf page 0 0x02 (newArgs 16), recOf 0x02 (newArgs 16), taken page 0 0x02 (newArgs 16),
      commanded (by decide +kernel), by decide +kernel⟩
  · exact ⟨cmdOf page 0 0x02 (newArgs 4096), recOf 0x02 (newArgs 4096), taken page 0 0x02 (newArgs 4096),
      commanded (by decide +kernel), by decide +kernel⟩

/-- The context of the page belongs to function 0. -/
theorem names_page {s : State} (h : (s.ctx? 1).isSome = true) (hf : (theCtx s).fn = 0) (n : Nat) (hn : n = 1) : names s 0 n (theCtx s) := by
  subst hn
  exact ⟨by decide, some_of _ h, hf⟩

def tagArgs : List Byte := leBytes 2 1
def endLab : State := cmdOf lab 0 0x03 tagArgs
def endTaken : State := taken lab 0 0x03 tagArgs

theorem test_witness_HostCommands_destroy : ∃ (s : State) (r : CmdRec) (s1 : State) (c : Context) (t : State), Commanded s 0 0x03 r s1 ∧
    names s1 0 (r.arg 16 2) c ∧ (∀ q, q ∈ s1.queues → q.ctx = c.tag → s1.physBusy (q.hdr / 128) true = false) ∧
    let u := (s1.queues.filter (fun q => q.ctx == c.tag)).foldl State.destroyQueue (s1.terminate c.tag)
    u.unmapRun c.tag c.root ((u.leaves c.root).map (fun l => (l.1, frameOf l.2.1 l.2.2, 2 ^ levelShift l.2.1))) = some t :=
  ⟨endLab, recOf 0x03 tagArgs, endTaken, theCtx endTaken, _,
    commanded (by decide +kernel),
    names_page (by decide +kernel) (by decide +kernel) _ (by decide +kernel), by decide +kernel, some_of lab (by decide +kernel)⟩

/-- The last two 64 KiB pages of the address space, on local memory, durable. -/
def mapArgs : List Byte :=
  leBytes 8 1 ++ leBytes 8 (2 ^ 52 - 0x20000) ++ leBytes 8 0x100000 ++ leBytes 4 2 ++ leBytes 1 0 ++ leBytes 2 0x0E

theorem test_witness_HostCommands_map : ∃ (s : State) (r : CmdRec) (s1 : State) (c : Context), Commanded s 0 0x04 r s1 ∧ names s1 0 (r.arg 16 2) c ∧
    let size := pageBytes (r.arg 44 1)
    let bits := r.arg 45 2
    let pages := (List.range (r.arg 40 4)).map (fun i => (r.arg 24 8 + i * size, r.arg 32 8 + i * size))
    r.arg 44 1 ≤ 2 ∧ bits < 2 ^ 8 ∧ 0 < r.arg 40 4 ∧ r.arg 24 8 % size = 0 ∧ r.arg 32 8 % size = 0 ∧
    r.arg 24 8 + r.arg 40 4 * size ≤ 2 ^ 52 ∧ r.arg 32 8 + r.arg 40 4 * size ≤ 2 ^ 50 ∧
    (∀ p, p ∈ pages → s1.leafBad bits p.2 size = false ∧ s1.covered c.root p.1 (r.arg 44 1) = false ∧
      (p.2 / 2 ^ 48 = 2 → s1.accepted 0 4 = true) ∧ ∀ q, q ∈ s1.poolRanges → ¬(p.2 < q.1 + q.2 ∧ q.1 < p.2 + size)) ∧
    (bits.testBit 2 = true → s1.accepted 0 3 = true) :=
  ⟨cmdOf page 0 0x04 mapArgs, recOf 0x04 mapArgs, taken page 0 0x04 mapArgs, theCtx (taken page 0 0x04 mapArgs),
    commanded (by decide +kernel),
    names_page (by decide +kernel) (by decide +kernel) _ (by decide +kernel), by decide +kernel⟩

def unmapArgs : List Byte := leBytes 8 1 ++ leBytes 8 0x10000 ++ zeroBytes 8 ++ leBytes 4 1
def unmapTaken : State := taken page 0 0x05 unmapArgs
def unmapRunOf : List (Nat × Nat × Nat) := (unmapTaken.leafRun (theCtx unmapTaken).root 1 0x10000).getD []

theorem test_witness_HostCommands_unmap : ∃ (s : State) (r : CmdRec) (s1 : State) (c : Context) (ls : List (Nat × Nat × Nat)) (t : State),
    Commanded s 0 0x05 r s1 ∧ names s1 0 (r.arg 16 2) c ∧ r.arg 40 4 ≠ 0 ∧ s1.leafRun c.root (r.arg 40 4) (r.arg 24 8) = some ls ∧
    s1.unmapRun c.tag c.root ls = some t := by
  have h1 : (recOf 0x05 unmapArgs).arg 40 4 = 1 := by decide +kernel
  have h2 : (recOf 0x05 unmapArgs).arg 24 8 = 0x10000 := by decide +kernel
  refine ⟨cmdOf page 0 0x05 unmapArgs, recOf 0x05 unmapArgs, unmapTaken, theCtx unmapTaken, unmapRunOf, _,
    commanded (by decide +kernel),
    names_page (by decide +kernel) (by decide +kernel) _ (by decide +kernel), by decide +kernel, ?_, some_of lab (by decide +kernel)⟩
  rw [h1, h2]; exact some_of _ (by decide +kernel)

/-- Two bytes from host address 0x2000 to the last two of the page. -/
def loadArgs : List Byte := leBytes 8 1 ++ leBytes 8 0x1FFFE ++ leBytes 8 0x2000 ++ leBytes 4 2
def loadTaken : State := taken page 0 0x06 loadArgs
def codePlaces : List Xlat := [{ pa := 0xFFFE, shift := 16, region := 2, dur := false }]

theorem test_witness_HostCommands_load : ∃ (s : State) (r : CmdRec) (s1 : State) (c : Context) (xs : List Xlat), Commanded s 0 0x06 r s1 ∧
    names s1 0 (r.arg 16 2) c ∧
    let va := BitVec.ofNat 64 (r.arg 24 8)
    let n := r.arg 40 4
    let ps := rangePieces va n
    va.toNat + n ≤ 2 ^ 52 ∧ firstXlat s1 (homeWho c.tag) (ps.map (fun v => (v, AccKind.read))) = .ok xs ∧
    let dst := (List.range n).map (fun i => placeByte (ps.zip xs) (va + BitVec.ofNat 64 i))
    (∀ l, l ∈ linesOf (dst.map (fun p => p.1)) → s1.physBusy l true = false) ∧ s1.hostBusy (r.arg 32 8) n false = false :=
  ⟨cmdOf page 0 0x06 loadArgs, recOf 0x06 loadArgs, loadTaken, theCtx loadTaken, codePlaces,
    commanded (by decide +kernel),
    names_page (by decide +kernel) (by decide +kernel) _ (by decide +kernel), by decide +kernel, by decide +kernel, by decide +kernel, by decide +kernel⟩

/-- A second page, at 0x20000, fit for queue objects. -/
def queuePage : State := page.mapPage (theCtx page).root 0x20000 0x10000 0 0x3A 1

/-- A header in the page's last line, its ring from the page's start. -/
def objArgs (kind prio : Nat) : List Byte :=
  leBytes 8 1 ++ leBytes 8 0x2FFC0 ++ leBytes 4 1023 ++ leBytes 1 kind ++ leBytes 1 prio ++ leBytes 1 3 ++ zeroBytes 1 ++ leBytes 8 0x20000
def objTaken (kind prio : Nat) : State := taken queuePage 0 0x07 (objArgs kind prio)
def hdrPlace : Xlat := { pa := 0x1FFC0, shift := 16, region := 2, dur := false }

theorem test_witness_HostCommands_createObject : ∀ kp, kp = (0, 0) ∨ kp = (1, 7) ∨ kp = (2, 0) → ∃ (s : State) (r : CmdRec) (s1 : State) (c : Context)
    (x : Xlat) (i : Nat), Commanded s 0 0x07 r s1 ∧ names s1 0 (r.arg 16 2) c ∧
    let va := BitVec.ofNat 64 (r.arg 24 8)
    let cap := r.arg 32 4
    let kind := r.arg 36 1
    let base := BitVec.ofNat 64 (r.arg 40 8)
    kind = kp.1 ∧ r.arg 37 1 = kp.2 ∧ kind ≤ 2 ∧ 0 < cap ∧ cap < 2 ^ 24 ∧ r.arg 37 1 ≤ 7 ∧ (kind = 1 ∨ r.arg 37 1 = 0) ∧ r.arg 38 1 ≤ 3 ∧
    va.toNat % 64 = 0 ∧ base.toNat % 64 = 0 ∧
    s1.ownPages c va 64 = true ∧ s1.ownPages c base (cap * (if kind = 1 then 64 else 8)) = true ∧
    s1.translate (homeWho c.tag) .atomic va = .ok x ∧ s1.freeAperture 0 = some i ∧ s1.queue? x.pa = none ∧
    s1.dieServes kind (r.arg 38 1) = true ∧ s1.physBusy (x.pa / 128) true = false := by
  intro kp h
  rcases h with rfl | rfl | rfl
  · exact ⟨cmdOf queuePage 0 0x07 (objArgs 0 0), recOf 0x07 (objArgs 0 0), objTaken 0 0, theCtx (objTaken 0 0), hdrPlace, 0,
      commanded (by decide +kernel),
      names_page (by decide +kernel) (by decide +kernel) _ (by decide +kernel), by decide +kernel⟩
  · exact ⟨cmdOf queuePage 0 0x07 (objArgs 1 7), recOf 0x07 (objArgs 1 7), objTaken 1 7, theCtx (objTaken 1 7), hdrPlace, 0,
      commanded (by decide +kernel),
      names_page (by decide +kernel) (by decide +kernel) _ (by decide +kernel), by decide +kernel⟩
  · exact ⟨cmdOf queuePage 0 0x07 (objArgs 2 0), recOf 0x07 (objArgs 2 0), objTaken 2 0, theCtx (objTaken 2 0), hdrPlace, 0,
      commanded (by decide +kernel),
      names_page (by decide +kernel) (by decide +kernel) _ (by decide +kernel), by decide +kernel⟩

def anObject : QueueObj :=
  { hdr := 0xFFC0, va := 0x1FFC0, ctx := 1, kind := 0, die := 0, fn := 16, aperture := 0, prio := 0, el := 0, timer := 0, waited := 0, holding := false
    onchip := [] }
def objLab : State := { page with queues := [anObject] }
def objectArgs : List Byte := zeroBytes 8 ++ leBytes 8 0x1FFC0

theorem test_witness_HostCommands_destroyObject : ∃ (s : State) (r : CmdRec) (s1 : State) (q : QueueObj), Commanded s 16 0x08 r s1 ∧
    s1.queues.find? (fun q => q.fn == 16 && decide (q.va.toNat = r.arg 24 8)) = some q ∧ s1.physBusy (q.hdr / 128) true = false :=
  ⟨cmdOf objLab 16 0x08 objectArgs, recOf 0x08 objectArgs, taken objLab 16 0x08 objectArgs, anObject,
    commanded (by decide +kernel), by decide +kernel, by decide +kernel⟩

/-- Up to 64 bytes to host address 0x2000; `sel` chooses what READ_COUNTERS reads. -/
def readArgs (tag sel : Nat) : List Byte := leBytes 8 tag ++ leBytes 8 0x2000 ++ leBytes 4 64 ++ leBytes 1 sel

theorem test_witness_HostCommands_enumeration : ∃ (s : State) (r : CmdRec) (s1 : State), Commanded s 16 0x09 r s1 ∧
    s1.hostBusy (r.arg 24 8) (s1.part.enumTable.take (r.arg 32 4)).length true = false :=
  ⟨cmdOf page 16 0x09 (readArgs 0 0), recOf 0x09 (readArgs 0 0), taken page 16 0x09 (readArgs 0 0),
    commanded (by decide +kernel), by decide +kernel⟩

theorem test_witness_HostCommands_counters : ∀ sel, sel = 0 ∨ sel = 1 → ∃ (s : State) (r : CmdRec) (s1 : State), Commanded s 0 0x0A r s1 ∧
    r.arg 36 1 = sel ∧ r.arg 16 2 = 0 ∧
    s1.hostBusy (r.arg 24 8) ((if sel = 0 then s1.counterBytes else s1.errorLog.flatMap id).take (r.arg 32 4)).length true = false := by
  intro sel h
  rcases h with rfl | rfl
  · exact ⟨cmdOf page 0 0x0A (readArgs 0 0), recOf 0x0A (readArgs 0 0), taken page 0 0x0A (readArgs 0 0),
      commanded (by decide +kernel), by decide +kernel, by decide +kernel,
      by decide +kernel⟩
  · exact ⟨cmdOf page 0 0x0A (readArgs 0 1), recOf 0x0A (readArgs 0 1), taken page 0 0x0A (readArgs 0 1),
      commanded (by decide +kernel), by decide +kernel, by decide +kernel,
      by decide +kernel⟩

theorem test_witness_HostCommands_events : ∃ (s : State) (r : CmdRec) (s1 : State) (c : Context), Commanded s 0 0x0A r s1 ∧ r.arg 36 1 = 2 ∧
    names s1 0 (r.arg 16 2) c ∧
    s1.hostBusy (r.arg 24 8) ((leBytes 8 c.eventCount.toNat ++ zeroBytes 56 ++ c.events.flatMap id).take (r.arg 32 4)).length true = false :=
  ⟨cmdOf page 0 0x0A (readArgs 1 2), recOf 0x0A (readArgs 1 2), taken page 0 0x0A (readArgs 1 2), theCtx (taken page 0 0x0A (readArgs 1 2)),
    commanded (by decide +kernel), by decide +kernel,
    names_page (by decide +kernel) (by decide +kernel) _ (by decide +kernel), by decide +kernel⟩

theorem test_witness_HostCommands_power : ∀ w, w = 1000 ∨ w = 2424 → ∃ (s : State) (r : CmdRec) (s1 : State), Commanded s 0 0x0B r s1 ∧ r.arg 16 2 = w ∧
    1000 ≤ r.arg 16 2 / 25 * 25 ∧ r.arg 16 2 / 25 * 25 ≤ 2400 := by
  intro w h
  rcases h with rfl | rfl
  · exact ⟨cmdOf page 0 0x0B (leBytes 2 1000), recOf 0x0B (leBytes 2 1000), taken page 0 0x0B (leBytes 2 1000),
      commanded (by decide +kernel), by decide +kernel, by decide +kernel,
      by decide +kernel⟩
  · exact ⟨cmdOf page 0 0x0B (leBytes 2 2424), recOf 0x0B (leBytes 2 2424), taken page 0 0x0B (leBytes 2 2424),
      commanded (by decide +kernel), by decide +kernel, by decide +kernel,
      by decide +kernel⟩

def ageArgs : List Byte := leBytes 8 3 ++ (List.replicate 8 (leBytes 2 1)).flatten

theorem test_witness_HostCommands_ageing : ∃ (s : State) (r : CmdRec) (s1 : State), Commanded s 0 0x0C r s1 ∧ r.arg 16 1 ≤ 3 ∧
    ∀ i, i < 8 → r.arg (24 + 2 * i) 2 ≠ 0 :=
  ⟨cmdOf page 0 0x0C ageArgs, recOf 0x0C ageArgs, taken page 0 0x0C ageArgs,
    commanded (by decide +kernel), by decide +kernel, by decide +kernel⟩

/-- Two chips, this one and the last; the list stands at host address 0x2000. -/
def farPage : State :=
  { page with part := { page.part with peers := [(511, 1)] }, mem := page.mem.writeBytes (hostPhys 0x2000) (leBytes 2 511 ++ leBytes 2 0) }
def groupArgs : List Byte := leBytes 1 255 ++ leBytes 2 2 ++ leBytes 2 0xFFF ++ zeroBytes 3 ++ leBytes 8 0x2000
def groupTaken : State := taken farPage 0 0x0D groupArgs

theorem test_witness_HostCommands_group : ∃ (s : State) (r : CmdRec) (s1 : State), Commanded s 0 0x0D r s1 ∧ s1.accepted 0 4 = true ∧
    let id := r.arg 16 1
    let p := r.arg 17 2
    let chips := (List.range p).map (fun i => fieldAt (s1.hostRead (r.arg 24 8) (2 * p)) (2 * i) 2)
    2 ≤ p ∧ p ≤ 512 ∧ r.arg 19 2 < 2 ^ 12 ∧ s1.hostBusy (r.arg 24 8) (2 * p) false = false ∧ distinct chips = true ∧ s1.part.chip ∈ chips ∧
    (∀ k, k ∈ chips → s1.part.reaches k = true) ∧ (∀ w, w ∈ s1.collWaits → w.group ≠ id) ∧ (∀ x, x ∈ s1.seals → x.wait.group ≠ id) :=
  ⟨cmdOf farPage 0 0x0D groupArgs, recOf 0x0D groupArgs, groupTaken,
    commanded (by decide +kernel), by decide +kernel⟩

/-- Eight copies of the record of a generation without pages or gangs. -/
def keptSlot : CkptSlot := { slotOne with records := List.replicate 8 (commitRecord 1 1 0 255 [] [] [] 0 0 0 0 []) }

/-- A member whose definition differs from the others'. -/
theorem test_witness_HostCommands_clash : ∃ (s : State) (r : CmdRec) (s1 : State), Commanded s 0 0x0D r s1 ∧ s1.accepted 0 4 = true ∧ 2 ≤ r.arg 17 2 ∧
    r.arg 17 2 ≤ 512 ∧ r.arg 19 2 < 2 ^ 12 ∧ s1.hostBusy (r.arg 24 8) (2 * r.arg 17 2) false = false :=
  ⟨cmdOf farPage 0 0x0D groupArgs, recOf 0x0D groupArgs, groupTaken, commanded (by decide +kernel), by decide +kernel⟩

/-- The first frame of the last stack is fresh, the frame at 0 is mapped already. -/
theorem test_witness_HostCommands_frames : ∀ fresh : Bool, ∃ (s : State) (p : Nat × Nat), p.2 < 2 ^ 48 ∧ s.frameMapped p.2 (pageBytes 0) = !fresh := by
  intro fresh
  cases fresh
  · exact ⟨lab, (0x20000, 0), by decide +kernel⟩
  · exact ⟨lab, (0x20000, 7 * 2 ^ 36), by decide +kernel⟩

/-- Generation 1 is intact on this chip and on every other member. -/
def keptLab : State :=
  ({ page with collGroups := [sealGroup] } : State).modCtx 1 (fun c => { c with slots := #v[none, some keptSlot] })
def reports : List PeerRestore := (List.range 7).map (fun i =>
  { member := i + 1, gens := [{ gen := 1, lp := 0, image := [], parity := [], icrcAll := [] }] })
def backArgs (lost chip : Nat) : List Byte := leBytes 2 1 ++ leBytes 1 255 ++ leBytes 1 lost ++ leBytes 2 chip
def backTaken (lost chip : Nat) : State := taken keptLab 0 0x0E (backArgs lost chip)
def backEv : EvRestore := { fn := 0, peers := reports, tables := [] }
def keptGen : HeldGen := keptSlot.held

theorem test_witness_HostCommands_restore : ∀ lc, lc = (0xFF, 0) ∨ lc = (7, 511) → ∃ (s : State) (r : CmdRec) (s1 : State) (c : Context) (cg : CollGroup)
    (ps : List PeerRestore) (tabs : List (Nat × Nat × Nat)) (h : HeldGen) (t : State), Commanded s 0 0x0E r s1 ∧ s1.accepted 0 3 = true ∧
    names s1 0 (r.arg 16 2) c ∧ s1.collGroups.find? (fun g => g.id == r.arg 18 1) = some cg ∧ cg.chips.length = 8 ∧ cg.tag = c.tag ∧
    r.arg 19 1 = lc.1 ∧ (r.arg 19 1 = 0xFF ∨ (r.arg 19 1 ≤ 7 ∧ cg.chips[r.arg 19 1]? = some (r.arg 20 2))) ∧ peersOk cg ps = true ∧
    let e : EvRestore := { fn := 0, peers := ps, tables := tabs }
    let replaced := decide (r.arg 19 1 = cg.me)
    (s1.terminate c.tag).newestIntact c cg e replaced = some h ∧ (s1.terminate c.tag).bringBack c h replaced (skippedGen c e h.gen) = some t := by
  intro lc h
  rcases h with rfl | rfl
  · exact ⟨cmdOf keptLab 0 0x0E (backArgs 0xFF 0), recOf 0x0E (backArgs 0xFF 0), backTaken 0xFF 0, theCtx (backTaken 0xFF 0), sealGroup, reports, [],
      keptGen, _, commanded (by decide +kernel), by decide +kernel,
      names_page (by decide +kernel) (by decide +kernel) _ (by decide +kernel), by decide +kernel, by decide, by decide +kernel, by decide +kernel,
      by decide +kernel, by decide +kernel, by decide +kernel, some_of lab (by decide +kernel)⟩
  · exact ⟨cmdOf keptLab 0 0x0E (backArgs 7 511), recOf 0x0E (backArgs 7 511), backTaken 7 511, theCtx (backTaken 7 511), sealGroup, reports, [],
      keptGen, _, commanded (by decide +kernel), by decide +kernel,
      names_page (by decide +kernel) (by decide +kernel) _ (by decide +kernel), by decide +kernel, by decide, by decide +kernel, by decide +kernel,
      by decide +kernel, by decide +kernel, by decide +kernel, some_of lab (by decide +kernel)⟩

def attestArgs : List Byte := List.replicate 32 0xFF ++ leBytes 8 0x2000

theorem test_witness_HostCommands_attest : ∃ (s : State) (r : CmdRec) (s1 : State), Commanded s 0 0x0F r s1 ∧ s1.hostBusy (r.arg 48 8) 256 true = false :=
  ⟨cmdOf page 0 0x0F attestArgs, recOf 0x0F attestArgs, taken page 0 0x0F attestArgs,
    commanded (by decide +kernel), by decide +kernel⟩

/-- The highest window base. -/
def bindArgs : List Byte := leBytes 8 1 ++ leBytes 8 (2 ^ 52 - 2 ^ 36)
def bindTaken : State := taken page 0 0x10 bindArgs

theorem test_witness_HostCommands_bind : ∃ (s : State) (r : CmdRec) (s1 : State) (c : Context), Commanded s 0 0x10 r s1 ∧ names s1 0 (r.arg 16 2) c ∧
    r.arg 24 8 % 2 ^ 36 = 0 ∧ r.arg 24 8 < 2 ^ 52 :=
  ⟨cmdOf page 0 0x10 bindArgs, recOf 0x10 bindArgs, bindTaken, theCtx bindTaken,
    commanded (by decide +kernel),
    names_page (by decide +kernel) (by decide +kernel) _ (by decide +kernel), by decide +kernel, by decide +kernel⟩

/-- Before negotiation. -/
def earlyLab : State := (cmdOf page 0 0x0D groupArgs).modFn 0 (fun f => { f with negotiated := false })

theorem test_witness_HostCommands_early : ∃ (s : State) (opc i : Nat) (cmd : Instr) (r : CmdRec),
    (opc = 0x0D ∧ cmd = .configureParityGroup { fn := 0, clash := true }) ∧ s.nextCommand 0 = some (i, r) ∧ r.opc = opc ∧ r.ok = true ∧
    s.hostBusy r.cpl 16 true = false ∧ (s.fn? 0).negotiated = false ∧ opc ∉ [0x0B, 0x0C] :=
  ⟨earlyLab, 0x0D, 0, .configureParityGroup { fn := 0, clash := true }, recOf 0x0D groupArgs, ⟨rfl, rfl⟩, by decide +kernel, by decide +kernel, by decide +kernel,
    by decide +kernel, by decide +kernel, by decide⟩

theorem test_witness_HostCommands_physicalOnly : ∃ (s : State) (fn opc i : Nat) (cmd : Instr) (r : CmdRec),
    (opc = 0x0B ∧ cmd = .setPowerCap { fn := fn }) ∧ s.nextCommand fn = some (i, r) ∧ r.opc = opc ∧ r.ok = true ∧
    s.hostBusy r.cpl 16 true = false ∧ (s.fn? fn).negotiated = true ∧ fn ≠ 0 ∧ opc ∈ [0x0B, 0x0C, 0x0D] :=
  ⟨cmdOf page 16 0x0B (leBytes 2 1000), 16, 0x0B, 0, .setPowerCap { fn := 16 }, recOf 0x0B (leBytes 2 1000), ⟨rfl, rfl⟩, by decide +kernel,
    by decide +kernel, by decide +kernel, by decide +kernel, by decide +kernel, by decide, by decide⟩

end Sys2Proof.Tests.WitnessJ
end

section
/-! PROOFS. The family of lanes and partitions: VOTE under `full` checking, and the words that no LMASK has. -/

namespace Sys2Proof.Proofs.Lanes

open Sys2Proof.Machine Sys2Proof.Claims

/-! ## A predicate delivered in `full` mode (17 R318) -/

@[simp] theorem core?_modGroup (s : State) (gang slot : Nat) (h : Group → Group) (core : Nat) :
    (s.modGroup gang slot h).core? core = s.core? core := rfl

@[simp] theorem core?_writePred (c : Iss) (s : State) (p : PReg) (v : Nat → Bool) (core : Nat) :
    (writePred c s p v).core? core = s.core? core := rfl

/-- The replay queue of the issuing core grows by one entry. -/
theorem replay_length_enterReplay {x : Iss} {s : State} (hc : x.gang.core < s.cores.length) (load : PendLoad) (port pred : Option Nat)
    (wrong : Nat) :
    ((enterReplay x s load port pred wrong).core? x.gang.core).replay.length = (s.core? x.gang.core).replay.length + 1 := by
  unfold enterReplay State.core? State.modCore
  simp [List.getD_eq_getElem?_getD, hc]

/-- Where active lanes have no partner, a delivery stalls on a full replay queue or enters it: it never changes the issuing group alone. -/
theorem deliverP_ne_modGroup {c : Iss} {s : State} (hr : c.replays c.exec = true) (hc : c.gang.core < s.cores.length) (p : PReg)
    (v : Nat → Bool) (gang slot : Nat) (h : Group → Group) : deliverP c s p v ≠ .ok (s.modGroup gang slot h) := by
  intro he
  unfold deliverP at he
  rw [if_pos hr] at he
  split at he
  · cases he
  · have hlen := congrArg (fun t => (t.core? c.gang.core).replay.length) (Except.ok.inj he)
    simp only [replay_length_enterReplay (s := writePred c s p v) hc, core?_writePred, core?_modGroup] at hlen
    omega

/-- After reset a gang of one group is started on core 0 from a record that asks for `full` checking; its split of 32 lanes is in focus. -/
def fullGang : State :=
  { (State.reset.addContext (Context.fresh 1 0)).startGang 0 0 { oneGroup 1 with chk := 2 } none with
    cur := { gang := 1, group := 0, split := 0 } }

/-- What that split issues in: all 32 lanes are members, so none has a partner outside EXEC. -/
def fullIss : Iss := (fullGang.iss? fullGang.cur 12).get (by decide +kernel)

/-- Refutes O7: the statement has no premise on the checking mode. In `full` mode a VOTE.any of all 32 lanes enters the replay queue
(17 R318), so its effect is not the write of the predicate alone. -/
theorem not_voteResult : ¬ Obligations.VoteResult := by
  unfold Obligations.VoteResult
  intro h
  obtain ⟨hany, -⟩ := h { d := .any 1, a := 2, mask := .all } fullIss fullGang (by decide +kernel)
  obtain ⟨u, v, -, -, he⟩ := hany 1 rfl
  have hreplays : fullIss.replays fullIss.exec = true := by decide +kernel
  have hcore : fullIss.gang.core < fullGang.cores.length := by decide +kernel
  exact deliverP_ne_modGroup hreplays hcore _ _ _ _ _ he

/-! ## Words that decode to no member, in a split without lanes (02 R40, R41) -/

/-- A split that holds no lane passes by words that decode to no member: it raises no trap. -/
theorem exec_notAnInstruction_noLanes {s : State} {g : Gang} {x : Group} {sp : Split} {bs : List Byte} {e : DecodeError}
    (hc : s.canIssue s.cur = true) (hg : s.gang? s.cur.gang = some g) (hx : s.group? s.cur.gang s.cur.group = some x)
    (hs : s.split? s.cur = some sp) (hf : s.fetch (s.whoOf g s.cur) sp.pc = .ok bs) (hd : decode bs = .error e)
    (he : e ≠ .ownCheck) (hl : sp.lanes = 0) :
    exec .notAnInstruction s = .next (countIssue (advance s s.cur bs.length) s.cur) := by
  have hb : s.badFetch g x s.cur sp.pc sp.lanes =
      some (bs.length, { cause := 0x01, sub := 0, kind := 0, lanes := 0, addr := sp.pc, info := 0 }) := by
    unfold State.badFetch
    rw [hl]
    simp only [hf, hd]
  show execNotAnInstruction s = _
  unfold execNotAnInstruction
  simp [hc, hg, hx, hs, hb]

/-- The words of LMASK with D = 0 and the reserved KIND 7. -/
def reservedKind : List Byte := bytesOfWord 0x62 ++ bytesOfWord 6 ++ bytesOfWord 7

/-- A gang placed from outside at those words, its only split without a lane. -/
def noLanes : State :=
  { State.reset.placeProgram reservedKind with cur := { gang := 1, group := 0, split := 0 } }.modSplit
    { gang := 1, group := 0, split := 0 } (fun sp => { sp with lanes := 0 })

def noLanesGang : Gang := (noLanes.gang? noLanes.cur.gang).get (by decide +kernel)
def noLanesGroup : Group := (noLanes.group? noLanes.cur.gang noLanes.cur.group).get (by decide +kernel)
def noLanesSplit : Split := (noLanes.split? noLanes.cur).get (by decide +kernel)

/-- A trap has halted the gang (16 R294). -/
def halted (s : State) (id : Nat) : Bool := (s.gang? id).any (fun g => g.halt.isSome)

/-- Refutes O53: its clause on KIND 7 has no premise that the split holds a lane. Where it holds none, no trap halts the gang and the
PC goes behind the words. -/
theorem not_laneMasks : ¬ Obligations.LaneMasks := by
  unfold Obligations.LaneMasks
  rintro ⟨-, h⟩
  have hc : noLanes.canIssue noLanes.cur = true := by decide +kernel
  have hg : noLanes.gang? noLanes.cur.gang = some noLanesGang := (Option.some_get _).symm
  have hx : noLanes.group? noLanes.cur.gang noLanes.cur.group = some noLanesGroup := (Option.some_get _).symm
  have hs : noLanes.split? noLanes.cur = some noLanesSplit := (Option.some_get _).symm
  have hf : noLanes.fetch (noLanes.whoOf noLanesGang noLanes.cur) noLanesSplit.pc = .ok reservedKind := by decide +kernel
  have hd : decode reservedKind = .error .badField := by decide +kernel
  have htrap := h 0 noLanes noLanesGang noLanesGroup noLanesSplit reservedKind hc hg hx hs hf (by decide +kernel)
  rw [exec_notAnInstruction_noLanes hc hg hx hs hf hd (by decide) (by decide +kernel)] at htrap
  have hhalt := congrArg (fun t => halted t noLanes.cur.gang) (Host.Outcome.next.inj htrap)
  have hgoes : halted (countIssue (advance noLanes noLanes.cur reservedKind.length) noLanes.cur) noLanes.cur.gang = false := by
    decide +kernel
  have hstops : halted (raiseTrap noLanes noLanes.cur 12 noLanesSplit.lanes
      { cause := 0x01, sub := 0, kind := 0, lanes := noLanesSplit.lanes, addr := noLanesSplit.pc, info := 0 }) noLanes.cur.gang = true := by
    decide +kernel
  exact absurd (hgoes.symm.trans (hhalt.trans hstops)) (by decide)

end Sys2Proof.Proofs.Lanes
end

section
/-! PROOFS. The family of the press: the reservation checks of the collective tile operations. -/

namespace Sys2Proof.Proofs.Press

open Sys2Proof.Machine Sys2Proof.Claims

/-! ## The traps of 02 R41, steps 2 and 3 -/

/-- An instruction that fails a check of step 2 traps for every lane of its split, whatever its body is. -/
theorem issue_need {s : State} {g : Gang} {x : Group} {sp : Split} {n : Need} (hc : s.canIssue s.cur = true)
    (hg : s.gang? s.cur.gang = some g) (hx : s.group? s.cur.gang s.cur.group = some x) (hs : s.split? s.cur = some sp)
    (hn : checkNeed s s.cur g x n ≠ 0) (i : Instr) (body : Iss → Except Stop State) :
    issue i n body s = splitTrap s sp i.bytes (checkNeed s s.cur g x n) 0 0 := by
  have hi : s.iss? s.cur i.bytes =
      some { s := s, f := s.cur, gang := g, grp := x, sp := sp, exec := sp.lanes, len := i.bytes } := by
    unfold State.iss?
    rw [hg, hx, hs]
  unfold issue issueAt
  rw [hi]
  simp [hc, hn, splitTrap]

/-- A check of step 3 that fails for the active lanes and names no address is a trap of theirs at word 0. -/
theorem issue_own {s : State} {i : Instr} {n : Need} {c : Iss} {body : Iss → Except Stop State} {cause sub : Nat}
    (h : Issues s n i.bytes c) (hb : body c = .error (fault cause sub c.exec)) : issue i n body s = ownTrap s c cause sub := by
  rw [issue_check h hb, ownTrap, h.len]

/-! ## The checks, one by one (11 R213, R219) -/

theorem collective_of_divided {c : Iss} (h : c.sp.lanes ≠ c.grp.live) : collective c = .error (fault 0x02 0 c.exec) := if_neg h

theorem collective_of_whole {c : Iss} (h : c.sp.lanes = c.grp.live) : collective c = .ok () := if_pos h

theorem reserved_of_lacking {c : Iss}
    (h : c.s.reservation? c.gang = none ∨ ∃ r, c.s.reservation? c.gang = some r ∧ r.releasing = true) :
    reserved c = .error (fault 0x0C 1 c.exec) := by
  unfold reserved
  obtain hnone | ⟨r, hr, hrel⟩ := h
  · rw [hnone]
  · simp [hr, hrel]

theorem reserved_of_inForce {c : Iss} {r : Reservation} (hr : c.s.reservation? c.gang = some r) (hrel : r.releasing = false) :
    reserved c = .ok r := by
  simp [reserved, hr, hrel]

theorem unitsOk_of_beyond {c : Iss} {r : Reservation} {nm nk : Nat} (h : r.moulds.length < nm ∨ r.accs.length < nk) :
    unitsOk c r nm nk = .error (fault 0x0C 2 c.exec) := if_pos h

/-! ## What the four operations share -/

/-- The three checks in their order, then the operation's own part. -/
def afterChecks (nm nk : Nat) (rest : Iss → Reservation → Except Stop State) (c : Iss) : Except Stop State := do
  collective c
  let r ← reserved c
  unitsOk c r nm nk
  rest c r

/-- MLDB, MMUL, MAMOV and MZERO issue with what they need, and their bodies begin with the three checks. -/
theorem exec_tile {i : Instr} {n : Need} {nm nk : Nat} (h : tileNeed i = some (n, nm, nk)) :
    ∃ rest, ∀ s, exec i s = issue i n (afterChecks nm nk rest) s := by
  unfold tileNeed at h
  split at h
  case h_1 x =>
    cases h
    exact ⟨_, fun s => by
      show execMldb x s = _
      unfold execMldb afterChecks
      rfl⟩
  case h_2 x =>
    cases h
    exact ⟨_, fun s => by
      show execMmul x s = _
      unfold execMmul afterChecks
      rfl⟩
  case h_3 x =>
    cases h
    exact ⟨_, fun s => by
      show execMamov x s = _
      unfold execMamov afterChecks
      rfl⟩
  case h_4 x =>
    cases h
    exact ⟨_, fun s => by
      show execMzero x s = _
      unfold execMzero afterChecks
      rfl⟩
  case h_5 => cases h

section
variable {c : Iss} {nm nk : Nat} {rest : Iss → Reservation → Except Stop State}

theorem afterChecks_divided (h : c.sp.lanes ≠ c.grp.live) : afterChecks nm nk rest c = .error (fault 0x02 0 c.exec) := by
  unfold afterChecks
  rw [collective_of_divided h]
  rfl

theorem afterChecks_lacking (h : c.sp.lanes = c.grp.live)
    (hr : c.s.reservation? c.gang = none ∨ ∃ r, c.s.reservation? c.gang = some r ∧ r.releasing = true) :
    afterChecks nm nk rest c = .error (fault 0x0C 1 c.exec) := by
  unfold afterChecks
  rw [collective_of_whole h, reserved_of_lacking hr]
  rfl

theorem afterChecks_beyond {r : Reservation} (h : c.sp.lanes = c.grp.live) (hr : c.s.reservation? c.gang = some r)
    (hrel : r.releasing = false) (hu : r.moulds.length < nm ∨ r.accs.length < nk) :
    afterChecks nm nk rest c = .error (fault 0x0C 2 c.exec) := by
  unfold afterChecks
  rw [collective_of_whole h, reserved_of_inForce hr hrel]
  show (unitsOk c r nm nk >>= fun _ => rest c r) = _
  rw [unitsOk_of_beyond hu]
  rfl

end

/-- Settles O52: each operation issues with its need and `afterChecks`, so a failed need is a trap of the split before the body runs, and
the three checks of the body fail in their order. The need of these four names no V-class operand, privilege or feature, so that its clause
follows from the law of every issue, `issue_need`, and not from a state in which one of them fails step 2. -/
theorem reservationChecks : Obligations.ReservationChecks := by
  unfold Obligations.ReservationChecks
  intro i n nm nk s hi
  obtain ⟨rest, hexec⟩ := exec_tile hi
  rw [hexec s]
  refine ⟨fun c h => ⟨?_, ?_, ?_⟩, ?_⟩
  · intro hdiv
    exact issue_own h (afterChecks_divided hdiv)
  · intro hwhole hlack
    exact issue_own h (afterChecks_lacking hwhole hlack)
  · intro r hwhole hr hrel hbeyond
    exact issue_own h (afterChecks_beyond hwhole hr hrel hbeyond)
  · intro g x sp hc hg hx hs hneed
    exact issue_need hc hg hx hs hneed i _

end Sys2Proof.Proofs.Press
end

section
/-! PROOFS. The encoding: the words of an instruction decode to it (02 R20-R40). -/

namespace Sys2Proof.Proofs.RoundTrip
open Sys2Proof

@[simp] theorem readS_sField (r : SReg) : readS (sField r) (sX r) = r := by
  apply Fin.ext
  have := r.isLt
  simp only [readS, sField, sX, Fin.ofNat]
  omega

@[simp] theorem readV_vField (r : VOp) : readV (vField r) (vX r) = r := by
  cases r <;> simp [readV, vField, vX]

@[simp] theorem Ty.ofCode_code (t : Ty) : Ty.ofCode t.code = t := by cases t <;> rfl
@[simp] theorem Rm.ofCode_code (t : Rm) : Rm.ofCode t.code = t := by cases t <;> rfl
@[simp] theorem MemOrder.ofCode_code (t : MemOrder) : MemOrder.ofCode t.code = t := by cases t <;> rfl
@[simp] theorem Scope.ofCode_code (t : Scope) : Scope.ofCode t.code = t := by cases t <;> rfl
@[simp] theorem AtomOp.ofCode_code (t : AtomOp) : AtomOp.ofCode t.code = t := by cases t <;> rfl
@[simp] theorem RedOp.ofCode_code (t : RedOp) : RedOp.ofCode t.code = t := by cases t <;> rfl
@[simp] theorem ShflKind.ofCode_code (t : ShflKind) : ShflKind.ofCode t.code = t := by cases t <;> rfl
@[simp] theorem LMaskKind.ofCode_code (t : LMaskKind) : LMaskKind.ofCode t.code = t := by cases t <;> rfl
@[simp] theorem CollKind.ofCode_code (t : CollKind) : CollKind.ofCode t.code = t := by cases t <;> rfl
@[simp] theorem SpecReg.ofCode_code (t : SpecReg) : SpecReg.ofCode t.code = t := by cases t <;> rfl

@[simp] theorem Cond.ofCode_code (t : Cond) : Cond.ofCode t.code = t := by
  cases t with
  | bad n =>
    revert n
    decide
  | _ => rfl

@[simp] theorem Guard.ofCode_code (t : Guard) : Guard.ofCode t.code = t := by
  cases t with
  | none => rfl
  | pos p =>
    revert p
    decide
  | neg p =>
    revert p
    decide

@[simp] theorem bit_beq_one (b : Bool) : (bit b == 1) = b := by cases b <;> rfl

/-- A uniform source is read back from LEN, B, XB and the literal (02 R24). -/
theorem readU_eq (b : USrc) {f : Fields} (hl : f.len = b.len) (hb : f.b = b.field) (hx : f.xb = b.x) (hv : f.lit = b.lit) :
    readU f = b := by
  cases b <;> simp_all [readU, USrc.len, USrc.field, USrc.x, USrc.lit]

/-- A per-lane source is read back (02 R24). -/
theorem readVS_eq (b : VSrc) {f : Fields} (hl : f.len = b.len) (hb : f.b = b.field) (hx : f.xb = b.x) (hv : f.lit = b.lit) :
    readVS f = b := by
  cases b <;> simp_all [readVS, VSrc.len, VSrc.field, VSrc.x, VSrc.lit]

/-- A target is read back (13 R246). -/
theorem readTarget_eq (b : Target) {f : Fields} (hl : f.len = b.len) (hb : f.b = b.field) (hx : f.xb = b.x) (hi : f.imm = b.us)
    (hv : f.lit = b.litVal) : readTarget f = b := by
  cases b <;> simp_all [readTarget, Target.len, Target.field, Target.x, Target.us, Target.litVal]


/-- A number that is a field's value is read as that field. -/
theorem ofNat_eq {n : Nat} [NeZero n] (x : Fin n) {k : Nat} (h : k = x.val) : Fin.ofNat n k = x := by
  subst h
  exact Fin.ofNat_val_eq_self x

@[simp] theorem sField_lt (r : SReg) : sField r < 256 := Nat.mod_lt _ (by decide)
@[simp] theorem sX_lt (r : SReg) : sX r < 2 := by
  have := r.isLt
  unfold sX
  omega
@[simp] theorem vField_lt (r : VOp) : vField r < 256 := by
  cases r with
  | v n => exact n.isLt
  | k n => exact Nat.lt_trans n.isLt (by decide)
@[simp] theorem vX_lt (r : VOp) : vX r < 2 := by cases r <;> exact Nat.lt_succ_of_le (by simp [vX])
@[simp] theorem bit_lt (b : Bool) : bit b < 2 := by cases b <;> decide
@[simp] theorem Ty.code_lt (t : Ty) : t.code < 16 := by cases t <;> decide
@[simp] theorem Ty.code_ne (t : Ty) : t.code ≠ 0 := by cases t <;> decide
@[simp] theorem Rm.code_lt (t : Rm) : t.code < 8 := by cases t <;> decide
@[simp] theorem MemOrder.code_lt (t : MemOrder) : t.code < 4 := by cases t <;> decide
@[simp] theorem Scope.code_lt (t : Scope) : t.code < 8 := by cases t <;> decide
@[simp] theorem AtomOp.code_lt (t : AtomOp) : t.code < 16 := by cases t <;> decide
@[simp] theorem RedOp.code_lt (t : RedOp) : t.code < 16 := by cases t <;> decide
@[simp] theorem ShflKind.code_lt (t : ShflKind) : t.code < 4 := by cases t <;> decide
@[simp] theorem LMaskKind.code_lt (t : LMaskKind) : t.code < 16 := by cases t <;> decide
@[simp] theorem CollKind.code_lt (t : CollKind) : t.code < 16 := by cases t <;> decide
@[simp] theorem SpecReg.code_lt (t : SpecReg) : t.code < 32 := by cases t <;> decide
@[simp] theorem Cond.code_lt (t : Cond) : t.code < 16 := by
  cases t with
  | bad n => exact Nat.add_lt_add_right n.isLt 8
  | _ => decide
@[simp] theorem Guard.code_lt (t : Guard) : t.code < 16 := by
  cases t with
  | none => decide
  | pos p => simp only [Guard.code]; omega
  | neg p => simp only [Guard.code]; omega
@[simp] theorem MaskSrc.imm_lt (k : MaskSrc) : k.imm < 1024 := by
  cases k with
  | all => decide
  | reg r => exact Nat.lt_trans r.isLt (by decide)
@[simp] theorem RedMod.code_lt (m : RedMod) : m.code < 8 := by
  cases m with
  | rm r => exact Rm.code_lt r
  | _ => decide
@[simp] theorem AddrExp.am_lt (e : AddrExp) : e.am < 8 := by cases e <;> simp [AddrExp.am]
@[simp] theorem AddrExp.ofs_lt (e : AddrExp) : e.ofs < 2 ^ 20 := by cases e <;> exact BitVec.isLt _
@[simp] theorem AddrExp.scaled_lt (e : AddrExp) : e.scaled < 256 := by
  cases e with
  | postinc a i => exact Nat.zero_lt_succ _
  | modulo m i => exact Nat.zero_lt_succ _
  | base a o n => exact n.isLt
  | indexed a c o n => exact n.isLt
  | lane a o n => exact n.isLt
@[simp] theorem AddrExp.a_lt (e : AddrExp) : e.a < 256 := by
  cases e with
  | modulo m i => exact Nat.lt_trans m.isLt (by decide)
  | lane a o n => exact vField_lt a
  | base a o n => exact sField_lt a
  | indexed a c o n => exact sField_lt a
  | postinc a i => exact sField_lt a
@[simp] theorem AddrExp.xa_lt (e : AddrExp) : e.xa < 2 := by
  cases e with
  | modulo m i => exact Nat.zero_lt_succ _
  | lane a o n => exact vX_lt a
  | base a o n => exact sX_lt a
  | indexed a c o n => exact sX_lt a
  | postinc a i => exact sX_lt a
@[simp] theorem AddrExp.c_lt (e : AddrExp) : e.c < 256 := by
  cases e with
  | indexed a c o n => exact vField_lt c
  | _ => exact Nat.zero_lt_succ _
@[simp] theorem AddrExp.xc_lt (e : AddrExp) : e.xc < 2 := by
  cases e with
  | indexed a c o n => exact vX_lt c
  | _ => exact Nat.zero_lt_succ _

/-! ## IMM32 of the memory members (04 R65) -/

theorem immAm_memImm {ofs am sp aop ch : Nat} (ho : ofs < 2 ^ 20) (ha : am < 8) : immAm (memImm ofs am sp aop ch) = am := by
  unfold immAm memImm
  omega

theorem immSp_memImm {ofs am sp aop ch : Nat} (ho : ofs < 2 ^ 20) (ha : am < 8) (hs : sp < 2) :
    immSp (memImm ofs am sp aop ch) = sp := by
  unfold immSp memImm
  omega

theorem immAop_memImm {ofs am sp aop ch : Nat} (ho : ofs < 2 ^ 20) (ha : am < 8) (hs : sp < 2) (hp : aop < 16) :
    immAop (memImm ofs am sp aop ch) = aop := by
  unfold immAop memImm
  omega

theorem immOfs_memImm {ofs am sp aop ch : Nat} (ho : ofs < 2 ^ 20) : immOfs (memImm ofs am sp aop ch) = BitVec.ofNat 20 ofs := by
  unfold immOfs memImm
  congr 1
  omega

theorem memImm_lt {ofs am sp aop ch : Nat} (ho : ofs < 2 ^ 20) (ha : am < 8) (hs : sp < 2) (hp : aop < 16) (hc : ch < 4) :
    memImm ofs am sp aop ch < 2 ^ 32 := by
  unfold memImm
  omega

/-- An address expression is read back from A, C, the scaled offset, OFS and AM (04 R64, R66). -/
theorem readAddr_eq (e : AddrExp) {f : Fields} {n : Nat} (ha : f.a = e.a) (hxa : f.xa = e.xa) (hc : f.c = e.c) (hxc : f.xc = e.xc)
    (hm : immAm f.imm = e.am) (ho : immOfs f.imm = BitVec.ofNat 20 e.ofs) (hn : n = e.scaled) : readAddr f n = e := by
  subst hn
  cases e <;>
    simp_all [readAddr, AddrExp.a, AddrExp.xa, AddrExp.c, AddrExp.xc, AddrExp.am, AddrExp.ofs, AddrExp.scaled]

theorem AddrExp.scaled_of_unscaled {e : AddrExp} (h : e.unscaled = true) : e.scaled = 0 := by
  cases e <;> simp_all [AddrExp.unscaled, AddrExp.scaled]

/-- A membership mask is read back from the low ten bits of IMM32 (10 R196). -/
theorem readMask_eq (k : MaskSrc) {i : Nat} (h : i % 2 ^ 10 = k.imm) : readMask i = k := by
  cases k with
  | all =>
    have h9 : i / 2 ^ 9 % 2 = 1 := by
      simp only [MaskSrc.imm] at h
      omega
    rw [readMask, if_pos h9]
  | reg r =>
    have hr := r.isLt
    simp only [MaskSrc.imm] at h
    have h9 : ¬ i / 2 ^ 9 % 2 = 1 := by omega
    rw [readMask, if_neg h9]
    exact congrArg MaskSrc.reg (ofNat_eq r (by omega))

theorem readWidth_eq (w : Width) {f : Fields} (ht : f.ty = w.ty) (hm : f.mod = w.mod) : readWidth f = w := by
  cases w <;> simp_all [readWidth, Width.ty, Width.mod]

@[simp] theorem optSw_lt (w : Option SReg) : optSw w < 2 := by cases w <;> simp [optSw]

theorem readSw_eq (w : Option SReg) {f : Fields} {n : Nat} (hc : f.c = optC w) (hx : f.xc = optXC w) (hn : n = optSw w) :
    readSw f n = w := by
  subst hn
  cases w <;> simp_all [readSw, optC, optXC, optSw]

/-- The mode of REDUX and SCAN is read back where the member accepts it (10 R196). -/
theorem readRedMod_eq (r : RedMod) {op : RedOp} {ty : Ty} {f : Fields} (h : redOk op ty r = true) (ht : f.ty = ty.code)
    (hm : f.mod = r.code) : readRedMod f = r := by
  cases r with
  | zero => simp_all [readRedMod, RedMod.code]
  | sat => cases ty <;> simp_all [readRedMod, RedMod.code, redOk, Ty.isInt4, Ty.code]
  | rm k => cases k <;> simp_all [readRedMod, RedMod.code, redOk, Rm.code, Ty.code, Rm.ofCode]

theorem UBin.read_fields (x : UBin) (o m : Nat) : UBin.read { x.fields with op := o, member := m } = x := by
  simp [UBin.read, UBin.fields, readU_eq x.b]

theorem USet.read_fields (x : USet) (o m : Nat) : USet.read { x.fields with op := o, member := m } = x := by
  simp [USet.read, USet.fields, readU_eq x.b]
theorem CallI.read_fields (x : CallI) (o m : Nat) : CallI.read { x.fields with op := o, member := m } = x := by
  simp [CallI.read, CallI.fields, readTarget_eq x.target]
theorem BraI.read_fields (x : BraI) (o m : Nat) : BraI.read { x.fields with op := o, member := m } = x := by
  simp [BraI.read, BraI.fields]
theorem Base3.read_fields (x : Base3) (o m t : Nat) : Base3.read { x.fields with op := o, member := m, ty := t } = x := by
  simp [Base3.read, Base3.fields]
theorem USel.read_fields (x : USel) (o m : Nat) : USel.read { x.fields with op := o, member := m } = x := by
  simp [USel.read, USel.fields, readU_eq x.b]
theorem UUn.read_fields (x : UUn) (o m : Nat) : UUn.read { x.fields with op := o, member := m } = x := by
  simp [UUn.read, UUn.fields]
theorem UBfx.read_fields (x : UBfx) (o m : Nat) : UBfx.read { x.fields with op := o, member := m } = x := by
  have hp : Fin.ofNat 128 ((x.pos.val + 2 ^ 8 * x.len.val) % 2 ^ 7) = x.pos := ofNat_eq _ (by omega)
  have hl : Fin.ofNat 128 ((x.pos.val + 2 ^ 8 * x.len.val) / 2 ^ 8 % 2 ^ 7) = x.len := ofNat_eq _ (by omega)
  simp only [UBfx.read, UBfx.fields, hp, hl, readS_sField, Ty.ofCode_code]
theorem UBfi.read_fields (x : UBfi) (o m : Nat) : UBfi.read { x.fields with op := o, member := m } = x := by
  have hp : Fin.ofNat 128 ((x.pos.val + 2 ^ 8 * x.len.val) % 2 ^ 7) = x.pos := ofNat_eq _ (by omega)
  have hl : Fin.ofNat 128 ((x.pos.val + 2 ^ 8 * x.len.val) / 2 ^ 8 % 2 ^ 7) = x.len := ofNat_eq _ (by omega)
  simp only [UBfi.read, UBfi.fields, readU_eq x.b, hp, hl, readS_sField, Ty.ofCode_code]
theorem BaseDB.read_fields (x : BaseDB) (o m t : Nat) : BaseDB.read { x.fields with op := o, member := m, ty := t } = x := by
  simp [BaseDB.read, BaseDB.fields]
theorem UMov.read_fields (x : UMov) (o m : Nat) : UMov.read { x.fields with op := o, member := m } = x := by
  simp [UMov.read, UMov.fields]
theorem ULit.read_fields (x : ULit) (o m : Nat) : ULit.read { x.fields with op := o, member := m } = x := by
  cases x with
  | mk d lit long => cases long <;> simp [ULit.read, ULit.fields]
theorem VBin.read_fields (x : VBin) (o m : Nat) : VBin.read { x.fields with op := o, member := m } = x := by
  simp [VBin.read, VBin.fields, readVS_eq x.b]
theorem VUn.read_fields (x : VUn) (o m : Nat) : VUn.read { x.fields with op := o, member := m } = x := by
  simp [VUn.read, VUn.fields]
theorem VSetI.read_fields (x : VSetI) (o m : Nat) : VSetI.read { x.fields with op := o, member := m } = x := by
  simp [VSetI.read, VSetI.fields, readVS_eq x.b]
theorem VPredI.read_fields (x : VPredI) (o m : Nat) : VPredI.read { x.fields with op := o, member := m } = x := by
  simp [VPredI.read, VPredI.fields, readVS_eq x.b]
theorem VBfx.read_fields (x : VBfx) (o m : Nat) : VBfx.read { x.fields with op := o, member := m } = x := by
  have hp : Fin.ofNat 128 ((x.pos.val + 2 ^ 8 * x.len.val) % 2 ^ 7) = x.pos := ofNat_eq _ (by omega)
  have hl : Fin.ofNat 128 ((x.pos.val + 2 ^ 8 * x.len.val) / 2 ^ 8 % 2 ^ 7) = x.len := ofNat_eq _ (by omega)
  simp only [VBfx.read, VBfx.fields, hp, hl, readV_vField, Ty.ofCode_code, Guard.ofCode_code]
theorem VBfi.read_fields (x : VBfi) (o m : Nat) : VBfi.read { x.fields with op := o, member := m } = x := by
  have hp : Fin.ofNat 128 ((x.pos.val + 2 ^ 8 * x.len.val) % 2 ^ 7) = x.pos := ofNat_eq _ (by omega)
  have hl : Fin.ofNat 128 ((x.pos.val + 2 ^ 8 * x.len.val) / 2 ^ 8 % 2 ^ 7) = x.len := ofNat_eq _ (by omega)
  simp only [VBfi.read, VBfi.fields, readVS_eq x.b, hp, hl, readV_vField, Ty.ofCode_code, Guard.ofCode_code]
theorem VIdxI.read_fields (x : VIdxI) (o m : Nat) : VIdxI.read { x.fields with op := o, member := m } = x := by
  simp [VIdxI.read, VIdxI.fields, readU_eq x.b]
theorem VTri.read_fields (x : VTri) (o m : Nat) : VTri.read { x.fields with op := o, member := m } = x := by
  simp [VTri.read, VTri.fields, readVS_eq x.b]
theorem VMovI.read_fields (x : VMovI) (o m : Nat) : VMovI.read { x.fields with op := o, member := m } = x := by
  simp [VMovI.read, VMovI.fields, readVS_eq x.b]
theorem FBin.read_fields (x : FBin) (o m : Nat) : FBin.read { x.fields with op := o, member := m } = x := by
  simp [FBin.read, FBin.fields, readVS_eq x.b]
theorem FUn.read_fields (x : FUn) (o m : Nat) : FUn.read { x.fields with op := o, member := m } = x := by
  simp [FUn.read, FUn.fields]
theorem FTri.read_fields (x : FTri) (o m : Nat) : FTri.read { x.fields with op := o, member := m } = x := by
  simp [FTri.read, FTri.fields, readVS_eq x.b]
theorem FCvtI.read_fields (x : FCvtI) (o m : Nat) : FCvtI.read { x.fields with op := o, member := m } = x := by
  simp [FCvtI.read, FCvtI.fields]
theorem BCvtI.read_fields (x : BCvtI) (o m : Nat) : BCvtI.read { x.fields with op := o, member := m } = x := by
  simp [BCvtI.read, BCvtI.fields]
theorem BaseDA.read_fields (x : BaseDA) (o m t : Nat) : BaseDA.read { x.fields with op := o, member := m, ty := t } = x := by
  simp [BaseDA.read, BaseDA.fields]
theorem VRngI.read_fields (x : VRngI) (o m : Nat) : VRngI.read { x.fields with op := o, member := m } = x := by
  simp [VRngI.read, VRngI.fields]
theorem ShflI.read_fields (x : ShflI) (o m : Nat) : ShflI.read { x.fields with op := o, member := m } = x := by
  simp [ShflI.read, ShflI.fields, readVS_eq x.b, readMask_eq x.mask (Nat.mod_eq_of_lt (MaskSrc.imm_lt x.mask))]
theorem ReduxI.read_fields (x : ReduxI) (h : redOk x.op x.ty x.mod = true) (o m : Nat) : ReduxI.read { x.fields with op := o, member := m } = x := by
  have hm := MaskSrc.imm_lt x.mask
  have ho := RedOp.code_lt x.op
  have hop : (x.mask.imm + 2 ^ 10 * x.op.code) / 2 ^ 10 % 2 ^ 4 = x.op.code := by omega
  simp only [ReduxI.read, ReduxI.fields, hop, readMask_eq x.mask (i := x.mask.imm + 2 ^ 10 * x.op.code) (by omega), readRedMod_eq x.mod h,
    Ty.ofCode_code, RedOp.ofCode_code, readV_vField]
theorem ScanI.read_fields (x : ScanI) (h : redOk x.op x.ty x.mod = true) (o m : Nat) : ScanI.read { x.fields with op := o, member := m } = x := by
  have hm := MaskSrc.imm_lt x.mask
  have ho := RedOp.code_lt x.op
  have he := bit_lt x.excl
  have hop : (x.mask.imm + 2 ^ 10 * x.op.code + 2 ^ 14 * bit x.excl) / 2 ^ 10 % 2 ^ 4 = x.op.code := by omega
  have hex : (x.mask.imm + 2 ^ 10 * x.op.code + 2 ^ 14 * bit x.excl) / 2 ^ 14 % 2 = bit x.excl := by omega
  simp only [ScanI.read, ScanI.fields, hop, hex, readMask_eq x.mask (i := x.mask.imm + 2 ^ 10 * x.op.code + 2 ^ 14 * bit x.excl) (by omega),
    readRedMod_eq x.mod h, Ty.ofCode_code, RedOp.ofCode_code, readV_vField, bit_beq_one]
theorem FfsI.read_fields (x : FfsI) (o m : Nat) : FfsI.read { x.fields with op := o, member := m } = x := by
  simp [FfsI.read, FfsI.fields]
theorem SetPartI.read_fields (x : SetPartI) (o m : Nat) : SetPartI.read { x.fields with op := o, member := m } = x := by
  simp [SetPartI.read, SetPartI.fields]
theorem LMaskI.read_fields (x : LMaskI) (o m : Nat) : LMaskI.read { x.fields with op := o, member := m } = x := by
  simp [LMaskI.read, LMaskI.fields]
theorem BrcI.read_fields (x : BrcI) (o m : Nat) : BrcI.read { x.fields with op := o, member := m } = x := by
  simp [BrcI.read, BrcI.fields]
theorem UBrcI.read_fields (x : UBrcI) (o m : Nat) : UBrcI.read { x.fields with op := o, member := m } = x := by
  simp [UBrcI.read, UBrcI.fields]
theorem JmpI.read_fields (x : JmpI) (o m : Nat) : JmpI.read { x.fields with op := o, member := m } = x := by
  simp [JmpI.read, JmpI.fields, readTarget_eq x.target]
theorem RetI.read_fields (x : RetI) (o m : Nat) : RetI.read { x.fields with op := o, member := m } = x := by
  simp [RetI.read, RetI.fields]
theorem BecomeI.read_fields (x : BecomeI) (o m : Nat) : BecomeI.read { x.fields with op := o, member := m } = x := by
  simp [BecomeI.read, BecomeI.fields, readVS_eq x.b]
theorem SyncI.read_fields (x : SyncI) (o m : Nat) : SyncI.read { x.fields with op := o, member := m } = x := by
  simp [SyncI.read, SyncI.fields, readMask_eq x.mask (Nat.mod_eq_of_lt (MaskSrc.imm_lt x.mask))]
theorem BaseB.read_fields (x : BaseB) (o m t : Nat) : BaseB.read { x.fields with op := o, member := m, ty := t } = x := by
  simp [BaseB.read, BaseB.fields]
theorem SetFmtI.read_fields (x : SetFmtI) (o m : Nat) : SetFmtI.read { x.fields with op := o, member := m } = x := by
  simp [SetFmtI.read, SetFmtI.fields, readU_eq x.b]
theorem DstS.read_fields (x : DstS) (o m : Nat) : DstS.read { x.fields with op := o, member := m } = x := by
  simp [DstS.read, DstS.fields]
theorem SetPrioI.read_fields (x : SetPrioI) (o m : Nat) : SetPrioI.read { x.fields with op := o, member := m } = x := by
  simp [SetPrioI.read, SetPrioI.fields]
theorem LdI.read_fields (x : LdI) (o m : Nat) : LdI.read { x.fields with op := o, member := m } = x := by
  simp [LdI.read, LdI.fields, readAddr_eq x.addr, immAm_memImm (AddrExp.ofs_lt x.addr) (AddrExp.am_lt x.addr), immOfs_memImm (AddrExp.ofs_lt x.addr), immSp_memImm (AddrExp.ofs_lt x.addr) (AddrExp.am_lt x.addr) (bit_lt _)]
theorem LdUI.read_fields (x : LdUI) (o m : Nat) : LdUI.read { x.fields with op := o, member := m } = x := by
  simp [LdUI.read, LdUI.fields, readAddr_eq x.addr, immAm_memImm (AddrExp.ofs_lt x.addr) (AddrExp.am_lt x.addr), immOfs_memImm (AddrExp.ofs_lt x.addr), immSp_memImm (AddrExp.ofs_lt x.addr) (AddrExp.am_lt x.addr) (bit_lt _)]
theorem AtomI.read_fields (x : AtomI) (h : x.addr.unscaled = true) (o m : Nat) : AtomI.read { x.fields with op := o, member := m } = x := by
  simp [AtomI.read, AtomI.fields, readVS_eq x.b, readAddr_eq x.addr, AddrExp.scaled_of_unscaled h, immAm_memImm (AddrExp.ofs_lt x.addr) (AddrExp.am_lt x.addr), immOfs_memImm (AddrExp.ofs_lt x.addr), immSp_memImm (AddrExp.ofs_lt x.addr) (AddrExp.am_lt x.addr) (bit_lt _),
    immAop_memImm (AddrExp.ofs_lt x.addr) (AddrExp.am_lt x.addr) (bit_lt _) (AtomOp.code_lt x.op)]
theorem AtomUI.read_fields (x : AtomUI) (h : x.addr.unscaled = true) (o m : Nat) : AtomUI.read { x.fields with op := o, member := m } = x := by
  simp [AtomUI.read, AtomUI.fields, readU_eq x.b, readAddr_eq x.addr, AddrExp.scaled_of_unscaled h, immAm_memImm (AddrExp.ofs_lt x.addr) (AddrExp.am_lt x.addr), immOfs_memImm (AddrExp.ofs_lt x.addr), immSp_memImm (AddrExp.ofs_lt x.addr) (AddrExp.am_lt x.addr) (bit_lt _),
    immAop_memImm (AddrExp.ofs_lt x.addr) (AddrExp.am_lt x.addr) (bit_lt _) (AtomOp.code_lt x.op)]
theorem RedI.read_fields (x : RedI) (h : x.addr.unscaled = true) (o m : Nat) : RedI.read { x.fields with op := o, member := m } = x := by
  simp [RedI.read, RedI.fields, readVS_eq x.b, readAddr_eq x.addr, AddrExp.scaled_of_unscaled h, immAm_memImm (AddrExp.ofs_lt x.addr) (AddrExp.am_lt x.addr), immOfs_memImm (AddrExp.ofs_lt x.addr), immSp_memImm (AddrExp.ofs_lt x.addr) (AddrExp.am_lt x.addr) (bit_lt _),
    immAop_memImm (AddrExp.ofs_lt x.addr) (AddrExp.am_lt x.addr) (bit_lt _) (AtomOp.code_lt x.op)]
theorem OAppI.read_fields (x : OAppI) (o m : Nat) : OAppI.read { x.fields with op := o, member := m } = x := by
  have hc : Fin.ofNat 4 (immCh (memImm x.ofs.toNat 0 0 0 x.ch.val)) = x.ch := ofNat_eq _ (by unfold immCh memImm; omega)
  simp only [OAppI.read, OAppI.fields, hc, immOfs_memImm x.ofs.isLt, BitVec.ofNat_toNat, BitVec.setWidth_eq, Ty.ofCode_code, readV_vField,
    readS_sField, bit_beq_one]
theorem LineI.read_fields (x : LineI) (o m : Nat) : LineI.read { x.fields with op := o, member := m } = x := by
  simp [LineI.read, LineI.fields, readAddr_eq x.addr, immAm_memImm (AddrExp.ofs_lt x.addr) (AddrExp.am_lt x.addr), immOfs_memImm (AddrExp.ofs_lt x.addr)]
theorem FenceI.read_fields (x : FenceI) (o m : Nat) : FenceI.read { x.fields with op := o, member := m } = x := by
  simp [FenceI.read, FenceI.fields]
theorem SetModI.read_fields (x : SetModI) (o m : Nat) : SetModI.read { x.fields with op := o, member := m } = x := by
  simp [SetModI.read, SetModI.fields, readU_eq x.b]
theorem StMapI.read_fields (x : StMapI) (o m : Nat) : StMapI.read { x.fields with op := o, member := m } = x := by
  simp [StMapI.read, StMapI.fields]
theorem SwInitI.read_fields (x : SwInitI) (o m : Nat) : SwInitI.read { x.fields with op := o, member := m } = x := by
  simp [SwInitI.read, SwInitI.fields, readU_eq x.b]
theorem SwI.read_fields (x : SwI) (o m : Nat) : SwI.read { x.fields with op := o, member := m } = x := by
  simp [SwI.read, SwI.fields, readU_eq x.b]
theorem SwWaitI.read_fields (x : SwWaitI) (o m : Nat) : SwWaitI.read { x.fields with op := o, member := m } = x := by
  simp [SwWaitI.read, SwWaitI.fields, readU_eq x.b]
theorem WaitI.read_fields (x : WaitI) (o m : Nat) : WaitI.read { x.fields with op := o, member := m } = x := by
  have hld : Fin.ofNat 64 ((WaitI.fields x).imm % 2 ^ 6) = x.ld := ofNat_eq _ (by unfold WaitI.fields; dsimp only; omega)
  have hst : Fin.ofNat 64 ((WaitI.fields x).imm / 2 ^ 6 % 2 ^ 6) = x.st := ofNat_eq _ (by unfold WaitI.fields; dsimp only; omega)
  have hcp : Fin.ofNat 64 ((WaitI.fields x).imm / 2 ^ 12 % 2 ^ 6) = x.cp := ofNat_eq _ (by unfold WaitI.fields; dsimp only; omega)
  have htl : Fin.ofNat 64 ((WaitI.fields x).imm / 2 ^ 18 % 2 ^ 6) = x.tl := ofNat_eq _ (by unfold WaitI.fields; dsimp only; omega)
  simp only [WaitI.read, hld, hst, hcp, htl]
theorem LdtI.read_fields (x : LdtI) (o m : Nat) : LdtI.read { x.fields with op := o, member := m } = x := by
  have hn : Fin.ofNat 16 ((x.n1.val + 2 ^ 4 * optSw x.sw) % 2 ^ 4) = x.n1 := ofNat_eq _ (by omega)
  have hs : (x.n1.val + 2 ^ 4 * optSw x.sw) / 2 ^ 4 % 2 = optSw x.sw := by
    have := optSw_lt x.sw
    omega
  simp only [LdtI.read, LdtI.fields, hn, hs, readSw_eq x.sw, readS_sField, Fin.ofNat_val_eq_self]
theorem SttI.read_fields (x : SttI) (o m : Nat) : SttI.read { x.fields with op := o, member := m } = x := by
  simp [SttI.read, SttI.fields]
theorem CqCfgI.read_fields (x : CqCfgI) (o m : Nat) : CqCfgI.read { x.fields with op := o, member := m } = x := by
  simp [CqCfgI.read, CqCfgI.fields]
theorem CopyI.read_fields (x : CopyI) (o m : Nat) : CopyI.read { x.fields with op := o, member := m } = x := by
  have hdv : (bit x.dv + 2 * bit x.av + 4 * optSw x.sw) % 2 = bit x.dv := by
    have := bit_lt x.dv
    omega
  have hav : (bit x.dv + 2 * bit x.av + 4 * optSw x.sw) / 2 % 2 = bit x.av := by
    have := bit_lt x.dv
    have := bit_lt x.av
    omega
  have hs : (bit x.dv + 2 * bit x.av + 4 * optSw x.sw) / 4 % 2 = optSw x.sw := by
    have := bit_lt x.dv
    have := bit_lt x.av
    have := optSw_lt x.sw
    omega
  simp only [CopyI.read, CopyI.fields, hdv, hav, hs, readSw_eq x.sw, readS_sField, bit_beq_one]
theorem GatherI.read_fields (x : GatherI) (o m : Nat) : GatherI.read { x.fields with op := o, member := m } = x := by
  have hs : 2 ^ 4 * optSw x.sw / 2 ^ 4 % 2 = optSw x.sw := by
    have := optSw_lt x.sw
    omega
  simp only [GatherI.read, GatherI.fields, hs, readSw_eq x.sw, readS_sField, bit_beq_one, Ty.ofCode_code]
theorem ScatterI.read_fields (x : ScatterI) (o m : Nat) : ScatterI.read { x.fields with op := o, member := m } = x := by
  simp [ScatterI.read, ScatterI.fields]
theorem ScatAddI.read_fields (x : ScatAddI) (o m : Nat) : ScatAddI.read { x.fields with op := o, member := m } = x := by
  simp [ScatAddI.read, ScatAddI.fields]
theorem StrCfgI.read_fields (x : StrCfgI) (o m : Nat) : StrCfgI.read { x.fields with op := o, member := m } = x := by
  simp [StrCfgI.read, StrCfgI.fields]
theorem StrGoI.read_fields (x : StrGoI) (o m : Nat) : StrGoI.read { x.fields with op := o, member := m } = x := by
  simp [StrGoI.read, StrGoI.fields]
theorem StrHaltI.read_fields (x : StrHaltI) (o m : Nat) : StrHaltI.read { x.fields with op := o, member := m } = x := by
  simp [StrHaltI.read, StrHaltI.fields]
theorem SpBindI.read_fields (x : SpBindI) (o m : Nat) : SpBindI.read { x.fields with op := o, member := m } = x := by
  cases x with
  | mk q e nt => cases e <;> simp [SpBindI.read, SpBindI.fields]
theorem SlotSigI.read_fields (x : SlotSigI) (o m : Nat) : SlotSigI.read { x.fields with op := o, member := m } = x := by
  simp [SlotSigI.read, SlotSigI.fields]
theorem CollI.read_fields (x : CollI) (o m : Nat) : CollI.read { x.fields with op := o, member := m } = x := by
  have hk : (x.kind.code + 2 ^ 4 * x.op.code) % 2 ^ 4 = x.kind.code := by
    have := CollKind.code_lt x.kind
    omega
  have ho : (x.kind.code + 2 ^ 4 * x.op.code) / 2 ^ 4 % 2 ^ 4 = x.op.code := by
    have := CollKind.code_lt x.kind
    have := RedOp.code_lt x.op
    omega
  simp only [CollI.read, CollI.fields, hk, ho, CollKind.ofCode_code, RedOp.ofCode_code, Ty.ofCode_code, readS_sField, bit_beq_one]
theorem MResI.read_fields (x : MResI) (o m : Nat) : MResI.read { x.fields with op := o, member := m } = x := by
  have hm : Fin.ofNat 64 ((x.nm.val + 2 ^ 8 * x.nk.val) % 2 ^ 6) = x.nm := ofNat_eq _ (by omega)
  have hk : Fin.ofNat 16 ((x.nm.val + 2 ^ 8 * x.nk.val) / 2 ^ 8 % 2 ^ 4) = x.nk := ofNat_eq _ (by omega)
  simp only [MResI.read, MResI.fields, hm, hk, Fin.ofNat_val_eq_self]
theorem MldbI.read_fields (x : MldbI) (o m : Nat) : MldbI.read { x.fields with op := o, member := m } = x := by
  simp [MldbI.read, MldbI.fields, readWidth_eq x.w]
theorem MMulI.read_fields (x : MMulI) (o m : Nat) : MMulI.read { x.fields with op := o, member := m } = x := by
  have hm : Fin.ofNat 32 ((x.nm1.val + 2 ^ 8 * x.nr1.val) % 2 ^ 5) = x.nm1 := ofNat_eq _ (by omega)
  have hr : Fin.ofNat 32 ((x.nm1.val + 2 ^ 8 * x.nr1.val) / 2 ^ 8 % 2 ^ 5) = x.nr1 := ofNat_eq _ (by omega)
  simp only [MMulI.read, MMulI.fields, readWidth_eq x.w, hm, hr, readS_sField, Fin.ofNat_val_eq_self]
theorem MaMovI.read_fields (x : MaMovI) (o m : Nat) : MaMovI.read { x.fields with op := o, member := m } = x := by
  have hb := bit_lt x.inward
  have hi : (bit x.inward + 2 ^ 8 * x.nr1.val) % 2 = bit x.inward := by omega
  have hr : Fin.ofNat 32 ((bit x.inward + 2 ^ 8 * x.nr1.val) / 2 ^ 8 % 2 ^ 5) = x.nr1 := ofNat_eq _ (by omega)
  simp only [MaMovI.read, MaMovI.fields, hi, hr, readS_sField, bit_beq_one, Fin.ofNat_val_eq_self]
theorem MZeroI.read_fields (x : MZeroI) (o m : Nat) : MZeroI.read { x.fields with op := o, member := m } = x := by
  simp [MZeroI.read, MZeroI.fields]
theorem MWaitI.read_fields (x : MWaitI) (o m : Nat) : MWaitI.read { x.fields with op := o, member := m } = x := by
  simp [MWaitI.read, MWaitI.fields]
theorem PruneI.read_fields (x : PruneI) (o m : Nat) : PruneI.read { x.fields with op := o, member := m } = x := by
  have ht := bit_lt x.tp
  have h4 := bit_lt x.idx4
  obtain ⟨i, hi⟩ : ∃ i, i = x.nm1.val + 2 ^ 4 * x.mc.val + 2 ^ 6 * bit x.tp + 2 ^ 7 * bit x.idx4 + 2 ^ 8 * x.cm1.val + 2 ^ 16 * x.km.val :=
    ⟨_, rfl⟩
  have hn : Fin.ofNat 16 (i % 2 ^ 4) = x.nm1 := ofNat_eq _ (by omega)
  have hm : Fin.ofNat 4 (i / 2 ^ 4 % 2 ^ 2) = x.mc := ofNat_eq _ (by omega)
  have htp : i / 2 ^ 6 % 2 = bit x.tp := by omega
  have hx : i / 2 ^ 7 % 2 = bit x.idx4 := by omega
  have hc : Fin.ofNat 256 (i / 2 ^ 8 % 2 ^ 8) = x.cm1 := ofNat_eq _ (by omega)
  have hk : Fin.ofNat 1024 (i / 2 ^ 16 % 2 ^ 10) = x.km := ofNat_eq _ (by omega)
  simp only [PruneI.read, PruneI.fields, ← hi, readWidth_eq x.w, hn, hm, htp, hx, hc, hk, readS_sField, bit_beq_one, Fin.ofNat_val_eq_self]
theorem MldbsI.read_fields (x : MldbsI) (o m : Nat) : MldbsI.read { x.fields with op := o, member := m } = x := by
  simp [MldbsI.read, MldbsI.fields, readWidth_eq x.w]
theorem MmulsI.read_fields (x : MmulsI) (o m : Nat) : MmulsI.read { x.fields with op := o, member := m } = x := by
  have hr : Fin.ofNat 32 (2 ^ 8 * x.nr1.val / 2 ^ 8 % 2 ^ 5) = x.nr1 := ofNat_eq _ (by omega)
  simp only [MmulsI.read, MmulsI.fields, readWidth_eq x.w, hr, readS_sField, Fin.ofNat_val_eq_self]
theorem MHdrI.read_fields (x : MHdrI) (o m : Nat) : MHdrI.read { x.fields with op := o, member := m } = x := by
  simp [MHdrI.read, MHdrI.fields]
theorem PushI.read_fields (x : PushI) (o m : Nat) : PushI.read { x.fields with op := o, member := m } = x := by
  simp [PushI.read, PushI.fields]
theorem PopI.read_fields (x : PopI) (o m : Nat) : PopI.read { x.fields with op := o, member := m } = x := by
  simp [PopI.read, PopI.fields]
theorem DaI.read_fields (x : DaI) (o m : Nat) : DaI.read { x.fields with op := o, member := m } = x := by
  simp [DaI.read, DaI.fields]
theorem QStatI.read_fields (x : QStatI) (o m : Nat) : QStatI.read { x.fields with op := o, member := m } = x := by
  cases x with
  | mk d a => cases a <;> simp [QStatI.read, QStatI.fields]
theorem AbI.read_fields (x : AbI) (o m : Nat) : AbI.read { x.fields with op := o, member := m } = x := by
  simp [AbI.read, AbI.fields]
theorem SrcA.read_fields (x : SrcA) (o m : Nat) : SrcA.read { x.fields with op := o, member := m } = x := by
  simp [SrcA.read, SrcA.fields]
theorem FutSetI.read_fields (x : FutSetI) (o m : Nat) : FutSetI.read { x.fields with op := o, member := m } = x := by
  cases x with
  | mk a b => cases b <;> simp [FutSetI.read, FutSetI.fields]
theorem CodeI.read_fields (x : CodeI) (o m : Nat) : CodeI.read { x.fields with op := o, member := m } = x := by
  simp [CodeI.read, CodeI.fields]
theorem SyscallI.read_fields (x : SyscallI) (o m : Nat) : SyscallI.read { x.fields with op := o, member := m } = x := by
  simp [SyscallI.read, SyscallI.fields]
theorem CsrRI.read_fields (x : CsrRI) (o m : Nat) : CsrRI.read { x.fields with op := o, member := m } = x := by
  simp [CsrRI.read, CsrRI.fields]
theorem CsrWI.read_fields (x : CsrWI) (o m : Nat) : CsrWI.read { x.fields with op := o, member := m } = x := by
  simp [CsrWI.read, CsrWI.fields]
theorem ChkModeI.read_fields (x : ChkModeI) (o m : Nat) : ChkModeI.read { x.fields with op := o, member := m } = x := by
  simp [ChkModeI.read, ChkModeI.fields]
theorem RpGetI.read_fields (x : RpGetI) (o m : Nat) : RpGetI.read { x.fields with op := o, member := m } = x := by
  simp [RpGetI.read, RpGetI.fields]
theorem CkSealI.read_fields (x : CkSealI) (o m : Nat) : CkSealI.read { x.fields with op := o, member := m } = x := by
  simp [CkSealI.read, CkSealI.fields]
theorem FinjI.read_fields (x : FinjI) (o m : Nat) : FinjI.read { x.fields with op := o, member := m } = x := by
  simp [FinjI.read, FinjI.fields]
theorem VoteI.read_fields (x : VoteI) (o m : Nat) : VoteI.read { x.fields with op := o, member := m } = x := by
  cases x with
  | mk d a mask =>
    cases d <;> simp [VoteI.read, VoteI.fields, readMask_eq mask (Nat.mod_eq_of_lt (MaskSrc.imm_lt mask))]
theorem GetSrI.read_fields (x : GetSrI) (h : x.ok = true) (o m : Nat) : GetSrI.read { x.fields with op := o, member := m } = x := by
  obtain ⟨sel, clr, d⟩ := x
  have hc := SpecReg.code_lt sel
  have hb := bit_lt clr
  have hs : (sel.code + 2 ^ 8 * bit clr) % 2 ^ 5 = sel.code := by omega
  have hl : (sel.code + 2 ^ 8 * bit clr) / 2 ^ 8 % 2 = bit clr := by omega
  cases d with
  | v d =>
    have hsel : sel.code < 3 := by cases sel <;> simp_all [GetSrI.ok, SpecReg.code]
    simp only [GetSrI.read, GetSrI.fields, hs, hl, if_pos hsel, SpecReg.ofCode_code, readV_vField, bit_beq_one]
  | s d =>
    have hsel : ¬ sel.code < 3 := by cases sel <;> simp_all [GetSrI.ok, SpecReg.code]
    simp only [GetSrI.read, GetSrI.fields, hs, hl, if_neg hsel, SpecReg.ofCode_code, readS_sField, bit_beq_one]

@[simp] theorem USrc.len_lt (b : USrc) : b.len < 4 := by cases b <;> simp [USrc.len]
@[simp] theorem USrc.field_lt (b : USrc) : b.field < 256 := by cases b <;> simp [USrc.field]
@[simp] theorem USrc.lit_lt (b : USrc) : b.lit < 18446744073709551616 := by
  cases b with
  | reg r => exact Nat.two_pow_pos 64
  | short v => exact v.isLt
  | long v => exact v.isLt
@[simp] theorem VSrc.len_lt (b : VSrc) : b.len < 4 := by cases b <;> simp [VSrc.len]
@[simp] theorem VSrc.field_lt (b : VSrc) : b.field < 256 := by cases b <;> simp [VSrc.field]
@[simp] theorem VSrc.lit_lt (b : VSrc) : b.lit < 18446744073709551616 := by
  cases b with
  | reg r => exact Nat.two_pow_pos 64
  | short v => exact v.isLt
  | long v => exact v.isLt
@[simp] theorem Target.len_lt (b : Target) : b.len < 4 := by cases b <;> simp [Target.len]
@[simp] theorem Target.field_lt (b : Target) : b.field < 256 := by cases b <;> simp [Target.field]
@[simp] theorem Target.us_lt (b : Target) : b.us < 2 := by cases b <;> simp [Target.us]
@[simp] theorem Target.litVal_lt (b : Target) : b.litVal < 18446744073709551616 := by
  cases b with
  | lit v => exact v.isLt
  | _ => exact Nat.two_pow_pos 64
@[simp] theorem Width.ty_lt (w : Width) : w.ty < 16 := by cases w <;> simp [Width.ty]
@[simp] theorem Width.mod_lt (w : Width) : w.mod < 8 := by
  cases w with
  | fmt => decide
  | bfp k => exact Nat.add_lt_add_right k.isLt 1
@[simp] theorem optC_lt (w : Option SReg) : optC w < 256 := by cases w <;> simp [optC]

@[simp] theorem sX_le (r : SReg) : sX r ≤ 1 := Nat.le_of_lt_succ (sX_lt r)
@[simp] theorem vX_le (r : VOp) : vX r ≤ 1 := Nat.le_of_lt_succ (vX_lt r)
@[simp] theorem bit_le (b : Bool) : bit b ≤ 1 := Nat.le_of_lt_succ (bit_lt b)
@[simp] theorem optXC_le (w : Option SReg) : optXC w ≤ 1 := by cases w <;> simp [optXC]
@[simp] theorem USrc.x_le (b : USrc) : b.x ≤ 1 := by cases b <;> simp [USrc.x]
@[simp] theorem VSrc.x_le (b : VSrc) : b.x ≤ 1 := by cases b <;> simp [VSrc.x]
@[simp] theorem Target.x_le (b : Target) : b.x ≤ 1 := by cases b <;> simp [Target.x]
@[simp] theorem AddrExp.xa_le (e : AddrExp) : e.xa ≤ 1 := Nat.le_of_lt_succ (AddrExp.xa_lt e)
@[simp] theorem AddrExp.xc_le (e : AddrExp) : e.xc ≤ 1 := Nat.le_of_lt_succ (AddrExp.xc_lt e)

@[simp] theorem bit_lt_of (b : Bool) {n : Nat} (h : 2 ≤ n) : bit b < n := Nat.lt_of_lt_of_le (bit_lt b) h
@[simp] theorem code_lt_of (k : Cond) {n : Nat} (h : 16 ≤ n) : k.code < n := Nat.lt_of_lt_of_le (Cond.code_lt k) h
@[simp] theorem us_lt_of (k : Target) {n : Nat} (h : 2 ≤ n) : k.us < n := Nat.lt_of_lt_of_le (Target.us_lt k) h
@[simp] theorem mask_lt_of (k : MaskSrc) {n : Nat} (h : 1024 ≤ n) : k.imm < n := Nat.lt_of_lt_of_le (MaskSrc.imm_lt k) h
@[simp] theorem lmask_lt_of (k : LMaskKind) {n : Nat} (h : 16 ≤ n) : k.code < n := Nat.lt_of_lt_of_le (LMaskKind.code_lt k) h
@[simp] theorem redOp_lt_of (k : RedOp) {n : Nat} (h : 16 ≤ n) : k.code < n := Nat.lt_of_lt_of_le (RedOp.code_lt k) h
@[simp] theorem optSw_lt_of (k : Option SReg) {n : Nat} (h : 2 ≤ n) : optSw k < n := Nat.lt_of_lt_of_le (optSw_lt k) h

/-- Every field lies in its bits of the words (02 R22, R25). -/
structure Fits (f : Fields) : Prop where
  len : f.len < 4
  op : f.op < 64
  d : f.d < 256
  a : f.a < 256
  b : f.b < 256
  member : f.member < 64
  var : f.var < 4
  grd : f.grd < 16
  c : f.c < 256
  ty : f.ty < 16
  mod : f.mod < 8
  xd : f.xd < 2
  xa : f.xa < 2
  xb : f.xb < 2
  xc : f.xc < 2
  nt : f.nt < 2
  imm : f.imm < 2 ^ 32
  lit : f.lit < 2 ^ 64

theorem Fits.withOp {f : Fields} (h : Fits f) {o m : Nat} (ho : o < 64) (hm : m < 64) : Fits { f with op := o, member := m } :=
  { h with op := ho, member := hm }

theorem Fits.withTy {f : Fields} (h : Fits f) {o m t : Nat} (ho : o < 64) (hm : m < 64) (ht : t < 16) :
    Fits { f with op := o, member := m, ty := t } :=
  { h with op := ho, member := hm, ty := ht }

theorem UBin.fits (x : UBin) : Fits x.fields := by
  constructor <;> simp [UBin.fields]
theorem USet.fits (x : USet) : Fits x.fields := by
  constructor <;> simp [USet.fields]
  omega
theorem CallI.fits (x : CallI) : Fits x.fields := by
  constructor <;> simp [CallI.fields]
theorem BraI.fits (x : BraI) : Fits x.fields := by
  constructor <;> simp [BraI.fields]
  omega
theorem Base3.fits (x : Base3) : Fits x.fields := by
  constructor <;> simp [Base3.fields]
theorem USel.fits (x : USel) : Fits x.fields := by
  constructor <;> simp [USel.fields]
  omega
theorem UUn.fits (x : UUn) : Fits x.fields := by
  constructor <;> simp [UUn.fields]
theorem UBfx.fits (x : UBfx) : Fits x.fields := by
  constructor <;> simp [UBfx.fields]
  omega
theorem UBfi.fits (x : UBfi) : Fits x.fields := by
  constructor <;> simp [UBfi.fields]
  omega
theorem BaseDB.fits (x : BaseDB) : Fits x.fields := by
  constructor <;> simp [BaseDB.fields]
theorem UMov.fits (x : UMov) : Fits x.fields := by
  constructor <;> simp [UMov.fields]
theorem ULit.fits (x : ULit) : Fits x.fields := by
  cases x with
  | mk d lit long => cases long <;> constructor <;> simp [ULit.fields] <;> omega
theorem VBin.fits (x : VBin) : Fits x.fields := by
  constructor <;> simp [VBin.fields]
theorem VUn.fits (x : VUn) : Fits x.fields := by
  constructor <;> simp [VUn.fields]
theorem VSetI.fits (x : VSetI) : Fits x.fields := by
  constructor <;> simp [VSetI.fields]
  omega
theorem VPredI.fits (x : VPredI) : Fits x.fields := by
  constructor <;> simp [VPredI.fields]
  omega
theorem VBfx.fits (x : VBfx) : Fits x.fields := by
  constructor <;> simp [VBfx.fields]
  omega
theorem VBfi.fits (x : VBfi) : Fits x.fields := by
  constructor <;> simp [VBfi.fields]
  omega
theorem VIdxI.fits (x : VIdxI) : Fits x.fields := by
  constructor <;> simp [VIdxI.fields]
theorem VTri.fits (x : VTri) : Fits x.fields := by
  constructor <;> simp [VTri.fields]
theorem VMovI.fits (x : VMovI) : Fits x.fields := by
  constructor <;> simp [VMovI.fields]
theorem FBin.fits (x : FBin) : Fits x.fields := by
  constructor <;> simp [FBin.fields]
theorem FUn.fits (x : FUn) : Fits x.fields := by
  constructor <;> simp [FUn.fields]
theorem FTri.fits (x : FTri) : Fits x.fields := by
  constructor <;> simp [FTri.fields]
theorem FCvtI.fits (x : FCvtI) : Fits x.fields := by
  constructor <;> simp [FCvtI.fields]
  omega
theorem BCvtI.fits (x : BCvtI) : Fits x.fields := by
  constructor <;> simp [BCvtI.fields]
  omega
theorem BaseDA.fits (x : BaseDA) : Fits x.fields := by
  constructor <;> simp [BaseDA.fields]
theorem VRngI.fits (x : VRngI) : Fits x.fields := by
  constructor <;> simp [VRngI.fields]
theorem ShflI.fits (x : ShflI) : Fits x.fields := by
  constructor <;> simp [ShflI.fields]
  omega
theorem ReduxI.fits (x : ReduxI) : Fits x.fields := by
  have h0 := MaskSrc.imm_lt x.mask
  have h1 := RedOp.code_lt x.op
  constructor <;> simp [ReduxI.fields]
  omega
theorem ScanI.fits (x : ScanI) : Fits x.fields := by
  have h0 := MaskSrc.imm_lt x.mask
  have h1 := RedOp.code_lt x.op
  have h2 := bit_lt x.excl
  constructor <;> simp [ScanI.fields]
  omega
theorem FfsI.fits (x : FfsI) : Fits x.fields := by
  constructor <;> simp [FfsI.fields]
theorem SetPartI.fits (x : SetPartI) : Fits x.fields := by
  constructor <;> simp [SetPartI.fields]
  omega
theorem LMaskI.fits (x : LMaskI) : Fits x.fields := by
  constructor <;> simp [LMaskI.fields]
theorem BrcI.fits (x : BrcI) : Fits x.fields := by
  constructor <;> simp [BrcI.fields] <;> omega
theorem UBrcI.fits (x : UBrcI) : Fits x.fields := by
  constructor <;> simp [UBrcI.fields] <;> omega
theorem JmpI.fits (x : JmpI) : Fits x.fields := by
  constructor <;> simp [JmpI.fields]
theorem RetI.fits (x : RetI) : Fits x.fields := by
  constructor <;> simp [RetI.fields]
theorem BecomeI.fits (x : BecomeI) : Fits x.fields := by
  constructor <;> simp [BecomeI.fields]
theorem SyncI.fits (x : SyncI) : Fits x.fields := by
  constructor <;> simp [SyncI.fields]
theorem BaseB.fits (x : BaseB) : Fits x.fields := by
  constructor <;> simp [BaseB.fields]
theorem SetFmtI.fits (x : SetFmtI) : Fits x.fields := by
  constructor <;> simp [SetFmtI.fields]
theorem DstS.fits (x : DstS) : Fits x.fields := by
  constructor <;> simp [DstS.fields]
theorem SetPrioI.fits (x : SetPrioI) : Fits x.fields := by
  constructor <;> simp [SetPrioI.fields]
  omega
theorem LdI.fits (x : LdI) : Fits x.fields := by
  have hi := memImm_lt (AddrExp.ofs_lt x.addr) (AddrExp.am_lt x.addr) (bit_lt x.sp) (aop := 0) (ch := 0) (by decide) (by decide)
  constructor <;> simp [LdI.fields]
  omega
theorem LdUI.fits (x : LdUI) : Fits x.fields := by
  have hi := memImm_lt (AddrExp.ofs_lt x.addr) (AddrExp.am_lt x.addr) (bit_lt x.sp) (aop := 0) (ch := 0) (by decide) (by decide)
  constructor <;> simp [LdUI.fields]
  omega
theorem AtomI.fits (x : AtomI) : Fits x.fields := by
  have hi := memImm_lt (AddrExp.ofs_lt x.addr) (AddrExp.am_lt x.addr) (bit_lt x.sp) (ch := 0) (AtomOp.code_lt x.op) (by decide)
  constructor <;> simp [AtomI.fields]
  omega
theorem AtomUI.fits (x : AtomUI) : Fits x.fields := by
  have hi := memImm_lt (AddrExp.ofs_lt x.addr) (AddrExp.am_lt x.addr) (bit_lt x.sp) (ch := 0) (AtomOp.code_lt x.op) (by decide)
  constructor <;> simp [AtomUI.fields]
  omega
theorem RedI.fits (x : RedI) : Fits x.fields := by
  have hi := memImm_lt (AddrExp.ofs_lt x.addr) (AddrExp.am_lt x.addr) (bit_lt x.sp) (ch := 0) (AtomOp.code_lt x.op) (by decide)
  constructor <;> simp [RedI.fields]
  omega
theorem OAppI.fits (x : OAppI) : Fits x.fields := by
  have hi := memImm_lt x.ofs.isLt (am := 0) (sp := 0) (aop := 0) (by decide) (by decide) (by decide) x.ch.isLt
  constructor <;> simp [OAppI.fields]
  omega
theorem LineI.fits (x : LineI) : Fits x.fields := by
  have hi := memImm_lt (AddrExp.ofs_lt x.addr) (AddrExp.am_lt x.addr) (sp := 0) (aop := 0) (ch := 0) (by decide) (by decide) (by decide)
  constructor <;> simp [LineI.fields]
  omega
theorem FenceI.fits (x : FenceI) : Fits x.fields := by
  constructor <;> simp [FenceI.fields]
theorem SetModI.fits (x : SetModI) : Fits x.fields := by
  constructor <;> simp [SetModI.fields] <;> omega
theorem StMapI.fits (x : StMapI) : Fits x.fields := by
  constructor <;> simp [StMapI.fields]
theorem SwInitI.fits (x : SwInitI) : Fits x.fields := by
  constructor <;> simp [SwInitI.fields]
theorem SwI.fits (x : SwI) : Fits x.fields := by
  constructor <;> simp [SwI.fields]
theorem SwWaitI.fits (x : SwWaitI) : Fits x.fields := by
  constructor <;> simp [SwWaitI.fields]
  omega
theorem WaitI.fits (x : WaitI) : Fits x.fields := by
  constructor <;> simp [WaitI.fields]
  omega
theorem LdtI.fits (x : LdtI) : Fits x.fields := by
  have h0 := optSw_lt x.sw
  constructor <;> simp [LdtI.fields] <;> omega
theorem SttI.fits (x : SttI) : Fits x.fields := by
  constructor <;> simp [SttI.fields] <;> omega
theorem CqCfgI.fits (x : CqCfgI) : Fits x.fields := by
  constructor <;> simp [CqCfgI.fields] <;> omega
theorem CopyI.fits (x : CopyI) : Fits x.fields := by
  have h0 := bit_lt x.dv
  have h1 := bit_lt x.av
  have h2 := optSw_lt x.sw
  constructor <;> simp [CopyI.fields]
  omega
theorem GatherI.fits (x : GatherI) : Fits x.fields := by
  have h0 := optSw_lt x.sw
  constructor <;> simp [GatherI.fields]
  omega
theorem ScatterI.fits (x : ScatterI) : Fits x.fields := by
  constructor <;> simp [ScatterI.fields]
theorem ScatAddI.fits (x : ScatAddI) : Fits x.fields := by
  constructor <;> simp [ScatAddI.fields]
theorem StrCfgI.fits (x : StrCfgI) : Fits x.fields := by
  constructor <;> simp [StrCfgI.fields] <;> omega
theorem StrGoI.fits (x : StrGoI) : Fits x.fields := by
  constructor <;> simp [StrGoI.fields]
  omega
theorem StrHaltI.fits (x : StrHaltI) : Fits x.fields := by
  constructor <;> simp [StrHaltI.fields]
  omega
theorem SpBindI.fits (x : SpBindI) : Fits x.fields := by
  cases x with
  | mk q e nt => cases e <;> constructor <;> simp [SpBindI.fields] <;> omega
theorem SlotSigI.fits (x : SlotSigI) : Fits x.fields := by
  constructor <;> simp [SlotSigI.fields] <;> omega
theorem CollI.fits (x : CollI) : Fits x.fields := by
  have h0 := CollKind.code_lt x.kind
  have h1 := RedOp.code_lt x.op
  constructor <;> simp [CollI.fields]
  omega
theorem MResI.fits (x : MResI) : Fits x.fields := by
  constructor <;> simp [MResI.fields] <;> omega
theorem MldbI.fits (x : MldbI) : Fits x.fields := by
  constructor <;> simp [MldbI.fields]
  omega
theorem MMulI.fits (x : MMulI) : Fits x.fields := by
  constructor <;> simp [MMulI.fields] <;> omega
theorem MaMovI.fits (x : MaMovI) : Fits x.fields := by
  have h0 := bit_lt x.inward
  constructor <;> simp [MaMovI.fields] <;> omega
theorem MZeroI.fits (x : MZeroI) : Fits x.fields := by
  constructor <;> simp [MZeroI.fields]
  omega
theorem MWaitI.fits (x : MWaitI) : Fits x.fields := by
  constructor <;> simp [MWaitI.fields]
  omega
theorem PruneI.fits (x : PruneI) : Fits x.fields := by
  have h0 := bit_lt x.tp
  have h1 := bit_lt x.idx4
  constructor <;> simp [PruneI.fields] <;> omega
theorem MldbsI.fits (x : MldbsI) : Fits x.fields := by
  constructor <;> simp [MldbsI.fields]
  omega
theorem MmulsI.fits (x : MmulsI) : Fits x.fields := by
  constructor <;> simp [MmulsI.fields] <;> omega
theorem MHdrI.fits (x : MHdrI) : Fits x.fields := by
  constructor <;> simp [MHdrI.fields]
theorem PushI.fits (x : PushI) : Fits x.fields := by
  constructor <;> simp [PushI.fields]
theorem PopI.fits (x : PopI) : Fits x.fields := by
  constructor <;> simp [PopI.fields]
  omega
theorem DaI.fits (x : DaI) : Fits x.fields := by
  constructor <;> simp [DaI.fields]
theorem QStatI.fits (x : QStatI) : Fits x.fields := by
  cases x with
  | mk d a => cases a <;> constructor <;> simp [QStatI.fields]
theorem AbI.fits (x : AbI) : Fits x.fields := by
  constructor <;> simp [AbI.fields]
theorem SrcA.fits (x : SrcA) : Fits x.fields := by
  constructor <;> simp [SrcA.fields]
theorem FutSetI.fits (x : FutSetI) : Fits x.fields := by
  cases x with
  | mk a b => cases b <;> constructor <;> simp [FutSetI.fields]
theorem CodeI.fits (x : CodeI) : Fits x.fields := by
  constructor <;> simp [CodeI.fields]
  omega
theorem SyscallI.fits (x : SyscallI) : Fits x.fields := by
  constructor <;> simp [SyscallI.fields]
  omega
theorem CsrRI.fits (x : CsrRI) : Fits x.fields := by
  constructor <;> simp [CsrRI.fields]
  omega
theorem CsrWI.fits (x : CsrWI) : Fits x.fields := by
  constructor <;> simp [CsrWI.fields]
  omega
theorem ChkModeI.fits (x : ChkModeI) : Fits x.fields := by
  constructor <;> simp [ChkModeI.fields]
  omega
theorem RpGetI.fits (x : RpGetI) : Fits x.fields := by
  constructor <;> simp [RpGetI.fields]
  omega
theorem CkSealI.fits (x : CkSealI) : Fits x.fields := by
  constructor <;> simp [CkSealI.fields]
  omega
theorem FinjI.fits (x : FinjI) : Fits x.fields := by
  constructor <;> simp [FinjI.fields]
theorem VoteI.fits (x : VoteI) : Fits x.fields := by
  cases x with
  | mk d a mask => cases d <;> constructor <;> simp [VoteI.fields] <;> omega
theorem GetSrI.fits (x : GetSrI) : Fits x.fields := by
  obtain ⟨sel, clr, d⟩ := x
  have hs := SpecReg.code_lt sel
  have hc := bit_lt clr
  cases d <;> constructor <;> simp [GetSrI.fields] <;> omega

/-! ## Words and bytes (02 R20, 00 R5) -/

theorem wordsOfBytes_bytesOfWord {w : Nat} (h : w < 2 ^ 32) (rest : List Byte) :
    wordsOfBytes (bytesOfWord w ++ rest) = w :: wordsOfBytes rest := by
  simp only [bytesOfWord, List.cons_append, List.nil_append, wordsOfBytes, BitVec.toNat_ofNat]
  congr 1
  omega

theorem wordsOfBytes_flatMap {ws : List Nat} (h : ∀ w, w ∈ ws → w < 2 ^ 32) (rest : List Byte) :
    wordsOfBytes (ws.flatMap bytesOfWord ++ rest) = ws ++ wordsOfBytes rest := by
  induction ws with
  | nil => rfl
  | cons w ws ih =>
    rw [List.flatMap_cons, List.append_assoc, wordsOfBytes_bytesOfWord (h w (List.mem_cons_self ..)),
      ih (fun v hv => h v (List.mem_cons_of_mem _ hv))]
    rfl

/-- A last partial word is dropped. -/
theorem length_wordsOfBytes (bs : List Byte) : 4 * (wordsOfBytes bs).length ≤ bs.length := by
  induction bs using wordsOfBytes.induct with
  | case1 b0 b1 b2 b3 rest ih =>
    simp only [wordsOfBytes, List.length_cons]
    omega
  | case2 bs h =>
    rw [wordsOfBytes]
    · simp
    · exact h

section
variable {f : Fields} (h : Fits f)
include h

theorem Fits.word0_lt : f.word0 < 2 ^ 32 := by
  obtain ⟨hl, ho, hd, ha, hb, -⟩ := h
  unfold Fields.word0
  omega

theorem Fits.word1_lt : f.word1 < 2 ^ 32 := by
  obtain ⟨-, -, -, -, -, hm, hv, hg, hc, ht, hmod, hxd, hxa, hxb, hxc, hnt, -⟩ := h
  unfold Fields.word1
  omega

theorem Fits.words_lt : ∀ w, w ∈ f.words → w < 2 ^ 32 := by
  have h0 := h.word0_lt
  have h1 := h.word1_lt
  have hi := h.imm
  have hl := h.lit
  have hlow : f.lit % 2 ^ 32 < 2 ^ 32 := Nat.mod_lt _ (by decide)
  have hhigh : f.lit / 2 ^ 32 < 2 ^ 32 := by omega
  intro w hw
  unfold Fields.words at hw
  split at hw <;> simp only [List.mem_cons, List.not_mem_nil, or_false] at hw <;> rcases hw with rfl | rfl | rfl | rfl | rfl <;> assumption

theorem Fits.ofWord0_word0 : Fields.ofWord0 f.word0 = { len := f.len, op := f.op, d := f.d, a := f.a, b := f.b } := by
  obtain ⟨hl, ho, hd, ha, hb, -⟩ := h
  unfold Fields.ofWord0 Fields.word0
  congr 1 <;> omega

theorem Fits.withExt_word1 (g : Fields) : g.withExt f.word1 f.imm =
    { f with len := g.len, op := g.op, d := g.d, a := g.a, b := g.b, lit := g.lit } := by
  obtain ⟨-, -, -, -, -, hm, hv, hg, hc, ht, hmod, hxd, hxa, hxb, hxc, hnt, -⟩ := h
  unfold Fields.withExt Fields.word1
  congr 1 <;> omega

end

/-- The fields that the words of `f` do not hold have their implied values (02 R23, R30): a base word and a LEN 0b01 form have member 0 and
the default type, and nothing else but their operands; a form without a literal has none; TY is never the code 0 of a type that stands for
another. -/
def Implied (f : Fields) : Prop :=
  (f.len = 0 → f = { len := 0, op := f.op, d := f.d, a := f.a, b := f.b, ty := defaultTy f.op 0 }) ∧
  (f.len = 1 → f = { len := 1, op := f.op, d := f.d, a := f.a, b := f.b, ty := defaultTy f.op 0, lit := f.lit }) ∧
  (f.len = 2 → f.lit = 0) ∧ (2 ≤ f.len → f.ty = 0 → defaultTy f.op f.member = 0)

theorem Fits.word0_mod {f : Fields} (h : Fits f) : f.word0 % 4 = f.len := by
  have := h.len
  unfold Fields.word0
  omega

theorem literal_eq (v : Nat) : v % 2 ^ 32 + 2 ^ 32 * (v / 2 ^ 32) = v := by omega

/-- The fields read from the words of `f` are `f` but for a type code that the default stands for. -/
theorem ofWords_words {f : Fields} (h : Fits f) (hi : Implied f) (rest : List Nat) :
    ∃ g, Fields.ofWords (f.words ++ rest) = some g ∧ g.norm = f ∧ g.op = f.op ∧ g.len = f.len := by
  obtain ⟨hi0, hi1, hi2, hty⟩ := hi
  have hm := h.word0_mod
  have hw := h.ofWord0_word0
  have hx := h.withExt_word1 { len := f.len, op := f.op, d := f.d, a := f.a, b := f.b }
  have hlen := h.len
  have hnorm : 2 ≤ f.len → f.norm = f := by
    intro h2
    have hd := hty h2
    unfold Fields.norm
    split
    · next h0 => rw [hd h0, ← h0]
    · rfl
  obtain h0 | h1 | h2 | h3 : f.len = 0 ∨ f.len = 1 ∨ f.len = 2 ∨ f.len = 3 := by omega
  · refine ⟨{ len := f.len, op := f.op, d := f.d, a := f.a, b := f.b }, ?_, ?_, rfl, rfl⟩
    · rw [h0] at hm
      rw [Fields.words, h0]
      simp only [List.cons_append, Fields.ofWords, hm, hw, h0]
    · rw [hi0 h0]
      rfl
  · refine ⟨{ len := f.len, op := f.op, d := f.d, a := f.a, b := f.b, lit := f.lit }, ?_, ?_, rfl, rfl⟩
    · rw [h1] at hm
      rw [Fields.words, h1]
      simp only [List.cons_append, Fields.ofWords, hm, hw, literal_eq, h1]
    · rw [hi1 h1]
      rfl
  · refine ⟨f, ?_, hnorm (by omega), rfl, rfl⟩
    rw [h2] at hm
    have hlit := hi2 h2
    rw [Fields.words, h2]
    simp only [List.cons_append, Fields.ofWords, hm, hw, hx]
    rw [← hlit]
  · refine ⟨f, ?_, hnorm (by omega), rfl, rfl⟩
    rw [h3] at hm
    rw [Fields.words, h3]
    simp only [List.cons_append, Fields.ofWords, hm, hw, hx, literal_eq]

/-! ## The instruction of its own fields (02 R34-R38) -/

theorem Fields.mismatch_self (f : Fields) : f.mismatch f = none := by simp [Fields.mismatch]

/-- What is to be known of the fields of a well-formed instruction. -/
structure Proper (i : Instr) (f : Fields) : Prop where
  fits : Fits f
  implied : Implied f
  instr : f.instr = .ok i
  lens : ∃ ls, opLens f.op = some ls ∧ f.len ∈ ls

/-- Fields of an instruction that are proper decode to it from their words, whatever follows. -/
theorem Proper.decode {i : Instr} {f : Fields} (h : Proper i f) (hf : i.fields = some f) (hw : i.wellFormed = true) (rest : List Byte) :
    decode (f.words.flatMap bytesOfWord ++ rest) = .ok i := by
  obtain ⟨g, hg, hn, ho, hl⟩ := ofWords_words h.fits h.implied (wordsOfBytes rest)
  obtain ⟨ls, hls, hmem⟩ := h.lens
  have hc : decodeChecked g = .ok i := by
    unfold decodeChecked
    rw [ho, hl, hls, hn, h.instr]
    simp only [hmem, not_true_eq_false, if_false, hf, Fields.mismatch_self, hw, if_true]
  unfold Sys2Proof.decode decodeWords decodeFields
  rw [wordsOfBytes_flatMap h.fits.words_lt, hg]
  simp only [hc]

/-! ## The forms of instructions -/

/-- An extended form without a literal has LIT 0; else it has LEN 0b11. -/
def LongForm (len lit : Nat) : Prop := (len = 2 ∧ lit = 0) ∨ len = 3

theorem USrc.longForm {b : USrc} (h : b.noShort = true) : LongForm b.len b.lit := by
  cases b with
  | reg r => exact Or.inl ⟨rfl, rfl⟩
  | short v => cases h
  | long v => exact Or.inr rfl

theorem VSrc.longForm {b : VSrc} (h : b.noShort = true) : LongForm b.len b.lit := by
  cases b with
  | reg r => exact Or.inl ⟨rfl, rfl⟩
  | short v => cases h
  | long v => exact Or.inr rfl

theorem Target.longForm (b : Target) : LongForm b.len b.litVal := by
  cases b with
  | lit w => exact Or.inr rfl
  | _ => exact Or.inl ⟨rfl, rfl⟩

theorem UBin.noShort_of_ok {x : UBin} {sat : Bool} (h : x.ok sat false = true) : x.b.noShort = true := by
  simp_all [UBin.ok, USrc.noShort]

theorem VBin.noShort_of_ok {x : VBin} {ty sat : Bool} (h : x.ok ty sat false = true) : x.b.noShort = true := by
  simp_all [VBin.ok, VSrc.noShort]

theorem FBin.noShort_of_ok {x : FBin} {rm : Bool} (h : x.ok rm false = true) : x.b.noShort = true := by
  simp_all [FBin.ok, VSrc.noShort]

theorem AtomI.noShort_of_ok {x : AtomI} (h : x.ok = true) : x.b.noShort = true := by simp_all [AtomI.ok]
theorem AtomUI.noShort_of_ok {x : AtomUI} (h : x.ok = true) : x.b.noShort = true := by simp_all [AtomUI.ok]
theorem RedI.noShort_of_ok {x : RedI} (h : x.ok = true) : x.b.noShort = true := by simp_all [RedI.ok]
theorem AtomI.unscaled_of_ok {x : AtomI} (h : x.ok = true) : x.addr.unscaled = true := by simp_all [AtomI.ok]
theorem AtomUI.unscaled_of_ok {x : AtomUI} (h : x.ok = true) : x.addr.unscaled = true := by simp_all [AtomUI.ok]
theorem RedI.unscaled_of_ok {x : RedI} (h : x.ok = true) : x.addr.unscaled = true := by simp_all [RedI.ok]

theorem Implied.ofLong {f : Fields} (h : LongForm f.len f.lit) (ht : f.ty = 0 → defaultTy f.op f.member = 0) : Implied f := by
  unfold LongForm at h
  refine ⟨fun _ => ?_, fun _ => ?_, fun _ => ?_, fun _ => ht⟩ <;> omega

section
variable {i : Instr} {f : Fields} {o m : Nat}

/-- An extended form that takes no literal. -/
theorem proper_ext (h : Fits f) (hl : f.len = 2) (hv : f.lit = 0) (ht : f.ty = 0 → defaultTy o m = 0)
    (hi : { f with op := o, member := m }.instr = .ok i) (ho : o < 64 := by decide) (hm : m < 64 := by decide)
    (hls : ((opLens o).getD []).contains 2 = true := by decide) : Proper i { f with op := o, member := m } where
  fits := h.withOp ho hm
  implied := Implied.ofLong (Or.inl ⟨hl, hv⟩) ht
  instr := hi
  lens := by
    cases hop : opLens o with
    | none => simp [hop] at hls
    | some ls => exact ⟨ls, rfl, by simpa [hop, hl] using hls⟩

/-- An extended form that may have a literal in LEN 0b11 (02 R24). -/
theorem proper_src (h : Fits f) (hl : LongForm f.len f.lit) (ht : f.ty = 0 → defaultTy o m = 0)
    (hi : { f with op := o, member := m }.instr = .ok i) (ho : o < 64 := by decide) (hm : m < 64 := by decide)
    (h2 : ((opLens o).getD []).contains 2 = true := by decide) (h3 : ((opLens o).getD []).contains 3 = true := by decide) :
    Proper i { f with op := o, member := m } where
  fits := h.withOp ho hm
  implied := Implied.ofLong hl ht
  instr := hi
  lens := by
    cases hop : opLens o with
    | none => simp [hop] at h2
    | some ls =>
      refine ⟨ls, rfl, ?_⟩
      rcases hl with ⟨hl, -⟩ | hl
      · simpa [hop, hl] using h2
      · simpa [hop, hl] using h3

/-- A base word of an opcode whose default type has a code (02 R23). -/
theorem proper_baseTy {t : Nat} (h : Fits f) (hl : f.len = 0)
    (hf : { f with op := o, member := 0, ty := t } = { len := 0, op := o, d := f.d, a := f.a, b := f.b, ty := defaultTy o 0 })
    (hi : { f with op := o, member := 0, ty := t }.instr = .ok i) (ho : o < 64 := by decide) (ht : t < 16 := by decide)
    (hls : ((opLens o).getD []).contains 0 = true := by decide) : Proper i { f with op := o, member := 0, ty := t } where
  fits := h.withTy ho (by decide) ht
  implied := ⟨fun _ => hf, fun h1 => by simp [hl] at h1, fun h2 => by simp [hl] at h2, fun h2 => by simp [hl] at h2⟩
  instr := hi
  lens := by
    cases hop : opLens o with
    | none => simp [hop] at hls
    | some ls => exact ⟨ls, rfl, by simpa [hop, hl] using hls⟩

end

theorem VoteI.fields_len (x : VoteI) : x.fields.len = 2 := by unfold VoteI.fields; split <;> rfl
theorem VoteI.fields_lit (x : VoteI) : x.fields.lit = 0 := by unfold VoteI.fields; split <;> rfl
theorem VoteI.fields_ty (x : VoteI) : x.fields.ty = 3 := by unfold VoteI.fields; split <;> rfl
theorem GetSrI.fields_len (x : GetSrI) : x.fields.len = 2 := by unfold GetSrI.fields; split <;> rfl
theorem GetSrI.fields_lit (x : GetSrI) : x.fields.lit = 0 := by unfold GetSrI.fields; split <;> rfl

/-! ## The members with a LEN 0b01 form (02 R23) -/

theorem vX_low {r : VOp} (h : r.low = true) : vX r = 0 := by cases r <;> simp_all [VOp.low, vX]
theorem sX_low {r : SReg} (h : r.low = true) : sX r = 0 := by
  simp only [SReg.low, decide_eq_true_eq] at h
  unfold sX
  omega
theorem code_isNone {g : Guard} (h : g.isNone = true) : g.code = 0 := by cases g <;> simp_all [Guard.isNone, Guard.code]


section
variable {i : Instr} {f : Fields} {o : Nat}

/-- What a LEN 0b01 form leaves unsaid (02 R23). -/
def ShortForm (f : Fields) (o : Nat) : Prop :=
  { f with op := o, member := 0 } = { len := 1, op := o, d := f.d, a := f.a, b := f.b, ty := defaultTy o 0, lit := f.lit }

/-- A base word of an opcode whose default type is 0. -/
theorem proper_base (h : Fits f) (hl : f.len = 0)
    (hf : { f with op := o, member := 0 } = { len := 0, op := o, d := f.d, a := f.a, b := f.b, ty := defaultTy o 0 })
    (hi : { f with op := o, member := 0 }.instr = .ok i) (ho : o < 64 := by decide)
    (hls : ((opLens o).getD []).contains 0 = true := by decide) : Proper i { f with op := o, member := 0 } where
  fits := h.withOp ho (by decide)
  implied := ⟨fun _ => hf, fun h1 => by simp [hl] at h1, fun h2 => by simp [hl] at h2, fun h2 => by simp [hl] at h2⟩
  instr := hi
  lens := by
    cases hop : opLens o with
    | none => simp [hop] at hls
    | some ls => exact ⟨ls, rfl, by simpa [hop, hl] using hls⟩

/-- A form that may have its literal in LEN 0b01 or 0b11 (02 R24). -/
theorem proper_lit (h : Fits f) (hl : (f.len = 1 ∧ ShortForm f o) ∨ LongForm f.len f.lit) (ht : f.ty = 0 → defaultTy o 0 = 0)
    (hi : f.len ≠ 0 → { f with op := o, member := 0 }.instr = .ok i) (ho : o < 64 := by decide)
    (h1 : ((opLens o).getD []).contains 1 = true := by decide) (h2 : ((opLens o).getD []).contains 2 = true ∨ f.len ≠ 2 := by exact Or.inl (by decide))
    (h3 : ((opLens o).getD []).contains 3 = true := by decide) : Proper i { f with op := o, member := 0 } where
  fits := h.withOp ho (by decide)
  implied := by
    rcases hl with ⟨hl, hs⟩ | hl
    · exact ⟨fun h0 => by simp [hl] at h0, fun _ => hs, fun h2 => by simp [hl] at h2, fun h2 => by simp [hl] at h2⟩
    · exact Implied.ofLong hl ht
  instr := hi (by rcases hl with ⟨hl, -⟩ | ⟨hl, -⟩ | hl <;> simp [hl])
  lens := by
    cases hop : opLens o with
    | none => simp [hop] at h1
    | some ls =>
      simp only [hop, Option.getD_some, List.contains_iff_mem] at h1 h2 h3
      refine ⟨ls, rfl, ?_⟩
      rcases hl with ⟨hl, -⟩ | ⟨hl, -⟩ | hl
      · exact hl ▸ h1
      · exact hl ▸ h2.resolve_right (fun h => h hl)
      · exact hl ▸ h3

end

theorem UBin.litForm {x : UBin} {sat : Bool} {o : Nat} (h : x.ok sat true = true) (ht : defaultTy o 0 = 4) :
    (x.fields.len = 1 ∧ ShortForm x.fields o) ∨ LongForm x.fields.len x.fields.lit := by
  obtain ⟨ty, sat, d, a, b⟩ := x
  cases b with
  | short v =>
    simp only [UBin.ok, USrc.shortOk, Bool.and_eq_true, decide_eq_true_eq, Bool.not_eq_true'] at h
    obtain ⟨-, ⟨⟨⟨-, hty⟩, hsat⟩, hd⟩, ha⟩ := h
    refine Or.inl ⟨rfl, ?_⟩
    simp [ShortForm, UBin.fields, hty, hsat, sX_low hd, sX_low ha, USrc.len, USrc.x, ht, Ty.code, bit]
  | reg r => exact Or.inr (Or.inl ⟨rfl, rfl⟩)
  | long v => exact Or.inr (Or.inr rfl)

theorem VBin.litForm {x : VBin} {ty sat : Bool} {o : Nat} (h : x.ok ty sat true = true) (ht : defaultTy o 0 = 3) :
    (x.fields.len = 1 ∧ ShortForm x.fields o) ∨ LongForm x.fields.len x.fields.lit := by
  obtain ⟨g, ty, sat, d, a, b⟩ := x
  cases b with
  | short v =>
    simp only [VBin.ok, VSrc.shortOk, Bool.and_eq_true, decide_eq_true_eq, Bool.not_eq_true'] at h
    obtain ⟨-, ⟨⟨⟨⟨-, hg⟩, hty⟩, hsat⟩, hd⟩, ha⟩ := h
    refine Or.inl ⟨rfl, ?_⟩
    simp [ShortForm, VBin.fields, hty, hsat, code_isNone hg, vX_low hd, vX_low ha, VSrc.len, VSrc.x, ht, Ty.code, bit]
  | reg r => exact Or.inr (Or.inl ⟨rfl, rfl⟩)
  | long v => exact Or.inr (Or.inr rfl)

theorem FBin.litForm {x : FBin} {rm : Bool} {o : Nat} (h : x.ok rm true = true) (ht : defaultTy o 0 = 11) :
    (x.fields.len = 1 ∧ ShortForm x.fields o) ∨ LongForm x.fields.len x.fields.lit := by
  obtain ⟨g, ty, rm, d, a, b⟩ := x
  cases b with
  | short v =>
    simp only [FBin.ok, VSrc.shortOk, Bool.and_eq_true, decide_eq_true_eq] at h
    obtain ⟨-, ⟨⟨⟨⟨-, hg⟩, hty⟩, hrm⟩, hd⟩, ha⟩ := h
    refine Or.inl ⟨rfl, ?_⟩
    simp [ShortForm, FBin.fields, hty, hrm, code_isNone hg, vX_low hd, vX_low ha, VSrc.len, VSrc.x, ht, Ty.code, Rm.code]
  | reg r => exact Or.inr (Or.inl ⟨rfl, rfl⟩)
  | long v => exact Or.inr (Or.inr rfl)

theorem VMovI.litForm {x : VMovI} (h : x.b.shortOk (x.g.isNone && decide (x.ty = .i32) && x.d.low) = true) :
    (x.fields.len = 1 ∧ ShortForm x.fields 0x0C) ∨ LongForm x.fields.len x.fields.lit := by
  obtain ⟨g, ty, d, b⟩ := x
  cases b with
  | short v =>
    simp only [VSrc.shortOk, Bool.and_eq_true, decide_eq_true_eq] at h
    obtain ⟨⟨hg, hty⟩, hd⟩ := h
    refine Or.inl ⟨rfl, ?_⟩
    simp [ShortForm, VMovI.fields, hty, code_isNone hg, vX_low hd, VSrc.len, VSrc.x, defaultTy, Ty.code]
  | reg r => exact Or.inr (Or.inl ⟨rfl, rfl⟩)
  | long v => exact Or.inr (Or.inr rfl)

theorem BecomeI.litForm (x : BecomeI) : (x.fields.len = 1 ∧ ShortForm x.fields 0x1D) ∨ LongForm x.fields.len x.fields.lit := by
  obtain ⟨carry, b⟩ := x
  cases b with
  | short v => exact Or.inl ⟨rfl, rfl⟩
  | reg r => exact Or.inr (Or.inl ⟨rfl, rfl⟩)
  | long v => exact Or.inr (Or.inr rfl)

theorem SetFmtI.litForm (x : SetFmtI) : (x.fields.len = 1 ∧ ShortForm x.fields 0x1F) ∨ LongForm x.fields.len x.fields.lit := by
  obtain ⟨b⟩ := x
  cases b with
  | short v => exact Or.inl ⟨rfl, rfl⟩
  | reg r => exact Or.inr (Or.inl ⟨rfl, rfl⟩)
  | long v => exact Or.inr (Or.inr rfl)

theorem ULit.litForm {x : ULit} (h : (x.long || x.d.low) = true) :
    (x.fields.len = 1 ∧ ShortForm x.fields 0x05) ∨ LongForm x.fields.len x.fields.lit := by
  obtain ⟨d, lit, long⟩ := x
  cases long with
  | true => exact Or.inr (Or.inr rfl)
  | false =>
    have hd : sX d = 0 := sX_low (by simpa using h)
    exact Or.inl ⟨rfl, by simp [ShortForm, ULit.fields, hd, defaultTy]⟩

theorem proper_of_fields {i : Instr} {f : Fields} (hw : i.wellFormed = true) (hf : i.fields = some f) : Proper i f := by
  cases i with
  | uaddBase x => cases hf; exact proper_baseTy (Base3.fits x) rfl rfl (congrArg (fun y => Except.ok (Instr.uaddBase y)) (Base3.read_fields x _ _ _))
  | usub x => cases hf; exact proper_src (UBin.fits x) (USrc.longForm (UBin.noShort_of_ok hw)) (by simp [UBin.fields, defaultTy]) (congrArg (fun y => Except.ok (Instr.usub y)) (UBin.read_fields x _ _))
  | umul x => cases hf; exact proper_src (UBin.fits x) (USrc.longForm (UBin.noShort_of_ok hw)) (by simp [UBin.fields, defaultTy]) (congrArg (fun y => Except.ok (Instr.umul y)) (UBin.read_fields x _ _))
  | umulh x => cases hf; exact proper_src (UBin.fits x) (USrc.longForm (UBin.noShort_of_ok hw)) (by simp [UBin.fields, defaultTy]) (congrArg (fun y => Except.ok (Instr.umulh y)) (UBin.read_fields x _ _))
  | umin x => cases hf; exact proper_src (UBin.fits x) (USrc.longForm (UBin.noShort_of_ok hw)) (by simp [UBin.fields, defaultTy]) (congrArg (fun y => Except.ok (Instr.umin y)) (UBin.read_fields x _ _))
  | umax x => cases hf; exact proper_src (UBin.fits x) (USrc.longForm (UBin.noShort_of_ok hw)) (by simp [UBin.fields, defaultTy]) (congrArg (fun y => Except.ok (Instr.umax y)) (UBin.read_fields x _ _))
  | uset x => cases hf; exact proper_src (USet.fits x) (USrc.longForm (by simp_all [Instr.wellFormed])) (by simp [USet.fields, defaultTy]) (congrArg (fun y => Except.ok (Instr.uset y)) (USet.read_fields x _ _))
  | usel x => cases hf; exact proper_src (USel.fits x) (USrc.longForm hw) (by simp [USel.fields, defaultTy]) (congrArg (fun y => Except.ok (Instr.usel y)) (USel.read_fields x _ _))
  | upopc x => cases hf; exact proper_ext (UUn.fits x) rfl rfl (by simp [UUn.fields, defaultTy]) (congrArg (fun y => Except.ok (Instr.upopc y)) (UUn.read_fields x _ _))
  | uclz x => cases hf; exact proper_ext (UUn.fits x) rfl rfl (by simp [UUn.fields, defaultTy]) (congrArg (fun y => Except.ok (Instr.uclz y)) (UUn.read_fields x _ _))
  | ubfx x => cases hf; exact proper_ext (UBfx.fits x) rfl rfl (by simp [UBfx.fields, defaultTy]) (congrArg (fun y => Except.ok (Instr.ubfx y)) (UBfx.read_fields x _ _))
  | ubfi x => cases hf; exact proper_src (UBfi.fits x) (USrc.longForm (by simp_all [Instr.wellFormed])) (by simp [UBfi.fields, defaultTy]) (congrArg (fun y => Except.ok (Instr.ubfi y)) (UBfi.read_fields x _ _))
  | uandBase x => cases hf; exact proper_baseTy (Base3.fits x) rfl rfl (congrArg (fun y => Except.ok (Instr.uandBase y)) (Base3.read_fields x _ _ _))
  | uor x => cases hf; exact proper_src (UBin.fits x) (USrc.longForm (UBin.noShort_of_ok hw)) (by simp [UBin.fields, defaultTy]) (congrArg (fun y => Except.ok (Instr.uor y)) (UBin.read_fields x _ _))
  | uxor x => cases hf; exact proper_src (UBin.fits x) (USrc.longForm (UBin.noShort_of_ok hw)) (by simp [UBin.fields, defaultTy]) (congrArg (fun y => Except.ok (Instr.uxor y)) (UBin.read_fields x _ _))
  | ushlBase x => cases hf; exact proper_baseTy (Base3.fits x) rfl rfl (congrArg (fun y => Except.ok (Instr.ushlBase y)) (Base3.read_fields x _ _ _))
  | ushr x => cases hf; exact proper_src (UBin.fits x) (USrc.longForm (UBin.noShort_of_ok hw)) (by simp [UBin.fields, defaultTy]) (congrArg (fun y => Except.ok (Instr.ushr y)) (UBin.read_fields x _ _))
  | usra x => cases hf; exact proper_src (UBin.fits x) (USrc.longForm (UBin.noShort_of_ok hw)) (by simp [UBin.fields, defaultTy]) (congrArg (fun y => Except.ok (Instr.usra y)) (UBin.read_fields x _ _))
  | umovBase x => cases hf; exact proper_baseTy (BaseDB.fits x) rfl rfl (congrArg (fun y => Except.ok (Instr.umovBase y)) (BaseDB.read_fields x _ _ _))
  | umovExt x => cases hf; exact proper_ext (UMov.fits x) rfl rfl (by simp [UMov.fields, defaultTy]) (congrArg (fun y => Except.ok (Instr.umovExt y)) (UMov.read_fields x _ _))
  | vaddBase x => cases hf; exact proper_baseTy (Base3.fits x) rfl rfl (congrArg (fun y => Except.ok (Instr.vaddBase y)) (Base3.read_fields x _ _ _))
  | vsub x => cases hf; exact proper_src (VBin.fits x) (VSrc.longForm (VBin.noShort_of_ok hw)) (by simp [VBin.fields, defaultTy]) (congrArg (fun y => Except.ok (Instr.vsub y)) (VBin.read_fields x _ _))
  | vmul x => cases hf; exact proper_src (VBin.fits x) (VSrc.longForm (VBin.noShort_of_ok hw)) (by simp [VBin.fields, defaultTy]) (congrArg (fun y => Except.ok (Instr.vmul y)) (VBin.read_fields x _ _))
  | vmulh x => cases hf; exact proper_src (VBin.fits x) (VSrc.longForm (VBin.noShort_of_ok hw)) (by simp [VBin.fields, defaultTy]) (congrArg (fun y => Except.ok (Instr.vmulh y)) (VBin.read_fields x _ _))
  | vmin x => cases hf; exact proper_src (VBin.fits x) (VSrc.longForm (VBin.noShort_of_ok hw)) (by simp [VBin.fields, defaultTy]) (congrArg (fun y => Except.ok (Instr.vmin y)) (VBin.read_fields x _ _))
  | vmax x => cases hf; exact proper_src (VBin.fits x) (VSrc.longForm (VBin.noShort_of_ok hw)) (by simp [VBin.fields, defaultTy]) (congrArg (fun y => Except.ok (Instr.vmax y)) (VBin.read_fields x _ _))
  | vabs x => cases hf; exact proper_ext (VUn.fits x) rfl rfl (by simp [VUn.fields, defaultTy]) (congrArg (fun y => Except.ok (Instr.vabs y)) (VUn.read_fields x _ _))
  | vset x => cases hf; exact proper_src (VSetI.fits x) (VSrc.longForm (by simp_all [Instr.wellFormed])) (by simp [VSetI.fields, defaultTy]) (congrArg (fun y => Except.ok (Instr.vset y)) (VSetI.read_fields x _ _))
  | vsel x => cases hf; exact proper_src (VPredI.fits x) (VSrc.longForm (by simp_all [Instr.wellFormed])) (by simp [VPredI.fields, defaultTy]) (congrArg (fun y => Except.ok (Instr.vsel y)) (VPredI.read_fields x _ _))
  | vpopc x => cases hf; exact proper_ext (VUn.fits x) rfl rfl (by simp [VUn.fields, defaultTy]) (congrArg (fun y => Except.ok (Instr.vpopc y)) (VUn.read_fields x _ _))
  | vclz x => cases hf; exact proper_ext (VUn.fits x) rfl rfl (by simp [VUn.fields, defaultTy]) (congrArg (fun y => Except.ok (Instr.vclz y)) (VUn.read_fields x _ _))
  | vbfx x => cases hf; exact proper_ext (VBfx.fits x) rfl rfl (by simp [VBfx.fields, defaultTy]) (congrArg (fun y => Except.ok (Instr.vbfx y)) (VBfx.read_fields x _ _))
  | vbfi x => cases hf; exact proper_src (VBfi.fits x) (VSrc.longForm (by simp_all [Instr.wellFormed])) (by simp [VBfi.fields, defaultTy]) (congrArg (fun y => Except.ok (Instr.vbfi y)) (VBfi.read_fields x _ _))
  | vaddc x => cases hf; exact proper_src (VPredI.fits x) (VSrc.longForm (by simp_all [Instr.wellFormed])) (by simp [VPredI.fields, defaultTy]) (congrArg (fun y => Except.ok (Instr.vaddc y)) (VPredI.read_fields x _ _))
  | vidx x => cases hf; exact proper_src (VIdxI.fits x) (USrc.longForm (by simp_all [Instr.wellFormed])) (by simp [VIdxI.fields, defaultTy]) (congrArg (fun y => Except.ok (Instr.vidx y)) (VIdxI.read_fields x _ _))
  | vmad x => cases hf; exact proper_src (VTri.fits x) (VSrc.longForm (by simp_all [Instr.wellFormed])) (by simp [VTri.fields, defaultTy]) (congrArg (fun y => Except.ok (Instr.vmad y)) (VTri.read_fields x _ _))
  | vdot4 x => cases hf; exact proper_src (VTri.fits x) (VSrc.longForm (by simp_all [Instr.wellFormed])) (by simp [VTri.fields, defaultTy]) (congrArg (fun y => Except.ok (Instr.vdot4 y)) (VTri.read_fields x _ _))
  | vandBase x => cases hf; exact proper_baseTy (Base3.fits x) rfl rfl (congrArg (fun y => Except.ok (Instr.vandBase y)) (Base3.read_fields x _ _ _))
  | vor x => cases hf; exact proper_src (VBin.fits x) (VSrc.longForm (VBin.noShort_of_ok hw)) (by simp [VBin.fields, defaultTy]) (congrArg (fun y => Except.ok (Instr.vor y)) (VBin.read_fields x _ _))
  | vxor x => cases hf; exact proper_src (VBin.fits x) (VSrc.longForm (VBin.noShort_of_ok hw)) (by simp [VBin.fields, defaultTy]) (congrArg (fun y => Except.ok (Instr.vxor y)) (VBin.read_fields x _ _))
  | vshlBase x => cases hf; exact proper_baseTy (Base3.fits x) rfl rfl (congrArg (fun y => Except.ok (Instr.vshlBase y)) (Base3.read_fields x _ _ _))
  | vshr x => cases hf; exact proper_src (VBin.fits x) (VSrc.longForm (VBin.noShort_of_ok hw)) (by simp [VBin.fields, defaultTy]) (congrArg (fun y => Except.ok (Instr.vshr y)) (VBin.read_fields x _ _))
  | vsra x => cases hf; exact proper_src (VBin.fits x) (VSrc.longForm (VBin.noShort_of_ok hw)) (by simp [VBin.fields, defaultTy]) (congrArg (fun y => Except.ok (Instr.vsra y)) (VBin.read_fields x _ _))
  | vmovBase x => cases hf; exact proper_baseTy (BaseDB.fits x) rfl rfl (congrArg (fun y => Except.ok (Instr.vmovBase y)) (BaseDB.read_fields x _ _ _))
  | faddBase x => cases hf; exact proper_baseTy (Base3.fits x) rfl rfl (congrArg (fun y => Except.ok (Instr.faddBase y)) (Base3.read_fields x _ _ _))
  | fsub x => cases hf; exact proper_src (FBin.fits x) (VSrc.longForm (FBin.noShort_of_ok hw)) (by simp [FBin.fields, defaultTy]) (congrArg (fun y => Except.ok (Instr.fsub y)) (FBin.read_fields x _ _))
  | fmul x => cases hf; exact proper_src (FBin.fits x) (VSrc.longForm (FBin.noShort_of_ok hw)) (by simp [FBin.fields, defaultTy]) (congrArg (fun y => Except.ok (Instr.fmul y)) (FBin.read_fields x _ _))
  | fmin x => cases hf; exact proper_src (FBin.fits x) (VSrc.longForm (FBin.noShort_of_ok hw)) (by simp [FBin.fields, defaultTy]) (congrArg (fun y => Except.ok (Instr.fmin y)) (FBin.read_fields x _ _))
  | fmax x => cases hf; exact proper_src (FBin.fits x) (VSrc.longForm (FBin.noShort_of_ok hw)) (by simp [FBin.fields, defaultTy]) (congrArg (fun y => Except.ok (Instr.fmax y)) (FBin.read_fields x _ _))
  | fabs x => cases hf; exact proper_ext (FUn.fits x) rfl rfl (by simp [FUn.fields, defaultTy]) (congrArg (fun y => Except.ok (Instr.fabs y)) (FUn.read_fields x _ _))
  | fneg x => cases hf; exact proper_ext (FUn.fits x) rfl rfl (by simp [FUn.fields, defaultTy]) (congrArg (fun y => Except.ok (Instr.fneg y)) (FUn.read_fields x _ _))
  | fset x => cases hf; exact proper_src (VSetI.fits x) (VSrc.longForm (by simp_all [Instr.wellFormed])) (by simp [VSetI.fields, defaultTy]) (congrArg (fun y => Except.ok (Instr.fset y)) (VSetI.read_fields x _ _))
  | fclass x => cases hf; exact proper_ext (FUn.fits x) rfl rfl (by simp [FUn.fields, defaultTy]) (congrArg (fun y => Except.ok (Instr.fclass y)) (FUn.read_fields x _ _))
  | ffma x => cases hf; exact proper_src (FTri.fits x) (VSrc.longForm (by simp_all [Instr.wellFormed])) (by simp [FTri.fields, defaultTy]) (congrArg (fun y => Except.ok (Instr.ffma y)) (FTri.read_fields x _ _))
  | fcvt x => cases hf; exact proper_ext (FCvtI.fits x) rfl rfl (by simp [FCvtI.fields, defaultTy]) (congrArg (fun y => Except.ok (Instr.fcvt y)) (FCvtI.read_fields x _ _))
  | icvt x => cases hf; exact proper_ext (FCvtI.fits x) rfl rfl (by simp [FCvtI.fields, defaultTy]) (congrArg (fun y => Except.ok (Instr.icvt y)) (FCvtI.read_fields x _ _))
  | bcvt x => cases hf; exact proper_ext (BCvtI.fits x) rfl rfl (by simp [BCvtI.fields, defaultTy]) (congrArg (fun y => Except.ok (Instr.bcvt y)) (BCvtI.read_fields x _ _))
  | frnd x => cases hf; exact proper_ext (FUn.fits x) rfl rfl (by simp [FUn.fields, defaultTy]) (congrArg (fun y => Except.ok (Instr.frnd y)) (FUn.read_fields x _ _))
  | frcpBase x => cases hf; exact proper_baseTy (BaseDA.fits x) rfl rfl (congrArg (fun y => Except.ok (Instr.frcpBase y)) (BaseDA.read_fields x _ _ _))
  | frcpExt x => cases hf; exact proper_ext (FUn.fits x) rfl rfl (by simp [FUn.fields, defaultTy]) (congrArg (fun y => Except.ok (Instr.frcpExt y)) (FUn.read_fields x _ _))
  | frsq x => cases hf; exact proper_ext (FUn.fits x) rfl rfl (by simp [FUn.fields, defaultTy]) (congrArg (fun y => Except.ok (Instr.frsq y)) (FUn.read_fields x _ _))
  | fsqrt x => cases hf; exact proper_ext (FUn.fits x) rfl rfl (by simp [FUn.fields, defaultTy]) (congrArg (fun y => Except.ok (Instr.fsqrt y)) (FUn.read_fields x _ _))
  | fexp2 x => cases hf; exact proper_ext (FUn.fits x) rfl rfl (by simp [FUn.fields, defaultTy]) (congrArg (fun y => Except.ok (Instr.fexp2 y)) (FUn.read_fields x _ _))
  | flog2 x => cases hf; exact proper_ext (FUn.fits x) rfl rfl (by simp [FUn.fields, defaultTy]) (congrArg (fun y => Except.ok (Instr.flog2 y)) (FUn.read_fields x _ _))
  | fsin x => cases hf; exact proper_ext (FUn.fits x) rfl rfl (by simp [FUn.fields, defaultTy]) (congrArg (fun y => Except.ok (Instr.fsin y)) (FUn.read_fields x _ _))
  | fcos x => cases hf; exact proper_ext (FUn.fits x) rfl rfl (by simp [FUn.fields, defaultTy]) (congrArg (fun y => Except.ok (Instr.fcos y)) (FUn.read_fields x _ _))
  | ftanh x => cases hf; exact proper_ext (FUn.fits x) rfl rfl (by simp [FUn.fields, defaultTy]) (congrArg (fun y => Except.ok (Instr.ftanh y)) (FUn.read_fields x _ _))
  | vrng x => cases hf; exact proper_ext (VRngI.fits x) rfl rfl (by simp [VRngI.fields, defaultTy]) (congrArg (fun y => Except.ok (Instr.vrng y)) (VRngI.read_fields x _ _))
  | vote x =>
    cases hf
    exact proper_ext (VoteI.fits x) (VoteI.fields_len x) (VoteI.fields_lit x) (fun h => absurd (VoteI.fields_ty x ▸ h) (by decide)) (congrArg (fun y => Except.ok (Instr.vote y)) (VoteI.read_fields x _ _))
  | shfl x => cases hf; exact proper_src (ShflI.fits x) (VSrc.longForm (by simp_all [Instr.wellFormed])) (by simp [ShflI.fields, defaultTy]) (congrArg (fun y => Except.ok (Instr.shfl y)) (ShflI.read_fields x _ _))
  | redux x => cases hf; exact proper_ext (ReduxI.fits x) rfl rfl (by simp [ReduxI.fields, defaultTy]) (congrArg (fun y => Except.ok (Instr.redux y)) (ReduxI.read_fields x hw _ _))
  | scan x => cases hf; exact proper_ext (ScanI.fits x) rfl rfl (by simp [ScanI.fields, defaultTy]) (congrArg (fun y => Except.ok (Instr.scan y)) (ScanI.read_fields x hw _ _))
  | ffs x => cases hf; exact proper_ext (FfsI.fits x) rfl rfl (by simp [FfsI.fields, defaultTy]) (congrArg (fun y => Except.ok (Instr.ffs y)) (FfsI.read_fields x _ _))
  | setpart x => cases hf; exact proper_ext (SetPartI.fits x) rfl rfl (by simp [SetPartI.fields, defaultTy]) (congrArg (fun y => Except.ok (Instr.setpart y)) (SetPartI.read_fields x _ _))
  | lmask x => cases hf; exact proper_ext (LMaskI.fits x) rfl rfl (by simp [LMaskI.fields, defaultTy]) (congrArg (fun y => Except.ok (Instr.lmask y)) (LMaskI.read_fields x _ _))
  | bra x => cases hf; exact proper_ext (BraI.fits x) rfl rfl (by simp [BraI.fields, defaultTy]) (congrArg (fun y => Except.ok (Instr.bra y)) (BraI.read_fields x _ _))
  | brc x => cases hf; exact proper_ext (BrcI.fits x) rfl rfl (by simp [BrcI.fields, defaultTy]) (congrArg (fun y => Except.ok (Instr.brc y)) (BrcI.read_fields x _ _))
  | ubrc x => cases hf; exact proper_ext (UBrcI.fits x) rfl rfl (by simp [UBrcI.fields, defaultTy]) (congrArg (fun y => Except.ok (Instr.ubrc y)) (UBrcI.read_fields x _ _))
  | jmp x => cases hf; exact proper_src (JmpI.fits x) (Target.longForm _) (by simp [JmpI.fields, defaultTy]) (congrArg (fun y => Except.ok (Instr.jmp y)) (JmpI.read_fields x _ _))
  | call x => cases hf; exact proper_src (CallI.fits x) (Target.longForm _) (by simp [CallI.fields, defaultTy]) (congrArg (fun y => Except.ok (Instr.call y)) (CallI.read_fields x _ _))
  | ret x => cases hf; exact proper_ext (RetI.fits x) rfl rfl (by simp [RetI.fields, defaultTy]) (congrArg (fun y => Except.ok (Instr.ret y)) (RetI.read_fields x _ _))
  | becomeBase x => cases hf; exact proper_base (BaseDB.fits x) rfl rfl (congrArg (fun y => Except.ok (Instr.becomeBase y)) (BaseDB.read_fields x _ _ _))
  | merge x => cases hf; exact proper_ext (BraI.fits x) rfl rfl (by simp [BraI.fields, defaultTy]) (congrArg (fun y => Except.ok (Instr.merge y)) (BraI.read_fields x _ _))
  | sync x => cases hf; exact proper_ext (SyncI.fits x) rfl rfl (by simp [SyncI.fields, defaultTy]) (congrArg (fun y => Except.ok (Instr.sync y)) (SyncI.read_fields x _ _))
  | gsync =>
    cases hf; exact { fits := by constructor <;> decide, implied := ⟨nofun, nofun, fun _ => rfl, fun _ _ => rfl⟩, instr := rfl, lens := ⟨_, rfl, by decide⟩ }
  | yield =>
    cases hf; exact { fits := by constructor <;> decide, implied := ⟨nofun, nofun, fun _ => rfl, fun _ _ => rfl⟩, instr := rfl, lens := ⟨_, rfl, by decide⟩ }
  | nopBase =>
    cases hf; exact { fits := by constructor <;> decide, implied := ⟨fun _ => rfl, nofun, nofun, nofun⟩, instr := rfl, lens := ⟨_, rfl, by decide⟩ }
  | nopExt =>
    cases hf; exact { fits := by constructor <;> decide, implied := ⟨nofun, nofun, fun _ => rfl, fun _ _ => rfl⟩, instr := rfl, lens := ⟨_, rfl, by decide⟩ }
  | setfmtBase x => cases hf; exact proper_base (BaseB.fits x) rfl rfl (congrArg (fun y => Except.ok (Instr.setfmtBase y)) (BaseB.read_fields x _ _ _))
  | getfmt x => cases hf; exact proper_ext (DstS.fits x) rfl rfl (by simp [DstS.fields, defaultTy]) (congrArg (fun y => Except.ok (Instr.getfmt y)) (DstS.read_fields x _ _))
  | getsr x =>
    cases hf
    exact proper_ext (GetSrI.fits x) (GetSrI.fields_len x) (GetSrI.fields_lit x) (fun _ => rfl) (congrArg (fun y => Except.ok (Instr.getsr y)) (GetSrI.read_fields x hw _ _))
  | setprio x => cases hf; exact proper_ext (SetPrioI.fits x) rfl rfl (by simp [SetPrioI.fields, defaultTy]) (congrArg (fun y => Except.ok (Instr.setprio y)) (SetPrioI.read_fields x _ _))
  | ldBase x => cases hf; exact proper_baseTy (Base3.fits x) rfl rfl (congrArg (fun y => Except.ok (Instr.ldBase y)) (Base3.read_fields x _ _ _))
  | ldExt x => cases hf; exact proper_ext (LdI.fits x) rfl rfl (by simp [LdI.fields, defaultTy]) (congrArg (fun y => Except.ok (Instr.ldExt y)) (LdI.read_fields x _ _))
  | ldu x => cases hf; exact proper_ext (LdUI.fits x) rfl rfl (by simp [LdUI.fields, defaultTy]) (congrArg (fun y => Except.ok (Instr.ldu y)) (LdUI.read_fields x _ _))
  | stBase x => cases hf; exact proper_baseTy (Base3.fits x) rfl rfl (congrArg (fun y => Except.ok (Instr.stBase y)) (Base3.read_fields x _ _ _))
  | stExt x => cases hf; exact proper_ext (LdI.fits x) rfl rfl (by simp [LdI.fields, defaultTy]) (congrArg (fun y => Except.ok (Instr.stExt y)) (LdI.read_fields x _ _))
  | stu x => cases hf; exact proper_ext (LdUI.fits x) rfl rfl (by simp [LdUI.fields, defaultTy]) (congrArg (fun y => Except.ok (Instr.stu y)) (LdUI.read_fields x _ _))
  | atom x => cases hf; exact proper_src (AtomI.fits x) (VSrc.longForm (AtomI.noShort_of_ok hw)) (by simp [AtomI.fields, defaultTy]) (congrArg (fun y => Except.ok (Instr.atom y)) (AtomI.read_fields x (AtomI.unscaled_of_ok hw) _ _))
  | atomu x => cases hf; exact proper_src (AtomUI.fits x) (USrc.longForm (AtomUI.noShort_of_ok hw)) (by simp [AtomUI.fields, defaultTy]) (congrArg (fun y => Except.ok (Instr.atomu y)) (AtomUI.read_fields x (AtomUI.unscaled_of_ok hw) _ _))
  | red x => cases hf; exact proper_src (RedI.fits x) (VSrc.longForm (RedI.noShort_of_ok hw)) (by simp [RedI.fields, defaultTy]) (congrArg (fun y => Except.ok (Instr.red y)) (RedI.read_fields x (RedI.unscaled_of_ok hw) _ _))
  | oapp x => cases hf; exact proper_ext (OAppI.fits x) rfl rfl (by simp [OAppI.fields, defaultTy]) (congrArg (fun y => Except.ok (Instr.oapp y)) (OAppI.read_fields x _ _))
  | pref x => cases hf; exact proper_ext (LineI.fits x) rfl rfl (by simp [LineI.fields, defaultTy]) (congrArg (fun y => Except.ok (Instr.pref y)) (LineI.read_fields x _ _))
  | cflush x => cases hf; exact proper_ext (LineI.fits x) rfl rfl (by simp [LineI.fields, defaultTy]) (congrArg (fun y => Except.ok (Instr.cflush y)) (LineI.read_fields x _ _))
  | fence x => cases hf; exact proper_ext (FenceI.fits x) rfl rfl (by simp [FenceI.fields, defaultTy]) (congrArg (fun y => Except.ok (Instr.fence y)) (FenceI.read_fields x _ _))
  | ifence =>
    cases hf; exact { fits := by constructor <;> decide, implied := ⟨nofun, nofun, fun _ => rfl, fun _ _ => rfl⟩, instr := rfl, lens := ⟨_, rfl, by decide⟩ }
  | setmod x => cases hf; exact proper_src (SetModI.fits x) (USrc.longForm hw) (by simp [SetModI.fields, defaultTy]) (congrArg (fun y => Except.ok (Instr.setmod y)) (SetModI.read_fields x _ _))
  | stmap x => cases hf; exact proper_ext (StMapI.fits x) rfl rfl (by simp [StMapI.fields, defaultTy]) (congrArg (fun y => Except.ok (Instr.stmap y)) (StMapI.read_fields x _ _))
  | stunmap x => cases hf; exact proper_ext (DstS.fits x) rfl rfl (by simp [DstS.fields, defaultTy]) (congrArg (fun y => Except.ok (Instr.stunmap y)) (DstS.read_fields x _ _))
  | stwb x => cases hf; exact proper_ext (DstS.fits x) rfl rfl (by simp [DstS.fields, defaultTy]) (congrArg (fun y => Except.ok (Instr.stwb y)) (DstS.read_fields x _ _))
  | stdrop x => cases hf; exact proper_ext (DstS.fits x) rfl rfl (by simp [DstS.fields, defaultTy]) (congrArg (fun y => Except.ok (Instr.stdrop y)) (DstS.read_fields x _ _))
  | swinit x => cases hf; exact proper_src (SwInitI.fits x) (USrc.longForm hw) (by simp [SwInitI.fields, defaultTy]) (congrArg (fun y => Except.ok (Instr.swinit y)) (SwInitI.read_fields x _ _))
  | swarrive x => cases hf; exact proper_src (SwI.fits x) (USrc.longForm hw) (by simp [SwI.fields, defaultTy]) (congrArg (fun y => Except.ok (Instr.swarrive y)) (SwI.read_fields x _ _))
  | swexpect x => cases hf; exact proper_src (SwI.fits x) (USrc.longForm hw) (by simp [SwI.fields, defaultTy]) (congrArg (fun y => Except.ok (Instr.swexpect y)) (SwI.read_fields x _ _))
  | swwait x => cases hf; exact proper_src (SwWaitI.fits x) (USrc.longForm hw) (by simp [SwWaitI.fields, defaultTy]) (congrArg (fun y => Except.ok (Instr.swwait y)) (SwWaitI.read_fields x _ _))
  | wait x => cases hf; exact proper_ext (WaitI.fits x) rfl rfl (by simp [WaitI.fields, defaultTy]) (congrArg (fun y => Except.ok (Instr.wait y)) (WaitI.read_fields x _ _))
  | ldt x => cases hf; exact proper_ext (LdtI.fits x) rfl rfl (by simp [LdtI.fields, defaultTy]) (congrArg (fun y => Except.ok (Instr.ldt y)) (LdtI.read_fields x _ _))
  | stt x => cases hf; exact proper_ext (SttI.fits x) rfl rfl (by simp [SttI.fields, defaultTy]) (congrArg (fun y => Except.ok (Instr.stt y)) (SttI.read_fields x _ _))
  | cqcfg x => cases hf; exact proper_ext (CqCfgI.fits x) rfl rfl (by simp [CqCfgI.fields, defaultTy]) (congrArg (fun y => Except.ok (Instr.cqcfg y)) (CqCfgI.read_fields x _ _))
  | copy x => cases hf; exact proper_ext (CopyI.fits x) rfl rfl (by simp [CopyI.fields, defaultTy]) (congrArg (fun y => Except.ok (Instr.copy y)) (CopyI.read_fields x _ _))
  | gather x => cases hf; exact proper_ext (GatherI.fits x) rfl rfl (by simp [GatherI.fields, defaultTy]) (congrArg (fun y => Except.ok (Instr.gather y)) (GatherI.read_fields x _ _))
  | scatter x => cases hf; exact proper_ext (ScatterI.fits x) rfl rfl (by simp [ScatterI.fields, defaultTy]) (congrArg (fun y => Except.ok (Instr.scatter y)) (ScatterI.read_fields x _ _))
  | scatadd x => cases hf; exact proper_ext (ScatAddI.fits x) rfl rfl (by simp [ScatAddI.fields, defaultTy]) (congrArg (fun y => Except.ok (Instr.scatadd y)) (ScatAddI.read_fields x _ _))
  | strcfg x => cases hf; exact proper_ext (StrCfgI.fits x) rfl rfl (by simp [StrCfgI.fields, defaultTy]) (congrArg (fun y => Except.ok (Instr.strcfg y)) (StrCfgI.read_fields x _ _))
  | strgo x => cases hf; exact proper_ext (StrGoI.fits x) rfl rfl (by simp [StrGoI.fields, defaultTy]) (congrArg (fun y => Except.ok (Instr.strgo y)) (StrGoI.read_fields x _ _))
  | strhalt x => cases hf; exact proper_ext (StrHaltI.fits x) rfl rfl (by simp [StrHaltI.fields, defaultTy]) (congrArg (fun y => Except.ok (Instr.strhalt y)) (StrHaltI.read_fields x _ _))
  | spbind x => cases hf; exact proper_ext (SpBindI.fits x) rfl rfl (by simp [SpBindI.fields, defaultTy]) (congrArg (fun y => Except.ok (Instr.spbind y)) (SpBindI.read_fields x _ _))
  | slotsig x => cases hf; exact proper_ext (SlotSigI.fits x) rfl rfl (by simp [SlotSigI.fields, defaultTy]) (congrArg (fun y => Except.ok (Instr.slotsig y)) (SlotSigI.read_fields x _ _))
  | coll x => cases hf; exact proper_ext (CollI.fits x) rfl rfl (by simp [CollI.fields, defaultTy]) (congrArg (fun y => Except.ok (Instr.coll y)) (CollI.read_fields x _ _))
  | mres x => cases hf; exact proper_ext (MResI.fits x) rfl rfl (by simp [MResI.fields, defaultTy]) (congrArg (fun y => Except.ok (Instr.mres y)) (MResI.read_fields x _ _))
  | mrel =>
    cases hf; exact { fits := by constructor <;> decide, implied := ⟨nofun, nofun, fun _ => rfl, fun _ _ => rfl⟩, instr := rfl, lens := ⟨_, rfl, by decide⟩ }
  | mstat x => cases hf; exact proper_ext (DstS.fits x) rfl rfl (by simp [DstS.fields, defaultTy]) (congrArg (fun y => Except.ok (Instr.mstat y)) (DstS.read_fields x _ _))
  | mldb x => cases hf; exact proper_ext (MldbI.fits x) rfl rfl (by simp [MldbI.fields, defaultTy]) (congrArg (fun y => Except.ok (Instr.mldb y)) (MldbI.read_fields x _ _))
  | mmul x => cases hf; exact proper_ext (MMulI.fits x) rfl rfl (by simp [MMulI.fields, defaultTy]) (congrArg (fun y => Except.ok (Instr.mmul y)) (MMulI.read_fields x _ _))
  | mamov x => cases hf; exact proper_ext (MaMovI.fits x) rfl rfl (by simp [MaMovI.fields, defaultTy]) (congrArg (fun y => Except.ok (Instr.mamov y)) (MaMovI.read_fields x _ _))
  | mzero x => cases hf; exact proper_ext (MZeroI.fits x) rfl rfl (by simp [MZeroI.fields, defaultTy]) (congrArg (fun y => Except.ok (Instr.mzero y)) (MZeroI.read_fields x _ _))
  | mfenceBase =>
    cases hf; exact { fits := by constructor <;> decide, implied := ⟨fun _ => rfl, nofun, nofun, nofun⟩, instr := rfl, lens := ⟨_, rfl, by decide⟩ }
  | mfenceExt =>
    cases hf; exact { fits := by constructor <;> decide, implied := ⟨nofun, nofun, fun _ => rfl, fun _ _ => rfl⟩, instr := rfl, lens := ⟨_, rfl, by decide⟩ }
  | mwait x => cases hf; exact proper_ext (MWaitI.fits x) rfl rfl (by simp [MWaitI.fields, defaultTy]) (congrArg (fun y => Except.ok (Instr.mwait y)) (MWaitI.read_fields x _ _))
  | prune x => cases hf; exact proper_ext (PruneI.fits x) rfl rfl (by simp [PruneI.fields, defaultTy]) (congrArg (fun y => Except.ok (Instr.prune y)) (PruneI.read_fields x _ _))
  | mldbs x => cases hf; exact proper_ext (MldbsI.fits x) rfl rfl (by simp [MldbsI.fields, defaultTy]) (congrArg (fun y => Except.ok (Instr.mldbs y)) (MldbsI.read_fields x _ _))
  | mmuls x => cases hf; exact proper_ext (MmulsI.fits x) rfl rfl (by simp [MmulsI.fields, defaultTy]) (congrArg (fun y => Except.ok (Instr.mmuls y)) (MmulsI.read_fields x _ _))
  | mhdr x => cases hf; exact proper_ext (MHdrI.fits x) rfl rfl (by simp [MHdrI.fields, defaultTy]) (congrArg (fun y => Except.ok (Instr.mhdr y)) (MHdrI.read_fields x _ _))
  | qpush x => cases hf; exact proper_ext (PushI.fits x) rfl rfl (by simp [PushI.fields, defaultTy]) (congrArg (fun y => Except.ok (Instr.qpush y)) (PushI.read_fields x _ _))
  | qpop x => cases hf; exact proper_ext (PopI.fits x) rfl rfl (by simp [PopI.fields, defaultTy]) (congrArg (fun y => Except.ok (Instr.qpop y)) (PopI.read_fields x _ _))
  | qtry x => cases hf; exact proper_ext (PopI.fits x) rfl rfl (by simp [PopI.fields, defaultTy]) (congrArg (fun y => Except.ok (Instr.qtry y)) (PopI.read_fields x _ _))
  | qlen x => cases hf; exact proper_ext (DaI.fits x) rfl rfl (by simp [DaI.fields, defaultTy]) (congrArg (fun y => Except.ok (Instr.qlen y)) (DaI.read_fields x _ _))
  | qstat x => cases hf; exact proper_ext (QStatI.fits x) rfl rfl (by simp [QStatI.fields, defaultTy]) (congrArg (fun y => Except.ok (Instr.qstat y)) (QStatI.read_fields x _ _))
  | tspawn x => cases hf; exact proper_ext (AbI.fits x) rfl rfl (by simp [AbI.fields, defaultTy]) (congrArg (fun y => Except.ok (Instr.tspawn y)) (AbI.read_fields x _ _))
  | tdone x => cases hf; exact proper_ext (SrcA.fits x) rfl rfl (by simp [SrcA.fields, defaultTy]) (congrArg (fun y => Except.ok (Instr.tdone y)) (SrcA.read_fields x _ _))
  | wlpush x => cases hf; exact proper_ext (PushI.fits x) rfl rfl (by simp [PushI.fields, defaultTy]) (congrArg (fun y => Except.ok (Instr.wlpush y)) (PushI.read_fields x _ _))
  | wlins x => cases hf; exact proper_ext (PushI.fits x) rfl rfl (by simp [PushI.fields, defaultTy]) (congrArg (fun y => Except.ok (Instr.wlins y)) (PushI.read_fields x _ _))
  | wlpop x => cases hf; exact proper_ext (PopI.fits x) rfl rfl (by simp [PopI.fields, defaultTy]) (congrArg (fun y => Except.ok (Instr.wlpop y)) (PopI.read_fields x _ _))
  | futset x => cases hf; exact proper_ext (FutSetI.fits x) rfl rfl (by simp [FutSetI.fields, defaultTy]) (congrArg (fun y => Except.ok (Instr.futset y)) (FutSetI.read_fields x _ _))
  | futget x => cases hf; exact proper_ext (DaI.fits x) rfl rfl (by simp [DaI.fields, defaultTy]) (congrArg (fun y => Except.ok (Instr.futget y)) (DaI.read_fields x _ _))
  | bkptBase =>
    cases hf; exact { fits := by constructor <;> decide, implied := ⟨fun _ => rfl, nofun, nofun, nofun⟩, instr := rfl, lens := ⟨_, rfl, by decide⟩ }
  | bkptExt x => cases hf; exact proper_ext (CodeI.fits x) rfl rfl (by simp [CodeI.fields, defaultTy]) (congrArg (fun y => Except.ok (Instr.bkptExt y)) (CodeI.read_fields x _ _))
  | trap x => cases hf; exact proper_ext (CodeI.fits x) rfl rfl (by simp [CodeI.fields, defaultTy]) (congrArg (fun y => Except.ok (Instr.trap y)) (CodeI.read_fields x _ _))
  | syscall x => cases hf; exact proper_ext (SyscallI.fits x) rfl rfl (by simp [SyscallI.fields, defaultTy]) (congrArg (fun y => Except.ok (Instr.syscall y)) (SyscallI.read_fields x _ _))
  | eret =>
    cases hf; exact { fits := by constructor <;> decide, implied := ⟨nofun, nofun, fun _ => rfl, fun _ _ => rfl⟩, instr := rfl, lens := ⟨_, rfl, by decide⟩ }
  | csrr x => cases hf; exact proper_ext (CsrRI.fits x) rfl rfl (by simp [CsrRI.fields, defaultTy]) (congrArg (fun y => Except.ok (Instr.csrr y)) (CsrRI.read_fields x _ _))
  | csrw x => cases hf; exact proper_ext (CsrWI.fits x) rfl rfl (by simp [CsrWI.fields, defaultTy]) (congrArg (fun y => Except.ok (Instr.csrw y)) (CsrWI.read_fields x _ _))
  | chkmode x => cases hf; exact proper_ext (ChkModeI.fits x) rfl rfl (by simp [ChkModeI.fields, defaultTy]) (congrArg (fun y => Except.ok (Instr.chkmode y)) (ChkModeI.read_fields x _ _))
  | rpmark x => cases hf; exact proper_ext (AbI.fits x) rfl rfl (by simp [AbI.fields, defaultTy]) (congrArg (fun y => Except.ok (Instr.rpmark y)) (AbI.read_fields x _ _))
  | rpget x => cases hf; exact proper_ext (RpGetI.fits x) rfl rfl (by simp [RpGetI.fields, defaultTy]) (congrArg (fun y => Except.ok (Instr.rpget y)) (RpGetI.read_fields x _ _))
  | ckseal x => cases hf; exact proper_ext (CkSealI.fits x) rfl rfl (by simp [CkSealI.fields, defaultTy]) (congrArg (fun y => Except.ok (Instr.ckseal y)) (CkSealI.read_fields x _ _))
  | finj x => cases hf; exact proper_ext (FinjI.fits x) rfl rfl (by simp [FinjI.fields, defaultTy]) (congrArg (fun y => Except.ok (Instr.finj y)) (FinjI.read_fields x _ _))
  | uaddExt x => cases hf; exact proper_lit (UBin.fits x) (UBin.litForm hw rfl) (by simp [UBin.fields, defaultTy]) (fun h0 => (if_neg h0).trans (congrArg (fun y => Except.ok (Instr.uaddExt y)) (UBin.read_fields x _ _)))
  | uandExt x => cases hf; exact proper_lit (UBin.fits x) (UBin.litForm hw rfl) (by simp [UBin.fields, defaultTy]) (fun h0 => (if_neg h0).trans (congrArg (fun y => Except.ok (Instr.uandExt y)) (UBin.read_fields x _ _)))
  | ushlExt x => cases hf; exact proper_lit (UBin.fits x) (UBin.litForm hw rfl) (by simp [UBin.fields, defaultTy]) (fun h0 => (if_neg h0).trans (congrArg (fun y => Except.ok (Instr.ushlExt y)) (UBin.read_fields x _ _)))
  | uli x => cases hf; exact proper_lit (ULit.fits x) (ULit.litForm hw) (by simp [ULit.fields, defaultTy]) (fun _ => congrArg (fun y => Except.ok (Instr.uli y)) (ULit.read_fields x _ _)) (h2 := Or.inr (by cases h : x.long <;> simp [ULit.fields, h]))
  | vaddExt x => cases hf; exact proper_lit (VBin.fits x) (VBin.litForm hw rfl) (by simp [VBin.fields, defaultTy]) (fun h0 => (if_neg h0).trans (congrArg (fun y => Except.ok (Instr.vaddExt y)) (VBin.read_fields x _ _)))
  | vandExt x => cases hf; exact proper_lit (VBin.fits x) (VBin.litForm hw rfl) (by simp [VBin.fields, defaultTy]) (fun h0 => (if_neg h0).trans (congrArg (fun y => Except.ok (Instr.vandExt y)) (VBin.read_fields x _ _)))
  | vshlExt x => cases hf; exact proper_lit (VBin.fits x) (VBin.litForm hw rfl) (by simp [VBin.fields, defaultTy]) (fun h0 => (if_neg h0).trans (congrArg (fun y => Except.ok (Instr.vshlExt y)) (VBin.read_fields x _ _)))
  | vmovExt x => cases hf; exact proper_lit (VMovI.fits x) (VMovI.litForm (by simp_all [Instr.wellFormed])) (by simp [VMovI.fields, defaultTy]) (fun h0 => (if_neg h0).trans (congrArg (fun y => Except.ok (Instr.vmovExt y)) (VMovI.read_fields x _ _)))
  | faddExt x => cases hf; exact proper_lit (FBin.fits x) (FBin.litForm hw rfl) (by simp [FBin.fields, defaultTy]) (fun h0 => (if_neg h0).trans (congrArg (fun y => Except.ok (Instr.faddExt y)) (FBin.read_fields x _ _)))
  | becomeExt x => cases hf; exact proper_lit (BecomeI.fits x) (BecomeI.litForm x) (by simp [BecomeI.fields, defaultTy]) (fun h0 => (if_neg h0).trans (congrArg (fun y => Except.ok (Instr.becomeExt y)) (BecomeI.read_fields x _ _)))
  | setfmtExt x => cases hf; exact proper_lit (SetFmtI.fits x) (SetFmtI.litForm x) (by simp [SetFmtI.fields, defaultTy]) (fun h0 => (if_neg h0).trans (congrArg (fun y => Except.ok (Instr.setfmtExt y)) (SetFmtI.read_fields x _ _)))
  | _ => cases hf

/-! ## What decodes (02 R40) -/

theorem ofWords_length {ws : List Nat} {f : Fields} (h : Fields.ofWords ws = some f) : wordsOfLen f.len ≤ ws.length := by
  unfold Fields.ofWords at h
  split at h
  · cases h
  · next w0 rest =>
    split at h <;> cases h <;>
      simp_all [Fields.ofWord0, Fields.withExt, wordsOfLen]

theorem len_of_mismatch {f g : Fields} (h : f.mismatch g = none) : f.len = g.len := by
  unfold Fields.mismatch at h
  grind

theorem decodeChecked_ok {f : Fields} {i : Instr} (h : decodeChecked f = .ok i) :
    i.wellFormed = true ∧ ∃ g, i.fields = some g ∧ g.len = f.len := by
  unfold decodeChecked at h
  split at h
  · cases h
  · split at h
    · cases h
    · split at h
      · cases h
      · split at h
        · cases h
        · next g hg =>
          split at h
          · cases h
          · next hm =>
            split at h
            · next hw =>
              cases h
              exact ⟨hw, g, hg, (len_of_mismatch hm).symm⟩
            · cases h

theorem decode_ok {bs : List Byte} {i : Instr} (h : decode bs = .ok i) :
    i.wellFormed = true ∧ ∃ g, i.fields = some g ∧ wordsOfLen g.len ≤ (wordsOfBytes bs).length := by
  unfold decode decodeWords at h
  split at h
  · cases h
  · next f hf =>
    have hc : decodeChecked f = .ok i := by
      unfold decodeFields at h
      grind
    obtain ⟨hw, g, hg, hl⟩ := decodeChecked_ok hc
    exact ⟨hw, g, hg, hl ▸ ofWords_length hf⟩

theorem encode_of_fields {i : Instr} {f : Fields} (h : i.fields = some f) : encode i = some (f.words.flatMap bytesOfWord) := by
  simp [encode, encodeWords, h]

theorem bytes_of_fields {i : Instr} {f : Fields} (h : i.fields = some f) : i.bytes = 4 * wordsOfLen f.len := by
  simp [Instr.bytes, h]

/-- Settles O56: each record of operands is read back from the fields it writes, the fields from their words, and what the words do not hold is
what the form implies. -/
theorem roundTrip : Obligations.RoundTrip := by
  refine ⟨fun i f hw hf => ?_, fun bs i h => ?_⟩
  · exact ⟨_, encode_of_fields hf, Laws.Length.all i _ (encode_of_fields hf), fun rest => (proper_of_fields hw hf).decode hf hw rest⟩
  · obtain ⟨hw, g, hg, hl⟩ := decode_ok h
    have hb := length_wordsOfBytes bs
    have he := Laws.Length.all i _ (encode_of_fields hg)
    refine ⟨hw, _, encode_of_fields hg, he, ?_⟩
    rw [he, bytes_of_fields hg]
    omega

end Sys2Proof.Proofs.RoundTrip
end

section
/-! PROOFS. Worked encodings, the state of the reset, one step (02, 01 R9, 95). -/

namespace Sys2Proof.Proofs.Start
open Sys2Proof Sys2Proof.Machine Sys2Proof.Claims

/-- Settles O55: each table word is decoded. -/
theorem decodesWords : Obligations.DecodesWords := by
  unfold Obligations.DecodesWords
  refine ⟨?_, ?_, ?_, ?_, ?_, ?_, ?_, ?_, ?_, ?_, ?_, ?_, ?_, ?_⟩ <;> decide +kernel

theorem getD_replicate_self {α : Type} (n i : Nat) (a : α) : (List.replicate n a).getD i a = a := by
  rw [List.getD_eq_getElem?_getD, List.getElem?_replicate]
  split <;> rfl

theorem fn?_reset (fn : Nat) : State.reset.fn? fn = Fn.reset := getD_replicate_self 17 fn Fn.reset
theorem core?_reset (core : Nat) : State.reset.core? core = CoreRec.reset := getD_replicate_self 128 core CoreRec.reset

/-- Settles O57: the state of the reset, read off. -/
theorem resetState : Obligations.ResetState := by
  unfold Obligations.ResetState
  refine ⟨rfl, rfl, rfl, rfl, ⟨rfl, rfl⟩, rfl, rfl, rfl, fun die hd => ?_, fun fn => ?_, fun core => ?_, rfl, rfl, rfl, rfl, rfl⟩
  · interval_cases die <;> refine ⟨rfl, rfl, rfl⟩
  · rw [fn?_reset]
    exact ⟨rfl, rfl, rfl, rfl⟩
  · rw [core?_reset]
    exact ⟨rfl, rfl, rfl⟩

section
variable {s : State} {rest : List Turn}

/-- What the turn that is due does. -/
theorem due_of_turn {t : Turn} (h : s.nextTurn = (t, rest)) :
    s.due = match t with
      | .issue f =>
        if State.canIssue { s with agenda := rest, order := s.order + 1 } f then
          match State.mergeDue { s with agenda := rest, order := s.order + 1 } f with
          | some e => .run e { s with agenda := rest, order := s.order + 1 }
          | none => .run (State.instrAt { s with agenda := rest, order := s.order + 1 } f)
              (State.pick { s with agenda := rest, order := s.order + 1 } f)
        else .idle { s with agenda := rest, order := s.order + 1 }
      | .event i =>
        if isEvent i then .run i { s with agenda := rest, order := s.order + 1 } else .idle { s with agenda := rest, order := s.order + 1 }
      | .tick n => .idle ((State.tick { s with agenda := rest, order := s.order + 1 } n).retry) := by
  simp only [State.due, h]
  cases t <;> rfl

end

/-- The instruction at a split's PC, where its words are fetched and decode. -/
theorem instrAt_of_decode {s : State} {f : Focus} {g : Gang} {sp : Split} {bs : List Byte} {i : Instr} (hg : s.gang? f.gang = some g)
    (hsp : s.split? f = some sp) (hf : s.fetch (s.whoOf g f) sp.pc = .ok bs) (hd : decode bs = .ok i) : s.instrAt f = i := by
  simp [State.instrAt, hg, hsp, hf, hd]

/-- The row of words that are no instruction, where they cannot be fetched or do not decode. -/
theorem instrAt_of_bad {s : State} {f : Focus} {g : Gang} {sp : Split} (hg : s.gang? f.gang = some g) (hsp : s.split? f = some sp)
    (hb : ∀ bs i, s.fetch (s.whoOf g f) sp.pc = .ok bs → decode bs ≠ .ok i) : s.instrAt f = .notAnInstruction := by
  simp only [State.instrAt, hg, hsp]
  cases hf : s.fetch (s.whoOf g f) sp.pc with
  | error e => rfl
  | ok bs =>
    cases hd : decode bs with
    | error e => simp only [hd]
    | ok i => exact absurd hd (hb bs i hf)

/-- Settles O59: the row that is due, by the kind of the turn. -/
theorem stepRuns : Obligations.StepRuns := by
  intro s rest s0
  refine ⟨fun f ht hc => ⟨⟨_, rfl⟩, fun e he => ?_, fun g sp bs i hm hg hsp hf hd => ?_, fun g sp hm hg hsp hb => ?_⟩, fun f ht hc => ?_,
    fun e ht he => ?_, fun n ht => ?_, fun t ts h => ?_⟩
  · simp only [step, due_of_turn ht, s0, hc, he, if_true] at *
  · simp only [step, due_of_turn ht, s0, hc, hm, if_true, instrAt_of_decode hg hsp hf hd] at *
  · simp only [step, due_of_turn ht, s0, hc, hm, if_true, instrAt_of_bad hg hsp hb] at *
  · simp only [step, due_of_turn ht, s0, hc] at *
    rfl
  · simp only [step, due_of_turn ht, s0, he, if_true]
  · simp only [step, due_of_turn ht, s0]
  · simp [State.nextTurn, h]
end Sys2Proof.Proofs.Start
end

section
/-! PROOFS. Lanes of a tile (10 R194, R201). -/

namespace Sys2Proof.Proofs.Tiles
open Sys2Proof Sys2Proof.Machine Sys2Proof.Claims

section
variable {e l x : Nat} (he : e ≤ 5) (hl : l < 32) (hx : x < 2 ^ e)
include he hl hx

/-- A place of a tile is a lane of the group, since a tile's size divides 32 (10 R194). -/
theorem tileBase_add_lt : tileBase (2 ^ e) l + x < 32 := by
  unfold tileBase
  interval_cases e <;> omega

end

theorem tileBase_eq (t l : Nat) : tileBase t l = t * (l / t) := by
  have := Nat.div_add_mod l t
  unfold tileBase
  omega

theorem tileBase_add_div {t l x : Nat} (hx : x < t) : (tileBase t l + x) / t = l / t := by
  rw [tileBase_eq, Nat.mul_add_div (by omega), Nat.div_eq_of_lt hx, Nat.add_zero]

/-- A lane is a place of its own tile. -/
theorem tileBase_add_mod (t l : Nat) : tileBase t l + l % t = l := by
  rw [tileBase_eq]
  exact Nat.div_add_mod l t

/-- Settles O6: each source is a place of the lane's tile. -/
theorem shuffleStaysInTile : Obligations.ShuffleStaysInTile := by
  intro k e l d he hl
  have ht : 0 < 2 ^ e := Nat.two_pow_pos e
  have hi := Nat.mod_lt l ht
  have hd := Nat.mod_lt d ht
  have hlane := tileBase_add_mod (2 ^ e) l
  have place : ∀ x j, x < 2 ^ e → tileBase (2 ^ e) l + x = j → j < 32 ∧ j / 2 ^ e = l / 2 ^ e := by
    rintro x j hx rfl
    exact ⟨tileBase_add_lt he hl hx, tileBase_add_div hx⟩
  cases k with
  | idx => exact ⟨fun j hj => place _ j hd (Option.some.inj hj), by simp [shflSource]⟩
  | xor => exact ⟨fun j hj => place _ j (Nat.xor_lt_two_pow hi hd) (Option.some.inj hj), by simp [shflSource]⟩
  | up =>
    refine ⟨fun j hj => ?_, ?_⟩
    · obtain ⟨⟨-, h⟩, hj⟩ := Option.ite_none_right_eq_some.mp hj
      exact place (l % 2 ^ e - d) j (by omega) (by have := Option.some.inj hj; omega)
    · simp only [shflSource, ite_eq_right_iff, reduceCtorEq, imp_false, true_and, false_and, or_false]
      omega
  | down =>
    refine ⟨fun j hj => ?_, ?_⟩
    · obtain ⟨⟨-, h⟩, hj⟩ := Option.ite_none_right_eq_some.mp hj
      exact place (l % 2 ^ e + d) j h (by have := Option.some.inj hj; omega)
    · simp only [shflSource, ite_eq_right_iff, reduceCtorEq, imp_false, true_and, false_and, false_or]
      omega
end Sys2Proof.Proofs.Tiles
end

section
/-! PROOFS. The walk and the checks of R55 (03 R51-R55). -/

namespace Sys2Proof.Proofs.Walks
open Sys2Proof Sys2Proof.Machine Sys2Proof.Claims

/-- The entries of a walk are present, and their levels run from the first to at most the last (03 R51). -/
theorem walkFrom_mem {s : State} {va : Nat} : ∀ {fuel level base : Nat} {es : List (Nat × Nat)}, s.walkFrom va fuel level base = some es →
    ∀ x, x ∈ es → x.2.testBit 0 = true ∧ level ≤ x.1 ∧ x.1 < level + fuel
  | 0, level, base, es, h, x, hx => by cases h; cases hx
  | fuel + 1, level, base, es, h, x, hx => by
    simp only [State.walkFrom] at h
    split at h
    · cases h
    · next h0 =>
      have h0 : (s.entry base (levelIndex level va)).testBit 0 = true := by simpa using h0
      split at h
      · cases h
        obtain rfl : x = (level, s.entry base (levelIndex level va)) := by simpa using hx
        exact ⟨h0, le_refl _, by omega⟩
      · obtain ⟨fs, hfs, rfl⟩ := Option.map_eq_some_iff.mp h
        rcases List.mem_cons.mp hx with rfl | hx
        · exact ⟨h0, le_refl _, by omega⟩
        · obtain ⟨ht, hl, hu⟩ := walkFrom_mem hfs x hx
          exact ⟨ht, by omega, by omega⟩

theorem walkCtx_mem {s : State} {c : Context} {va : Nat} {es : List (Nat × Nat)} (h : s.walkCtx c va = some es) :
    ∀ x, x ∈ es → x.2.testBit 0 = true ∧ x.1 < 4 := by
  have of_walk : ∀ {root : Nat}, s.walk root va = some es → ∀ x, x ∈ es → x.2.testBit 0 = true ∧ x.1 < 4 := by
    intro root hw x hx
    obtain ⟨h0, -, hu⟩ := walkFrom_mem hw x hx
    exact ⟨h0, by omega⟩
  unfold State.walkCtx at h
  split at h
  · next hw => exact of_walk (hw.trans h)
  · split at h
    · split at h
      · exact of_walk h
      · cases h
    · cases h

/-- A well-formed walk ends in a well-formed leaf (03 R55 step 3). -/
theorem walkOk_last : ∀ {es : List (Nat × Nat)} {level e : Nat}, walkOk es = true → es.getLast? = some (level, e) →
    e.testBit 1 = true ∧ leafOk level e = true
  | [], level, e, hw, _ => by cases hw
  | [(_, _)], level, e, hw, hl => by
    cases hl
    simpa [walkOk] using hw
  | (_, _) :: y :: es, level, e, hw, hl => by
    rw [List.getLast?_cons_cons] at hl
    simp only [walkOk, Bool.and_eq_true] at hw
    exact walkOk_last hw.2 hl

theorem leafOk_level {level e : Nat} (h : leafOk level e = true) : 1 ≤ level := by
  simp only [leafOk, Bool.and_eq_true, decide_eq_true_eq] at h
  omega

/-- Settles O54: the checks of R55, in their order. -/
theorem translation : Obligations.Translation := by
  intro s w k va
  refine ⟨fun h => ?_, fun c h hc hw => ?_, fun c es h hc hw hok => ?_, fun x hx => ?_⟩
  · exact if_pos h
  · simp only [State.translate, if_neg (Nat.not_le.mpr h), hc, hw]
  · simp only [State.translate, if_neg (Nat.not_le.mpr h), hc, hw, hok, Bool.not_false, if_true]
  · unfold State.translate at hx
    dsimp only at hx
    split at hx
    · cases hx
    next hva =>
    split at hx
    · cases hx
    next c hc =>
    split at hx
    · cases hx
    next es hes =>
    split at hx
    · cases hx
    next hok =>
    split at hx
    · cases hx
    next level e hlast =>
    have hok : walkOk es = true := by simpa using hok
    obtain ⟨hleaf, hl⟩ := walkOk_last hok hlast
    obtain ⟨hv, hlt⟩ := walkCtx_mem hes _ (List.mem_of_getLast? hlast)
    have hge := leafOk_level hl
    split at hx
    · cases hx
    next hframe =>
    split at hx
    · cases hx
    split at hx
    · cases hx
    next howner =>
    split at hx
    · cases hx
    next hhp =>
    split at hx
    · cases hx
    next hdie =>
    split at hx
    · cases hx
    next hwr =>
    split at hx
    · cases hx
    next hfe =>
    cases hx
    refine ⟨c, es, level, e, Nat.not_le.mp hva, hc, hes, hok, hlast, hv, hleaf, hge, by omega, rfl, by simpa using hframe, rfl, rfl, rfl, ?_,
      ?_, ?_, ?_, ?_⟩
    · simpa [or_iff_not_imp_left] using howner
    · grind
    · grind
    · grind
    · grind
end Sys2Proof.Proofs.Walks
end

section
/-! PROOFS. The start of a gang (14 R263). -/

namespace Sys2Proof.Proofs.Launch
open Sys2Proof Sys2Proof.Machine Sys2Proof.Claims

/-! ## Tables that Ezden writes -/

/-- Only memory and the place of the next table differ, and memory stays in canonical form. -/
def TablesOnly (s t : State) : Prop := ∃ m n, (s.mem.wf = true → m.wf = true) ∧ t = { s with mem := m, tableNext := n }

theorem TablesOnly.refl (s : State) : TablesOnly s s := ⟨_, _, id, rfl⟩

theorem TablesOnly.trans {s t u : State} (h : TablesOnly s t) (h' : TablesOnly t u) : TablesOnly s u := by
  obtain ⟨m, n, hm, rfl⟩ := h
  obtain ⟨m', n', hm', rfl⟩ := h'
  exact ⟨m', n', fun h => hm' (hm h), rfl⟩

theorem TablesOnly.eqs {s t : State} (h : TablesOnly s t) :
    (s.mem.wf = true → t.mem.wf = true) ∧ t.gangs = s.gangs ∧ t.vat = s.vat ∧ t.contexts = s.contexts := by
  obtain ⟨m, n, hm, rfl⟩ := h
  exact ⟨hm, rfl, rfl, rfl⟩

theorem writeEntry_tablesOnly (s : State) (a v : Nat) : TablesOnly s (s.writeEntry a v) :=
  ⟨_, _, fun h => Memory.writeLE_wf h a 8 v, rfl⟩

theorem mapFrom_tablesOnly (va target leaf : Nat) : ∀ (fuel : Nat) (s : State) (level base : Nat),
    TablesOnly s (s.mapFrom va target leaf fuel level base)
  | 0, s, level, base => TablesOnly.refl s
  | fuel + 1, s, level, base => by
    simp only [State.mapFrom]
    split
    · exact writeEntry_tablesOnly s _ _
    · split
      · exact mapFrom_tablesOnly va target leaf fuel s _ _
      · exact TablesOnly.trans (TablesOnly.trans ⟨_, _, id, rfl⟩ (writeEntry_tablesOnly _ _ _)) (mapFrom_tablesOnly va target leaf fuel _ _ _)

theorem mapPage_tablesOnly (s : State) (root va frame code bits owner : Nat) : TablesOnly s (s.mapPage root va frame code bits owner) :=
  mapFrom_tablesOnly _ _ _ 4 s 0 root

theorem mapOwn_tablesOnly (tag : Nat) : ∀ (n : Nat) (s : State) (va pa : Nat), TablesOnly s (s.mapOwn tag va pa n)
  | 0, s, va, pa => TablesOnly.refl s
  | n + 1, s, va, pa => by
    unfold State.mapOwn
    split
    · exact TablesOnly.refl s
    · exact TablesOnly.trans (mapPage_tablesOnly s _ _ _ _ _ _) (mapOwn_tablesOnly tag n _ _ _)

/-! ## Bytes cleared -/

theorem cellsRead_filter_keep {q : Host.Cell → Bool} {k : Nat} : ∀ (l : List Host.Cell), (∀ c ∈ l, c.1 = k → q c = true) →
    cellsRead (l.filter q) k = cellsRead l k
  | [], _ => rfl
  | (a, b) :: rest, h => by
    have ih := cellsRead_filter_keep rest (fun c hc => h c (List.mem_cons_of_mem _ hc))
    rw [List.filter_cons]
    split
    · simp only [cellsRead, ih]
    · next hq =>
      have hk : a ≠ k := fun e => hq (h (a, b) (List.mem_cons_self ..) e)
      simp only [cellsRead, if_neg hk, ih]

theorem cellsRead_filter_drop {q : Host.Cell → Bool} {k : Nat} : ∀ (l : List Host.Cell), (∀ c ∈ l, c.1 = k → q c = false) →
    cellsRead (l.filter q) k = Memory.unlisted
  | [], _ => rfl
  | (a, b) :: rest, h => by
    have ih := cellsRead_filter_drop rest (fun c hc => h c (List.mem_cons_of_mem _ hc))
    rw [List.filter_cons]
    split
    · next hq =>
      have hk : a ≠ k := fun e => by simp [h (a, b) (List.mem_cons_self ..) e] at hq
      simp only [cellsRead, if_neg hk, ih]
    · exact ih

theorem read_clear_inside (m : Memory) {a n k : Nat} (h : a ≤ k) (h' : k < a + n) : (m.clear a n).read k = 0 := by
  refine cellsRead_filter_drop m.cells (fun c _ hc => ?_)
  simp [hc, h, h']

theorem read_clear_outside (m : Memory) {a n k : Nat} (h : k < a ∨ a + n ≤ k) : (m.clear a n).read k = m.read k := by
  refine cellsRead_filter_keep m.cells (fun c _ hc => ?_)
  simpa [hc] using h

/-! ## A group at the start -/

/-- The registers of a launch group: the argument registers, the record of the parts, the window (14 R263). -/
theorem launchGroup_readS (g : Gang) (slot : Nat) (sp : Split) (hsp : sp.shadows = []) (r : SReg) : (g.launchGroup slot).readS sp r =
    if r = 0 then g.task.arg else if r = 1 then g.task.tc0.zeroExtend 64 else if r = 2 then g.task.tc1.zeroExtend 64
    else if r = 3 then g.task.tc2.zeroExtend 64 else if r = 4 then g.task.succ else if r = 254 then g.partsRecord
    else if r = 255 then BitVec.ofNat 64 (g.window slot) else 0 := by
  have hval : (g.launchGroup slot).readS sp r = ((((((((Vector.replicate 384 (0 : Word)).set 0 g.task.arg).set 1 (g.task.tc0.zeroExtend 64)).set 2
      (g.task.tc1.zeroExtend 64)).set 3 (g.task.tc2.zeroExtend 64)).set 4 g.task.succ).set 254 g.partsRecord).set 255
      (BitVec.ofNat 64 (g.window slot)))[r.val] := by
    simp only [Group.readS, hsp, List.findSome?_nil]
    rfl
  rw [hval]
  simp only [Vector.getElem_set, Vector.getElem_replicate, Fin.ext_iff]
  obtain ⟨n, hn⟩ := r
  change (if 255 = n then _ else if 254 = n then _ else if 4 = n then _ else if 3 = n then _ else if 2 = n then _ else if 1 = n then _
    else if 0 = n then _ else _) = if n = 0 then _ else if n = 1 then _ else if n = 2 then _ else if n = 3 then _ else if n = 4 then _
    else if n = 254 then _ else if n = 255 then _ else _
  grind

theorem launchGroup_pred (g : Gang) (slot : Nat) (p : PReg) : (g.launchGroup slot).pred p = if p = 0 then 0xFFFFFFFF#32 else 0 := by
  simp [Group.pred, Gang.launchGroup, Group.putEntry, Group.setSplit, Group.fresh]

theorem launchGroup_slot (g : Gang) (slot : Nat) : (g.launchGroup slot).slot = slot := rfl

theorem find?_launchGroups (g : Gang) (n slot : Nat) :
    ((List.range n).map g.launchGroup).find? (fun x => x.slot == slot) = if slot < n then some (g.launchGroup slot) else none := by
  rw [List.find?_map]
  have hf : ((fun (x : Group) => x.slot == slot) ∘ g.launchGroup) = fun i => i == slot := rfl
  rw [hf]
  split
  · next h =>
    rw [List.find?_range_eq_some.mpr ⟨by simp, List.mem_range.mpr h, by simp; omega⟩]
    rfl
  · next h =>
    rw [List.find?_eq_none.mpr (fun x hx => by have := List.mem_range.mp hx; simp; omega)]
    rfl

theorem tile_start (pc : Word) (lanes : LaneMask) (age : Nat) : (Split.start pc lanes age).tile = 32 := by
  change 2 ^ bitsOf 5 2 0 = 32
  decide

theorem gang?_append {gs : List Gang} {g : Gang} {id : Nat} (hid : g.id = id) (h : ∀ x, x ∈ gs → x.id < id) :
    (gs ++ [g]).find? (fun x => x.id == id) = some g := by
  rw [List.find?_append, List.find?_eq_none.mpr (fun x hx => by have := h x hx; simp; omega)]
  simp [hid]

theorem gang?_append_other {gs : List Gang} {g : Gang} {id : Nat} (hid : g.id ≠ id) :
    (gs ++ [g]).find? (fun x => x.id == id) = gs.find? (fun x => x.id == id) := by
  rw [List.find?_append, List.find?_cons_of_neg (by simpa using hid), List.find?_nil, Option.or_none]

/-- Settles O58: the gang is found behind the others with the groups of its record; its allocation was cleared. -/
theorem gangStart : Obligations.GangStart := by
  intro s core base t pair hwf hids
  unfold State.startGang
  extract_lets id chkmin g0 frame gp g1 s1 spill s2 s3 u
  obtain ⟨-, hgangs, hvat, -⟩ := ((mapOwn_tablesOnly t.ctx 1 s2 (frameVaOf id) frame).trans
    (mapOwn_tablesOnly t.ctx t.spill _ (spillVaOf id) spill)).eqs
  have hgangs : u.gangs = s2.gangs := hgangs
  have hfind : ∀ i, u.gang? i = s2.gang? i := by
    intro i
    unfold State.gang?
    rw [hgangs]
  have hnew : s1.gang? id = some g1 := gang?_append rfl hids
  have hold : ∀ i, i ≠ id → s1.gang? i = s.gang? i := fun i hi => gang?_append_other (fun e => hi e.symm)
  have hmod : ∀ i, s2.gang? i = (s1.gang? i).map (fun g => if i = id then { g with spillPhys := if t.spill = 0 then 0 else spill } else g) :=
    fun i => gang?_modGang s1 id i (fun _ => rfl)
  have hg : u.gang? id = some { g1 with spillPhys := if t.spill = 0 then 0 else spill } := by
    rw [hfind, hmod, hnew, Option.map_some, if_pos rfl]
  have hslot : ∀ slot, u.group? id slot = if slot < t.groups then some (g0.launchGroup slot) else none := by
    intro slot
    rw [State.group?, hg]
    exact find?_launchGroups g0 t.groups slot
  refine ⟨_, hg, rfl, rfl, rfl, rfl, rfl, rfl, rfl, rfl, rfl, rfl, rfl, rfl, rfl, rfl, rfl, fun i hi => ?_, fun b hb => ?_, fun k hk => ?_,
    fun slot h => ?_, fun slot h => ?_⟩
  · change i ≠ id at hi
    simp only [hfind, hmod, hold i hi, if_neg hi, Option.map_id']
  · exact read_clear_inside _ (by omega) (by omega)
  · exact (read_clear_outside _ hk).trans (congrArg (fun m => Memory.read m k) hvat)
  · rw [hslot, if_neg (by omega)]
  · refine ⟨_, _, (hslot slot).trans (if_pos h), rfl, rfl, rfl, rfl, rfl, rfl, tile_start .., rfl, rfl, rfl, rfl, rfl, rfl, rfl, rfl, rfl,
      launchGroup_pred g0 slot, ?_, fun r => (launchGroup_readS g0 slot _ rfl r).trans rfl⟩
    intro q
    exact ⟨Vector.getElem_replicate .., Vector.getElem_replicate ..⟩
end Sys2Proof.Proofs.Launch
end

section
/-! PROOFS. Uniform and vector arithmetic: the values of R177 and the bodies of the members. -/

namespace Sys2Proof.Proofs.Arith
open Sys2Proof Sys2Proof.Machine Sys2Proof.Claims

/-! ## The values of R177, as the claims write them -/

section
variable (ty : Ty) (a b : Word)

theorem signedOf_mod (n x : Nat) : signedOf n (x % 2 ^ n) = signedOf n x := by simp [signedOf]

/-- A natural number is delivered modulo the width of its type. -/
theorem deliver_nat (k : Nat) : deliver ty false (k : Int) = k % 2 ^ ty.bits := by
  simp only [deliver, wrapInt, Bool.false_eq_true, if_false]
  norm_cast

theorem intOp_add : intOp .add ty a b = readInt ty a + readInt ty b := rfl
theorem intOp_sub : intOp .sub ty a b = readInt ty a - readInt ty b := rfl
theorem intOp_mul : intOp .mul ty a b = readInt ty a * readInt ty b := rfl
theorem intOp_mulh : intOp .mulh ty a b = readInt ty a * readInt ty b / 2 ^ ty.bits := by simp [intOp, floorShift]
theorem intOp_min : intOp .min ty a b = min (readInt ty a) (readInt ty b) := (Int.min_def _ _).symm
theorem intOp_max : intOp .max ty a b = max (readInt ty a) (readInt ty b) := (Int.max_def _ _).symm

theorem intOp_sra : intOp .sra ty a b = sra ty.bits (signedOf ty.bits a.toNat) (b.toNat % 2 ^ ty.bits) := by
  simp only [intOp, signedOf_mod, sra, floorShift]
  norm_cast

/-- The operations on the sources' bits are delivered as natural numbers. -/
theorem deliver_and : deliver ty false (intOp .and ty a b) = (a.toNat % 2 ^ ty.bits &&& b.toNat % 2 ^ ty.bits) % 2 ^ ty.bits := deliver_nat ty _
theorem deliver_or : deliver ty false (intOp .or ty a b) = (a.toNat % 2 ^ ty.bits ||| b.toNat % 2 ^ ty.bits) % 2 ^ ty.bits := deliver_nat ty _
theorem deliver_xor : deliver ty false (intOp .xor ty a b) = (a.toNat % 2 ^ ty.bits ^^^ b.toNat % 2 ^ ty.bits) % 2 ^ ty.bits := deliver_nat ty _

theorem deliver_shl : deliver ty false (intOp .shl ty a b) =
    (if b.toNat % 2 ^ ty.bits < ty.bits then a.toNat % 2 ^ ty.bits * 2 ^ (b.toNat % 2 ^ ty.bits) else 0) % 2 ^ ty.bits := by
  rw [← deliver_nat]
  simp only [intOp]
  split <;> rfl

theorem deliver_shr : deliver ty false (intOp .shr ty a b) =
    (if b.toNat % 2 ^ ty.bits < ty.bits then a.toNat % 2 ^ ty.bits / 2 ^ (b.toNat % 2 ^ ty.bits) else 0) % 2 ^ ty.bits := by
  rw [← deliver_nat]
  simp only [intOp]
  split <;> rfl

/-- The one bits of a value reduced to its width. -/
theorem popCount_mod (n x : Nat) : popCount n x = ((List.range n).filter (fun i => (x % 2 ^ n).testBit i)).length := by
  unfold popCount
  congr 1
  refine List.filter_congr (fun i hi => ?_)
  simp [Nat.testBit_mod_two_pow, List.mem_range.mp hi]

theorem leadingZeros_mod {m n : Nat} (h : m ≤ n) (x : Nat) : leadingZeros m (x % 2 ^ n) = leadingZeros m x := by
  induction m with
  | zero => rfl
  | succ m ih =>
    have hm : m < n := h
    simp only [leadingZeros, ih (Nat.le_of_lt hm), Nat.testBit_mod_two_pow, hm, decide_true, Bool.true_and]

end

/-! ## What an issue reads and delivers -/

section
variable {s : State} {n : Need} {len : Nat} {c : Iss} (h : Issues s n len c)
include h

theorem group?_issued : s.group? c.f.gang c.f.group = some c.grp := by
  rw [h.place]
  exact h.grp

theorem split?_issued : s.split? c.f = some c.sp := by
  rw [h.place]
  exact h.sp

theorem state_issued : c.s = s.modSplit c.f Split.go := by
  rw [h.place]
  exact h.state

/-- The issuing split reads what it sees. -/
theorem readS_issued (r : SReg) : c.readS r = s.sAt c.f r := by
  simp [State.sAt, group?_issued h, split?_issued h, Iss.readS]

theorem usrc_issued (b : USrc) : c.usrc b = src (s.sAt c.f) b := by
  cases b with
  | reg r => exact readS_issued h r
  | _ => rfl

theorem readUp_issued (r : UPReg) : c.grp.readUp c.sp r = s.upAt c.f r := by simp [State.upAt, group?_issued h, split?_issued h]

end

theorem dueFlips_eq_nil {c : Iss} {s : State} (h : c.dueFlip s = none) : c.dueFlips s = [] := List.head?_eq_none_iff.mp h

/-- With no flip due a uniform result is written. -/
theorem deliverS_noFlip {c : Iss} {s : State} (h : c.dueFlip s = none) (r : SReg) (v : Word) : deliverS c s r v = s.writeU c.f (.s r v) := by
  simp [deliverS, dueFlips_eq_nil h, xorFlips, dropFlips, countResolved]

/-! ## Uniform members -/

/-- A destination with a value in it. -/
def entryWith : UEntry → Word → UEntry
  | .s r _, v => .s r v
  | .up r _, v => .up r (decide (v = 1))
  | .m r x, _ => .m r x

/-- After the write of one entry the split reads it, sees everything else as before, and is behind the instruction. -/
theorem writeU_result {s : State} {n : Need} {len : Nat} {c : Iss} (h : Issues s n len c) (e : UEntry) (v : Word) :
    let t := (c.s.writeU c.f (entryWith e v)).after c
    reads t c.f v e ∧ restSame s t c.f e ∧ t.pcAt c.f = s.pcAt c.f + BitVec.ofNat 64 len ∧ gangsOnly s t ∧ Kept s t c.f := by
  obtain ⟨hs, hg, hsp⟩ := And.intro (state_issued h) (And.intro (group?_issued h) (split?_issued h))
  obtain ⟨x, hx⟩ : ∃ x, c.s.group? c.f.gang c.f.group = some x := by
    obtain ⟨x, hx, -⟩ := (hs ▸ kept_go s c.f : Kept s c.s c.f).group _ hg
    exact ⟨x, hx⟩
  obtain ⟨a, ha⟩ : ∃ a, c.s.split? c.f = some a := by
    rw [hs, split?_modSplit_same, hsp]
    exact ⟨_, rfl⟩
  have hS : ∀ r, c.s.sAt c.f r = s.sAt c.f r := fun r => by rw [hs, sAt_go]
  have hUp : ∀ r, c.s.upAt c.f r = s.upAt c.f r := fun r => by rw [hs, upAt_go]
  have hM : ∀ r, c.s.mAt c.f r = s.mAt c.f r := fun r => by rw [hs, mAt_go]
  refine ⟨?_, ?_, ?_, ?_, ?_⟩
  · cases e with
    | s r w => simp [reads, entryWith, sAt_writeU_same hx ha]
    | up r w =>
      simp only [reads, entryWith, upAt_after]
      by_cases h0 : r = 0
      · subst h0
        rw [upAt_writeU_other hx ha _ 0 (Or.inl rfl), upAt_zero hx ha]
        rfl
      · simp [upAt_writeU_same hx ha r _ h0, h0]
    | m r w => trivial
  · cases e with
    | s r w =>
      refine ⟨fun q hq => ?_, fun q _ => ?_, fun q _ => ?_⟩
      · simp only [sAt_after, entryWith]
        rw [sAt_writeU_other hx ha (.s r v) q (by rintro _ ⟨⟩; simp at hq), hS]
      · simp only [upAt_after, entryWith]
        rw [upAt_writeU_other hx ha (.s r v) q (Or.inr (by simp)), hUp]
      · simp only [mAt_after, entryWith]
        rw [mAt_writeU_other hx ha (.s r v) q (by simp), hM]
    | up r w =>
      refine ⟨fun q _ => ?_, fun q hq => ?_, fun q _ => ?_⟩
      · simp only [sAt_after, entryWith]
        rw [sAt_writeU_other hx ha (.up r (decide (v = 1))) q (by simp), hS]
      · simp only [upAt_after, entryWith]
        rw [upAt_writeU_other hx ha (.up r (decide (v = 1))) q (Or.inr (by rintro _ ⟨⟩; simp at hq)), hUp]
      · simp only [mAt_after, entryWith]
        rw [mAt_writeU_other hx ha (.up r (decide (v = 1))) q (by simp), hM]
    | m r w =>
      refine ⟨fun q _ => ?_, fun q _ => ?_, fun q hq => ?_⟩
      · simp only [sAt_after, entryWith]
        rw [sAt_writeU_other hx ha (.m r w) q (by simp), hS]
      · simp only [upAt_after, entryWith]
        rw [upAt_writeU_other hx ha (.m r w) q (Or.inr (by simp)), hUp]
      · simp only [mAt_after, entryWith]
        rw [mAt_writeU_other hx ha (.m r w) q (by rintro _ ⟨⟩; simp at hq), hM]
  · obtain ⟨-, ⟨b, hb⟩⟩ := lookups_writeU hx ha (entryWith e v)
    rw [pcAt_after _ _ (by rw [hb]; rfl), pcAt_writeU, hs, pcAt_go, h.len]
  · rw [hs]
    exact gangsOnly_trans (modSplit_gangsOnly s _ _) (gangsOnly_trans (writeU_gangsOnly _ _ _) (after_gangsOnly _ _))
  · rw [hs]
    exact kept_trans (kept_go s _) (kept_trans (kept_writeU _ _ _) (kept_after _ _))

/-- The uniform member writes this entry and goes on. -/
def Writes (i : Instr) (u : Uni) (s : State) (c : Iss) : Prop :=
  exec i s = .next ((c.s.writeU c.f (entryWith u.dst (u.value (s.sAt c.f) (s.upAt c.f)))).after c)

theorem own_good {x : Iss} {good : Bool} {body : Except Stop State} (h : good = true) : own x good body = body := by simp [own, h]

section
variable {i : Instr} {s : State} {c : Iss}

/-- Members that deliver to an s register. -/
theorem issue_writes {u : Uni} {d : SReg} {body : Iss → Except Stop State} {v : Word} (h : Issues s u.need i.bytes c)
    (hf : c.dueFlip c.s = none) (hd : u.dst = .s d 0) (hb : body c = .ok (deliverS c c.s d v)) (hv : v = u.value (s.sAt c.f) (s.upAt c.f)) :
    issue i u.need body s = .next ((c.s.writeU c.f (entryWith u.dst (u.value (s.sAt c.f) (s.upAt c.f)))).after c) := by
  rw [issue_ok h hb, deliverS_noFlip hf, hd, hv]
  rfl

/-- Two-source members: the value of the claim is the delivered result of R177's operation. -/
theorem writes_bin {op : IntOp} {x : UBin} {u : Uni} (h : Issues s u.need i.bytes c) (hf : c.dueFlip c.s = none) (he : exec i s = uBin i op x s)
    (hn : u.need = { ss := x.d :: x.a :: usrcRegs x.b }) (hd : u.dst = .s x.d 0)
    (hv : ∀ rd up, extendTy x.ty (deliver x.ty x.sat (intOp op x.ty (rd x.a) (src rd x.b))) = u.value rd up) : Writes i u s c := by
  have ha := readS_issued h x.a
  have hb := usrc_issued h x.b
  unfold Writes
  rw [he, uBin, ← hn]
  refine issue_writes h hf hd rfl ?_
  rw [ha, hb]
  exact hv _ _

end

theorem decide_bit (b : Bool) : decide (BitVec.ofNat 64 (bit b) = 1) = b := by cases b <;> rfl

theorem sat_of_ok {x : UBin} (h : x.ok false true = true ∨ x.ok false false = true) : x.sat = false := by
  rcases h with h | h <;> simp_all [UBin.ok]

/-- Each uniform member delivers the value of its claim. -/
theorem writes_uni {i : Instr} {u : Uni} {s : State} {c : Iss} (hu : uni i = some u) (hw : i.wellFormed = true) (h : Issues s u.need i.bytes c)
    (hg : u.good = true) (hf : c.dueFlip c.s = none) : Writes i u s c := by
  cases i with
  | uaddBase x => cases hu; exact writes_bin h hf rfl rfl rfl (fun _ _ => rfl)
  | uaddExt x => cases hu; exact writes_bin h hf rfl rfl rfl (fun _ _ => rfl)
  | usub x => cases hu; exact writes_bin h hf rfl rfl rfl (fun _ _ => rfl)
  | umul x => cases hu; exact writes_bin h hf rfl rfl rfl (fun _ _ => rfl)
  | umulh x => cases hu; exact writes_bin h hf rfl rfl rfl (fun _ _ => by rw [intOp_mulh]; rfl)
  | umin x => cases hu; exact writes_bin h hf rfl rfl rfl (fun _ _ => by rw [intOp_min]; rfl)
  | umax x => cases hu; exact writes_bin h hf rfl rfl rfl (fun _ _ => by rw [intOp_max]; rfl)
  | uandBase x => cases hu; exact writes_bin h hf rfl rfl rfl (fun _ _ => congrArg _ (deliver_and _ _ _))
  | uandExt x => cases hu; exact writes_bin h hf rfl rfl rfl (fun _ _ => by rw [sat_of_ok (Or.inl hw), deliver_and]; rfl)
  | uor x => cases hu; exact writes_bin h hf rfl rfl rfl (fun _ _ => by rw [sat_of_ok (Or.inr hw), deliver_or]; rfl)
  | uxor x => cases hu; exact writes_bin h hf rfl rfl rfl (fun _ _ => by rw [sat_of_ok (Or.inr hw), deliver_xor]; rfl)
  | ushlBase x => cases hu; exact writes_bin h hf rfl rfl rfl (fun _ _ => congrArg _ (deliver_shl _ _ _))
  | ushlExt x => cases hu; exact writes_bin h hf rfl rfl rfl (fun _ _ => by rw [sat_of_ok (Or.inl hw), deliver_shl]; rfl)
  | ushr x => cases hu; exact writes_bin h hf rfl rfl rfl (fun _ _ => by rw [sat_of_ok (Or.inr hw), deliver_shr]; rfl)
  | usra x => cases hu; exact writes_bin h hf rfl rfl rfl (fun _ _ => by rw [intOp_sra])
  | uset x =>
    cases hu
    have ha := readS_issued h x.a
    have hb := usrc_issued h x.b
    have hbody : own c (intCondOk x.cc) (.ok (c.s.writeU c.f (.up x.d (intCond x.cc (readInt x.ty (c.readS x.a)) (readInt x.ty (c.usrc x.b)))))) =
        .ok (c.s.writeU c.f (.up x.d (intCond x.cc (readInt x.ty (s.sAt c.f x.a)) (readInt x.ty (src (s.sAt c.f) x.b))))) := by
      rw [own_good hg, ha, hb]
    unfold Writes
    change execUset x s = _
    unfold execUset
    rw [issue_ok h hbody]
    simp only [entryWith, decide_bit]
  | usel x =>
    cases hu
    change execUsel x s = _
    unfold execUsel
    refine issue_writes h hf rfl rfl ?_
    rw [readUp_issued h, readS_issued h, usrc_issued h]
  | upopc x =>
    cases hu
    change execUpopc x s = _
    unfold execUpopc uUn
    refine issue_writes h hf rfl rfl ?_
    rw [readS_issued h]
    simp only [one, unOp, popCount_mod]
  | uclz x =>
    cases hu
    change execUclz x s = _
    unfold execUclz uUn
    refine issue_writes h hf rfl rfl ?_
    rw [readS_issued h]
    simp only [one, unOp, leadingZeros_mod (le_refl _)]
  | ubfx x =>
    cases hu
    change execUbfx x s = _
    unfold execUbfx
    refine issue_writes h hf rfl (own_good hg) ?_
    rw [readS_issued h]
  | ubfi x =>
    cases hu
    change execUbfi x s = _
    unfold execUbfi
    refine issue_writes h hf rfl (own_good hg) ?_
    rw [readS_issued h, usrc_issued h]
  | umovBase x =>
    cases hu
    change execUmovBase x s = _
    unfold execUmovBase uMove
    exact issue_writes h hf rfl rfl (readS_issued h _)
  | umovExt x =>
    cases hu
    change execUmovExt x s = _
    unfold execUmovExt uMove
    exact issue_writes h hf rfl rfl (readS_issued h _)
  | uli x =>
    cases hu
    change execUli x s = _
    unfold execUli
    exact issue_writes h hf rfl rfl rfl
  | _ => cases hu

/-- Settles O1: one entry is written, with the value of R177. -/
theorem uniformResult : Obligations.UniformResult := by
  intro i u s c hu hw h hg hf
  exact ⟨_, writes_uni hu hw h hg hf, writeU_result h u.dst _⟩

/-! ## Vector members -/

/-- What a vector member does: its sources in order, its value delivered. -/
def vecBody (v : Vec) (c : Iss) : Except Stop State :=
  (takeAll c c.s v.srcs).bind (fun y => deliverV c y.1 v.dst v.wide c.exec (v.value c y.2))

section
variable {v : Vec} (c : Iss) {w w' w'' : Bool} {a b e : VSrc} {r : Except Stop State}

theorem eq_vecBody_one (h : v.srcs = [(w, a)])
    (hr : r = (takeSrc c c.s w a).bind (fun p => deliverV c p.1 v.dst v.wide c.exec (v.value c [p.2]))) : r = vecBody v c := by
  rw [hr, vecBody, h]
  simp only [takeAll]
  cases takeSrc c c.s w a <;> rfl

theorem eq_vecBody_two (h : v.srcs = [(w, a), (w', b)])
    (hr : r = (takeSrc c c.s w a).bind (fun p => (takeSrc c p.1 w' b).bind (fun q =>
      deliverV c q.1 v.dst v.wide c.exec (v.value c [p.2, q.2])))) : r = vecBody v c := by
  rw [hr, vecBody, h]
  simp only [takeAll]
  cases takeSrc c c.s w a with
  | error e => rfl
  | ok p =>
    simp only [Except.bind]
    cases takeSrc c p.1 w' b <;> rfl

theorem eq_vecBody_three (h : v.srcs = [(w, a), (w', b), (w'', e)])
    (hr : r = (takeSrc c c.s w a).bind (fun p => (takeSrc c p.1 w' b).bind (fun q => (takeSrc c q.1 w'' e).bind (fun r =>
      deliverV c r.1 v.dst v.wide c.exec (v.value c [p.2, q.2, r.2]))))) : r = vecBody v c := by
  rw [hr, vecBody, h]
  simp only [takeAll]
  cases takeSrc c c.s w a with
  | error e => rfl
  | ok p =>
    simp only [Except.bind]
    cases takeSrc c p.1 w' b with
    | error e => rfl
    | ok q =>
      simp only
      cases takeSrc c q.1 w'' e <;> rfl

end

/-- The member issues with the body of its claim. -/
def VecIssues (i : Instr) (v : Vec) : Prop := ∀ s, exec i s = issue i v.need (vecBody v) s

theorem issue_congr {i : Instr} {n n' : Need} {s : State} {b b' : Iss → Except Stop State} (hn : n = n') (h : ∀ c, b c = b' c) :
    issue i n b s = issue i n' b' s := by
  rw [hn, funext h]

section
variable {i : Instr}

/-- The integer members of two sources. -/
theorem vecIssues_vBin {op : IntOp} {x : VBin} {value : Iss → List (Nat → Word) → Nat → Word} (he : ∀ s, exec i s = vBin i op x s)
    (hv : ∀ c xs l, value c xs l = BitVec.ofNat 64 (deliver x.ty x.sat (intOp op x.ty (nth xs 0 l) (nth xs 1 l)))) :
    VecIssues i (vtwo x.g x.ty.is64 x.d x.a x.b value) := by
  intro s
  obtain rfl : value = _ := funext fun c => funext fun xs => funext fun l => hv c xs l
  rw [he, vBin]
  exact issue_congr rfl (fun c => eq_vecBody_two c rfl rfl)

theorem vecIssues_vUn {op : UnOp} {x : VUn} {dw : Bool} {value : Iss → List (Nat → Word) → Nat → Word} (he : ∀ s, exec i s = vUn i op x s)
    (hd : dw = (x.ty.is64 && decide (op = .abs)))
    (hv : ∀ c xs l, value c xs l = BitVec.ofNat 64 (deliver x.ty x.sat (unOp op x.ty (nth xs 0 l)))) :
    VecIssues i (vone x.g x.ty.is64 dw x.d x.a value) := by
  intro s
  obtain rfl : value = _ := funext fun c => funext fun xs => funext fun l => hv c xs l
  rw [he, vUn, hd]
  exact issue_congr rfl (fun c => eq_vecBody_one c rfl rfl)

theorem vecIssues_fBin {op : FOp} {x : FBin} (he : ∀ s, exec i s = fBin i op x s) : VecIssues i (vfloat x op) := by
  intro s
  rw [he, fBin]
  exact issue_congr rfl (fun c => eq_vecBody_two c rfl rfl)

theorem vecIssues_fUn {op : FFmt → RoundMode → Bool → Nat → Nat} {x : FUn} {dw : Bool} (he : ∀ s, exec i s = fUn i op dw x s) :
    VecIssues i (vfun x dw op) := by
  intro s
  rw [he, fUn]
  exact issue_congr rfl (fun c => eq_vecBody_one c rfl rfl)

theorem vecIssues_fConvert {x : FCvtI} {good good' : Bool} (he : ∀ s, exec i s = fConvert i good x s) (hg : good = true) :
    VecIssues i (vconvert x good') := by
  intro s
  rw [he, fConvert]
  exact issue_congr rfl (fun c => (own_good hg).trans (eq_vecBody_one c rfl rfl))

theorem vecIssues_vMove {x : VMovI} (he : ∀ s, exec i s = vMove i x s) : VecIssues i (vmove x.g x.ty.is64 x.d x.b) := by
  intro s
  rw [he, vMove]
  exact issue_congr rfl (fun c => eq_vecBody_one c rfl rfl)

end

theorem popCount_lt {ty : Ty} (h : ty.isInt4 = true) (x : Nat) : popCount ty.bits x < 2 ^ ty.bits := by
  have hle : popCount ty.bits x ≤ ty.bits := by
    refine (List.length_filter_le _ _).trans ?_
    simp
  exact hle.trans_lt (Nat.lt_two_pow_self)

theorem leadingZeros_le (n x : Nat) : leadingZeros n x ≤ n := by
  induction n with
  | zero => exact le_refl _
  | succ n ih =>
    unfold leadingZeros
    split <;> omega

theorem dot4_eq (a b : Word) : dot4 a b = byteOf a 0 * byteOf b 0 + byteOf a 1 * byteOf b 1 + byteOf a 2 * byteOf b 2 + byteOf a 3 * byteOf b 3 := by
  simp [dot4, List.range_succ, byteOf, bitsOf]

theorem sat_of_vok {x : VBin} {ty m : Bool} (h : x.ok ty false m = true) : x.sat = false := by simp_all [VBin.ok]

theorem icvtOk_of_good {x : FCvtI}
    (h : ((x.dty.isInt && ((srcType x).isInt || (srcType x).isFloat)) || (x.dty.isFloat && (srcType x).isInt)) = true) : icvtOk x = true := by
  unfold icvtOk
  grind

/-- Each vector member issues with the body of its claim. -/
theorem vecIssues {i : Instr} {v : Vec} (hv : vec i = some v) (hw : i.wellFormed = true) (hg : v.good = true) : VecIssues i v := by
  cases i with
  | vaddBase x => cases hv; exact vecIssues_vBin (x := vbase x) (fun _ => rfl) (fun _ _ _ => rfl)
  | vaddExt x => cases hv; exact vecIssues_vBin (fun _ => rfl) (fun _ _ _ => rfl)
  | vsub x => cases hv; exact vecIssues_vBin (fun _ => rfl) (fun _ _ _ => rfl)
  | vmul x => cases hv; exact vecIssues_vBin (fun _ => rfl) (fun _ _ _ => rfl)
  | vmulh x => cases hv; exact vecIssues_vBin (fun _ => rfl) (fun _ _ _ => by rw [intOp_mulh])
  | vmin x => cases hv; exact vecIssues_vBin (fun _ => rfl) (fun _ _ _ => by rw [intOp_min])
  | vmax x => cases hv; exact vecIssues_vBin (fun _ => rfl) (fun _ _ _ => by rw [intOp_max])
  | vandBase x => cases hv; exact vecIssues_vBin (x := vbase x) (fun _ => rfl) (fun _ _ _ => by rw [vbase, deliver_and])
  | vandExt x => cases hv; exact vecIssues_vBin (fun _ => rfl) (fun _ _ _ => by rw [sat_of_vok hw, deliver_and])
  | vor x => cases hv; exact vecIssues_vBin (fun _ => rfl) (fun _ _ _ => by rw [sat_of_vok hw, deliver_or])
  | vxor x => cases hv; exact vecIssues_vBin (fun _ => rfl) (fun _ _ _ => by rw [sat_of_vok hw, deliver_xor])
  | vshlBase x => cases hv; exact vecIssues_vBin (x := vbase x) (fun _ => rfl) (fun _ _ _ => by rw [vbase, deliver_shl]; rfl)
  | vshlExt x => cases hv; exact vecIssues_vBin (fun _ => rfl) (fun _ _ _ => by rw [sat_of_vok hw, deliver_shl])
  | vshr x => cases hv; exact vecIssues_vBin (fun _ => rfl) (fun _ _ _ => by rw [sat_of_vok hw, deliver_shr])
  | vsra x => cases hv; exact vecIssues_vBin (fun _ => rfl) (fun _ _ _ => by rw [sat_of_vok hw, intOp_sra])
  | vabs x => cases hv; exact vecIssues_vUn (fun _ => rfl) (by simp) (fun _ _ _ => rfl)
  | vpopc x =>
    cases hv
    simp only [Instr.wellFormed, Bool.and_eq_true, Bool.not_eq_true'] at hw
    refine vecIssues_vUn (fun _ => rfl) (by simp) (fun _ xs l => ?_)
    rw [hw.2, unOp, deliver_nat, Nat.mod_eq_of_lt (popCount_lt hw.1 _)]
    rfl
  | vclz x =>
    cases hv
    simp only [Instr.wellFormed, Bool.and_eq_true, Bool.not_eq_true'] at hw
    refine vecIssues_vUn (fun _ => rfl) (by simp) (fun _ xs l => ?_)
    rw [hw.2, unOp, deliver_nat, Nat.mod_eq_of_lt ((leadingZeros_le _ _).trans_lt Nat.lt_two_pow_self)]
  | vbfx x =>
    cases hv
    intro s
    change execVbfx x s = _
    exact issue_congr rfl (fun c => (own_good hg).trans (eq_vecBody_one c rfl rfl))
  | vbfi x =>
    cases hv
    intro s
    change execVbfi x s = _
    exact issue_congr rfl (fun c => (own_good hg).trans (eq_vecBody_two c rfl rfl))
  | vsel x =>
    cases hv
    intro s
    change execVsel x s = _
    exact issue_congr rfl (fun c => eq_vecBody_two c rfl rfl)
  | vidx x => cases hv; exact fun s => rfl
  | vmad x =>
    cases hv
    intro s
    change execVmad x s = _
    exact issue_congr rfl (fun c => eq_vecBody_three c rfl rfl)
  | vdot4 x =>
    cases hv
    intro s
    change execVdot4 x s = _
    refine issue_congr rfl (fun c => ?_)
    simp only [dot4_eq]
    exact eq_vecBody_three c rfl rfl
  | vmovBase x => cases hv; exact vecIssues_vMove (x := { g := .none, ty := .i32, d := vreg x.d, b := .reg (vreg x.b) }) (fun _ => rfl)
  | vmovExt x => cases hv; exact vecIssues_vMove (fun _ => rfl)
  | faddBase x => cases hv; exact vecIssues_fBin (fun _ => rfl)
  | faddExt x => cases hv; exact vecIssues_fBin (fun _ => rfl)
  | fsub x => cases hv; exact vecIssues_fBin (fun _ => rfl)
  | fmul x => cases hv; exact vecIssues_fBin (fun _ => rfl)
  | fmin x => cases hv; exact vecIssues_fBin (fun _ => rfl)
  | fmax x => cases hv; exact vecIssues_fBin (fun _ => rfl)
  | ffma x =>
    cases hv
    intro s
    change execFfma x s = _
    exact issue_congr rfl (fun c => eq_vecBody_three c rfl rfl)
  | fabs x => cases hv; exact vecIssues_fUn (fun _ => rfl)
  | fneg x => cases hv; exact vecIssues_fUn (fun _ => rfl)
  | fclass x => cases hv; exact vecIssues_fUn (fun _ => rfl)
  | frnd x => cases hv; exact vecIssues_fUn (fun _ => rfl)
  | fcvt x => cases hv; exact vecIssues_fConvert (fun _ => rfl) hg
  | icvt x => cases hv; exact vecIssues_fConvert (fun _ => rfl) (icvtOk_of_good hg)
  | frcpBase x => cases hv; exact vecIssues_fUn (fun _ => rfl)
  | frcpExt x => cases hv; exact vecIssues_fUn (fun _ => rfl)
  | fsqrt x => cases hv; exact vecIssues_fUn (fun _ => rfl)
  | frsq x => cases hv; exact vecIssues_fUn (fun _ => rfl)
  | fexp2 x => cases hv; exact vecIssues_fUn (fun _ => rfl)
  | flog2 x => cases hv; exact vecIssues_fUn (fun _ => rfl)
  | fsin x => cases hv; exact vecIssues_fUn (fun _ => rfl)
  | fcos x => cases hv; exact vecIssues_fUn (fun _ => rfl)
  | ftanh x => cases hv; exact vecIssues_fUn (fun _ => rfl)
  | ffs x =>
    cases hv
    intro s
    change execFfs x s = _
    exact issue_congr rfl (fun c => eq_vecBody_one c rfl rfl)
  | lmask x => cases hv; exact fun s => rfl
  | _ => cases hv

/-- Settles O3: the sources in order, then the delivery. -/
theorem vectorPorts : Obligations.VectorPorts := by
  intro i v s c s1 t xs hv hw h hg ht hd
  rw [vecIssues hv hw hg s]
  refine issue_ok h ?_
  rw [vecBody, ht]
  exact hd

end Sys2Proof.Proofs.Arith
end

section
/-! PROOFS. Lanes of vector registers: where they are, and what a vector result writes (07 R141). -/

namespace Sys2Proof.Proofs.Places
open Sys2Proof Sys2Proof.Machine Sys2Proof.Claims Sys2Proof.Proofs.Arith

/-! ## What the bytes of a register depend on (07 R141) -/

/-- A gang holds the same place in the same vat, and the same lanes of its groups are dead. -/
structure SamePlace (g h : Gang) : Prop where
  core : h.core = g.core
  base : h.base = g.base
  task : h.task = g.task
  dead : ∀ slot, (h.group? slot).map Group.dead = (g.group? slot).map Group.dead

theorem SamePlace.refl (g : Gang) : SamePlace g g := ⟨rfl, rfl, rfl, fun _ => rfl⟩

theorem SamePlace.trans {a b c : Gang} (h : SamePlace a b) (k : SamePlace b c) : SamePlace a c :=
  ⟨k.core.trans h.core, k.base.trans h.base, k.task.trans h.task, fun slot => (k.dead slot).trans (h.dead slot)⟩

/-- Every gang is where it was. -/
structure SamePlaces (s t : State) : Prop where
  gangs : List.Forall₂ (fun g h => h.id = g.id ∧ SamePlace g h) s.gangs t.gangs

theorem forall₂_find? {α : Type} {R : α → α → Prop} {p : α → Bool} (hp : ∀ a b, R a b → p b = p a) :
    ∀ {l m : List α}, List.Forall₂ R l m → Option.Rel R (l.find? p) (m.find? p)
  | _, _, .nil => .none
  | a :: _, b :: _, .cons hab hl => by
    simp only [List.find?_cons, hp a b hab]
    cases p a with
    | true => exact .some hab
    | false => exact forall₂_find? hp hl

theorem SamePlaces.refl (s : State) : SamePlaces s s := ⟨List.forall₂_same.mpr (fun _ _ => ⟨rfl, SamePlace.refl _⟩)⟩

theorem SamePlaces.of_gangs {s t : State} (h : t.gangs = s.gangs) : SamePlaces s t := ⟨h ▸ (SamePlaces.refl s).gangs⟩

theorem SamePlaces.trans {s t u : State} (h : SamePlaces s t) (k : SamePlaces t u) : SamePlaces s u := by
  have := k.gangs
  refine ⟨?_⟩
  have comp : ∀ {l m n : List Gang}, List.Forall₂ (fun g h => h.id = g.id ∧ SamePlace g h) l m →
      List.Forall₂ (fun g h => h.id = g.id ∧ SamePlace g h) m n → List.Forall₂ (fun g h => h.id = g.id ∧ SamePlace g h) l n := by
    intro l m n h1
    induction h1 generalizing n with
    | nil => intro h2; cases h2; exact .nil
    | cons hab _ ih =>
      intro h2
      cases h2 with
      | cons hbc hl => exact .cons ⟨hbc.1.trans hab.1, hab.2.trans hbc.2⟩ (ih hl)
  exact comp h.gangs k.gangs

theorem SamePlaces.modGang (s : State) (id : Nat) {h : Gang → Gang} (hid : ∀ g, (h g).id = g.id) (hp : ∀ g, SamePlace g (h g)) :
    SamePlaces s (s.modGang id h) := by
  refine ⟨?_⟩
  unfold State.modGang
  rw [List.forall₂_map_right_iff, List.forall₂_same]
  intro g _
  split
  · exact ⟨hid g, hp g⟩
  · exact ⟨rfl, SamePlace.refl g⟩

/-- A change of a group that leaves its lanes alive keeps the places. -/
theorem SamePlaces.modGroup (s : State) (gang slot : Nat) {h : Group → Group} (hs : ∀ x, (h x).slot = x.slot) (hd : ∀ x, (h x).dead = x.dead) :
    SamePlaces s (s.modGroup gang slot h) := by
  refine SamePlaces.modGang s gang (fun _ => rfl) (fun g => ⟨rfl, rfl, rfl, fun k => ?_⟩)
  rw [Gang.group?_modGroup g slot k hs]
  cases g.group? k with
  | none => rfl
  | some x =>
    simp only [Option.map_some]
    split
    · rw [hd]
    · rfl

theorem SamePlaces.setSplit (s : State) (f : Focus) (sp : Option Split) : SamePlaces s (s.setSplit f sp) := by
  unfold State.setSplit
  split
  · exact SamePlaces.modGang s _ (fun _ => rfl) (fun g => ⟨rfl, rfl, rfl, fun _ => rfl⟩)
  · refine SamePlaces.modGroup s _ _ (fun x => Group.setSplit_slot x _ _) (fun x => ?_)
    unfold Group.setSplit
    split <;> rfl

theorem SamePlaces.modSplit (s : State) (f : Focus) (h : Split → Split) : SamePlaces s (s.modSplit f h) := by
  unfold State.modSplit
  split
  · exact SamePlaces.setSplit s f _
  · exact SamePlaces.refl s

theorem SamePlaces.countIssue (s : State) (f : Focus) : SamePlaces s (countIssue s f) := by
  unfold Machine.countIssue
  refine SamePlaces.trans ?_ (SamePlaces.modGroup _ _ _ (fun _ => rfl) (fun _ => rfl))
  exact SamePlaces.modGang s _ (fun _ => rfl) (fun _ => ⟨rfl, rfl, rfl, fun _ => rfl⟩)

theorem SamePlaces.after (t : State) (c : Iss) : SamePlaces t (t.after c) :=
  SamePlaces.trans (SamePlaces.modSplit t _ _) (SamePlaces.countIssue _ _)

section
variable {s t : State} (h : SamePlaces s t)
include h

/-- A gang is found where it was. -/
theorem SamePlaces.gang? (id : Nat) : Option.Rel (fun g h => h.id = g.id ∧ SamePlace g h) (s.gang? id) (t.gang? id) :=
  forall₂_find? (fun a b hab => by rw [hab.1]) h.gangs

theorem SamePlaces.windowAt (core a : Nat) : Option.Rel (fun x y => y.2 = x.2 ∧ SamePlace x.1 y.1) (s.windowAt core a) (t.windowAt core a) := by
  have hf := forall₂_find? (p := fun g : Gang => g.core == core && decide (g.base ≤ a) && decide (a < g.appendBase)) (by
    rintro g k ⟨-, hc, hb, ht, -⟩
    unfold Gang.appendBase
    rw [hc, hb, ht]) h.gangs
  unfold State.windowAt
  revert hf
  generalize s.gangs.find? _ = x
  generalize t.gangs.find? _ = y
  rintro (⟨-, hp⟩ | _)
  · exact .some ⟨by simp only [hp.base, hp.task], hp⟩
  · exact .none

theorem SamePlaces.deadByte (core a : Nat) : t.deadByte core a = s.deadByte core a := by
  unfold State.deadByte
  have hw := h.windowAt core a
  cases hs : s.windowAt core a with
  | none =>
    rw [hs] at hw
    cases ht : t.windowAt core a with
    | none => rfl
    | some y => rw [ht] at hw; cases hw
  | some x =>
    rw [hs] at hw
    cases ht : t.windowAt core a with
    | none => rw [ht] at hw; cases hw
    | some y =>
      rw [ht] at hw
      cases hw with
      | some hxy =>
        obtain ⟨g, slot, off⟩ := x
        obtain ⟨k, slot', off'⟩ := y
        obtain ⟨he, hp⟩ := hxy
        cases he
        have hd := hp.dead slot
        simp only at hp hd ⊢
        cases hg : g.group? slot with
        | none =>
          cases hk : k.group? slot with
          | none => rfl
          | some b => simp [hg, hk] at hd
        | some a =>
          cases hk : k.group? slot with
          | none => simp [hg, hk] at hd
          | some b =>
            simp only [hg, hk, Option.map_some, Option.some.injEq] at hd
            simp only [hd, hp.task]

/-- The registers' bytes are where they were. -/
theorem SamePlaces.lane (hv : t.vat = s.vat) (gang slot r l : Nat) : t.lane gang slot r l = s.lane gang slot r l := by
  unfold State.lane
  have hg := h.gang? gang
  cases hs : s.gang? gang with
  | none =>
    rw [hs] at hg
    cases ht : t.gang? gang with
    | none => rfl
    | some y => rw [ht] at hg; cases hg
  | some x =>
    rw [hs] at hg
    cases ht : t.gang? gang with
    | none => rw [ht] at hg; cases hg
    | some y =>
      rw [ht] at hg
      cases hg with
      | some hxy => simp only [Gang.window, State.vatReadLE, hv, hxy.2.core, hxy.2.base, hxy.2.task]

theorem SamePlaces.gang_some {id : Nat} {g : Gang} (hs : s.gang? id = some g) : ∃ k, t.gang? id = some k ∧ SamePlace g k := by
  have hg := h.gang? id
  rw [hs] at hg
  cases ht : t.gang? id with
  | none => rw [ht] at hg; cases hg
  | some y =>
    rw [ht] at hg
    cases hg with
    | some hxy => exact ⟨y, rfl, hxy.2⟩

theorem SamePlaces.laneLives {f : Focus} {r l : Nat} {g : Gang} (hs : s.gang? f.gang = some g) (hl : s.laneLives f r l) : t.laneLives f r l := by
  obtain ⟨k, hk, hp⟩ := h.gang_some hs
  intro g' hg' i hi
  obtain rfl : k = g' := Option.some.inj (hk.symm.trans hg')
  rw [h.deadByte, hp.core, Gang.window, hp.base, hp.task]
  exact hl g hs i hi

end

/-! ## A vector result in plain registers -/

section
variable {s : State} {n : Need} {len : Nat} {c : Iss} (h : Issues s n len c)
include h

theorem samePlaces_issued : SamePlaces s c.s := by
  rw [state_issued h]
  exact SamePlaces.modSplit s _ _

theorem vat_issued : c.s.vat = s.vat := by
  rw [state_issued h]
  simp

/-- A plain source is read where it was. -/
theorem takeSrc_plain {x : Bool × VSrc} (hx : plainSrc c x = true) : takeSrc c c.s x.1 x.2 = .ok (c.s, srcAt s c.f x) := by
  have hl := (samePlaces_issued h).lane (vat_issued h)
  obtain ⟨w, b⟩ := x
  cases b with
  | reg r =>
    cases r with
    | k q => cases hx
    | v m =>
      cases w with
      | true =>
        simp only [takeSrc, takeTy, if_true, takePair, srcAt, State.vecAt, hl]
      | false =>
        have hp : c.grp.isPort m.val = false := by simpa [plainSrc] using hx
        simp only [takeSrc, takeTy, takeV, hp, srcAt, State.vecAt, hl, Bool.false_eq_true, if_false]
        rfl
  | short v => rfl
  | long v => rfl

theorem takeAll_plain : ∀ {xs : List (Bool × VSrc)}, xs.all (plainSrc c) = true → takeAll c c.s xs = .ok (c.s, xs.map (srcAt s c.f))
  | [], _ => rfl
  | x :: xs, hx => by
    obtain ⟨h1, h2⟩ := Bool.and_eq_true_iff.mp (List.all_cons ▸ hx)
    simp only [takeAll, takeSrc_plain h h1, takeAll_plain h2, List.map_cons]

end

/-- With no flip due and every lane done at once a result is stored. -/
theorem deliverV_noFlip {c : Iss} {s : State} (hf : c.dueFlip s = none) (ho : atOnce c) (d : VOp) (wide : Bool) (v : Nat → Word) :
    deliverV c s d wide c.exec v = storeV c s d wide c.exec v := by
  have hr : c.replays c.exec = false := by
    unfold Iss.replays
    rcases ho with ho | ho <;> simp [ho]
  simp [deliverV, dueFlips_eq_nil hf, hr, dropFlips, countResolved, xorFlips]

/-- A state with another vat store. -/
def putVat (s : State) (m : Memory) : State := { s with vat := m }

theorem kept_vat (s : State) (m : Memory) (f : Focus) : Kept s (putVat s m) f :=
  let k := kept_refl s f
  ⟨k.others, k.group, k.gang, k.own, k.cores⟩

theorem split?_isSome_issued {s : State} {n : Need} {len : Nat} {c : Iss} (h : Issues s n len c) : (c.s.split? c.f).isSome = true := by
  rw [state_issued h, split?_modSplit_same, split?_issued h]
  rfl

/-- An instruction that changes nothing but the vats goes on with everything else kept. -/
theorem vat_after {s : State} {n : Need} {len : Nat} {c : Iss} (h : Issues s n len c) (m : Memory) :
    let t := (putVat c.s m).after c
    t.pcAt c.f = s.pcAt c.f + BitVec.ofNat 64 len ∧ coreOnly s t ∧ Kept s t c.f ∧ uniformSame s t c.f [] [] [] ∧ t.vat = m ∧ SamePlaces s t := by
  have hs := state_issued h
  refine ⟨?_, ?_, ?_, ⟨fun r _ => ?_, fun r _ => ?_, fun r _ => ?_⟩, ?_, ?_⟩
  · rw [pcAt_after (putVat c.s m) c (split?_isSome_issued h), h.len]
    change c.s.pcAt c.f + _ = _
    rw [hs, pcAt_go]
  · obtain ⟨gs, cs, he⟩ := after_gangsOnly (putVat c.s m) c
    obtain ⟨gs', cs', he'⟩ := hs ▸ modSplit_gangsOnly s c.f Split.go
    exact ⟨gs, cs, m, he.trans (by rw [he']; rfl)⟩
  · exact kept_trans (hs ▸ kept_go s c.f) (kept_trans (kept_vat c.s m c.f) (kept_after _ _))
  · rw [sAt_after]
    change c.s.sAt c.f r = _
    rw [hs, sAt_go]
  · rw [upAt_after]
    change c.s.upAt c.f r = _
    rw [hs, upAt_go]
  · rw [mAt_after]
    change c.s.mAt c.f r = _
    rw [hs, mAt_go]
  · obtain ⟨gs, cs, he⟩ := after_gangsOnly (putVat c.s m) c
    rw [he]
    rfl
  · exact (samePlaces_issued h).trans ((SamePlaces.of_gangs (s := c.s) (t := putVat c.s m) rfl).trans (SamePlaces.after _ _))

/-- A lane as the vat store holds it. -/
theorem lane_eq {s : State} {gang slot : Nat} {g : Gang} (hg : s.gang? gang = some g) (r l : Nat) :
    s.lane gang slot r l = BitVec.ofNat 32 (s.vat.readLE (vatKey g.core (g.window slot) + 128 * r + 4 * l) 4) := by
  simp only [State.lane, hg, State.vatReadLE, vatKey_add]

theorem lanes_written {s : State} {n : Need} {len : Nat} {c : Iss} {wide : Bool} {d : Fin 256} (h : Issues s n len c)
    (hd : takesWrites s c wide d) (hwf : s.vat.wf = true) (v : Nat → Word) :
    ∃ t, storeV c c.s (.v d) wide c.exec v = .ok t ∧ lanesWritten s (t.after c) c wide d v ∧
      (t.after c).pcAt c.f = s.pcAt c.f + BitVec.ofNat 64 len := by
  obtain ⟨hport, hlives⟩ := hd
  have hsame := samePlaces_issued h
  have hvat := vat_issued h
  have hgang : s.gang? c.f.gang = some c.gang := by rw [h.place]; exact h.gang
  obtain ⟨g, hg, hp⟩ := hsame.gang_some hgang
  have hstore := storeV_plain (s := c.s) (v := v) hport hg (fun l hl hx => ⟨hsame.laneLives hgang (hlives l hl hx).1,
    fun hw => hsame.laneLives hgang ((hlives l hl hx).2 hw)⟩)
  rw [hvat, Gang.window, hp.core, hp.base, hp.task, ← Gang.window] at hstore
  obtain ⟨hpc, hcore, hkept, huni, hm, hplaces⟩ := vat_after h (writeLanes s.vat
    (fun r l => vatKey c.gang.core (c.gang.window c.f.group) + 128 * r + 4 * l) wide d.val v (lanesOf c.exec))
  refine ⟨_, hstore, ?_, hpc⟩
  obtain ⟨k, hk, hkp⟩ := hplaces.gang_some hgang
  have hlane : ∀ r l, State.lane _ c.f.gang c.f.group r l = _ := fun r l => lane_eq hk r l
  simp only [Gang.window, hkp.core, hkp.base, hkp.task] at hlane
  have written := fun l (hl : l ∈ lanesOf c.exec) => readLE_writeLanes hwf (vatKey c.gang.core (c.gang.window c.f.group)) wide d.val v
    (lanesOf_nodup c.exec) (fun l hl => ((mem_lanesOf _ _).mp hl).1) hl
  have outside : ∀ r l, l < 32 → (l ∉ lanesOf c.exec ∨ (r ≠ d.val ∧ ¬ (wide = true ∧ r = d.val + 1))) →
      (writeLanes s.vat (fun r l => vatKey c.gang.core (c.gang.window c.f.group) + 128 * r + 4 * l) wide d.val v (lanesOf c.exec)).readLE
        (vatKey c.gang.core (c.gang.window c.f.group) + 128 * r + 4 * l) 4 =
      s.vat.readLE (vatKey c.gang.core (c.gang.window c.f.group) + 128 * r + 4 * l) 4 := by
    intro r l hl hout
    unfold Memory.readLE
    congr 1
    refine Memory.readBytes_congr (fun i hi => read_writeLanes_outside _ _ _ _ _ _ _ ?_)
    intro l' hl' r' hr'
    have h32 := ((mem_lanesOf _ _).mp hl').1
    have hne : ¬ (r' = r ∧ l' = l) := by
      rintro ⟨rfl, rfl⟩
      rcases hout with hout | ⟨h1, h2⟩
      · exact hout hl'
      · exact hr'.elim h1 h2
    omega
  have before : ∀ r l, s.lane c.f.gang c.f.group r l = _ := fun r l => lane_eq hgang r l
  refine ⟨fun l hl => ?_, fun hw l hl => ?_, fun b hb => ?_, hcore, hkept, huni⟩
  · refine (hlane d.val l).trans ?_
    split
    · next hx =>
      rw [← Gang.window, hm, (written l ((mem_lanesOf _ _).mpr ⟨hl, hx⟩)).1]
      exact BitVec.ofNat_toNat ..
    · next hx => rw [← Gang.window, hm, outside _ _ hl (Or.inl (fun hm => hx ((mem_lanesOf _ _).mp hm).2)), before]
  · refine (hlane (d.val + 1) l).trans ?_
    split
    · next hx =>
      rw [← Gang.window, hm, (written l ((mem_lanesOf _ _).mpr ⟨hl, hx⟩)).2 hw]
      exact BitVec.ofNat_toNat ..
    · next hx => rw [← Gang.window, hm, outside _ _ hl (Or.inl (fun hm => hx ((mem_lanesOf _ _).mp hm).2)), before]
  · change Memory.read (State.vat ((putVat c.s _).after c)) b = _
    rw [hm]
    refine read_writeLanes_outside _ _ _ _ _ _ _ (fun l hl r hr => ?_)
    by_contra hk
    obtain ⟨h32, hx⟩ := (mem_lanesOf _ _).mp hl
    refine hb ⟨c.gang, l, r, b - (vatKey c.gang.core (c.gang.window c.f.group) + 128 * r + 4 * l), hgang, h32, hx, hr, by omega, ?_⟩
    rw [vatKey_add, vatKey_add]
    omega

/-- Settles O2: the sources are read where they stand, the result is stored in the active lanes. -/
theorem vectorResult : Obligations.VectorResult := by
  intro i v s c n hv hw h hg hdst hsrc hd hf ho hwf
  obtain ⟨t, ht, hl, hpc⟩ := lanes_written h hd hwf (v.value c (v.srcs.map (srcAt s c.f)))
  refine ⟨_, ?_, hl, hpc⟩
  rw [vecIssues hv hw hg s]
  refine issue_ok h ?_
  rw [vecBody, takeAll_plain h hsrc]
  change deliverV c c.s v.dst v.wide c.exec _ = _
  rw [deliverV_noFlip hf ho, hdst, ht]

end Sys2Proof.Proofs.Places
end

section
/-! PROOFS. Refutations: concrete states of the model at which a clause fails -/

namespace Sys2Proof.Proofs.Refuted
open Sys2Proof Sys2Proof.Machine Sys2Proof.Claims Sys2Proof.Proofs.Arith Sys2Proof.Proofs.Lanes

/-! ## An issue in a concrete state -/

/-- What a split issues in, from its issue context. -/
def issuedIn (c : Iss) (n : Need) : Iss := { c with s := c.s.modSplit c.f Split.go, exec := c.sp.lanes &&& c.grp.guardMask n.g }

theorem issuedIn_issues {s : State} {n : Need} {len : Nat} {c : Iss} (hi : s.iss? s.cur len = some c) (hc : s.canIssue s.cur = true)
    (hn : checkNeed s c.f c.gang c.grp n = 0) (ha : c.sp.lanes &&& c.grp.guardMask n.g ≠ 0)
    (hr : s.operandsReady c.gang c.grp c.sp n = true) (hk : s.slackStall c.gang c.grp = false) : Issues s n len (issuedIn c n) := by
  unfold State.iss? at hi
  split at hi
  · next g x sp hg hx hsp =>
    cases hi
    exact ⟨hc, rfl, rfl, rfl, hg, hx, hsp, rfl, hn, ha, hr, hk⟩
  · cases hi

@[simp] theorem core?_after (t : State) (c : Iss) (core : Nat) : (t.after c).core? core = t.core? core := by
  unfold State.after countIssue advance
  change State.core? (t.modSplit _ _) core = _
  unfold State.core?
  rw [State.modSplit_cores]

/-! ## Comparisons under `full` checking (17 R318) -/

/-- VSET of v0 with itself into p1. -/
def compareSelf : VSetI := { g := .none, cc := .eq, ty := .i32, d := 1, a := .v 0, b := .reg (.v 0) }

def compareNeed : Need := { vs := [vuse (.v 0) false, vuse (.v 0) false], ps := [1] }

/-- What it issues in, with 32 lanes under `full` checking. -/
def compareIss : Iss := issuedIn fullIss compareNeed

theorem compareIss_issues : Issues fullGang compareNeed (Instr.vset compareSelf).bytes compareIss :=
  issuedIn_issues (Option.some_get _).symm (by decide +kernel) (by decide +kernel) (by decide +kernel) (by decide +kernel) (by decide +kernel)

/-- A comparison that enters the replay queue. -/
theorem deliverP_enters {c : Iss} {s : State} (hr : c.replays c.exec = true)
    (hq : s.replayFull c.gang.core (c.gang.parts.getD c.grp.slot 0) = false) (p : PReg) (v : Nat → Bool) :
    ∃ load, deliverP c s p v = .ok (enterReplay c (writePred c s p v) load none (some p.val) 0) := by
  unfold deliverP
  rw [if_pos hr, hq]
  simp only [Bool.false_eq_true, if_false]
  exact ⟨_, rfl⟩

/-- Refutes O4: its first clause has no premise on the checking mode. In `full` mode a VSET of all 32 lanes enters the replay queue
(17 R318), so the rest of the state is not what reading the sources left. -/
theorem not_compareCarryBlock : ¬ Obligations.CompareCarryBlock := by
  rintro ⟨h, -⟩
  obtain ⟨u, -, he⟩ := h (.vset compareSelf) _ fullGang compareIss _ _ rfl compareIss_issues rfl rfl
  have hr : compareIss.replays compareIss.exec = true := by decide +kernel
  have hq : compareIss.s.replayFull compareIss.gang.core (compareIss.gang.parts.getD compareIss.grp.slot 0) = false := by decide +kernel
  have hcore : compareIss.gang.core < compareIss.s.cores.length := by decide +kernel
  change execVset compareSelf fullGang = _ at he
  unfold execVset at he
  obtain ⟨load, hload⟩ := deliverP_enters hr hq 1 (fun l => intCond .eq (readInt .i32 (compareIss.s.vecAt compareIss.f false 0 l))
    (readInt .i32 (compareIss.s.vecAt compareIss.f false 0 l)))
  have he := he.symm.trans (issue_ok compareIss_issues (by exact hload))
  have hlen := congrArg (fun t => (t.core? compareIss.gang.core).replay.length) (Host.Outcome.next.inj he)
  simp only [core?_after, core?_modGroup] at hlen
  have hn := hlen.trans (replay_length_enterReplay (s := writePred _ _ _ _) hcore load none (some 1) 0)
  rw [core?_writePred] at hn
  exact Nat.succ_ne_self _ hn.symm

end Sys2Proof.Proofs.Refuted
end

section
/-! PROOFS. Control and membership: transfers, split registers, special reads, BECOME, barriers and arrivals -/

namespace Sys2Proof.Proofs.Control
open Sys2Proof Sys2Proof.Machine Sys2Proof.Claims Sys2Proof.Proofs.Arith Sys2Proof.Proofs.Places

/-! ## Results outside the checking modes, with no flip due -/

theorem flipValues_noFlip {c : Iss} {s : State} (h : c.dueFlip s = none) (v : Nat → Word) : flipValues c s v = (s, v) := by
  simp [flipValues, dueFlips_eq_nil h, dropFlips, xorFlips]

theorem flipUniform_noFlip {c : Iss} {s : State} (h : c.dueFlip s = none) (v : Word) : flipUniform c s v = (s, v) := by
  simp [flipUniform, dueFlips_eq_nil h, dropFlips, xorFlips]

theorem putVec_noFlip {c : Iss} {s : State} (h : c.dueFlip s = none) (d : VOp) (wide : Bool) (v : Nat → Word) :
    putVec c s d wide v = storeV c s d wide c.exec v := by simp [putVec, flipValues_noFlip h]

theorem putUni_noFlip {c : Iss} {s : State} (h : c.dueFlip s = none) (d : SReg) (v : Word) : putUni c s d v = s.writeU c.f (.s d v) := by
  simp [putUni, flipUniform_noFlip h]

/-! ## An issue whose body has placed the PC (02 R41, 16 R298) -/

theorem issueJump_check {s : State} {i : Instr} {n : Need} {c : Iss} (h : Issues s n i.bytes c) {body : Iss → Except Stop State} {k : TrapInfo}
    (hb : body c = .error (.check k)) :
    issueJump i n body s = .next (raiseTrap (s.trapCopy c none) c.f i.bytes c.exec { k with addr := c.sp.pc }) := by
  unfold issueJump
  rw [issueAt_issues h, hb]

theorem issueWait_check {s : State} {i : Instr} {n : Need} {c : Iss} (h : Issues s n i.bytes c) {body : Iss → Except Stop State} {k : TrapInfo}
    (hb : body c = .error (.check k)) : issueWait i n body s =
      .next (State.deadlockCheck (raiseTrap (s.trapCopy c none) c.f i.bytes c.exec { k with addr := c.sp.pc }) c.f.gang c.f.group) := by
  unfold issueWait
  rw [issueAt_issues h, hb, h.place]

/-! ## Transfers (13 R246, R247) -/

theorem goLanes_aligned {c : Iss} {tgt : Nat → Word} (h : strays c.exec tgt = []) (s : State) : goLanes c s tgt = .ok (lanesMoved s c tgt) := by
  unfold goLanes lanesMoved
  unfold strays at h
  simp only [h, List.isEmpty_nil, Bool.not_true, Bool.false_eq_true, if_false]
  split <;> rfl

theorem goLanes_stray {c : Iss} {tgt : Nat → Word} (h : strays c.exec tgt ≠ []) (s : State) :
    goLanes c s tgt = .error (fault 0x04 0 (maskOf (strays c.exec tgt))) := by
  unfold goLanes
  exact if_pos (by simpa [strays] using h)

theorem targets_eq (c : Iss) (t : Target) : targets c t = transfer.targetOf c t := by
  cases t with
  | pair v => cases v <;> rfl
  | sreg r => rfl
  | lit w => rfl

/-- A transfer issues with its need, and its lanes go to their targets. -/
theorem exec_transfer {i : Instr} {n : Need} {tgt : Iss → Nat → Word} (h : transfer i = some (n, tgt)) (s : State) :
    exec i s = issueJump i n (fun c => goLanes c c.s (tgt c)) s := by
  unfold transfer at h
  split at h
  case h_1 => cases h; rfl
  case h_2 => cases h; rfl
  case h_3 => cases h; rfl
  case h_4 x =>
    cases h
    change execJmp x s = _
    unfold execJmp
    simp only [targets_eq]
  case h_5 x =>
    cases h
    change execRet x s = _
    unfold execRet
    simp only [← targets_eq]
    rfl
  case h_6 => cases h

/-- Settles O8: a transfer's body is the move of its lanes, which goes through where no target strays and traps for those that do. -/
theorem transfers : Obligations.Transfers := by
  unfold Obligations.Transfers
  refine ⟨⟨?_, ?_⟩, ?_⟩
  · intro i n tgt s c hi h hs
    rw [exec_transfer hi]
    exact issueJump_ok h (goLanes_aligned hs c.s)
  · intro x s c s1 h tgt hstore hflip hs
    change execCall x s = _
    unfold execCall
    refine issueJump_ok h ?_
    rw [putVec_noFlip hflip, targets_eq]
    exact (congrArg (fun r => r >>= fun s1 => goLanes c s1 tgt) hstore).trans (goLanes_aligned hs s1)
  · intro i n tgt s c hi h hs
    rw [exec_transfer hi]
    exact issueJump_check (body := fun c => goLanes c c.s (tgt c)) h (goLanes_stray hs c.s)

/-! ## The registers of a split (13 R240, R241, R256-R261) -/

theorem le_foldl_max (l : List Nat) (a : Nat) : a ≤ l.foldl max a ∧ ∀ x ∈ l, x ≤ l.foldl max a := by
  induction l generalizing a with
  | nil => simp
  | cons y ys ih =>
    obtain ⟨hle, hall⟩ := ih (max a y)
    refine ⟨le_trans (le_max_left _ _) hle, fun x hx => ?_⟩
    rcases List.mem_cons.mp hx with rfl | hx
    · exact le_trans (le_max_right _ _) hle
    · exact hall x hx

/-- Settles O10: each member's body completes with its own change; the age of a yielding split is above the clock and above all ages of the
core. -/
theorem splitRegisters : Obligations.SplitRegisters := by
  unfold Obligations.SplitRegisters
  refine ⟨?_, ?_, ?_, ?_, ?_, ?_, ?_, ?_⟩
  · intro x s c h ha s1
    change execMerge x s = _
    unfold execMerge
    exact issue_ok h (if_neg (not_not.mpr ha))
  · intro x s c h
    change execSetpart x s = _
    unfold execSetpart
    exact issue_ok h rfl
  · intro x s c h hf
    change setFmt (.setfmtExt x) x.b s = _
    unfold setFmt
    exact issue_ok h (if_pos hf)
  · intro x s c h hf
    change setFmt (.setfmtBase x) (.reg (sreg x.b)) s = _
    unfold setFmt
    exact issue_ok h (if_pos hf)
  · intro x s c h
    change execSetprio x s = _
    unfold execSetprio
    exact issue_ok h rfl
  · intro s c h
    change ∃ age : Nat, _ ∧ _ ∧ execYield s = _
    unfold execYield
    refine ⟨_, ?_, ?_, issue_ok h rfl⟩
    · intro g x sp hg hcore hx hsp
      obtain ⟨y, hy, rfl⟩ := List.mem_map.mp hsp
      refine (le_foldl_max _ _).2 (y.2.age + 1) (List.mem_map_of_mem (f := (· + 1)) ?_)
      exact List.mem_flatMap.mpr ⟨g, List.mem_filter.mpr ⟨hg, by simp [hcore]⟩,
        List.mem_flatMap.mpr ⟨x, hx, List.mem_map_of_mem (f := fun y : Nat × Split => y.2.age) hy⟩⟩
    · exact (le_foldl_max _ _).1
  · intro s c h
    change execNopBase s = _
    unfold execNopBase
    exact issue_ok h rfl
  · intro s c h
    change execNopExt s = _
    unfold execNopExt
    exact issue_ok h rfl

/-! ## Special reads (13 R259, R260; 16 R301) -/

/-- Settles O11. -/
theorem specialReads : Obligations.SpecialReads := by
  unfold Obligations.SpecialReads
  refine ⟨?_, ?_, ?_, ?_⟩
  · intro x s c h hf
    change execGetfmt x s = _
    unfold execGetfmt
    exact issue_ok h (congrArg Except.ok (putUni_noFlip hf _ _))
  · intro x d s c hd h hf hp s1
    change execGetsr x s = _
    unfold execGetsr
    rw [hd]
    refine issue_ok h ?_
    simp only [pairLoad, hp, putUni_noFlip hf, List.headD_cons, ite_self, s1]
  · intro x d s c t hd h hf hr hst
    change execGetsr x s = _
    unfold execGetsr
    rw [hd]
    refine issue_ok h ((if_neg ?_).trans ((putVec_noFlip hf _ _ _).trans hst))
    rintro ⟨hsel, hbusy⟩
    simp [hr hsel] at hbusy
  · intro x s c v h hf hv
    change execCsrr x s = _
    unfold execCsrr
    refine issue_ok h ?_
    simp [hv, putUni_noFlip hf]

/-! ## BECOME and GSYNC (13 R249, R256) -/

theorem becomeBody_ok {i : Instr} {carry : Nat} {b : VSrc} {s : State} {c : Iss} {s1 : State} {v : Nat → Word} {p : Plan}
    (h : Issues s { vs := vsrcUses b false } i.bytes c) (hsplit : c.f.split ≠ 4)
    (halone : ∀ y, y ∈ c.grp.liveSplits → y.1 ≠ c.f.split → memberMask c.grp y.2 = none) (hpend : vectorPending c = false)
    (hbusy : deckleBusy c = false) (hmost : carry ≤ 64) (hw : carry ≤ c.gang.task.w) (hcarry : ∀ k, k ∈ c.grp.carry.toList → k = none)
    (htake : takeSrc c c.s false b = .ok (s1, v)) (hbig : ∀ l, l ∈ lanesOf c.exec → (v l).toNat % 2 ^ 32 ≤ 4096)
    (hplan : s1.plan c.gang c.grp c.sp carry (fun l => (v l).toNat % 2 ^ 32) c.after = some p)
    (horder : c.gang.outOfOrder (becomeAct c.f.group) = false) :
    becomeBody i carry b s = .next (((s1.modGroup c.f.gang c.f.group (fun g => g.hold c.f.split .become)).modCore c.gang.core (fun k =>
      { k with deckle := k.deckle ++ [{
          gang := c.f.gang, group := c.f.group, split := Fin.ofNat 4 c.f.split, carry := carry
          counts := (lanesOf c.exec).map (fun l => (l, (v l).toNat % 2 ^ 32)), rpc := c.sp.pc + BitVec.ofNat 64 c.len }] })).jumped c
      |>.deadlockCheck c.f.gang c.f.group) := by
  have hnone : c.grp.liveSplits.any (fun y => y.1 ≠ c.f.split && (memberMask c.grp y.2).isSome) = false := by
    simp only [List.any_eq_false, Bool.and_eq_true, decide_eq_true_eq, not_and, Bool.not_eq_true, Option.isSome_eq_false_iff, Option.isNone_iff_eq_none]
    exact halone
  have hfree : c.grp.carry.toList.any (fun k => k.isSome) = false := by
    simp only [List.any_eq_false, Bool.not_eq_true, Option.isSome_eq_false_iff, Option.isNone_iff_eq_none]
    exact hcarry
  have hsmall : (lanesOf c.exec).filter (fun l => decide (4096 < (v l).toNat % 2 ^ 32)) = [] := by
    simp only [List.filter_eq_nil_iff, decide_eq_true_eq, Nat.not_lt]
    exact hbig
  rw [h.place]
  unfold becomeBody
  refine issueWait_ok h ?_
  have hchecks : ¬ (64 < carry ∨ c.gang.task.w < carry ∨ c.grp.carry.toList.any (fun k => k.isSome) = true) := by
    simp [hfree, hmost, hw]
  rw [if_neg hsplit, hnone, hpend, hbusy]
  simp only [Bool.false_eq_true, if_false, Bool.or_self, if_neg hchecks]
  rw [htake]
  dsimp only [Bind.bind, Except.bind]
  simp only [hsmall, hplan, horder, Bool.false_eq_true, if_false]
  rw [h.place]
  rfl

/-- Settles O12: the checks of BECOME pass one by one, and the request goes to the deckle; no barrier waits with another PC at GSYNC. -/
theorem becomeAndBarrier : Obligations.BecomeAndBarrier := by
  unfold Obligations.BecomeAndBarrier
  refine ⟨?_, ?_⟩
  · intro i carry b s c s1 v p hi h hsplit halone hpend hbusy hmost hw hcarry htake hbig hplan horder
    have he : exec i s = becomeBody i carry b s := by
      rcases hi with ⟨x, rfl, rfl, rfl⟩ | ⟨x, rfl, rfl, rfl⟩ <;> rfl
    exact he.trans (becomeBody_ok h hsplit halone hpend hbusy hmost hw hcarry htake hbig hplan horder)
  · intro s c h hsplit hb
    change execGsync s = _
    unfold execGsync
    refine (issueWait_ok h ((if_neg hsplit).trans (if_neg (by simp [hb])))).trans ?_
    rw [h.place]

/-! ## Membership (10 R197, R198) -/

/-- A member issues as an arrival with its need, mask and effect. -/
theorem exec_member {i : Instr} {n : Need} {k : MaskSrc} {eff : Iss → State → Except Stop State} (h : member i = some (n, k, eff)) (s : State) :
    exec i s = arrive i n k eff s := by
  unfold member at h
  split at h
  case h_6 => cases h
  all_goals
    cases h
    rfl

theorem memberLanes_eq (c : Iss) (k : MaskSrc) : c.memberMask k &&& c.grp.live = memberLanes c k := by cases k <;> rfl

theorem maskInside_iff (c : Iss) (k : MaskSrc) : maskInside c k ↔ c.memberMask k &&& ~~~ c.exec = 0 := by
  cases k with
  | reg r => rfl
  | all =>
    change c.exec = _ ↔ BitVec.allOnes 32 &&& ~~~ c.exec = 0#32
    rw [BitVec.allOnes_and, BitVec.not_eq_comm]
    simp

/-- What a member does at its arrival. -/
def arriveBody (i : Instr) (k : MaskSrc) (eff : Iss → State → Except Stop State) (c : Iss) : Except Stop State :=
  let m := memberLanes c k
  if c.f.split = 4 then
    if c.memberMask k &&& ~~~ c.exec ≠ 0 then .error (fault 0x01 0 c.exec)
    else if c.exec &&& ~~~ m ≠ 0 then .error (fault 0x03 3 c.exec)
    else (eff { c with exec := m } c.s).map (fun s' => advance s' c.f c.len)
  else if c.exec &&& ~~~ m ≠ 0 then .error (fault 0x03 3 c.exec)
  else if c.grp.memberClash c.f.split c.sp.pc c.exec m ≠ 0 then
    .error (fault 0x03 (c.grp.memberClash c.f.split c.sp.pc c.exec m) c.exec)
  else
    let is := sortSlots (c.f.split :: c.grp.mates c.sp.pc m)
    let lo := is.headD c.f.split
    if m &&& ~~~ (c.grp.lanesAt is) = 0 then
      let s1 := if is.length ≤ 1 then c.s else c.s.mergeAt c.f.gang c.f.group lo is.tail .ready
      (eff (c.completed s1 lo m) s1).map (fun s' => advance s' { c.f with split := lo } c.len)
    else .ok (c.s.mergeAt c.f.gang c.f.group lo is.tail (.waiting (.member i m c.s.order)))

theorem exec_arriveBody {i : Instr} {n : Need} {k : MaskSrc} {eff : Iss → State → Except Stop State} (h : member i = some (n, k, eff)) (s : State) :
    exec i s = issueWait i (memberNeed n k) (arriveBody i k eff) s := by
  rw [exec_member h]
  unfold arrive arriveBody
  simp only [memberLanes_eq]
  rfl

section
variable {i : Instr} {n : Need} {k : MaskSrc} {eff : Iss → State → Except Stop State} {s t : State} {c : Iss}
  (hi : member i = some (n, k, eff)) (h : Issues s (memberNeed n k) i.bytes c)
include hi h

theorem exec_member_ok (hb : arriveBody i k eff c = .ok t) : exec i s = .next ((t.jumped c).deadlockCheck c.f.gang c.f.group) := by
  rw [exec_arriveBody hi, issueWait_ok h hb, h.place]

theorem exec_member_trap {cause sub : Nat} (hb : arriveBody i k eff c = .error (fault cause sub c.exec)) :
    exec i s = .next (State.deadlockCheck (raiseTrap (s.trapCopy c none) c.f i.bytes c.exec
      { cause := cause, sub := sub, kind := 0, lanes := c.exec, addr := c.sp.pc, info := 0 }) c.f.gang c.f.group) := by
  rw [exec_arriveBody hi]
  exact issueWait_check h hb

end

/-- Settles O5: the checks of an arrival in their order, then the wait or the effect. -/
theorem membershipArrival : Obligations.MembershipArrival := by
  unfold Obligations.MembershipArrival
  refine ⟨?_, ?_⟩
  · intro i n k eff s c hi h hsplit m slots lo hin hclash
    have hbody : arriveBody i k eff c = if m &&& ~~~ (c.grp.lanesAt slots) = 0 then
        let s1 := if slots.length ≤ 1 then c.s else c.s.mergeAt c.f.gang c.f.group lo slots.tail .ready
        (eff (c.completed s1 lo m) s1).map (fun s' => advance s' { c.f with split := lo } c.len)
      else .ok (c.s.mergeAt c.f.gang c.f.group lo slots.tail (.waiting (.member i m c.s.order))) :=
      (if_neg hsplit).trans ((if_neg (not_not.mpr hin)).trans (if_neg (not_not.mpr hclash)))
    refine ⟨?_, ?_⟩
    · intro t hall s1 heff
      refine exec_member_ok hi h (hbody.trans ((if_pos hall).trans ?_))
      exact congrArg (Except.map _) heff
    · intro hmiss
      exact exec_member_ok hi h (hbody.trans (if_neg hmiss))
  · intro i n k eff s c hi h m trap
    refine ⟨?_, ?_, ?_, ?_, ?_⟩
    · intro hsplit hout
      exact exec_member_trap hi h ((if_neg hsplit).trans (if_pos hout))
    · intro hsplit hin hclash
      exact exec_member_trap hi h ((if_neg hsplit).trans ((if_neg (not_not.mpr hin)).trans (if_pos hclash)))
    · intro hsplit hout
      exact exec_member_trap hi h ((if_pos hsplit).trans (if_pos (mt (maskInside_iff c k).mpr hout)))
    · intro hsplit hinside hout
      exact exec_member_trap hi h ((if_pos hsplit).trans
        ((if_neg (not_not.mpr ((maskInside_iff c k).mp hinside))).trans (if_pos hout)))
    · intro t hsplit hinside hin heff
      refine exec_member_ok hi h ((if_pos hsplit).trans
        ((if_neg (not_not.mpr ((maskInside_iff c k).mp hinside))).trans ((if_neg (not_not.mpr hin)).trans ?_)))
      exact congrArg (Except.map _) heff

end Sys2Proof.Proofs.Control
end

section
/-! PROOFS. Divergence: the parts of a split and where they go -/

namespace Sys2Proof.Proofs.Divide
open Sys2Proof Sys2Proof.Machine Sys2Proof.Claims

/-! ## Masks of lanes -/

theorem getLsbD_laneBit (n l : Nat) : (laneBit n).getLsbD l = (decide (l < 32) && decide (n = l)) := by
  rw [laneBit, BitVec.getLsbD_ofNat, Nat.testBit_two_pow]

theorem getLsbD_foldl_laneBit (ls : List Nat) (m : LaneMask) (l : Nat) :
    (ls.foldl (fun m l => m ||| laneBit l) m).getLsbD l = (m.getLsbD l || (decide (l < 32) && decide (l ∈ ls))) := by
  induction ls generalizing m with
  | nil => simp
  | cons x xs ih =>
    rw [List.foldl_cons, ih, BitVec.getLsbD_or, getLsbD_laneBit]
    by_cases hx : x = l
    · simp [hx]
      by_cases hl : l < 32 <;> simp [hl]
    · simp [hx, Ne.symm hx]

theorem getLsbD_maskOf (ls : List Nat) (l : Nat) : (maskOf ls).getLsbD l = true ↔ l < 32 ∧ l ∈ ls := by
  simp [maskOf, getLsbD_foldl_laneBit]

theorem maskOf_lanesOf (m : LaneMask) : maskOf (lanesOf m) = m := by
  refine BitVec.eq_of_getLsbD_eq (fun l hl => ?_)
  rw [Bool.eq_iff_iff, getLsbD_maskOf, mem_lanesOf]
  simp [hl]

theorem lanesOf_ne_nil {m : LaneMask} (h : m ≠ 0) : lanesOf m ≠ [] := by
  intro hnil
  exact h (by rw [← maskOf_lanesOf m, hnil]; rfl)

/-! ## The parts of a divergence -/

section
variable {tgt : Nat → Word} {lanes : LaneMask}

/-- The part of the lanes that go to a target. -/
def partTo (tgt : Nat → Word) (lanes : LaneMask) (t : Word) : Word × LaneMask := (t, maskOf ((lanesOf lanes).filter (fun l => tgt l = t)))

theorem mem_partsOf {l : Nat} (hl : l < 32) (h : lanes.getLsbD l = true) : partTo tgt lanes (tgt l) ∈ partsOf tgt lanes :=
  List.mem_map_of_mem (List.mem_eraseDups.mpr (List.mem_map_of_mem ((mem_lanesOf _ _).mpr ⟨hl, h⟩)))

theorem getLsbD_partTo {l : Nat} (hl : l < 32) (h : lanes.getLsbD l = true) : (partTo tgt lanes (tgt l)).2.getLsbD l = true :=
  (getLsbD_maskOf _ _).mpr ⟨hl, List.mem_filter.mpr ⟨(mem_lanesOf _ _).mpr ⟨hl, h⟩, by simp⟩⟩

theorem partsOf_head {p : Word × LaneMask} {rest : List (Word × LaneMask)} (h : partsOf tgt lanes = p :: rest) :
    p = partTo tgt lanes (tgt (lowestLane lanes)) := by
  unfold partsOf at h
  unfold lowestLane partTo
  cases hl : lanesOf lanes with
  | nil => simp [hl] at h
  | cons x xs =>
    rw [hl, List.map_cons, List.eraseDups_cons, List.map_cons] at h
    exact (List.cons.inj h).1.symm

theorem partsOf_together {pc : Word} (h : lanes ≠ 0) (ht : ∀ l, l < 32 → lanes.getLsbD l = true → tgt l = pc) :
    partsOf tgt lanes = [(pc, lanes)] := by
  have hall : ∀ l, l ∈ lanesOf lanes → tgt l = pc := fun l hl => ht l ((mem_lanesOf _ _).mp hl).1 ((mem_lanesOf _ _).mp hl).2
  have htargets : ((lanesOf lanes).map tgt).eraseDups = [pc] := by
    cases hl : lanesOf lanes with
    | nil => exact absurd hl (lanesOf_ne_nil h)
    | cons x xs =>
      rw [hl] at hall
      rw [List.map_cons, List.eraseDups_cons, hall x (by simp)]
      have hrest : (xs.map tgt).filter (fun b => !b == pc) = [] := by
        simp only [List.filter_eq_nil_iff, List.mem_map, forall_exists_index, and_imp]
        rintro _ l hl rfl
        simp [hall l (by simp [hl])]
      rw [hrest]
      rfl
  have hmask : (lanesOf lanes).filter (fun l => decide (tgt l = pc)) = lanesOf lanes :=
    List.filter_eq_self.mpr (fun l hl => decide_eq_true (hall l hl))
  unfold partsOf
  rw [htargets, List.map_cons, List.map_nil, hmask, maskOf_lanesOf]

end

/-! ## Where the parts go (13 R239) -/

/-- A split of a group, in a slot or parked. -/
def Holds (g : Group) (y : Split) : Prop := y ∈ g.parked ∨ ∃ j, g.split? j = some y

theorem freeSlot_none {g : Group} {i : Nat} (h : g.freeSlot = some i) : i < 4 ∧ g.split? i = none := by
  unfold Group.freeSlot at h
  have hmem := List.mem_of_find?_eq_some h
  have hfree := List.find?_some h
  exact ⟨by simpa using hmem, by simpa using hfree⟩

/-- What a later part of a split becomes. -/
def latePart (clock : Nat) (sp : Split) (y : Word × LaneMask) : Split :=
  { sp with pc := y.1, lanes := y.2, age := clock, status := .ready, boost := none, idle := 0, joined := false }

/-- A part takes the lowest free slot, or is parked. -/
def Group.addPart (g : Group) (y : Split) : Group :=
  match g.freeSlot with
  | some i => g.setSplit i (some y)
  | none => { g with parked := g.parked ++ [y] }

theorem addParts_cons (clock : Nat) (sp : Split) (p : Word × LaneMask) (ps : List (Word × LaneMask)) (g : Group) :
    addParts clock sp (p :: ps) g = addParts clock sp ps (Group.addPart g (latePart clock sp p)) := rfl

theorem split?_addPart {g : Group} {j : Nat} {z : Split} (h : g.split? j = some z) (y : Split) : (Group.addPart g y).split? j = some z := by
  unfold Group.addPart
  split
  next i hi =>
    obtain ⟨-, hnone⟩ := freeSlot_none hi
    rw [Group.split?_setSplit, if_neg ?_, h]
    rintro ⟨rfl, -⟩
    rw [hnone] at h
    cases h
  next => exact h

theorem holds_addPart {g : Group} {z : Split} (h : Holds g z) (y : Split) : Holds (Group.addPart g y) z := by
  rcases h with h | ⟨j, h⟩
  · left
    unfold Group.addPart Group.setSplit
    split
    next => split <;> exact h
    next => exact List.mem_append_left _ h
  · exact .inr ⟨j, split?_addPart h y⟩

theorem holds_addPart_self (g : Group) (y : Split) : Holds (Group.addPart g y) y := by
  unfold Group.addPart
  split
  next i hi =>
    refine .inr ⟨i, ?_⟩
    rw [Group.split?_setSplit, if_pos ⟨rfl, (freeSlot_none hi).1⟩]
  next => exact .inl (by simp)

theorem split?_addParts {clock : Nat} {sp : Split} {j : Nat} {z : Split} (ps : List (Word × LaneMask)) {g : Group} (h : g.split? j = some z) :
    (addParts clock sp ps g).split? j = some z := by
  induction ps generalizing g with
  | nil => exact h
  | cons p ps ih => exact ih (split?_addPart h _)

theorem holds_addParts {clock : Nat} {sp z : Split} (ps : List (Word × LaneMask)) {g : Group} (h : Holds g z) :
    Holds (addParts clock sp ps g) z := by
  induction ps generalizing g with
  | nil => exact h
  | cons p ps ih => exact ih (holds_addPart h _)

theorem holds_addParts_part {clock : Nat} {sp : Split} {p : Word × LaneMask} {ps : List (Word × LaneMask)} (hp : p ∈ ps) (g : Group) :
    Holds (addParts clock sp ps g) (latePart clock sp p) := by
  induction ps generalizing g with
  | nil => cases hp
  | cons q qs ih =>
    rw [addParts_cons]
    rcases List.mem_cons.mp hp with rfl | hp
    · exact holds_addParts qs (holds_addPart_self g _)
    · exact ih hp _

theorem slot_lt {g : Group} {i : Nat} {sp : Split} (h : g.split? i = some sp) : i < 4 := by
  unfold Group.split? at h
  split at h
  · assumption
  · cases h

/-- What the first part of a split becomes. -/
def firstPart (sp : Split) (p : Word × LaneMask) : Split := { sp with pc := p.1, lanes := p.2, joined := false }

section
variable {g : Group} {i clock : Nat} {sp : Split} {tgt : Nat → Word} (hs : g.split? i = some sp)
include hs

theorem goTo_nil (h : partsOf tgt sp.lanes = []) : g.goTo i clock tgt = g := by simp [Group.goTo, hs, h]

theorem goTo_cons {p : Word × LaneMask} {rest : List (Word × LaneMask)} (h : partsOf tgt sp.lanes = p :: rest) :
    g.goTo i clock tgt = addParts clock (firstPart sp p) rest (g.setSplit i (some (firstPart sp p))) := by
  simp [Group.goTo, hs, h, firstPart]

end

/-- What a later part of the handler split becomes, behind the first (16 R298). -/
def heldPart (clock : Nat) (sp : Split) (p : Word × LaneMask) : Split := { sp with pc := p.1, lanes := p.2, age := clock, joined := false }

theorem goHandler_cons {g : Gang} {clock : Nat} {sp : Split} {tgt : Nat → Word} {p : Word × LaneMask} {rest : List (Word × LaneMask)}
    (hs : g.handler = some sp) (h : partsOf tgt sp.lanes = p :: rest) :
    g.goHandler clock tgt = { g with handler := some (firstPart sp p), handlerRest := g.handlerRest ++ rest.map (heldPart clock sp) } := by
  simp [Gang.goHandler, hs, h, firstPart, heldPart]

/-- Settles O9: the parts of a divergence cover the lanes, the first keeps the split's place, and each later one takes a free place or is
parked; nothing takes an occupied slot. -/
theorem divergence : Obligations.Divergence := by
  unfold Obligations.Divergence
  refine ⟨?_, ?_, ?_⟩
  · intro g i clock sp tgt pc hs hne ht
    exact goTo_cons hs (partsOf_together hne ht)
  · intro g i clock sp tgt hs
    cases hparts : partsOf tgt sp.lanes with
    | nil =>
      rw [goTo_nil hs hparts]
      refine ⟨fun l hl h => ?_, fun j y _ hy => hy⟩
      have := mem_partsOf (tgt := tgt) hl h
      simp [hparts] at this
    | cons p rest =>
      rw [goTo_cons hs hparts]
      refine ⟨fun l hl h => ?_, fun j y hj hy => split?_addParts _ ?_⟩
      · have hmem := mem_partsOf (tgt := tgt) hl h
        have hbit := getLsbD_partTo (tgt := tgt) hl h
        rw [hparts] at hmem
        rcases List.mem_cons.mp hmem with hp | hp
        · refine ⟨firstPart sp p, holds_addParts rest (.inr ⟨i, ?_⟩), hp ▸ hbit, congrArg Prod.fst hp.symm, rfl, rfl, rfl, rfl⟩
          rw [Group.split?_setSplit, if_pos ⟨rfl, slot_lt hs⟩]
        · exact ⟨_, holds_addParts_part hp _, hbit, rfl, rfl, rfl, rfl, rfl⟩
      · rw [Group.split?_setSplit, if_neg (fun e => hj e.1.symm)]
        exact hy
  · intro g clock sp tgt hs hne l hl h
    have hmem := mem_partsOf (tgt := tgt) hl h
    have hbit := getLsbD_partTo (tgt := tgt) hl h
    cases hparts : partsOf tgt sp.lanes with
    | nil => simp [hparts] at hmem
    | cons p rest =>
      rw [hparts] at hmem
      rw [goHandler_cons hs hparts]
      by_cases hp : partTo tgt sp.lanes (tgt l) = p
      · exact ⟨firstPart sp p, .inl rfl, hp ▸ hbit, congrArg Prod.fst hp.symm, rfl, rfl, fun _ => rfl⟩
      · have hin : partTo tgt sp.lanes (tgt l) ∈ rest := (List.mem_cons.mp hmem).resolve_left hp
        refine ⟨_, .inr (List.mem_append_right _ (List.mem_map_of_mem (f := heldPart clock sp) hin)), hbit, rfl, rfl, rfl, ?_⟩
        rintro rfl
        exact absurd (partsOf_head hparts).symm hp

end Sys2Proof.Proofs.Divide
end

section
/-! PROOFS. The checks of an issue: operands, privilege, features, the empty mask, words that are no instruction -/

namespace Sys2Proof.Proofs.Checks
open Sys2Proof Sys2Proof.Machine Sys2Proof.Claims Sys2Proof.Proofs.Arith

/-! ## The checks of V-class operands (02 R28) -/

theorem isPort_iff (g : Group) (n : Nat) : g.isPort n = true ↔ 248 ≤ n ∧ g.portBound (n - 248) = true := by simp [Group.isPort]

theorem isPort_eq_false (g : Group) (n : Nat) : g.isPort n = false ↔ (n < 248 ∨ g.portBound (n - 248) = false) := by
  rw [← Bool.not_eq_true, isPort_iff, Decidable.not_and_iff_or_not, Nat.not_le, Bool.not_eq_true]

section
variable {g : Group} {w : Nat} {n : Fin 256} {write : Bool}

theorem checkV_port (h : g.isPort n.val = true) : g.checkV w { op := .v n, pair := false, write := write } = 0 := by simp [Group.checkV, h]

theorem checkV_window (h : g.isPort n.val = false) (hn : n.val < w) : g.checkV w { op := .v n, pair := false, write := write } = 0 := by
  simp [Group.checkV, h, hn]

theorem checkV_outside (h : g.isPort n.val = false) (hn : w ≤ n.val) :
    g.checkV w { op := .v n, pair := false, write := write } = if 248 ≤ n.val then 0x0F else 0x01 := by
  simp [Group.checkV, h, Nat.not_lt.mpr hn]

theorem checkV_pair : g.checkV w { op := .v n, pair := true, write := write } =
    if n.val % 2 = 0 ∧ n.val + 1 < w ∧ g.isPort n.val = false ∧ g.isPort (n.val + 1) = false then 0 else 0x01 := by
  have hiff : (n.val % 2 = 1 ∨ w < n.val + 2 ∨ g.isPort n.val = true ∨ g.isPort (n.val + 1) = true) ↔
      ¬ (n.val % 2 = 0 ∧ n.val + 1 < w ∧ g.isPort n.val = false ∧ g.isPort (n.val + 1) = false) := by
    cases g.isPort n.val <;> cases g.isPort (n.val + 1) <;> simp
    omega
  simp only [Group.checkV, if_true, hiff, ite_not]

/-- A V-class operand has one of three answers. -/
theorem checkV_cases (g : Group) (w : Nat) (u : VUse) : g.checkV w u = 0 ∨ g.checkV w u = 0x01 ∨ g.checkV w u = 0x0F := by
  unfold Group.checkV
  repeat' split
  all_goals simp

end

section
variable {s : State} {f : Focus} {gang : Gang} {g : Group} {n : Need}

theorem checkNeed_window (h : ∃ u, u ∈ n.vs ∧ g.checkV gang.task.w u = 0x01) : checkNeed s f gang g n = 0x01 := by
  unfold checkNeed
  exact if_pos (List.contains_iff_mem.mpr (List.mem_map.mpr h))

theorem checkNeed_unbound (h : ∃ u, u ∈ n.vs ∧ g.checkV gang.task.w u = 0x0F) (hw : ∀ u, u ∈ n.vs → g.checkV gang.task.w u ≠ 0x01) :
    checkNeed s f gang g n = 0x0F := by
  unfold checkNeed
  refine (if_neg ?_).trans (if_pos (List.contains_iff_mem.mpr (List.mem_map.mpr h)))
  rw [List.contains_iff_mem, List.mem_map]
  rintro ⟨u, hu, he⟩
  exact hw u hu he

theorem checkNeed_operands (h : ∀ u, u ∈ n.vs → g.checkV gang.task.w u = 0) : checkNeed s f gang g n =
    if n.priv ∧ f.split ≠ 4 then 0x01
    else match n.feature with
      | some b => if s.feature gang.ctx b then 0 else 0x01
      | none => 0 := by
  have hno : ∀ k, k ≠ 0 → ¬ (n.vs.map (g.checkV gang.task.w)).contains k = true := by
    intro k hk
    rw [List.contains_iff_mem, List.mem_map]
    rintro ⟨u, hu, rfl⟩
    exact hk (h u hu)
  unfold checkNeed
  exact (if_neg (hno _ (by decide))).trans (if_neg (hno _ (by decide)))

theorem checkNeed_special (h : ∀ u, u ∈ n.vs → g.checkV gang.task.w u = 0)
    (hs : (n.priv = true ∧ f.split ≠ 4) ∨ ∃ b, n.feature = some b ∧ s.feature gang.ctx b = false) : checkNeed s f gang g n = 0x01 := by
  rw [checkNeed_operands h]
  rcases hs with hp | ⟨b, hb, hf⟩
  · exact if_pos hp
  · simp [hb, hf]

end

/-! ## The members issue with their needs -/

/-- The member issues with what it needs. -/
def IssuesWith (i : Instr) (n : Need) : Prop := ∃ adv body, ∀ s, exec i s = issueAt i.bytes n adv body s

/-- The member issues with what it needs and lets the PC advance. -/
def Advances (i : Instr) (n : Need) : Prop := ∃ body, ∀ s, exec i s = issue i n body s

theorem Advances.issuesWith {i : Instr} {n : Need} (h : Advances i n) : IssuesWith i n := by
  obtain ⟨body, h⟩ := h
  exact ⟨true, body, h⟩

/-- The member issues with what it needs and places the PC itself. -/
def Places (i : Instr) (n : Need) : Prop := ∃ body, ∀ s, exec i s = issueJump i n body s

theorem Places.issuesWith {i : Instr} {n : Need} (h : Places i n) : IssuesWith i n := by
  obtain ⟨body, h⟩ := h
  exact ⟨false, body, h⟩

section
variable {i : Instr}

theorem advances_vBin {op : IntOp} {x : VBin} (he : ∀ s, exec i s = vBin i op x s) (value : Iss → List (Nat → Word) → Nat → Word) :
    Advances i (vtwo x.g x.ty.is64 x.d x.a x.b value).need := ⟨_, he⟩

theorem advances_vUn {op : UnOp} {x : VUn} (he : ∀ s, exec i s = vUn i op x s) (value : Iss → List (Nat → Word) → Nat → Word) :
    Advances i (vone x.g x.ty.is64 (x.ty.is64 && decide (op = .abs)) x.d x.a value).need := ⟨_, he⟩

theorem advances_fBin {op : FOp} {x : FBin} (he : ∀ s, exec i s = fBin i op x s) : Advances i (vfloat x op).need := ⟨_, he⟩

theorem advances_fUn {op : FFmt → RoundMode → Bool → Nat → Nat} {x : FUn} {dw : Bool} (he : ∀ s, exec i s = fUn i op dw x s) :
    Advances i (vfun x dw op).need := ⟨_, he⟩

theorem advances_fConvert {x : FCvtI} {good : Bool} (he : ∀ s, exec i s = fConvert i good x s) (good' : Bool) :
    Advances i (vconvert x good').need := ⟨_, he⟩

theorem advances_vMove {x : VMovI} (he : ∀ s, exec i s = vMove i x s) : Advances i (vmove x.g x.ty.is64 x.d x.b).need := ⟨_, he⟩

/-- Every vector member issues with the need of its claim. -/
theorem advances_vec {i : Instr} {v : Vec} (hv : vec i = some v) : Advances i v.need := by
  cases i with
  | vaddBase x => cases hv; exact advances_vBin (x := vbase x) (fun _ => rfl) _
  | vaddExt x => cases hv; exact advances_vBin (fun _ => rfl) _
  | vsub x => cases hv; exact advances_vBin (fun _ => rfl) _
  | vmul x => cases hv; exact advances_vBin (fun _ => rfl) _
  | vmulh x => cases hv; exact advances_vBin (fun _ => rfl) _
  | vmin x => cases hv; exact advances_vBin (fun _ => rfl) _
  | vmax x => cases hv; exact advances_vBin (fun _ => rfl) _
  | vandBase x => cases hv; exact advances_vBin (x := vbase x) (fun _ => rfl) _
  | vandExt x => cases hv; exact advances_vBin (fun _ => rfl) _
  | vor x => cases hv; exact advances_vBin (fun _ => rfl) _
  | vxor x => cases hv; exact advances_vBin (fun _ => rfl) _
  | vshlBase x => cases hv; exact advances_vBin (x := vbase x) (fun _ => rfl) _
  | vshlExt x => cases hv; exact advances_vBin (fun _ => rfl) _
  | vshr x => cases hv; exact advances_vBin (fun _ => rfl) _
  | vsra x => cases hv; exact advances_vBin (fun _ => rfl) _
  | vabs x => cases hv; simpa using advances_vUn (op := .abs) (x := x) (fun _ => rfl) _
  | vpopc x => cases hv; simpa using advances_vUn (op := .popc) (x := x) (fun _ => rfl) _
  | vclz x => cases hv; simpa using advances_vUn (op := .clz) (x := x) (fun _ => rfl) _
  | vmovBase x => cases hv; exact advances_vMove (x := { g := .none, ty := .i32, d := vreg x.d, b := .reg (vreg x.b) }) (fun _ => rfl)
  | vmovExt x => cases hv; exact advances_vMove (fun _ => rfl)
  | faddBase x => cases hv; exact advances_fBin (fun _ => rfl)
  | faddExt x => cases hv; exact advances_fBin (fun _ => rfl)
  | fsub x => cases hv; exact advances_fBin (fun _ => rfl)
  | fmul x => cases hv; exact advances_fBin (fun _ => rfl)
  | fmin x => cases hv; exact advances_fBin (fun _ => rfl)
  | fmax x => cases hv; exact advances_fBin (fun _ => rfl)
  | fabs x => cases hv; exact advances_fUn (fun _ => rfl)
  | fneg x => cases hv; exact advances_fUn (fun _ => rfl)
  | fclass x => cases hv; exact advances_fUn (fun _ => rfl)
  | frnd x => cases hv; exact advances_fUn (fun _ => rfl)
  | frcpBase x => cases hv; exact advances_fUn (fun _ => rfl)
  | frcpExt x => cases hv; exact advances_fUn (fun _ => rfl)
  | fsqrt x => cases hv; exact advances_fUn (fun _ => rfl)
  | frsq x => cases hv; exact advances_fUn (fun _ => rfl)
  | fexp2 x => cases hv; exact advances_fUn (fun _ => rfl)
  | flog2 x => cases hv; exact advances_fUn (fun _ => rfl)
  | fsin x => cases hv; exact advances_fUn (fun _ => rfl)
  | fcos x => cases hv; exact advances_fUn (fun _ => rfl)
  | ftanh x => cases hv; exact advances_fUn (fun _ => rfl)
  | fcvt x => cases hv; exact advances_fConvert (fun _ => rfl) _
  | icvt x => cases hv; exact advances_fConvert (fun _ => rfl) _
  | vbfx x => cases hv; exact ⟨_, fun s => show execVbfx x s = _ from rfl⟩
  | vbfi x => cases hv; exact ⟨_, fun s => show execVbfi x s = _ from rfl⟩
  | vsel x => cases hv; exact ⟨_, fun s => show execVsel x s = _ from rfl⟩
  | vidx x => cases hv; exact ⟨_, fun s => show execVidx x s = _ from rfl⟩
  | vmad x => cases hv; exact ⟨_, fun s => show execVmad x s = _ from rfl⟩
  | vdot4 x => cases hv; exact ⟨_, fun s => show execVdot4 x s = _ from rfl⟩
  | ffma x => cases hv; exact ⟨_, fun s => show execFfma x s = _ from rfl⟩
  | ffs x => cases hv; exact ⟨_, fun s => show execFfs x s = _ from rfl⟩
  | lmask x => cases hv; exact ⟨_, fun s => show execLmask x s = _ from rfl⟩
  | _ => cases hv

theorem advances_cmp {i : Instr} {v : Cmp} (hv : Claims.cmp i = some v) : Advances i v.need := by
  unfold Claims.cmp at hv
  split at hv
  case h_1 x => cases hv; exact ⟨_, fun s => show execVset x s = _ from rfl⟩
  case h_2 x => cases hv; exact ⟨_, fun s => show execFset x s = _ from rfl⟩
  case h_3 => cases hv

/-- Every guarded member issues with its need. -/
theorem advances_guarded {i : Instr} {n : Need} (h : guarded i = some n) : Advances i n := by
  unfold guarded at h
  split at h
  case h_1 x => cases h; exact ⟨_, fun s => show execVaddc x s = _ from rfl⟩
  case h_2 x => cases h; exact ⟨_, fun s => show execVrng x s = _ from rfl⟩
  case h_3 x => cases h; exact ⟨_, fun s => show loadVec (.ldExt x) x s = _ from rfl⟩
  case h_4 x => cases h; exact ⟨_, fun s => show storeVec (.stExt x) x s = _ from rfl⟩
  case h_5 x => cases h; exact ⟨_, fun s => show execAtom x s = _ from rfl⟩
  case h_6 x => cases h; exact ⟨_, fun s => show execRed x s = _ from rfl⟩
  case h_7 x => cases h; exact ⟨_, fun s => show execPref x s = _ from rfl⟩
  case h_8 x => cases h; exact ⟨_, fun s => show execCflush x s = _ from rfl⟩
  case h_9 =>
    split at h
    next hv => cases h; exact advances_vec hv
    next hv => cases h; exact advances_cmp hv
    next => cases h

/-- Every member of privilege or of a feature issues with its need. -/
theorem issuesWith_special {i : Instr} {n : Need} (h : special i = some n) : IssuesWith i n := by
  unfold special at h
  split at h
  case h_1 => cases h; exact Places.issuesWith ⟨_, fun s => show execEret s = _ from rfl⟩
  case h_2 x => cases h; exact Advances.issuesWith ⟨_, fun s => show execFinj x s = _ from rfl⟩
  case h_3 x => cases h; exact Advances.issuesWith ⟨_, fun s => show execPrune x s = _ from rfl⟩
  case h_4 x => cases h; exact Advances.issuesWith ⟨_, fun s => show execMldbs x s = _ from rfl⟩
  case h_5 x => cases h; exact Advances.issuesWith ⟨_, fun s => show execMmuls x s = _ from rfl⟩
  case h_6 x => cases h; exact Advances.issuesWith ⟨_, fun s => show execMhdr x s = _ from rfl⟩
  case h_7 x =>
    split at h
    · cases h
    · next hm =>
      cases h
      have hexec : Advances (.chkmode x) { feature := if x.mode.val = 0 then none else some 2 } := ⟨_, fun s => show execChkmode x s = _ from rfl⟩
      rw [if_neg hm] at hexec
      exact hexec.issuesWith
  case h_8 x => cases h; exact Places.issuesWith ⟨_, fun s => show execCkseal x s = _ from rfl⟩
  case h_9 x => cases h; exact Places.issuesWith ⟨_, fun s => show execColl x s = _ from rfl⟩
  case h_10 => cases h

end

/-! ## A check of step 2 fails; the mask is empty (02 R41) -/

section
variable {s : State} {g : Gang} {x : Group} {sp : Split} {n : Need} (hc : s.canIssue s.cur = true) (hg : s.gang? s.cur.gang = some g)
  (hx : s.group? s.cur.gang s.cur.group = some x) (hs : s.split? s.cur = some sp)
include hg hx hs

theorem iss?_eq (len : Nat) : s.iss? s.cur len = some { s := s, f := s.cur, gang := g, grp := x, sp := sp, exec := sp.lanes, len := len } := by
  unfold State.iss?
  rw [hg, hx, hs]

include hc

theorem issueAt_need (hn : checkNeed s s.cur g x n ≠ 0) (len : Nat) (adv : Bool) (body : Iss → Except Stop State) :
    issueAt len n adv body s = splitTrap s sp len (checkNeed s s.cur g x n) 0 0 := by
  unfold issueAt
  rw [iss?_eq hg hx hs]
  simp [hc, hn, splitTrap]

theorem issueAt_empty (hn : checkNeed s s.cur g x n = 0) (hk : s.slackStall g x = false) (he : sp.lanes &&& x.guardMask n.g = 0) (len : Nat)
    (adv : Bool) (body : Iss → Except Stop State) :
    issueAt len n adv body s = .next (countIssue (advance (s.modSplit s.cur Split.go) s.cur len) s.cur) := by
  unfold issueAt
  rw [iss?_eq hg hx hs]
  simp [hc, hn, hk, he]

theorem exec_need {i : Instr} (hi : IssuesWith i n) {code : Nat} (hcode : code ≠ 0) (hn : checkNeed s s.cur g x n = code) :
    exec i s = splitTrap s sp i.bytes code 0 0 := by
  obtain ⟨adv, body, he⟩ := hi
  rw [he, issueAt_need hc hg hx hs (by rw [hn]; exact hcode), hn]

end

/-- Settles O49: an operand's check by its cases; then the members issue with their needs, and the first check that fails is a trap of the
split. -/
theorem issueChecks : Obligations.IssueChecks := by
  unfold Obligations.IssueChecks
  refine ⟨?_, ?_⟩
  · intro g w n write
    refine ⟨?_, ?_, ?_, ?_, checkV_pair, fun k => ⟨rfl, rfl⟩⟩
    · intro h hb
      exact checkV_port ((isPort_iff _ _).mpr ⟨h, hb⟩)
    · intro h hw
      exact checkV_window ((isPort_eq_false _ _).mpr h) hw
    · intro h hb hw
      exact (checkV_outside ((isPort_eq_false _ _).mpr (.inr hb)) hw).trans (if_pos h)
    · intro h hw
      exact (checkV_outside ((isPort_eq_false _ _).mpr (.inl h)) hw).trans (if_neg (Nat.not_le.mpr h))
  · intro i n s g x sp hi hc hg hx hs
    have hissues : IssuesWith i n := by
      rcases hi with ⟨v, hv, rfl⟩ | hi | hi
      · exact (advances_vec hv).issuesWith
      · exact (advances_guarded hi).issuesWith
      · exact issuesWith_special hi
    exact ⟨fun h => exec_need hc hg hx hs hissues (by decide) (checkNeed_window h),
      fun h hw => exec_need hc hg hx hs hissues (by decide) (checkNeed_unbound h hw),
      fun h hsp => exec_need hc hg hx hs hissues (by decide) (checkNeed_special h hsp)⟩

/-- Settles O50: with an empty mask the issue is counted and the PC advances, and both keep everything else. -/
theorem emptyMask : Obligations.EmptyMask := by
  unfold Obligations.EmptyMask
  intro i n s g x sp hi hc hg hx hs hn hk he
  obtain ⟨body, hexec⟩ := advances_guarded hi
  let c : Iss := { s := s.modSplit s.cur Split.go, f := s.cur, gang := g, grp := x, sp := sp, exec := 0, len := i.bytes }
  have hstep : exec i s = .next (c.s.after c) := (hexec s).trans (issueAt_empty hc hg hx hs hn hk he _ _ _)
  have hsome : (c.s.split? c.f).isSome = true := by
    change ((s.modSplit s.cur Split.go).split? s.cur).isSome = true
    rw [split?_modSplit_same, hs]
    rfl
  refine ⟨_, hstep, ?_, ?_, ?_, ?_⟩
  · refine (pcAt_after c.s c hsome).trans ?_
    change (s.modSplit s.cur Split.go).pcAt s.cur + _ = _
    rw [pcAt_go, pcAt_eq, hs]
    rfl
  · exact ⟨fun r _ => (sAt_after _ _ _ r).trans (sAt_go s _ _ r), fun r _ => (upAt_after _ _ _ r).trans (upAt_go s _ _ r),
      fun r _ => (mAt_after _ _ _ r).trans (mAt_go s _ _ r)⟩
  · exact gangsOnly_trans (modSplit_gangsOnly s _ _) (after_gangsOnly _ _)
  · exact kept_trans (kept_go s _) (kept_after _ c)

/-! ## Words that are no instruction (02 R40-R43) -/

section
variable {s : State} {w : Who} {pc : Word}

theorem length_readBytes (m : Memory) (k n : Nat) : (m.readBytes k n).length = n := by
  induction n generalizing k with
  | zero => rfl
  | succ n ih => simp [Memory.readBytes, ih]

theorem length_fetchWord {bs : List Byte} (h : s.fetchWord w pc = .ok bs) : bs.length = 4 := by
  unfold State.fetchWord at h
  split at h
  · cases h
  · dsimp only at h
    split at h
    · cases h
    · split at h
      · cases h
      · cases h
        exact length_readBytes _ _ _

theorem length_fetchRest {n : Nat} {bs : List Byte} (h : s.fetchRest w pc n = .ok bs) : bs.length = 4 * n := by
  induction n generalizing pc bs with
  | zero => cases h; rfl
  | succ n ih =>
    unfold State.fetchRest at h
    split at h
    · cases h
    · next word hword =>
      split at h
      · cases h
      · next rest hrest =>
        cases h
        rw [List.length_append, length_fetchWord hword, ih hrest]
        omega

theorem fetch_of_fetchWord {e : Nat × Nat} (h : s.fetchWord w pc = .error e) : s.fetch w pc = .error e := by
  unfold State.fetch
  rw [h]

/-- What is fetched has as many words as LEN of word 0 says. -/
theorem length_fetch {bs : List Byte} (h : s.fetch w pc = .ok bs) : bs.length = 4 * wordsOfLen (leNat (bs.take 4) % 4) := by
  unfold State.fetch at h
  split at h
  · cases h
  · next word hword =>
    split at h
    · cases h
    · next rest hrest =>
      cases h
      have hpos : 1 ≤ wordsOfLen (leNat word % 4) := by
        unfold wordsOfLen
        split <;> omega
      rw [List.take_left' (length_fetchWord hword), List.length_append, length_fetchWord hword, length_fetchRest hrest]
      omega

end

section
variable {s : State} {g : Gang} {x : Group} {sp : Split} (hc : s.canIssue s.cur = true) (hg : s.gang? s.cur.gang = some g)
  (hx : s.group? s.cur.gang s.cur.group = some x) (hs : s.split? s.cur = some sp)
include hc hg hx hs

theorem exec_notAnInstruction_trap {len : Nat} {t : TrapInfo} (hb : s.badFetch g x s.cur sp.pc sp.lanes = some (len, t)) (hl : t.lanes ≠ 0) :
    exec .notAnInstruction s = .next (raiseTrap s s.cur len t.lanes t) := by
  change execNotAnInstruction s = _
  unfold execNotAnInstruction
  rw [hg, hx, hs]
  dsimp only
  rw [hb]
  exact (if_neg (by simp [hc])).trans (if_neg hl)

theorem exec_notAnInstruction_pass {len : Nat} {t : TrapInfo} (hb : s.badFetch g x s.cur sp.pc sp.lanes = some (len, t)) (hl : t.lanes = 0) :
    exec .notAnInstruction s = .next (countIssue (advance s s.cur len) s.cur) := by
  change execNotAnInstruction s = _
  unfold execNotAnInstruction
  rw [hg, hx, hs]
  dsimp only
  rw [hb]
  exact (if_neg (by simp [hc])).trans (if_pos hl)

end

/-- Settles O51: what `badFetch` answers in each case, which is then the trap, or nothing where it names no lane. -/
theorem notAnInstruction : Obligations.NotAnInstruction := by
  unfold Obligations.NotAnInstruction
  intro s g x sp hc hg hx hs hl w
  refine ⟨?_, ?_, ?_, ?_⟩
  · intro e hw
    have hb : s.badFetch g x s.cur sp.pc sp.lanes = some (0, { cause := e.1, sub := e.2, kind := 4, lanes := sp.lanes, addr := sp.pc, info := 0 }) := by
      unfold State.badFetch
      simp only [fetch_of_fetchWord (w := s.whoOf g s.cur) hw, show s.fetchWord (s.whoOf g s.cur) sp.pc = _ from hw]
      rfl
    exact exec_notAnInstruction_trap hc hg hx hs hb hl
  · intro e bs hw hf
    have hb : s.badFetch g x s.cur sp.pc sp.lanes = some (4 * wordsOfLen (leNat bs % 4),
        { cause := e.1, sub := e.2, kind := 4, lanes := sp.lanes, addr := sp.pc, info := 0 }) := by
      unfold State.badFetch
      simp only [show s.fetch (s.whoOf g s.cur) sp.pc = _ from hf, show s.fetchWord (s.whoOf g s.cur) sp.pc = _ from hw]
      rfl
    exact exec_notAnInstruction_trap hc hg hx hs hb hl
  · intro e bs hf hd he
    have hb : s.badFetch g x s.cur sp.pc sp.lanes = some (bs.length,
        { cause := 0x01, sub := 0, kind := 0, lanes := sp.lanes, addr := sp.pc, info := 0 }) := by
      unfold State.badFetch
      simp only [show s.fetch (s.whoOf g s.cur) sp.pc = _ from hf, hd]
    exact ⟨exec_notAnInstruction_trap hc hg hx hs hb hl, length_fetch hf⟩
  · intro bs hf hd lanes code
    have hb : s.badFetch g x s.cur sp.pc sp.lanes = some (bs.length,
        if code ≠ 0 then { cause := code, sub := 0, kind := 0, lanes := sp.lanes, addr := sp.pc, info := 0 }
        else { cause := 0x01, sub := 0, kind := 0, lanes := lanes, addr := sp.pc, info := 0 }) := by
      unfold State.badFetch
      simp only [show s.fetch (s.whoOf g s.cur) sp.pc = _ from hf, hd]
      rfl
    refine ⟨fun hcode => ?_, fun hcode hlanes => ?_, fun hcode hlanes => ?_⟩
    · rw [if_pos hcode] at hb
      exact exec_notAnInstruction_trap hc hg hx hs hb hl
    · rw [if_neg (not_not.mpr hcode)] at hb
      exact exec_notAnInstruction_trap hc hg hx hs hb hlanes
    · rw [if_neg (not_not.mpr hcode)] at hb
      refine ⟨_, exec_notAnInstruction_pass hc hg hx hs hb hlanes, ?_, ?_⟩
      · rw [pcAt_eq, split?_countIssue, advance, split?_modSplit_same, hs]
        rfl
      · exact gangsOnly_trans (advance_gangsOnly s _ _) (countIssue_gangsOnly _ _)

end Sys2Proof.Proofs.Checks
end

section
/-! PROOFS. Loads, stores, atomics, reductions and fences whose accesses pass, and the first access that fails -/

namespace Sys2Proof.Proofs.Access
open Sys2Proof Sys2Proof.Machine Sys2Proof.Claims Sys2Proof.Proofs.Control

/-! ## Steps that pass -/

theorem ok_bind {ε α β : Type} (a : α) (f : α → Except ε β) : (Except.ok a >>= f) = f a := rfl

theorem roomFor_of_lt {n : Nat} (h : n < 63) : roomFor n = .ok () := if_pos h

section
variable {c : Iss} {s s1 : State}

theorem pairRun_alone {perform : State → Performed} {vals : List Word} (hp : c.gang.pair = none) (hr : perform s = .ok (s1, some vals))
    (sig : List Byte) (finish : List Word → State → Except Stop State) : pairRun c s sig perform finish = finish vals s1 := by
  simp only [pairRun, hp, hr]

theorem pairLoad_alone {read : State → Except Stop (State × List Word)} {vals : List Word} (hp : c.gang.pair = none)
    (hr : read s = .ok (s1, vals)) (finish : List Word → State → Except Stop State) : pairLoad c s read finish = finish vals s1 := by
  simp only [pairLoad, hp, hr]

theorem pairVat_alone (hp : c.gang.pair = none) (sig : List Byte) : pairVat c s sig = .ok s := by simp only [pairVat, hp]

end

/-! ## Addresses (04 R65-R67) -/

theorem addrOf_eq (c : Iss) (e : AddrExp) (size : Nat) (base index : Nat → Word) (l : Nat) :
    addrOf c e size base index l = laneAddress c size base index l e := by cases e <;> rfl

theorem laneAccesses_eq (c : Iss) (e : AddrExp) (size : Nat) (base index : Nat → Word) :
    laneAccesses c (addrOf c e size base index) = laneAccess c e size base index := by
  simp only [laneAccesses, laneAccess, addrOf_eq]

theorem uniformAccess_eq (c : Iss) (e : AddrExp) (size : Nat) :
    uniformAccess c (addrOf c e size (fun _ => 0) (fun _ => 0) 0) = oneAccess c e size := by
  simp only [uniformAccess, oneAccess, addrOf_eq]

theorem toLd_eq (b : Base3) : Base3.toLd b = ldBase b := rfl

/-! ## Loads (04 R72, R74) -/

section
variable {c : Iss} {s t : State} {e : AddrExp} {sp : Bool} {size : Nat} {as : List Access} {ps : List Placed} {vals : List Word}

/-- A load whose accesses pass goes on with what it has read. -/
theorem loadBody_passes (hp : c.gang.pair = none) (h : loadPasses c s e sp size as ps t vals)
    (finish : List Placed → List Word → State → Except Stop State) :
    loadBody c s e sp size as finish = finish ps vals (updateBase c t e size) := by
  obtain ⟨hcheck, hroom, hrest⟩ := h
  unfold loadBody
  simp only [hcheck, ok_bind, roomFor_of_lt hroom]
  split at hrest
  next hsp =>
    obtain ⟨hready, hcons, rfl, rfl⟩ := hrest
    simp only [hsp, if_true, hready, hcons, ok_bind]
    rfl
  next hsp =>
    obtain ⟨hwatch, s1, s2, htouch, hreach, hcons, hload⟩ := hrest
    have hread : (do
        let s2 ← reachNow c s1 false size ps
        consume s2 c.gang.core false .read size ps
        (.ok (loadValues s2 c.gang.core size ps) : Except Stop (State × List Word))) = .ok (t, vals) := by
      simp only [hreach, hcons, ok_bind, hload]
    simp only [hsp, Bool.false_eq_true, if_false, hwatch, htouch, ok_bind]
    exact pairLoad_alone (s := s1) (read := fun s => do
        let s2 ← reachNow c s false size ps
        consume s2 c.gang.core false .read size ps
        .ok (loadValues s2 c.gang.core size ps)) hp hread _

end


/-! ## Accesses that pass their checks (04 R71) -/

section
variable {c : Iss} {s : State} {m : AccessMode}

theorem firstFailure_eq_none {kind : AccKind} {bad : List (Access × (Nat × Nat))} (h : firstFailure kind bad = none) : bad = [] := by
  cases bad with
  | nil => rfl
  | cons x xs => cases h

/-- The accesses that fail, with their traps. -/
def failing (c : Iss) (s : State) (m : AccessMode) (as : List Access) : List (Access × (Nat × Nat)) :=
  (as.map (fun a => (a, checkAccess c s m a))).filterMap (fun r => match r.2 with
    | .error e => some (r.1, e)
    | .ok _ => none)

/-- The accesses that pass, with their places. -/
def passing (c : Iss) (s : State) (m : AccessMode) (as : List Access) : List Placed :=
  (as.map (fun a => (a, checkAccess c s m a))).filterMap (fun r => match r.2 with
    | .ok x => some { acc := r.1, x := x }
    | .error _ => none)

theorem checkAccesses_eq (as : List Access) : checkAccesses c s m as = match firstFailure m.kind (failing c s m as) with
    | some e => .error (walkStop c (m.translated as) e)
    | none => .ok (passing c s m as) := rfl

theorem failing_cons_ok {a : Access} {x : Xlat} (h : checkAccess c s m a = .ok x) (as : List Access) :
    failing c s m (a :: as) = failing c s m as := by simp [failing, h]

theorem failing_cons_error {a : Access} {e : Nat × Nat} (h : checkAccess c s m a = .error e) (as : List Access) :
    failing c s m (a :: as) = (a, e) :: failing c s m as := by simp [failing, h]

theorem passing_cons_ok {a : Access} {x : Xlat} (h : checkAccess c s m a = .ok x) (as : List Access) :
    passing c s m (a :: as) = { acc := a, x := x } :: passing c s m as := by simp [passing, h]

theorem passing_acc {as : List Access} (h : failing c s m as = []) : (passing c s m as).map (fun p => p.acc) = as := by
  induction as with
  | nil => rfl
  | cons a as ih =>
    cases ha : checkAccess c s m a with
    | error e => simp [failing_cons_error ha] at h
    | ok x =>
      rw [failing_cons_ok ha] at h
      rw [passing_cons_ok ha, List.map_cons, ih h]

/-- Each access that passes has its place. -/
theorem checkAccesses_acc {as : List Access} {ps : List Placed} (h : checkAccesses c s m as = .ok ps) : ps.map (fun p => p.acc) = as := by
  rw [checkAccesses_eq] at h
  split at h
  · cases h
  next hnone =>
    cases h
    exact passing_acc (firstFailure_eq_none hnone)

end


section
variable {c : Iss} {s s2 : State} {e : AddrExp} {sp : Bool} {base index : Nat → Word}

/-- The operands of an address are read, and the rest goes on with them. -/
theorem addressRead_bind (h : addressRead c s e sp s2 base index) (rest : State → (Nat → Word) → (Nat → Word) → Except Stop State) :
    (do
      let (s1, base) ← takeBase c s e sp
      let (s2, index) ← takeIndex c s1 e
      rest s2 base index) = rest s2 base index := by
  obtain ⟨s1, hbase, hindex⟩ := h
  simp only [hbase, hindex, ok_bind]

end

theorem valueAt_single {p : Placed} {w : Word} (h : p.acc.lane = 0) : valueAt [p] [w] 0 = w := by simp [valueAt, h]

theorem lane_of_oneAccess {c : Iss} {s : State} {m : AccessMode} {e : AddrExp} {size : Nat} {p : Placed}
    (h : checkAccesses c s m (oneAccess c e size) = .ok [p]) : p.acc.lane = 0 := by
  have hacc := checkAccesses_acc h
  simp only [oneAccess, List.map_cons, List.map_nil, List.cons.injEq, and_true] at hacc
  rw [hacc]

theorem finishUniform_noFlip {c : Iss} {s : State} (h : c.dueFlip s = none) (d : SReg) (v : Word) : finishUniform c s d v =
    addLoad c (s.writeU c.f (.s d v))
      { lanes := c.sp.lanes, regs := [], vals := [], uni := some (.s d v), carry := none, tile := [], sync := none } := by
  simp [finishUniform, flipUniform_noFlip h]

theorem loadVec_passes {i : Instr} {x : LdI} {s : State} {c : Iss} {s2 t u : State} {base index : Nat → Word} {ps : List Placed}
    {vals : List Word}
    (h : Issues s { vs := baseUses x.addr x.sp ++ indexUses x.addr ++ [vdest x.d x.ty.is64], ss := addrRegs x.addr, ps := guardPreds x.g, g := x.g }
      i.bytes c) (hp : c.gang.pair = none) (ha : addressRead c c.s x.addr x.sp s2 base index)
    (hl : loadPasses c s2 x.addr x.sp (accSize x.ty) (laneAccess c x.addr (accSize x.ty) base index) ps t vals)
    (hf : finishLoad c (updateBase c t x.addr (accSize x.ty)) x.d x.ty.is64 (fun l => loadLane x.ty (valueAt ps vals l).toNat) = .ok u) :
    loadVec i x s = .next (u.after c) := by
  unfold loadVec
  refine issue_ok h ?_
  refine (addressRead_bind ha (fun s2 base index => loadBody c s2 x.addr x.sp (accSize x.ty)
    (laneAccesses c (addrOf c x.addr (accSize x.ty) base index))
    (fun ps vals s => finishLoad c s x.d x.ty.is64 (fun l => loadLane x.ty (valueAt ps vals l).toNat)))).trans ?_
  rw [laneAccesses_eq, loadBody_passes hp hl]
  exact hf

theorem loadValues_noHost {ps : List Placed} (h : hostLinesOf ps = []) (s : State) (core size : Nat) :
    loadValues s core size ps = (s, ps.map (fun p => BitVec.ofNat 64 (s.mem.readLE p.x.pa size))) := by
  unfold loadValues
  simp only [h, List.foldl_nil, List.find?_nil, ite_self, readValues, Bool.false_eq_true, if_false]
  exact congrArg (Prod.mk s) (List.map_snd_zip (by simp))

theorem hostLoad_reads (s : State) (core l : Nat) : (s.hostLoad core l).1.mem = s.mem ∧
    ((s.hostLoad core l).2 = s.mem.readBytes (128 * l) 128 ∨
     ∃ h, h ∈ (s.core? core).hostLines ∧ h.1 = l ∧ (s.hostLoad core l).2 = h.2) := by
  unfold State.hostLoad
  dsimp only [State.drawBytes]
  split
  next copy hfind _ =>
    exact ⟨rfl, .inr ⟨copy, List.mem_of_find?_eq_some hfind, by simpa using List.find?_some hfind, rfl⟩⟩
  next => exact ⟨rfl, .inl rfl⟩

/-- Settles O13: the checks pass, the values are read, and the destination waits for them. -/
theorem loadIssues : Obligations.LoadIssues := by
  unfold Obligations.LoadIssues
  refine ⟨?_, ?_, ?_⟩
  · intro i x s c s2 t u base index ps vals hi h hp ha hl hf
    have hexec : exec i s = loadVec i x s := by
      rcases hi with rfl | ⟨b, rfl, rfl⟩ <;> rfl
    rw [hexec]
    exact loadVec_passes h hp ha hl hf
  · intro x s c t p w h hp hflip hl v
    change execLdu x s = _
    unfold execLdu
    refine issue_ok h ?_
    have hlane : p.acc.lane = 0 := by
      obtain ⟨hcheck, -⟩ := hl
      exact lane_of_oneAccess hcheck
    rw [uniformAccess_eq, loadBody_passes hp hl]
    rw [valueAt_single hlane, finishUniform_noFlip hflip]
  · intro s core size ps
    exact ⟨fun hh => loadValues_noHost hh s core size, hostLoad_reads s core⟩

/-! ## Stores (04 R73, R74) -/

theorem storeBody_passes {c : Iss} {s t : State} {e : AddrExp} {sp : Bool} {ord : MemOrder} {size : Nat} {as : List Access} {ps : List Placed}
    (hp : c.gang.pair = none) (h : storePasses c s e sp ord size as ps t) (mask : LaneMask) (v : Nat → Word) :
    storeBody c s e sp ord size mask as v = .ok (stored c t e sp ord size ps v) := by
  obtain ⟨hcheck, hroom, hrest⟩ := h
  unfold storeBody stored
  simp only [hcheck, ok_bind, roomFor_of_lt hroom]
  split at hrest
  next hsp =>
    obtain ⟨hready, s1, hfence, hrel⟩ := hrest
    simp only [hsp, if_true, hready, hfence, hrel, pairVat_alone hp, ok_bind]
  next hsp =>
    obtain ⟨hwatch, htouch⟩ := hrest
    simp only [hsp, Bool.false_eq_true, if_false, hwatch, htouch, ok_bind]
    exact pairRun_alone hp rfl _ _

theorem storeVec_passes {i : Instr} {x : LdI} {s : State} {c : Iss} {s2 s3 t : State} {base index v : Nat → Word} {ps : List Placed}
    (h : Issues s { vs := baseUses x.addr x.sp ++ indexUses x.addr ++ [vuse x.d x.ty.is64], ss := addrRegs x.addr, ps := guardPreds x.g, g := x.g }
      i.bytes c) (hp : c.gang.pair = none) (ha : addressRead c c.s x.addr x.sp s2 base index) (hd : takeTy c s2 x.ty.is64 x.d = .ok (s3, v))
    (hl : storePasses c s3 x.addr x.sp x.ord (accSize x.ty) (laneAccess c x.addr (accSize x.ty) base index) ps t) :
    storeVec i x s = .next (State.after (stored c t x.addr x.sp x.ord (accSize x.ty) ps v) c) := by
  unfold storeVec
  refine issue_ok h ?_
  refine (addressRead_bind ha (fun s2 base index => do
    let (s3, v) ← takeTy c s2 x.ty.is64 x.d
    storeBody c s3 x.addr x.sp x.ord (accSize x.ty) c.exec (laneAccesses c (addrOf c x.addr (accSize x.ty) base index)) v)).trans ?_
  simp only [hd, ok_bind, laneAccesses_eq]
  exact storeBody_passes hp hl _ _

/-- Settles O14: the checks pass, and the bytes go to the vat or become outstanding. -/
theorem storeIssues : Obligations.StoreIssues := by
  unfold Obligations.StoreIssues
  refine ⟨?_, ?_⟩
  · intro i x s c s2 s3 t base index v ps hi h hp ha hd hl
    have hexec : exec i s = storeVec i x s := by
      rcases hi with rfl | ⟨b, rfl, rfl⟩ <;> rfl
    rw [hexec]
    exact storeVec_passes h hp ha hd hl
  · intro x s c t ps h hp hl
    change execStu x s = _
    unfold execStu
    refine issue_ok h ?_
    rw [uniformAccess_eq]
    exact storeBody_passes hp hl _ _

/-! ## Atomics (04 R80, R81) -/

theorem atomBody_passes {c : Iss} {s t : State} {e : AddrExp} {sp : Bool} {op : AtomOp} {ty : Ty} {ord : MemOrder} {as : List Access}
    {ps : List Placed} (hp : c.gang.pair = none) (h : atomPasses c s e sp op ty ord as ps t) (mask : LaneMask) (v cmp : Nat → Word)
    (finish : List Placed → List Word → State → Except Stop State) :
    let r := atomFold c.f.gang c.gang.core (vatSpace e sp) op ty v cmp ps t
    atomBody c s e sp op ty ord mask as v cmp finish = finish ps r.2 (updateBase c r.1 e (accSize ty)) := by
  intro r
  obtain ⟨hcheck, hroom, hrest⟩ := h
  unfold atomBody
  simp only [hcheck, ok_bind, roomFor_of_lt hroom]
  split at hrest
  next hsp =>
    obtain ⟨hready, hcons, s1, s2, hfence, hrel, hnr⟩ := hrest
    simp only [hsp, if_true, hready, hcons, hfence, hrel, hnr, pairVat_alone hp, ok_bind, r]
  next hsp =>
    obtain ⟨hwatch, s1, s2, s3, s4, htouch, hfence, hrel, hreach, hcons, hnr⟩ := hrest
    simp only [hsp, Bool.false_eq_true, if_false, hwatch, htouch, ok_bind, r]
    refine pairRun_alone hp ?_ _ _
    simp only [hfence, hrel, hreach, hcons, hnr, ok_bind]

/-- Settles O17: the checks pass, the lanes' operations are folded in order, and the values before them go to the destination. -/
theorem atomicIssues : Obligations.AtomicIssues := by
  unfold Obligations.AtomicIssues
  refine ⟨?_, ?_⟩
  · intro x s c s1 s2 s3 s4 t u base v index cmp ps h hp hbase hv hindex hcmp hl r hf
    change execAtom x s = _
    unfold execAtom
    refine issue_ok h ?_
    have hbody := (atomBody_passes hp hl c.exec v cmp (fun ps olds s => finishLoad c s x.d x.ty.is64 (valueAt ps olds))).trans hf
    split at hcmp
    next hop => simpa only [hbase, hv, hindex, hcmp, if_pos hop, ok_bind, laneAccesses_eq] using hbody
    next hop =>
      obtain ⟨rfl, rfl⟩ := hcmp
      simpa only [hbase, hv, hindex, if_neg hop, ok_bind, laneAccesses_eq] using hbody
  · intro x s c t p h hp hl r
    change execAtomu x s = _
    unfold execAtomu
    refine issue_ok h ?_
    rw [uniformAccess_eq]
    exact atomBody_passes hp hl _ _ _ _

/-! ## RED and OAPP (04 R83-R87, 14 R276) -/

theorem holdsRed_iff {c : Iss} (hp : c.gang.pair = none) (vat : Bool) :
    c.holdsRed vat = true ↔ c.gang.task.replay = true ∧ c.gang.nr = false ∧ c.gang.effects.length < 256 := by
  simp [Iss.holdsRed, Gang.holds, hp, and_assoc]

/-- The mode in which RED's accesses are checked. -/
def redMode (x : RedI) (c : Iss) (vat : Bool) : AccessMode :=
  { sp := vat, kind := .atomic, size := accSize x.ty, align := true, empty := lenZero c x.addr, own := hostOwn c x.op x.ty }

section
variable {x : RedI} {s : State} {c : Iss} {s1 s2 s3 : State} {base v index : Nat → Word} {ps : List Placed}
  (h : Issues s { vs := baseUses x.addr x.sp ++ vsrcUses x.b x.ty.is64 ++ indexUses x.addr, ss := addrRegs x.addr, ps := guardPreds x.g, g := x.g }
    (Instr.red x).bytes c)
  (hp : c.gang.pair = none) (hbase : takeBase c c.s x.addr x.sp = .ok (s1, base)) (hv : takeSrc c s1 x.ty.is64 x.b = .ok (s2, v))
  (hindex : takeIndex c s2 x.addr = .ok (s3, index)) (hroom : c.grp.stc < 63)
include h hp hbase hv hindex hroom

/-- A RED in the vat that is held. -/
theorem red_vat_held {s4 t : State} (hvat : vatSpace x.addr x.sp = true)
    (hcheck : checkAccesses c s3 (redMode x c true) (laneAccess c x.addr (accSize x.ty) base index) = .ok ps)
    (hready : readyVat c s3 true ps = .ok ()) (hfence : afterFences c s3 = .ok s4) (hrel : releaseFirst c s4 x.ord = .ok t)
    (hholds : c.holdsRed true = true) :
    exec (.red x) s = .next (State.after (updateBase c (t.modGang c.f.gang (fun g => { g with effects := g.effects ++
      [.redVat (redUpdates x.op x.ty ps v)] })) x.addr (accSize x.ty)) c) := by
  change execRed x s = _
  unfold execRed
  refine issue_ok h ?_
  rw [redMode] at hcheck
  simp only [hbase, hv, hindex, ok_bind, laneAccesses_eq, hvat, hcheck, roomFor_of_lt hroom, if_true, hready, hfence, hrel,
    pairVat_alone hp, hholds]

/-- A RED in the vat that is performed. -/
theorem red_vat_done {s4 t u : State} (hvat : vatSpace x.addr x.sp = true)
    (hcheck : checkAccesses c s3 (redMode x c true) (laneAccess c x.addr (accSize x.ty) base index) = .ok ps)
    (hready : readyVat c s3 true ps = .ok ()) (hfence : afterFences c s3 = .ok s4) (hrel : releaseFirst c s4 x.ord = .ok t)
    (hholds : c.holdsRed true = false) (hnr : becomeNR c t false = .ok u) :
    exec (.red x) s = .next (State.after (addStore c (updateBase c
      (atomFold c.f.gang c.gang.core true x.op x.ty v (fun _ => 0) ps u).1 x.addr (accSize x.ty)) (.red c.exec [])) c) := by
  change execRed x s = _
  unfold execRed
  refine issue_ok h ?_
  rw [redMode] at hcheck
  simp only [hbase, hv, hindex, ok_bind, laneAccesses_eq, hvat, hcheck, roomFor_of_lt hroom, if_true, hready, hfence, hrel,
    pairVat_alone hp, hholds, Bool.false_eq_true, if_false, hp, Option.isSome_none, Bool.and_false, hnr]

/-- A RED in memory that is held. -/
theorem red_mem_held {t u : State} (hvat : vatSpace x.addr x.sp = false)
    (hcheck : checkAccesses c s3 (redMode x c false) (laneAccess c x.addr (accSize x.ty) base index) = .ok ps)
    (hwatch : checkWatch c .atomic (accSize x.ty) (laneAccess c x.addr (accSize x.ty) base index) = .ok ())
    (htouch : touch c s3 (vasOf ps) = .ok t) (hholds : c.holdsRed false = true) (hrel : releaseFirst c t x.ord = .ok u) :
    exec (.red x) s = .next (State.after (updateBase c (u.modGang c.f.gang (fun g => { g with effects := g.effects ++
      [.red (redUpdates x.op x.ty ps v)] })) x.addr (accSize x.ty)) c) := by
  change execRed x s = _
  unfold execRed
  refine issue_ok h ?_
  rw [redMode] at hcheck
  simp only [hbase, hv, hindex, ok_bind, laneAccesses_eq, hvat, hcheck, roomFor_of_lt hroom, Bool.false_eq_true, if_false, hwatch, htouch]
  refine pairRun_alone (vals := []) hp ?_ _ _
  simp only [hholds, if_true, hrel, ok_bind]

/-- A RED in memory whose updates are outstanding. -/
theorem red_mem_out {t u : State} (hvat : vatSpace x.addr x.sp = false)
    (hcheck : checkAccesses c s3 (redMode x c false) (laneAccess c x.addr (accSize x.ty) base index) = .ok ps)
    (hwatch : checkWatch c .atomic (accSize x.ty) (laneAccess c x.addr (accSize x.ty) base index) = .ok ())
    (htouch : touch c s3 (vasOf ps) = .ok t) (hholds : c.holdsRed false = false) (hnr : becomeNR c t false = .ok u) :
    exec (.red x) s = .next (State.after (updateBase c (addStore c (fenceStores c u x.ord)
      (.red c.exec (redUpdates x.op x.ty ps v))) x.addr (accSize x.ty)) c) := by
  change execRed x s = _
  unfold execRed
  refine issue_ok h ?_
  rw [redMode] at hcheck
  simp only [hbase, hv, hindex, ok_bind, laneAccesses_eq, hvat, hcheck, roomFor_of_lt hroom, Bool.false_eq_true, if_false, hwatch, htouch]
  refine pairRun_alone (vals := []) hp ?_ _ _
  simp only [hholds, Bool.false_eq_true, if_false, Bool.false_and, hnr, ok_bind]

end

/-- Settles O19: the checks pass; then a RED is held, or its updates are performed in the vat or outstanding, and an OAPP's elements join the
channel. -/
theorem redAndAppend : Obligations.RedAndAppend := by
  unfold Obligations.RedAndAppend
  refine ⟨?_, ?_⟩
  · intro x s c s1 s2 s3 base v index ps h hp hbase hv hindex size vat as us held room hcheck hroom
    have hnot : ∀ b, ¬ room → c.holdsRed b = false := fun b hr => Bool.eq_false_iff.mpr (mt (holdsRed_iff hp b).mp hr)
    refine ⟨?_, ?_⟩
    · intro s4 t hvat hready hfence hrel
      rw [hvat] at hcheck
      refine ⟨fun hr => ?_, fun u hr hnr => ?_⟩
      · exact red_vat_held h hp hbase hv hindex hroom hvat hcheck hready hfence hrel ((holdsRed_iff hp true).mpr hr)
      · exact red_vat_done h hp hbase hv hindex hroom hvat hcheck hready hfence hrel (hnot true hr) hnr
    · intro t hvat hwatch htouch
      rw [hvat] at hcheck
      refine ⟨fun u hr hrel => ?_, fun u hr hnr => ?_⟩
      · exact red_mem_held h hp hbase hv hindex hroom hvat hcheck hwatch htouch ((holdsRed_iff hp false).mpr hr) hrel
      · exact red_mem_out h hp hbase hv hindex hroom hvat hcheck hwatch htouch (hnot false hr) hnr
  · intro x s c s1 s2 s3 v ps g h hp hd addr as es hcheck hfresh hwatch htouch happend hfence
    change execOapp x s = _
    unfold execOapp
    refine issue_ok h ?_
    have hagain : (lanesOf c.exec).filter (fun l => (c.gang.channel x.ch).done.contains (c.f.group, l)) = [] := by
      simp only [List.filter_eq_nil_iff, List.contains_iff_mem]
      exact hfresh
    have hcheck' : checkAccesses c s1 { sp := false, kind := .write, size := accSize x.ty, align := true, empty := false, own := noOwn }
      (laneAccesses c (fun _ => c.readS x.a + x.ofs.signExtend 64)) = .ok ps := hcheck
    have hwatch' : checkWatch c .write (accSize x.ty) (laneAccesses c (fun _ => c.readS x.a + x.ofs.signExtend 64)) = .ok () := hwatch
    have happend' : c.gang.append x.ch ((lanesOf c.exec).map (fun l =>
      ({ place := .lane c.f.group l, base := (c.readS x.a + x.ofs.signExtend 64).toNat, size := accSize x.ty, val := v l, line := none } : AppendElem))) =
        some g := happend
    simp only [hd, ok_bind, hcheck', hagain, List.isEmpty_nil, Bool.not_true, Bool.false_eq_true, if_false, hwatch', htouch, happend']
    refine pairRun_alone (vals := []) hp ?_ _ _
    simp only [hfence, ok_bind]
    rfl

/-! ## PREF, CFLUSH, FENCE, IFENCE and SETMOD (04 R69, R88-R91) -/

theorem releaseFirst_ar {c : Iss} {s t : State} (h : s.performAll c.f.gang c.f.group = some t) : releaseFirst c s .ar = .ok t := by
  simp [releaseFirst, h]

theorem fenceStores_rel (c : Iss) (s : State) : fenceStores c s .rel = s.modGroup c.f.gang c.f.group (fun g =>
    if g.stores.isEmpty then g else { g with fences := (g.stores.length :: g.fences).eraseDups }) := rfl

theorem fence_ar {x : FenceI} {s : State} {c : Iss} {t : State} (h : Issues s {} (Instr.fence x).bytes c)
    (ho : x.ord = .ar ∨ x.ord = .plain ∨ x.scope = .recov) (hall : c.s.performAll c.f.gang c.f.group = some t) :
    exec (.fence x) s = .next (State.after (if x.scope = .recov then t.makeDurable else t) c) := by
  change execFence x s = _
  unfold execFence
  refine issue_ok h ?_
  by_cases hs : x.scope = .recov
  · simp only [if_pos hs, releaseFirst_ar hall, ok_bind]
  · rcases ho with ho | ho | ho
    · simp only [if_neg hs, ho, releaseFirst_ar hall]
    · simp only [if_neg hs, ho, releaseFirst_ar hall]
    · exact absurd ho hs

/-- Settles O20: each member's body by the cases of its order and scope, or by its checks. -/
theorem orderAndRing : Obligations.OrderAndRing := by
  unfold Obligations.OrderAndRing
  refine ⟨?_, ?_, ?_, ?_, ?_⟩
  · intro x s c t base index h ha
    change execPref x s = _
    unfold execPref
    exact issue_ok h (addressRead_bind ha (fun s _ _ => .ok s))
  · intro x s c s1 t base index ps h ha hcheck hroom htouch lines
    change execCflush x s = _
    unfold execCflush
    refine issue_ok h ?_
    refine (addressRead_bind ha (fun s2 base index => do
      let ps ← checkAccesses c s2 { sp := false, kind := .read, size := 128, align := false, empty := false, own := noOwn }
        (laneAccesses c (addrOf c x.addr 128 base index))
      roomFor c.grp.stc
      let s3 ← touch c s2 (vasOf ps)
      let lines := (ps.map (fun p => p.x.pa / 128)).eraseDups
      .ok (addStore c (s3.dropHost x.scope c.gang.core (lines.filter (fun l => isHost (128 * l)))) (.flush c.exec lines)))).trans ?_
    simp only [laneAccesses_eq, hcheck, roomFor_of_lt hroom, htouch, ok_bind]
    rfl
  · intro x s c h
    refine ⟨fun t ho hall => fence_ar h ho hall, fun ho hs => ?_, fun ho hs => ?_⟩
    · change execFence x s = _
      unfold execFence
      refine issue_ok h ?_
      simp only [if_neg hs, ho, fenceStores_rel]
    · change execFence x s = _
      unfold execFence
      refine issue_ok h ?_
      simp only [if_neg hs, ho]
  · intro s c h hstc
    change execIfence s = _
    unfold execIfence
    exact issue_ok h (if_pos hstc)
  · intro x s c h b n hb hn hpos hidx hlo hhi
    change execSetmod x s = _
    unfold execSetmod
    refine issue_ok h ((if_neg ?_).trans (if_neg ?_))
    · change ¬ (b % 8 ≠ 0 ∨ n % 8 ≠ 0 ∨ n = 0 ∨ n ≤ x.idx.toNat)
      omega
    · change ¬ (c.gang.base + c.gang.size < b + n ∨ b < c.gang.base)
      omega

/-! ## The first failure decides (04 R71, 03 R57) -/

section
variable {c : Iss} {s : State} {m : AccessMode}

theorem checkAccesses_all {as : List Access} {f : Access → Xlat} (h : ∀ a, a ∈ as → checkAccess c s m a = .ok (f a)) :
    checkAccesses c s m as = .ok (as.map (fun a => { acc := a, x := f a })) := by
  have hboth : failing c s m as = [] ∧ passing c s m as = as.map (fun a => { acc := a, x := f a }) := by
    induction as with
    | nil => exact ⟨rfl, rfl⟩
    | cons a as ih =>
      obtain ⟨hf, hp⟩ := ih (fun b hb => h b (List.mem_cons_of_mem _ hb))
      have ha := h a List.mem_cons_self
      rw [failing_cons_ok ha, passing_cons_ok ha, hf, hp]
      exact ⟨rfl, rfl⟩
  rw [checkAccesses_eq, hboth.1, hboth.2]
  rfl

theorem failing_append_ok {pre : List Access} (h : ∀ b, b ∈ pre → ∃ x, checkAccess c s m b = .ok x) (as : List Access) :
    failing c s m (pre ++ as) = failing c s m as := by
  induction pre with
  | nil => rfl
  | cons b bs ih =>
    obtain ⟨x, hx⟩ := h b List.mem_cons_self
    rw [List.cons_append, failing_cons_ok hx, ih (fun b hb => h b (List.mem_cons_of_mem _ hb))]

theorem mem_failing {as : List Access} {b : Access} {k : Nat × Nat} :
    (b, k) ∈ failing c s m as ↔ b ∈ as ∧ checkAccess c s m b = .error k := by
  induction as with
  | nil => simp [failing]
  | cons a as ih =>
    cases ha : checkAccess c s m a with
    | ok x =>
      rw [failing_cons_ok ha, ih, List.mem_cons]
      constructor
      · exact fun ⟨hb, hk⟩ => ⟨.inr hb, hk⟩
      · rintro ⟨rfl | hb, hk⟩
        · rw [ha] at hk; cases hk
        · exact ⟨hb, hk⟩
    | error e =>
      rw [failing_cons_error ha, List.mem_cons, ih, List.mem_cons]
      constructor
      · rintro (he | ⟨hb, hk⟩)
        · cases he; exact ⟨.inl rfl, ha⟩
        · exact ⟨.inr hb, hk⟩
      · rintro ⟨rfl | hb, hk⟩
        · rw [ha] at hk; cases hk; exact .inl rfl
        · exact .inr ⟨hb, hk⟩

theorem getLsbD_foldl_or (xs : List (Access × (Nat × Nat))) (a : LaneMask) (l : Nat) :
    (xs.foldl (fun m x => m ||| x.1.lanes) a).getLsbD l = true ↔ a.getLsbD l = true ∨ ∃ x, x ∈ xs ∧ x.1.lanes.getLsbD l = true := by
  induction xs generalizing a with
  | nil => simp
  | cons x xs ih => simp [ih, or_assoc]

/-- The first access that fails gives the trap its cause and address; all that fail give it their lanes. -/
theorem checkAccesses_first {pre post : List Access} {a : Access} {e : Nat × Nat} (hpre : ∀ b, b ∈ pre → ∃ x, checkAccess c s m b = .ok x)
    (ha : checkAccess c s m a = .error e) : ∃ lanes : LaneMask,
      (∀ l, lanes.getLsbD l = true ↔ ∃ b, b ∈ pre ++ a :: post ∧ b.lanes.getLsbD l = true ∧ ∃ k, checkAccess c s m b = .error k) ∧
      checkAccesses c s m (pre ++ a :: post) = .error (walkStop c (m.translated (pre ++ a :: post))
        (.trap { cause := e.1, sub := e.2, kind := m.kind.code, lanes := lanes, addr := a.addr, info := 0 })) := by
  have hfail : failing c s m (pre ++ a :: post) = (a, e) :: failing c s m post := by
    rw [failing_append_ok hpre, failing_cons_error ha]
  refine ⟨(failing c s m (pre ++ a :: post)).foldl (fun m x => m ||| x.1.lanes) 0, fun l => ?_, ?_⟩
  · rw [getLsbD_foldl_or]
    constructor
    · rintro (h0 | ⟨⟨b, k⟩, hb, hl⟩)
      · simp at h0
      · obtain ⟨hmem, hk⟩ := mem_failing.mp hb
        exact ⟨b, hmem, hl, k, hk⟩
    · rintro ⟨b, hmem, hl, k, hk⟩
      exact .inr ⟨(b, k), mem_failing.mpr ⟨hmem, hk⟩, hl⟩
  · rw [checkAccesses_eq, hfail]
    rfl

end

section
variable {c : Iss} {vas : List Word} {k : TrapInfo}

theorem touch_eq {s t : State} (h : s.touchPages c.gang.core c.gang.ctx vas = some t) : touch c s vas = .ok t := by simp [touch, h]

theorem touch_full {s : State} (h : s.touchPages c.gang.core c.gang.ctx vas = none) : touch c s vas = .error (.stall .table) := by
  simp [touch, h]

theorem walkStop_nil : walkStop c [] (.trap k) = .trap k := rfl

theorem walkStop_walked {t : State} (hv : vas ≠ []) (h : c.s.touchPages c.gang.core c.gang.ctx vas = some t) :
    walkStop c vas (.trap k) = .walked t k := by simp [walkStop, touch_eq h, hv]

theorem walkStop_full (h : c.s.touchPages c.gang.core c.gang.ctx vas = none) : walkStop c vas (.trap k) = .stall .table := by
  simp [walkStop, touch_full h]

end

/-- Settles O15. -/
theorem accessChecks : Obligations.AccessChecks := by
  unfold Obligations.AccessChecks
  refine ⟨fun c s m as => ⟨fun f h => checkAccesses_all h, ?_, ?_⟩, fun c vas k => ⟨?_, fun t => walkStop_walked, walkStop_full⟩⟩
  · rintro pre post a e rfl hpre ha
    exact checkAccesses_first hpre ha
  · intro a hm ha
    exact if_pos ⟨hm, ha⟩
  · rintro rfl
    exact walkStop_nil

end Sys2Proof.Proofs.Access
end

section
/-! PROOFS. Additions of several lanes to one place -/

namespace Sys2Proof.Proofs.Adds
open Sys2Proof Sys2Proof.Machine Sys2Proof.Claims

/-! ## What a write of a number leaves in memory -/

theorem foldl_putByte_mem (ws : List ByteWrite) (s : State) :
    (ws.foldl State.putByte s).mem = ws.foldl (fun m w => m.write w.addr w.val) s.mem := by
  induction ws generalizing s with
  | nil => rfl
  | cons w ws ih => exact ih _

theorem foldl_write_enumFrom (a : Nat) (dur : Bool) (bs : List Byte) (k : Nat) (m : Memory) :
    ((enumFrom k bs).map (fun b => ({ addr := a + b.1, val := b.2, dur := dur } : ByteWrite))).foldl (fun m w => m.write w.addr w.val) m =
      m.writeBytes (a + k) bs := by
  induction bs generalizing k m with
  | nil => rfl
  | cons b bs ih => exact ih (k + 1) _

@[simp] theorem rawWrite_leWrites_mem (s : State) (a n v : Nat) (dur : Bool) :
    (s.rawWrite (leWrites a n v dur)).mem = s.mem.writeLE a n v := by
  change ((leWrites a n v dur).foldl State.putByte s).mem = _
  rw [foldl_putByte_mem]
  exact foldl_write_enumFrom a dur (leBytes n v) 0 s.mem

theorem readLE_lt (m : Memory) (a n : Nat) : m.readLE a n < 2 ^ (8 * n) := by
  have hlt : ∀ bs : List Byte, leNat bs < 2 ^ (8 * bs.length) := by
    intro bs
    induction bs with
    | nil => simp [leNat]
    | cons b bs ih =>
      have hb := b.isLt
      rw [leNat, List.length_cons, show 8 * (bs.length + 1) = 8 + 8 * bs.length by omega, Nat.pow_add]
      omega
  have h := hlt (m.readBytes a n)
  rwa [Memory.readBytes_length] at h

/-! ## Additions in lane order (04 R79, R80) -/

theorem atomNew_add {ty : Ty} (h : ty = .i32 ∨ ty = .n32) (old v cmp : Nat) : atomNew .add ty old v cmp = (old + v) % 2 ^ 32 := by
  rcases h with rfl | rfl <;> exact (Nat.add_mod old v (2 ^ 32)).symm

theorem accSize_add {ty : Ty} (h : ty = .i32 ∨ ty = .n32) : accSize ty = 4 := by rcases h with rfl | rfl <;> rfl

section
variable {gang core pa : Nat} {ty : Ty} {v : Nat → Word} (ht : ty = .i32 ∨ ty = .n32)
include ht

/-- The state after one addition. -/
theorem atomFold_add_cons (p : Placed) (ps : List Placed) (s : State) :
    ∃ s1 : State, s1.mem = s.mem.writeLE p.x.pa 4 ((s.mem.readLE p.x.pa 4 + (v p.acc.lane).toNat) % 2 ^ 32) ∧
      (atomFold gang core false .add ty v (fun _ => 0) (p :: ps) s).1 = (atomFold gang core false .add ty v (fun _ => 0) ps s1).1 := by
  refine ⟨_, ?_, rfl⟩
  simp only [Bool.false_eq_true, if_false, State.durPend_mem, rawWrite_leWrites_mem, accSize_add ht, atomNew_add ht]

theorem atomFold_add {ps : List Placed} {s : State} (hm : s.mem.wf = true) (hps : ∀ p, p ∈ ps → p.x.pa = pa) :
    let t := (atomFold gang core false .add ty v (fun _ => 0) ps s).1
    t.mem.readLE pa 4 = (s.mem.readLE pa 4 + (ps.map (fun p => (v p.acc.lane).toNat)).sum) % 2 ^ 32 ∧
    ∀ a, a < pa ∨ pa + 4 ≤ a → t.mem.read a = s.mem.read a := by
  induction ps generalizing s with
  | nil => exact ⟨(Nat.mod_eq_of_lt (readLE_lt _ _ 4)).symm, fun _ _ => rfl⟩
  | cons p ps ih =>
    obtain ⟨s1, hmem, hfold⟩ := atomFold_add_cons (gang := gang) (core := core) (v := v) ht p ps s
    obtain ⟨hsum, hrest⟩ := ih (s := s1) (hmem ▸ Memory.writeLE_wf hm _ _ _) (fun q hq => hps q (List.mem_cons_of_mem _ hq))
    rw [hps p List.mem_cons_self] at hmem
    rw [hfold]
    refine ⟨?_, fun a ha => ?_⟩
    · rw [hsum, hmem, Memory.readLE_writeLE hm, List.map_cons, List.sum_cons]
      omega
    · rw [hrest a ha, hmem, Memory.writeLE, Memory.read_writeBytes_outside _ (by simpa using ha)]

end

/-- Settles O18, by induction on the lanes in order. -/
theorem atomicAddsTotal : Obligations.AtomicAddsTotal := by
  unfold Obligations.AtomicAddsTotal
  intro s gang core pa ty v ps ht hm hps
  exact atomFold_add ht hm hps

end Sys2Proof.Proofs.Adds
end

section
/-! PROOFS. What an issue keeps when its body keeps it -/

namespace Sys2Proof.Proofs.Yield
open Sys2Proof Sys2Proof.Machine Sys2Proof.Claims

/-! ## What a body's answer keeps -/

/-- A stop that carries a state carries one with the property. -/
def Stop.Keeps (P : State → Prop) : Stop → Prop
  | .walked t _ => P t
  | .hold _ t => P t
  | _ => True

/-- An answer is good, or stops in a state with the property. -/
def Yields {α : Type} (P : State → Prop) (Q : α → Prop) : Except Stop α → Prop
  | .ok a => Q a
  | .error e => Stop.Keeps P e

section
variable {α β : Type} {P : State → Prop} {Q : α → Prop} {Q' : β → Prop}

theorem Yields.ok {a : α} (h : Q a) : Yields P Q (.ok a) := h

theorem Yields.fault {cause sub : Nat} {lanes : LaneMask} {addr : Option Word} {kind : Nat} :
    Yields P Q (.error (Machine.fault cause sub lanes addr kind)) := by cases addr <;> exact trivial

theorem Yields.stall {w : Stall} : Yields P Q (.error (.stall w)) := trivial

theorem Yields.bind {r : Except Stop α} {f : α → Except Stop β} (h : Yields P Q r) (hf : ∀ a, Q a → Yields P Q' (f a)) :
    Yields P Q' (r >>= f) := by
  cases r with
  | ok a => exact hf a h
  | error e => exact h

theorem Yields.map {r : Except Stop α} {f : α → β} (h : Yields P Q r) (hf : ∀ a, Q a → Q' (f a)) : Yields P Q' (r.map f) := by
  cases r with
  | ok a => exact hf a h
  | error e => exact h

theorem Yields.mono {R : α → Prop} {r : Except Stop α} (h : Yields P Q r) (hq : ∀ a, Q a → R a) : Yields P R r := by
  cases r with
  | ok a => exact hq a h
  | error e => exact h

/-- A check: it answers nothing and stops, if at all, without a state. -/
theorem Yields.ite {p : Prop} [Decidable p] {a b : Except Stop α} (ha : p → Yields P Q a) (hb : ¬ p → Yields P Q b) :
    Yields P Q (if p then a else b) := by
  split
  · exact ha ‹_›
  · exact hb ‹_›

end

/-! ## The frame of an issue keeps what gangs and cores do not touch -/

/-- A property that says nothing of the gangs and the cores. -/
def Beyond (P : State → Prop) : Prop := ∀ s t, gangsOnly s t → P s → P t

theorem deadlockCheck_gangsOnly (s : State) (gang slot : Nat) : gangsOnly s (s.deadlockCheck gang slot) := by
  unfold State.deadlockCheck
  split
  · split
    · split
      · exact gangsOnly_refl s
      · exact raiseTrap_gangsOnly _ _ _ _ _
    · exact gangsOnly_refl s
  · exact gangsOnly_refl s

theorem stallCheck_gangsOnly (s : State) (f : Focus) (w : Stall) : gangsOnly s (stallCheck s f w) := by
  unfold stallCheck
  split
  · exact gangsOnly_trans (modGroup_gangsOnly s _ _ _) (deadlockCheck_gangsOnly _ _ _)
  · exact deadlockCheck_gangsOnly _ _ _
  · exact gangsOnly_refl s

theorem gangsOnly_ite {s a b : State} {p : Prop} [Decidable p] (ha : gangsOnly s a) (hb : gangsOnly s b) : gangsOnly s (if p then a else b) := by
  split
  · exact ha
  · exact hb

theorem countHold_gangsOnly (x : Iss) (w : Stall) (s : State) : gangsOnly s (countHold x w s) :=
  gangsOnly_ite (modCore_gangsOnly s _ _) (gangsOnly_refl s)

section
variable {P : State → Prop} (hP : Beyond P)
include hP

/-- An instruction keeps what its body keeps. -/
theorem issueAt_keeps {len : Nat} {n : Need} {adv : Bool} {body : Iss → Except Stop State} {s t : State} (hs : P s)
    (hb : ∀ c : Iss, gangsOnly s c.s → P c.s → Yields P P (body c)) (ht : issueAt len n adv body s = .next t) : P t := by
  unfold issueAt at ht
  split at ht
  · cases ht
  · split at ht
    · cases ht
    next x hx =>
      have hxs : x.s = s := by
        unfold State.iss? at hx
        split at hx <;> cases hx
        rfl
      dsimp only at ht
      split at ht
      · cases ht; exact hP _ _ (raiseTrap_gangsOnly _ _ _ _ _) hs
      · split at ht
        · cases ht; exact hP _ _ (modSplit_gangsOnly _ _ _) hs
        · split at ht
          · cases ht
            exact hP _ _ (gangsOnly_trans (modSplit_gangsOnly _ _ _) (gangsOnly_trans (advance_gangsOnly _ _ _) (countIssue_gangsOnly _ _))) hs
          · split at ht
            · cases ht; exact hP _ _ (modSplit_gangsOnly _ _ _) hs
            · have hgo : gangsOnly s (s.modSplit x.f Split.go) := modSplit_gangsOnly _ _ _
              have hbody := hb { x with s := s.modSplit x.f Split.go, exec := x.sp.lanes &&& x.grp.guardMask n.g } hgo (hP _ _ hgo hs)
              split at ht
              next s' hr =>
                cases ht
                rw [hr] at hbody
                refine hP _ _ (countIssue_gangsOnly _ _) ?_
                split
                · exact hP _ _ (advance_gangsOnly _ _ _) hbody
                · exact hbody
              next => cases ht; exact hP _ _ (gangsOnly_trans (trapCopy_gangsOnly _ _ _) (raiseTrap_gangsOnly _ _ _ _ _)) hs
              next => cases ht; exact hP _ _ (gangsOnly_trans (trapCopy_gangsOnly _ _ _) (raiseTrap_gangsOnly _ _ _ _ _)) hs
              next s' k hr =>
                cases ht
                rw [hr] at hbody
                exact hP _ _ (gangsOnly_trans (trapCopy_gangsOnly _ _ _) (raiseTrap_gangsOnly _ _ _ _ _)) hbody
              next => cases ht; exact hP _ _ (gangsOnly_trans (trapCopy_gangsOnly _ _ _) (raiseTrap_gangsOnly _ _ _ _ _)) hs
              next w s' hr =>
                cases ht
                rw [hr] at hbody
                exact hP _ _ (modSplit_gangsOnly _ _ _) hbody
              next =>
                cases ht
                exact hP _ _ (gangsOnly_trans (countHold_gangsOnly _ _ _)
                  (gangsOnly_trans (modSplit_gangsOnly _ _ _) (stallCheck_gangsOnly _ _ _))) hs

theorem issue_keeps {i : Instr} {n : Need} {body : Iss → Except Stop State} {s t : State} (hs : P s)
    (hb : ∀ c : Iss, gangsOnly s c.s → P c.s → Yields P P (body c)) (ht : issue i n body s = .next t) : P t := issueAt_keeps hP hs hb ht

theorem issueJump_keeps {i : Instr} {n : Need} {body : Iss → Except Stop State} {s t : State} (hs : P s)
    (hb : ∀ c : Iss, gangsOnly s c.s → P c.s → Yields P P (body c)) (ht : issueJump i n body s = .next t) : P t := issueAt_keeps hP hs hb ht

theorem issueWait_keeps {i : Instr} {n : Need} {body : Iss → Except Stop State} {s t : State} (hs : P s)
    (hb : ∀ c : Iss, gangsOnly s c.s → P c.s → Yields P P (body c)) (ht : issueWait i n body s = .next t) : P t := by
  unfold issueWait at ht
  split at ht
  next s' hs' => cases ht; exact hP _ _ (deadlockCheck_gangsOnly _ _ _) (issueAt_keeps hP hs hb hs')
  next hne => exact absurd ht (hne t)

end

/-! ## Properties of memory and the vats alone -/

/-- A property that says nothing beyond memory and the vats. -/
def OfBytes (P : State → Prop) : Prop := ∀ s t : State, t.mem = s.mem → t.vat = s.vat → P s → P t

theorem OfBytes.beyond {P : State → Prop} (h : OfBytes P) : Beyond P := by
  rintro s t ⟨gs, cs, rfl⟩ hs
  exact h s _ rfl rfl hs

theorem gangsOnly_setPort (s : State) (gang slot q : Nat) (p : Option Port) : gangsOnly s (setPort s gang slot q p) := by
  unfold setPort
  split
  · exact modGroup_gangsOnly s _ _ _
  · exact gangsOnly_refl s

theorem gangsOnly_putStream (s : State) (g : Gang) (e : Nat) (v : Stream) : gangsOnly s (s.putStream g e v) := by
  unfold State.putStream setStream
  dsimp only
  split
  · exact modCore_gangsOnly s _ _
  · exact gangsOnly_refl s

theorem gangsOnly_modPair (s : State) (gang : Nat) (h : Pair → Pair) : gangsOnly s (s.modPair gang h) := modGang_gangsOnly s _ _

theorem gangsOnly_forward (s : State) (other key : Nat) (vals : List Word) : gangsOnly s (s.forward other key vals) := modGang_gangsOnly s _ _

theorem gangsOnly_setPairState (s : State) (gang other : Nat) (st : PairState) : gangsOnly s (s.setPairState gang other st) :=
  gangsOnly_trans (gangsOnly_modPair s _ _) (gangsOnly_modPair _ _ _)

theorem gangsOnly_logEffect (s : State) (gang other key : Nat) (sig : W32) (vals : List Word) : gangsOnly s (s.logEffect gang other key sig vals) :=
  gangsOnly_trans (gangsOnly_modPair s _ _) (gangsOnly_forward _ _ _ _)

theorem Stop.keeps_shareTrap {P : State → Prop} {pc : Word} {e : Stop} (h : Stop.Keeps P e) : Stop.Keeps P (shareTrap pc e) := by
  cases e <;> exact h

section
variable {P : State → Prop} (hP : Beyond P) {c : Iss} {s : State}
include hP

theorem popCarry_keeps (hs : P s) (k : Fin 8) : Yields P (fun y => P y.1) (popCarry c s k) := by
  unfold popCarry
  split
  · exact .stall
  · split
    · exact .stall
    · split
      · exact .stall
      · split
        · exact .stall
        · exact .ok (hP _ _ (modGroup_gangsOnly s _ _ _) hs)

theorem reserveCarry_keeps (hs : P s) (k : Fin 8) : Yields P (fun y => P y.1) (reserveCarry c s k) := by
  unfold reserveCarry
  split
  · exact .stall
  · split
    · exact .stall
    · split
      · exact .stall
      · exact .ok (hP _ _ (modGroup_gangsOnly s _ _ _) hs)

theorem popPort_keeps (hs : P s) (q : Nat) : Yields P (fun y => P y.1) (popPort c s q) := by
  unfold popPort
  split
  · exact .stall
  · split
    · exact .fault
    · split
      · exact .ite (fun _ => .stall) (fun _ => .fault)
      · dsimp only
        split
        · exact .stall
        · split
          · exact .ok (hP _ _ (gangsOnly_setPort _ _ _ _ _) hs)
          · exact .ok (hP _ _ (gangsOnly_trans (gangsOnly_setPort _ _ _ _ _) (gangsOnly_putStream _ _ _ _)) hs)

theorem takeV_keeps (hs : P s) (r : VOp) : Yields P (fun y => P y.1) (takeV c s r) := by
  unfold takeV
  split
  · exact popCarry_keeps hP hs _
  · split
    · exact popPort_keeps hP hs _
    · exact .ok hs

theorem takeTy_keeps (hs : P s) (wide : Bool) (r : VOp) : Yields P (fun y => P y.1) (takeTy c s wide r) := by
  unfold takeTy
  split
  · exact .ok hs
  · exact (takeV_keeps hP hs r).map (fun _ h => h)

theorem takeSrc_keeps (hs : P s) (wide : Bool) (b : VSrc) : Yields P (fun y => P y.1) (takeSrc c s wide b) := by
  cases b with
  | reg r => exact takeTy_keeps hP hs wide r
  | short v => exact .ok hs
  | long v => exact .ok hs

theorem takeBase_keeps (hs : P s) (e : AddrExp) (sp : Bool) : Yields P (fun y => P y.1) (takeBase c s e sp) := by
  cases e with
  | lane a _ _ => exact takeTy_keeps hP hs _ a
  | _ => exact .ok hs

theorem takeIndex_keeps (hs : P s) (e : AddrExp) : Yields P (fun y => P y.1) (takeIndex c s e) := by
  cases e with
  | indexed _ r _ _ => exact takeTy_keeps hP hs false r
  | _ => exact .ok hs

/-! ## What is done once for a pair -/

theorem pairRun_keeps (hc : P c.s) (hs : P s) {sig : List Byte} {perform : State → Performed} {finish : List Word → State → Except Stop State}
    (hperform : ∀ t, P t → Yields P (fun y => P y.1) (perform t)) (hfinish : ∀ v t, P t → Yields P P (finish v t)) :
    Yields P P (pairRun c s sig perform finish) := by
  have hmod : ∀ t gang h, P t → P (t.modPair gang h) := fun t gang h => hP _ _ (gangsOnly_modPair t gang h)
  have hstate : ∀ t gang other st, P t → P (t.setPairState gang other st) := fun t gang other st => hP _ _ (gangsOnly_setPairState t gang other st)
  have hsign : ∀ gang h, Yields P P (.error (.hold .busy (c.s.modPair gang h))) := fun gang h => hmod _ _ _ hc
  have hhold : ∀ gang other st, Yields P P (.error (.hold .busy (c.s.setPairState gang other st))) := fun gang other st => hstate _ _ _ _ hc
  unfold pairRun
  split
  · have hp := hperform s hs
    split
    next e he => rw [he] at hp; exact hp
    next s1 vals he => rw [he] at hp; exact hfinish vals s1 hp
    next s1 he => rw [he] at hp; exact hp
  · dsimp only
    split
    · split
      · split
        · exact hhold _ _ _
        · exact hfinish _ _ (hmod _ _ _ hs)
      · split
        · exact trivial
        · split
          · exact .stall
          · exact hsign _ _
    · split
      · split
        · split
          · exact hfinish _ _ (hP _ _ (gangsOnly_forward _ _ _ _) (hmod _ _ _ (hmod _ _ _ hs)))
          · exact hhold _ _ _
        · exact hhold _ _ _
      · split
        · exact hhold _ _ _
        · split
          · have hp := hperform s hs
            split
            next e he => rw [he] at hp; exact Stop.keeps_shareTrap hp
            next s1 vals he => rw [he] at hp; exact hfinish vals _ (hP _ _ (gangsOnly_logEffect _ _ _ _ _ _) hp)
            next s1 he => rw [he] at hp; exact hp
          · split
            · exact .stall
            · exact hsign _ _

theorem pairLoad_keeps (hs : P s) {read : State → Except Stop (State × List Word)} {finish : List Word → State → Except Stop State}
    (hread : ∀ t, P t → Yields P (fun y => P y.1) (read t)) (hfinish : ∀ v t, P t → Yields P P (finish v t)) :
    Yields P P (pairLoad c s read finish) := by
  have hr := hread s hs
  unfold pairLoad
  split
  · split
    next e he => rw [he] at hr; exact hr
    next s1 vals he => rw [he] at hr; exact hfinish vals s1 hr
  · dsimp only
    split
    · split
      · exact hfinish _ _ (hP _ _ (gangsOnly_modPair _ _ _) hs)
      · split
        · exact trivial
        · exact .stall
    · split
      next e he => rw [he] at hr; exact Stop.keeps_shareTrap hr
      next s1 vals he => rw [he] at hr; exact hfinish vals _ (hP _ _ (gangsOnly_forward _ _ _ _) hr)

theorem pairVat_keeps (hs : P s) (sig : List Byte) : Yields P P (pairVat c s sig) := by
  unfold pairVat
  split
  · exact .ok hs
  · exact .ite (fun _ => .stall) (fun _ => .ok (hP _ _ (gangsOnly_modPair _ _ _) hs))

theorem updateBase_keeps (hs : P s) (e : AddrExp) (size : Nat) : P (updateBase c s e size) := by
  cases e with
  | postinc a inc => exact hP _ _ (writeU_gangsOnly s _ _) hs
  | modulo m inc => exact hP _ _ (writeU_gangsOnly s _ _) hs
  | _ => exact hs

theorem addStore_keeps (hs : P s) (p : PendStore) : P (addStore c s p) := hP _ _ (modGroup_gangsOnly s _ _ _) hs

theorem addLoad_keeps (hs : P s) (l : PendLoad) : P (addLoad c s l) := hP _ _ (modGroup_gangsOnly s _ _ _) hs

theorem fenceStores_keeps (hs : P s) (ord : MemOrder) : P (fenceStores c s ord) := by
  cases ord with
  | plain => exact hs
  | acq => exact hs
  | rel => exact hP _ _ (modGroup_gangsOnly s _ _ _) hs
  | ar => exact hP _ _ (modGroup_gangsOnly s _ _ _) hs

end

/-! ## Checks -/

section
variable {P : State → Prop} {c : Iss} {s : State}

theorem roomFor_keeps (n : Nat) : Yields P (fun _ => True) (roomFor n) := .ite (fun _ => trivial) (fun _ => .stall)

theorem readyVat_keeps (write : Bool) (ps : List Placed) : Yields P (fun _ => True) (readyVat c s write ps) :=
  .ite (fun _ => .stall) (fun _ => trivial)

theorem checkWatch_keeps (kind : AccKind) (size : Nat) (as : List Access) : Yields P (fun _ => True) (checkWatch c kind size as) := by
  unfold checkWatch
  dsimp only
  split <;> exact trivial

theorem firstFailure_keeps {kind : AccKind} {bad : List (Access × (Nat × Nat))} {e : Stop} (h : firstFailure kind bad = some e) :
    ∃ k, e = .trap k := by
  cases bad with
  | nil => cases h
  | cons x xs => cases h; exact ⟨_, rfl⟩

theorem consume_keeps (core : Nat) (sp : Bool) (kind : AccKind) (size : Nat) (ps : List Placed) :
    Yields P (fun _ => True) (consume s core sp kind size ps) := by
  unfold consume
  dsimp only
  split
  next e he =>
    obtain ⟨k, rfl⟩ := firstFailure_keeps he
    exact trivial
  next => exact trivial

end

section
variable {P : State → Prop} (hP : OfBytes P) {c : Iss} {s : State}
include hP

theorem touch_keeps (hs : P s) (vas : List Word) : Yields P P (touch c s vas) := by
  unfold touch
  split
  · exact .stall
  next t ht =>
    obtain ⟨hmem, hvat, -⟩ := State.touchPages_same ht
    exact .ok (hP s t hmem hvat hs)

theorem walkStop_keeps (hc : P c.s) (vas : List Word) (k : TrapInfo) : Stop.Keeps P (walkStop c vas (.trap k)) := by
  have ht := touch_keeps (c := c) hP hc vas
  unfold walkStop
  split
  next he =>
    rw [he] at ht
    split
    · exact trivial
    · exact ht
  next he => rw [he] at ht; exact ht
  next => exact trivial

theorem checkAccesses_keeps (hc : P c.s) (m : AccessMode) (as : List Access) : Yields P (fun _ => True) (checkAccesses c s m as) := by
  unfold checkAccesses
  dsimp only
  split
  next e he =>
    obtain ⟨k, rfl⟩ := firstFailure_keeps he
    exact walkStop_keeps hP hc _ k
  next => exact trivial

end

end Sys2Proof.Proofs.Yield
end

section
/-! PROOFS. The bytes a store leaves alone -/

namespace Sys2Proof.Proofs.StoreFrame
open Sys2Proof Sys2Proof.Machine Sys2Proof.Claims Sys2Proof.Proofs.Yield

/-! ## A store to memory issues without a byte changed (04 R73, R75) -/

/-- Memory and the vats hold these bytes. -/
def Holds (m v : Memory) (t : State) : Prop := t.mem = m ∧ t.vat = v

theorem holds_ofBytes (m v : Memory) : OfBytes (Holds m v) := by
  rintro s t hmem hvat ⟨h1, h2⟩
  exact ⟨hmem.trans h1, hvat.trans h2⟩

section
variable {P : State → Prop} (hP : OfBytes P)
include hP

theorem storeBody_keeps {c : Iss} {s : State} {e : AddrExp} {sp : Bool} (hv : vatSpace e sp = false) (hc : P c.s) (hs : P s)
    (ord : MemOrder) (size : Nat) (mask : LaneMask) (as : List Access) (v : Nat → Word) :
    Yields P P (storeBody c s e sp ord size mask as v) := by
  have hb := hP.beyond
  unfold storeBody
  simp only [hv, Bool.false_eq_true, if_false]
  refine (checkAccesses_keeps hP hc _ as).bind (fun ps _ => (roomFor_keeps _).bind (fun _ _ => ?_))
  refine (checkWatch_keeps _ _ as).bind (fun _ _ => (touch_keeps hP hs _).bind (fun s1 hs1 => ?_))
  refine pairRun_keeps hb hc hs1 (fun t ht => ?_) (fun _ t ht => ?_)
  · exact .ok (addStore_keeps hb (fenceStores_keeps hb ht ord) _)
  · exact .ok (updateBase_keeps hb ht e size)

theorem storeVec_keeps {i : Instr} {x : LdI} {s t : State} (hv : vatSpace x.addr x.sp = false) (hs : P s)
    (ht : storeVec i x s = .next t) : P t := by
  have hb := hP.beyond
  unfold storeVec at ht
  refine issue_keeps hb hs (fun c _ hc => ?_) ht
  refine (takeBase_keeps hb hc _ _).bind (fun y hy => (takeIndex_keeps hb hy _).bind (fun z hz => ?_))
  exact (takeTy_keeps hb hz _ _).bind (fun w hw => storeBody_keeps hP hv hc hw _ _ _ _ _)

theorem execStu_keeps {x : LdUI} {s t : State} (hv : vatSpace x.addr x.sp = false) (hs : P s) (ht : execStu x s = .next t) : P t := by
  unfold execStu at ht
  exact issue_keeps hP.beyond hs (fun c _ hc => storeBody_keeps hP hv hc hc _ _ _ _ _) ht

end

/-! ## A store to the vat -/

theorem vatWrite_vat (s : State) (core a : Nat) (b : Byte) : ∃ m, s.vatWrite core a b = { s with vat := m } ∧
    ∀ k, k ≠ vatKey core a → m.read k = s.vat.read k := by
  unfold State.vatWrite
  split
  · exact ⟨s.vat, rfl, fun _ _ => rfl⟩
  · exact ⟨_, rfl, fun k hk => Memory.read_write_other _ (Ne.symm hk) _⟩

theorem foldl_vatWrite (core : Nat) (ws : List ByteWrite) (s : State) :
    ∃ m, ws.foldl (fun (s : State) w => s.vatWrite core w.addr w.val) s = { s with vat := m } ∧
      ∀ k, (∀ w, w ∈ ws → k ≠ vatKey core w.addr) → m.read k = s.vat.read k := by
  induction ws generalizing s with
  | nil => exact ⟨s.vat, rfl, fun _ _ => rfl⟩
  | cons w ws ih =>
    obtain ⟨m1, h1, hr1⟩ := vatWrite_vat s core w.addr w.val
    obtain ⟨m2, h2, hr2⟩ := ih { s with vat := m1 }
    refine ⟨m2, ?_, fun k hk => ?_⟩
    · rw [List.foldl_cons, h1, h2]
    · rw [hr2 k (fun x hx => hk x (List.mem_cons_of_mem _ hx))]
      exact hr1 k (hk w List.mem_cons_self)

theorem mem_enumFrom {α : Type} {xs : List α} {n : Nat} {y : Nat × α} (h : y ∈ enumFrom n xs) : n ≤ y.1 ∧ y.1 < n + xs.length := by
  induction xs generalizing n with
  | nil => cases h
  | cons x xs ih =>
    rcases List.mem_cons.mp h with rfl | h
    · simp
    · have := ih h
      rw [List.length_cons]
      omega

theorem mem_leWrites {a n v : Nat} {dur : Bool} {w : ByteWrite} (h : w ∈ leWrites a n v dur) : ∃ i, i < n ∧ w.addr = a + i := by
  obtain ⟨y, hy, rfl⟩ := List.mem_map.mp h
  have := mem_enumFrom hy
  rw [leBytes_length] at this
  exact ⟨y.1, by omega, rfl⟩

theorem mem_storeWrites {size : Nat} {ps : List Placed} {v : Nat → Word} {w : ByteWrite} (h : w ∈ storeWrites size ps v) :
    ∃ p, p ∈ ps ∧ ∃ i, i < size ∧ w.addr = p.x.pa + i := by
  obtain ⟨p, hp, hw⟩ := List.mem_flatMap.mp h
  exact ⟨p, hp, mem_leWrites hw⟩

/-- Settles O16: no step of a store to memory writes memory or a vat; one to the vat writes the bytes of its accesses one by one. -/
theorem storeFrames : Obligations.StoreFrames := by
  unfold Obligations.StoreFrames
  refine ⟨⟨?_, ?_, ?_⟩, ?_⟩
  · intro x s t hv ht
    exact storeVec_keeps (i := .stExt x) (holds_ofBytes s.mem s.vat) hv ⟨rfl, rfl⟩ ht
  · intro x s t ht
    exact storeVec_keeps (i := .stBase x) (x := Base3.toLd x) (holds_ofBytes s.mem s.vat) rfl ⟨rfl, rfl⟩ ht
  · intro x s t hv ht
    exact execStu_keeps (x := x) (holds_ofBytes s.mem s.vat) hv ⟨rfl, rfl⟩ ht
  · intro s core size ps v
    obtain ⟨m, hm, hr⟩ := foldl_vatWrite core (storeWrites size ps v) s
    unfold State.storeVat
    rw [hm]
    refine ⟨fun k hk => hr k (fun w hw => ?_), _, _, rfl⟩
    obtain ⟨p, hp, i, hi, ha⟩ := mem_storeWrites hw
    rw [ha]
    exact hk p hp i hi

end Sys2Proof.Proofs.StoreFrame
end

section
/-! PROOFS. The stash, sync words, tile moves and queues -/

namespace Sys2Proof.Proofs.VatMembers
open Sys2Proof Sys2Proof.Machine Sys2Proof.Claims Sys2Proof.Proofs.Control Sys2Proof.Proofs.Access

/-! ## The stash (07 R148, R149) -/

section
variable {c : Iss} {t : State} {ls : List (StashUnit × Nat)}

theorem writeBackAll_alone (hp : c.gang.pair = none) (hroom : c.grp.stc < 63) (hall : c.s.performAll c.f.gang c.f.group = some t)
    (after : State → State) : writeBackAll c ls after =
      .ok (addStore c (after (ls.foldl (fun s l => s.writeBack c.gang.core l.1 l.2) t)) (.bytes c.exec [] [])) := by
  unfold writeBackAll
  simp only [roomFor_of_lt hroom, ok_bind]
  refine pairRun_alone (vals := []) hp ?_ _ _
  simp only [hall]

end

theorem unmapped {c : Iss} {units : List (Nat × Word)} (h : ∀ u y, u ∈ units → y ∈ (c.s.core? c.gang.core).stash → y.vat ≠ u.1 ∧
      ((c.s.gang? y.gang).map Gang.ctx = some c.gang.ctx → pageMeets y.va.toNat u.2.toNat = false)) :
    units.any (fun u => (c.s.core? c.gang.core).stash.any (fun y =>
        y.vat == u.1 || (decide ((c.s.gang? y.gang).map (fun g => g.ctx) = some c.gang.ctx) && pageMeets y.va.toNat u.2.toNat))) = false := by
  simp only [List.any_eq_false, Bool.or_eq_true, Bool.and_eq_true, decide_eq_true_eq, beq_iff_eq, not_or, not_and, Bool.not_eq_true]
  exact fun u hu y hy => h u y hu hy

/-- Settles O21: the checks pass, and each member changes its units or lines. -/
theorem stashMembers : Obligations.StashMembers := by
  unfold Obligations.StashMembers
  refine ⟨?_, ?_, ?_, ?_⟩
  · intro x s c xs t h r va units hrec hin hfree halign hread hwrite htouch
    obtain ⟨ys, hys⟩ := hwrite
    change execStmap x s = _
    unfold execStmap
    refine issue_ok h ?_
    refine (if_neg (by simp [hrec])).trans ((if_neg ?_).trans ((if_neg ?_).trans ((if_neg (not_not.mpr halign)).trans ?_)))
    · exact Bool.eq_false_iff.mp (congrArg Bool.not hin)
    · exact Bool.eq_false_iff.mp (unmapped hfree)
    · dsimp only
      rw [hys]
      dsimp only
      rw [hread]
      dsimp only [units, r, va] at htouch
      rw [touch_eq htouch]
      rfl
  · intro x s c r ls t h hr hp hroom hall
    change execStunmap x s = _
    unfold execStunmap
    refine issue_ok h ?_
    rw [hr, ok_bind]
    exact writeBackAll_alone hp hroom hall _
  · intro x s c r ls t h hr hp hroom hall
    change execStwb x s = _
    unfold execStwb
    refine issue_ok h ?_
    rw [hr, ok_bind]
    exact writeBackAll_alone hp hroom hall _
  · intro x s c r ls h hr
    change execStdrop x s = _
    unfold execStdrop
    refine issue_ok h ?_
    rw [hr, ok_bind]

/-! ## WAIT, LDT, STT and CQCFG (07 R146, R155, R156) -/

theorem noneBusy {n : Nat} {q : Nat → Bool} (h : ∀ i, i < n → q i = false) : (List.range n).any q = false := by
  simp only [List.any_eq_false, List.mem_range, Bool.not_eq_true]
  exact h

/-- Settles O23: the checks pass, and each member's change follows. -/
theorem tileMovesAndQueues : Obligations.TileMovesAndQueues := by
  unfold Obligations.TileMovesAndQueues
  refine ⟨?_, ?_, ?_, ?_⟩
  · intro x s c h hld hst hcp htl
    change execWait x s = _
    unfold execWait
    exact issue_ok h (if_pos ⟨hld, hst, hcp, htl⟩)
  · intro x s c xs s1 t h hcheck hroom hbusy hrel htouch hp
    change execLdt x s = _
    unfold execLdt
    refine issue_ok h ?_
    simp only [hcheck, ok_bind, roomFor_of_lt hroom, noneBusy hbusy, Bool.false_eq_true, if_false, hrel, touch_eq htouch, hp, Option.isNone_none,
      if_true]
  · intro x s c xs t h hcheck hroom hbusy htouch hp
    change execStt x s = _
    unfold execStt
    refine issue_ok h ?_
    simp only [hcheck, ok_bind, roomFor_of_lt hroom, noneBusy hbusy, Bool.false_eq_true, if_false, touch_eq htouch]
    refine (pairRun_alone (vals := []) hp rfl _ _).trans ?_
    rw [List.flatMap_map]
  · intro x s c h hwhole hdepth hfree hfilled q
    change execCqcfg x s = _
    unfold execCqcfg
    refine issue_ok h ?_
    refine (if_neg (not_not.mpr hwhole)).trans ((if_neg (by omega)).trans ((if_neg ?_).trans ?_))
    · rintro ⟨hpos, hw⟩
      obtain ⟨hin, htaken⟩ := hfree hpos
      rcases hw with hw | hw
      · omega
      · rw [htaken] at hw
        cases hw
    · split
      next y hy => exact if_neg (by simp [hfilled y hy])
      next => rfl

/-! ## Sync words (07 R150, R151) -/

/-- The fields of a sync word fit their widths. -/
structure SyncWord.Fits (w : SyncWord) : Prop where
  target : w.target < 2 ^ 28
  count : w.count < 2 ^ 28
  res : w.res < 2 ^ 4
  gen : w.gen < 2 ^ 32
  group : w.group < 2 ^ 16
  gang : w.gang < 2 ^ 16

theorem bitsOf_lt (n hi lo : Nat) : bitsOf n hi lo < 2 ^ (hi + 1 - lo) := Nat.mod_lt _ (Nat.two_pow_pos _)

theorem fits_ofNat (n : Nat) : SyncWord.Fits (SyncWord.ofNat n) :=
  ⟨bitsOf_lt n 27 0, bitsOf_lt n 55 28, bitsOf_lt n 63 60, bitsOf_lt n 95 64, bitsOf_lt n 111 96, bitsOf_lt n 127 112⟩

theorem bit_le (b : Bool) : bit b ≤ 1 := by cases b <;> decide

theorem decide_bit_eq_one (b : Bool) : decide (bit b = 1) = b := by cases b <;> rfl

/-- What is written reads back as written. -/
theorem ofNat_toNat {w : SyncWord} (h : SyncWord.Fits w) : SyncWord.ofNat w.toNat = w := by
  obtain ⟨htarget, hcount, hres, hgen, hgroup, hgang⟩ := h
  have hvalid := bit_le w.valid
  have hkeep := bit_le w.keep
  have hovr := bit_le w.ovr
  have hwtr := bit_le w.wtr
  have hbit : ∀ k b, w.toNat / 2 ^ k % 2 = bit b → w.toNat.testBit k = b := by
    intro k b hb
    rw [Nat.testBit_eq_decide_div_mod_eq, hb, decide_bit_eq_one]
  have h1 : bitsOf w.toNat 27 0 = w.target := by simp only [bitsOf, SyncWord.toNat]; omega
  have h2 : bitsOf w.toNat 55 28 = w.count := by simp only [bitsOf, SyncWord.toNat]; omega
  have h3 : bitsOf w.toNat 63 60 = w.res := by simp only [bitsOf, SyncWord.toNat]; omega
  have h4 : bitsOf w.toNat 95 64 = w.gen := by simp only [bitsOf, SyncWord.toNat]; omega
  have h5 : bitsOf w.toNat 111 96 = w.group := by simp only [bitsOf, SyncWord.toNat]; omega
  have h6 : bitsOf w.toNat 127 112 = w.gang := by simp only [bitsOf, SyncWord.toNat]; omega
  have h7 := hbit 56 w.valid (by simp only [SyncWord.toNat]; omega)
  have h8 := hbit 57 w.keep (by simp only [SyncWord.toNat]; omega)
  have h9 := hbit 58 w.ovr (by simp only [SyncWord.toNat]; omega)
  have h10 := hbit 59 w.wtr (by simp only [SyncWord.toNat]; omega)
  unfold SyncWord.ofNat
  rw [h1, h2, h3, h4, h5, h6, h7, h8, h9, h10]

theorem toNat_lt {w : SyncWord} (h : SyncWord.Fits w) : w.toNat < 2 ^ 128 := by
  obtain ⟨htarget, hcount, hres, hgen, hgroup, hgang⟩ := h
  have hvalid := bit_le w.valid
  have hkeep := bit_le w.keep
  have hovr := bit_le w.ovr
  have hwtr := bit_le w.wtr
  simp only [SyncWord.toNat]
  omega

theorem syncWord_putSync {s : State} {core a : Nat} (hv : s.vat.wf = true) (hd : ∀ i, i < 16 → s.deadByte core (a + i) = false) {w : SyncWord}
    (hw : SyncWord.Fits w) : (s.putSync core a w).syncWord core a = w := by
  have hwrite : s.putSync core a w = { s with vat := s.vat.writeLE (vatKey core a) 16 w.toNat } :=
    vatWriteBytes_eq (fun i hi => hd i (by simpa using hi))
  unfold State.syncWord State.vatReadLE
  rw [hwrite, Memory.readLE_writeLE hv, Nat.mod_eq_of_lt (toNat_lt hw), ofNat_toNat hw]

theorem syncWord_congr {s t : State} (h : t.vat = s.vat) (core a : Nat) : t.syncWord core a = s.syncWord core a := by
  unfold State.syncWord State.vatReadLE
  rw [h]

/-- The word after its completion. -/
def SyncWord.completed (w : SyncWord) : SyncWord :=
  { w with
    ovr := w.ovr || decide (w.target < w.count), count := 0, gen := (w.gen + 1) % 2 ^ 32, target := if w.keep then w.target else 0, wtr := false }

theorem fits_completed {w : SyncWord} (h : SyncWord.Fits w) : SyncWord.Fits (SyncWord.completed w) := by
  obtain ⟨htarget, -, hres, -, hgroup, hgang⟩ := h
  refine ⟨?_, Nat.two_pow_pos 28, hres, Nat.mod_lt _ (Nat.two_pow_pos 32), hgroup, hgang⟩
  change (if w.keep then w.target else 0) < 2 ^ 28
  split
  · exact htarget
  · exact Nat.two_pow_pos 28

theorem vat_wakeSync (s : State) (core a : Nat) : (s.wakeSync core a).vat = s.vat := rfl

theorem vat_syncOverflow (s : State) (core : Nat) : (s.syncOverflow core).vat = s.vat := rfl

theorem vat_syncStep {s : State} {core a : Nat} (hpos : 0 < (s.syncWord core a).target)
    (hdone : (s.syncWord core a).target ≤ (s.syncWord core a).count) :
    (s.syncStep core a).vat = (s.putSync core a (SyncWord.completed (s.syncWord core a))).vat := by
  have hstep : s.syncStep core a =
      State.wakeSync (if decide ((s.syncWord core a).target < (s.syncWord core a).count) then
        (s.putSync core a (SyncWord.completed (s.syncWord core a))).syncOverflow core
        else s.putSync core a (SyncWord.completed (s.syncWord core a))) core a := if_pos ⟨hpos, hdone⟩
  rw [hstep, vat_wakeSync]
  split
  · exact vat_syncOverflow _ _
  · rfl

theorem syncStep_complete {s : State} {core a : Nat} (hv : s.vat.wf = true) (hd : ∀ i, i < 16 → s.deadByte core (a + i) = false)
    (hpos : 0 < (s.syncWord core a).target) (hdone : (s.syncWord core a).target ≤ (s.syncWord core a).count) :
    (s.syncStep core a).syncWord core a = SyncWord.completed (s.syncWord core a) :=
  (syncWord_congr (vat_syncStep hpos hdone) core a).trans (syncWord_putSync hv hd (fits_completed (fits_ofNat (s.vatReadLE core a 16))))

theorem syncStep_incomplete {s : State} {core a : Nat} (h : (s.syncWord core a).target = 0 ∨ (s.syncWord core a).count < (s.syncWord core a).target) :
    s.syncStep core a = s := by
  unfold State.syncStep
  exact if_neg (by omega)

/-! ## The sync members (07 R152, R153) -/

theorem syncAdv_eq (gen n : Nat) :
    syncAdv gen n = decide (1 ≤ (gen + 2 ^ 32 - n % 2 ^ 32) % 2 ^ 32 ∧ (gen + 2 ^ 32 - n % 2 ^ 32) % 2 ^ 32 ≤ 2 ^ 31) := by
  simp only [syncAdv, Bool.decide_and]

theorem decide_word_ne_zero (b : Bool) : decide (BitVec.ofNat 64 (bit b) ≠ 0) = b := by cases b <;> rfl

section
variable {s : State} {c : Iss} {a : SReg} {b : USrc} {d : UPReg} {try_ : Bool}
  (h : Issues s { ss := a :: usrcRegs b, ups := [d] } (Instr.swwait { d := d, a := a, b := b, try_ := try_ }).bytes c)
  (hcheck : syncCheck c (c.readS a) true = .ok ())
include h hcheck

theorem swwait_answers (hp : c.gang.pair = none)
    (hadv : syncAdv (c.s.syncWord c.gang.core (c.readS a).toNat).gen (c.usrc b).toNat = true ∨ try_ = true) :
    exec (.swwait { d := d, a := a, b := b, try_ := try_ }) s = .next ((advance (c.s.writeU c.f (.up d
      (syncAdv (c.s.syncWord c.gang.core (c.readS a).toNat).gen (c.usrc b).toNat))) c.f c.len).jumped c) := by
  change execSwwait { d := d, a := a, b := b, try_ := try_ } s = _
  unfold execSwwait
  refine issueJump_ok h ?_
  dsimp only
  rw [hcheck, ok_bind]
  refine (if_pos (or_assoc.mp (.inl hadv))).trans ?_
  refine (pairLoad_alone hp rfl _).trans ?_
  rw [List.headD_cons, decide_word_ne_zero]

theorem swwait_waits (hadv : syncAdv (c.s.syncWord c.gang.core (c.readS a).toNat).gen (c.usrc b).toNat = false) (htry : try_ = false)
    (htrail : c.s.isTrail c.f.gang = false) (hready : syncReady c (c.readS a) = .ok ()) :
    exec (.swwait { d := d, a := a, b := b, try_ := try_ }) s = .next (State.jumped ((c.s.putSync c.gang.core (c.readS a).toNat
      { c.s.syncWord c.gang.core (c.readS a).toNat with wtr := true }).park c.f (.swwait (c.readS a).toNat ((c.usrc b).truncate 32))) c) := by
  change execSwwait { d := d, a := a, b := b, try_ := try_ } s = _
  unfold execSwwait
  refine issueJump_ok h ?_
  dsimp only
  rw [hcheck, ok_bind]
  refine (if_neg (by simp [hadv, htry, htrail])).trans ?_
  rw [hready, ok_bind]

end

/-- Settles O22: the checks pass and the word is written; completion is the write of `SyncWord.completed`, read back field by field. -/
theorem syncMembers : Obligations.SyncMembers := by
  unfold Obligations.SyncMembers
  refine ⟨?_, ?_⟩
  · intro s c a b v n w put
    refine ⟨?_, ?_, ?_, ?_⟩
    · intro keep h hcheck hn hready
      change execSwinit { a := a, b := b, keep := keep } s = _
      unfold execSwinit
      refine issue_ok h ?_
      dsimp only
      rw [hcheck, ok_bind]
      refine (if_neg (show ¬ syncMax < n by unfold syncMax; omega)).trans ?_
      rw [hready, ok_bind]
    · intro t h hcheck hmax htarget hready hrel
      change execSwarrive { a := a, b := b } s = _
      unfold execSwarrive
      refine issue_ok h ?_
      dsimp only
      rw [hcheck, ok_bind]
      refine (if_neg (show ¬ (syncMax < w.count + n ∨ (0 < w.target ∧ w.target < w.count + n)) by unfold syncMax; omega)).trans ?_
      rw [hready, ok_bind, hrel, ok_bind]
    · intro h hcheck hmax hready
      change execSwexpect { a := a, b := b } s = _
      unfold execSwexpect
      refine issue_ok h ?_
      dsimp only
      rw [hcheck, ok_bind]
      refine (if_neg (show ¬ syncMax < w.target + n by unfold syncMax; omega)).trans ?_
      rw [hready, ok_bind]
    · intro d try_ h hcheck hp past adv
      have hadv : syncAdv w.gen n = adv := syncAdv_eq w.gen n
      refine ⟨?_, ?_⟩
      · intro ha
        rw [← hadv] at ha ⊢
        exact swwait_answers h hcheck hp ha
      · intro ha htry htrail hready t k
        exact swwait_waits h hcheck (hadv.trans ha) htry htrail hready
  · intro s core a hv hd w
    exact ⟨syncStep_complete hv hd, syncStep_incomplete⟩

end Sys2Proof.Proofs.VatMembers
end

section
/-! PROOFS. Engine commands, stream engines, ports and rendezvous -/


section
/-! PROOFS. Engine commands, stream engines, ports and rendezvous -/

namespace Sys2Proof.Proofs.Engine
open Sys2Proof Sys2Proof.Machine Sys2Proof.Claims Sys2Proof.Proofs.Control Sys2Proof.Proofs.Access Sys2Proof.Proofs.VatMembers Sys2Proof.Proofs

/-! ## The members (05 R97-R111) -/

section
variable {c : Iss} {s t : State}

theorem engineRun_alone {i : Instr} {regs : List SReg} {inVat : Bool} {act : State → State} (hp : c.gang.pair = none)
    (hroom : c.grp.cpc < 63) (hrel : releaseFirst c s .rel = .ok t) (htrail : inVat = true → t.isTrail c.f.gang = false) :
    engineRun c s i regs inVat act = .ok (act t) := by
  unfold engineRun
  simp only [roomFor_of_lt hroom, ok_bind, hrel]
  cases inVat with
  | true =>
    rw [if_pos rfl, pairRun_alone (vals := []) hp rfl, if_neg (by simp [htrail rfl])]
  | false => rw [if_neg nofun, pairRun_alone (vals := []) hp rfl]

end

theorem toAtom_eq (op : RedOp) : RedOp.toAtom op = op.atom := by cases op <;> rfl

theorem copy_starts {x : CopyI} {s : State} {c : Iss} {dr sr : Option Region} {sp dp : List (Word × Xlat)} {s1 t : State}
    (h : Issues s { ss := x.d :: x.a :: x.b :: x.sw.toList } (Instr.copy x).bytes c) (hp : c.gang.pair = none)
    (htrail : t.isTrail c.f.gang = false) (hdr : sideRegion c x.dv (c.readS x.d) true = .ok dr)
    (hsr : sideRegion c x.av (c.readS x.a) false = .ok sr) (hsync : checkSync c x.sw = .ok ()) (hlen : (c.readS x.b).toNat < 2 ^ 32)
    (hd : fitsExtent c dr (c.readS x.b).toNat = .ok ()) (ha : fitsExtent c sr (c.readS x.b).toNat = .ok ())
    (hsp : sidePages c sr (c.readS x.a) (c.readS x.b).toNat .read = .ok sp)
    (hdp : sidePages c dr (c.readS x.d) (c.readS x.b).toNat .write = .ok dp) (htouch : touchRange c c.s (sp ++ dp) = .ok s1)
    (hroom : c.grp.cpc < 63) (hrel : releaseFirst c s1 .rel = .ok t) :
    execCopy x s = .next (State.after (t.startCommand c .copy (copyLines c dr sr dp sp (c.readS x.d) (c.readS x.a) (c.readS x.b).toNat) []
      (x.sw.map (fun r => (c.readS r).toNat))) c) := by
  unfold execCopy
  refine issue_ok h ?_
  simp only [hdr, hsr, hsync, ok_bind, hd, ha, hsp, hdp, htouch, if_neg (Nat.not_le.mpr hlen)]
  exact engineRun_alone hp hroom hrel (fun _ => htrail)

/-! ## A command that starts (05 R98, R101) -/

theorem group?_modCpc (s : State) (gang gid slot : Nat) (h : Nat → Nat) :
    (s.modCpc gang gid h).group? gang slot = (s.group? gang slot).map (fun x => if x.gid.toNat = gid then { x with cpc := h x.cpc } else x) := by
  unfold State.group? State.modCpc
  rw [gang?_modGang_same]
  · rw [Option.bind_map, Option.map_bind]
    refine congrArg _ (funext fun g => ?_)
    refine List.find?_map.trans (congrArg _ (congrArg (fun p => g.groups.find? p) (funext fun x => ?_)))
    dsimp only [Function.comp_apply]
    split <;> rfl
  · exact fun _ => rfl

theorem modCpcs_eq (s : State) (gang gid : Nat) (h : Nat → Nat) : ∃ gs, s.modCpcs gang gid h = { s with gangs := gs } := by
  unfold State.modCpcs
  dsimp only
  split <;> exact ⟨_, rfl⟩

theorem modCpcs_alone {s : State} {gang : Nat} (ht : (s.gang? gang).bind (fun g => s.twin g) = none) (gid : Nat) (h : Nat → Nat) :
    s.modCpcs gang gid h = s.modCpc gang gid h := by
  unfold State.modCpcs
  rw [ht]

theorem startCommand_effect (s : State) (c : Iss) (kind : CmdKind) (ls : List CmdLine) (us : List Update) (sync : Option Nat) :
    (∀ l, l ∈ ls → (s.startCommand c kind ls us sync).pinnedLoc l.line = false → (s.startCommand c kind ls us sync).commandOwns l.line = true) ∧
     (∀ slot x, s.group? c.gang.id slot = some x → (s.gang? c.gang.id).bind (fun g => s.twin g) = none →
       (s.startCommand c kind ls us sync).group? c.gang.id slot = some (if x.gid = c.grp.gid then { x with cpc := x.cpc + 1 } else x)) ∧
     ∃ gs cs, s.startCommand c kind ls us sync = { s with gangs := gs, commands := cs, nextCmd := s.nextCmd + 1 } := by
  refine ⟨?_, ?_, ?_⟩
  · intro l hl hpin
    unfold State.commandOwns
    rw [hpin, Bool.not_false, Bool.and_true, List.any_eq_true]
    refine ⟨_, List.mem_append_right _ (List.mem_singleton_self _), ?_⟩
    refine List.any_eq_true.mpr ⟨l, ?_, decide_eq_true rfl⟩
    dsimp only
    split
    · exact List.mem_append_left _ hl
    · exact hl
  · intro slot x hx ht
    change (s.modCpcs c.gang.id c.grp.gid.toNat (· + 1)).group? c.gang.id slot = _
    rw [modCpcs_alone ht, group?_modCpc, hx]
    simp only [Option.map_some, BitVec.toNat_inj]
  · obtain ⟨gs, hgs⟩ := modCpcs_eq s c.gang.id c.grp.gid.toNat (· + 1)
    refine ⟨gs, (s.startCommand c kind ls us sync).commands, ?_⟩
    unfold State.startCommand State.beginCommand
    rw [hgs]

/-- Settles O24: the checks of each member pass in its order, and the command that starts is in the list with its lines. -/
theorem engineCommands : Obligations.EngineCommands := by
  unfold Obligations.EngineCommands
  refine ⟨⟨?_, ?_, ?_, ?_⟩, ?_⟩
  · intro x s c dr sr sp dp s1 t h hp htrail len hdr hsr hsync hlen hd ha hsp hdp htouch hroom hrel first
    exact copy_starts h hp htrail hdr hsr hsync hlen hd ha hsp hdp htouch hroom hrel
  · intro x s c s1 s2 t l xs h hp htrail hl hx hst htouch hroom hrel
    change execGather x s = _
    unfold execGather
    refine issue_ok h ?_
    simp only [hl, hx, hst, htouch, ok_bind]
    exact engineRun_alone hp hroom hrel (fun _ => htrail)
  · intro x s c s1 s2 t l xs h hp hl hst hx htouch hroom hrel
    change execScatter x s = _
    unfold execScatter
    refine issue_ok h ?_
    simp only [hl, hx, hst, htouch, ok_bind]
    exact engineRun_alone hp hroom hrel nofun
  · intro x s c s1 s2 s3 t l xs h hp hl hst hx htouch hread hroom hrel
    change execScatadd x s = _
    unfold execScatadd
    refine issue_ok h ?_
    simp only [toAtom_eq, hl, hx, hst, htouch, hread, ok_bind]
    exact engineRun_alone hp hroom hrel nofun
  · exact startCommand_effect


/-! ## Stream engines (05 R114-R119) -/

section
variable {s : State} {c : Iss}

theorem placeCheck_ok {a n : Nat} (h : c.gang.freeRange a n = true) : placeCheck c a n = .ok () := if_pos h

theorem strcfg_eq {x : StrCfgI} {s0 s1 : State} (h : Issues s { ss := [x.a], ups := [x.d] } (Instr.strcfg x).bytes c)
    (hp : c.gang.pair = none) (htrail : s1.isTrail c.f.gang = false) (halign : (c.readS x.a).toNat % 64 = 0)
    (hfree : c.gang.freeRange (c.readS x.a).toNat 64 = true) (hst : stashGuard c (c.readS x.a).toNat 64 false = .ok ())
    (hrel : releaseFirst c c.s .rel = .ok s0) (hread : readStash c s0 [(c.readS x.a).toNat / 128] = .ok s1)
    (hcrc : (crc32c ((s1.vatReadBytes c.gang.core (c.readS x.a).toNat 64).take 60)).toNat =
      fieldAt (s1.vatReadBytes c.gang.core (c.readS x.a).toNat 64) 60 4)
    (hok : streamRecOk (s1.vatReadBytes c.gang.core (c.readS x.a).toNat 64) = true) {r : StreamRec}
    (hr : StreamRec.ofBytes (s1.vatReadBytes c.gang.core (c.readS x.a).toNat 64) = r)
    (hring : c.gang.freeRange r.ring (r.slots * r.slotBytes) = true) (hsync : ∀ w, r.sync = some w → c.gang.freeRange w 16 = true)
    (hroom : c.grp.cpc < 63) {free : Bool}
    (hf : (decide ((s1.streamAt c.gang.core x.e.val).state = .free) || (s1.streamAt c.gang.core x.e.val).holder == c.f.gang) = free) :
    execStrcfg x s = .next (State.after ((if free then setStream (s1.haltStream c.gang.core x.e.val) c.gang.core x.e.val
        { (s1.haltStream c.gang.core x.e.val).streamAt c.gang.core x.e.val with
          state := .idle, holder := c.f.gang, record := r, prod := 0, cons := 0, twin := 0 } else s1).writeU c.f (.up x.d free)) c) := by
  unfold execStrcfg
  refine issue_ok h ?_
  simp only [halign, placeCheck_ok hfree, hst, hrel, hread, hcrc, hok, hr, placeCheck_ok hring, hf, roomFor_of_lt hroom, ok_bind, ne_eq,
    not_true_eq_false, if_false, Bool.not_true, Bool.false_eq_true]
  have hrun : ∀ finish, pairRun c s1 (effectSig (.strcfg x) [c.readS x.a]) (fun s => .ok (s, some [BitVec.ofNat 64 (bit free)])) finish =
      finish [BitVec.ofNat 64 (bit free)] s1 := pairRun_alone hp rfl _
  cases hw : r.sync with
  | none =>
    dsimp only
    rw [hrun]
    cases free <;> simp [bit, htrail]
  | some w =>
    dsimp only
    rw [placeCheck_ok (hsync w hw), ok_bind, hrun]
    cases free <;> simp [bit, htrail]

/-- A port entry of a gang starts at the first line of the engine's ring. -/
def freshPort (e : Fin 4) (s : State) (gang : Nat) (p : Option (Nat × Nat)) : State :=
  match p with
  | some (slot, q) => setPort s gang slot q (some { engine := e.val, line := 0 })
  | none => s

theorem nextCmd_setStream (s : State) (core e : Nat) (st : Stream) : (setStream s core e st).nextCmd = s.nextCmd := by
  unfold setStream
  split <;> rfl

theorem nextCmd_freshPort (e : Fin 4) (s : State) (gang : Nat) (p : Option (Nat × Nat)) : (freshPort e s gang p).nextCmd = s.nextCmd := by
  unfold freshPort setPort
  split
  · split <;> rfl
  · rfl

theorem nextCmd_modCpcs (s : State) (gang gid : Nat) (h : Nat → Nat) : (s.modCpcs gang gid h).nextCmd = s.nextCmd := by
  obtain ⟨gs, hgs⟩ := modCpcs_eq s gang gid h
  rw [hgs]

/-- What STRGO does once its checks have passed. -/
def strgoAct (x : StrGoI) (c : Iss) (xs : List Xlat) (s : State) : State :=
  let old := s.streamAt c.gang.core x.e.val
  let u := s.modCpcs c.f.gang c.grp.gid.toNat (· + 1)
  let u1 := freshPort x.e u c.f.gang old.port
  if old.state = .run then setStream u c.gang.core x.e.val { old with starters := old.starters ++ [(c.f.gang, c.grp.gid.toNat)] }
  else
    let u2 := match u1.twin c.gang with
      | some t => freshPort x.e u1 t.id old.twinPort
      | none => u1
    { setStream u2 c.gang.core x.e.val
        { old with
          state := .run, seq := s.nextCmd, elems := xs.map (fun y => (y.pa, y.dur)), prod := 0, cons := 0, twin := 0
          starters := [(c.f.gang, c.grp.gid.toNat)] } with
      nextCmd := s.nextCmd + 1 }

theorem strgo_eq {x : StrGoI} {xs : List Xlat} {s1 t : State} (h : Issues s {} (Instr.strgo x).bytes c) (hp : c.gang.pair = none)
    (htrail : t.isTrail c.f.gang = false) (hheld : holdsEngine c x.e.val = .ok ()) {st : Stream} (hs : c.s.streamOf c.gang x.e.val = st)
    (hx : listXlat c (if st.record.drain then .write else .read) noOwn st.record.walk = .ok xs)
    (hst : stashGuard c st.record.ring (st.record.slots * st.record.slotBytes) (!st.record.drain) = .ok ())
    (htouch : touchRange c c.s (st.record.walk.zip xs) = .ok s1) (hroom : c.grp.cpc < 63) (hrel : releaseFirst c s1 .rel = .ok t) :
    execStrgo x s = .next (State.after (strgoAct x c xs t) c) := by
  unfold execStrgo
  refine issue_ok h ?_
  have hrun : engineRun c s1 (.strgo x) [] true (strgoAct x c xs) = .ok (strgoAct x c xs t) :=
    engineRun_alone hp hroom hrel (fun _ => htrail)
  simp only [hheld, ok_bind, hs, hx]
  cases hd : st.record.drain with
  | true =>
    rw [hd] at hst
    simp only [if_true, show stashGuard c st.record.ring (st.record.slots * st.record.slotBytes) false = _ from hst, ok_bind, Bool.not_true,
      Bool.false_eq_true, if_false, htouch]
    exact hrun
  | false =>
    rw [hd] at hst
    simp only [if_true, show stashGuard c st.record.ring (st.record.slots * st.record.slotBytes) true = _ from hst, ok_bind, Bool.not_false,
      Bool.false_eq_true, if_false, htouch]
    exact hrun

end

/-- Settles O25: the checks of each member pass in its order; STRGO by the state of the engine it finds. -/
theorem streamMembers : Obligations.StreamMembers := by
  unfold Obligations.StreamMembers
  refine ⟨?_, ?_, ?_, ?_, ?_⟩
  · intro x s c s0 s1 h hp htrail a bs r halign hfree hst hrel hread hcrc hok hring hsync hroom st
    refine ⟨fun hfree' => ?_, fun hn hh => ?_⟩
    · refine strcfg_eq h hp htrail halign hfree hst hrel hread hcrc hok rfl hring hsync hroom (free := true) ?_
      simpa [st] using hfree'
    · refine strcfg_eq h hp htrail halign hfree hst hrel hread hcrc hok rfl hring hsync hroom (free := false) ?_
      simpa [st] using ⟨hn, hh⟩
  · intro x s c xs s1 t h hp htrail hheld st hx hst htouch hroom hrel old me u
    refine ⟨fun hr => ?_, ?_⟩
    · refine (strgo_eq h hp htrail hheld rfl hx hst htouch hroom hrel).trans ?_
      unfold strgoAct
      exact congrArg (fun u => Host.Outcome.next (State.after u c)) (if_pos hr)
    · intro u1 hr ht
      refine (strgo_eq h hp htrail hheld rfl hx hst htouch hroom hrel).trans ?_
      unfold strgoAct
      refine congrArg (fun u => Host.Outcome.next (State.after u c)) ((if_neg hr).trans ?_)
      dsimp only
      rw [show (freshPort x.e u c.f.gang old.port).twin c.gang = none from ht]
      unfold ordered
      rw [nextCmd_setStream, show u1.nextCmd = t.nextCmd from (nextCmd_freshPort x.e u c.f.gang old.port).trans (nextCmd_modCpcs t _ _ _)]
      rfl
  · intro x s c t h hp htrail hheld hroom hrel
    change execStrhalt x s = _
    unfold execStrhalt
    refine issue_ok h ?_
    rw [hheld, ok_bind]
    exact engineRun_alone hp hroom hrel (fun _ => htrail)
  · intro x s c h
    refine ⟨fun e he hheld hfree hb => ?_, fun p he hpt => ?_⟩
    · change execSpbind x s = _
      unfold execSpbind
      refine issue_ok h ?_
      dsimp only
      rw [he]
      dsimp only
      rw [hheld]
      exact if_neg (by simp [hfree, hb])
    · change execSpbind x s = _
      unfold execSpbind
      refine issue_ok h ?_
      dsimp only
      rw [he]
      dsimp only
      rw [hpt]
  · intro x s c t h hheld st hport hn hrel
    change execSlotsig x s = _
    unfold execSlotsig
    refine issue_ok h ?_
    rw [hheld, ok_bind]
    refine (if_neg (by simp [st] at hport; simp [hport])).trans ((if_neg (Nat.not_lt.mpr hn)).trans ?_)
    rw [hrel]
    rfl

/-! ## Port lines (05 R119) -/

theorem writeBytes_append (m : Memory) (a : Nat) (xs ys : List Byte) :
    m.writeBytes a (xs ++ ys) = (m.writeBytes a xs).writeBytes (a + xs.length) ys := by
  induction xs generalizing m a with
  | nil => rfl
  | cons x xs ih =>
    rw [List.cons_append, Memory.writeBytes, ih, Memory.writeBytes, List.length_cons]
    congr 1
    omega

/-- The bytes of the first `n` words of a line. -/
def wordBytes (f : Nat → Nat) (n : Nat) : List Byte := (List.range n).flatMap (fun l => leBytes 4 (f l))

theorem wordBytes_succ (f : Nat → Nat) (n : Nat) : wordBytes f (n + 1) = wordBytes f n ++ leBytes 4 (f n) := by
  simp [wordBytes, List.range_succ, List.flatMap_append]

@[simp] theorem length_wordBytes (f : Nat → Nat) (n : Nat) : (wordBytes f n).length = 4 * n := by
  induction n with
  | zero => rfl
  | succ n ih => rw [wordBytes_succ, List.length_append, ih, leBytes_length]; omega

theorem readLE_writeWords {m : Memory} (hm : m.wf = true) (a : Nat) (f : Nat → Nat) {n l : Nat} (h : l < n) :
    (m.writeBytes a (wordBytes f n)).readLE (a + 4 * l) 4 = f l % 2 ^ 32 := by
  induction n with
  | zero => omega
  | succ n ih =>
    rw [wordBytes_succ, writeBytes_append, length_wordBytes]
    by_cases e : l = n
    · subst e
      exact Memory.readLE_writeLE (Memory.writeBytes_wf hm _ _) (a + 4 * l) 4 (f l)
    · rw [Memory.readLE_writeBytes_outside _ (Or.inl (by omega))]
      exact ih (by omega)

/-- The values a push writes to its line: zero in the lanes that are not active. -/
def pushed (x : Iss) (v : Nat → W32) (l : Nat) : Nat := if x.exec.getLsbD l then (v l).toNat else 0

theorem pushed_lt (x : Iss) (v : Nat → W32) (l : Nat) : pushed x v l < 2 ^ 32 := by
  unfold pushed
  split
  · exact (v l).isLt
  · decide

theorem pushPort_line {x : Iss} {s t : State} {q : Nat} {p : Port} {st : Stream} {v : Nat → W32} (hst : x.stream s q = some (p, st))
    (h : pushPort x s q v = .ok t) : gangsOnly (s.writeVat x.gang.core
      (st.record.ring + (st.prod % st.record.slots) * st.record.slotBytes + 128 * p.line) (wordBytes (pushed x v) 32)) t := by
  unfold pushPort at h
  rw [hst] at h
  dsimp only at h
  split at h
  · cases h
  split at h
  · split at h <;> cases h
  split at h
  · cases h
  split at h
  · cases h
    exact Yield.gangsOnly_setPort _ _ _ _ _
  · cases h
    exact gangsOnly_trans (Yield.gangsOnly_setPort _ _ _ _ _) (Yield.gangsOnly_putStream _ _ _ _)

theorem writeVat_alive {s : State} {core a : Nat} {bs : List Byte} (h : ∀ i, i < bs.length → s.deadByte core (a + i) = false) :
    (s.writeVat core a bs).vat = s.vat.writeBytes (vatKey core a) bs ∧ (s.writeVat core a bs).mem = s.mem := by
  have hw := vatWriteBytes_eq h
  have hm := congrArg State.mem hw
  exact ⟨congrArg State.vat hw, hm⟩

theorem vatPoisoned_writeVat (s : State) {core a : Nat} {bs : List Byte} (hlen : bs.length = 128) (ha : a % 128 = 0) :
    (s.writeVat core a bs).vatPoisoned core a = false := by
  unfold State.vatPoisoned State.writeVat
  have hk : vatKey core a % 128 = 0 := by unfold vatKey; omega
  rw [← Bool.not_eq_true, List.contains_iff_mem, List.mem_filter, hlen]
  rintro ⟨_, hn⟩
  simp only [Bool.not_eq_true', Bool.and_eq_false_iff, decide_eq_false_iff_not] at hn
  omega

/-- Settles O26: a pop reads the line of the head slot; a push writes the words of a whole line. -/
theorem portLines : Obligations.PortLines := by
  unfold Obligations.PortLines
  refine ⟨?_, ?_⟩
  · intro x s q p st hst hdrain hcons a hbusy
    have hpop : popPort x s q = if p.line + 1 < st.record.slotLines then
          .ok (setPort s x.f.gang x.f.group q (some { p with line := p.line + 1 }), fun l => BitVec.ofNat 32 (s.vatReadLE x.gang.core (a + 4 * l) 4))
        else .ok ((setPort s x.f.gang x.f.group q (some { p with line := 0 })).putStream x.gang p.engine { st with cons := st.cons + 1 },
          fun l => BitVec.ofNat 32 (s.vatReadLE x.gang.core (a + 4 * l) 4)) := by
      unfold popPort
      rw [hst]
      exact (if_neg (by simp [hdrain])).trans ((if_neg (Nat.not_le.mpr hcons)).trans (if_neg (by simp [a] at hbusy; simp [hbusy])))
    by_cases hl : p.line + 1 < st.record.slotLines
    · rw [if_pos hl] at hpop
      obtain ⟨gs, cs, hk⟩ := Yield.gangsOnly_setPort s x.f.gang x.f.group q (some { p with line := p.line + 1 })
      exact ⟨_, _, hpop, by rw [hk], by rw [hk], fun _ _ => rfl, fun _ => rfl, fun hn => absurd hl (Nat.not_lt.mpr hn)⟩
    · rw [if_neg hl] at hpop
      obtain ⟨gs, cs, hk⟩ := gangsOnly_trans (Yield.gangsOnly_setPort s x.f.gang x.f.group q (some { p with line := 0 }))
        (Yield.gangsOnly_putStream _ x.gang p.engine { st with cons := st.cons + 1 })
      exact ⟨_, _, hpop, by rw [hk], by rw [hk], fun _ _ => rfl, fun hn => absurd hn hl, fun _ => rfl⟩
  · intro x s t q p st v hst hpush hwf a hdead
    obtain ⟨gs, cs, ht⟩ := pushPort_line hst hpush
    change t = { s.writeVat x.gang.core a (wordBytes (pushed x v) 32) with gangs := gs, cores := cs } at ht
    have hlen := length_wordBytes (pushed x v) 32
    have hread : ∀ l, l < 32 →
        (s.vat.writeBytes (vatKey x.gang.core a) (wordBytes (pushed x v) 32)).readLE (vatKey x.gang.core a + 4 * l) 4 = pushed x v l :=
      fun l hl => (readLE_writeWords hwf _ _ hl).trans (Nat.mod_eq_of_lt (pushed_lt x v l))
    generalize wordBytes (pushed x v) 32 = bs at ht hlen hread
    obtain ⟨hvat, hmem⟩ := writeVat_alive (s := s) (core := x.gang.core) (a := a) (bs := bs) (fun i hi => hdead i (by omega))
    subst ht
    refine ⟨fun l hl => ?_, vatPoisoned_writeVat s hlen, fun k hk => ?_, hmem⟩
    · refine (congrArg (fun m => Memory.readLE m (vatKey x.gang.core (a + 4 * l)) 4) hvat).trans ?_
      rw [vatKey_add x.gang.core a (4 * l)]
      exact hread l hl
    · refine (congrArg (fun m => Memory.read m k) hvat).trans (Memory.read_writeBytes_outside _ ?_)
      have hkey := fun i hi => vatKey_add x.gang.core a i ▸ hk i hi
      by_contra hn
      exact hkey (k - vatKey x.gang.core a) (by omega) (by omega)

/-! ## The rendezvous (05 R121, R122; 18 R335) -/

/-- Settles O27: the checks of COLL and CKSEAL pass in their order, and the split waits. -/
theorem rendezvousEntered : Obligations.RendezvousEntered := by
  unfold Obligations.RendezvousEntered
  refine ⟨?_, ?_⟩
  · intro x s c g sp dp s1 t h hp n w size root d a dn sn hpos hlt hw hroot hg hdiv hmem hmeet hd ha hsp hdp htouch hroom hrel
    have hbits : bitsOf w 17 8 = root := by
      unfold bitsOf
      change w / 2 ^ 8 % 2 ^ (17 + 1 - 8) = w / 256
      omega
    change execColl x s = _
    unfold execColl
    refine issueJump_ok h ?_
    dsimp only
    rw [hbits, if_neg, hg]
    · refine (if_neg ?_).trans ((if_neg ?_).trans ((if_neg ?_).trans ?_))
      · rintro (⟨hk, hn⟩ | ⟨hk, hn⟩)
        · exact hn (hdiv hk)
        · exact Nat.not_lt.mpr hn (hmem hk)
      · rintro (hn | hn)
        · exact hn hd
        · exact hn ha
      · rintro ⟨hn, hs⟩
        obtain ⟨hda, hk | ⟨hk, hr⟩⟩ := hmeet hn
        · simp [d, a] at hda
          simp [hda, hk] at hs
        · simp [d, a] at hda
          simp [hda, hk, hr] at hs
      · rw [hsp, ok_bind, hdp, ok_bind, htouch, ok_bind, roomFor_of_lt hroom, ok_bind, hrel, ok_bind]
        unfold pairRun
        rw [hp]
    · rintro (hn | hn | hn | ⟨hk, hn⟩)
      · omega
      · omega
      · omega
      · exact hroot.elim hk hn
  · intro x s c g k t h hp ha hg hlen hk hq hroom hrel
    change execCkseal x s = _
    unfold execCkseal
    refine issueJump_ok h ?_
    dsimp only
    rw [if_neg (Nat.not_le.mpr ha), hg]
    dsimp only
    rw [if_neg (not_not.mpr hlen), hk]
    dsimp only
    rw [if_neg (Nat.pos_iff_ne_zero.mp hq), roomFor_of_lt hroom, ok_bind, hrel, ok_bind]
    unfold pairRun
    rw [hp]

end Sys2Proof.Proofs.Engine
end
end

section
/-! PROOFS. The press and the sparse members -/


namespace Sys2Proof.Proofs.PressMembers
open Sys2Proof Sys2Proof.Machine Sys2Proof.Claims Sys2Proof.Proofs Sys2Proof.Proofs.Control Sys2Proof.Proofs.Access Sys2Proof.Proofs.Press

/-! ## Tile operations (11 R213-R219) -/

section
variable {c : Iss} {r : Reservation} {nm nk : Nat}

theorem unitsOk_of_within (h : nm ≤ r.moulds.length ∧ nk ≤ r.accs.length) : unitsOk c r nm nk = .ok () :=
  if_neg (by omega)

/-- The three checks of a collective tile operation pass. -/
theorem checks_pass (h : pressOpen c r nm nk) :
    collective c = .ok () ∧ reserved c = .ok r ∧ ∀ m k, m ≤ nm → k ≤ nk → unitsOk c r m k = .ok () := by
  obtain ⟨hwhole, hr, hrel, hm, hk⟩ := h
  exact ⟨collective_of_whole hwhole, reserved_of_inForce hr hrel, fun m k hm' hk' => unitsOk_of_within ⟨hm'.trans hm, hk'.trans hk⟩⟩

end

/-- Settles O29: the three checks pass, the regions pass, and the operation enters the queue. -/
theorem tileOperations : Obligations.TileOperations := by
  unfold Obligations.TileOperations
  refine ⟨?_, ?_, ?_, ?_⟩
  · intro x s c r a b t h hopen ha hb hq
    obtain ⟨hwhole, hres, hunits⟩ := checks_pass hopen
    change execMldb x s = _
    unfold execMldb
    refine issue_ok h ?_
    simp only [hwhole, hres, hunits _ _ le_rfl le_rfl, ha, hb, hq, ok_bind]
  · intro x s c r a t h nm nr w hopen ha hq
    obtain ⟨hwhole, hres, hunits⟩ := checks_pass hopen
    change execMmul x s = _
    unfold execMmul
    refine issue_ok h ?_
    rw [hwhole, ok_bind, hres, ok_bind]
    dsimp only
    rw [hunits _ _ le_rfl le_rfl, ok_bind, ha, ok_bind, hq]
  · intro x s c r a t h nr hopen ha hq
    obtain ⟨hwhole, hres, hunits⟩ := checks_pass hopen
    change execMamov x s = _
    unfold execMamov
    refine issue_ok h ?_
    rw [hwhole, ok_bind, hres, ok_bind, hunits _ _ le_rfl le_rfl, ok_bind]
    dsimp only
    rw [ha, ok_bind, hq]
  · intro x s c r t h hopen hq
    obtain ⟨hwhole, hres, hunits⟩ := checks_pass hopen
    change execMzero x s = _
    unfold execMzero
    refine issue_ok h ?_
    rw [hwhole, ok_bind, hres, ok_bind, hunits _ _ le_rfl le_rfl, ok_bind, hq]

/-! ## Sparse members (12 R226-R235) -/

theorem mould_agrees {r : Reservation} {h : SparseHdr} {first : Nat}
    (hall : ∀ i, i < h.slices → ∃ y, r.moulds[first + i]? = some y ∧ y.tag.agrees i h = true) :
    (List.range h.slices).any (fun i => match r.moulds[first + i]? with
      | some y => !y.tag.agrees i h
      | none => true) = false := by
  simp only [List.any_eq_false, List.mem_range, Bool.not_eq_true]
  intro i hi
  obtain ⟨y, hy, hagrees⟩ := hall i hi
  simp [hy, hagrees]

/-- Settles O31: the metadata is well formed, and the members do as the dense ones. -/
theorem sparseMembers : Obligations.SparseMembers := by
  unfold Obligations.SparseMembers
  refine ⟨?_, ?_, ?_, ?_⟩
  · intro x s c r a b m t h hopen w hd packed ha hb hm hrows htp hq
    obtain ⟨hwhole, hres, -⟩ := checks_pass hopen
    change execPrune x s = _
    unfold execPrune
    refine issue_ok h ?_
    rw [hwhole, ok_bind, hres, ok_bind]
    dsimp only
    rw [ha, ok_bind, hb, ok_bind, hm, ok_bind, if_neg, hq]
    · rfl
    · rintro (hn | ⟨ht, hn⟩)
      · exact Nat.not_lt.mpr hrows hn
      · exact hn (htp ht)
  · intro x s c r a b m hd s1 t h w hopen ha hb hm hv ha' hb' hw hq
    obtain ⟨hwhole, hres, hunits⟩ := checks_pass hopen
    change execMldbs x s = _
    unfold execMldbs
    refine issue_ok h ?_
    rw [hwhole, ok_bind, hres, ok_bind, ha, ok_bind, hb, ok_bind, hm, ok_bind, hv, ok_bind]
    dsimp only
    rw [if_neg, hunits _ _ le_rfl le_rfl, ok_bind, if_neg (not_not.mpr hw), hq]
    · rfl
    · rintro (hn | hn)
      · exact Nat.not_lt.mpr ha' hn
      · exact Nat.not_lt.mpr hb' hn
  · intro x s c r a m hd s1 t h w nr hopen ha hm hv ha' hall hq
    obtain ⟨hwhole, hres, hunits⟩ := checks_pass hopen
    change execMmuls x s = _
    unfold execMmuls
    refine issue_ok h ?_
    rw [hwhole, ok_bind, hres, ok_bind, hunits _ _ (Nat.zero_le _) le_rfl, ok_bind, ha, ok_bind, hm, ok_bind, hv, ok_bind]
    dsimp only
    rw [if_neg (Nat.not_lt.mpr ha'), hunits _ _ le_rfl (Nat.zero_le _), ok_bind]
    exact (if_neg (Bool.eq_false_iff.mp (mould_agrees hall))).trans hq
  · intro x s c m v t h hm hv hflip htry
    change execMhdr x s = _
    unfold execMhdr
    refine issue_ok h ?_
    rw [hm, ok_bind, hv, ok_bind]
    dsimp only
    rw [putUni_noFlip hflip]
    rcases htry with ⟨hd, rfl⟩ | htry
    · rfl
    · cases v with
      | error e => exact if_pos htry
      | ok hd => rfl

/-! ## The queue and batches (11 R209, R215, R220, R221) -/

theorem closeBatches_spec (n : Nat) (g : Group) (h : g.batches.length ≤ n) : ∃ done, g.batches = done ++ (g.closeBatches n).batches ∧
    (∀ b, b ∈ done → b.left = 0) ∧ (g.closeBatches n).tlc = g.tlc - done.length ∧ (g.closeBatches n).tiles = g.tiles ∧
    (g.closeBatches n).nextb = g.nextb ∧ ∀ b, (g.closeBatches n).batches.head? = some b → b.left ≠ 0 := by
  induction n generalizing g with
  | zero =>
    have hnil : g.batches = [] := List.eq_nil_of_length_eq_zero (Nat.le_zero.mp h)
    exact ⟨[], rfl, nofun, rfl, rfl, rfl, by simp [Group.closeBatches, hnil]⟩
  | succ n ih =>
    cases hb : g.batches with
    | nil => exact ⟨[], by simp [Group.closeBatches, hb], nofun, by simp [Group.closeBatches, hb], by simp [Group.closeBatches, hb],
        by simp [Group.closeBatches, hb], by simp [Group.closeBatches, hb]⟩
    | cons b rest =>
      by_cases hl : b.left = 0
      · have hclose : g.closeBatches (n + 1) = ({ g with batches := rest, tlc := g.tlc - 1 } : Group).closeBatches n := by
          simp [Group.closeBatches, hb, hl]
        have hlen : rest.length ≤ n := by
          rw [hb] at h
          simpa using h
        obtain ⟨done, hdone, hzero, htlc, htiles, hnext, hhead⟩ := ih { g with batches := rest, tlc := g.tlc - 1 } hlen
        rw [hclose]
        refine ⟨b :: done, congrArg _ hdone, ?_, ?_, htiles, hnext, hhead⟩
        · rintro y (_ | ⟨_, hy⟩)
          · exact hl
          · exact hzero y hy
        · rw [htlc, List.length_cons]
          exact (Nat.sub_sub _ _ _).trans (by rw [Nat.add_comm])
      · have hclose : g.closeBatches (n + 1) = g := by simp [Group.closeBatches, hb, hl]
        rw [hclose]
        refine ⟨[], hb.symm, nofun, rfl, rfl, rfl, ?_⟩
        rw [hb]
        rintro y hy
        cases hy
        exact hl

theorem fenceBody_closes {i : Instr} {s : State} {c : Iss} (h : Issues s {} i.bytes c) (hroom : c.grp.batches.length < 16) :
    fenceBody i s = .next (State.after (c.s.modGroup c.f.gang c.f.group (fun g =>
       ({ g with
          tiles := g.tiles.map (fun t => { t with fenced := true })
          batches := g.batches ++ [{ num := g.nextb.toNat, left := (g.tiles.filter (fun t => !t.fenced)).length }]
          tlc := g.tlc + 1, nextb := g.nextb + 1 } : Group).closeBatches 17)) c) :=
  issue_ok h (if_neg (Nat.not_le.mpr hroom))

/-- Settles O30: MFENCE and MWAIT pass their check; batches close from the front by induction on their number. -/
theorem queueAndBatches : Obligations.QueueAndBatches := by
  unfold Obligations.QueueAndBatches
  refine ⟨⟨?_, ?_, closeBatches_spec 17⟩, ?_⟩
  · rintro i s c (rfl | rfl) h hroom
    · exact fenceBody_closes h hroom
    · exact fenceBody_closes h hroom
  · intro x s c h hopen
    change execMwait x s = _
    unfold execMwait
    refine issue_ok h (if_neg ?_)
    simp only [Bool.not_eq_true, List.any_eq_false, beq_iff_eq]
    exact hopen
  · intro c s k srcs dsts
    refine ⟨fun hfull => if_pos hfull, fun s1 s2 hroom hrel hread => ?_⟩
    refine ⟨{ kind := k, started := false, fenced := false, order := s2.nextCmd
              pins := (srcs.flatMap (fun r => rangeLines r.base r.extent)).eraseDups
              owned := (dsts.flatMap (fun d => rangeLines d.1 d.2)).eraseDups }, rfl, rfl, rfl, rfl, ?_, ?_, ?_⟩
    · intro l
      simp only [List.mem_eraseDups, List.mem_flatMap]
    · intro l
      simp only [List.mem_eraseDups, List.mem_flatMap]
    · unfold enqueue
      rw [if_neg (Nat.not_le.mpr hroom), hrel, ok_bind]
      dsimp only
      rw [hread, ok_bind]

/-! ## Reservations (11 R208-R212) -/

theorem press?_modPress (s : State) (i j : Nat) (h : Press → Press) (hi : i < s.presses.length) :
    (s.modPress i h).press? j = if j = i then h (s.press? i) else s.press? j := by
  simp only [State.press?, State.modPress, List.getD_eq_getElem?_getD, List.getElem?_modify]
  by_cases e : j = i
  · subst e
    simp [hi]
  · simp [e, Ne.symm e]

theorem reservation?_of_presses {s t : State} (h : t.presses = s.presses) (g : Gang) : t.reservation? g = s.reservation? g := by
  unfold State.reservation? State.press?
  rw [h]

theorem gangsOnly_foldl {α : Type} {f : State → α → State} (hf : ∀ s a, gangsOnly s (f s a)) (l : List α) (s : State) :
    gangsOnly s (l.foldl f s) := by
  induction l generalizing s with
  | nil => exact gangsOnly_refl s
  | cons a l ih => exact gangsOnly_trans (hf s a) (ih _)

theorem presses_endRelease (s : State) (g : Gang) : (s.endRelease g).presses = (s.unreserve g).presses := by
  unfold State.endRelease
  obtain ⟨gs, cs, h⟩ := gangsOnly_foldl (f := fun (s : State) (y : Focus × Split) => countIssue (advance (s.modSplit y.1 Split.go) y.1 12) y.1)
    (fun s y => gangsOnly_trans (modSplit_gangsOnly s _ _) (gangsOnly_trans (advance_gangsOnly _ _ _) (countIssue_gangsOnly _ _))) _ (s.unreserve g)
  dsimp only
  rw [h]

theorem reservation?_endRelease_same {s : State} {g : Gang} (h : g.press < s.presses.length) : (s.endRelease g).reservation? g = none := by
  rw [reservation?_of_presses (presses_endRelease s g)]
  unfold State.reservation? State.unreserve
  rw [press?_modPress s _ _ _ h, if_pos rfl, List.find?_filter, List.find?_eq_none]
  intro r _ hn
  simp at hn

theorem reservation?_endRelease_other {s : State} {g k : Gang} {r : Reservation} (h : g.press < s.presses.length) (hid : k.id ≠ g.id)
    (hr : s.reservation? k = some r) : (s.endRelease g).reservation? k = some r := by
  rw [reservation?_of_presses (presses_endRelease s g)]
  unfold State.reservation? State.unreserve at *
  rw [press?_modPress s _ _ _ h]
  split
  next hp =>
    rw [hp] at hr
    rw [List.find?_filter, ← hr]
    refine congrArg (fun p => List.find? p (s.press? g.press).reservations) (funext fun y => ?_)
    by_cases e : y.gang = k.id
    · simp [e, hid]
    · simp [e]
  next => exact hr

theorem reserve_held {s : State} {g : Gang} {r : Reservation} (hr : s.reservation? g = some r) (hrel : r.releasing = false) (nm nk : Nat) :
    s.reserve g nm nk = (s, decide (nm ≤ r.moulds.length ∧ nk ≤ r.accs.length)) := by
  unfold State.reserve
  rw [hr]
  simp [hrel]

theorem reserve_granted {s : State} {g : Gang} {nm nk : Nat} (hr : s.reservation? g = none)
    (hroom : (s.press? g.press).shared = true ∨ (s.press? g.press).usedMoulds + nm ≤ 32 ∧ (s.press? g.press).usedAccs + nk ≤ 8)
    (h : g.press < s.presses.length) : (s.reserve g nm nk).2 = true ∧ (s.reserve g nm nk).1.reservation? g =
      some { gang := g.id, releasing := false, moulds := List.replicate nm Mould.fresh, accs := List.replicate nk Acc.fresh } := by
  unfold State.reserve
  rw [hr]
  dsimp only
  rw [if_pos hroom]
  refine ⟨rfl, ?_⟩
  unfold State.reservation? at *
  rw [press?_modPress s _ _ _ h, if_pos rfl]
  simp [List.find?_append, hr]

theorem reserve_refused {s : State} {g : Gang} {nm nk : Nat} (hr : s.reservation? g = none)
    (hroom : ¬((s.press? g.press).shared = true ∨ (s.press? g.press).usedMoulds + nm ≤ 32 ∧ (s.press? g.press).usedAccs + nk ≤ 8)) :
    s.reserve g nm nk = (s.refuse g.id, false) := by
  unfold State.reserve
  rw [hr]
  exact if_neg hroom

theorem bit_ne_zero (b : Bool) : decide ([(BitVec.ofNat 64 (bit b) : Word)].headD 0 ≠ 0) = b := by
  cases b <;> decide

theorem refused_refuse {s : State} {id : Nat} {g : Gang} (hg : s.gang? id = some g) :
    ((s.refuse id).gang? id).map Gang.refused = some (min 0xFFFF (g.refused + 1)) := by
  unfold State.refuse
  rw [gang?_modGang_same, hg]
  · rfl
  · exact fun _ => rfl

/-- Settles O28: each member acts by the reservation it finds; the ends of a release and of a request by what the press then lists. -/
theorem reservations : Obligations.Reservations := by
  unfold Obligations.Reservations
  refine ⟨⟨?_, fun s c h => ⟨fun hr => ?_, fun hr ht => ?_⟩, ?_⟩, ?_, ?_⟩
  · intro x s c h hp r htrail
    change execMres x s = _
    unfold execMres
    refine issue_ok h ?_
    refine (pairLoad_alone hp rfl _).trans ?_
    rw [if_neg (Bool.eq_false_iff.mp htrail)]
    exact congrArg (fun b => Except.ok (r.1.writeU c.f (.up x.d b))) (bit_ne_zero r.2)
  · change execMrel s = _
    unfold execMrel
    refine issue_ok h ?_
    rw [hr]
  · change execMrel s = _
    unfold execMrel
    refine issue_ok h ?_
    split
    next hn => exact absurd hn hr
    next => rw [ht]; rfl
  · intro x s c h hp hflip
    change execMstat x s = _
    unfold execMstat
    refine issue_ok h ?_
    refine (pairLoad_alone hp rfl _).trans ?_
    exact congrArg Except.ok (putUni_noFlip hflip _ _)
  · exact fun s g h => ⟨reservation?_endRelease_same h, fun k r hid hr => reservation?_endRelease_other h hid hr⟩
  · intro s g nm nk p
    refine ⟨fun r hr hrel => reserve_held hr hrel nm nk, fun hr hroom h => ?_, fun hr hroom => ?_⟩
    · obtain ⟨hgot, hres⟩ := reserve_granted hr hroom h
      exact ⟨hgot, _, hres, rfl, rfl, rfl⟩
    · rw [reserve_refused hr hroom]
      refine ⟨rfl, rfl, fun y hy => ?_⟩
      exact refused_refuse hy

end Sys2Proof.Proofs.PressMembers
end

section
/-! PROOFS. Queue objects, tasks, work-lists and futures -/


namespace Sys2Proof.Proofs.TaskMembers
open Sys2Proof Sys2Proof.Machine Sys2Proof.Claims Sys2Proof.Proofs.Control Sys2Proof.Proofs.Access

/-! ## What the members share (14 R266, R276) -/

section
variable {c : Iss} {s t u : State} {h : Hdr} {kind : Nat}

theorem pairRun_waits {perform : State → Performed} (hp : c.gang.pair = none) (hr : perform s = .ok (u, none)) (sig : List Byte)
    (finish : List Word → State → Except Stop State) : pairRun c s sig perform finish = .ok u := by
  unfold pairRun
  rw [hp]
  dsimp only
  rw [hr]

/-- An effect that is performed once: the split goes on behind it, or waits. -/
theorem pairRun_effect {perform : State → Performed} {done : Bool} (hp : c.gang.pair = none)
    (hr : perform s = performedOr (.ok (u, done))) (sig : List Byte) :
    pairRun c s sig perform (fun _ s => .ok (advance s c.f c.len)) = .ok (if done then advance u c.f c.len else u) := by
  cases done with
  | true => exact pairRun_alone (vals := []) hp hr sig _
  | false => exact pairRun_waits hp hr sig _

theorem checkQueue_of_queueOf (hq : queueOf c h kind) (hk : kind ≠ 3) : checkQueue c h (some kind) = .ok () := by
  obtain ⟨hv, ho, rfl⟩ := hq
  unfold checkQueue
  simp [hv, ho, hk]

theorem checkQueue_any (hv : h.valid = true) (hk : h.kind ≠ 3) (ho : h.owner = c.gang.ctx) : checkQueue c h none = .ok () := by
  unfold checkQueue
  simp [hv, ho, hk]

theorem checkWork_of_queueOf (hq : queueOf c h 2) : checkWork c h = .ok () := by
  obtain ⟨hv, ho, hk⟩ := hq
  unfold checkWork
  simp [hv, ho, hk]

end

/-! ## Effects (14 R267, R272-R276) -/

theorem insert_done {i : Instr} {x : PushI} {keep : State → Nat → List Word → List Word} {effect : Nat → List Word → Effect} {s : State} {c : Iss}
    {p : Nat} {h : Hdr} {t u : State} {done : Bool} (hi : Issues s { vs := [vuse x.b true], ss := [x.a] } i.bytes c) (hp : c.gang.pair = none)
    (ho : queueOpen c x.a .rel p h t) (hq : queueOf c h 2) (hroom : h.occ + (keep t p (laneValues c x.b)).length ≤ h.cap)
    (he : doEffect c t (effect p (laneValues c x.b)) (fun s => s) = .ok (u, done)) :
    insertBody i x keep effect s = .next (State.jumped (if done then advance u c.f c.len else u) c) := by
  obtain ⟨s1, hopen, hqueue⟩ := ho
  unfold insertBody
  refine issueJump_ok hi ?_
  rw [hopen, ok_bind]
  refine pairRun_effect hp ?_ _
  dsimp only
  rw [hqueue, ok_bind]
  dsimp only
  rw [checkWork_of_queueOf hq, ok_bind, if_neg (Nat.not_lt.mpr hroom), he]

theorem doEffect_held {c : Iss} {s : State} {g : Gang} (hg : s.gang? c.f.gang = some g) (hrep : g.task.replay = true) (hnr : g.nr = false)
    (hlen : g.effects.length < 256) (e : Effect) (w : State → State) :
    doEffect c s e w = .ok (s.modGang c.f.gang (fun g => { g with effects := g.effects ++ [e] }), true) := by
  unfold doEffect
  rw [hg]
  exact if_pos ⟨by simp [Gang.holds, hrep, hnr], hlen⟩

theorem doEffect_performed {c : Iss} {s : State} {g : Gang} (hg : s.gang? c.f.gang = some g) (hrep : g.task.replay = false) (e : Effect)
    (w : State → State) : doEffect c s e w = .ok (match s.performEffect c.f.gang e with
      | some t => (t, true)
      | none => (w s, false)) := by
  have hnr : becomeNR c s false = .ok s := by
    unfold becomeNR
    rw [hg]
    exact if_pos (Or.inl (by simp [hrep]))
  unfold doEffect
  rw [hg]
  dsimp only
  rw [if_neg (by simp [Gang.holds, hrep]), hnr]
  dsimp only
  cases s.performEffect c.f.gang e <;> rfl

/-- Settles O32: the object opens, its checks pass, and the member's effect is held or performed. -/
theorem effectMembers : Obligations.EffectMembers := by
  unfold Obligations.EffectMembers
  refine ⟨⟨?_, ?_, ?_, ?_, ?_, ?_⟩, fun c s e w g hg => ⟨fun hr hn hl => doEffect_held hg hr hn hl e w, fun hr t ht => ?_, fun hr ht => ?_⟩⟩
  · intro x s c p h t u done hi hp ⟨s1, hopen, hqueue⟩ hq vals hcap he
    change execQpush x s = _
    unfold execQpush
    refine issueJump_ok hi ?_
    rw [hopen, ok_bind]
    refine pairRun_effect hp ?_ _
    dsimp only
    rw [hqueue, ok_bind]
    dsimp only
    rw [checkQueue_of_queueOf hq (by decide), ok_bind, if_neg (Nat.not_lt.mpr hcap), he]
  · intro x s c p h r bs t t1 u done hi hp ⟨s1, hopen, hqueue⟩ hq hr hread hstamp hgood he
    change execTspawn x s = _
    unfold execTspawn
    refine issueJump_ok hi ?_
    rw [hopen, ok_bind]
    refine pairRun_effect hp ?_ _
    dsimp only
    rw [hqueue, ok_bind]
    dsimp only
    rw [checkQueue_of_queueOf hq (by decide), ok_bind, hr, ok_bind, hread, ok_bind, hstamp]
    dsimp only
    rw [if_pos hgood, he]
  · intro x s c y p t t1 u done hi hp hy hopen hreach he
    change execTdone x s = _
    unfold execTdone
    refine issueJump_ok hi ?_
    rw [hy, ok_bind, hopen, ok_bind]
    refine pairRun_effect hp ?_ _
    rw [hreach, ok_bind, he]
  · intro x s c p h t u done hi hp ho hq hroom he
    change execWlpush x s = _
    unfold execWlpush
    exact insert_done (keep := fun _ _ vs => vs) (effect := .wlpush) hi hp ho hq hroom he
  · intro x s c p h t u done hi hp ho hq hroom he
    change execWlins x s = _
    unfold execWlins
    exact insert_done (keep := fun s a vs => newValues (s.onChip a) vs) (effect := .wlins) hi hp ho hq hroom he
  · intro x s c y p t t1 u done hi hp hy hopen hreach hfull hwait he
    change execFutset x s = _
    unfold execFutset
    refine issueJump_ok hi ?_
    rw [hy, ok_bind, hopen, ok_bind]
    refine pairRun_effect hp ?_ _
    rw [hreach, ok_bind]
    cases hb : x.b with
    | none =>
      rw [hb] at he
      refine (if_neg ?_).trans (congrArg performedOr he)
      simpa using hwait hb
    | some b =>
      rw [hb] at he
      refine (if_neg ?_).trans (congrArg performedOr he)
      simpa using hfull (by rw [hb]; rfl)
  · rw [doEffect_performed hg hr, ht]
  · rw [doEffect_performed hg hr, ht]

/-! ## Removals and reads (14 R268, R270, R274, R275) -/

section
variable {i : Instr} {x : PopI} {check : Iss → Hdr → Except Stop Unit} {wait : Bool} {s : State} {c : Iss} {p : Nat} {h : Hdr} {t u : State}

/-- A pop whose checks pass is its removal, run once for a pair. -/
theorem popBody_open (hi : Issues s { vs := [vdest x.d true], ss := [x.a], ps := [x.c] } i.bytes c) (ho : queueOpen c x.a .plain p h t)
    (hcheck : check c h = .ok ()) : ∃ (perform : State → Performed) (s1 : State) (sig : List Byte), perform s1 = removeItems c t p x wait ∧
      ∀ v, pairRun c s1 sig perform (fun vals s => .ok (receive c x vals s)) = .ok v → popBody i x check wait s = .next (State.jumped v c) := by
  obtain ⟨s1, hopen, hqueue⟩ := ho
  refine ⟨fun s => do
    let (s2, h) ← openQueue c s p
    check c h
    removeItems c s2 p x wait, s1, effectSig i [c.readS x.a], ?_, fun v hv => ?_⟩
  · dsimp only
    rw [hqueue, ok_bind]
    dsimp only
    rw [hcheck, ok_bind]
  · unfold popBody
    refine issueJump_ok hi ?_
    rw [hopen, ok_bind]
    exact hv

theorem popBody_takes (hi : Issues s { vs := [vdest x.d true], ss := [x.a], ps := [x.c] } i.bytes c) (hp : c.gang.pair = none)
    (ho : queueOpen c x.a .plain p h t) (hcheck : check c h = .ok ()) {vals : List Word}
    (hr : removeItems c t p x wait = .ok (u, some vals)) : popBody i x check wait s = .next (State.jumped (receive c x vals u) c) := by
  obtain ⟨perform, s1, sig, hperform, hnext⟩ := popBody_open (wait := wait) hi ho hcheck
  exact hnext _ (pairRun_alone hp (hperform.trans hr) sig _)

theorem popBody_waits (hi : Issues s { vs := [vdest x.d true], ss := [x.a], ps := [x.c] } i.bytes c) (hp : c.gang.pair = none)
    (ho : queueOpen c x.a .plain p h t) (hcheck : check c h = .ok ()) (hr : removeItems c t p x wait = .ok (u, none)) :
    popBody i x check wait s = .next (State.jumped u c) := by
  obtain ⟨perform, s1, sig, hperform, hnext⟩ := popBody_open (wait := wait) hi ho hcheck
  exact hnext _ (pairRun_waits hp (hperform.trans hr) sig _)

theorem removeItems_takes (hocc : (t.hdr p).occ ≠ 0) (hnr : becomeNR c t true = .ok u) (hocc' : (u.hdr p).occ ≠ 0) :
    removeItems c t p x wait =
      .ok ((u.popItems c.f.gang p (laneCount c.exec)).1, some (u.popItems c.f.gang p (laneCount c.exec)).2) := by
  unfold removeItems
  rw [if_neg (fun hn => hocc hn.1), hnr]
  exact if_neg hocc'

theorem removeItems_waits (hnr : becomeNR c t true = .ok u) (hocc : (u.hdr p).occ = 0) :
    removeItems c t p x true = .ok (u.link c.f p (.pop x.d x.c c.exec), none) := by
  unfold removeItems
  rw [if_neg (fun hn => by simp at hn), hnr]
  exact if_pos hocc

theorem removeItems_empty (hocc : (t.hdr p).occ = 0) : removeItems c t p x false = .ok (t, some []) := if_pos ⟨hocc, rfl⟩

end

/-- QPOP, QTRY and WLPOP are one body; they differ in their check and in whether they wait. -/
def popOf (i : Instr) (x : PopI) (kind : Nat) (check : Iss → Hdr → Except Stop Unit) (wait : Bool) : Prop :=
  (∀ s, exec i s = popBody i x check wait s) ∧ ∀ c h, queueOf c h kind → check c h = .ok ()

theorem pop_is {i : Instr} {x : PopI} {kind : Nat} (hi : i = .qtry x ∧ kind = 0 ∨ i = .wlpop x ∧ kind = 2) :
    ∃ check, popOf i x kind check false := by
  rcases hi with ⟨rfl, rfl⟩ | ⟨rfl, rfl⟩
  · exact ⟨_, fun s => show execQtry x s = _ from rfl, fun c h hq => checkQueue_of_queueOf hq (by decide)⟩
  · exact ⟨_, fun s => show execWlpop x s = _ from rfl, fun c h hq => checkWork_of_queueOf hq⟩

theorem qpop_is (x : PopI) : popOf (.qpop x) x 0 (fun c h => checkQueue c h (some 0)) true :=
  ⟨fun s => show execQpop x s = _ from rfl, fun _ _ hq => checkQueue_of_queueOf hq (by decide)⟩

/-- A status read whose checks pass writes the value it takes from the header. -/
theorem readHeader_reads {c : Iss} {i : Instr} {a d : SReg} {value : State → Nat → Hdr → Nat} {p : Nat} {h : Hdr} {t : State}
    (hp : c.gang.pair = none) (ho : queueOpen c a .plain p h t) (hv : h.valid = true) (hk : h.kind ≠ 3) (howner : h.owner = c.gang.ctx)
    (hflip : c.dueFlip t = none) : readHeader c i a d value = .ok (t.writeU c.f (.s d (BitVec.ofNat 64 (value t p h)))) := by
  obtain ⟨s1, hopen, hqueue⟩ := ho
  unfold readHeader
  rw [hopen, ok_bind]
  refine (pairRun_alone (s1 := t) (vals := [BitVec.ofNat 64 (value t p h)]) hp ?_ _ _).trans ?_
  · dsimp only
    rw [hqueue, ok_bind]
    dsimp only
    rw [checkQueue_any hv hk howner, ok_bind]
  · exact congrArg Except.ok (putUni_noFlip hflip _ _)

/-- Settles O33: the object opens, its checks pass, and the removal or read does what the header says. -/
theorem removalAndReads : Obligations.RemovalAndReads := by
  unfold Obligations.RemovalAndReads
  refine ⟨⟨?_, ?_, ?_, ?_⟩, ?_, ?_, ?_⟩
  · intro i x kind s c p h t u vals hi hiss hp ho hq hocc hnr hocc'
    have hpop : ∃ check wait, popOf i x kind check wait := by
      rcases hi with ⟨rfl, rfl⟩ | hi
      · exact ⟨_, _, qpop_is x⟩
      · obtain ⟨check, hcheck⟩ := pop_is hi
        exact ⟨check, _, hcheck⟩
    obtain ⟨check, wait, hexec, hcheck⟩ := hpop
    rw [hexec]
    exact popBody_takes hiss hp ho (hcheck c h hq) (removeItems_takes hocc hnr hocc')
  · intro x s c p h t u hiss hp ho hq hocc hnr hocc'
    rw [(qpop_is x).1]
    exact popBody_waits hiss hp ho ((qpop_is x).2 c h hq) (removeItems_waits hnr hocc')
  · intro i x kind s c p h t hi hiss hp ho hq hocc
    obtain ⟨check, hexec, hcheck⟩ := pop_is hi
    rw [hexec]
    exact popBody_takes hiss hp ho (hcheck c h hq) (removeItems_empty hocc)
  · intro x s c p t t1 hi hp hopen hreach
    refine ⟨fun hfull hflip => ?_, fun u hfull hnr hfull' => ?_⟩
    · change execFutget x s = _
      unfold execFutget
      refine issueJump_ok hi ?_
      rw [hopen, ok_bind]
      refine (pairRun_alone (s1 := t1) (vals := [t1.futureValue p]) hp ?_ _ _).trans ?_
      · rw [hreach, ok_bind, if_pos hfull]
      · exact congrArg (fun u => Except.ok (advance u c.f c.len)) (putUni_noFlip hflip _ _)
    · change execFutget x s = _
      unfold execFutget
      refine issueJump_ok hi ?_
      rw [hopen, ok_bind]
      refine pairRun_waits hp ?_ _ _
      rw [hreach, ok_bind, if_neg (Bool.eq_false_iff.mp hfull), hnr, ok_bind, if_neg (Bool.eq_false_iff.mp hfull')]
  · intro x s c p h t hi hp ho hv hk howner hflip
    change execQlen x s = _
    unfold execQlen
    exact issue_ok hi (readHeader_reads hp ho hv hk howner hflip)
  · intro x a s c p h t hx hi hp ho hv hk howner hflip
    change execQstat x s = _
    unfold execQstat
    rw [hx]
    exact issue_ok hi (readHeader_reads hp ho hv hk howner hflip)
  · intro x s c hx hi hp hflip
    change execQstat x s = _
    unfold execQstat
    rw [hx]
    refine issue_ok hi ((pairRun_alone (vals := [BitVec.ofNat 64 c.gang.bufferStatus]) hp rfl _ _).trans ?_)
    exact congrArg Except.ok (putUni_noFlip hflip _ _)

end Sys2Proof.Proofs.TaskMembers
end

section
/-! PROOFS. Traps, the return from a handler, control and recovery registers -/


namespace Sys2Proof.Proofs.System
open Sys2Proof Sys2Proof.Machine Sys2Proof.Claims Sys2Proof.Proofs Sys2Proof.Proofs.Control Sys2Proof.Proofs.Access

/-! ## What a change of registers leaves (13 R243) -/

/-- A gang without its groups, and a split without its copies of registers. -/
def bare (g : Gang) : Gang := { g with groups := [] }
def plain (sp : Split) : Split := { sp with shadows := [], written := [] }

theorem map_of_plain {α : Type} {q : Split → α} (hq : ∀ sp, q (plain sp) = q sp) {a b : Option Split} (h : a.map plain = b.map plain) :
    a.map q = b.map q := by
  have := congrArg (Option.map q) h
  simpa only [Option.map_map, Function.comp_def, hq] using this

theorem map_of_bare {α : Type} {q : Gang → α} (hq : ∀ g, q (bare g) = q g) {a b : Option Gang} (h : a.map bare = b.map bare) :
    a.map q = b.map q := by
  have := congrArg (Option.map q) h
  simpa only [Option.map_map, Function.comp_def, hq] using this

/-- Only registers differ: the gangs but for their groups, and the split in focus but for its copies, are as before. -/
structure RegsOnly (f : Focus) (s t : State) : Prop where
  gangs : ∀ k, (t.gang? k).map bare = (s.gang? k).map bare
  split : (t.split? f).map plain = (s.split? f).map plain

section
variable {f : Focus} {s t u : State}

theorem RegsOnly.refl (s : State) : RegsOnly f s s := ⟨fun _ => rfl, rfl⟩

theorem RegsOnly.trans (a : RegsOnly f s t) (b : RegsOnly f t u) : RegsOnly f s u :=
  ⟨fun k => (b.gangs k).trans (a.gangs k), b.split.trans a.split⟩

theorem gangs_foldl {α : Type} {step : State → α → State} (hstep : ∀ s a, (step s a).gangs = s.gangs) (l : List α) (s : State) :
    (l.foldl step s).gangs = s.gangs := by
  induction l generalizing s with
  | nil => rfl
  | cons a l ih => exact (ih _).trans (hstep s a)

theorem RegsOnly.of_gangs (h : t.gangs = s.gangs) : RegsOnly f s t := by
  refine ⟨fun k => ?_, ?_⟩
  · unfold State.gang?
    rw [h]
  · unfold State.split? State.group? State.gang?
    rw [h]

theorem gangs_modGroup (s : State) (gang slot : Nat) (h : Group → Group) (k : Nat) :
    ((s.modGroup gang slot h).gang? k).map bare = (s.gang? k).map bare := by
  unfold State.modGroup
  rw [gang?_modGang s gang k (fun g => Gang.modGroup_id g slot h), Option.map_map]
  refine congrArg (fun q => (s.gang? k).map q) (funext fun g => ?_)
  simp only [Function.comp_apply]
  split <;> rfl

theorem RegsOnly.modGroup (gang slot : Nat) {h : Group → Group} (hs : ∀ x, (h x).slot = x.slot) (hp : ∀ x, (h x).splits = x.splits) :
    RegsOnly f s (s.modGroup gang slot h) :=
  ⟨gangs_modGroup s gang slot h, by rw [split?_modGroup_keep s gang slot hs hp f]⟩

theorem RegsOnly.setSplit {sp sp' : Split} (hf : f.split ≠ 4) (hs : s.split? f = some sp) (hp : plain sp' = plain sp) :
    RegsOnly f s (s.setSplit f (some sp')) := by
  refine ⟨fun k => ?_, ?_⟩
  · unfold State.setSplit
    rw [if_neg hf]
    exact gangs_modGroup s _ _ _ k
  · rw [split?_setSplit_same s (some sp') (by simp [hs]), hs]
    exact congrArg some hp

theorem RegsOnly.putEntry (f : Focus) (e : UEntry) : RegsOnly f s (s.modGroup f.gang f.group (fun g => g.putEntry e)) :=
  .modGroup _ _ (fun _ => Group.putEntry_slot _ _) (fun _ => Group.putEntry_splits _ _)

theorem RegsOnly.writeU (hf : f.split ≠ 4) (e : UEntry) : RegsOnly f s (s.writeU f e) := by
  unfold State.writeU
  split
  next gang g sp hg hx hs =>
    split
    · exact .setSplit hf hs rfl
    · split
      · exact .putEntry f e
      · split
        · exact (RegsOnly.putEntry f e).trans (.setSplit (sp := sp) hf (by rw [split?_putEntry]; exact hs) rfl)
        · split
          · exact .setSplit hf hs rfl
          · have hall : RegsOnly f s (s.modGroup f.gang f.group (fun g =>
                { (sp.shadows.foldr (fun x g => g.putEntry x) g).putEntry e with
                  serial := if h : f.split < 4 then some ⟨f.split, h⟩ else none })) :=
              .modGroup _ _ (by simp) (by simp)
            exact hall.trans ((RegsOnly.setSplit (sp := sp) (sp' := { sp with
              shadows := [], written := (sp.shadows ++ [e]).filter (fun x => !sp.written.any (fun y => y.same x)) ++ sp.written }) hf
              ((split?_modGroup_keep s _ _ (by simp) (by simp) f).trans hs) rfl).trans (.of_gangs rfl))
  next => exact .refl s

theorem RegsOnly.changeUp (hf : f.split ≠ 4) (r : Fin 4) (v : Bool) : RegsOnly f s (s.changeUp f r v) := by
  unfold State.changeUp
  split
  · split
    · exact .refl s
    · exact .writeU hf _
  · exact .refl s

theorem gangs_vatWriteBytes (s : State) (core a : Nat) (bs : List Byte) : (s.vatWriteBytes core a bs).gangs = s.gangs := by
  induction bs generalizing s a with
  | nil => rfl
  | cons b bs ih =>
    rw [State.vatWriteBytes, ih]
    unfold State.vatWrite
    split <;> rfl

theorem gangs_setLane (s : State) (gang slot r l : Nat) (v : W32) : (s.setLane gang slot r l v).gangs = s.gangs := by
  unfold State.setLane
  split
  · rfl
  · exact gangs_vatWriteBytes s _ _ _

theorem RegsOnly.foldl {α : Type} {step : State → α → State} (hstep : ∀ s a, RegsOnly f s (step s a)) (l : List α) (s : State) :
    RegsOnly f s (l.foldl step s) := by
  induction l generalizing s with
  | nil => exact .refl s
  | cons a l ih => exact (hstep s a).trans (ih _)

end

/-! ## The trap that halts a gang, and its delivery (16 R294-R298) -/

theorem gangs_modSplit (s : State) {f : Focus} (hf : f.split < 4) (h : Split → Split) (k : Nat) :
    ((s.modSplit f h).gang? k).map bare = (s.gang? k).map bare := by
  unfold State.modSplit
  split
  · unfold State.setSplit
    rw [if_neg (by omega)]
    exact gangs_modGroup s f.gang f.group _ k
  · rfl

theorem halt_modSplit (s : State) {f : Focus} (hf : f.split < 4) (h : Split → Split) (k : Nat) :
    ((s.modSplit f h).gang? k).map Gang.halt = (s.gang? k).map Gang.halt := map_of_bare (fun _ => rfl) (gangs_modSplit s hf h k)

theorem split?_modGang_halt (s : State) (id : Nat) (v : Option Halt) (f : Focus) :
    (s.modGang id (fun g => { g with halt := v })).split? f = s.split? f := by
  unfold State.split? State.group?
  rw [gang?_modGang s id f.gang (h := fun g => { g with halt := v }) (fun _ => rfl)]
  cases s.gang? f.gang with
  | none => rfl
  | some g => by_cases e : f.gang = id <;> simp [e, Gang.group?]

theorem halt_modGang {s : State} {id : Nat} {g : Gang} (hg : s.gang? id = some g) (v : Option Halt) :
    ((s.modGang id (fun g => { g with halt := v })).gang? id).map Gang.halt = some v := by
  rw [gang?_modGang_same s id (h := fun g => { g with halt := v }) (fun _ => rfl), hg]
  rfl

/-- The halt that the first trap of a gang broadcasts. -/
def firstHalt (g : Gang) (f : Focus) (sp : Split) (len : Nat) (execm : LaneMask) (t : TrapInfo) : Halt :=
  { trap := t, group := f.group, split := Fin.ofNat 4 f.split, pc := sp.pc, npc := sp.pc + BitVec.ofNat 64 len, execm := execm
    phase := .skid, skid := g.order.map (fun k => (k, 0)), ended := [], double := none, dpc := 0, dnpc := 0, dexec := 0 }

/-- The handler split of a faulting group (16 R298). -/
def handlerSplit (g : Gang) (x : Group) : Split :=
  { pc := g.csr.hvec, lanes := x.live, fmt := 0x003F, part := 5, stack := [], shadows := [], written := [], age := g.age, status := .ready
    boost := none, idle := 0, joined := false }

/-- A trap is delivered to the handler of a gang that is no trail. -/
def delivered (s : State) (id : Nat) (g : Gang) (h : Halt) (x : Group) : State :=
  ((s.writeFrame g h).modGang id (fun g' =>
    { g' with halt := some { h with phase := .handling }, handler := some (handlerSplit g x), handlerRest := [] })).modGroup id h.group
    (fun x => (x.putEntry (.s 0 g.csr.hframe)).putEntry (.s 1 (BitVec.ofNat 64 (h.trap.cause + 2 ^ 8 * h.trap.sub))))

section
variable {s : State} {id : Nat} {g : Gang} {x : Group}

theorem gang?_delivered (hg : s.gang? id = some g) (h : Halt) (x : Group) :
    ((delivered s id g h x).gang? id).map Gang.handler = some (some (handlerSplit g x)) ∧
    ((delivered s id g h x).gang? id).map Gang.halt = some (some { h with phase := .handling }) := by
  have hbare := gangs_modGroup ((s.writeFrame g h).modGang id (fun g' =>
    { g' with halt := some { h with phase := .handling }, handler := some (handlerSplit g x), handlerRest := [] })) id h.group
    (fun x => (x.putEntry (.s 0 g.csr.hframe)).putEntry (.s 1 (BitVec.ofNat 64 (h.trap.cause + 2 ^ 8 * h.trap.sub)))) id
  rw [gang?_modGang_same, show (s.writeFrame g h).gang? id = some g from hg] at hbare
  · exact ⟨map_of_bare (q := Gang.handler) (fun _ => rfl) hbare, map_of_bare (q := Gang.halt) (fun _ => rfl) hbare⟩
  · exact fun _ => rfl

theorem group?_delivered (hg : s.gang? id = some g) {h : Halt} (hx : g.group? h.group = some x) : (delivered s id g h x).group? id h.group =
    some ((x.putEntry (.s 0 g.csr.hframe)).putEntry (.s 1 (BitVec.ofNat 64 (h.trap.cause + 2 ^ 8 * h.trap.sub)))) := by
  unfold delivered
  rw [group?_modGroup_same _ _ _ (by simp)]
  have hgrp : ((s.writeFrame g h).modGang id (fun g' =>
      { g' with halt := some { h with phase := .handling }, handler := some (handlerSplit g x), handlerRest := [] })).group? id h.group = some x := by
    unfold State.group?
    rw [gang?_modGang_same, show (s.writeFrame g h).gang? id = some g from hg]
    · exact hx
    · exact fun _ => rfl
  rw [hgrp]
  rfl

theorem sAt_delivered (hg : s.gang? id = some g) {h : Halt} (hx : g.group? h.group = some x) :
    (delivered s id g h x).sAt { gang := id, group := h.group, split := 4 } 0 = g.csr.hframe ∧
    (delivered s id g h x).sAt { gang := id, group := h.group, split := 4 } 1 = BitVec.ofNat 64 (h.trap.cause + 2 ^ 8 * h.trap.sub) := by
  have hs : (delivered s id g h x).split? { gang := id, group := h.group, split := 4 } = some (handlerSplit g x) := by
    obtain ⟨hhandler, -⟩ := gang?_delivered hg h x
    obtain ⟨g', hg', hh⟩ := Option.map_eq_some_iff.mp hhandler
    unfold State.split?
    rw [if_pos rfl, hg']
    exact hh
  unfold State.sAt
  rw [group?_delivered hg hx, hs]
  simp [Group.readS, handlerSplit, Group.putEntry]

end

/-- Settles O34: the trap finds the gang running, or halted already; delivery starts the handler split. -/
theorem trapsAndHandler : Obligations.TrapsAndHandler := by
  unfold Obligations.TrapsAndHandler
  refine ⟨?_, ?_⟩
  · intro s f len execm t g sp hg hs u
    refine ⟨fun hn hr hf => ?_, fun h hh hf => ?_, fun h hh hf => ?_, raiseTrap_gangsOnly s f len execm t⟩
    · have hu : u = (s.modGang f.gang (fun g' => { g' with halt := some (firstHalt g f sp len execm t) })).modSplit f (fun sp => { sp with status := .ready }) := by
        unfold u raiseTrap
        simp only [hg, hs, hn, hr]
        exact if_neg (by simp)
      rw [hu]
      refine ⟨_, (halt_modSplit _ hf _ _).trans (halt_modGang hg _), rfl, rfl, Nat.mod_eq_of_lt hf, rfl, rfl, rfl, rfl, rfl, rfl, rfl, ?_⟩
      rw [split?_modSplit_same, split?_modGang_halt, hs]
      rfl
    · have hu : u = s.modGang f.gang (fun g => { g with halt := some { h with ended := (f.group, f.split) :: h.ended } }) := by
        unfold u raiseTrap
        simp only [hg, hs, hh]
        exact if_neg (by omega)
      rw [hu]
      exact ⟨halt_modGang hg _, (split?_modGang_halt s _ _ f).trans hs⟩
    · have hu : u = s.modGang f.gang (fun g =>
          { g with halt := some { h with double := some t, dpc := sp.pc, dnpc := sp.pc + BitVec.ofNat 64 len, dexec := execm } }) := by
        unfold u raiseTrap
        simp only [hg, hs, hh]
        exact if_pos hf
      rw [hu]
      exact halt_modGang hg _
  · intro s id g h x hg hh hx u
    have hu : u = delivered s id g h x := by
      unfold u deliverToHandler
      simp only [hg, hh, hx]
      rfl
    obtain ⟨hhandler, hhalt⟩ := gang?_delivered hg h x
    rw [hu]
    obtain ⟨g', hg', hh'⟩ := Option.map_eq_some_iff.mp hhandler
    obtain ⟨h0, h1⟩ := sAt_delivered hg hx
    exact ⟨handlerSplit g x, by rw [hg']; exact hh', rfl, rfl, rfl, rfl, rfl, rfl, hhalt, h0, h1, rfl, rfl⟩

/-! ## ERET's frame (16 R299) -/

theorem leNat_lt (bs : List Byte) : leNat bs < 2 ^ (8 * bs.length) := by
  induction bs with
  | nil => decide
  | cons b bs ih =>
    have hb := b.isLt
    have hp : (2 : Nat) ^ (8 * (b :: bs).length) = 2 ^ 8 * 2 ^ (8 * bs.length) := by rw [← Nat.pow_add]; congr 1; simp; omega
    rw [leNat, hp]
    omega

theorem leBytes_leNat (bs : List Byte) : leBytes bs.length (leNat bs) = bs := by
  induction bs with
  | nil => rfl
  | cons b bs ih =>
    have hb := b.isLt
    have hlow : BitVec.ofNat 8 (b.toNat + 2 ^ 8 * leNat bs) = b := BitVec.eq_of_toNat_eq (by simp; omega)
    have hhigh : (b.toNat + 2 ^ 8 * leNat bs) / 2 ^ 8 = leNat bs := by omega
    rw [List.length_cons, leNat, leBytes, hlow, hhigh, ih]

theorem unpack_pack (bs : List Byte) (n : Nat) (h : 8 * n ≤ bs.length) : unpackWords (packWords bs n) = bs.take (8 * n) := by
  induction n with
  | zero => rfl
  | succ n ih =>
    have hlen : ((bs.drop (8 * n)).take 8).length = 8 := by simp; omega
    have hlt := leNat_lt ((bs.drop (8 * n)).take 8)
    have hword : leBytes 8 (BitVec.ofNat 64 (leNat ((bs.drop (8 * n)).take 8))).toNat = (bs.drop (8 * n)).take 8 := by
      rw [BitVec.toNat_ofNat, Nat.mod_eq_of_lt (by rw [hlen] at hlt; exact hlt)]
      have := leBytes_leNat ((bs.drop (8 * n)).take 8)
      rwa [hlen] at this
    have hstep : unpackWords (packWords bs (n + 1)) = unpackWords (packWords bs n) ++ (bs.drop (8 * n)).take 8 := by
      simp only [unpackWords, packWords, List.range_succ, List.map_append, List.flatMap_append, List.map_cons, List.map_nil,
        List.flatMap_cons, List.flatMap_nil, List.append_nil, hword]
    rw [hstep, ih (by omega), ← List.take_add]
    rfl

/-! ## Control registers (16 R301) -/

theorem of_ite_some {α : Type} {p : Prop} [Decidable p] {a r : α} (h : (if p then some a else none) = some r) : p ∧ a = r := by
  split at h
  next hp => exact ⟨hp, Option.some.inj h⟩
  next => cases h

theorem csrWrite_reads {c : Iss} {n : Nat} {v : Word} {r : Csrs} (h : csrWrite c n v = some r) : 
    (∀ d : Iss, d.gang.csr = r → d.f = c.f → csrRead d n = some (if n = 1 then v &&& delegMask else v)) ∧
      (∀ d : Iss, d.gang.csr = r → d.f = c.f → ∀ k, k ≠ n → csrRead d k = csrRead c k) ∧ n ≠ 2 ∧ n ≠ 3 ∧ n ≠ 5 := by
  have hread : ∀ d : Iss, d.gang.csr = r → d.f = c.f → ∀ k, csrRead d k = csrRead { c with gang := { c.gang with csr := r } } k := by
    intro d hd hf k
    unfold csrRead
    rw [hd, hf]
  suffices hgoal : csrRead { c with gang := { c.gang with csr := r } } n = some (if n = 1 then v &&& delegMask else v) ∧
      (∀ k, k ≠ n → csrRead { c with gang := { c.gang with csr := r } } k = csrRead c k) ∧ n ≠ 2 ∧ n ≠ 3 ∧ n ≠ 5 by
    obtain ⟨hsame, hother, hn⟩ := hgoal
    exact ⟨fun d hd hf => (hread d hd hf n).trans hsame, fun d hd hf k hk => (hread d hd hf k).trans (hother k hk), hn⟩
  clear hread
  unfold csrWrite at h
  dsimp only at h
  split at h
  case h_2 =>
    cases h
    refine ⟨rfl, fun k hk => ?_, by decide⟩
    unfold csrRead
    dsimp only
    split <;> simp_all
  case h_12 => cases h
  all_goals
    obtain ⟨hp, rfl⟩ := of_ite_some h
    refine ⟨by simp [csrRead, hp], fun k hk => ?_, by decide⟩
    unfold csrRead
    dsimp only
    split <;> simp_all

theorem codeTrap_raises {i : Instr} {s : State} {c : Iss} (h : Issues s {} i.bytes c) (cause n : Nat) :
    issue i {} (fun c => codeTrap c cause n) s = .next (raiseTrap (s.trapCopy c none) c.f i.bytes c.exec
      { cause := cause, sub := 0, kind := 0, lanes := c.exec, addr := 0, info := BitVec.ofNat 64 n }) := by
  unfold issue
  rw [issueAt_issues h]
  rfl

/-- Settles O35: ERET, SYSCALL and CSRW pass their checks; BKPT and TRAP are traps of their own. -/
theorem systemMembers : Obligations.SystemMembers := by
  unfold Obligations.SystemMembers
  refine ⟨⟨⟨?_, ?_, ?_⟩, fun c n v r h => csrWrite_reads h⟩, ?_⟩
  · intro s c t h hp hall hfree u
    change execEret s = _
    unfold execEret
    refine issueJump_ok h ?_
    rw [if_neg (by simp [Gang.buffered, hp])]
    refine (pairLoad_alone (s1 := u) (vals := packWords (u.mem.readBytes c.gang.framePhys 2304) 288) hp ?_ _).trans ?_
    · dsimp only
      rw [show frameRead = 2304 from rfl, hall]
      refine (if_neg ?_).trans rfl
      simpa using hfree
    · rw [unpack_pack _ _ (by simp), List.take_of_length_le (by simp)]
  · intro x s c t h hp hall
    change execSyscall x s = _
    unfold execSyscall
    refine issueJump_ok h ?_
    rw [releaseFirst_ar hall, ok_bind]
    dsimp only
    unfold pairRun
    rw [hp]
  · intro x s c r h hr
    change execCsrw x s = _
    unfold execCsrw
    refine issue_ok h ?_
    rw [hr]
  · intro i cause n s c hi h
    obtain ⟨hi, rfl, rfl⟩ | ⟨x, rfl, rfl, rfl⟩ | ⟨x, rfl, rfl, rfl⟩ := hi
    · subst hi
      exact codeTrap_raises h 0x10 0
    · exact codeTrap_raises h 0x10 x.n.toNat
    · exact codeTrap_raises h 0x12 x.n.toNat
end Sys2Proof.Proofs.System

namespace Sys2Proof.Proofs.System
open Sys2Proof Sys2Proof.Machine Sys2Proof.Claims Sys2Proof.Proofs Sys2Proof.Proofs.Control Sys2Proof.Proofs.Access

/-! ## The return from the handler (16 R299) -/

/-- The halt of a gang is lifted. -/
def lifted (s : State) (id : Nat) : State :=
  s.modGang id (fun g =>
    { g with
      halt := none, handler := none, handlerRest := [], csr := { g.csr with trapcnt := g.csr.trapcnt + 1 }
      injections := g.injections.map (fun i => { i with live := true }) })

/-- The faulting split as it resumes. -/
def resumedSplit (pc : Word) (skip : Bool) (fr : List Byte) (sp : Split) : Split :=
  { sp with
    pc := pc, status := .ready, joined := sp.joined && !skip
    fmt := heldFmt sp.fmt (BitVec.ofNat 16 (fieldAt fr 222 2)), part := heldPart sp.part (BitVec.ofNat 16 (fieldAt fr 224 2)) }

/-- VSAVE, SSAVE, UPSAVE and PSAVE are written back. -/
def writeLanesBack (f : Focus) (live : List Nat) (fr : List Byte) (s : State) : State :=
  (List.range 16).foldl (fun s r =>
    live.foldl (fun s l => s.setLane f.gang f.group r l (BitVec.ofNat 32 (fieldAt fr (256 + 128 * r + 4 * l) 4))) s) s
def writeUniformBack (f : Focus) (fr : List Byte) (s : State) : State :=
  (List.range 16).foldl (fun t r => t.writeU f (.s (Fin.ofNat 384 r) (BitVec.ofNat 64 (fieldAt fr (64 + 8 * r) 8)))) s
def writeUpsBack (f : Focus) (fr : List Byte) (s : State) : State :=
  (List.range 3).foldl (fun t r => t.changeUp f (Fin.ofNat 4 (r + 1)) ((fieldAt fr 220 1).testBit (r + 1))) s
def predsBack (fr : List Byte) (x : Group) : Group :=
  (List.range 7).foldl (fun x r => x.setPred (Fin.ofNat 8 (r + 1)) (~~~ x.dead) (BitVec.ofNat 32 (fieldAt fr (192 + 4 * r) 4))) x

/-- What the frame holds goes back to the registers. -/
def writtenBack (f : Focus) (live : List Nat) (fr : List Byte) (s : State) : State :=
  (writeUpsBack f fr (writeUniformBack f fr (writeLanesBack f live fr s))).modGroup f.gang f.group (predsBack fr)

section
variable {s : State} {id : Nat} {g : Gang} {h : Halt} {x : Group} {sp : Split} {fr : List Byte}

theorem resume_eq (hg : s.gang? id = some g) (hh : g.halt = some h) (hx : g.group? h.group = some x) (skip : Bool) (fr : List Byte) :
    resumeFromHandler s id skip fr = writtenBack { gang := id, group := h.group, split := h.split.val } (lanesOf x.live) fr
      ((lifted s id).modSplit { gang := id, group := h.group, split := h.split.val } (resumedSplit (if skip then h.npc else h.pc) skip fr)) := by
  unfold resumeFromHandler
  simp only [hg, hh, hx]
  rfl

theorem predsBack_same (fr : List Byte) (x : Group) : (predsBack fr x).slot = x.slot ∧ (predsBack fr x).splits = x.splits ∧
    (predsBack fr x).s = x.s := by
  unfold predsBack
  generalize List.range 7 = l
  induction l generalizing x with
  | nil => exact ⟨rfl, rfl, rfl⟩
  | cons r l ih =>
    rw [List.foldl_cons]
    obtain ⟨hslot, hsplits, hregs⟩ := ih (x := x.setPred (Fin.ofNat 8 (r + 1)) (~~~ x.dead) (BitVec.ofNat 32 (fieldAt fr (192 + 4 * r) 4)))
    have hset : ∀ (n : PReg) (m v : LaneMask), (x.setPred n m v).slot = x.slot ∧ (x.setPred n m v).splits = x.splits ∧
        (x.setPred n m v).s = x.s := by
      intro n m v
      unfold Group.setPred
      split <;> exact ⟨rfl, rfl, rfl⟩
    obtain ⟨hslot', hsplits', hregs'⟩ := hset (Fin.ofNat 8 (r + 1)) (~~~ x.dead) (BitVec.ofNat 32 (fieldAt fr (192 + 4 * r) 4))
    exact ⟨hslot.trans hslot', hsplits.trans hsplits', hregs.trans hregs'⟩

theorem RegsOnly.writtenBack {f : Focus} (hf : f.split ≠ 4) (live : List Nat) : RegsOnly f s (writtenBack f live fr s) := by
  have hlanes : RegsOnly f s (writeLanesBack f live fr s) :=
    .foldl (fun s r => .foldl (fun s l => .of_gangs (gangs_setLane _ _ _ _ _ _)) live s) _ s
  have huni : RegsOnly f (writeLanesBack f live fr s) (writeUniformBack f fr (writeLanesBack f live fr s)) :=
    .foldl (fun s r => .writeU hf _) _ _
  have hups : RegsOnly f (writeUniformBack f fr (writeLanesBack f live fr s)) (writeUpsBack f fr (writeUniformBack f fr (writeLanesBack f live fr s))) :=
    .foldl (fun s r => .changeUp hf _ _) _ _
  exact hlanes.trans (huni.trans (hups.trans (.modGroup _ _ (fun x => (predsBack_same fr x).1) (fun x => (predsBack_same fr x).2.1))))

end

/-- The group and the split that a focus names exist. -/
def Stands (f : Focus) (s : State) : Prop := (∃ g, s.group? f.gang f.group = some g) ∧ ∃ sp, s.split? f = some sp

theorem Stands.writeU {f : Focus} {s : State} (h : Stands f s) (e : UEntry) : Stands f (s.writeU f e) := by
  obtain ⟨⟨g, hg⟩, sp, hs⟩ := h
  exact lookups_writeU hg hs e

theorem sAt_writeUniform (f : Focus) (v : Nat → Word) (l : List Nat) (hl : ∀ r, r ∈ l → (Fin.ofNat 384 r : SReg) ≠ 0) (s : State) (h : Stands f s) :
    (l.foldl (fun t r => t.writeU f (.s (Fin.ofNat 384 r) (v r))) s).sAt f 0 = s.sAt f 0 := by
  induction l generalizing s with
  | nil => rfl
  | cons r l ih =>
    rw [List.foldl_cons, ih (fun r hr => hl r (List.mem_cons_of_mem _ hr)) _ (h.writeU _)]
    obtain ⟨⟨g, hg⟩, sp, hs⟩ := h
    refine sAt_writeU_other hg hs _ 0 (fun w hw => ?_)
    injection hw with hr
    exact hl r (List.mem_cons_self ..) hr

theorem sAt_writeUniformBack {f : Focus} {s : State} (h : Stands f s) (fr : List Byte) :
    (writeUniformBack f fr s).sAt f 0 = BitVec.ofNat 64 (fieldAt fr 64 8) := by
  have hrange : List.range 16 = 0 :: [1, 2, 3, 4, 5, 6, 7, 8, 9, 10, 11, 12, 13, 14, 15] := rfl
  unfold writeUniformBack
  rw [hrange, List.foldl_cons, sAt_writeUniform f (fun r => BitVec.ofNat 64 (fieldAt fr (64 + 8 * r) 8)) _ (by decide) _ (h.writeU _)]
  obtain ⟨⟨g, hg⟩, sp, hs⟩ := h
  exact sAt_writeU_same hg hs 0 _

theorem sAt_changeUp (s : State) (f : Focus) (r : Fin 4) (v : Bool) (k : SReg) : (s.changeUp f r v).sAt f k = s.sAt f k := by
  unfold State.changeUp
  split
  next g sp hg hs =>
    split
    · rfl
    · exact sAt_writeU_other hg hs _ k nofun
  next => rfl

theorem sAt_predsBack (s : State) (f : Focus) (fr : List Byte) (k : SReg) :
    (s.modGroup f.gang f.group (predsBack fr)).sAt f k = s.sAt f k := by
  unfold State.sAt
  rw [group?_modGroup_same s f.gang f.group (fun x => (predsBack_same fr x).1),
    split?_modGroup_keep s f.gang f.group (fun x => (predsBack_same fr x).1) (fun x => (predsBack_same fr x).2.1) f]
  cases s.group? f.gang f.group with
  | none => rfl
  | some x =>
    cases s.split? f with
    | none => rfl
    | some sp =>
      dsimp only [Option.map_some]
      unfold Group.readS
      rw [(predsBack_same fr x).2.2]

theorem sAt_writtenBack {f : Focus} {s : State} (h : Stands f s) (live : List Nat) (fr : List Byte) :
    (writtenBack f live fr s).sAt f 0 = BitVec.ofNat 64 (fieldAt fr 64 8) := by
  have hgangs : (writeLanesBack f live fr s).gangs = s.gangs := by
    unfold writeLanesBack
    exact gangs_foldl (fun s r => gangs_foldl (fun s l => gangs_setLane _ _ _ _ _ _) live s) _ s
  have hstands : Stands f (writeLanesBack f live fr s) := by
    unfold Stands State.split? State.group? State.gang? at *
    rwa [hgangs]
  unfold writtenBack writeUpsBack
  rw [sAt_predsBack]
  have hups : ∀ (l : List Nat) (t : State), (l.foldl (fun t r => t.changeUp f (Fin.ofNat 4 (r + 1)) ((fieldAt fr 220 1).testBit (r + 1))) t).sAt f 0 =
      t.sAt f 0 := by
    intro l
    induction l with
    | nil => exact fun _ => rfl
    | cons r l ih => exact fun t => (ih _).trans (sAt_changeUp t f _ _ 0)
  rw [hups, sAt_writeUniformBack hstands]

/-! ## Fields that are held (08 R174, 10 R194) -/

theorem heldFmt_ok (old v : BitVec 16) (h : fmtOk v.toNat = true) : heldFmt old v = v := by
  simp only [fmtOk, bitsOf, Bool.and_eq_true] at h
  obtain ⟨⟨hlt, ha⟩, hb⟩ := h
  unfold heldFmt
  have hn : v.toNat % 2 ^ 10 = v.toNat := Nat.mod_eq_of_lt (of_decide_eq_true hlt)
  have ha' : ¬ v.toNat % 8 = 0 := by simpa using of_decide_eq_true ha
  have hb' : ¬ v.toNat / 8 % 8 = 0 := of_decide_eq_true hb
  simp only [hn, if_neg ha', if_neg hb']
  rw [show v.toNat / 64 * 64 + 8 * (v.toNat / 8 % 8) + v.toNat % 8 = v.toNat by omega]
  exact BitVec.ofNat_toNat 16 v

theorem heldFmt_lt (old v : BitVec 16) : (heldFmt old v).toNat < 2 ^ 10 := by
  unfold heldFmt
  dsimp only
  rw [BitVec.toNat_ofNat]
  refine lt_of_le_of_lt (Nat.mod_le _ _) ?_
  split <;> split <;> omega

theorem heldPart_ok (old v : BitVec 16) (hlo : 1 ≤ v.toNat) (hhi : v.toNat ≤ 5) : heldPart old v = v := by
  unfold heldPart
  dsimp only
  rw [Nat.mod_eq_of_lt (by omega), if_pos ⟨hlo, hhi⟩]
  exact BitVec.ofNat_toNat 16 v

theorem heldPart_lt (old v : BitVec 16) : (heldPart old v).toNat < 2 ^ 3 := by
  unfold heldPart
  dsimp only
  split <;> (rw [BitVec.toNat_ofNat]; omega)

section
variable {s : State} {id : Nat} {g : Gang} {h : Halt} {x : Group} {sp : Split} {fr : List Byte}

/-- What a resumed gang and its faulting split are. -/
theorem resumed (hg : s.gang? id = some g) (hh : g.halt = some h) (hx : g.group? h.group = some x) (hs : x.split? h.split.val = some sp)
    (skip : Bool) (fr : List Byte) :
    let f : Focus := { gang := id, group := h.group, split := h.split.val }
    let r := resumeFromHandler s id skip fr
    (r.gang? id).map bare = some (bare { g with
      halt := none, handler := none, handlerRest := [], csr := { g.csr with trapcnt := g.csr.trapcnt + 1 }
      injections := g.injections.map (fun i => { i with live := true }) }) ∧
    (r.split? f).map plain = some (plain (resumedSplit (if skip then h.npc else h.pc) skip fr sp)) ∧
    r.sAt f 0 = BitVec.ofNat 64 (fieldAt fr 64 8) := by
  intro f r
  have hsplit4 : f.split < 4 := h.split.isLt
  have hlift : (lifted s id).gang? id = some { g with
      halt := none, handler := none, handlerRest := [], csr := { g.csr with trapcnt := g.csr.trapcnt + 1 }
      injections := g.injections.map (fun i => { i with live := true }) } := by
    unfold lifted
    rw [gang?_modGang_same]
    · rw [hg]
      rfl
    · exact fun _ => rfl
  have hgrp : (lifted s id).group? id h.group = some x := by
    unfold State.group?
    rw [hlift]
    exact hx
  have hsp : (lifted s id).split? f = some sp := by
    unfold State.split?
    rw [if_neg (by omega)]
    exact (congrArg (fun o => o.bind (fun g => Group.split? g f.split)) hgrp).trans hs
  have hstands : Stands f ((lifted s id).modSplit f (resumedSplit (if skip then h.npc else h.pc) skip fr)) := by
    refine ⟨?_, _, (split?_modSplit_same _ _ _).trans (congrArg _ hsp)⟩
    unfold State.modSplit
    rw [hsp]
    dsimp only
    rw [group?_setSplit, if_neg (by omega), show (lifted s id).group? f.gang f.group = some x from hgrp]
    exact ⟨_, rfl⟩
  have hregs : RegsOnly f ((lifted s id).modSplit f (resumedSplit (if skip then h.npc else h.pc) skip fr)) r := by
    unfold r
    rw [resume_eq hg hh hx]
    exact .writtenBack (by omega) _
  refine ⟨?_, ?_, ?_⟩
  · rw [hregs.gangs, gangs_modSplit _ hsplit4, hlift]
    rfl
  · rw [hregs.split, split?_modSplit_same, hsp]
    rfl
  · unfold r
    rw [resume_eq hg hh hx]
    exact sAt_writtenBack hstands _ _

end

theorem leaveHandler_resumes {c : Iss} {fr : List Byte} (h : fieldAt fr 3 1 ≤ 1) (s : State) :
    leaveHandler c fr s = (resumeFromHandler s c.f.gang (decide (fieldAt fr 3 1 = 1)) fr).deadlockAll c.f.gang := by
  unfold leaveHandler
  obtain e | e : fieldAt fr 3 1 = 0 ∨ fieldAt fr 3 1 = 1 := by omega
  · rw [e]
    rfl
  · rw [e]
    rfl

/-- Settles O36: what the frame holds is written back to registers only, so the gang and its split stand as the halt left them. -/
theorem eretResumes : Obligations.EretResumes := by
  unfold Obligations.EretResumes
  refine ⟨?_, fun old v => ⟨heldFmt_ok old v, heldFmt_lt old v, heldPart_ok old v, heldPart_lt old v⟩⟩
  intro c s fr g h x sp hg hh hx hs f r u
  obtain ⟨hgang, hsplit, hs0⟩ := resumed hg hh hx hs (decide (fieldAt fr 3 1 = 1)) fr
  refine ⟨fun hact => ⟨leaveHandler_resumes hact s, ?_, ?_, ?_, ?_, ?_, hs0⟩, fun hact => ?_, fun hact => ?_⟩
  · rw [pcAt_eq]
    refine (congrArg (fun o => Option.getD o 0) (map_of_plain (b := some _) (q := Split.pc) (fun _ => rfl) hsplit)).trans ?_
    simp [resumedSplit]
  · exact map_of_bare (b := some _) (q := Gang.halt) (fun _ => rfl) hgang
  · exact map_of_bare (b := some _) (q := Gang.handler) (fun _ => rfl) hgang
  · exact map_of_bare (b := some _) (q := Gang.csr) (fun _ => rfl) hgang
  · exact map_of_plain (b := some _) (q := fun y : Split => (y.fmt, y.part, y.status)) (fun _ => rfl) hsplit
  · unfold u leaveHandler
    rw [hact]
    rfl
  · obtain ⟨k, hk⟩ : ∃ k, fieldAt fr 3 1 = k + 3 := ⟨_, (Nat.sub_add_cancel hact).symm⟩
    unfold u leaveHandler
    rw [hk]
    rfl

/-! ## CHKMODE, RPMARK, RPGET and FINJ (17 R317, R327; 18 R330, R333) -/

theorem chkFloor_val {s : State} {ctx mode : Nat} {k : Context} (hk : s.ctx? ctx = some k) (hm : mode ≤ 2) :
    (s.chkFloor ctx mode).val = max k.chkmin.val mode := by
  have hmin := k.chkmin.isLt
  unfold State.chkFloor
  rw [hk]
  exact Nat.mod_eq_of_lt (max_lt hmin (by omega))

/-- A split that stands at the RPMARK with operands that agree waits for the gang. -/
theorem arriveMark_waits {c : Iss} {m : Word × Word} {slot i : Nat} {sp : Split} (hfirst : c.gang.firstSplit = some (slot, i, sp))
    (hagree : (slot = c.f.group ∧ i = c.f.split ∧ c.gang.otherMark m = none) ∨
      (¬(slot = c.f.group ∧ i = c.f.split) ∧ (sp.mark = none ∨ sp.mark = some m))) :
    arriveMark c m = .ok (c.s.modGroup c.f.gang c.f.group (fun g => g.setWaiting c.f.split (.rpmark m.1 m.2 c.s.order))) := by
  unfold arriveMark
  rw [hfirst]
  dsimp only
  rcases hagree with ⟨hslot, hi, hother⟩ | ⟨hne, hmark⟩
  · rw [if_pos ⟨hslot, hi⟩, hother]
  · rw [if_neg hne]
    rcases hmark with hmark | hmark
    · rw [hmark]
    · rw [hmark]
      exact if_pos rfl

/-- Settles O37: each member passes its checks. -/
theorem recoveryMembers : Obligations.RecoveryMembers := by
  unfold Obligations.RecoveryMembers
  refine ⟨?_, ?_, ?_, ?_⟩
  · intro x s c k h hm hk
    refine ⟨c.s.chkFloor c.gang.ctx x.mode.val, chkFloor_val hk hm, ?_⟩
    change execChkmode x s = _
    unfold execChkmode
    exact issue_ok h (if_neg (by omega))
  · intro x s c slot i sp h hf hclash hfirst hagree
    change execRpmark x s = _
    unfold execRpmark
    rw [h.place]
    refine issueWait_ok h ?_
    rw [← h.place]
    exact (if_neg hf).trans ((if_neg (Bool.eq_false_iff.mp hclash)).trans (arriveMark_waits hfirst hagree))
  · intro x s c h hsel hflip
    change execRpget x s = _
    unfold execRpget
    refine issue_ok h ((if_neg (Nat.not_lt.mpr hsel)).trans ?_)
    exact congrArg Except.ok (putUni_noFlip hflip _ _)
  · intro x s c k h hk hfinj j hok htarget hcopy hp
    change execFinj x s = _
    unfold execFinj
    refine issue_ok h ?_
    dsimp only
    rw [hk, hp]
    dsimp only
    refine (if_neg (by simp [j] at hok; simp [hfinj, hok])).trans ?_
    rw [show checkTarget c (InjWord.ofNat (c.readS x.b).toNat) _ = _ from htarget, ok_bind]
    exact congrArg Except.ok (if_pos (by simp [j] at hcopy; simp [hcopy]))

end Sys2Proof.Proofs.System
end

section
/-! PROOFS. Events of loads, stores, updates, appends and durability -/


namespace Sys2Proof.Proofs.AccessEvents
open Sys2Proof Sys2Proof.Machine Sys2Proof.Claims Sys2Proof.Proofs

/-- An event that can happen does what it does. -/
theorem happens_of {s t : State} {o : Option State} (h : o = some t) : happens s o = .next t.retry := by rw [h]; rfl

/-! ## Loads (04 R72, R74, 07 R156) -/

theorem loadComplete_eq {s : State} {gang slot i : Nat} {g : Gang} {x : Group} {l : PendLoad} (hg : s.gang? gang = some g)
    (hx : s.group? gang slot = some x) (hl : x.loads[i]? = some l) (hbusy : ∀ t a, t ∈ l.tile → t.2 = Loc.phys a → s.physBusy (a / 128) false = false) :
    execLoadComplete { gang := gang, group := slot, idx := i } s = .next (State.retry (State.fillTile ((match l.carry with
        | some (k, place) => fillCarry s gang slot (Fin.ofNat 8 k) place (l.vals.map (fun (v : Nat × Nat × W32) => (v.2.1, v.2.2)))
        | none => l.vals.foldl (fun (s : State) (v : Nat × Nat × W32) => s.setLane gang slot v.1 v.2.1 v.2.2) s).modGroup gang slot (fun x =>
          { x with ldc := x.ldc - 1, loads := x.loads.eraseIdx i })) g l)) := by
  unfold execLoadComplete
  refine happens_of ?_
  simp only [hg, hx, hl]
  refine (if_neg ?_).trans ?_
  · simp only [List.any_eq_true, not_exists, not_and, Bool.not_eq_true]
    intro t ht
    split
    next a ha => exact hbusy t a ht ha
    next => rfl
  · rfl

/-! ## Stores (04 R74, R75) -/

theorem fenced_false {x : Group} {i : Nat} (h : ∀ n q, n ∈ x.fences → n ≤ i → q ∈ x.stores.take n → q.isEmptied = true) : x.fenced i = false := by
  unfold Group.fenced
  simp only [List.any_eq_false, Bool.and_eq_true, decide_eq_true_eq, Bool.not_eq_true', List.all_eq_false, not_and, not_exists,
    Bool.not_eq_true, Bool.not_eq_false]
  exact fun n hn hle q hq => h n q hn hle hq

theorem overtakes_false {x : Group} {i : Nat} {as : List Nat} (h : ∀ q a, q ∈ x.stores.take i → a ∈ q.addrs → a ∉ as) :
    x.overtakes i as = false := by
  unfold Group.overtakes
  simp only [List.any_eq_false, List.contains_iff_mem, Bool.not_eq_true]
  exact fun q hq a ha => h q a hq ha

/-! ## The update-only state (04 R83) -/

theorem partials_rawWrite (s : State) (ws : List ByteWrite) : (s.rawWrite ws).partials = s.partials := by
  have hput : ∀ (ws : List ByteWrite) (s : State), (ws.foldl State.putByte s).partials = s.partials := by
    intro ws
    induction ws with
    | nil => exact fun _ => rfl
    | cons w ws ih => exact fun s => ih _
  exact hput ws s

theorem partials_foldl_merge (ps : List Partial) (s : State) : (ps.foldl State.mergePartial s).partials = s.partials := by
  induction ps generalizing s with
  | nil => rfl
  | cons p ps ih => exact (ih _).trans (partials_rawWrite s _)

theorem partials_mergeLine {s : State} {line : Nat} {q : Partial} (h : q ∈ (s.mergeLine line).partials) : q.addr / 128 ≠ line := by
  unfold State.mergeLine at h
  dsimp only at h
  split at h
  next he =>
    intro hq
    have hmem : q ∈ s.partials.filter (fun p => p.addr / 128 == line) := List.mem_filter.mpr ⟨h, beq_iff_eq.mpr hq⟩
    rw [List.isEmpty_iff.mp he] at hmem
    cases hmem
  next =>
    rw [partials_foldl_merge] at h
    simpa using (List.mem_filter.mp h).2

/-- Settles O39: the guard of each event holds, so it happens; what a line leaves is read off its merge. -/
theorem accessEvents : Obligations.AccessEvents := by
  unfold Obligations.AccessEvents
  refine ⟨?_, ?_, ?_, ?_, ?_, ?_, ?_⟩
  · intro s gang slot i g x l hg hx hl less e
    refine ⟨fun hc ht => ?_, fun k place hc ht => ?_, fun hc hv hbusy => ?_⟩
    · refine (loadComplete_eq hg hx hl (by simp [ht])).trans ?_
      rw [hc]
      unfold State.fillTile
      rw [ht]
      rfl
    · refine (loadComplete_eq hg hx hl (by simp [ht])).trans ?_
      rw [hc]
      unfold State.fillTile
      rw [ht]
      simp only [Fin.ofNat_val_eq_self]
      rfl
    · refine (loadComplete_eq hg hx hl hbusy).trans ?_
      rw [hc, hv]
      rfl
  · intro s gang slot i x p hx hp hfence hover hbusy t
    change execStorePerformed _ s = _
    unfold execStorePerformed
    refine happens_of ?_
    simp only [hx, hp]
    refine (if_neg ?_).trans rfl
    simpa [fenced_false hfence, overtakes_false hover] using hbusy
  · intro s line p hp hline
    refine ⟨?_, fun q hq => partials_mergeLine hq⟩
    change execUpdateOnlyMerge _ s = _
    unfold execUpdateOnlyMerge
    refine happens_of (if_pos ?_)
    exact List.any_eq_true.mpr ⟨p, hp, beq_iff_eq.mpr hline⟩
  · intro s gang slot i x m u us hx hi hfence hover hbusy
    change execRedUpdateArrival _ s = _
    unfold execRedUpdateArrival
    refine happens_of ?_
    obtain ⟨hlt, hget⟩ := List.getElem?_eq_some_iff.mp hi
    have hbytes : x.overtakes i ((List.range (u.ty.bits / 8)).map (fun k => u.addr + k)) = false := by
      refine overtakes_false (fun q a hq ha hmem => ?_)
      obtain ⟨k, hk, rfl⟩ := List.mem_map.mp hmem
      exact hover q k hq (List.mem_range.mp hk) ha
    simp only [hx, if_pos hlt, hi, Option.bind_some, PendStore.takeUpdate]
    exact if_neg (by simp [fenced_false hfence, hbytes, hbusy])
  · intro s gang slot i x g k u us hx hi hk hg hmoves hu hbusy t
    have hgang : k.gang = gang := by
      have hmem := List.mem_of_getElem? hk
      simp only [List.mem_filter, Bool.and_eq_true, beq_iff_eq] at hmem
      exact hmem.2.1.1
    change execRedUpdateArrival _ s = _
    unfold execRedUpdateArrival
    refine happens_of ?_
    simp only [hx, if_neg (Nat.not_lt.mpr hi), hk]
    unfold State.putUpdate
    simp only [hgang, hg, hu, hbusy, hmoves]
    rfl
  · intro s t gang ch g x hg hx hdue hw
    change execAppendElementWrite _ s = _
    unfold execAppendElementWrite
    refine happens_of ?_
    simp only [hg]
    rw [if_neg (Nat.not_le.mpr ch.isLt), Fin.ofNat_val_eq_self, hx]
    exact (if_pos hdue).trans hw
  · rintro s half ⟨c, hc, hhalf⟩
    change execDurableAcknowledge _ s = _
    unfold execDurableAcknowledge
    refine happens_of (if_pos ?_)
    exact List.any_eq_true.mpr ⟨c, hc, beq_iff_eq.mpr hhalf⟩
end Sys2Proof.Proofs.AccessEvents
end

section
/-! PROOFS. the events of the engines, the stash and the sync words (O40) -/


namespace Sys2Proof.Proofs.EngineEvents
open Sys2Proof Sys2Proof.Machine Sys2Proof.Claims Sys2Proof.Proofs Sys2Proof.Proofs.AccessEvents

/-! ## Lines and commands (05 R98-R101) -/

theorem noneHeld {α β : Type} {l : List α} {f : α → β} {q : β → Bool} [DecidableEq β] (h : ∀ m, m ∈ l → q (f m) = false) :
    ((l.map f).eraseDups).any q = false := by
  simp only [List.any_eq_false, List.mem_eraseDups, List.mem_map, Bool.not_eq_true]
  rintro b ⟨m, hm, rfl⟩
  exact h m hm

theorem commands_postBytes (s : State) (g : Gang) (sync : Option Nat) (n : Nat) : (s.postBytes g sync n).commands = s.commands := by
  unfold State.postBytes
  split
  · rfl
  · dsimp only
    split <;> rfl

theorem line_capture (l : CmdLine) (s : State) (units : List Loc) : (l.capture s units).line = l.line := rfl

section
variable {s : State} {cmd line : Nat} {k : Command} {g : Gang} {l : CmdLine}

theorem guard_passes {a b c d : Bool} (ha : a = true) (hb : b = true) (hc : c = false) (hd : d = true) : ¬(!a || !b || c || !d) = true := by
  simp [ha, hb, hc, hd]

/-- A line goes with a written one: it is that line, or its copy in the trail's allocation. -/
def gone (s : State) (g : Gang) (l y : CmdLine) : Bool :=
  decide (y.line = l.line) || (match s.twinLine g l.line with
    | some (_, z) => decide (y.line = z)
    | none => false)

theorem stays_eq (s : State) (g : Gang) (l : CmdLine) : (fun x : CmdLine => decide (x.line ≠ l.line) && (match s.twinLine g l.line with
    | some (_, y) => decide (x.line ≠ y)
    | none => true)) = fun y => !gone s g l y := by
  funext x
  unfold gone
  split <;> simp

theorem engineLine_writes (hk : s.commands.find? (fun c => c.id == cmd) = some k) (hg : s.gang? k.gang = some g)
    (hl : k.lines[line]? = some l) (hmoves : g.moves = true) (hmine : ∀ core n, l.line = .vat core n → core = g.core)
    (hheld : s.writeHeld l.line cmd = false) (hsrc : ∀ m, m ∈ l.moves → s.readHeld m.2.line cmd = false)
    (htwin : ∀ t y, s.twinLine g l.line = some (t, y) → s.writeHeld y cmd = false) (hworked : s.worked g.core k = true) :
    let s1 := ((l.moves.map (fun m => m.2.line)).eraseDups).foldl State.readLine s
    let bs := l.moves.map (fun m => (m.1, s1.byteAt m.2)) ++ l.vals
    let bad := l.bad || l.moves.any (fun m => s1.badAt m.2)
    let s2 := s1.putLine g l.line bs bad l.dur
    let s3 := match s.twinLine g l.line with
      | some (t, y) => s2.putLine t y bs bad l.dur
      | none => s2
    s.engineLine cmd line = some (State.postBytes { s3 with commands := s3.commands.map (fun c =>
      if c.id = cmd then
        { c with
          lines := (c.lines.filter (fun y => !gone s g l y)).map (fun y => y.capture s1 ((l.moves.map (fun m => m.2.unit)).eraseDups))
          begun := (l.chunk :: c.begun).eraseDups }
      else c) } g k.sync bs.length) := by
  intro s1 bs bad s2 s3
  have hid : k.id = cmd := by simpa using List.find?_some hk
  have hfree : (s.writeHeld l.line cmd || ((l.moves.map (fun m => m.2.line)).eraseDups).any (fun x => s.readHeld x cmd) ||
      (match s.twinLine g l.line with
      | some (_, t) => s.writeHeld t cmd
      | none => false)) = false := by
    rw [hheld, noneHeld hsrc]
    split
    next t y hy => exact htwin t y hy
    next => rfl
  have hown : (match l.line with
      | .phys _ => true
      | .vat core _ => core == g.core) = true := by
    split
    · rfl
    next core n hn => exact beq_iff_eq.mpr (hmine core n hn)
  unfold State.engineLine
  rw [hk]
  dsimp only
  rw [hl]
  unfold State.writeCmdLine
  simp only [hg, hid]
  rw [← stays_eq]
  exact (if_neg (guard_passes hmoves hown hfree hworked)).trans rfl

end

/-- What holds of one copy's count and of the other's holds of the smaller one. -/
theorem twin_bound {α : Type} {t : Option α} {a b : Nat} {q : Nat → Prop} (ha : q a) (hb : t.isSome = true → q b) :
    q (if t.isSome = true then min a b else a) := by
  split
  next ht => exact min_rec' q ha (hb ht)
  next => exact ha

theorem fst_of_enumFrom {α : Type} {xs : List α} {n k : Nat} {y : Nat × α} (h : (enumFrom n xs)[k]? = some y) : y.1 = n + k := by
  induction xs generalizing n k with
  | nil => simp [enumFrom] at h
  | cons x xs ih =>
    cases k with
    | zero =>
      obtain rfl : (n, x) = y := by simpa [enumFrom] using h
      rfl
    | succ k =>
      have := ih (n := n + 1) (k := k) (by simpa [enumFrom] using h)
      omega

/-! ## Collective commands (05 R122) -/

section
variable {s : State} {id : Nat} {ps : List PeerCommand} {w : CollWait} {g : Gang} {x : Group} {cg : CollGroup}
  (hw : s.collWaits.find? (fun w => w.group == id) = some w) (hg : s.gang? w.gang = some g) (hx : s.group? w.gang w.slot = some x)
  (hcg : s.collGroups.find? (fun g => g.id == id) = some cg) (hlen : ps.length + 1 = cg.chips.length)
include hw hg hx hcg hlen

theorem rendezvous_sealMismatch (hseal : w.isSeal ≠ none) (hcoll : ∃ y, y ∈ ps ∧ y.coll = true) :
    s.rendezvous { group := id, peers := ps } = some (s.collTrap w) := by
  have hsome : w.isSeal.isSome = true := Option.isSome_iff_ne_none.mpr hseal
  obtain ⟨y, hy, hyc⟩ := hcoll
  unfold State.rendezvous
  simp only [hw, hg, hx, hcg]
  refine (if_neg ?_).trans ((if_neg ?_).trans (if_pos (Or.inl hsome)))
  · rintro (h | ⟨h, -⟩)
    · exact h hlen
    · exact hseal (Option.isNone_iff_eq_none.mp h)
  · rintro ⟨-, h⟩
    simpa [hyc] using List.all_eq_true.mp h y hy

theorem rendezvous_disagree (hseal : w.isSeal = none) (hroom : x.cpc < 63) (hdis : ∃ y, y ∈ ps ∧ agrees y w = false) :
    s.rendezvous { group := id, peers := ps } = some (s.collTrap w) := by
  obtain ⟨y, hy, hyw⟩ := hdis
  unfold State.rendezvous
  simp only [hw, hg, hx, hcg]
  refine (if_neg ?_).trans ((if_neg (by simp [hseal])).trans (if_pos (Or.inr (List.any_eq_true.mpr ⟨y, hy, by simp [hyw]⟩))))
  rintro (h | ⟨-, h⟩)
  · exact h hlen
  · omega

theorem rendezvous_agrees (hseal : w.isSeal = none) (hroom : x.cpc < 63) (hag : ∀ y, y ∈ ps → agrees y w = true)
    (hsrc : ∀ k y, (enumFrom 0 ps)[k]? = some y → y.2.src.length =
      if w.kind = .bcast ∧ (if k < cg.me then k else k + 1) ≠ w.root then 0 else w.n * accSize w.ty)
    (hbusy : ∀ l, l ∈ linesOf w.src → s.physBusy l false = false) :
    let size := accSize w.ty
    let s1 := s.reachAll (linesOf w.src) false
    let srcs := (ps.take cg.me).map (fun y => y.src) ++ [w.src.map (fun a => s1.mem.read a)] ++ (ps.drop cg.me).map (fun y => y.src)
    let marks := (ps.take cg.me).map (fun y => y.bad) ++
      [(enumFrom 0 w.src).filterMap (fun y => if s1.badAt (.phys y.2) then some y.1 else none)] ++ (ps.drop cg.me).map (fun y => y.bad)
    s.rendezvous { group := id, peers := ps } = some (State.leaveColl
      (State.beginCommand { s1 with collWaits := s1.collWaits.erase w } g x.gid.toNat (.coll w.group)
        (collLines w.dst (collBytes w size cg.me srcs) (fun b => (collFrom w cg.chips.length cg.me (b / size)).any (fun y =>
          (List.range size).any (fun k => (marks.getD y.1 []).contains (y.2 * size + k))))) [] none) w []) := by
  intro size s1 srcs marks
  unfold State.rendezvous
  simp only [hw, hg, hx, hcg]
  refine (if_neg ?_).trans ((if_neg (by simp [hseal])).trans ((if_neg ?_).trans ((if_neg ?_).trans rfl)))
  · rintro (h | ⟨-, h⟩)
    · exact h hlen
    · omega
  · rintro (h | h)
    · simp [hseal] at h
    · obtain ⟨y, hy, hyw⟩ := List.any_eq_true.mp h
      simp [hag y hy] at hyw
  · rw [Bool.not_eq_true, Bool.or_eq_false_iff, Bool.not_eq_false']
    refine ⟨List.all_eq_true.mpr (fun y hy => ?_), List.any_eq_false.mpr (fun l hl => Bool.eq_false_iff.mp (hbusy l hl))⟩
    obtain ⟨k, hk⟩ := List.mem_iff_getElem?.mp hy
    have hfst : y.1 = k := by
      simpa using fst_of_enumFrom hk
    have := hsrc k y hk
    rw [hfst]
    exact decide_eq_true this

end

/-- Settles O40: each event's guard passes under the clause's premises, and what is left is its definition. -/
theorem engineEvents : Obligations.EngineEvents := by
  unfold Obligations.EngineEvents
  refine ⟨⟨?_, ?_⟩, ⟨?_, ?_, ?_⟩, ?_, ?_, ?_⟩
  · intro i s cmd line k g l hi hk hg hl hmoves hmine hheld hsrc htwin hworked s1 bs bad s2 s3 gone' t
    have ht := engineLine_writes hk hg hl hmoves hmine hheld hsrc htwin hworked
    refine ⟨?_, ?_⟩
    · rcases hi with rfl | rfl
      · exact happens_of (congrArg (Option.map s.eager) ht)
      · exact happens_of (congrArg (Option.map s.eager) ht)
    · intro c y hc hid hy
      rw [commands_postBytes] at hc
      obtain ⟨c0, -, rfl⟩ := List.mem_map.mp hc
      split at hid
      next hc0 =>
        rw [if_pos hc0] at hy
        obtain ⟨y0, hy0, rfl⟩ := List.mem_map.mp hy
        have hstays := (List.mem_filter.mp hy0).2
        intro hline
        rw [line_capture] at hline
        simp [gone', hline] at hstays
      next hc0 => exact absurd hid hc0
  · intro s cmd k hk hlines hups
    change execEngineCommandComplete _ s = _
    unfold execEngineCommandComplete
    refine happens_of ?_
    simp only [hk]
    exact if_neg (by simp [hlines, hups])
  · intro s core e g st r els sides hrun hdrain hg hmoves hprod hcons htwin hsrc hheld s1 size bytes s2
    change execFillSlotReady _ s = _
    unfold execFillSlotReady
    refine happens_of ?_
    unfold State.fillSlot
    simp only [show s.gang? (s.streamAt core e).holder = some g from hg]
    refine (if_neg ?_).trans ((if_neg ?_).trans rfl)
    · have hlimit := twin_bound (t := s.twin g) (q := fun n => st.prod < n + r.slots) hcons htwin
      simp only [not_or]
      exact ⟨not_not_intro hrun, Bool.eq_false_iff.mp hdrain, Nat.not_le_of_lt hprod, Nat.not_le_of_lt hlimit, by simp [hmoves]⟩
    · rw [Bool.not_eq_true, Bool.or_eq_false_iff]
      exact ⟨List.any_eq_false.mpr (fun l hl => Bool.eq_false_iff.mp (hsrc l hl)), hheld⟩
  · intro s core e g st r els a hrun hdrain hg hmoves hcons htwin htotal hdst hheld size s1 s2 s3
    change execDrainSlotReturn _ s = _
    unfold execDrainSlotReturn
    refine happens_of ?_
    unfold State.drainSlot
    simp only [show s.gang? (s.streamAt core e).holder = some g from hg]
    refine (if_neg ?_).trans ((if_neg ?_).trans rfl)
    · have hlimit := twin_bound (t := s.twin g) (q := fun n => st.cons < n) hcons htwin
      simp only [not_or]
      exact ⟨not_not_intro hrun, by simpa using hdrain, Nat.not_le_of_lt hlimit, Nat.not_le_of_lt htotal, by simp [hmoves]⟩
    · rw [Bool.not_eq_true, Bool.or_eq_false_iff]
      exact ⟨List.any_eq_false.mpr (fun l hl => Bool.eq_false_iff.mp (hdst l hl)), hheld⟩
  · intro s core e st hrun hover
    change execStreamLastElement _ s = _
    unfold execStreamLastElement
    exact happens_of (if_pos ⟨hrun, hover⟩)
  · intro s id ps w g x cg hw hg hx hcg hlen size
    refine ⟨fun hseal hcoll => ?_, fun hseal hroom hdis => ?_, fun hseal hroom hag hsrc hbusy => ?_⟩
    · exact happens_of (rendezvous_sealMismatch hw hg hx hcg hlen hseal hcoll)
    · exact happens_of (rendezvous_disagree hw hg hx hcg hlen hseal hroom hdis)
    · exact happens_of (rendezvous_agrees hw hg hx hcg hlen hseal hroom hag hsrc hbusy)
  · intro s i a ha t
    refine ⟨fun hn => ?_, fun g hg hcore hbase hpin => ?_, fun g hg hne hfwd => ?_⟩
    · change execSyncWordArrival _ s = _
      unfold execSyncWordArrival
      refine happens_of ?_
      simp only [ha, hn]
      rfl
    · change execSyncWordArrival _ s = _
      unfold execSyncWordArrival
      refine happens_of ?_
      simp only [ha, hg]
      exact (if_pos ⟨hcore, hbase⟩).trans (if_neg (Bool.eq_false_iff.mp hpin))
    · change execSyncWordArrival _ s = _
      unfold execSyncWordArrival
      refine happens_of ?_
      simp only [ha, hg]
      refine (if_neg hne).trans (if_neg ?_)
      simpa [and_assoc] using hfwd
  · intro s core k u i hk hbusy hown hpin
    change execStashWriteback _ s = _
    unfold execStashWriteback
    refine happens_of ?_
    simp only [hk]
    exact if_neg (by simp [hbusy, hown, hpin])

end Sys2Proof.Proofs.EngineEvents
end

section
/-! PROOFS. walks, TLBs and page migration (O38) -/


namespace Sys2Proof.Proofs.Pages
open Sys2Proof Sys2Proof.Machine Sys2Proof.Claims Sys2Proof.Proofs Sys2Proof.Proofs.AccessEvents

/-! ## Walks and TLBs (03 R57) -/

theorem map_enumFrom_at {α : Type} (f : α → α) (xs : List α) (n i : Nat) :
    (enumFrom n xs).map (fun w => if w.1 = n + i then f w.2 else w.2) = xs.modify i f := by
  induction xs generalizing n i with
  | nil => simp [enumFrom]
  | cons x xs ih =>
    have hrest : ∀ y, y ∈ enumFrom (n + 1) xs → n + 1 ≤ y.1 := fun y hy => (StoreFrame.mem_enumFrom hy).1
    cases i with
    | zero =>
      have hsame : (enumFrom (n + 1) xs).map (fun w => if w.1 = n then f w.2 else w.2) = xs := by
        refine ((List.map_congr_left (fun y hy => ?_)).trans (ih (n + 1) xs.length)).trans (List.modify_eq_self (Nat.le_refl _))
        rw [if_neg (by have := hrest y hy; omega), if_neg (by have := (StoreFrame.mem_enumFrom hy).2; omega)]
      simp [enumFrom, hsame]
    | succ i =>
      have := ih (n + 1) i
      simp only [enumFrom, List.map_cons, List.modify_succ_cons, if_neg (show ¬ n = n + (i + 1) by omega), ← this]
      simp [Nat.add_comm, Nat.add_left_comm]

theorem mem_tlbPut (cap victim : Nat) (key : Nat × Nat) (xs : List (Nat × Nat)) : key ∈ tlbPut cap victim key xs := by
  unfold tlbPut
  split
  next h => simpa using h
  next => simp

theorem tlbPut_of_mem {cap victim : Nat} {key : Nat × Nat} {xs : List (Nat × Nat)} (h : key ∈ xs) : tlbPut cap victim key xs = xs :=
  if_pos (by simpa using h)

/-- Only core records and the count of the draws differ. -/
def CoresOnly (s t : State) : Prop := ∃ n cs, t = { s with free := n, cores := cs }

theorem victim_eq (s : State) (cap : Nat) (xs : List (Nat × Nat)) : ∃ n v, s.victim cap xs = ({ s with free := n }, v) := by
  unfold State.victim
  split
  · exact ⟨_, _, rfl⟩
  · exact ⟨s.free, 0, rfl⟩

theorem fillCoreTlb_eq (s : State) (core : Nat) (key : Nat × Nat) : ∃ n v,
    s.fillCoreTlb core key = { s with free := n, cores := s.cores.modify core (fun c => { c with tlb := tlbPut coreTlbSize v key c.tlb }) } := by
  obtain ⟨n, v, he⟩ := victim_eq s coreTlbSize (s.core? core).tlb
  refine ⟨n, v, ?_⟩
  unfold State.fillCoreTlb
  rw [he]
  rfl

theorem fillDieTlb_eq (s : State) (die : Nat) (key : Nat × Nat) : ∃ n v,
    s.fillDieTlb die key = ({ s with free := n } : State).modDie die (fun d => { d with tlb := tlbPut dieTlbSize v key d.tlb }) := by
  obtain ⟨n, v, he⟩ := victim_eq s dieTlbSize (s.die? die).tlb
  refine ⟨n, v, ?_⟩
  unfold State.fillDieTlb
  rw [he]

theorem core?_fillCoreTlb_mem {s : State} {core : Nat} (key : Nat × Nat) (h : core < s.cores.length) :
    key ∈ ((s.fillCoreTlb core key).core? core).tlb := by
  obtain ⟨n, v, he⟩ := fillCoreTlb_eq s core key
  rw [he]
  simp [State.core?, List.getD_eq_getElem?_getD, h, mem_tlbPut]

theorem core?_fillCoreTlb_keep {s : State} {core c : Nat} {key : Nat × Nat} (h : key ∈ (s.core? c).tlb) :
    key ∈ ((s.fillCoreTlb core key).core? c).tlb := by
  obtain ⟨n, v, he⟩ := fillCoreTlb_eq s core key
  rw [he]
  rw [State.core?, List.getD_eq_getElem?_getD] at h ⊢
  rw [List.getElem?_modify]
  cases hc : s.cores[c]? with
  | none => simpa [hc] using h
  | some r =>
    rw [hc] at h
    by_cases hcore : core = c
    · simpa [hcore] using mem_tlbPut _ _ _ _
    · simpa [hcore] using h

theorem length_fillCoreTlb (s : State) (core : Nat) (key : Nat × Nat) : (s.fillCoreTlb core key).cores.length = s.cores.length := by
  obtain ⟨n, v, he⟩ := fillCoreTlb_eq s core key
  simp [he]

theorem foldl_fillCoreTlb (key : Nat × Nat) (cs : List Nat) (s : State) : CoresOnly s (cs.foldl (fun (s : State) c => s.fillCoreTlb c key) s) ∧
    ∀ c, (c ∈ cs ∧ c < s.cores.length ∨ key ∈ (s.core? c).tlb) → key ∈ ((cs.foldl (fun (s : State) c => s.fillCoreTlb c key) s).core? c).tlb := by
  induction cs generalizing s with
  | nil => exact ⟨⟨s.free, s.cores, rfl⟩, fun c hc => hc.elim (fun h => absurd h.1 (by simp)) id⟩
  | cons d cs ih =>
    obtain ⟨n, v, he⟩ := fillCoreTlb_eq s d key
    obtain ⟨⟨n', cs', honly⟩, hmem⟩ := ih (s.fillCoreTlb d key)
    refine ⟨⟨n', cs', by rw [List.foldl_cons, honly, he]⟩, fun c hc => hmem c ?_⟩
    rw [length_fillCoreTlb]
    rcases hc with ⟨hin, hlt⟩ | hkey
    · rcases List.mem_cons.mp hin with rfl | hin
      · exact .inr (core?_fillCoreTlb_mem key hlt)
      · exact .inl ⟨hin, hlt⟩
    · exact .inr (core?_fillCoreTlb_keep hkey)

theorem die?_modDie {s : State} {d : Nat} (hd : d < 4) (h : DieRec → DieRec) : (s.modDie d h).die? d = h (s.die? d) := by
  simp [State.modDie, State.die?, hd]

/-! ## A frame's bytes (03 R59) -/

theorem cellsRead_filter (q : Nat → Bool) (l : List Host.Cell) (a : Nat) :
    cellsRead (l.filter (fun c => q c.1)) a = if q a then cellsRead l a else Memory.unlisted := by
  induction l with
  | nil => simp [cellsRead]
  | cons c l ih =>
    obtain ⟨k, b⟩ := c
    by_cases hk : k = a
    · subst hk
      cases hq : q k <;> simp [hq, cellsRead, ih]
    · cases hq : q k <;> simp [hq, cellsRead, ih, hk]

theorem read_clear_inside (m : Memory) {a n x : Nat} (h : a ≤ x ∧ x < a + n) : (m.clear a n).read x = Memory.unlisted := by
  unfold Memory.clear Memory.read
  rw [cellsRead_filter (fun y => decide (y < a) || decide (a + n ≤ y)), if_neg]
  simp only [Bool.or_eq_true, decide_eq_true_eq]
  omega

theorem read_clear_outside (m : Memory) {a n x : Nat} (h : ¬(a ≤ x ∧ x < a + n)) : (m.clear a n).read x = m.read x := by
  unfold Memory.clear Memory.read
  rw [cellsRead_filter (fun y => decide (y < a) || decide (a + n ≤ y)), if_pos]
  simp only [Bool.or_eq_true, decide_eq_true_eq]
  omega

/-- Cells of one frame put down at the same offsets in another. -/
def putCells (a b : Nat) (cs : List Host.Cell) (m : Memory) : Memory := cs.foldl (fun (m : Memory) c => m.write (c.1 - a + b) c.2) m

theorem read_putCells_outside {a b n y : Nat} {cs : List Host.Cell} (hcs : ∀ c, c ∈ cs → a ≤ c.1 ∧ c.1 < a + n) (hy : ¬(b ≤ y ∧ y < b + n))
    (m : Memory) : (putCells a b cs m).read y = m.read y := by
  induction cs generalizing m with
  | nil => rfl
  | cons c cs ih =>
    have hc := hcs c (by simp)
    refine (ih (fun d hd => hcs d (List.mem_cons_of_mem _ hd)) _).trans (Memory.read_write_other m (by omega) _)

theorem read_putCells {a b n lo : Nat} {cs : List Host.Cell} (hwf : Memory.wfFrom lo cs = true) (hcs : ∀ c, c ∈ cs → a ≤ c.1 ∧ c.1 < a + n)
    {m : Memory} (hm : m.wf = true) (hfree : ∀ i, i < n → lo ≤ a + i → m.read (b + i) = Memory.unlisted) {i : Nat} (hi : i < n) :
    (putCells a b cs m).read (b + i) = if lo ≤ a + i then cellsRead cs (a + i) else m.read (b + i) := by
  induction cs generalizing m lo with
  | nil =>
    split
    next h => exact hfree i hi h
    next => rfl
  | cons c cs ih =>
    obtain ⟨k, v⟩ := c
    have hk := hcs (k, v) (by simp)
    simp only [Memory.wfFrom, Bool.and_eq_true, decide_eq_true_eq] at hwf
    obtain ⟨⟨hlo, -⟩, hrest⟩ := hwf
    have hother : ∀ j, a + j ≠ k → (m.write (k - a + b) v).read (b + j) = m.read (b + j) :=
      fun j hj => Memory.read_write_other m (by simp only at hk; omega) v
    have step := ih hrest (fun d hd => hcs d (List.mem_cons_of_mem _ hd)) (Memory.write_wf hm (k - a + b) v)
      (fun j hj hkj => (hother j (by omega)).trans (hfree j hj (by omega)))
    refine step.trans ?_
    rcases Nat.lt_trichotomy (a + i) k with hlt | heq | hgt
    · rw [if_neg (by omega), hother i (by omega), cellsRead, if_neg (show ¬ k = a + i by omega)]
      split
      next h => rw [hfree i hi h, cellsRead_below hrest (by omega)]
      next => rfl
    · have hsame := Memory.read_write_same hm (k - a + b) v
      rw [show k - a + b = b + i by omega] at hsame
      rw [if_neg (by omega), if_pos (by omega), cellsRead, if_pos heq.symm, show k - a + b = b + i by omega, hsame]
    · rw [if_pos (by omega), if_pos (by omega), cellsRead, if_neg (show ¬ k = a + i by omega)]

theorem move_eq (m : Memory) (a b n : Nat) : m.move a b n =
    putCells a b (m.cells.filter (fun c => decide (a ≤ c.1) && decide (c.1 < a + n))) ((m.clear a n).clear b n) := rfl

theorem kept_inside {m : Memory} {a n : Nat} {c : Host.Cell} (h : c ∈ m.cells.filter (fun c => decide (a ≤ c.1) && decide (c.1 < a + n))) :
    a ≤ c.1 ∧ c.1 < a + n := by
  simpa using (List.mem_filter.mp h).2

theorem read_move_new {m : Memory} (hm : m.wf = true) {a b n i : Nat} (hi : i < n) : (m.move a b n).read (b + i) = m.read (a + i) := by
  rw [move_eq, read_putCells (lo := 0) (filter_wf hm _) (fun c hc => kept_inside hc) (Memory.clear_wf (Memory.clear_wf hm a n) b n)
    (fun j hj _ => read_clear_inside _ (by omega)) hi, if_pos (Nat.zero_le _),
    cellsRead_filter (fun x => decide (a ≤ x) && decide (x < a + n)), if_pos (by simp [hi])]
  rfl

theorem read_move_outside (m : Memory) {a b n y : Nat} (hy : ¬(a ≤ y ∧ y < a + n ∨ b ≤ y ∧ y < b + n)) : (m.move a b n).read y = m.read y := by
  obtain ⟨ha, hb⟩ := not_or.mp hy
  rw [move_eq, read_putCells_outside (fun c hc => kept_inside hc) hb, read_clear_outside _ hb, read_clear_outside _ ha]

theorem leafFrom_entry {s : State} {va : Nat} {r : Nat × Nat × Nat} : ∀ {fuel level base : Nat}, s.leafFrom va fuel level base = some r →
    r.2.1 = s.mem.readLE r.2.2 8
  | 0, _, _, h => by simp [State.leafFrom] at h
  | fuel + 1, level, base, h => by
    unfold State.leafFrom at h
    dsimp only at h
    split at h
    · exact absurd h (by simp)
    · split at h
      · obtain rfl := Option.some.inj h
        rfl
      · exact leafFrom_entry h

theorem leafAt_lt {s : State} {root va level leaf at_ : Nat} (h : s.leafAt root va = some (level, leaf, at_)) : leaf < 2 ^ 64 := by
  have hread : leaf = s.mem.readLE at_ 8 := leafFrom_entry h
  exact hread ▸ Adds.readLE_lt s.mem at_ 8

theorem newLeaf_lt {leaf new n : Nat} (hleaf : leaf < 2 ^ 64) (hn : 2 ^ 16 ∣ n) (hal : new % n = 0) (hnew : new < 2 ^ 50) :
    leaf - bitsOf leaf 49 16 * 2 ^ 16 + new < 2 ^ 64 := by
  have h16 : new % 2 ^ 16 = 0 := Nat.mod_eq_zero_of_dvd (hn.trans (Nat.dvd_of_mod_eq_zero hal))
  unfold bitsOf
  omega

theorem pageSize_dvd (level : Nat) : 2 ^ 16 ∣ 2 ^ levelShift level := by
  refine Nat.pow_dvd_pow 2 ?_
  unfold levelShift
  split <;> decide

theorem walkStart_starts {s : State} {die : Fin 4} {i : Nat} {w : Walk} (hi : (s.die? die.val).walks[i]? = some w) (hw : w.started = false)
    (hbefore : ∀ v, v ∈ (s.die? die.val).walks.take i → v.started = true)
    (hroom : ((s.die? die.val).walks.filter (fun v => v.started)).length < 32) :
    exec (.walkStart { die := die }) s = .next (State.retry
      (s.modDie die.val (fun d => { d with walks := d.walks.modify i (fun w => { w with started := true }) }))) := by
  obtain ⟨hlt, hget⟩ := List.getElem?_eq_some_iff.mp hi
  have hfirst : (s.die? die.val).walks.findIdx (fun v => !v.started) = i := by
    refine (List.findIdx_eq hlt).mpr ⟨by simp [hget, hw], fun j hj => ?_⟩
    have := hbefore (s.die? die.val).walks[j] (List.mem_take_iff_getElem.mpr ⟨j, by omega, rfl⟩)
    simp [this]
  change execWalkStart _ s = _
  unfold execWalkStart
  refine happens_of ((if_pos ⟨by rw [hfirst]; exact hlt, hroom⟩).trans ?_)
  dsimp only
  rw [hfirst]
  congr 2
  funext d
  have := map_enumFrom_at (fun w : Walk => { w with started := true }) d.walks 0 i
  rw [Nat.zero_add] at this
  rw [this]

/-- The entry of a completed walk's page goes; the walk is counted. -/
def lessWalks (w : Walk) (r : Nat × Nat) (d : DieRec) : DieRec :=
  { d with
    walks := d.walks.filter (fun v => !(v.ctx == w.ctx && decide (r.1 ≤ v.page) && decide (v.page < r.1 + r.2)))
    walkCount := d.walkCount + 1 }

/-- A walk answers an entry: it is of the same context and page. -/
def answers (w : Walk) (r : Nat × Nat) (v : Walk) : Bool := v.ctx == w.ctx && decide (r.1 ≤ v.page) && decide (v.page < r.1 + r.2)

theorem answers_iff {w v : Walk} {r : Nat × Nat} : answers w r v = true ↔ v.ctx = w.ctx ∧ r.1 ≤ v.page ∧ v.page < r.1 + r.2 := by
  simp [answers, and_assoc]

theorem walkComplete_missed {s : State} {die : Fin 4} {i : Nat} {w : Walk} (hi : (s.die? die.val).walks[i]? = some w) (hw : w.started = true)
    (hr : s.walkedPage w.ctx w.page = none) :
    exec (.walkComplete { die := die, idx := i }) s = .next (State.retry (s.modDie die.val (lessWalks w (w.page, 1)))) := by
  change execWalkComplete _ s = _
  unfold execWalkComplete
  refine happens_of ?_
  simp only [hi, hr]
  exact (if_neg (by simp [hw])).trans rfl

theorem walkComplete_found {s : State} {die : Fin 4} {i : Nat} {w : Walk} {r : Nat × Nat} (hi : (s.die? die.val).walks[i]? = some w)
    (hw : w.started = true) (hr : s.walkedPage w.ctx w.page = some r) :
    exec (.walkComplete { die := die, idx := i }) s = .next (State.retry (((s.modDie die.val (lessWalks w r)).fillDieTlb die.val
      (w.ctx, r.1)).answerWalks (w.ctx, r.1) ((s.die? die.val).walks.filter (answers w r)))) := by
  change execWalkComplete _ s = _
  unfold execWalkComplete
  refine happens_of ?_
  simp only [hi, hr]
  exact (if_neg (by simp [hw])).trans rfl

theorem mem_lessWalks {w v : Walk} {r : Nat × Nat} {d : DieRec} :
    v ∈ (lessWalks w r d).walks ↔ v ∈ d.walks ∧ ¬(v.ctx = w.ctx ∧ r.1 ≤ v.page ∧ v.page < r.1 + r.2) := by
  unfold lessWalks
  rw [List.mem_filter]
  refine and_congr_right (fun _ => ?_)
  rw [Bool.not_eq_true', ← Bool.not_eq_true]
  exact not_congr answers_iff

theorem modDie_of_lt {s : State} {d : Nat} (hd : d < 4) (h : DieRec → DieRec) : s.modDie d h = { s with dies := s.dies.set d (h s.dies[d]) } :=
  dif_pos hd

theorem mem_waiters {ws : List Walk} {v : Walk} {c : Nat} (hv : v ∈ ws) (hc : c ∈ v.waiters) :
    c ∈ (ws.flatMap (fun w => w.waiters)).eraseDups :=
  List.mem_eraseDups.mpr (List.mem_flatMap.mpr ⟨v, hv, hc⟩)

/-! ## The guard of a migration (03 R59) -/

section
variable {s : State} {lo hi : Nat}

theorem notHeld_any (h : ¬ lineHeld s (fun l => lo ≤ l ∧ l < hi)) :
    let inside := fun (l : Nat) => decide (lo ≤ l) && decide (l < hi)
    (s.commands.any (fun k => k.lines.any (fun y => match y.line with
        | .phys l => inside l
        | .vat _ _ => false)) ||
      s.cores.any (fun k => k.streams.any (fun st => st.remaining.any (fun y => inside (y.1 / 128))) ||
        k.stash.any (fun u => inside (u.phys / 128) && u.lines.any (fun y => y.2))) ||
      s.saves.any (fun v => v.streams.any (fun st => st.2.remaining.any (fun y => inside (y.1 / 128))) ||
        v.stash.any (fun u => inside (u.phys / 128) && u.lines.any (fun y => y.2)))) = false := by
  intro inside
  have hin : ∀ l, inside l = true → lo ≤ l ∧ l < hi := fun l hl => by simpa [inside] using hl
  unfold lineHeld at h
  simp only [not_or] at h
  obtain ⟨hcmd, hstream, hstash, hsaved, hsavedStash⟩ := h
  have hcmds : s.commands.any (fun k => k.lines.any (fun y => match y.line with
      | .phys l => inside l
      | .vat _ _ => false)) = false := by
    refine List.any_eq_false.mpr (fun k hk => Bool.eq_false_iff.mp (List.any_eq_false.mpr (fun y hy => ?_)))
    split
    next l hl => exact fun h => hcmd ⟨k, y, l, hk, hy, hl, hin l h⟩
    next => decide
  have hcores : s.cores.any (fun k => k.streams.any (fun st => st.remaining.any (fun y => inside (y.1 / 128))) ||
      k.stash.any (fun u => inside (u.phys / 128) && u.lines.any (fun y => y.2))) = false := by
    refine List.any_eq_false.mpr (fun k hk h => ?_)
    rcases Bool.or_eq_true_iff.mp h with h | h
    · obtain ⟨i, hi, h⟩ := Vector.any_eq_true.mp h
      obtain ⟨y, hy, h⟩ := List.any_eq_true.mp h
      exact hstream ⟨k, k.streams[i], y, hk, by simp, hy, hin _ h⟩
    · obtain ⟨u, hu, h⟩ := List.any_eq_true.mp h
      obtain ⟨hpage, h⟩ := Bool.and_eq_true_iff.mp h
      obtain ⟨y, hy, h⟩ := List.any_eq_true.mp h
      exact hstash ⟨k, u, y, hk, hu, hy, h, hin _ hpage⟩
  have hsaves : s.saves.any (fun v => v.streams.any (fun st => st.2.remaining.any (fun y => inside (y.1 / 128))) ||
      v.stash.any (fun u => inside (u.phys / 128) && u.lines.any (fun y => y.2))) = false := by
    refine List.any_eq_false.mpr (fun k hk h => ?_)
    rcases Bool.or_eq_true_iff.mp h with h | h
    · obtain ⟨st, hst, h⟩ := List.any_eq_true.mp h
      obtain ⟨y, hy, h⟩ := List.any_eq_true.mp h
      exact hsaved ⟨k, st, y, hk, hst, hy, hin _ h⟩
    · obtain ⟨u, hu, h⟩ := List.any_eq_true.mp h
      obtain ⟨hpage, h⟩ := Bool.and_eq_true_iff.mp h
      obtain ⟨y, hy, h⟩ := List.any_eq_true.mp h
      exact hsavedStash ⟨k, u, y, hk, hu, hy, h, hin _ hpage⟩
  rw [Bool.or_eq_false_iff, Bool.or_eq_false_iff]
  exact ⟨⟨hcmds, hcores⟩, hsaves⟩

end

/-- The machine with a frame's bytes moved, and every physical address it holds. -/
def relocated (s : State) (old new n : Nat) : State :=
  State.remapPhys { s with
    mem := s.mem.move old new n
    undurable := (s.undurable.filter (fun k => !(decide (old ≤ k.1) && decide (k.1 < old + n)))) ++
      (s.undurable.filter (fun k => decide (old ≤ k.1) && decide (k.1 < old + n))).map (fun k => (k.1 - old + new, k.2)) } (moved old new n)

theorem mem_relocated (s : State) (old new n : Nat) : (relocated s old new n).mem = s.mem.move old new n := rfl

theorem mem_dropLeaf {u : State} {ctx root va level leaf at_ : Nat} (h : u.leafAt root va = some (level, leaf, at_)) :
    (u.dropLeaf ctx root va).mem = u.mem.writeLE at_ 8 0 := by
  unfold State.dropLeaf
  rw [h]
  rfl

theorem migration_moves {s : State} {ctx va new level leaf at_ : Nat} {c : Context} (hc : s.ctx? ctx = some c)
    (hleaf : s.leafAt c.root va = some (level, leaf, at_)) :
    let n := 2 ^ levelShift level
    let old := frameOf level leaf
    let leaf' := leaf - bitsOf leaf 49 16 * 2 ^ 16 + new
    new % n = 0 → s.part.frameOk new n = true → leafOk level leaf' = true → (leaf.testBit 4 = true → old < 2 ^ 48) → new < 2 ^ 50 →
    (∀ k y, k ∈ s.contexts → y ∈ s.leaves k.root → rangesMeet new n (frameOf y.2.1 y.2.2) (2 ^ levelShift y.2.1) = false) →
    ¬ lineHeld s (fun l => old / 128 ≤ l ∧ l < (old + n) / 128) → (∀ p, p ∈ s.partials → ¬(old / 128 ≤ p.addr / 128 ∧ p.addr / 128 < (old + n) / 128)) →
    exec (.pageMigration { ctx := ctx, va := va, frame := new }) s =
      .next (State.retry (((relocated s old new n).dropLeaf ctx c.root va).writeEntry at_ leaf')) := by
  intro n old leaf' hal hframe hok hdur hnew hfree hheld hparts
  have hfrom : (((s.partials.filter (fun p => decide (old / 128 ≤ p.addr / 128) && decide (p.addr / 128 < (old + n) / 128))).map
      (fun p => p.addr / 128)).eraseDups) = [] := by
    have : s.partials.filter (fun p => decide (old / 128 ≤ p.addr / 128) && decide (p.addr / 128 < (old + n) / 128)) = [] :=
      List.filter_eq_nil_iff.mpr (fun p hp h => hparts p hp (by simpa using h))
    rw [this]
    rfl
  have htaken : s.contexts.any (fun k => (s.leaves k.root).any (fun y => rangesMeet new n (frameOf y.2.1 y.2.2) (2 ^ levelShift y.2.1))) = false :=
    List.any_eq_false.mpr (fun k hk => Bool.eq_false_iff.mp (List.any_eq_false.mpr (fun y hy => Bool.eq_false_iff.mp (hfree k y hk hy))))
  change execPageMigration _ s = _
  unfold execPageMigration
  refine happens_of ?_
  simp only [hc, hleaf]
  refine (if_neg ?_).trans ?_
  · simp only [not_or]
    refine ⟨by simpa using hal, by omega, by simpa using hframe, by rw [Bool.not_eq_true, Bool.not_eq_false']; exact hok, fun h => ?_, by rw [htaken]; decide, ?_⟩
    · exact absurd (hdur h.1) (by omega)
    · exact Bool.eq_false_iff.mp (notHeld_any hheld)
  · rw [hfrom]
    rfl

/-- Settles O38: the walks by their entries, the TLBs by the draws they make, a page by `Memory.move`. -/
theorem walksAndPages : Obligations.WalksAndPages := by
  unfold Obligations.WalksAndPages
  refine ⟨?_, ?_, ?_⟩
  · intro s die i w hi hw hbefore hroom
    refine ⟨_, walkStart_starts hi hw hbefore hroom, ?_, ?_⟩
    · rw [modDie_of_lt die.isLt]
      exact ⟨_, rfl⟩
    · refine (die?_modDie die.isLt _).trans (congrArg (fun ws => { s.die? die.val with walks := ws }) ?_)
      refine List.ext_getElem? (fun j => ?_)
      by_cases hj : i = j
      · subst hj
        have hlt := (List.getElem?_eq_some_iff.mp hi).1
        rw [List.getElem?_modify, hi, List.getElem?_set_self hlt]
        exact congrArg some (if_pos rfl)
      · simp [List.getElem?_modify, List.getElem?_set, hj]
  · intro s die i w hi hw r
    cases hr : s.walkedPage w.ctx w.page with
    | none =>
      have hq : r = (w.page, 1) := by simp [r, hr]
      have hdie := die?_modDie (s := s) die.isLt (lessWalks w r)
      have hless := modDie_of_lt (s := s) die.isLt (lessWalks w r)
      rw [hq] at hdie hless
      refine ⟨_, walkComplete_missed hi hw hr, by rw [hless]; rfl, by rw [hless]; rfl, by rw [hless]; rfl, congrArg DieRec.walkCount hdie,
        fun v => ?_, fun h => absurd h (by simp), fun _ => ⟨(congrArg DieRec.tlb hdie).trans rfl, fun c => by rw [hless]; rfl⟩⟩
      exact (congrArg (fun d : DieRec => v ∈ d.walks) hdie).to_iff.trans (hq ▸ mem_lessWalks)
    | some q =>
      have hq : r = q := by simp [r, hr]
      rw [hq]
      obtain ⟨n, v, hfill⟩ := fillDieTlb_eq (s.modDie die.val (lessWalks w q)) die.val (w.ctx, q.1)
      obtain ⟨⟨n', cs, honly⟩, hcores⟩ := foldl_fillCoreTlb (w.ctx, q.1) (((s.die? die.val).walks.filter
        (answers w q)).flatMap (fun w => w.waiters)).eraseDups ((s.modDie die.val (lessWalks w q)).fillDieTlb die.val (w.ctx, q.1))
      have hless := modDie_of_lt (s := s) die.isLt (lessWalks w q)
      have hdie : (((s.modDie die.val (lessWalks w q)).fillDieTlb die.val (w.ctx, q.1)).answerWalks (w.ctx, q.1)
          ((s.die? die.val).walks.filter (answers w q))).die? die.val =
          { lessWalks w q (s.die? die.val) with tlb := tlbPut dieTlbSize v (w.ctx, q.1) (s.die? die.val).tlb } := by
        refine (congrArg (fun t : State => t.die? die.val) honly).trans ?_
        change ((s.modDie die.val (lessWalks w q)).fillDieTlb die.val (w.ctx, q.1)).die? die.val = _
        rw [hfill]
        refine (die?_modDie die.isLt _).trans ?_
        change ({ (s.modDie die.val (lessWalks w q)).die? die.val with
          tlb := tlbPut dieTlbSize v (w.ctx, q.1) ((s.modDie die.val (lessWalks w q)).die? die.val).tlb } : DieRec) = _
        rw [die?_modDie die.isLt]
        rfl
      have hrest : ∃ ds, (s.modDie die.val (lessWalks w q)).fillDieTlb die.val (w.ctx, q.1) = { s with free := n, dies := ds } := by
        rw [hfill, hless, modDie_of_lt die.isLt]
        exact ⟨_, rfl⟩
      obtain ⟨ds, hrest⟩ := hrest
      have hrestMem := congrArg State.mem hrest
      have hrestVat := congrArg State.vat hrest
      have hrestCtx := congrArg State.contexts hrest
      have hmem := (congrArg State.mem honly).trans hrestMem
      have hvat := (congrArg State.vat honly).trans hrestVat
      have hctxs := (congrArg State.contexts honly).trans hrestCtx
      refine ⟨_, walkComplete_found hi hw hr, hmem, hvat, hctxs, congrArg DieRec.walkCount hdie, fun x => ?_, fun _ => ⟨?_, ?_⟩, fun h => absurd h (by simp)⟩
      · exact (congrArg (fun d : DieRec => x ∈ d.walks) hdie).to_iff.trans mem_lessWalks
      · exact (congrArg DieRec.tlb hdie).symm ▸ mem_tlbPut _ _ _ _
      · intro x c hx hctx hlo hhi hc hlt
        refine hcores c (.inl ⟨mem_waiters (List.mem_filter.mpr ⟨hx, answers_iff.mpr ⟨hctx, hlo, hhi⟩⟩) hc, ?_⟩)
        rw [hrest]
        exact hlt
  · intro s ctx va new level leaf at_ c hc hleaf n old inFrames leaf' hal hframe hok hdur hdisj hnew hfree hheld hparts hwalk hat hwf
    have hn := pageSize_dvd level
    have hthere := hwalk (relocated s old new n) (fun a ha => (congrArg (fun m : Memory => m.read a) (mem_relocated s old new n)).trans
      (read_move_outside s.mem ha))
    have htmem : (((relocated s old new n).dropLeaf ctx c.root va).writeEntry at_ leaf').mem =
        ((s.mem.move old new n).writeLE at_ 8 0).writeLE at_ 8 leaf' :=
      congrArg (fun m : Memory => m.writeLE at_ 8 leaf') (mem_dropLeaf hthere)
    have hmoved := Memory.move_wf hwf old new n
    have hlen := leBytes_length 8
    have houtside : ∀ a, a < at_ ∨ at_ + 8 ≤ a → 
        (((relocated s old new n).dropLeaf ctx c.root va).writeEntry at_ leaf').mem.read a = (s.mem.move old new n).read a := fun a ha => by
      rw [htmem, Memory.writeLE, Memory.read_writeBytes_outside _ (by rw [hlen]; exact ha), Memory.writeLE,
        Memory.read_writeBytes_outside _ (by rw [hlen]; exact ha)]
    refine ⟨_, migration_moves hc hleaf hal hframe hok hdur hnew hfree hheld hparts, fun i hi => ?_, ?_, fun a ha hout => (houtside a hout).trans (read_move_outside s.mem ha)⟩
    · refine (houtside (new + i) ?_).trans (read_move_new hwf hi)
      by_contra hin
      exact hat (new + i - at_) (by omega) (.inr (by omega))
    · refine (congrArg (fun m : Memory => m.readLE at_ 8) htmem).trans ((Memory.readLE_writeLE (Memory.writeLE_wf hmoved at_ 8 0) at_ 8 leaf').trans ?_)
      exact Nat.mod_eq_of_lt (newLeaf_lt (leafAt_lt hleaf) hn hal hnew)

end Sys2Proof.Proofs.Pages
end

section
/-! PROOFS. the events of the press (O41) -/


namespace Sys2Proof.Proofs.PressEvents
open Sys2Proof Sys2Proof.Machine Sys2Proof.Claims Sys2Proof.Proofs Sys2Proof.Proofs.AccessEvents

/-! ## Starting (11 R209, R212) -/

theorem byTurns_false {p : Press} (hs : p.shared = false) (hm : p.usedMoulds ≤ 32) (ha : p.usedAccs ≤ 8) : p.byTurns = false := by
  unfold Press.byTurns
  simp only [hs, Bool.false_or, Bool.or_eq_false_iff, decide_eq_false_iff_not]
  omega

theorem byTurns_true {p : Press} (h : p.shared = true ∨ 32 < p.usedMoulds ∨ 8 < p.usedAccs) : p.byTurns = true := by
  unfold Press.byTurns
  simpa only [Bool.or_eq_true, decide_eq_true_eq, or_assoc] using h

/-- The head of a group's queue starts. -/
def Group.startHead (x : Group) : Group :=
  match x.tiles with
  | t :: rest => { x with tiles := { t with started := true } :: rest }
  | [] => x

theorem startTile_own {s : State} {g : Gang} {x : Group} {t : TileOp} (h : (s.press? g.press).byTurns = false) :
    s.startTile (g, x, t) false = s.modGroup g.id x.slot Group.startHead := by
  unfold State.startTile
  simp only [h]
  refine (if_pos rfl).trans (congrArg (s.modGroup g.id x.slot) (funext fun y => ?_))
  unfold Group.startHead
  cases hy : y.tiles with
  | nil => cases y; simp_all
  | cons u us => rfl

section
variable {s : State} {gang slot : Nat} {g : Gang} {x : Group} {t : TileOp} {ts : List TileOp}

theorem headReady_of (hrun : g.run = .running) (hstart : t.started = false)
    (hmeets : ∀ u, u ∈ g.tileOps → u.order < t.order → u.kind.meets t.kind = false) : State.headReady (g, x, t) = true := by
  have hnone : g.tileOps.any (fun u => decide (u.order < t.order) && u.kind.meets t.kind) = false :=
    List.any_eq_false.mpr (fun u hu h => by
      obtain ⟨hlt, hm⟩ := Bool.and_eq_true_iff.mp h
      exact absurd (hmeets u hu (of_decide_eq_true hlt)) (by simp [hm]))
  unfold State.headReady
  simp [hrun, hstart, hnone]

theorem tileStart_own (hg : s.gang? gang = some g) (hx : s.group? gang slot = some x) (ht : x.tiles = t :: ts)
    (hready : State.headReady (g, x, t) = true) (hturns : (s.press? g.press).byTurns = false) :
    exec (.tileOperationStart { gang := gang, group := slot }) s = .next (s.modGroup g.id x.slot Group.startHead).retry := by
  change execTileOperationStart _ s = _
  unfold execTileOperationStart
  refine happens_of ?_
  simp only [hg, hx, ht, List.head?_cons, hready, hturns]
  exact congrArg some (startTile_own hturns)

theorem tileStart_turn (hg : s.gang? gang = some g) (hx : s.group? gang slot = some x) (ht : x.tiles = t :: ts)
    (hready : State.headReady (g, x, t) = true) (hturns : (s.press? g.press).byTurns = true) (hbusy : s.pressBusy g.press = false)
    (haged : (s.press? g.press).shared = true → s.agedHead g.press = none) {a : Gang} {b : Group} {c : TileOp}
    (hturn : s.pressTurn g.press = some (a, b, c)) (ha : a.id = gang) (hb : b.slot = slot) :
    exec (.tileOperationStart { gang := gang, group := slot }) s = .next (s.startTile (g, x, t) false).retry := by
  change execTileOperationStart _ s = _
  unfold execTileOperationStart
  refine happens_of ?_
  simp only [hg, hx, ht, List.head?_cons, hready, hturns, hturn]
  refine (if_neg (by decide)).trans ((if_neg (by decide)).trans ((if_neg ?_).trans (if_pos ⟨ha, hb⟩)))
  rintro (h | ⟨h, hsome⟩)
  · simp [hbusy] at h
  · simp [haged h] at hsome

theorem sharedServe_aged {press : Nat} {h : Gang × Group × TileOp} (hs : (s.press? press).shared = true) (hbusy : s.pressBusy press = false)
    (haged : s.agedHead press = some h) : exec (.sharedAgeingServe { press := press }) s = .next (s.startTile h true).retry := by
  change execSharedAgeingServe _ s = _
  unfold execSharedAgeingServe
  refine happens_of ((if_neg ?_).trans ?_)
  · simp [hs, hbusy]
  · rw [haged]
    rfl

/-! ## Completing, and the units (11 R211, R218) -/

theorem tileComplete_runs (hg : s.gang? gang = some g) (hx : s.group? gang slot = some x) (ht : x.tiles.head? = some t) (hstart : t.started = true)
    (hmoves : g.moves = true) (hfree : ∀ l, l ∈ t.owned → s.destHeld g.core l t.order = false) :
    exec (.tileOperationComplete { gang := gang, group := slot }) s = .next (State.retry ((s.runTile g slot t).modGroup gang slot Group.finishTile)) := by
  have hnone : t.owned.any (fun l => s.destHeld g.core l t.order) = false :=
    List.any_eq_false.mpr (fun l hl => Bool.eq_false_iff.mp (hfree l hl))
  change execTileOperationComplete _ s = _
  unfold execTileOperationComplete
  refine happens_of ?_
  simp only [hg, hx, ht]
  exact if_neg (by simp [hstart, hmoves, hnone])

end

theorem snd_mem_of_enumFrom {α : Type} {xs : List α} {n : Nat} {y : Nat × α} (h : y ∈ enumFrom n xs) : y.2 ∈ xs := by
  induction xs generalizing n with
  | nil => simp [enumFrom] at h
  | cons x xs ih =>
    rcases List.mem_cons.mp h with rfl | h
    · exact List.mem_cons_self
    · exact List.mem_cons_of_mem _ (ih h)

theorem accValues_zero {f : Nat → Nat → Nat} (h : ∀ i n, i < 32 → n < 256 → f i n = 0) : accValues f = Memory.empty := by
  have hzero : ∀ b, b ∈ (List.range 32).flatMap (fun i => (List.range 256).flatMap (fun n => leBytes 4 (f i n))) → b = Memory.unlisted := by
    intro b hb
    obtain ⟨i, hi, hb⟩ := List.mem_flatMap.mp hb
    obtain ⟨n, hn, hb⟩ := List.mem_flatMap.mp hb
    rw [h i n (List.mem_range.mp hi) (List.mem_range.mp hn)] at hb
    simpa [leBytes, Memory.unlisted] using hb
  unfold accValues Memory.ofBytes Memory.empty
  refine congrArg Memory.mk (List.filter_eq_nil_iff.mpr (fun c hc => ?_))
  simp [hzero c.2 (snd_mem_of_enumFrom hc)]

theorem press_lt_of_reservation {s : State} {g : Gang} {r : Reservation} (h : s.reservation? g = some r) : g.press < s.presses.length := by
  by_contra hout
  have hnone : s.presses[g.press]? = none := List.getElem?_eq_none (Nat.le_of_not_lt hout)
  simp [State.reservation?, State.press?, List.getD_eq_getElem?_getD, hnone, Press.reset] at h

theorem reservation?_modReservation {s : State} {g : Gang} {r : Reservation} {h : Reservation → Reservation} (hr : s.reservation? g = some r)
    (hkeep : ∀ r, (h r).gang = r.gang) : (s.modReservation g h).reservation? g = some (h r) := by
  have hlt := press_lt_of_reservation hr
  have hid : r.gang = g.id := by simpa using List.find?_some hr
  unfold State.reservation? State.modReservation
  rw [PressMembers.press?_modPress s g.press g.press _ hlt, if_pos rfl]
  dsimp only
  rw [List.find?_map]
  have hsame : ((fun r : Reservation => r.gang == g.id) ∘ fun r => if r.gang = g.id then h r else r) = fun r => r.gang == g.id := by
    funext y
    simp only [Function.comp]
    split
    next => rw [hkeep]
    next => rfl
  rw [hsame, show List.find? (fun r : Reservation => r.gang == g.id) (s.press? g.press).reservations = some r from hr]
  simp [hid]

theorem mzero_clears {s : State} {g : Gang} {slot d : Nat} {t : TileOp} {r : Reservation} (ht : t.kind = .mzero d)
    (hr : s.reservation? g = some r) (hd : d < r.accs.length) : (s.runTile g slot t).accOf g d = { vals := Memory.empty, poison := 0 } := by
  have hrun : s.runTile g slot t = s.putAcc g d 32 (fun _ _ _ => 0) (fun _ => 0) := by
    unfold State.runTile
    simp only [ht]
  have hacc : r.accs[d]? = some r.accs[d] := List.getElem?_eq_getElem hd
  have hvals : accValues (fun i n => if i < 32 then 0 else r.accs[d].elem i n) = Memory.empty :=
    accValues_zero (fun i n hi _ => if_pos hi)
  rw [hrun]
  unfold State.accOf State.putAcc
  rw [reservation?_modReservation hr (fun r => by split <;> rfl)]
  simp only [hacc, hvals]
  simp [List.getD_eq_getElem?_getD, hd]

theorem empty_readLE (a n : Nat) : Memory.empty.readLE a n = 0 := by
  unfold Memory.readLE
  induction n generalizing a with
  | zero => rfl
  | succ n ih =>
    rw [Memory.readBytes, leNat, ih]
    rfl

/-- Settles O41: the starts by the turn's cases, MZERO by the accumulator it puts. -/
theorem pressEvents : Obligations.PressEvents := by
  unfold Obligations.PressEvents
  refine ⟨?_, ?_, ?_, ?_, ?_, ?_⟩
  · intro s gang slot g x t ts hg hx ht hrun hstart hmeets
    have hready := headReady_of (x := x) hrun hstart hmeets
    refine ⟨fun hs hm ha => ?_, fun a b c hturns hbusy haged hturn ha hb => ?_⟩
    · exact tileStart_own hg hx ht hready (byTurns_false hs hm ha)
    · exact tileStart_turn hg hx ht hready (byTurns_true hturns) hbusy haged hturn ha hb
  · intro s press h hs hbusy haged
    exact sharedServe_aged hs hbusy haged
  · intro s gang slot g x t hg hx ht hstart hmoves hfree
    exact tileComplete_runs hg hx ht hstart hmoves hfree
  · intro s g slot d t r ht hr hd
    rw [mzero_clears ht hr hd]
    exact ⟨rfl, fun i n _ _ => empty_readLE _ 4⟩
  · intro s gang g r hg hr hrel htiles
    change execReservationRelease _ s = _
    unfold execReservationRelease
    refine happens_of ?_
    simp only [hg, hr]
    exact if_pos (by simp [hrel, htiles])
  · intro s press b hp
    change execPressModeSwitch _ s = _
    unfold execPressModeSwitch
    exact happens_of (if_pos hp)

end Sys2Proof.Proofs.PressEvents
end

section
/-! PROOFS. a barrier whose appended element fails: the KIND of its trap (O42) -/


namespace Sys2Proof.Proofs.Barrier
open Sys2Proof Sys2Proof.Machine Sys2Proof.Claims Sys2Proof.Proofs Sys2Proof.Proofs.AccessEvents

/-! ## Barriers (13 R256; 18 R330) -/

section
variable {s : State} {id : Nat} {g : Gang} (hg : s.gang? id = some g) (hpair : g.pair = none)

include hpair in
theorem copiesOf_alone : s.copiesOf g = [g] := by
  unfold State.copiesOf State.twin
  rw [hpair]
  rfl

include hg hpair in
theorem isTrail_alone : s.isTrail id = false := by
  unfold State.isTrail
  simp [hg, hpair]

theorem id_of_gang? (hg : s.gang? id = some g) : g.id = id := by
  simpa using List.find?_some hg

/-- A gang whose threads have all arrived, with no record pending, completes as its mark says. -/
theorem finishBarrier_alone {k j : Nat} {sp : Split} (hg : s.gang? id = some g) (hpair : g.pair = none) (hgroups : g.groups ≠ [])
    (harr : ∀ x, x ∈ g.groups → x.arrived = true) (hrun : g.run = .running ∨ g.run = .preempting) (hhalt : g.halt = none) (hpend : g.pend = [])
    (hfirst : g.firstSplit = some (k, j, sp)) :
    s.finishBarrier id = match sp.mark with
      | some (a, b) => ((s.compact id).gang? id).bind (fun g1 =>
          (s.compact id).finishMark g1 [id] ((g1.firstSplit.map (fun f => f.2.2)).getD sp) a b)
      | none => s.closeAppends id [id] (fun s2 => (s2.fenceAll [id]).map (fun s3 => s3.passBarrier [id])) := by
  have hcopies := copiesOf_alone (s := s) hpair
  have htrail := isTrail_alone hg hpair
  have hstopped : g.pairStopped = false := by
    unfold Gang.pairStopped
    rw [hpair]
  have hall : g.allArrived = true := by
    unfold Gang.allArrived
    rw [Bool.and_eq_true]
    exact ⟨by simpa using hgroups, List.all_eq_true.mpr harr⟩
  unfold State.finishBarrier
  simp only [hg, hcopies, List.map_cons, List.map_nil, id_of_gang? hg, hfirst]
  refine (if_neg ?_).trans ((if_neg ?_).trans ((if_neg ?_).trans rfl))
  · have hrun' : decide (g.run = .running ∨ g.run = .preempting) = true := decide_eq_true hrun
    simp only [List.all_cons, List.all_nil, htrail, hstopped, hall, hhalt, hrun']
    decide
  · simp [hpend]
  · simp

theorem closeAppends_failed {s1 : State} {g2 : Gang} {ids : List Nat} {after : State → Option State} {cause sub : Nat} {va : Word}
    (hw : s.writeAppends id = some s1) (hg2 : s1.gang? id = some g2) (hf : g2.appendFailure = some (cause, sub, va)) :
    s.closeAppends id ids after = some ((s1.modGang id Gang.clearFailures).trapCopies ids cause sub AccKind.write.code va) := by
  unfold State.closeAppends
  simp only [hw, hg2, Option.bind_some, hf]

end

/-! ## An appended element that could not be written (04 R87) -/

/-- Every split of a group waits at a GSYNC. -/
def Group.atBarrier (x : Group) : Group := { x with splits := x.splits.map (fun o => o.map (fun sp => { sp with status := .waiting (.gsync 0) })) }

/-- The one group of a gang stands at a GSYNC, and the element of position 0 on channel 0 has failed with 0x05 subcause 2. -/
def failing : State :=
  (Lanes.fullGang.modGroup 1 0 Group.atBarrier).modGang 1 (fun g =>
    { g with channels := g.channels.set 0 { g.channels[0] with failed := [(0, 0x05, 2, 0x30000)] } })

def failingGang : Gang := (failing.gang? 1).get (by decide +kernel)
def failingSplit : Nat × Nat × Split := failingGang.firstSplit.get (by decide +kernel)


/-- No element waits, so the appends leave the state as it is. -/
theorem writeAppends_failing : failing.writeAppends 1 = some failing := by
  decide +kernel

/-- KIND of the trap a gang has halted with. -/
def haltKind (s : State) : Option Nat := (s.gang? 1).bind (fun g => g.halt.map (fun h => h.trap.kind))

/-- Refutes O42: the trap of an element that could not be written carries KIND 2, the code of a write (16 R296); the clause says 1. -/
theorem not_splitAndDeckleEvents : ¬ Obligations.SplitAndDeckleEvents := by
  unfold Obligations.SplitAndDeckleEvents
  rintro ⟨-, -, -, -, -, -, hgsync, -⟩
  have hg : failing.gang? 1 = some failingGang := (Option.some_get _).symm
  obtain ⟨k, j, sp, hfirst, hmark⟩ : ∃ k j sp, failingGang.firstSplit = some (k, j, sp) ∧ sp.mark = none :=
    ⟨failingSplit.1, failingSplit.2.1, failingSplit.2.2, (Option.some_get _).symm, by decide +kernel⟩
  have hpair : failingGang.pair = none := by decide +kernel
  have hgroups : failingGang.groups ≠ [] := by decide +kernel
  have harr : ∀ x, x ∈ failingGang.groups → x.arrived = true := by decide +kernel
  have hrun : failingGang.run = .running := by decide +kernel
  have hhalt : failingGang.halt = none := by decide +kernel
  have hpend : failingGang.pend = [] := by decide +kernel
  have hfail : failingGang.appendFailure = some (0x05, 2, 0x30000) := by decide +kernel
  obtain ⟨hclaim, -⟩ := hgsync failing 1 _ _ failingGang failingGang _ failing hg hpair hgroups harr (.inl hrun) hhalt hpend hfirst hmark
    writeAppends_failing hg
  have hmodel := finishBarrier_alone hg hpair hgroups harr (.inl hrun) hhalt hpend hfirst
  rw [hmark] at hmodel
  have hdone : exec (.gsyncComplete { gang := 1 }) failing = _ := happens_of (hmodel.trans (closeAppends_failed writeAppends_failing hg hfail))
  have hsame := congrArg haltKind (Host.Outcome.next.inj ((hclaim _ _ _ hfail).symm.trans hdone))
  exact absurd hsame (by decide +kernel)

end Sys2Proof.Proofs.Barrier
end

section
/-! PROOFS. the events of the queues, distributors and schedulers (O43) -/


namespace Sys2Proof.Proofs.SchedEvents
open Sys2Proof Sys2Proof.Machine Sys2Proof.Claims Sys2Proof.Proofs Sys2Proof.Proofs.AccessEvents

/-! ## Pushes (14 R271, R273) -/

section
variable {s : State} {fn i : Nat} {q : QueueObj} {data : List Byte}

theorem hostPush_command (hboot : s.boot.state ≠ 0) (hlen : data.length = 64) :
    exec (.hostPush { fn := fn, aperture := none, data := data }) s =
      .next (State.retry { s with fns := s.fns.modify fn (fun f => { f with commands := f.commands ++ [data] }) }) := by
  change execHostPush _ s = _
  unfold execHostPush
  refine happens_of ((if_neg (not_or.mpr ⟨hboot, by dsimp only; omega⟩)).trans (if_neg (by dsimp only; omega)))

theorem hostPush_object (hboot : s.boot.state ≠ 0) (hlen : data.length = 64)
    (hq : s.queues.find? (fun q => q.fn == fn && q.aperture == i) = some q) (hbusy : s.physBusy (q.hdr / 128) true = false) :
    exec (.hostPush { fn := fn, aperture := some i, data := data }) s =
      .next (State.retry ((s.pushOutside q data).getD (s.bumpHdr 0 q.hdr 36))) := by
  change execHostPush _ s = _
  unfold execHostPush
  refine happens_of ((if_neg (not_or.mpr ⟨hboot, by dsimp only; omega⟩)).trans ?_)
  simp only [hq]
  exact (if_neg (by simp [hbusy])).trans (if_neg (by simp [hlen]))

end

section
variable {s : State} {i : Nat} {p : SuccPush} (hp : s.succs[i]? = some p)
include hp

theorem successorPush_fails {e : Nat × Nat} (he : s.succCheck p = .error e) :
    exec (.successorPush { idx := i }) s = .next (State.retry
      (State.appendEvent { s with succs := s.succs.eraseIdx i } p.ctx (eventEntry 0x82 e.2 1 p.record (BitVec.ofNat 64 e.1)))) := by
  change execSuccessorPush _ s = _
  unfold execSuccessorPush
  refine happens_of ?_
  simp only [hp, he]

theorem successorPush_pushes {r q : Nat} {bs : List Byte} {t : State} (hok : s.succCheck p = .ok (r, q)) (hq : s.physBusy (q / 128) true = false)
    (hr : s.physBusy (r / 128) false = false) :
    let s2 := (State.reach { s with succs := s.succs.eraseIdx i } (r / 128) false).reach (q / 128) true
    stampRecord (s2.homeRead p.ctx p.record 64) p.ctx = some bs → s2.recordGood p.ctx bs = true → s2.push 0 (.tspawn q bs) = some t →
    exec (.successorPush { idx := i }) s = .next t.retry := by
  intro s2 hstamp hgood hpush
  change execSuccessorPush _ s = _
  unfold execSuccessorPush
  refine happens_of ?_
  simp only [hp, hok]
  refine (if_neg (by simp [hq, hr])).trans ?_
  dsimp only [s2] at hstamp hgood hpush
  simp only [hstamp]
  exact (if_pos hgood).trans hpush

end

/-! ## Dispatch, ageing and holding (15 R279-R285, R385) -/

theorem le_foldl_add (ns : List Nat) (n : Nat) : n ≤ ns.foldl (· + ·) n := by
  induction ns generalizing n with
  | nil => exact Nat.le_refl n
  | cons m ns ih => exact Nat.le_trans (Nat.le_add_right n m) (ih (n + m))

theorem dispatch_task {s : State} {die n : Nat} {q : QueueObj} {t : TaskRec} {p : (Nat × Nat) × Option (Nat × Nat)} (hn : 1 ≤ n)
    (hbest : bestQueue (s.candidates die) = some (q, .task t p)) :
    s.dispatch die n = some ((((s.dropHead q).modQueue q.hdr (fun q => { q with el := q.prio, timer := 0, holding := false })).startTask t p).modDie die
      (fun d => { d with nextDispatch := d.clock.toNat + 8 })) := by
  obtain ⟨m, rfl⟩ := Nat.exists_eq_add_of_le' hn
  unfold State.dispatch
  simp only [hbest]

theorem taskDispatch_starts {s : State} {die : Fin 4} {q : QueueObj} {t : TaskRec} {p : (Nat × Nat) × Option (Nat × Nat)}
    (hclock : (s.die? die.val).nextDispatch ≤ (s.die? die.val).clock.toNat)
    (hfree : ∀ q, q ∈ s.queues → s.served die.val q = true → s.physBusy (q.hdr / 128) true = false)
    (hbest : bestQueue (s.candidates die.val) = some (q, .task t p)) :
    exec (.taskDispatch { die := die }) s = .next (State.retry
      ((((s.dropHead q).modQueue q.hdr (fun q => { q with el := q.prio, timer := 0, holding := false })).startTask t p).modDie die.val
        (fun d => { d with nextDispatch := d.clock.toNat + 8 }))) := by
  have hlines : ((s.queues.filter (s.served die.val)).map (fun q => q.hdr / 128)).any (fun l => s.physBusy l true) = false := by
    refine List.any_eq_false.mpr (fun l hl => ?_)
    obtain ⟨q, hq, rfl⟩ := List.mem_map.mp hl
    obtain ⟨hin, hserved⟩ := List.mem_filter.mp hq
    exact Bool.eq_false_iff.mp (hfree q hin hserved)
  change execTaskDispatch _ s = _
  unfold execTaskDispatch
  refine happens_of ((if_neg ?_).trans (dispatch_task (le_foldl_add _ 1) hbest))
  rw [hlines]
  simpa using hclock

theorem queueHolding_holds {s : State} {i : Nat} {q : QueueObj} {bs : List Byte} (hq : s.queues[i]? = some q) (hbs : s.headRecord q = some bs)
    (hserved : s.served q.die q = true) (hel : q.el = 7) (hholding : q.holding = false) (haged : s.aged q = true)
    (hgood : s.recordGood q.ctx bs = true) (hlacks : s.lacksBlock q (TaskRec.ofBytes bs) = true) :
    exec (.queueHolding { idx := i }) s = .next (State.retry
      ((s.modQueue q.hdr (fun q => { q with holding := true })).askMigration q.die (TaskRec.ofBytes bs))) := by
  change execQueueHolding _ s = _
  unfold execQueueHolding
  refine happens_of ?_
  -- the kernel compares the two sides of a match by reducing what it matches on, so that is made a variable
  obtain ⟨headRecord, hhead⟩ : ∃ f, f = s.headRecord := ⟨_, rfl⟩
  rw [← hhead] at hbs ⊢
  simp only [hq, hbs]
  exact if_pos ⟨hserved, hel, by simp [hholding], haged, hgood, hlacks⟩

/-! ## Migration and forwarding (15 R286-R288) -/

theorem forwardedMessage_redirects {s : State} {i : Nat} {f : Forwarding} {pre post : List Arrival} {a : Arrival} (hf : s.forwards[i]? = some f)
    (harr : s.arrivals = pre ++ a :: post) (hpre : ∀ b, b ∈ pre → ¬(b.gang = f.gang ∧ b.core = f.oldCore ∧ b.base = f.oldBase))
    (hg : a.gang = f.gang) (hc : a.core = f.oldCore) (hb : a.base = f.oldBase) :
    exec (.forwardedMessage { idx := i }) s = .next (State.retry
      { s with arrivals := pre ++ { a with core := f.newCore, base := f.newBase, addr := a.addr - f.oldBase + f.newBase } :: post }) := by
  have hidx : s.arrivals.findIdx (fun a => a.gang == f.gang && a.core == f.oldCore && a.base == f.oldBase) = pre.length := by
    rw [harr, List.findIdx_eq (by simp)]
    refine ⟨by simp [hg, hc, hb], fun j hj => ?_⟩
    rw [List.getElem_append_left hj]
    have := hpre pre[j] (List.getElem_mem hj)
    rw [← Bool.not_eq_true]
    simpa [and_assoc] using this
  have hget : s.arrivals[pre.length]? = some a := by rw [harr]; simp
  change execForwardedMessage _ s = _
  unfold execForwardedMessage
  refine happens_of ?_
  simp only [hf, hidx, hget]
  rw [harr]
  simp

theorem forwardingExpire_over {s : State} {i : Nat} {f : Forwarding} (hf : s.forwards[i]? = some f) (hleft : f.left = 0)
    (hcmds : ∀ c, c ∈ s.commands → c.gang = f.gang → f.before ≤ c.id) (holder : s.olderStream f.gang f.before = false) :
    exec (.forwardingExpire { idx := i }) s = .next (State.retry { s with forwards := s.forwards.eraseIdx i }) := by
  have hnone : s.commands.any (fun c => c.gang == f.gang && decide (c.id < f.before)) = false := by
    refine List.any_eq_false.mpr (fun c hc h => ?_)
    simp only [Bool.and_eq_true, beq_iff_eq, decide_eq_true_eq] at h
    exact absurd (hcmds c hc h.1) (Nat.not_le_of_lt h.2)
  change execForwardingExpire _ s = _
  unfold execForwardingExpire
  refine happens_of ?_
  simp only [hf]
  exact if_pos ⟨hleft, by rw [hnone]; rfl, by rw [holder]; rfl⟩

/-! ## The partition scheduler (15 R290, R291) -/

theorem open_of {st : Status} (h : st = .ready ∨ ∃ why, st = .stalled why true) : st.open = true := by
  rcases h with rfl | ⟨why, rfl⟩ <;> rfl

theorem pressWake_tests {s : State} {f : Focus} {sp : Split} {why : Stall} {b : Bool} (hsp : s.split? f = some sp) (hst : sp.status = .stalled why b)
    (hat : (∃ x, s.instrAt f = .mwait x) ∨ ∃ x : WaitI, s.instrAt f = .wait x ∧ x.tl.val < 63) :
    exec (.pressWake { gang := f.gang, group := f.group, idx := f.split }) s = .next s.retry := by
  change execPressWake _ s = _
  unfold execPressWake
  refine happens_of ?_
  simp only [hsp, hst]
  rcases hat with ⟨x, hx⟩ | ⟨x, hx, htl⟩
  · simp only [hx]
    rfl
  · simp only [hx]
    exact if_pos (decide_eq_true htl)

/-- Settles O43: every event's guard passes under the clause's premises, and what is left is its definition. -/
theorem schedulerEvents : Obligations.SchedulerEvents := by
  unfold Obligations.SchedulerEvents
  refine ⟨?_, ?_, ?_, ?_, ?_, ?_, ?_, ?_, ?_, ?_, ?_⟩
  · intro s fn data hboot hlen
    exact hostPush_command hboot hlen
  · intro s fn i q data hboot hlen hq hbusy
    have h := hostPush_object hboot hlen hq hbusy
    exact ⟨fun t ht => by rw [h, ht]; rfl, fun hnone => by rw [h, hnone]; rfl⟩
  · intro s i p hp s1
    exact ⟨fun e he => successorPush_fails hp he, fun r q bs t hok hq hr => successorPush_pushes hp hok hq hr⟩
  · intro s die q t p hclock hfree hbest
    exact taskDispatch_starts hclock hfree hbest
  · intro s i q hq hkind hocc hel haged
    change execEffectiveLevelRaise _ s = _
    unfold execEffectiveLevelRaise
    refine happens_of ?_
    simp only [hq]
    exact if_pos ⟨hkind, hocc, hel, haged⟩
  · intro s i q bs hq hbs hserved hel hholding haged hgood hlacks
    exact queueHolding_holds hq hbs hserved hel hholding haged hgood hlacks
  · intro s id core base g hg hrun hplace s1
    change execGangMigration _ s = _
    unfold execGangMigration
    refine happens_of ?_
    simp only [hg, hplace]
    exact if_neg (by simp [hrun])
  · intro s i f pre post a hf harr hpre hg hc hb
    exact forwardedMessage_redirects hf harr hpre hg hc hb
  · intro s i f hf hleft hcmds holder
    exact forwardingExpire_over hf hleft hcmds holder
  · intro s f sp hsp hlt hst hboost hidle
    change execSplitBoost _ s = _
    unfold execSplitBoost
    refine happens_of ?_
    simp only [hsp]
    exact if_pos ⟨hlt, open_of hst, hboost, hidle⟩
  · intro s f sp why b hsp hst hat
    exact pressWake_tests hsp hst hat

end Sys2Proof.Proofs.SchedEvents
end

section
/-! PROOFS. the events of traps, calls, pre-emption, exit and kill (O44) -/


namespace Sys2Proof.Proofs.TrapEvents
open Sys2Proof Sys2Proof.Machine Sys2Proof.Claims Sys2Proof.Proofs Sys2Proof.Proofs.AccessEvents Sys2Proof.Proofs.Barrier

/-! ## A gang outside a pair (17 R322) -/

theorem pairStopped_alone {g : Gang} (h : g.pair = none) : g.pairStopped = false := by
  unfold Gang.pairStopped
  rw [h]

theorem twin_alone {s : State} {g : Gang} (h : g.pair = none) : s.twin g = none := by
  unfold State.twin
  rw [h]

/-! ## Halts (16 R294-R298) -/

section
variable {s : State} {id : Nat} {g : Gang} {h : Halt}

theorem frameBusy_of (hfree : ∀ l, l ∈ rangeLines g.framePhys 12288 → s.physBusy l true = false) : s.frameBusy g = false :=
  List.any_eq_false.mpr (fun l hl => Bool.eq_false_iff.mp (hfree l hl))

theorem skidEnd_stops (hg : s.gang? id = some g) (hh : g.halt = some h) (hphase : h.phase = .skid) :
    exec (.skidEnd { gang := id }) s = .next (s.modGang id (fun g => { g with halt := some { h with phase := .stopped } })).retry := by
  change execSkidEnd _ s = _
  unfold execSkidEnd
  refine happens_of ?_
  simp only [hg, Option.bind_some, hh]
  exact if_pos hphase

theorem deliver_handler (hg : s.gang? id = some g) (hh : g.halt = some h) (hphase : h.phase = .stopped) (hrun : g.run = .running)
    (hpair : g.pair = none) (hdeleg : g.delegated h = true) (hgrow : s.poolGrowth g h = none) (hbusy : s.frameBusy g = false) :
    s.deliver id = some ((deliverToHandler (s.clearFrame g) id none).logConsumption g h 6) := by
  have hstopped := pairStopped_alone hpair
  have htrail := isTrail_alone hg hpair
  unfold State.deliver
  simp only [hg, hh]
  refine (if_neg ?_).trans ?_
  · rw [hstopped, htrail, hdeleg, hgrow]
    simp [hphase, hrun]
  · rw [hpair]
    exact if_neg (by simp [hbusy])

/-- A gang outside a pair that runs: Ezden looks at what its halt holds. -/
theorem ezdenTrap_alone (hg : s.gang? id = some g) (hh : g.halt = some h) (hrun : g.run = .running) (hpair : g.pair = none) :
    s.ezdenTrap id = match h.double with
      | some t => some (((s.appendEvent g.ctx (g.frameHead (h.second t))).endConsumed g (h.second t)).terminate g.ctx)
      | none =>
        if h.phase ≠ .stopped ∨ (g.delegated h ∧ s.poolGrowth g h = none) ∨ s.frameBusy g then none
        else match s.poolGrowth g h with
          | some n => some ((s.copiesOf g).foldl (fun (s : State) x => (s.growSpill x.id n).liftHalt x.id) ((s.clearFrame g).writeFrame g h))
          | none => some ((((s.clearFrame g).writeFrame g h |>.appendEvent g.ctx (g.frameHead h)).endConsumed g h).killGang id) := by
  have hstopped := pairStopped_alone hpair
  have htrail := isTrail_alone hg hpair
  have htwin := twin_alone (s := s) hpair
  unfold State.ezdenTrap
  simp only [hg, hh, htwin]
  exact (if_neg (by simp [htrail, hstopped, hrun])).trans rfl

theorem ezdenTrap_double {t : TrapInfo} (hg : s.gang? id = some g) (hh : g.halt = some h) (hrun : g.run = .running) (hpair : g.pair = none)
    (hdouble : h.double = some t) :
    s.ezdenTrap id = some (((s.appendEvent g.ctx (g.frameHead (h.second t))).endConsumed g (h.second t)).terminate g.ctx) := by
  rw [ezdenTrap_alone hg hh hrun hpair, hdouble]

theorem ezdenTrap_single (hg : s.gang? id = some g) (hh : g.halt = some h) (hrun : g.run = .running) (hpair : g.pair = none)
    (hdouble : h.double = none) (hphase : h.phase = .stopped) (hbusy : s.frameBusy g = false)
    (hown : ¬(g.delegated h = true ∧ s.poolGrowth g h = none)) :
    s.ezdenTrap id = match s.poolGrowth g h with
      | some n => some ((((s.clearFrame g).writeFrame g h).growSpill g.id n).liftHalt g.id)
      | none => some ((((s.clearFrame g).writeFrame g h |>.appendEvent g.ctx (g.frameHead h)).endConsumed g h).killGang id) := by
  rw [ezdenTrap_alone hg hh hrun hpair, hdouble, copiesOf_alone hpair]
  refine (if_neg ?_).trans rfl
  rintro (h | h | h)
  · exact h hphase
  · exact hown h
  · simp [hbusy] at h

end

/-! ## System calls (16 R302-R304) -/

section
variable {s : State} {gang slot : Nat} {g : Gang} {f : Focus} {x : SyscallI} {sp : Split} {allowed : Nat → Bool} {answers : Nat → List SysAnswer}
  (hg : s.gang? gang = some g) (hf : s.callFocus gang slot = some f) (hx : s.instrAt f = .syscall x) (hsp : s.split? f = some sp)
  (hpair : g.pairStopped = false) (hmoves : g.moves = true) (hallow : allowed x.n.toNat = true)
  (hlen : (answers (lanesOf sp.lanes).length).length = (lanesOf sp.lanes).length)
include hg hf hx hsp hpair hmoves hallow hlen

theorem performCall_ends {t : State} {vals : List Word} (hn : x.n.toNat ≠ 16)
    (hcalls : s.laneCalls { g := g, f := f } x.n.toNat ((lanesOf sp.lanes).zip (answers (lanesOf sp.lanes).length)) = some (t, vals)) :
    s.performCall gang slot allowed answers = some ((s.eager t).endCall f sp.lanes vals) := by
  unfold State.performCall
  simp only [hg, hf, hx, hsp]
  refine (if_neg (by simp [hpair, hmoves, hallow, hlen])).trans ((if_neg hn).trans ?_)
  rw [hcalls]
  rfl

theorem performCall_exits (hn : x.n.toNat = 16) :
    s.performCall gang slot allowed answers = some ((s.appendEvent g.ctx
      (eventEntry 0x85 0 0 0 (callArg s gang slot 0 ((lanesOf sp.lanes).headD 0)))).terminate g.ctx) := by
  unfold State.performCall
  simp only [hg, hf, hx, hsp]
  exact (if_neg (by simp [hpair, hmoves, hallow, hlen])).trans (if_pos hn)

end

/-! ## Pre-emption, the context switch and exit (16 R305-R310) -/

section
variable {s : State} {id : Nat} {g : Gang}

theorem preemption_stops (hg : s.gang? id = some g) (hrun : g.run = .running) (hpair : g.pairStopped = false) :
    exec (.preemption { gang := id }) s = .next (s.modGang id (fun g => { g with run := .preempting })).retry := by
  change execPreemption _ s = _
  unfold execPreemption
  refine happens_of ?_
  simp only [hg]
  exact if_pos ⟨hrun, by simp [hpair]⟩

theorem preemptionComplete_withdraws {t : State} (hg : s.gang? id = some g) (hrun : g.run = .preempting) (hack : s.acknowledged g = true)
    (hfence : s.fenceGang g.id = some t) : exec (.preemptionComplete { gang := id }) s =
      .next ((t.withdrawAll g).modGang g.id (fun g => { g with run := .preempted })).retry := by
  change execPreemptionComplete _ s = _
  unfold execPreemptionComplete
  refine happens_of ?_
  simp only [hg]
  refine (if_neg (by simp [hrun, hack])).trans ?_
  rw [hfence]
  rfl

theorem gangExit_alone {t : State} (hg : s.gang? id = some g) (hpair : g.pair = none) (hexit : s.exitGang id = some t) :
    exec (.gangExit { gang := id }) s = .next (State.retry
      (if (t.gang? id).isNone = true then t.retryHolding (s.part.dieOf g.core) else t)) := by
  change execGangExit _ s = _
  unfold execGangExit
  refine happens_of ?_
  have hdies : (([g] : List Gang).map (fun x => s.part.dieOf x.core)).eraseDups = [s.part.dieOf g.core] := by
    simp [List.eraseDups_cons]
  simp only [hexit, hg, copiesOf_alone hpair, hdies, Option.map_some, List.foldl_cons, List.foldl_nil]

end

theorem contextSwitch_saves {s t : State} {g : Gang} (hgs : s.gangs = [g]) (hrun : g.run = .preempted) (hpair : g.pairStopped = false)
    (hsave : s.saveGang g = some t) : exec (.contextSwitch { ctx := g.ctx }) s = .next t.retry := by
  have hmine : s.gangs.filter (fun x => x.ctx == g.ctx && !x.pairStopped) = [g] := by simp [hgs, hpair]
  change execContextSwitch _ s = _
  unfold execContextSwitch
  simp only [hmine]
  have hrunning : [g].filter (fun x => decide (x.run = .running)) = [] := by simp [hrun]
  have hstopped : [g].filter (fun x => decide (x.run = .preempted)) = [g] := by simp [hrun]
  rw [hrunning, hstopped]
  refine happens_of ((if_neg (by simp)).trans ?_)
  simp [hsave]

theorem contextSwitch_stops {s : State} {ctx : Nat} :
    let running := s.gangs.filter (fun g => g.ctx == ctx && !g.pairStopped && decide (g.run = .running))
    running ≠ [] → (∀ g, g ∈ s.gangs → g.ctx = ctx → g.run ≠ .preempted) →
    exec (.contextSwitch { ctx := ctx }) s = .next (State.retry
      (running.foldl (fun (s : State) g => s.modGang g.id (fun g => { g with run := .preempting })) s)) := by
  intro running hsome hnone
  have hrunning : (s.gangs.filter (fun g => g.ctx == ctx && !g.pairStopped)).filter (fun g => decide (g.run = .running)) = running := by
    rw [List.filter_filter]
    refine List.filter_congr (fun g _ => ?_)
    rw [Bool.and_comm]
  have hstopped : (s.gangs.filter (fun g => g.ctx == ctx && !g.pairStopped)).filter (fun g => decide (g.run = .preempted)) = [] := by
    refine List.filter_eq_nil_iff.mpr (fun g hg h => ?_)
    obtain ⟨hin, hctx⟩ := List.mem_filter.mp hg
    obtain ⟨hctx, -⟩ := Bool.and_eq_true_iff.mp hctx
    exact hnone g hin (by simpa using hctx) (of_decide_eq_true h)
  change execContextSwitch _ s = _
  unfold execContextSwitch
  simp only [hrunning, hstopped]
  exact happens_of ((if_neg (by simp [hsome])).trans rfl)

theorem contextRestore_resumes {s : State} {ctx : Nat} :
    let stopped := s.gangs.filter (fun g => g.ctx == ctx && decide (g.run = .preempted))
    let saved := s.gangs.filter (fun g => g.ctx == ctx && decide (g.run = .saved))
    (stopped ≠ [] ∨ saved ≠ []) → exec (.contextRestore { ctx := ctx }) s = .next (State.retry
      (saved.foldl (fun (s : State) g => (s.restoreGang g).getD s) (stopped.foldl (fun (s : State) g => s.resume g.id) s))) := by
  intro stopped saved hsome
  have hand : ∀ r : RunState, (s.gangs.filter (fun g => g.ctx == ctx)).filter (fun g => decide (g.run = r)) =
      s.gangs.filter (fun g => g.ctx == ctx && decide (g.run = r)) := by
    intro r
    rw [List.filter_filter]
    refine List.filter_congr (fun g _ => ?_)
    rw [Bool.and_comm]
  change execContextRestore _ s = _
  unfold execContextRestore
  simp only [hand]
  refine happens_of ((if_neg ?_).trans rfl)
  rintro ⟨hsaved, hstopped⟩
  exact hsome.elim (fun h => h (List.isEmpty_iff.mp hstopped)) (fun h => h (List.isEmpty_iff.mp hsaved))

/-- Settles O44: every event's guard passes under the clause's premises; a gang outside a pair is its own only copy. -/
theorem trapEvents : Obligations.TrapEvents := by
  unfold Obligations.TrapEvents
  refine ⟨?_, ?_, ?_, ?_, ?_, ?_, ?_⟩
  · intro s id g h hg hh
    refine ⟨skidEnd_stops hg hh, fun hphase hrun hpair hdeleg hgrow hfree => ?_, fun t hdouble hrun hpair => ?_,
      fun hdouble hphase hrun hpair hfree => ?_⟩
    · exact happens_of (deliver_handler hg hh hphase hrun hpair hdeleg hgrow (frameBusy_of hfree))
    · exact happens_of (ezdenTrap_double hg hh hrun hpair hdouble)
    · have hsingle := ezdenTrap_single hg hh hrun hpair hdouble hphase (frameBusy_of hfree)
      refine ⟨fun n hn => ?_, fun hn hdeleg => ?_⟩
      · have hdone := hsingle (by simp [hn])
        rw [hn] at hdone
        exact happens_of hdone
      · have hdone := hsingle (by simp [hdeleg])
        rw [hn] at hdone
        exact happens_of hdone
  · intro s g h hcause _
    unfold State.endConsumed
    exact if_pos hcause
  · intro s i gang slot g f x sp as hg hf hx hsp hpair hmoves hi hlen
    rcases hi with rfl | ⟨rfl, hn, has⟩
    · refine ⟨fun t vals hne hcalls => ?_, fun hne => ?_⟩
      · exact happens_of (performCall_ends hg hf hx hsp hpair hmoves rfl hlen hne hcalls)
      · exact happens_of (performCall_exits hg hf hx hsp hpair hmoves rfl hlen hne)
    · have hallow : (decide (x.n.toNat = 10) || decide (x.n.toNat = 12) || decide (x.n.toNat = 14)) = true := by simpa [or_assoc] using hn
      refine ⟨fun t vals hne hcalls => ?_, fun hne => absurd hn (by rw [hne]; decide)⟩
      subst has
      exact happens_of (performCall_ends hg hf hx hsp hpair hmoves hallow hlen hne hcalls)
  · intro s id g hg
    refine ⟨preemption_stops hg, fun t hrun hack hfence => preemptionComplete_withdraws hg hrun hack hfence,
      fun t hpair hexit => gangExit_alone hg hpair hexit, ?_⟩
    change execGangKill _ s = _
    unfold execGangKill
    refine happens_of ?_
    rw [hg]
    rfl
  · intro s t g hgs hrun hpair hsave
    exact contextSwitch_saves hgs hrun hpair hsave
  · intro s ctx
    exact contextSwitch_stops
  · intro s ctx
    exact contextRestore_resumes

end Sys2Proof.Proofs.TrapEvents
end

section
/-! PROOFS. the events of errors, injections, chips and links (O45) -/


namespace Sys2Proof.Proofs.ErrorEvents
open Sys2Proof Sys2Proof.Machine Sys2Proof.Claims Sys2Proof.Proofs Sys2Proof.Proofs.AccessEvents

/-! ## Errors by their structure (17 R312, R316) -/

theorem happens_none (s : State) : happens s none = .next s := rfl

section
variable {s : State} {e : EvError}

theorem uncorrectable_strikes {r : Struck} (h : s.strike e false = some r) : s.uncorrectable e 0 =
    some ((r.s.logError e.struct.val (1 + 2 * bit e.hard) r.owner r.die r.core e.loc r.outcome).countError r.die e.struct.val 2) := by
  unfold State.uncorrectable
  rw [show decide (0 ≠ 0) = false from rfl, h]
  rfl

theorem coreThere_false (h : s.part.coreCount ≤ e.core) : s.coreThere e.core = false := decide_eq_false (Nat.not_lt_of_le h)

theorem strike_noCore (hstruct : e.struct.val ∈ [0, 1, 13]) (hcore : s.part.coreCount ≤ e.core) : s.strike e false = none := by
  have hno := coreThere_false hcore
  unfold State.strike
  simp only [List.mem_cons, List.not_mem_nil, or_false] at hstruct
  rcases hstruct with h | h | h
  · simp [h, hno]
  · simp [h, hno]
  · simp [h, hno]

theorem placeThere_false (hstruct : e.struct.val ∈ [0, 1, 13]) (hcore : s.part.coreCount ≤ e.core) : s.placeThere e = false := by
  unfold State.placeThere
  rw [decide_eq_true hstruct, coreThere_false hcore]
  rfl

theorem placeThere_true (h : e.struct.val ∈ [0, 1, 13] → e.core < s.part.coreCount) : s.placeThere e = true := by
  unfold State.placeThere
  by_cases hstruct : e.struct.val ∈ [0, 1, 13]
  · rw [Bool.or_eq_true]
    exact .inr (decide_eq_true (h hstruct))
  · rw [decide_eq_false hstruct]
    rfl

theorem correctableError_there (h : s.placeThere e = true) : exec (.correctableError e) s = .next (s.correctable e 0).retry := by
  change execCorrectableError _ s = _
  unfold execCorrectableError
  exact happens_of (if_pos h)

theorem correctable_soft (h : e.hard = false) (cls : Nat) : s.correctable e cls = s.countError (s.errorPlace e).2.1 e.struct.val 0 := by
  unfold State.correctable
  rw [h]
  rfl

theorem correctable_hard (h : e.hard = true) (cls : Nat) : s.correctable e cls =
    (s.countError (s.errorPlace e).2.1 e.struct.val 1).logError e.struct.val (cls + 2) (s.errorPlace e).1 (s.errorPlace e).2.1
      (s.errorPlace e).2.2 e.loc 0 := by
  unfold State.correctable
  rw [h]
  rfl

end

/-! ## The replay queue (17 R318, R319) -/

section
variable {s : State} {r : ReplayEntry}

theorem writeReplayed_regs (hport : r.port = none) (hcarry : r.load.carry = none) :
    s.writeReplayed r = some (r.load.vals.foldl (fun (s : State) v => s.setLane r.gang r.group v.1 v.2.1 v.2.2) s) := by
  unfold State.writeReplayed
  rw [hport, hcarry]

theorem writeReplayed_carry {k place : Nat} (hport : r.port = none) (hcarry : r.load.carry = some (k, place)) :
    s.writeReplayed r = some (fillCarry s r.gang r.group (Fin.ofNat 8 k) place (r.load.vals.map (fun v => (v.2.1, v.2.2)))) := by
  unfold State.writeReplayed
  rw [hport, hcarry]

theorem replayQueueExecution_writes {core i : Nat} {t : State} (hr : (s.core? core).replay[i]? = some r)
    (hfirst : ∀ x, x ∈ (s.core? core).replay.take i → x.partition ≠ r.partition)
    (ht : (s.modCore core (fun c => { c with replay := c.replay.eraseIdx i })).writeReplayed r = some t) :
    exec (.replayQueueExecution { core := core, idx := i }) s = .next (countResolved t core r.wrong).retry := by
  have hnone : ((s.core? core).replay.take i).any (fun x => x.partition == r.partition) = false :=
    List.any_eq_false.mpr (fun x hx => by simpa using hfirst x hx)
  change execReplayQueueExecution _ s = _
  unfold execReplayQueueExecution
  refine happens_of ?_
  simp only [hr]
  refine (if_neg (by rw [hnone]; decide)).trans ?_
  rw [ht]
  rfl

end

/-! ## Injections (17 R327) -/

section
variable {s : State} {gang i : Nat} {g : Gang} {j : Injection}

/-- The machine without an injection that fires. -/
def disarmed (s : State) (gang i : Nat) : State := s.modGang gang (fun g => { g with injections := g.injections.eraseIdx i })

theorem injectionFire_live (hg : s.gang? gang = some g) (hj : g.injections[i]? = some j) (hlive : j.live = true) (hleft : j.remaining = 0)
    (hkind : j.kind ≠ 0) : exec (.injectionFire { gang := gang, idx := i }) s = happens s (match (disarmed s gang i).injectionError g j with
      | none => some (disarmed s gang i)
      | some x => if j.kind = 1 then some ((disarmed s gang i).correctable x 4)
        else if (disarmed s gang i).targetThere x then (disarmed s gang i).uncorrectable x 4
        else some (disarmed s gang i)) := by
  change execInjectionFire _ s = _
  unfold execInjectionFire
  refine congrArg (happens s) ?_
  simp only [hg, hj]
  refine (if_neg ?_).trans rfl
  simp [hlive, hleft, hkind]

end

/-! ## Chips and links (17 R312, R326) -/

theorem peerChipLoss_loses {s : State} {chip : Nat} {lost : List Nat} (hnew : chip ∉ s.part.lostPeers) (hpeer : ∃ p, p ∈ s.part.peers ∧ p.1 = chip)
    (hseals : ∀ x y, x ∈ s.seals → y ∈ s.collGroups → y.id = x.wait.group → chip ∉ y.chips) :
    let concerned := fun (k : CmdKind) => match k with
      | .coll g => s.collGroups.any (fun (y : CollGroup) => y.id == g && y.chips.contains chip)
      | _ => false
    exec (.peerChipLoss { chip := chip, lost := lost }) s = .next (State.retry ((lost.filter (fun l => decide (l < 2 ^ 41))).foldl State.loseLine
      { s with
        part := { s.part with lostPeers := chip :: s.part.lostPeers }
        commands := s.commands.map (fun (c : Command) =>
          if concerned c.kind = true then { c with lines := c.lines.map (fun (l : CmdLine) => { l with bad := true }) } else c) })) := by
  intro concerned
  obtain ⟨p, hp, rfl⟩ := hpeer
  have hany : s.part.peers.any (fun q => q.1 == p.1) = true := List.any_eq_true.mpr ⟨p, hp, by simp⟩
  have hnone : s.seals.filter (fun x => s.collGroups.any (fun (y : CollGroup) => y.id == x.wait.group && y.chips.contains p.1)) = [] := by
    refine List.filter_eq_nil_iff.mpr (fun x hx h => ?_)
    obtain ⟨y, hy, hyx⟩ := List.any_eq_true.mp h
    simp only [Bool.and_eq_true, beq_iff_eq, List.contains_iff_mem] at hyx
    exact hseals x y hx hy hyx.1 hyx.2
  change execPeerChipLoss _ s = _
  unfold execPeerChipLoss
  refine happens_of ((if_neg (by simp [hnew, hany])).trans ?_)
  dsimp only
  rw [hnone]
  rfl

theorem strikeHalves_poisons {s : State} {half die : Nat} (htable : s.tableOwner (64 * half) = none) (howner : s.ownerOf (64 * half) ≠ 0xFFF) :
    (s.strikeHalves (64 * half) die [half]).s = s.poisonOwned half ∧ (s.strikeHalves (64 * half) die [half]).outcome = 6 := by
  unfold State.strikeHalves
  rw [htable]
  dsimp only
  rw [if_neg howner]
  exact ⟨rfl, rfl⟩

/-- Settles O45: an error by what its structure makes of it, the events by their guards. -/
theorem errorEvents : Obligations.ErrorEvents := by
  unfold Obligations.ErrorEvents
  refine ⟨?_, ?_, ?_, ?_, ?_, ?_, ?_⟩
  · intro s e r h
    exact happens_of (uncorrectable_strikes h)
  · intro s e hstruct hcore
    refine ⟨?_, ?_⟩
    · change happens s (s.uncorrectable e 0) = _
      unfold State.uncorrectable
      rw [show decide (0 ≠ 0) = false from rfl, strike_noCore hstruct hcore]
      rfl
    · change happens s (if s.placeThere e then _ else _) = _
      rw [placeThere_false hstruct hcore]
      rfl
  · intro s e hcore p
    have hthere := correctableError_there (placeThere_true hcore)
    exact ⟨fun h => by rw [hthere, correctable_soft h], fun h => by rw [hthere, correctable_hard h]⟩
  · intro s core i r hr hfirst s1
    exact ⟨fun t ht => replayQueueExecution_writes hr hfirst ht, writeReplayed_regs, fun k place => writeReplayed_carry⟩
  · intro s gang i g j hg hj hlive hleft s1
    refine ⟨fun x hkind hx => ?_, fun x t hkind hx hthere ht => ?_, fun hkind hgone => ?_⟩
    · rw [injectionFire_live hg hj hlive hleft (by omega), show (disarmed s gang i).injectionError g j = some x from hx]
      exact happens_of (if_pos hkind)
    · rw [injectionFire_live hg hj hlive hleft (by omega), show (disarmed s gang i).injectionError g j = some x from hx]
      exact happens_of ((if_neg (by omega)).trans ((if_pos hthere).trans ht))
    · rw [injectionFire_live hg hj hlive hleft (by omega)]
      rcases hgone with hx | ⟨x, hx, hthere⟩
      · rw [show (disarmed s gang i).injectionError g j = none from hx]
        rfl
      · rw [show (disarmed s gang i).injectionError g j = some x from hx]
        exact happens_of ((if_neg (by omega)).trans (if_neg (Bool.eq_false_iff.mp hthere)))
  · intro s chip lost hnew hpeer hseals
    exact peerChipLoss_loses hnew hpeer hseals
  · intro s half die x
    exact ⟨rfl, rfl, strikeHalves_poisons⟩

end Sys2Proof.Proofs.ErrorEvents
end

section
/-! PROOFS. the events of redundant pairs and of seals (O46) -/


namespace Sys2Proof.Proofs.PairEvents
open Sys2Proof Sys2Proof.Machine Sys2Proof.Claims Sys2Proof.Proofs Sys2Proof.Proofs.AccessEvents

/-! ## Pairs (17 R322-R324; 18 R334) -/

section
variable {s : State} {id : Nat} {o : PairOf} (ho : s.pairOf id = some o)
include ho

theorem matchSigs_releases {m : Nat × (W32 × Bool) × (W32 × Bool)} (hroll : o.p.state ≠ .rollback) (hterm : o.p.state ≠ .terminated)
    (hm : (meetings o.p.sigs o.q.sigs).find? (fun m => decide (m.2.1 = m.2.2)) = some m) :
    let release := fun (p : Pair) =>
      { p with sigs := dropKey m.1 p.sigs, granted := if m.2.1.2 = true then p.granted ++ [(m.1, m.2.1.1)] else p.granted }
    s.matchSigs id = some ((s.modPair o.lead.id release).modPair o.trail.id release) := by
  intro release
  unfold State.matchSigs
  simp only [ho]
  refine (if_neg (not_or.mpr ⟨hroll, hterm⟩)).trans ?_
  rw [hm]
  rfl

theorem pairRollback_mismatch (hstate : o.p.state = .run ∨ o.p.state = .replay)
    (hbad : (∃ m, m ∈ meetings o.p.sigs o.q.sigs ∧ m.2.1 ≠ m.2.2) ∨ trapMismatch o.lead o.trail o.q = true) :
    s.pairRollback id = some (s.rollback o.lead.id o.trail.id) := by
  have hany : ((meetings o.p.sigs o.q.sigs).any (fun m => decide (m.2.1 ≠ m.2.2)) || trapMismatch o.lead o.trail o.q) = true := by
    rw [Bool.or_eq_true]
    exact hbad.imp_left (fun ⟨m, hm, hne⟩ => List.any_eq_true.mpr ⟨m, hm, decide_eq_true hne⟩)
  unfold State.pairRollback
  rcases hstate with h | h
  · simp only [ho, h]
    exact if_pos hany
  · simp only [ho, h]
    exact if_pos hany

theorem pairRollback_ends (hstate : o.p.state = .terminated ∨ (o.p.state = .rollback ∧ o.p.plog = true)) :
    s.pairRollback id = some (s.terminate o.lead.ctx) := by
  unfold State.pairRollback
  rcases hstate with h | ⟨h, hlog⟩
  · simp only [ho, h]
  · simp only [ho, h]
    exact if_pos hlog

section
variable {s1 : State} (hroll : o.p.state = .rollback) (hlog : o.p.plog = false) (hcmds : ∀ c, c ∈ s.commands → c.gang ≠ o.lead.id ∧ c.gang ≠ o.trail.id)
  (hlead : o.lead.run ≠ .saved) (htrail : o.trail.run ≠ .saved) (hfence : s.fenceAll [o.lead.id, o.trail.id] = some s1)
include hroll hlog hcmds hlead htrail hfence

/-- A pair that has rolled back and drained is restored as its recovery point says. -/
theorem pairRestore_drained : s.pairRestore id = if o.lead.rpt.gen = 0 then s1.restartPair o.lead o.trail
    else match s1.readArea o.lead.ctx o.lead.rpt.state with
      | none => some (s1.terminate o.lead.ctx)
      | some a => match s1.restoreCopy o.lead.id o.p.damaged a o.lead.rpt.base with
        | none => none
        | some s2 => (s2.restoreCopy o.trail.id o.q.damaged a o.lead.rpt.base).map (fun s3 =>
            (s3.modPair o.lead.id Pair.replaying).modPair o.trail.id Pair.replaying) := by
  have hnone : ¬ s.commands.any (fun c => c.gang == o.lead.id || c.gang == o.trail.id) = true := by
    intro h
    obtain ⟨c, hc, hgang⟩ := List.any_eq_true.mp h
    have := hcmds c hc
    simp [this.1, this.2] at hgang
  unfold State.pairRestore
  simp only [ho, hfence]
  refine (if_neg ?_).trans rfl
  simp only [not_or]
  exact ⟨not_not_intro hroll, Bool.eq_false_iff.mp hlog, hnone, hlead, htrail⟩

theorem pairRestore_restarts (hgen : o.lead.rpt.gen = 0) : s.pairRestore id = s1.restartPair o.lead o.trail :=
  (pairRestore_drained ho hroll hlog hcmds hlead htrail hfence).trans (if_pos hgen)

theorem pairRestore_broken (hgen : o.lead.rpt.gen ≠ 0) (harea : s1.readArea o.lead.ctx o.lead.rpt.state = none) :
    s.pairRestore id = some (s1.terminate o.lead.ctx) := by
  rw [pairRestore_drained ho hroll hlog hcmds hlead htrail hfence, if_neg hgen, harea]

theorem pairRestore_copies {a : AreaParts} {s2 s3 : State} (hgen : o.lead.rpt.gen ≠ 0) (harea : s1.readArea o.lead.ctx o.lead.rpt.state = some a)
    (h2 : s1.restoreCopy o.lead.id o.p.damaged a o.lead.rpt.base = some s2) (h3 : s2.restoreCopy o.trail.id o.q.damaged a o.lead.rpt.base = some s3) :
    s.pairRestore id = some ((s3.modPair o.lead.id Pair.replaying).modPair o.trail.id Pair.replaying) := by
  rw [pairRestore_drained ho hroll hlog hcmds hlead htrail hfence, if_neg hgen, harea]
  dsimp only
  rw [h2]
  dsimp only
  rw [h3]
  rfl

end

end

/-! ## Seals (18 R336, R339) -/

section
variable {s : State} {id : Nat} {ps : List PeerSeal} {w : CollWait} {g : Gang} {cg : CollGroup} {c : Context} {up : UPReg}
  (hw : s.collWaits.find? (fun w => w.group == id) = some w) (hseal : w.isSeal = some up) (hg : s.gang? w.gang = some g) (hpair : g.pair = none)
  (hcg : s.collGroups.find? (fun g => g.id == id) = some cg) (hc : s.ctx? g.ctx = some c) (hlen : ps.length = 7)
  (hfree : ∀ x, x ∈ s.seals → x.wait.group ≠ id)

/-- What a CKSEAL's rendezvous leaves behind: its split goes on, the predicate is to come. -/
def sealLeft (s : State) (w : CollWait) (up : UPReg) : State :=
  (State.leaveColl { s with collWaits := s.collWaits.erase w } w []).modGroup w.gang w.slot (fun y =>
    { y with predWait := y.predWait ++ [(up.val, w.lanes)] })

/-- The seal that has begun. -/
def sealBegun (s : State) (w : CollWait) (c : Context) (cg : CollGroup) (ps : List PeerSeal) : Seal :=
  { ctx := c.tag, wait := w, record := s.sealRecord c cg ps }

include hw hseal hg hpair hcg hc hlen hfree

theorem sealImage_begins : s.sealImage { group := id, peers := ps } =
    if (s.sealOk c && ps.all (fun p => p.ok && decide (p.quota = c.quota))) = true then
      some { (sealLeft s w up).modCtx c.tag (fun k =>
        { k with slots := k.slots.set k.nextSlot.val (some (s.newSlot c cg ps)) k.nextSlot.isLt }) with
          seals := (sealLeft s w up).seals ++ [sealBegun s w c cg ps] }
    else some ((State.endSeal { sealLeft s w up with seals := (sealLeft s w up).seals ++ [sealBegun s w c cg ps] }
      (sealBegun s w c cg ps) false).modCtx c.tag (fun c => { c with sealRefusals := c.sealRefusals + 1 })) := by
  have hnone : ¬ s.seals.any (fun x => x.wait.group == id) = true := by
    intro h
    obtain ⟨x, hx, hxid⟩ := List.any_eq_true.mp h
    exact hfree x hx (by simpa using hxid)
  have halone : ∀ a b : State, (if g.pair.isSome then a else b) = b := fun a b => if_neg (by simp [hpair])
  unfold State.sealImage
  simp only [hw, hseal, hg, hcg, hc, halone]
  exact (if_neg (not_or.mpr ⟨not_not_intro hlen, hnone⟩)).trans rfl

end

/-- Settles O46: pairs by their state, seals by the members' answers. -/
theorem pairAndSealEvents : Obligations.PairAndSealEvents := by
  unfold Obligations.PairAndSealEvents
  refine ⟨?_, ?_, ?_, ?_, ?_⟩
  · intro s id o m ho hroll hterm hm
    exact happens_of (matchSigs_releases ho hroll hterm hm)
  · intro s id o ho
    exact ⟨fun hstate hbad => happens_of (pairRollback_mismatch ho hstate hbad), fun hstate => happens_of (pairRollback_ends ho hstate)⟩
  · intro s id o s1 ho hroll hlog hcmds hlead htrail hfence
    refine ⟨fun t hgen ht => ?_, fun hgen harea => ?_, fun a s2 s3 hgen harea h2 h3 => ?_⟩
    · exact happens_of ((pairRestore_restarts ho hroll hlog hcmds hlead htrail hfence hgen).trans ht)
    · exact happens_of (pairRestore_broken ho hroll hlog hcmds hlead htrail hfence hgen harea)
    · exact happens_of (pairRestore_copies ho hroll hlog hcmds hlead htrail hfence hgen harea h2 h3)
  · intro s id ps w g cg c up hw hseal hg hpair hcg hc hlen hfree s2 x all
    have hbegin := sealImage_begins hw hseal hg hpair hcg hc hlen hfree
    have hall : (s.sealOk c && ps.all (fun p => p.ok && decide (p.quota = c.quota))) = true ↔ all := by
      simp [all, List.all_eq_true]
    exact ⟨fun h => happens_of (hbegin.trans (if_pos (hall.mpr h))), fun h => happens_of (hbegin.trans (if_neg (fun hc => h (hall.mp hc))))⟩
  · intro s id x c k hx hc hk
    change execSealCommit _ s = _
    unfold execSealCommit
    refine happens_of ?_
    unfold State.commitSeal
    simp only [hx, hc, hk]

end Sys2Proof.Proofs.PairEvents
end

section
/-! PROOFS. resets, the boot and the host's accesses (O47) -/


namespace Sys2Proof.Proofs.HostEvents
open Sys2Proof Sys2Proof.Machine Sys2Proof.Claims Sys2Proof.Proofs Sys2Proof.Proofs.AccessEvents

/-! ## Resets (01 R9; 06 R136) -/

theorem getElem?_enumFrom {α : Type} (xs : List α) (n i : Nat) : (enumFrom n xs)[i]? = xs[i]?.map (fun x => (n + i, x)) := by
  induction xs generalizing n i with
  | nil => rfl
  | cons x xs ih =>
    cases i with
    | zero => rfl
    | succ i => simpa [enumFrom, Nat.add_comm, Nat.add_left_comm] using ih (n + 1) i

theorem undurable_revert (s : State) (lost : Nat → Bool) : (s.revert lost).undurable = s.undurable.filter (fun c => !lost c.1) := rfl

theorem undurable_revert_all (s : State) : (s.revert (fun _ => true)).undurable = [] := by
  rw [undurable_revert]
  exact List.filter_eq_nil_iff.mpr (fun _ _ => by decide)

theorem undurable_resetDie (s : State) (die : Nat) : (s.resetDie die).undurable = [] := undurable_revert_all _

theorem core?_resetDie {s : State} {die core : Nat} (h : core ∈ s.part.coresOf die) : (s.resetDie die).core? core = CoreRec.reset := by
  unfold State.resetDie State.core?
  dsimp only
  rw [List.getD_eq_getElem?_getD, List.getElem?_map, getElem?_enumFrom, Option.map_map]
  generalize State.cores _ = cs
  cases cs[core]? with
  | none => rfl
  | some c => simp [h]

theorem undurable_resetBase {s : State} {j : Nat} {c : Host.Cell} (h : c ∈ (s.resetBase j).undurable) : c.1 / 2 ^ 36 ≠ j := by
  unfold State.resetBase at h
  rw [undurable_revert] at h
  have := (List.mem_filter.mp h).2
  simpa using this

theorem undurable_resetChip (s : State) : s.resetChip.undurable = [] := by
  unfold State.resetChip
  generalize (List.range 4).foldl State.resetDie (s.terminateAll (s.contexts.map (fun c => c.tag))) = t
  exact undurable_revert_all t.resetIo

/-! ## The boot (19 R345, R352, R354) -/

theorem addContext_keeps (s : State) (mk : Nat → Context) : ∃ n root, s.addContext mk = { s with tableNext := n, contexts := s.contexts ++ [mk root] } :=
  ⟨_, _, rfl⟩

/-- The machine once its firmware is verified and its links are trained. -/
def bootedFrom (s : State) : State :=
  { s with
    boot := { s.boot with state := 3 }, part := s.part.trained, presses := s.presses.map (fun p => { p with shared := false })
    powerCap := 2400 }

/-- Only the contexts and the place of the next table differ; the shared domain has its context. -/
theorem shared_bootedFrom (s : State) : ∃ n cs, (if (s.ctx? 0xFFF).isSome then s else s.addContext (Context.fresh 0xFFF 0)) =
    { s with tableNext := n, contexts := cs } ∧ (cs.find? (fun c => c.tag == 0xFFF)).isSome = true := by
  split
  next h => exact ⟨s.tableNext, s.contexts, rfl, h⟩
  next h =>
    obtain ⟨n, root, heq⟩ := addContext_keeps s (Context.fresh 0xFFF 0)
    refine ⟨n, _, heq, ?_⟩
    rw [List.find?_append, Option.isSome_or, Bool.or_eq_true]
    exact .inr rfl

theorem bootReady_boots {s : State} (h : s.boot.state = 2) : exec .bootReady s =
    .next (State.retry (if ((bootedFrom s).ctx? 0xFFF).isSome then bootedFrom s else (bootedFrom s).addContext (Context.fresh 0xFFF 0))) := by
  change execBootReady s = _
  unfold execBootReady
  exact happens_of (if_neg (not_not_intro h))

theorem mem_peers_trained {p : Part} {x : Nat × Nat} : x ∈ p.trained.peers ↔ x ∈ p.peers ∧ x.1 ≠ p.chip := by
  unfold Part.trained
  simp [List.mem_filter]

theorem word_lt (b : Boot) : b.word < 2 ^ 64 := by
  have hs := b.state.isLt
  have hf := b.failure.isLt
  unfold Boot.word bit
  split <;> omega

theorem bar0_word (s : State) (fn : Nat) : (List.range 8).map (s.bar0Read fn) = leBytes 8 s.boot.word := by
  have hbyte : ∀ i, i < 8 → s.bar0Read fn i = BitVec.ofNat 8 (s.boot.word / 2 ^ (8 * i)) := fun i hi => by
    unfold State.bar0Read
    rw [if_pos hi]
  rw [List.map_congr_left (fun i hi => hbyte i (List.mem_range.mp hi))]
  simp [List.range, List.range.loop, leBytes, Nat.div_div_eq_div_mul]

/-! ## The window (19 R346) -/

section
variable {s : State} {fn ofs n : Nat}

/-- A read's completion. -/
def readDone (fn : Nat) (s : State) (data : List Byte) (aborted poisoned : Bool) : State :=
  { s with completion := some { fn := fn, data := data, aborted := aborted, poisoned := poisoned } }

theorem windowRange_none (h : (s.fn? fn).window = none) (k : AccKind) : s.windowRange fn ofs n k = none := by
  unfold State.windowRange
  rw [h]
  split <;> rfl

theorem bar2Read_unbound (hlen : ofs + n ≤ 2 ^ 36) (h : (s.fn? fn).window = none) :
    exec (.hostBar2Read { fn := fn, offset := ofs, length := n }) s = .next (readDone fn s [] true false).retry := by
  change execHostBar2Read _ s = _
  unfold execHostBar2Read
  refine happens_of ((if_neg (Nat.not_lt_of_le hlen)).trans ?_)
  simp only [windowRange_none h]
  rfl

theorem bar2Read_fails (hlen : ofs + n ≤ 2 ^ 36) {ctx : Nat} {va : Word} {err : Nat × Nat}
    (h : s.windowRange fn ofs n .read = some (ctx, va, .error err)) :
    exec (.hostBar2Read { fn := fn, offset := ofs, length := n }) s =
      .next (readDone fn (s.appendEvent ctx (eventEntry 0x80 err.2 1 va (BitVec.ofNat 64 err.1))) [] true false).retry := by
  change execHostBar2Read _ s = _
  unfold execHostBar2Read
  refine happens_of ((if_neg (Nat.not_lt_of_le hlen)).trans ?_)
  simp only [h]
  rfl

theorem bar2Read_reads (hlen : ofs + n ≤ 2 ^ 36) {ctx : Nat} {va : Word} {bs : List (Nat × Bool)}
    (h : s.windowRange fn ofs n .read = some (ctx, va, .ok bs)) (hfree : ∀ l, l ∈ linesOf (bs.map (fun b => b.1)) → s.physBusy l false = false) :
    let t := s.reachAll (linesOf (bs.map (fun b => b.1))) false
    exec (.hostBar2Read { fn := fn, offset := ofs, length := n }) s =
      .next (readDone fn t (bs.map (fun b => t.mem.read b.1)) false (bs.any (fun b => t.tainted b.1 1))).retry := by
  intro t
  have hnone : (linesOf (bs.map (fun b => b.1))).any (fun l => s.physBusy l false) = false :=
    List.any_eq_false.mpr (fun l hl => Bool.eq_false_iff.mp (hfree l hl))
  change execHostBar2Read _ s = _
  unfold execHostBar2Read
  refine happens_of ((if_neg (Nat.not_lt_of_le hlen)).trans ?_)
  simp only [h]
  exact (if_neg (Bool.eq_false_iff.mp hnone)).trans rfl

theorem bar2Write_fails {ctx : Nat} {data : List Byte} {va : Word} {err : Nat × Nat}
    (h : s.windowRange fn ofs data.length .write = some (ctx, va, .error err)) :
    exec (.hostBar2Write { fn := fn, offset := ofs, data := data }) s =
      .next (s.appendEvent ctx (eventEntry 0x80 err.2 2 va (BitVec.ofNat 64 err.1))).retry := by
  change execHostBar2Write _ s = _
  unfold execHostBar2Write
  refine happens_of ?_
  simp only [h]
  rfl

theorem bar2Write_writes {ctx : Nat} {data : List Byte} {va : Word} {bs : List (Nat × Bool)}
    (h : s.windowRange fn ofs data.length .write = some (ctx, va, .ok bs))
    (hfree : ∀ l, l ∈ linesOf (bs.map (fun b => b.1)) → s.physBusy l true = false) :
    exec (.hostBar2Write { fn := fn, offset := ofs, data := data }) s = .next (State.retry
      (s.writePhys 0 ((bs.zip data).map (fun x => ({ addr := x.1.1, val := x.2, dur := x.1.2 } : ByteWrite))))) := by
  have hnone : (linesOf (bs.map (fun b => b.1))).any (fun l => s.physBusy l true) = false :=
    List.any_eq_false.mpr (fun l hl => Bool.eq_false_iff.mp (hfree l hl))
  change execHostBar2Write _ s = _
  unfold execHostBar2Write
  refine happens_of ?_
  simp only [h]
  exact if_neg (Bool.eq_false_iff.mp hnone)

end

/-- Settles O47: resets by what they leave, the boot by its states, the window by its range. -/
theorem resetAndHostEvents : Obligations.ResetAndHostEvents := by
  unfold Obligations.ResetAndHostEvents
  refine ⟨?_, ?_, ?_, ?_, ?_, ?_, ?_, ?_, ?_, ?_, ?_, ?_, ?_, ?_⟩
  · intro s die
    exact ⟨rfl, undurable_resetDie s die.val, fun core h => core?_resetDie h⟩
  · intro s j
    exact ⟨rfl, fun c h => undurable_resetBase h⟩
  · intro s
    exact ⟨rfl, rfl, rfl, rfl⟩
  · intro s
    exact ⟨rfl, rfl, rfl, undurable_resetChip s⟩
  · intro s chip b
    refine ⟨fun h => ?_, fun h => ?_⟩
    · change execPerstDeassert _ s = _
      unfold execPerstDeassert
      exact happens_of (if_pos h)
    · change execPerstDeassert _ s = _
      unfold execPerstDeassert
      exact happens_of ((if_neg (by rw [h]; decide)).trans (if_pos h))
  · intro s h
    obtain ⟨n, cs, heq, hshared⟩ := shared_bootedFrom (bootedFrom s)
    refine ⟨_, (bootReady_boots h).trans (congrArg (fun t : State => Host.Outcome.next t.retry) heq), rfl, hshared, rfl, fun p hp => ?_, fun x => ?_⟩
    · obtain ⟨q, -, rfl⟩ := List.mem_map.mp hp
      rfl
    · exact mem_peers_trained
  · intro s code h
    change execBootTimeout _ s = _
    unfold execBootTimeout
    exact happens_of (if_pos h)
  · intro s fn
    rfl
  · intro s fn ofs n hlen answer
    exact ⟨bar2Read_unbound hlen, fun ctx va err h => bar2Read_fails hlen h, fun ctx va bs h hfree => bar2Read_reads hlen h hfree⟩
  · intro s fn
    rw [bar0_word, leNat_leBytes, Nat.mod_eq_of_lt (word_lt s.boot)]
    rfl
  · intro s fn ofs ctx data va err h
    exact bar2Write_fails h
  · intro s fn ofs ctx data va bs h hfree
    exact bar2Write_writes h hfree
  · intro s e
    rfl
  · intro s fn i r hboot hnext hok hbusy
    change execInvalidCommandRecord _ s = _
    unfold execInvalidCommandRecord
    refine happens_of ((if_neg (not_not_intro hboot)).trans ?_)
    simp only [hnext]
    exact if_neg (by simp [hok, hbusy])

end Sys2Proof.Proofs.HostEvents
end

section
/-! PROOFS. Ezden's commands: a record performed or turned away (19 R348-R351, R353, R383; 18 R340). -/


namespace Sys2Proof.Proofs.HostCommands
open Sys2Proof Sys2Proof.Machine Sys2Proof.Claims Sys2Proof.Proofs Sys2Proof.Proofs.AccessEvents

/-! ## A record performed (19 R348) -/

section
variable {s s1 t : State} {fn opc : Nat} {r : CmdRec}

theorem command_commanded (h : Commanded s fn opc r s1) (effect : State → CmdRec → CmdStep) :
    s.command fn opc effect = (effect s1 r).map (fun x => x.1.complete fn r x.2.1 x.2.2) := by
  obtain ⟨⟨i, hnext, rfl⟩, hcode, hok, hfree, hgate⟩ := h
  unfold State.command
  simp only [hnext, hcode, hok, hfree, hgate]
  exact (if_neg (by simp)).trans (if_neg (not_not_intro rfl))

/-- A command whose effect is done completes with STATUS 0 and its result. -/
theorem command_done {effect : State → CmdRec → CmdStep} {result : Nat} (h : Commanded s fn opc r s1) (he : effect s1 r = some (t, 0, result)) :
    happens s (s.command fn opc effect) = .next (t.complete fn r 0 result).retry :=
  happens_of ((command_commanded h effect).trans (by rw [he]; rfl))

/-- A command that fails completes with its status. -/
theorem command_failed {effect : State → CmdRec → CmdStep} {status : Nat} (h : Commanded s fn opc r s1) (he : effect s1 r = failed s1 status) :
    happens s (s.command fn opc effect) = .next (s1.complete fn r status 0).retry :=
  happens_of ((command_commanded h effect).trans (by rw [he]; rfl))

/-- A record the function may not name now completes with the gate's status. -/
theorem command_gated {effect : State → CmdRec → CmdStep} {i : Nat} (hnext : s.nextCommand fn = some (i, r)) (hcode : r.opc = opc)
    (hok : r.ok = true) (hfree : s.hostBusy r.cpl 16 true = false) (hgate : s.cmdGate fn opc ≠ 0) :
    happens s (s.command fn opc effect) =
      .next ((s.modFn fn (fun f => { f with commands := f.commands.eraseIdx i })).complete fn r (s.cmdGate fn opc) 0).retry := by
  refine happens_of ?_
  unfold State.command
  simp only [hnext, hcode, hok, hfree]
  exact (if_neg (by simp)).trans (if_pos hgate)

theorem ownContext_names {tag : Nat} {c : Context} (h : names s fn tag c) (next : Context → CmdStep) : s.ownContext fn tag next = next c := by
  obtain ⟨hlt, hctx, hfn⟩ := h
  unfold State.ownContext
  simp only [hctx]
  exact (if_neg (Nat.not_le.mpr hlt)).trans (if_pos hfn)

end

/-! ## Gates (19 R350) -/

theorem cmdGate_early {s : State} {fn opc : Nat} (hneg : (s.fn? fn).negotiated = false) (hopc : opc ∉ [0x01, 0x09, 0x0A, 0x0B, 0x0C, 0x0F]) :
    s.cmdGate fn opc = 6 := by
  unfold State.cmdGate
  exact if_pos ⟨by rw [hneg]; rfl, hopc⟩

theorem cmdGate_physical {s : State} {fn opc : Nat} (hneg : (s.fn? fn).negotiated = true) (hfn : fn ≠ 0) (hopc : opc ∈ [0x0B, 0x0C, 0x0D]) :
    s.cmdGate fn opc = 3 := by
  unfold State.cmdGate
  exact (if_neg (by rw [hneg]; exact fun h => absurd h.1 (by decide))).trans (if_pos ⟨hfn, hopc⟩)

/-! ## Contexts and windows (19 R349, R350) -/

section
variable {s s1 t : State} {fn : Nat} {r : CmdRec}

theorem negotiate_succeeds (h : Commanded s fn 0x01 r s1) (hfirst : (s1.fn? fn).hadContext = false)
    (hadv : BitVec.ofNat 128 (r.arg 16 16) &&& ~~~ featAdv = 0) :
    succeeds s (.negotiateFeatures { fn := fn }) fn r
      (s1.modFn fn (fun f => { f with negotiated := true, featacc := BitVec.ofNat 128 (r.arg 16 16) })) 0 := by
  change execNegotiateFeatures _ s = _
  unfold execNegotiateFeatures
  exact command_done h ((if_neg (by rw [hfirst]; decide)).trans (if_neg (not_not_intro hadv)))

/-- The context CREATE_CONTEXT makes, by the place of its root table. -/
def created (fn tag : Nat) (r : CmdRec) (root : Nat) : Context :=
  { Context.fresh tag fn root with
    pasid := r.arg 16 4, quota := r.arg 20 4, slack := if r.arg 24 2 = 0 then 256 else r.arg 24 2
    chkmin := Fin.ofNat 3 (r.arg 26 1), eager := (r.arg 27 1).testBit 0, finj := (r.arg 27 1).testBit 1
    pool := r.arg 28 4, namespaces := BitVec.ofNat 64 (r.arg 32 8), portLo := r.arg 40 2, portHi := r.arg 42 2
    inShared := Config.sharedDomain tag }

theorem created_fields (fn tag : Nat) (hmin : r.arg 26 1 ≤ 2) (a : Nat) :
    (created fn tag r a).tag = tag ∧ (created fn tag r a).fn = fn ∧ (created fn tag r a).pasid = r.arg 16 4 ∧
      (created fn tag r a).quota = r.arg 20 4 ∧ (created fn tag r a).slack = (if r.arg 24 2 = 0 then 256 else r.arg 24 2) ∧
      (created fn tag r a).chkmin.val = r.arg 26 1 ∧ (created fn tag r a).eager = (r.arg 27 1).testBit 0 ∧
      (created fn tag r a).finj = (r.arg 27 1).testBit 1 ∧ (created fn tag r a).pool = r.arg 28 4 ∧
      (created fn tag r a).portLo = r.arg 40 2 ∧ (created fn tag r a).portHi = r.arg 42 2 ∧ (created fn tag r a).root = a ∧
      (created fn tag r a).terminated = false := by
  unfold created
  exact ⟨rfl, rfl, rfl, rfl, rfl, Nat.mod_eq_of_lt (Nat.lt_succ_of_le hmin), rfl, rfl, rfl, rfl, rfl, rfl, rfl⟩

theorem createContext_succeeds (h : Commanded s fn 0x02 r s1) (hpasid : r.arg 16 4 < 2 ^ 20)
    (hslack : r.arg 24 2 = 0 ∨ (16 ≤ r.arg 24 2 ∧ r.arg 24 2 ≤ 4096)) (hmin : r.arg 26 1 ≤ 2) (hflags : r.arg 27 1 ≤ 3)
    (hquota : r.arg 20 4 = 0 ∨ s1.accepted fn 3 = true) (hfinj : (r.arg 27 1).testBit 1 = false ∨ s1.accepted fn 6 = true)
    (hfit : s1.slotsFit (r.arg 20 4) = true) (htag : s1.ctx? s1.freeTag = none) :
    succeeds s (.createContext { fn := fn }) fn r
      ((s1.addContext (created fn s1.freeTag r)).modFn fn (fun f => { f with hadContext := true })) s1.freeTag := by
  change execCreateContext _ s = _
  unfold execCreateContext
  refine command_done h ((if_neg ?_).trans ((if_neg ?_).trans (if_neg ?_)))
  · split <;> omega
  · rcases hquota with hq | hq <;> rcases hfinj with hf | hf <;> simp [hq, hf]
  · simp [hfit, htag]

theorem bindWindow_succeeds {c : Context} (h : Commanded s fn 0x10 r s1) (hc : names s1 fn (r.arg 16 2) c) (halign : r.arg 24 8 % 2 ^ 36 = 0)
    (hlt : r.arg 24 8 < 2 ^ 52) :
    succeeds s (.bindWindow { fn := fn }) fn r
      (s1.modFn fn (fun f => { f with window := some (c.tag, BitVec.ofNat 64 (r.arg 24 8)) })) 0 := by
  change execBindWindow _ s = _
  unfold execBindWindow
  exact command_done h ((ownContext_names hc _).trans (if_neg (not_or.mpr ⟨not_not_intro halign, Nat.not_le.mpr hlt⟩)))

/-! ## Pages and code (19 R349, R383) -/

theorem any_eq_false_of {α : Type} {xs : List α} {p : α → Bool} (h : ∀ x, x ∈ xs → p x = false) : xs.any p = false :=
  List.any_eq_false.mpr (fun x hx => Bool.eq_false_iff.mp (h x hx))

theorem destroyContext_succeeds {c : Context} (h : Commanded s fn 0x03 r s1) (hc : names s1 fn (r.arg 16 2) c)
    (hfree : ∀ q, q ∈ s1.queues → q.ctx = c.tag → s1.physBusy (q.hdr / 128) true = false) :
    let u := (s1.queues.filter (fun q => q.ctx == c.tag)).foldl State.destroyQueue (s1.terminate c.tag)
    u.unmapRun c.tag c.root ((u.leaves c.root).map (fun l => (l.1, frameOf l.2.1 l.2.2, 2 ^ levelShift l.2.1))) = some t →
    succeeds s (.destroyContext { fn := fn }) fn r
      { t with
        contexts := t.contexts.filter (fun x => x.tag ≠ c.tag), succs := t.succs.filter (fun p => p.ctx ≠ c.tag)
        fns := t.fns.map (fun f => if (f.window.map (fun w => w.1)) = some c.tag then { f with window := none } else f) } 0 := by
  intro u hunmap
  change execDestroyContext _ s = _
  unfold execDestroyContext
  refine command_done h ((ownContext_names hc _).trans ?_)
  have hidle : (s1.queues.filter (fun q => q.ctx == c.tag)).any (fun q => s1.physBusy (q.hdr / 128) true) = false :=
    any_eq_false_of fun q hq => hfree q (List.mem_of_mem_filter hq) (beq_iff_eq.mp (List.mem_filter.mp hq).2)
  refine (if_neg (Bool.eq_false_iff.mp hidle)).trans ?_
  simp only [u] at hunmap
  simp only [hunmap]
  rfl

theorem map_succeeds {c : Context} (h : Commanded s fn 0x04 r s1) (hc : names s1 fn (r.arg 16 2) c) :
    let size := pageBytes (r.arg 44 1)
    let bits := r.arg 45 2
    let pages := (List.range (r.arg 40 4)).map (fun i => (r.arg 24 8 + i * size, r.arg 32 8 + i * size))
    r.arg 44 1 ≤ 2 → bits < 2 ^ 8 → 0 < r.arg 40 4 → r.arg 24 8 % size = 0 → r.arg 32 8 % size = 0 →
    r.arg 24 8 + r.arg 40 4 * size ≤ 2 ^ 52 → r.arg 32 8 + r.arg 40 4 * size ≤ 2 ^ 50 →
    (∀ p, p ∈ pages → s1.leafBad bits p.2 size = false ∧ s1.covered c.root p.1 (r.arg 44 1) = false ∧
      (p.2 / 2 ^ 48 = 2 → s1.accepted fn 4 = true) ∧ ∀ q, q ∈ s1.poolRanges → ¬(p.2 < q.1 + q.2 ∧ q.1 < p.2 + size)) →
    (bits.testBit 2 = true → s1.accepted fn 3 = true) →
    succeeds s (.map { fn := fn }) fn r (pages.foldl (fun (s : State) p => s.mapOne c (r.arg 44 1) bits p) s1) 0 := by
  intro size bits pages hcode hbits hn hva hpa hvaEnd hpaEnd hpages hdur
  change execMap _ s = _
  unfold execMap
  refine command_done h ((ownContext_names hc _).trans ((if_neg ?_).trans ((if_neg ?_).trans ((if_neg ?_).trans (if_neg ?_)))))
  · rintro (h | h | h | h | h | h | h)
    · exact absurd hcode (Nat.not_le.mpr h)
    · exact absurd hbits (Nat.not_lt.mpr h)
    · exact absurd h (Nat.ne_of_gt hn)
    · exact h hva
    · exact h hpa
    · exact absurd hvaEnd (Nat.not_le.mpr h)
    · exact absurd hpaEnd (Nat.not_le.mpr h)
  · refine Bool.eq_false_iff.mp (any_eq_false_of fun p hp => ?_)
    obtain ⟨hleaf, hcover, -, -⟩ := hpages p hp
    exact Bool.or_eq_false_iff.mpr ⟨hleaf, hcover⟩
  · rintro (⟨hbit, hno⟩ | ⟨hfar, hno⟩)
    · rw [hdur hbit] at hno
      exact absurd hno (by decide)
    · obtain ⟨p, hp, hregion⟩ := List.any_eq_true.mp hfar
      obtain ⟨-, -, hacc, -⟩ := hpages p hp
      rw [hacc (of_decide_eq_true hregion)] at hno
      exact absurd hno (by decide)
  · refine Bool.eq_false_iff.mp (any_eq_false_of fun p hp => any_eq_false_of fun q hq => ?_)
    obtain ⟨-, -, -, hpool⟩ := hpages p hp
    have hout := hpool q hq
    rw [← Bool.decide_and]
    exact decide_eq_false hout

theorem unmap_succeeds {c : Context} {ls : List (Nat × Nat × Nat)} (h : Commanded s fn 0x05 r s1) (hc : names s1 fn (r.arg 16 2) c)
    (hn : r.arg 40 4 ≠ 0) (hrun : s1.leafRun c.root (r.arg 40 4) (r.arg 24 8) = some ls) (hunmap : s1.unmapRun c.tag c.root ls = some t) :
    succeeds s (.unmap { fn := fn }) fn r t 0 := by
  change execUnmap _ s = _
  unfold execUnmap
  refine command_done h ((ownContext_names hc _).trans ((if_neg hn).trans ?_))
  simp only [hrun, hunmap]
  rfl

theorem loadCode_succeeds {c : Context} {xs : List Xlat} (h : Commanded s fn 0x06 r s1) (hc : names s1 fn (r.arg 16 2) c) :
    let va := BitVec.ofNat 64 (r.arg 24 8)
    let n := r.arg 40 4
    let ps := rangePieces va n
    va.toNat + n ≤ 2 ^ 52 → firstXlat s1 (homeWho c.tag) (ps.map (fun v => (v, AccKind.read))) = .ok xs →
    let dst := (List.range n).map (fun i => placeByte (ps.zip xs) (va + BitVec.ofNat 64 i))
    (∀ l, l ∈ linesOf (dst.map (fun p => p.1)) → s1.physBusy l true = false) → s1.hostBusy (r.arg 32 8) n false = false →
    succeeds s (.loadCode { fn := fn }) fn r (s1.writePhys 0 ((dst.zip (s1.hostRead (r.arg 32 8) n)).map (fun x =>
      ({ addr := x.1.1, val := x.2, dur := x.1.2 } : ByteWrite)))) 0 := by
  intro va n ps hend hx dst hfree hhost
  change execLoadCode _ s = _
  unfold execLoadCode
  refine command_done h ((ownContext_names hc _).trans ((if_neg (Nat.not_lt.mpr hend)).trans ?_))
  have hx' : firstXlat s1 (homeWho c.tag) ((rangePieces (BitVec.ofNat 64 (r.arg 24 8)) (r.arg 40 4)).map (fun v => (v, AccKind.read))) = .ok xs := hx
  simp only [hx']
  exact if_neg (Bool.eq_false_iff.mp (Bool.or_eq_false_iff.mpr ⟨any_eq_false_of hfree, hhost⟩))

end

/-! ## Queue objects (14 R264; 15 R279) -/

section
variable {s s1 t : State} {fn : Nat} {r : CmdRec}

theorem createQueueObject_succeeds {c : Context} {x : Xlat} {i : Nat} (h : Commanded s fn 0x07 r s1) (hc : names s1 fn (r.arg 16 2) c) :
    let va := BitVec.ofNat 64 (r.arg 24 8)
    let cap := r.arg 32 4
    let kind := r.arg 36 1
    let base := BitVec.ofNat 64 (r.arg 40 8)
    kind ≤ 2 → 0 < cap → cap < 2 ^ 24 → r.arg 37 1 ≤ 7 → (kind = 1 ∨ r.arg 37 1 = 0) → r.arg 38 1 ≤ 3 → va.toNat % 64 = 0 → base.toNat % 64 = 0 →
    s1.ownPages c va 64 = true → s1.ownPages c base (cap * (if kind = 1 then 64 else 8)) = true →
    s1.translate (homeWho c.tag) .atomic va = .ok x → s1.freeAperture fn = some i → s1.queue? x.pa = none →
    s1.dieServes kind (r.arg 38 1) = true → s1.physBusy (x.pa / 128) true = false →
    let h : Hdr := {
      base := base, cap := cap, kind := kind, prio := r.arg 37 1, die := r.arg 38 1, valid := true, owner := c.tag, head := 0, tail := 0
      badrec := 0, dropped := 0 }
    let t := s1.writePhys 0 ((enumFrom 0 h.bytes).map (fun b => ({ addr := x.pa + b.1, val := b.2, dur := x.dur } : ByteWrite)))
    succeeds s (.createQueueObject { fn := fn }) fn r { t with queues := t.queues ++ [{
      hdr := x.pa, va := va, ctx := c.tag, kind := kind, die := r.arg 38 1, fn := fn, aperture := i, prio := r.arg 37 1, el := r.arg 37 1
      timer := 0, waited := 0, holding := false, onchip := [] }] } i := by
  intro va cap kind base hkind hcap hcapEnd hprio hfair hdie hva hbase hpage hring hx hfreeAp hnew hserves hbusy hdr t
  change execCreateQueueObject _ s = _
  unfold execCreateQueueObject
  refine command_done h ((ownContext_names hc _).trans ((if_neg ?_).trans ((if_neg ?_).trans ?_)))
  · rintro (h | h | h | h | ⟨hne, hp⟩ | h | h | h)
    · exact absurd hkind (Nat.not_le.mpr h)
    · exact absurd h (Nat.ne_of_gt hcap)
    · exact absurd hcapEnd (Nat.not_lt.mpr h)
    · exact absurd hprio (Nat.not_le.mpr h)
    · exact hfair.elim hne hp
    · exact absurd hdie (Nat.not_le.mpr h)
    · exact h hva
    · exact h hbase
  · exact Bool.eq_false_iff.mp (Bool.or_eq_false_iff.mpr ⟨by rw [hpage]; rfl, by rw [hring]; rfl⟩)
  · simp only [va] at hx
    simp only [hx, hfreeAp]
    exact (if_neg (by rw [hnew]; decide)).trans ((if_neg (by rw [hserves]; decide)).trans (if_neg (Bool.eq_false_iff.mp hbusy)))

theorem destroyQueueObject_succeeds {q : QueueObj} (h : Commanded s fn 0x08 r s1)
    (hq : s1.queues.find? (fun q => q.fn == fn && decide (q.va.toNat = r.arg 24 8)) = some q) (hbusy : s1.physBusy (q.hdr / 128) true = false) :
    succeeds s (.destroyQueueObject { fn := fn }) fn r (s1.destroyQueue q) 0 := by
  change execDestroyQueueObject _ s = _
  unfold execDestroyQueueObject
  refine command_done h ?_
  simp only [hq]
  exact if_neg (Bool.eq_false_iff.mp hbusy)

/-! ## Bytes for the host (19 R349, R351, R384, R353) -/

theorem deliverBytes_free {dest len : Nat} {bs : List Byte} (h : s1.hostBusy dest (bs.take len).length true = false) :
    s1.deliverBytes dest len bs = some (s1.hostWrite dest (bs.take len), 0, (bs.take len).length) := by
  unfold State.deliverBytes
  exact if_neg (Bool.eq_false_iff.mp h)

theorem readEnumerationTable_succeeds (h : Commanded s fn 0x09 r s1)
    (hbusy : s1.hostBusy (r.arg 24 8) (s1.part.enumTable.take (r.arg 32 4)).length true = false) :
    succeeds s (.readEnumerationTable { fn := fn }) fn r (s1.hostWrite (r.arg 24 8) (s1.part.enumTable.take (r.arg 32 4)))
      (s1.part.enumTable.take (r.arg 32 4)).length := by
  change execReadEnumerationTable _ s = _
  unfold execReadEnumerationTable
  exact command_done h (deliverBytes_free hbusy)

/-- What READ_COUNTERS does by its SCOPE. -/
def countersEffect (fn : Nat) (s : State) (r : CmdRec) : CmdStep :=
  match r.arg 36 1 with
  | 0 => if r.arg 16 2 ≠ 0 then failed s 1 else s.deliverBytes (r.arg 24 8) (r.arg 32 4) s.counterBytes
  | 1 => if r.arg 16 2 ≠ 0 then failed s 1 else s.deliverBytes (r.arg 24 8) (r.arg 32 4) (s.errorLog.flatMap id)
  | 2 => s.ownContext fn (r.arg 16 2) (fun c =>
      s.deliverBytes (r.arg 24 8) (r.arg 32 4) (leBytes 8 c.eventCount.toNat ++ zeroBytes 56 ++ c.events.flatMap id))
  | _ => failed s 1

theorem readCounters_succeeds {bs : List Byte} (h : Commanded s fn 0x0A r s1)
    (he : countersEffect fn s1 r = s1.deliverBytes (r.arg 24 8) (r.arg 32 4) bs)
    (hbusy : s1.hostBusy (r.arg 24 8) (bs.take (r.arg 32 4)).length true = false) :
    succeeds s (.readCounters { fn := fn }) fn r (s1.hostWrite (r.arg 24 8) (bs.take (r.arg 32 4))) (bs.take (r.arg 32 4)).length := by
  change execReadCounters _ s = _
  unfold execReadCounters
  exact command_done h (he.trans (deliverBytes_free hbusy))

theorem countersEffect_part (hscope : r.arg 36 1 = 0) (htag : r.arg 16 2 = 0) :
    countersEffect fn s1 r = s1.deliverBytes (r.arg 24 8) (r.arg 32 4) s1.counterBytes := by
  unfold countersEffect
  simp only [hscope]
  exact if_neg (not_not_intro htag)

theorem countersEffect_log (hscope : r.arg 36 1 = 1) (htag : r.arg 16 2 = 0) :
    countersEffect fn s1 r = s1.deliverBytes (r.arg 24 8) (r.arg 32 4) (s1.errorLog.flatMap id) := by
  unfold countersEffect
  simp only [hscope]
  exact if_neg (not_not_intro htag)

theorem countersEffect_context {c : Context} (hscope : r.arg 36 1 = 2) (hc : names s1 fn (r.arg 16 2) c) :
    countersEffect fn s1 r = s1.deliverBytes (r.arg 24 8) (r.arg 32 4)
      (leBytes 8 c.eventCount.toNat ++ zeroBytes 56 ++ c.events.flatMap id) := by
  unfold countersEffect
  simp only [hscope]
  exact ownContext_names hc _

theorem attest_succeeds (h : Commanded s fn 0x0F r s1) (hbusy : s1.hostBusy (r.arg 48 8) 256 true = false) :
    succeeds s (.attest { fn := fn }) fn r (s1.hostWrite (r.arg 48 8) (s1.report (sliceBytes r.bytes 16 32))) 0 := by
  change execAttest _ s = _
  unfold execAttest
  exact command_done h (if_neg (Bool.eq_false_iff.mp hbusy))

/-! ## Power and ageing (01 R17; 15 R280) -/

theorem setPowerCap_succeeds (h : Commanded s fn 0x0B r s1) (hlow : 1000 ≤ r.arg 16 2 / 25 * 25) (hhigh : r.arg 16 2 / 25 * 25 ≤ 2400) :
    succeeds s (.setPowerCap { fn := fn }) fn r { s1 with powerCap := r.arg 16 2 / 25 * 25 } (r.arg 16 2 / 25 * 25) := by
  change execSetPowerCap _ s = _
  unfold execSetPowerCap
  exact command_done h (if_neg (not_or.mpr ⟨Nat.not_lt.mpr hlow, Nat.not_lt.mpr hhigh⟩))

theorem arg_lt (r : CmdRec) (a n : Nat) : r.arg a n < 2 ^ (8 * n) := by
  have h := System.leNat_lt (sliceBytes r.bytes a n)
  rwa [show (sliceBytes r.bytes a n).length = n by simp [sliceBytes]] at h

theorem setAgeingBlock_succeeds (h : Commanded s fn 0x0C r s1) (hdie : r.arg 16 1 ≤ 3) (hnz : ∀ i, i < 8 → r.arg (24 + 2 * i) 2 ≠ 0) :
    succeeds s (.setAgeingBlock { fn := fn }) fn r (s1.modDie (r.arg 16 1) (fun d =>
      { d with newAgeing := some (Vector.ofFn (fun (i : Fin 8) => BitVec.ofNat 16 (r.arg (24 + 2 * i.val) 2))) })) 0 := by
  change execSetAgeingBlock _ s = _
  unfold execSetAgeingBlock
  refine command_done h (if_neg (not_or.mpr ⟨Nat.not_lt.mpr hdie, Bool.eq_false_iff.mp (any_eq_false_of fun a ha => ?_)⟩))
  obtain ⟨i, rfl⟩ : ∃ i : Fin 8, BitVec.ofNat 16 (r.arg (24 + 2 * i.val) 2) = a := by simpa using ha
  refine decide_eq_false fun hzero => hnz i.val i.isLt ?_
  have hmod := congrArg BitVec.toNat hzero
  rw [BitVec.toNat_ofNat] at hmod
  exact (Nat.mod_eq_of_lt (arg_lt r _ 2)).symm.trans hmod

/-! ## Collective groups and restoring (05 R120; 18 R340; 19 R354) -/

theorem configureParityGroup_succeeds (h : Commanded s fn 0x0D r s1) (hacc : s1.accepted fn 4 = true) :
    let id := r.arg 16 1
    let p := r.arg 17 2
    let chips := (List.range p).map (fun i => fieldAt (s1.hostRead (r.arg 24 8) (2 * p)) (2 * i) 2)
    2 ≤ p → p ≤ 512 → r.arg 19 2 < 2 ^ 12 → s1.hostBusy (r.arg 24 8) (2 * p) false = false → distinct chips = true → s1.part.chip ∈ chips →
    (∀ k, k ∈ chips → s1.part.reaches k = true) → (∀ w, w ∈ s1.collWaits → w.group ≠ id) → (∀ x, x ∈ s1.seals → x.wait.group ≠ id) →
    succeeds s (.configureParityGroup { fn := fn, clash := false }) fn r { s1 with collGroups := s1.collGroups.filter (fun x => x.id ≠ id) ++ [{
      id := id, chips := chips, me := chips.findIdx (fun k => k == s1.part.chip), tag := r.arg 19 2 }] } 0 := by
  intro id p chips hlow hhigh htag hbusy hdist hmem hreach hwaits hseals
  change execConfigureParityGroup _ s = _
  unfold execConfigureParityGroup
  refine command_done h ((if_neg (by rw [hacc]; decide)).trans ((if_neg ?_).trans ((if_neg (Bool.eq_false_iff.mp hbusy)).trans
    ((if_neg ?_).trans (if_neg ?_)))))
  · exact not_or.mpr ⟨Nat.not_lt.mpr hlow, not_or.mpr ⟨Nat.not_lt.mpr hhigh, Nat.not_le.mpr htag⟩⟩
  · have hall : chips.all s1.part.reaches = true := List.all_eq_true.mpr hreach
    have hcont : chips.contains s1.part.chip = true := List.contains_iff_mem.mpr hmem
    change ¬((!distinct chips || !chips.contains s1.part.chip || !chips.all s1.part.reaches || false) = true)
    rw [hdist, hcont, hall]
    decide
  · exact Bool.eq_false_iff.mp (Bool.or_eq_false_iff.mpr ⟨any_eq_false_of fun w hw => beq_eq_false_iff_ne.mpr (hwaits w hw),
      any_eq_false_of fun x hx => beq_eq_false_iff_ne.mpr (hseals x hx)⟩)

theorem configureParityGroup_clashes (h : Commanded s fn 0x0D r s1) (hacc : s1.accepted fn 4 = true) (hlow : 2 ≤ r.arg 17 2)
    (hhigh : r.arg 17 2 ≤ 512) (htag : r.arg 19 2 < 2 ^ 12) (hbusy : s1.hostBusy (r.arg 24 8) (2 * r.arg 17 2) false = false) :
    exec (.configureParityGroup { fn := fn, clash := true }) s = .next (s1.complete fn r 1 0).retry := by
  change execConfigureParityGroup _ s = _
  unfold execConfigureParityGroup
  refine command_failed h ((if_neg (by rw [hacc]; decide)).trans ((if_neg ?_).trans ((if_neg (Bool.eq_false_iff.mp hbusy)).trans (if_pos ?_))))
  · exact not_or.mpr ⟨Nat.not_lt.mpr hlow, not_or.mpr ⟨Nat.not_lt.mpr hhigh, Nat.not_le.mpr htag⟩⟩
  · exact Bool.or_true _

theorem restore_succeeds {c : Context} {cg : CollGroup} {ps : List PeerRestore} {tabs : List (Nat × Nat × Nat)} {h : HeldGen}
    (hcmd : Commanded s fn 0x0E r s1) (hacc : s1.accepted fn 3 = true) (hc : names s1 fn (r.arg 16 2) c)
    (hcg : s1.collGroups.find? (fun g => g.id == r.arg 18 1) = some cg) (hsize : cg.chips.length = 8) (htag : cg.tag = c.tag)
    (hlost : r.arg 19 1 = 0xFF ∨ (r.arg 19 1 ≤ 7 ∧ cg.chips[r.arg 19 1]? = some (r.arg 20 2))) (hpeers : peersOk cg ps = true) :
    let e : EvRestore := { fn := fn, peers := ps, tables := tabs }
    let replaced := decide (r.arg 19 1 = cg.me)
    (s1.terminate c.tag).newestIntact c cg e replaced = some h → (s1.terminate c.tag).bringBack c h replaced (skippedGen c e h.gen) = some t →
    succeeds s (.restore e) fn r t h.gen := by
  intro e replaced hnewest hback
  change execRestore e s = _
  unfold execRestore
  refine command_done hcmd ((if_neg (by rw [hacc]; decide)).trans ((ownContext_names hc _).trans ?_))
  simp only [hcg]
  refine (if_neg ?_).trans ((if_neg (by rw [hpeers]; decide)).trans ?_)
  · rintro (hne | hne | ⟨hff, hne⟩)
    · exact hne hsize
    · exact hne htag
    · obtain h | ⟨hle, hchip⟩ := hlost
      · exact hff h
      · exact hne.elim (fun hgt => absurd hle (Nat.not_le.mpr hgt)) (fun hno => hno hchip)
  · simp only [replaced] at hnewest hback
    simp only [hnewest, hback]
    rfl

end

/-! ## One page mapped (14 R275) -/

theorem read_setPage (s : State) (a n i : Nat) (hi : i < n) : (s.setPage a n []).mem.read (a + i) = 0 := by
  have hmem : (s.setPage a n []).mem = s.mem.clear a n := by
    change (s.mem.clear a n).writeBytes a ([].take n) = _
    rw [List.take_nil]
    rfl
  rw [hmem]
  exact Pages.read_clear_inside _ ⟨Nat.le_add_right a i, Nat.add_lt_add_left hi a⟩

theorem mapOne_fresh {s : State} {c : Context} {code bits : Nat} {p : Nat × Nat} (hcoh : bits % 4 = 2) (hlocal : p.2 < 2 ^ 48)
    (hnew : s.frameMapped p.2 (pageBytes code) = false) :
    s.mapOne c code bits p = (s.setPage p.2 (pageBytes code) []).mapPage c.root p.1 p.2 code bits c.tag := by
  have hcond : (decide (bits % 4 = 2) && decide (p.2 < 2 ^ 48) && !s.frameMapped p.2 (pageBytes code)) = true := by
    rw [decide_eq_true hcoh, decide_eq_true hlocal, hnew]
    rfl
  unfold State.mapOne
  exact congrArg (fun x : State => x.mapPage c.root p.1 p.2 code bits c.tag) (if_pos hcond)

theorem mapOne_kept {s : State} {c : Context} {code bits : Nat} {p : Nat × Nat}
    (h : bits % 4 ≠ 2 ∨ 2 ^ 48 ≤ p.2 ∨ s.frameMapped p.2 (pageBytes code) = true) :
    s.mapOne c code bits p = s.mapPage c.root p.1 p.2 code bits c.tag := by
  have hcond : ¬((decide (bits % 4 = 2) && decide (p.2 < 2 ^ 48) && !s.frameMapped p.2 (pageBytes code)) = true) := by
    simp only [Bool.and_eq_true, decide_eq_true_eq, Bool.not_eq_true']
    rintro ⟨⟨hcoh, hlocal⟩, hnew⟩
    obtain h | h | h := h
    · exact h hcoh
    · exact absurd hlocal (Nat.not_lt.mpr h)
    · rw [hnew] at h
      exact absurd h (by decide)
  unfold State.mapOne
  exact congrArg (fun x : State => x.mapPage c.root p.1 p.2 code bits c.tag) (if_neg hcond)

/-! ## The obligation -/

/-- The commands of the gate's statement are performed as records of their OPC. -/
theorem exec_gated {s : State} {fn opc i : Nat} {cmd : Instr} {r : CmdRec}
    (hcmd : (opc = 0x02 ∧ cmd = .createContext { fn := fn }) ∨ (opc = 0x04 ∧ cmd = .map { fn := fn }) ∨ (opc = 0x05 ∧ cmd = .unmap { fn := fn }) ∨
       (opc = 0x07 ∧ cmd = .createQueueObject { fn := fn }) ∨ (opc = 0x0B ∧ cmd = .setPowerCap { fn := fn }) ∨
       (opc = 0x0C ∧ cmd = .setAgeingBlock { fn := fn }) ∨ (opc = 0x0D ∧ ∃ b, cmd = .configureParityGroup { fn := fn, clash := b }))
    (hnext : s.nextCommand fn = some (i, r)) (hcode : r.opc = opc) (hok : r.ok = true) (hfree : s.hostBusy r.cpl 16 true = false)
    (hgate : s.cmdGate fn opc ≠ 0) :
    exec cmd s = .next ((s.modFn fn (fun f => { f with commands := f.commands.eraseIdx i })).complete fn r (s.cmdGate fn opc) 0).retry := by
  obtain ⟨rfl, rfl⟩ | ⟨rfl, rfl⟩ | ⟨rfl, rfl⟩ | ⟨rfl, rfl⟩ | ⟨rfl, rfl⟩ | ⟨rfl, rfl⟩ | ⟨rfl, b, rfl⟩ := hcmd <;>
    exact command_gated hnext hcode hok hfree hgate

/-- Settles O48: a record that passes the gate has its command's effect, any other its gate's status. -/
theorem hostCommands : Obligations.HostCommands := by
  unfold Obligations.HostCommands
  refine ⟨fun s fn r s1 => ⟨?_, ?_, ?_, ?_, ?_, ?_, ?_, ?_, ?_, ?_, ?_, ?_, ?_, ?_, ?_, ?_, ?_⟩, ?_, ?_⟩
  · exact negotiate_succeeds
  · intro h hpasid hslack hmin hflags hquota hfinj hfit htag
    exact ⟨created fn s1.freeTag r, created_fields fn s1.freeTag hmin, createContext_succeeds h hpasid hslack hmin hflags hquota hfinj hfit htag⟩
  · exact fun c t => destroyContext_succeeds
  · exact fun c => map_succeeds
  · exact fun c ls t => unmap_succeeds
  · exact fun c xs => loadCode_succeeds
  · exact fun c x i => createQueueObject_succeeds
  · exact fun q => destroyQueueObject_succeeds
  · exact readEnumerationTable_succeeds
  · intro h deliver
    exact ⟨fun hscope htag => readCounters_succeeds h (countersEffect_part hscope htag),
      fun hscope htag => readCounters_succeeds h (countersEffect_log hscope htag),
      fun c hscope hc => readCounters_succeeds h (countersEffect_context hscope hc)⟩
  · exact setPowerCap_succeeds
  · exact setAgeingBlock_succeeds
  · exact configureParityGroup_succeeds
  · exact configureParityGroup_clashes
  · exact fun c cg ps tabs h t => restore_succeeds
  · exact attest_succeeds
  · exact fun c => bindWindow_succeeds
  · intro s fn opc i cmd r hcmd hnext hcode hok hfree s2
    refine ⟨fun hneg hexempt => ?_, fun hneg hfn hopc => ?_⟩
    · have hg : s.cmdGate fn opc = 6 := cmdGate_early hneg (by
        obtain ⟨rfl, -⟩ | ⟨rfl, -⟩ | ⟨rfl, -⟩ | ⟨rfl, -⟩ | ⟨rfl, -⟩ | ⟨rfl, -⟩ | ⟨rfl, -⟩ := hcmd <;> revert hexempt <;> decide)
      rw [exec_gated hcmd hnext hcode hok hfree (by rw [hg]; decide), hg]
    · have hg : s.cmdGate fn opc = 3 := cmdGate_physical hneg hfn hopc
      rw [exec_gated hcmd hnext hcode hok hfree (by rw [hg]; decide), hg]
  · exact fun s c code bits p => ⟨mapOne_fresh, mapOne_kept, read_setPage s p.2 (pageBytes code)⟩

end Sys2Proof.Proofs.HostCommands
end

section
/-! PROOFS. memory and the vats in canonical form: what holds of a construction when it holds of its parts (O60) -/


namespace Sys2Proof.Proofs.Canonical
open Sys2Proof Sys2Proof.Machine Sys2Proof.Claims
open Sys2Proof.Proofs.Yield (Yields Yields.ok Yields.fault Yields.stall Yields.bind Yields.map Yields.mono Yields.ite OfBytes Beyond)

/-! ## The invariant as a rule of each construction -/

/-- What is found, if anything, has the property. -/
def Found {α : Type} (Q : α → Prop) (o : Option α) : Prop := ∀ a, o = some a → Q a

/-- A row that goes on leaves a state with the property. -/
def GoesOn (P : State → Prop) (o : Host.Outcome State Fault Refusal) : Prop := ∀ t, o = .next t → P t

section
variable {α β : Type} {Q : α → Prop} {R : β → Prop}

theorem Found.none : Found Q none := fun _ h => nomatch h

theorem Found.some {a : α} (h : Q a) : Found Q (some a) := fun _ ha => Option.some.inj ha ▸ h

theorem Found.map {o : Option α} {f : α → β} (h : Found Q o) (hf : ∀ a, Q a → R (f a)) : Found R (o.map f) := by
  intro b hb
  obtain ⟨a, ha, rfl⟩ := Option.map_eq_some_iff.mp hb
  exact hf a (h a ha)

theorem Found.bind {o : Option α} {f : α → Option β} (h : Found Q o) (hf : ∀ a, Q a → Found R (f a)) : Found R (o.bind f) := by
  intro b hb
  obtain ⟨a, ha, hab⟩ := Option.bind_eq_some_iff.mp hb
  exact hf a (h a ha) b hab

theorem Found.ite {p : Prop} [Decidable p] {a b : Option α} (ha : p → Found Q a) (hb : ¬ p → Found Q b) : Found Q (if p then a else b) := by
  split
  · exact ha ‹_›
  · exact hb ‹_›

end

theorem happens_keeps {P : State → Prop} {s : State} {o : Option State} (hP : Beyond P) (hs : P s) (ho : Found P o) :
    GoesOn P (happens s o) := by
  unfold happens
  split
  next t =>
    rintro _ ⟨⟩
    exact hP t t.retry ⟨_, t.cores, rfl⟩ (ho t rfl)
  next =>
    rintro _ ⟨⟩
    exact hs

section
variable {s t : State}

/-- The invariant is of memory and the vats alone: an update of anything else keeps it. -/
theorem memWf_ofBytes : OfBytes State.memWf := by
  rintro s t hmem hvat ⟨hm, hv⟩
  exact ⟨hmem ▸ hm, hvat ▸ hv⟩

theorem memWf_gangsOnly (hg : gangsOnly s t) (h : s.memWf) : t.memWf := memWf_ofBytes.beyond s t hg h

theorem memWf_ite {p : Prop} [Decidable p] (hs : s.memWf) (ht : t.memWf) : (if p then s else t).memWf := by
  split
  · exact hs
  · exact ht

/-- A fold of steps that keep the invariant keeps it. -/
theorem foldl_keeps {α : Type} {f : State → α → State} (h : s.memWf) (hf : ∀ t x, t.memWf → (f t x).memWf) {xs : List α} :
    (xs.foldl f s).memWf := by
  induction xs generalizing s with
  | nil => exact h
  | cons x xs ih => exact ih (hf s x h)

theorem found_keeps {o : Option State} (e : o = some t) (h : Found State.memWf o) : t.memWf := h t e

theorem ok_keeps {α : Type} {P : State → Prop} {Q : α → Prop} {r : Except Stop α} {a : α} (e : r = .ok a) (h : Yields P Q r) : Q a := by
  rw [e] at h
  exact h

theorem memWf_mk (hm : s.mem.wf = true) (hv : s.vat.wf = true) : s.memWf := ⟨hm, hv⟩

theorem memWf_mem {m : Memory} (hm : m.wf = true) (hs : s.memWf) : State.memWf { s with mem := m } := ⟨hm, hs.2⟩

end

end Sys2Proof.Proofs.Canonical
end

section
/-! PROOFS. the operations of the state keep memory and the vats in canonical form (O60) -/


namespace Sys2Proof.Proofs.Canonical
open Sys2Proof Sys2Proof.Machine Sys2Proof.Claims
open Sys2Proof.Proofs.Yield (Yields Yields.ok Yields.fault Yields.stall Yields.bind Yields.map Yields.mono Yields.ite OfBytes Beyond)

/-! ## Checks -/

/-- A check passes, or stops in a state with the invariant. -/
def Passes {α : Type} (r : Except Stop α) : Prop := Yields State.memWf (fun _ => True) r

theorem Passes.ok {α : Type} {a : α} : Passes (.ok a : Except Stop α) := trivial

theorem Passes.fault {α : Type} {cause sub : Nat} {lanes : LaneMask} {addr : Option Word} {kind : Nat} :
    Passes (.error (Machine.fault cause sub lanes addr kind) : Except Stop α) := Yields.fault

theorem Passes.stall {α : Type} {w : Stall} : Passes (.error (.stall w) : Except Stop α) := trivial

theorem Passes.ite {α : Type} {p : Prop} [Decidable p] {a b : Except Stop α} (ha : Passes a) (hb : Passes b) : Passes (if p then a else b) :=
  Yields.ite (fun _ => ha) fun _ => hb

theorem Passes.bind {α β : Type} {r : Except Stop α} {f : α → Except Stop β} (h : Passes r) (hf : ∀ a, Passes (f a)) : Passes (r >>= f) :=
  Yields.bind h fun a _ => hf a

theorem Passes.map {α β : Type} {r : Except Stop α} {f : α → β} (h : Passes r) : Passes (r.map f) := Yields.map h fun _ _ => trivial

theorem stashRange_passes {c : Iss} {d : SReg} {align : Nat} {drops : Bool} : Passes (stashRange c d align drops) :=
  .ite .fault (.ite .fault (.ite .fault (.ite .stall .ok)))

theorem syncCheck_passes {c : Iss} {a : Word} {v : Bool} : Passes (syncCheck c a v) := .ite .fault (.ite .fault (.ite .fault .ok))

theorem syncReady_passes {c : Iss} {a : Word} : Passes (syncReady c a) := .ite .stall .ok

theorem checkSync_passes {c : Iss} {sw : Option SReg} : Passes (checkSync c sw) := by
  cases sw with
  | none => exact .ok
  | some r => exact syncCheck_passes

theorem placeCheck_passes {c : Iss} {a n : Nat} : Passes (placeCheck c a n) := .ite .ok .fault

theorem checkRegion_passes {c : Iss} {w : Word} {dst : Bool} {own : Region → Bool} : Passes (checkRegion c w dst own) :=
  .ite .fault (placeCheck_passes.bind fun _ => .ok)

theorem stashGuard_passes {c : Iss} {a n : Nat} {write : Bool} : Passes (stashGuard c a n write) := by
  unfold stashGuard
  dsimp only
  split
  · exact .ok
  · exact .ite .fault .fault

theorem sideRegion_passes {c : Iss} {isVat : Bool} {w : Word} {dst : Bool} : Passes (sideRegion c isVat w dst) :=
  .ite checkRegion_passes.map .ok

theorem fitsExtent_passes {c : Iss} {r : Option Region} {n : Nat} : Passes (fitsExtent c r n) := by
  cases r with
  | none => exact .ok
  | some x => exact .ite .fault .ok

theorem holdsEngine_passes {c : Iss} {e : Nat} : Passes (holdsEngine c e) := .ite .ok .fault

theorem collective_passes {c : Iss} : Passes (collective c) := .ite .ok .fault

theorem reserved_passes {c : Iss} : Passes (reserved c) := by
  unfold reserved
  split
  · exact .fault
  · exact .ite .fault .ok

theorem unitsOk_passes {c : Iss} {r : Reservation} {nm nk : Nat} : Passes (unitsOk c r nm nk) := .ite .fault .ok

theorem pressRegion_passes {c : Iss} {r : SReg} {esz need : Nat} {dst : Bool} : Passes (pressRegion c r esz need dst) :=
  .ite .fault (.ite .fault (.ite .fault (.ite .fault stashGuard_passes.map)))

theorem checkQueue_passes {c : Iss} {h : Hdr} {kind : Option Nat} : Passes (checkQueue c h kind) := by
  refine .ite .fault (.ite .fault ?_)
  cases kind with
  | none => exact .ok
  | some k => exact .ite .ok .fault

theorem checkWork_passes {c : Iss} {h : Hdr} : Passes (checkWork c h) := .ite .fault (.ite .fault (.ite .fault .ok))

theorem recordRegion_passes {c : Iss} {r : SReg} : Passes (recordRegion c r) := by
  have h := pressRegion_passes (c := c) (r := r) (esz := 0) (need := 64) (dst := false)
  unfold recordRegion
  split
  · exact .ok
  · exact .ite trivial .fault
  · exact .fault
  next he => rw [he] at h; exact h

theorem checkTarget_passes {c : Iss} {j : InjWord} {a : Word} : Passes (checkTarget c j a) := by
  unfold checkTarget
  split
  · exact .ite .fault (.ite .ok .fault)
  · exact .ite .fault (.ite .ok .fault)
  · refine .ite .fault ?_
    split
    · exact .fault
    · exact .ok
  · split
    · exact .ite .ok .fault
    · exact .fault

/-- A failed access stops behind the walks it has entered. -/
theorem xlatFault_keeps {c : Iss} {vas : List Word} {e : Word × AccKind × Nat × Nat} (hc : c.s.memWf) :
    Yield.Stop.Keeps State.memWf (xlatFault c vas e) := Yield.walkStop_keeps memWf_ofBytes hc _ _

theorem objectAt_passes {c : Iss} {a : Word} {align : Nat} (hc : c.s.memWf) : Passes (objectAt c a align) := by
  refine .ite .fault ?_
  split
  · exact Yield.walkStop_keeps memWf_ofBytes hc _ _
  · exact .ok

theorem xlatRange_passes {c : Iss} {k : AccKind} {va : Word} {n : Nat} (hc : c.s.memWf) : Passes (xlatRange c k va n) := by
  unfold xlatRange
  dsimp only
  split
  · exact xlatFault_keeps hc
  · exact .ok

theorem sidePages_passes {c : Iss} {r : Option Region} {va : Word} {n : Nat} {k : AccKind} (hc : c.s.memWf) : Passes (sidePages c r va n k) := by
  cases r with
  | none => exact xlatRange_passes hc
  | some x => exact stashGuard_passes.map

theorem listXlat_passes {c : Iss} {k : AccKind} {own : Xlat → Option (Nat × Nat)} {vas : List Word} (hc : c.s.memWf) :
    Passes (listXlat c k own vas) := by
  unfold listXlat
  split
  · exact xlatFault_keeps hc
  · exact .ok

theorem tileCheck_passes {c : Iss} {d : TReg} {n : Nat} {a b : SReg} {sw : Option SReg} {k : AccKind} (hc : c.s.memWf) :
    Passes (tileCheck c d n a b sw k) := by
  refine Passes.ite .fault ?_
  cases sw with
  | none =>
    refine Passes.ite .fault ?_
    split
    · exact xlatFault_keeps hc
    · exact .ok
  | some r =>
    refine Passes.bind syncCheck_passes fun _ => .ite .fault ?_
    split
    · exact xlatFault_keeps hc
    · exact .ok

/-! ## The operations of Cells -/

theorem modGang_keeps {s : State} {id : Nat} {h : Gang → Gang} (hs : s.memWf) :
    (State.modGang s id h).memWf := hs

theorem modGroup_keeps {s : State} {gang slot : Nat} {h : Group → Group} (hs : s.memWf) :
    (State.modGroup s gang slot h).memWf := hs

theorem modSplit_keeps {s : State} {f : Focus} {h : Split → Split} (hs : s.memWf) :
    (State.modSplit s f h).memWf := memWf_gangsOnly (modSplit_gangsOnly s f h) hs

theorem modCore_keeps {s : State} {c : Nat} {h : CoreRec → CoreRec} (hs : s.memWf) :
    (State.modCore s c h).memWf := hs

theorem modPress_keeps {s : State} {p : Nat} {h : Press → Press} (hs : s.memWf) :
    (State.modPress s p h).memWf := hs

theorem modDie_keeps {s : State} {d : Nat} {h : DieRec → DieRec} (hs : s.memWf) :
    (State.modDie s d h).memWf := by
  unfold State.modDie
  split
  · exact hs
  · exact hs

theorem modCtx_keeps {s : State} {tag : Nat} {h : Context → Context} (hs : s.memWf) :
    (State.modCtx s tag h).memWf := hs

theorem vatWrite_keeps {s : State} {core a : Nat} {b : Byte} (hs : s.memWf) :
    (State.vatWrite s core a b).memWf := memWf_ite hs (memWf_mk hs.1 (Memory.write_wf hs.2 _ _))

theorem vatWriteBytes_keeps {s : State} {core a : Nat} {bs : List Byte} (hs : s.memWf) :
    (State.vatWriteBytes s core a bs).memWf := by
  induction bs generalizing s a with
  | nil => exact hs
  | cons b bs ih => exact ih (vatWrite_keeps hs)

theorem vatWriteLE_keeps {s : State} {core a n v : Nat} (hs : s.memWf) :
    (State.vatWriteLE s core a n v).memWf := vatWriteBytes_keeps hs

theorem drawBytes_keeps {s : State} {n : Nat} (hs : s.memWf) :
    (State.drawBytes s n).1.memWf := hs

/-! ## The operations of Lines -/

theorem setStashLine_keeps {s : State} {core vat i : Nat} {st : Option Bool} (hs : s.memWf) :
    (State.setStashLine s core vat i st).memWf := hs

theorem putByte_keeps {s : State} {w : ByteWrite} (hs : s.memWf) :
    (State.putByte s w).memWf := memWf_mk (Memory.write_wf hs.1 _ _) hs.2

theorem rawWrite_keeps {s : State} {ws : List ByteWrite} (hs : s.memWf) :
    (State.rawWrite s ws).memWf := foldl_keeps hs fun _ _ ht => putByte_keeps ht

theorem durPend_keeps {s : State} {gang : Nat} {dur : Bool} (hs : s.memWf) :
    (State.durPend s gang dur).memWf := memWf_ite (modGang_keeps hs) hs

theorem mergePartial_keeps {s : State} {p : Partial} (hs : s.memWf) :
    (State.mergePartial s p).memWf := rawWrite_keeps hs

theorem mergeLine_keeps {s : State} {line : Nat} (hs : s.memWf) :
    (State.mergeLine s line).memWf := by
  unfold State.mergeLine
  refine memWf_ite hs (foldl_keeps ?_ fun _ _ ht => mergePartial_keeps ht)
  exact hs

theorem writeBack_keeps {s : State} {core : Nat} {u : StashUnit} {i : Nat} (hs : s.memWf) :
    (State.writeBack s core u i).memWf := by
  have h1 : (((s.mergeLine ((u.phys + 128 * i) / 128)).rawWrite ((enumFrom 0 (s.vatReadBytes core (u.vat + 128 * i) 128)).map
      (fun b => ({ addr := u.phys + 128 * i + b.1, val := b.2, dur := u.dur } : ByteWrite)))).durPend u.gang u.dur).memWf :=
    durPend_keeps (rawWrite_keeps (mergeLine_keeps hs))
  unfold State.writeBack
  exact memWf_ite hs (memWf_ite h1 h1)

theorem snoopCore_keeps {s : State} {line : Nat} {write : Bool} {core : Nat} (hs : s.memWf) :
    (State.snoopCore s line write core).memWf := by
  refine foldl_keeps hs fun t u ht => ?_
  have h1 := memWf_ite (p := (u.1.lines.any (fun x => x.1 == u.2 && x.2)) = true) (writeBack_keeps ht (core := core) (u := u.1) (i := u.2)) ht
  exact memWf_ite (setStashLine_keeps h1) (memWf_ite (setStashLine_keeps h1) h1)

theorem reach_keeps {s : State} {line : Nat} {write : Bool} (hs : s.memWf) :
    (State.reach s line write).memWf := foldl_keeps (mergeLine_keeps hs) fun _ _ ht => snoopCore_keeps ht

theorem reachAll_keeps {s : State} {lines : List Nat} {write : Bool} (hs : s.memWf) :
    (State.reachAll s lines write).memWf := foldl_keeps hs fun _ _ ht => reach_keeps ht

theorem writePhys_keeps {s : State} {gang : Nat} {ws : List ByteWrite} (hs : s.memWf) :
    (State.writePhys s gang ws).memWf := durPend_keeps (rawWrite_keeps (reachAll_keeps hs))

theorem writeVat_keeps {s : State} {core a : Nat} {bs : List Byte} (hs : s.memWf) :
    (State.writeVat s core a bs).memWf := vatWriteBytes_keeps (bs := bs) hs

theorem poisonVat_keeps {s : State} {core a : Nat} (hs : s.memWf) :
    (State.poisonVat s core a).memWf := memWf_ite hs hs

theorem poisonHalf_keeps {s : State} {h : Nat} (hs : s.memWf) :
    (State.poisonHalf s h).memWf := memWf_ite hs hs

theorem poisonFor_keeps {s : State} {tag h : Nat} (hs : s.memWf) :
    (State.poisonFor s tag h).memWf := memWf_ite hs hs

/-! ## The operations of Ops -/

theorem setLane_keeps {s : State} {gang slot r l : Nat} {v : W32} (hs : s.memWf) :
    (State.setLane s gang slot r l v).memWf := by
  unfold State.setLane
  split
  · exact hs
  · exact vatWriteLE_keeps hs

theorem writeU_keeps {s : State} {f : Focus} {e : UEntry} (hs : s.memWf) :
    (State.writeU s f e).memWf := memWf_gangsOnly (writeU_gangsOnly s f e) hs

theorem changeUp_keeps {s : State} {f : Focus} {r : Fin 4} {v : Bool} (hs : s.memWf) :
    (State.changeUp s f r v).memWf := by
  unfold State.changeUp
  split
  · exact memWf_ite hs (writeU_keeps hs)
  · exact hs

theorem retry_keeps {s : State} (hs : s.memWf) :
    (State.retry s).memWf := hs

theorem raiseTrap_keeps {s : State} {f : Focus} {len : Nat} {execm : LaneMask} {t : TrapInfo} (hs : s.memWf) :
    (raiseTrap s f len execm t).memWf := memWf_gangsOnly (raiseTrap_gangsOnly s f len execm t) hs

theorem writeFrame_keeps {s : State} {g : Gang} {h : Halt} (hs : s.memWf) :
    (State.writeFrame s g h).memWf := memWf_mk (Memory.writeBytes_wf hs.1 _ _) hs.2

theorem deliverToHandler_keeps {s : State} {id : Nat} {given : Option (List Word)} (hs : s.memWf) :
    (deliverToHandler s id given).memWf := by
  unfold deliverToHandler
  split
  · exact hs
  · split
    · exact hs
    · split
      · exact hs
      · exact modGroup_keeps (modGang_keeps (memWf_ite hs (writeFrame_keeps hs)))

theorem resumeFromHandler_keeps {s : State} {id : Nat} {skip : Bool} {fr : List Byte} (hs : s.memWf) :
    (resumeFromHandler s id skip fr).memWf := by
  unfold resumeFromHandler
  split
  · exact hs
  · split
    · exact hs
    · split
      · exact hs
      · exact modGroup_keeps (foldl_keeps (foldl_keeps (foldl_keeps (modSplit_keeps (modGang_keeps hs))
          fun _ _ ht => foldl_keeps ht fun _ _ hu => setLane_keeps hu) fun _ _ ht => writeU_keeps ht) fun _ _ ht => changeUp_keeps ht)

/-! ## The operations of Translate -/

theorem victim_keeps {s : State} {cap : Nat} {xs : List (Nat × Nat)} (hs : s.memWf) :
    (State.victim s cap xs).1.memWf := by
  unfold State.victim
  split
  · exact drawBytes_keeps hs
  · exact hs

theorem fillCoreTlb_keeps {s : State} {core : Nat} {key : Nat × Nat} (hs : s.memWf) :
    (State.fillCoreTlb s core key).memWf := modCore_keeps (victim_keeps hs)

theorem fillDieTlb_keeps {s : State} {die : Nat} {key : Nat × Nat} (hs : s.memWf) :
    (State.fillDieTlb s die key).memWf := modDie_keeps (victim_keeps hs)

/-! ## The operations of Splits -/

theorem park_keeps {s : State} {f : Focus} {w : Wait} (hs : s.memWf) :
    (State.park s f w).memWf := memWf_ite (modSplit_keeps hs) (modGroup_keeps hs)

theorem mergeAt_keeps {s : State} {gang slot i : Nat} {is : List Nat} {st : Status} (hs : s.memWf) :
    (State.mergeAt s gang slot i is st).memWf := by
  unfold State.mergeAt
  split
  · exact modCore_keeps (modGroup_keeps hs)
  · exact hs

theorem deadlockCheck_keeps {s : State} {gang slot : Nat} (hs : s.memWf) :
    (State.deadlockCheck s gang slot).memWf := memWf_gangsOnly (Yield.deadlockCheck_gangsOnly s gang slot) hs

theorem deadlockAll_keeps {s : State} {gang : Nat} (hs : s.memWf) :
    (State.deadlockAll s gang).memWf := by
  unfold State.deadlockAll
  split
  · exact hs
  · exact foldl_keeps hs fun _ _ ht => deadlockCheck_keeps ht

/-! ## The operations of Owners -/

theorem setStream_keeps {s : State} {core e : Nat} {st : Stream} (hs : s.memWf) :
    (setStream s core e st).memWf := by
  unfold setStream
  split
  · exact modCore_keeps hs
  · exact hs

theorem putStream_keeps {s : State} {g : Gang} {e : Nat} {v : Stream} (hs : s.memWf) :
    (State.putStream s g e v).memWf := setStream_keeps hs

/-! ## The operations of Operands -/

theorem popCarry_keeps {x : Iss} {s : State} {k : Fin 8} (hs : s.memWf) :
    Yields State.memWf (fun y => y.1.memWf) (popCarry x s k) := Yield.popCarry_keeps memWf_ofBytes.beyond hs k

theorem reserveCarry_keeps {x : Iss} {s : State} {k : Fin 8} (hs : s.memWf) :
    Yields State.memWf (fun y => y.1.memWf) (reserveCarry x s k) := Yield.reserveCarry_keeps memWf_ofBytes.beyond hs k

theorem fillCarry_keeps {s : State} {gang slot : Nat} {k : Fin 8} {place : Nat} {vals : List (Nat × W32)} (hs : s.memWf) :
    (fillCarry s gang slot k place vals).memWf := by
  unfold fillCarry
  split
  · exact hs
  · split
    · exact hs
    · exact modGroup_keeps (foldl_keeps hs fun _ _ ht => setLane_keeps ht)

theorem setPort_keeps {s : State} {gang slot q : Nat} {p : Option Port} (hs : s.memWf) :
    (setPort s gang slot q p).memWf := memWf_gangsOnly (Yield.gangsOnly_setPort s gang slot q p) hs

theorem popPort_keeps {x : Iss} {s : State} {q : Nat} (hs : s.memWf) :
    Yields State.memWf (fun y => y.1.memWf) (popPort x s q) := Yield.popPort_keeps memWf_ofBytes.beyond hs q

theorem pushPort_keeps {x : Iss} {s : State} {q : Nat} {vals : Nat → W32} (hs : s.memWf) :
    Yields State.memWf State.memWf (pushPort x s q vals) := by
  unfold pushPort
  split
  · exact .stall
  · refine .ite (fun _ => .fault) fun _ => .ite (fun _ => .ite (fun _ => .stall) fun _ => .fault) fun _ => .ite (fun _ => .stall) fun _ => ?_
    exact .ite (fun _ => .ok (setPort_keeps (writeVat_keeps hs))) fun _ => .ok (putStream_keeps (setPort_keeps (writeVat_keeps hs)))

theorem takeV_keeps {x : Iss} {s : State} {r : VOp} (hs : s.memWf) :
    Yields State.memWf (fun y => y.1.memWf) (takeV x s r) := Yield.takeV_keeps memWf_ofBytes.beyond hs r

theorem takeTy_keeps {x : Iss} {s : State} {wide : Bool} {r : VOp} (hs : s.memWf) :
    Yields State.memWf (fun y => y.1.memWf) (takeTy x s wide r) := Yield.takeTy_keeps memWf_ofBytes.beyond hs wide r

theorem takeSrc_keeps {x : Iss} {s : State} {wide : Bool} {b : VSrc} (hs : s.memWf) :
    Yields State.memWf (fun y => y.1.memWf) (takeSrc x s wide b) := Yield.takeSrc_keeps memWf_ofBytes.beyond hs wide b

theorem dropFlips_keeps {s : State} {gang : Nat} {is : List Injection} (hs : s.memWf) :
    (dropFlips s gang is).memWf := memWf_ite hs (modGang_keeps hs)

theorem countResolved_keeps {s : State} {core : Nat} {n : Nat} (hs : s.memWf) :
    (countResolved s core n).memWf := by
  induction n generalizing s with
  | zero => exact hs
  | succ n ih => exact ih (modCore_keeps hs)

theorem storeV_keeps {x : Iss} {s : State} {d : VOp} {wide : Bool} {exec : LaneMask} {v : Nat → Word} (hs : s.memWf) :
    Yields State.memWf State.memWf (storeV x s d wide exec v) := by
  cases d with
  | k k => exact (reserveCarry_keeps hs).bind fun y hy => .ok (fillCarry_keeps hy)
  | v n =>
    refine .ite (fun _ => pushPort_keeps hs) fun _ => .ok (foldl_keeps hs fun t l ht => ?_)
    exact memWf_ite (setLane_keeps (setLane_keeps ht)) (setLane_keeps ht)

theorem enterReplay_keeps {x : Iss} {s : State} {load : PendLoad} {port pred : Option Nat} {wrong : Nat} (hs : s.memWf) :
    (enterReplay x s load port pred wrong).memWf := hs

theorem holdV_keeps {x : Iss} {s : State} {d : VOp} {wide : Bool} {exec : LaneMask} {v : Nat → Word} (hs : s.memWf) :
    Yields State.memWf (fun y => y.1.memWf) (holdV x s d wide exec v) := by
  cases d with
  | k k => exact (reserveCarry_keeps hs).bind fun _ h1 => .ok h1
  | v n => exact .ite (fun _ => (pushPort_keeps hs).bind fun _ _ => .ok hs) fun _ => .ok hs

theorem deliverV_keeps {x : Iss} {s : State} {d : VOp} {wide : Bool} {exec : LaneMask} {v : Nat → Word} (hs : s.memWf) :
    Yields State.memWf State.memWf (deliverV x s d wide exec v) := by
  have h1 : ∀ is n, (countResolved (dropFlips s x.f.gang is) x.gang.core n).memWf := fun is n => countResolved_keeps (dropFlips_keeps hs)
  unfold deliverV
  refine .ite (fun _ => .ite (fun _ => .stall) fun _ => ?_) fun _ => storeV_keeps (h1 _ _)
  exact (holdV_keeps (h1 _ _)).bind fun y hy => .ok (enterReplay_keeps hy)

theorem deliverS_keeps {x : Iss} {s : State} {r : SReg} {v : Word} (hs : s.memWf) :
    (deliverS x s r v).memWf := memWf_ite (writeU_keeps (dropFlips_keeps hs)) (writeU_keeps (countResolved_keeps (dropFlips_keeps hs)))

theorem modPair_keeps {s : State} {gang : Nat} {h : Pair → Pair} (hs : s.memWf) :
    (State.modPair s gang h).memWf := hs

theorem forward_keeps {s : State} {other key : Nat} {vals : List Word} (hs : s.memWf) :
    (State.forward s other key vals).memWf := hs

theorem advance_keeps {s : State} {f : Focus} {len : Nat} (hs : s.memWf) :
    (advance s f len).memWf := modSplit_keeps hs

theorem countIssue_keeps {s : State} {f : Focus} (hs : s.memWf) :
    (countIssue s f).memWf := hs

/-! ## The operations of Ezden -/

theorem allocTable_keeps {s : State} {size : Nat} (hs : s.memWf) :
    (State.allocTable s size).1.memWf := hs

theorem writeEntry_keeps {s : State} {a v : Nat} (hs : s.memWf) :
    (State.writeEntry s a v).memWf := memWf_mk (Memory.writeLE_wf hs.1 _ _ _) hs.2

theorem own_keeps {x : Iss} {good : Bool} {body : Except Stop State} (hb : Yields State.memWf State.memWf body) :
    Yields State.memWf State.memWf (own x good body) := .ite (fun _ => hb) fun _ => .fault

theorem mapFrom_keeps {s : State} {va target leaf : Nat} {fuel : Nat} {level : Nat} {base : Nat} (hs : s.memWf) :
    (State.mapFrom s va target leaf fuel level base).memWf := by
  induction fuel generalizing s level base with
  | zero => exact hs
  | succ fuel ih =>
    exact memWf_ite (writeEntry_keeps hs) (memWf_ite (ih hs) (ih (writeEntry_keeps (allocTable_keeps hs))))

theorem mapPage_keeps {s : State} {root va frame code bits9_2 owner : Nat} (hs : s.memWf) :
    (State.mapPage s root va frame code bits9_2 owner).memWf := mapFrom_keeps hs

theorem dropLeaf_keeps {s : State} {ctx root va : Nat} (hs : s.memWf) :
    (State.dropLeaf s ctx root va).memWf := by
  unfold State.dropLeaf
  split
  · exact hs
  · exact writeEntry_keeps (s := s) hs

theorem mapOwn_keeps {s : State} {tag va pa : Nat} {n : Nat} (hs : s.memWf) :
    (State.mapOwn s tag va pa n).memWf := by
  induction n generalizing s va pa with
  | zero => exact hs
  | succ n ih =>
    unfold State.mapOwn
    split
    · exact hs
    · exact ih (mapPage_keeps hs)

theorem unmapOwn_keeps {s : State} {tag va : Nat} {n : Nat} (hs : s.memWf) :
    (State.unmapOwn s tag va n).memWf := by
  induction n generalizing s va with
  | zero => exact hs
  | succ n ih =>
    unfold State.unmapOwn
    split
    · exact hs
    · exact ih (dropLeaf_keeps hs)

theorem appendEvent_keeps {s : State} {tag : Nat} {entry : List Byte} (hs : s.memWf) :
    (State.appendEvent s tag entry).memWf := hs

/-! ## The operations of Launch -/

theorem startGang_keeps {s : State} {core base : Nat} {t : TaskRec} {pair : Option Pair} (hs : s.memWf) :
    (State.startGang s core base t pair).memWf := by
  unfold State.startGang
  lift_lets
  intro id chkmin g0 frame placed g1 s1 spill s2 s3
  have h1 : s1.memWf := hs
  have h2 : s2.memWf := modGang_keeps h1
  have h3 : s3.memWf := mapOwn_keeps (mapOwn_keeps h2)
  exact memWf_mk h3.1 (Memory.clear_wf h3.2 _ _)

theorem addContext_keeps {s : State} {mk : Nat → Context} (hs : s.memWf) :
    (State.addContext s mk).memWf := hs

/-! ## The operations of Access -/

theorem stashFill_keeps {s : State} {core : Nat} {u : StashUnit} {i : Nat} {write : Bool} (hs : s.memWf) :
    (State.stashFill s core u i write).memWf := by
  have h0 := memWf_ite (p := u.coh = true) (reach_keeps hs (line := (u.phys + 128 * i) / 128) (write := write))
    (mergeLine_keeps hs (line := (u.phys + 128 * i) / 128))
  exact setStashLine_keeps (memWf_ite (poisonVat_keeps (writeVat_keeps h0)) (writeVat_keeps h0))

theorem stashRead_keeps {s : State} {core a : Nat} (hs : s.memWf) :
    (State.stashRead s core a).memWf := by
  unfold State.stashRead
  split
  · exact hs
  · exact memWf_ite hs (stashFill_keeps hs)

theorem stashWrite_keeps {s : State} {core a : Nat} {bs : List Byte} (hs : s.memWf) :
    (State.stashWrite s core a bs).memWf := by
  unfold State.stashWrite
  split
  · exact writeVat_keeps hs
  · refine setStashLine_keeps (writeVat_keeps (memWf_ite (memWf_ite ?_ hs) (memWf_ite (memWf_ite (reach_keeps hs) hs) (stashFill_keeps hs))))
    exact foldl_keeps (mergeLine_keeps hs) fun t c ht => memWf_ite ht (snoopCore_keeps ht)

theorem arriveUpdate_keeps {s : State} {gang die : Nat} {u : Update} (hs : s.memWf) :
    (State.arriveUpdate s gang die u).memWf := by
  have hmark : ∀ t : State, t.memWf →
      (if u.bad then t.poisonFor (((s.gang? gang).map (fun g => g.ctx)).getD 0) (u.addr / 64) else t).memWf :=
    fun t ht => memWf_ite (poisonFor_keeps ht) ht
  have h0 : ((List.range s.cores.length).foldl (fun s c => s.snoopCore (u.addr / 128) true c) s).memWf :=
    foldl_keeps hs fun _ _ ht => snoopCore_keeps ht
  unfold State.arriveUpdate
  refine memWf_ite (hmark _ (rawWrite_keeps hs)) (hmark _ (durPend_keeps ?_))
  split
  · exact memWf_ite (mergeLine_keeps h0) h0
  · exact memWf_ite (mergeLine_keeps h0) h0

theorem performOne_keeps {s : State} {gang die : Nat} {p : PendStore} (hs : s.memWf) :
    (State.performOne s gang die p).memWf := by
  cases p with
  | bytes m ws bad => exact memWf_ite hs (foldl_keeps (writePhys_keeps hs) fun _ _ ht => poisonHalf_keeps ht)
  | red m us => exact foldl_keeps hs fun _ _ ht => arriveUpdate_keeps ht
  | flush m ls => exact foldl_keeps hs fun _ _ ht => mergeLine_keeps ht

theorem performFirst_keeps {s : State} {gang slot n : Nat} (hs : s.memWf) :
    Found State.memWf (State.performFirst s gang slot n) := by
  unfold State.performFirst
  split
  · exact .some hs
  · exact .ite (fun _ => .none) fun _ => .some (modGroup_keeps (foldl_keeps hs fun _ _ ht => performOne_keeps ht))

theorem performAll_keeps {s : State} {gang slot : Nat} (hs : s.memWf) :
    Found State.memWf (State.performAll s gang slot) := by
  unfold State.performAll
  split
  · exact .some hs
  · exact performFirst_keeps hs

theorem performFences_keeps {s : State} {gang slot : Nat} (hs : s.memWf) :
    Found State.memWf (State.performFences s gang slot) := by
  unfold State.performFences
  split
  · exact .some hs
  · exact performFirst_keeps hs

theorem performFor_keeps {s : State} {gang slot : Nat} {as : List Nat} (hs : s.memWf) :
    Found State.memWf (State.performFor s gang slot as) := by
  unfold State.performFor
  split
  · exact .some hs
  · dsimp only
    split
    · exact .some hs
    · exact performFirst_keeps hs

/-! ## The operations of VectorInt -/

theorem writePred_keeps {c : Iss} {s : State} {p : PReg} {v : Nat → Bool} (hs : s.memWf) :
    (writePred c s p v).memWf := hs

theorem deliverP_keeps {c : Iss} {s : State} {p : PReg} {v : Nat → Bool} (hs : s.memWf) :
    Yields State.memWf State.memWf (deliverP c s p v) :=
  .ite (fun _ => .ite (fun _ => .stall) fun _ => .ok (enterReplay_keeps (writePred_keeps hs))) fun _ => .ok (writePred_keeps hs)

/-! ## The operations of Lanes -/

theorem voteEffect_keeps {x : VoteI} {c : Iss} {s : State} (hs : s.memWf) :
    Yields State.memWf State.memWf (voteEffect x c s) := by
  unfold voteEffect
  dsimp only
  split
  · exact deliverP_keeps hs
  · exact deliverP_keeps hs
  · exact deliverV_keeps hs

theorem shflEffect_keeps {x : ShflI} {c : Iss} {s : State} (hs : s.memWf) :
    Yields State.memWf State.memWf (shflEffect x c s) :=
  (takeTy_keeps hs).bind fun _ h1 => (takeSrc_keeps h1).bind fun _ h2 => (deliverV_keeps h2).bind fun _ h3 => .ok (writePred_keeps h3)

theorem reduxEffect_keeps {x : ReduxI} {c : Iss} {s : State} (hs : s.memWf) :
    Yields State.memWf State.memWf (reduxEffect x c s) := (takeTy_keeps hs).bind fun _ h1 => deliverV_keeps h1

theorem scanEffect_keeps {x : ScanI} {c : Iss} {s : State} (hs : s.memWf) :
    Yields State.memWf State.memWf (scanEffect x c s) := (takeTy_keeps hs).bind fun _ h1 => deliverV_keeps h1

/-! ## The operations of Pairs -/

theorem logEffect_keeps {s : State} {gang other key : Nat} {sig : W32} {vals : List Word} (hs : s.memWf) :
    (State.logEffect s gang other key sig vals).memWf := hs

theorem pairVat_keeps {c : Iss} {s : State} {sig : List Byte} (hs : s.memWf) :
    Yields State.memWf State.memWf (pairVat c s sig) := Yield.pairVat_keeps memWf_ofBytes.beyond hs sig

theorem recordDeckle_keeps {s : State} {g : Gang} {act : List Word} (hs : s.memWf) :
    (State.recordDeckle s g act).memWf := by
  unfold State.recordDeckle
  split
  · exact hs
  · split
    · exact forward_keeps (modPair_keeps hs)
    · exact modPair_keeps hs

theorem flipValues_keeps {c : Iss} {s : State} {v : Nat → Word} (hs : s.memWf) :
    (flipValues c s v).1.memWf := dropFlips_keeps hs

theorem flipUniform_keeps {c : Iss} {s : State} {v : Word} (hs : s.memWf) :
    (flipUniform c s v).1.memWf := dropFlips_keeps hs

/-! ## The operations of Effects -/

theorem homeWrite_keeps {s : State} {gang ctx : Nat} {va : Word} {bs : List Byte} (hs : s.memWf) :
    (State.homeWrite s gang ctx va bs).memWf := by
  unfold State.homeWrite
  split
  · exact hs
  · exact writePhys_keeps hs

theorem modQueue_keeps {s : State} {a : Nat} {h : QueueObj → QueueObj} (hs : s.memWf) :
    (State.modQueue s a h).memWf := hs

theorem putEnds_keeps {s : State} {gang a head tail : Nat} (hs : s.memWf) :
    (State.putEnds s gang a head tail).memWf := writePhys_keeps hs

theorem bumpHdr_keeps {s : State} {gang a ofs : Nat} (hs : s.memWf) :
    (State.bumpHdr s gang a ofs).memWf := writePhys_keeps hs

theorem storeItem_keeps {s : State} {gang a : Nat} {item : List Byte} (hs : s.memWf) :
    (State.storeItem s gang a item).memWf := putEnds_keeps (memWf_ite (modQueue_keeps hs) (homeWrite_keeps hs))

theorem storeItems_keeps {s : State} {gang a : Nat} {items : List (List Byte)} (hs : s.memWf) :
    (State.storeItems s gang a items).memWf := foldl_keeps hs fun _ _ ht => storeItem_keeps ht

theorem takeItem_keeps {s : State} {gang a : Nat} (hs : s.memWf) :
    (State.takeItem s gang a).1.memWf := by
  unfold State.takeItem
  dsimp only
  split
  · split
    · exact putEnds_keeps (modQueue_keeps hs)
    · exact putEnds_keeps hs
  · exact putEnds_keeps hs

theorem takeItems_keeps {s : State} {gang a : Nat} {n : Nat} (hs : s.memWf) :
    (State.takeItems s gang a n).1.memWf := by
  induction n generalizing s with
  | zero => exact hs
  | succ n ih =>
    unfold State.takeItems
    split
    · exact hs
    · exact ih (takeItem_keeps hs)

theorem link_keeps {s : State} {f : Focus} {obj : Nat} {k : WaitKind} (hs : s.memWf) :
    (State.link s f obj k).memWf := park_keeps (f := f) (w := .object s.nextWaiter) hs

theorem deliverItems_keeps {s : State} {f : Focus} {d : VOp} {p : PReg} {lanes : LaneMask} {vals : List Word} (hs : s.memWf) :
    (State.deliverItems s f d p lanes vals).memWf := by
  refine modGroup_keeps (foldl_keeps hs fun t x ht => ?_)
  cases d with
  | v n => exact setLane_keeps (setLane_keeps ht)
  | k k => exact ht

theorem finishWait_keeps {s : State} {w : Waiter} {vals : List Word} (hs : s.memWf) :
    (State.finishWait s w vals).memWf := by
  refine advance_keeps (modSplit_keeps ?_)
  split
  · dsimp only
    split
    · exact logEffect_keeps hs
    · exact hs
  · exact hs

theorem servePush_keeps {s : State} {a : Nat} {n : Nat} (hs : s.memWf) :
    (State.servePush s a n).memWf := by
  induction n generalizing s with
  | zero => exact hs
  | succ n ih =>
    unfold State.servePush
    split
    · exact hs
    · split
      · exact memWf_ite hs (ih (finishWait_keeps (storeItems_keeps hs)))
      · exact hs

theorem withdraw_keeps {s : State} {gang : Nat} (hs : s.memWf) :
    (State.withdraw s gang).memWf :=
  foldl_keeps (modGang_keeps (s := { s with waiters := s.waiters.filter (fun w => w.gang ≠ gang) }) hs) fun _ _ ht => servePush_keeps ht

theorem tidyWaiters_keeps {s : State} {gang slot : Nat} (hs : s.memWf) :
    (State.tidyWaiters s gang slot).memWf := by
  refine foldl_keeps ?_ fun _ _ ht => servePush_keeps ht
  exact hs

theorem popItems_keeps {s : State} {gang a n : Nat} (hs : s.memWf) :
    (State.popItems s gang a n).1.memWf := servePush_keeps (takeItems_keeps hs)

theorem handOff_keeps {s : State} {gang a : Nat} {n : Nat} {vals : List Word} (hs : s.memWf) :
    (State.handOff s gang a n vals).1.memWf := by
  induction n generalizing s vals with
  | zero => exact hs
  | succ n ih =>
    unfold State.handOff
    split
    · exact hs
    · split
      · exact hs
      · split
        · exact ih (finishWait_keeps (deliverItems_keeps (putEnds_keeps hs)))
        · exact hs

theorem push_keeps {s : State} {gang : Nat} {e : Effect} (hs : s.memWf) :
    Found State.memWf (State.push s gang e) := by
  unfold State.push
  split
  · exact .ite (fun _ => .none) fun _ => .some (storeItems_keeps (handOff_keeps hs))
  · exact .ite (fun _ => .none) fun _ => .some (storeItems_keeps hs)
  · exact .some hs

theorem wlInsert_keeps {s : State} {gang a : Nat} {vals : List Word} (hs : s.memWf) :
    Found State.memWf (State.wlInsert s gang a vals) := .ite (fun _ => .none) fun _ => .some (storeItems_keeps hs)

theorem decrement_keeps {s : State} {gang ctx cell : Nat} {dur : Bool} (hs : s.memWf) :
    (State.decrement s gang ctx cell dur).memWf := by
  have h1 : ∀ ws, ((s.reach (cell / 128) true).writePhys gang ws).memWf := fun ws => writePhys_keeps (reach_keeps hs)
  exact memWf_ite (h1 _) (memWf_ite (memWf_ite (h1 _) (h1 _)) (h1 _))

theorem wakeFuture_keeps {s : State} {cell : Nat} {v : Word} (hs : s.memWf) :
    (State.wakeFuture s cell v).memWf := by
  refine foldl_keeps hs fun t w ht => ?_
  split
  · exact finishWait_keeps (writeU_keeps ht)
  · exact ht

theorem setFuture_keeps {s : State} {gang cell : Nat} {v : Option Word} {dur : Bool} (hs : s.memWf) :
    (State.setFuture s gang cell v dur).memWf := by
  cases v with
  | some x => exact wakeFuture_keeps (writePhys_keeps (reach_keeps hs))
  | none => exact writePhys_keeps (reach_keeps hs)

theorem updateVat_keeps {s : State} {core : Nat} {u : Update} (hs : s.memWf) :
    (State.updateVat s core u).memWf := vatWriteLE_keeps hs

theorem getD_keeps {s : State} {o : Option State} (hs : s.memWf) (ho : Found State.memWf o) : (o.getD s).memWf := by
  cases o with
  | none => exact hs
  | some t => exact ho t rfl

theorem performEffect_keeps {s : State} {gang : Nat} {e : Effect} (hs : s.memWf) :
    Found State.memWf (State.performEffect s gang e) := by
  unfold State.performEffect
  cases e with
  | qpush a vs => exact push_keeps hs
  | tspawn a r => exact push_keeps hs
  | tdone cell dur => exact .some (decrement_keeps hs)
  | wlpush a vals => exact .some (getD_keeps hs (wlInsert_keeps hs))
  | wlins a vals => exact .some (getD_keeps hs (wlInsert_keeps hs))
  | futset cell v dur =>
    cases v with
    | some x => exact .some (memWf_ite hs (setFuture_keeps hs))
    | none => exact .some (memWf_ite hs (setFuture_keeps hs))
  | red us => exact .some (foldl_keeps hs fun _ _ ht => arriveUpdate_keeps ht)
  | redVat us => exact .some (foldl_keeps hs fun _ _ ht => updateVat_keeps ht)

theorem drainEffects_keeps {s : State} {gang : Nat} {n : Nat} (hs : s.memWf) :
    (State.drainEffects s gang n).1.memWf := by
  induction n generalizing s with
  | zero => exact hs
  | succ n ih =>
    unfold State.drainEffects
    split
    · exact hs
    · split
      · exact hs
      · split
        · exact hs
        next t ht => exact ih (modGang_keeps (performEffect_keeps hs t ht))

theorem becomeNR_keeps {c : Iss} {s : State} {removal : Bool} (hc : c.s.memWf) (hs : s.memWf) :
    Yields State.memWf State.memWf (becomeNR c s removal) := by
  unfold becomeNR
  split
  · exact .ok hs
  · refine .ite (fun _ => .ok hs) fun _ => ?_
    dsimp only
    refine .ite (fun _ => .ok (drainEffects_keeps (modGang_keeps hs))) fun _ => ?_
    exact drainEffects_keeps (modGang_keeps hc)

end Sys2Proof.Proofs.Canonical
end

section
/-! PROOFS. the operations of the instructions keep memory and the vats in canonical form (O60) -/


namespace Sys2Proof.Proofs.Canonical
open Sys2Proof Sys2Proof.Machine Sys2Proof.Claims
open Sys2Proof.Proofs.Yield (Yields Yields.ok Yields.fault Yields.stall Yields.bind Yields.map Yields.mono Yields.ite OfBytes Beyond)

/-! ## The operations of MemoryOps -/

theorem doEffect_keeps {c : Iss} {s : State} {e : Effect} {wait : State → State} (hc : c.s.memWf) (hs : s.memWf)
    (hw : ∀ t : State, t.memWf → (wait t).memWf) : Yields State.memWf (fun y => y.1.memWf) (doEffect c s e wait) := by
  unfold doEffect
  split
  · exact .ok hs
  · refine .ite (fun _ => .ok (modGang_keeps hs)) fun _ => ?_
    have h1 := becomeNR_keeps hc hs (removal := false)
    split
    next he => rw [he] at h1; exact h1
    next s1 he =>
      rw [he] at h1
      split
      next t ht => exact .ok (performEffect_keeps h1 t ht)
      next => exact .ok (hw s1 h1)

theorem takeBase_keeps {c : Iss} {s : State} {e : AddrExp} {sp : Bool} (hs : s.memWf) :
    Yields State.memWf (fun y => y.1.memWf) (takeBase c s e sp) := Yield.takeBase_keeps memWf_ofBytes.beyond hs e sp

theorem takeIndex_keeps {c : Iss} {s : State} {e : AddrExp} (hs : s.memWf) :
    Yields State.memWf (fun y => y.1.memWf) (takeIndex c s e) := Yield.takeIndex_keeps memWf_ofBytes.beyond hs e

theorem updateBase_keeps {c : Iss} {s : State} {e : AddrExp} {size : Nat} (hs : s.memWf) :
    (updateBase c s e size).memWf := Yield.updateBase_keeps memWf_ofBytes.beyond hs e size

theorem touch_keeps {c : Iss} {s : State} {vas : List Word} (hs : s.memWf) :
    Yields State.memWf State.memWf (touch c s vas) := Yield.touch_keeps memWf_ofBytes hs vas

theorem reachNow_keeps {c : Iss} {s : State} {write : Bool} {size : Nat} {ps : List Placed} (hs : s.memWf) :
    Yields State.memWf State.memWf (reachNow c s write size ps) := by
  unfold reachNow
  dsimp only
  split
  · exact .stall
  next t ht => exact .ite (fun _ => .stall) fun _ => .ok (reachAll_keeps (performFor_keeps hs t ht))

theorem afterFences_keeps {c : Iss} {s : State} (hs : s.memWf) :
    Yields State.memWf State.memWf (afterFences c s) := by
  unfold afterFences
  split
  · exact .stall
  next t ht => exact .ok (performFences_keeps hs t ht)

theorem fenceStores_keeps {c : Iss} {s : State} {ord : MemOrder} (hs : s.memWf) :
    (fenceStores c s ord).memWf := Yield.fenceStores_keeps memWf_ofBytes.beyond hs ord

theorem releaseAll_keeps {c : Iss} {s : State} {ord : MemOrder} (hs : s.memWf) (ho : ord = .rel ∨ ord = .ar) :
    Yields State.memWf State.memWf (releaseFirst c s ord) := by
  have h1 : Yields State.memWf State.memWf (match s.performAll c.f.gang c.f.group with
      | none => (.error (.stall .busy) : Except Stop State)
      | some s1 => .ok s1) := by
    split
    · exact .stall
    next t ht => exact .ok (performAll_keeps hs t ht)
  obtain rfl | rfl := ho
  · exact h1
  · exact h1

theorem releaseFirst_keeps {c : Iss} {s : State} {ord : MemOrder} (hs : s.memWf) :
    Yields State.memWf State.memWf (releaseFirst c s ord) := by
  cases ord with
  | plain => exact .ok hs
  | acq => exact .ok hs
  | rel => exact releaseAll_keeps hs (.inl rfl)
  | ar => exact releaseAll_keeps hs (.inr rfl)

theorem addLoad_keeps {c : Iss} {s : State} {l : PendLoad} (hs : s.memWf) :
    (addLoad c s l).memWf := hs

theorem finishLoad_keeps {c : Iss} {s : State} {d : VOp} {wide : Bool} {vals : Nat → Word} (hs : s.memWf) :
    Yields State.memWf State.memWf (finishLoad c s d wide vals) := by
  have h0 := flipValues_keeps hs (c := c) (v := vals)
  cases d with
  | k k => exact (reserveCarry_keeps h0).bind fun _ h1 => .ok (addLoad_keeps h1)
  | v n => exact .ite (fun _ => (pushPort_keeps h0).bind fun _ h1 => .ok (addLoad_keeps h1)) fun _ => .ok (addLoad_keeps h0)

theorem finishUniform_keeps {c : Iss} {s : State} {d : SReg} {v : Word} (hs : s.memWf) :
    (finishUniform c s d v).memWf := addLoad_keeps (writeU_keeps (flipUniform_keeps hs (v := v)))

theorem hostLoad_keeps {s : State} {core line : Nat} (hs : s.memWf) :
    (State.hostLoad s core line).1.memWf := by
  unfold State.hostLoad
  dsimp only
  split
  · exact drawBytes_keeps hs
  · exact modCore_keeps (drawBytes_keeps hs)

theorem hostFold_keeps {core : Nat} {ls : List Nat} {x : State × List (Nat × List Byte)} (hx : x.1.memWf) :
    (ls.foldl (fun (x : State × List (Nat × List Byte)) l => ((x.1.hostLoad core l).1, (l, (x.1.hostLoad core l).2) :: x.2)) x).1.memWf :=
  by
  induction ls generalizing x with
  | nil => exact hx
  | cons l ls ih => exact ih (hostLoad_keeps hx)

theorem loadValues_keeps {s : State} {core size : Nat} {ps : List Placed} (hs : s.memWf) :
    (loadValues s core size ps).1.memWf := hostFold_keeps (x := (s, [])) hs

theorem storeVat_keeps {s : State} {core : Nat} {ws : List ByteWrite} (hs : s.memWf) :
    (State.storeVat s core ws).memWf := foldl_keeps hs fun _ _ ht => vatWrite_keeps ht

theorem addStore_keeps {c : Iss} {s : State} {p : PendStore} (hs : s.memWf) :
    (addStore c s p).memWf := hs

theorem loadBody_keeps {c : Iss} {s : State} {e : AddrExp} {spBit : Bool} {size : Nat} {as : List Access}
    {finish : List Placed → List Word → State → Except Stop State} (hc : c.s.memWf) (hs : s.memWf)
    (hf : ∀ ps vals t, t.memWf → Yields State.memWf State.memWf (finish ps vals t)) :
    Yields State.memWf State.memWf (loadBody c s e spBit size as finish) := by
  have hupdate : ∀ t : State, t.memWf → (updateBase c t e size).memWf := fun t ht => updateBase_keeps ht
  refine (Yield.checkAccesses_keeps memWf_ofBytes hc _ as).bind fun ps _ => (Yield.roomFor_keeps _).bind fun _ _ => .ite (fun _ => ?_) fun _ => ?_
  · exact (Yield.readyVat_keeps _ ps).bind fun _ _ => (Yield.consume_keeps _ _ _ _ ps).bind fun _ _ => hf ps _ _ (hupdate s hs)
  · refine (Yield.checkWatch_keeps _ _ as).bind fun _ _ => (touch_keeps hs).bind fun s1 h1 => ?_
    refine Yield.pairLoad_keeps memWf_ofBytes.beyond h1 (fun t ht => ?_) fun vals t ht => hf ps vals _ (hupdate t ht)
    exact (reachNow_keeps ht).bind fun s2 h2 => (Yield.consume_keeps _ _ _ _ ps).bind fun _ _ => .ok (loadValues_keeps h2)

theorem storeBody_keeps {c : Iss} {s : State} {e : AddrExp} {spBit : Bool} {ord : MemOrder} {size : Nat} {mask : LaneMask} {as : List Access}
    {v : Nat → Word} (hc : c.s.memWf) (hs : s.memWf) : Yields State.memWf State.memWf (storeBody c s e spBit ord size mask as v) := by
  have hupdate : ∀ t : State, t.memWf → (updateBase c t e size).memWf := fun t ht => updateBase_keeps ht
  refine (Yield.checkAccesses_keeps memWf_ofBytes hc _ as).bind fun ps _ => (Yield.roomFor_keeps _).bind fun _ _ => .ite (fun _ => ?_) fun _ => ?_
  · refine (Yield.readyVat_keeps _ ps).bind fun _ _ => (afterFences_keeps hs).bind fun s0 h0 => (releaseFirst_keeps h0).bind fun s1 h1 => ?_
    exact (pairVat_keeps h1).bind fun s2 h2 => .ok (addStore_keeps (hupdate _ (storeVat_keeps h2)))
  · refine (Yield.checkWatch_keeps _ _ as).bind fun _ _ => (touch_keeps hs).bind fun s1 h1 => ?_
    exact Yield.pairRun_keeps memWf_ofBytes.beyond hc h1 (fun t ht => .ok (addStore_keeps (fenceStores_keeps ht)))
      fun _ t ht => .ok (hupdate t ht)

theorem atomFold_keeps {gang core : Nat} {sp : Bool} {op : AtomOp} {ty : Ty} {v cmp : Nat → Word} {ps : List Placed} {s : State}
    (hs : s.memWf) : (atomFold gang core sp op ty v cmp ps s).1.memWf := by
  induction ps generalizing s with
  | nil => exact hs
  | cons p ps ih => exact ih (memWf_ite (vatWriteLE_keeps hs) (durPend_keeps (rawWrite_keeps hs)))

theorem atomBody_keeps {c : Iss} {s : State} {e : AddrExp} {spBit : Bool} {op : AtomOp} {ty : Ty} {ord : MemOrder} {mask : LaneMask}
    {as : List Access} {v cmp : Nat → Word} {finish : List Placed → List Word → State → Except Stop State} (hc : c.s.memWf) (hs : s.memWf)
    (hf : ∀ ps vals t, t.memWf → Yields State.memWf State.memWf (finish ps vals t)) :
    Yields State.memWf State.memWf (atomBody c s e spBit op ty ord mask as v cmp finish) := by
  have hupdate : ∀ t : State, t.memWf → (updateBase c t e (accSize ty)).memWf := fun t ht => updateBase_keeps ht
  refine (Yield.checkAccesses_keeps memWf_ofBytes hc _ as).bind fun ps _ => (Yield.roomFor_keeps _).bind fun _ _ => .ite (fun _ => ?_) fun _ => ?_
  · refine (Yield.readyVat_keeps _ ps).bind fun _ _ => (Yield.consume_keeps _ _ _ _ ps).bind fun _ _ => (afterFences_keeps hs).bind fun s0 h0 => ?_
    refine (releaseFirst_keeps h0).bind fun s1 h1 => (becomeNR_keeps hc h1).bind fun s2 h2 => (pairVat_keeps h2).bind fun s3 h3 => ?_
    exact hf ps _ _ (hupdate _ (atomFold_keeps h3))
  · refine (Yield.checkWatch_keeps _ _ as).bind fun _ _ => (touch_keeps hs).bind fun s1 h1 => ?_
    refine Yield.pairRun_keeps memWf_ofBytes.beyond hc h1 (fun t ht => ?_) fun vals t ht => hf ps vals _ (hupdate t ht)
    refine (afterFences_keeps ht).bind fun s1 h1 => (releaseFirst_keeps h1).bind fun s2 h2 => (reachNow_keeps h2).bind fun s3 h3 => ?_
    exact (Yield.consume_keeps _ _ _ _ ps).bind fun _ _ => (becomeNR_keeps hc h3).bind fun s4 h4 => .ok (atomFold_keeps h4)

theorem liftElems_keeps {s : State} {gang : Nat} {ch : Fin 4} (hs : s.memWf) :
    (State.liftElems s gang ch).memWf := hs

theorem layElems_keeps {s : State} {gang : Nat} {ch : Fin 4} (hs : s.memWf) :
    (State.layElems s gang ch).memWf := by
  unfold State.layElems
  split
  · exact hs
  · refine foldl_keeps hs fun t e ht => ?_
    split
    · exact vatWriteLE_keeps ht
    · exact ⟨Memory.writeBytes_wf ht.1 _ _, ht.2⟩

theorem dropHost_keeps {s : State} {scope : Scope} {core : Nat} {lines : List Nat} (hs : s.memWf) :
    (State.dropHost s scope core lines).memWf := hs

theorem makeDurable_keeps {s : State} (hs : s.memWf) :
    (State.makeDurable s).memWf := foldl_keeps hs fun _ _ ht => mergeLine_keeps ht

/-! ## The operations of Deckle -/

theorem writeElem_keeps {s0 : State} {gang : Nat} {ch : Fin 4} (hs0 : s0.memWf) :
    Found State.memWf (State.writeElem s0 gang ch) := by
  unfold State.writeElem
  dsimp only
  split
  · exact .some hs0
  · split
    · exact .some hs0
    · split
      · exact .some (layElems_keeps (modGang_keeps (liftElems_keeps hs0)))
      · exact .ite (fun _ => .none) fun _ => .some (layElems_keeps (modGang_keeps (writePhys_keeps (liftElems_keeps hs0))))

theorem writeElems_keeps {s : State} {gang : Nat} {ch : Fin 4} {n : Nat} (hs : s.memWf) :
    Found State.memWf (State.writeElems s gang ch n) := by
  induction n generalizing s with
  | zero => exact .some hs
  | succ n ih =>
    unfold State.writeElems
    split
    · exact .none
    next t ht => exact ih (writeElem_keeps hs t ht)

/-- A fold of steps that may find nothing. -/
theorem found_foldl {α : Type} {f : Option State → α → Option State} (hf : ∀ o x, Found State.memWf o → Found State.memWf (f o x))
    {o : Option State} (ho : Found State.memWf o) {xs : List α} : Found State.memWf (xs.foldl f o) := by
  induction xs generalizing o with
  | nil => exact ho
  | cons x xs ih => exact ih (hf o x ho)

theorem writeAppends_keeps {s : State} {gang : Nat} (hs : s.memWf) :
    Found State.memWf (State.writeAppends s gang) := by
  refine found_foldl (fun o i ho => ?_) (.some hs)
  split
  · exact .none
  next t => exact writeElems_keeps (ho t rfl)

theorem retireGroup_keeps {s : State} {gang slot : Nat} (hs : s.memWf) :
    (State.retireGroup s gang slot).memWf := by
  unfold State.retireGroup
  split
  · exact modGang_keeps (foldl_keeps hs fun _ _ ht => putStream_keeps ht)
  · exact hs

theorem settleStores_keeps {s : State} {gang slot : Nat} (hs : s.memWf) :
    Found State.memWf (State.settleStores s gang slot) := by
  unfold State.settleStores
  split
  · exact .some hs
  · exact .ite (fun _ => performAll_keeps hs) fun _ => .none

theorem unlinkGroup_keeps {s : State} {gang slot : Nat} (hs : s.memWf) :
    (State.unlinkGroup s gang slot).memWf := hs

theorem putThread_keeps {s old : State} {gang w : Nat} {src : Source} {slot lane : Nat} (hs : s.memWf) :
    (s.putThread old gang w src slot lane).memWf := foldl_keeps hs fun _ _ ht => setLane_keeps ht

theorem settleThreads_keeps {s old : State} {gang w : Nat} {ts : List Settler} (hs : s.memWf) : (s.settleThreads old gang w ts).memWf :=
  foldl_keeps hs fun _ _ ht => modGroup_keeps (memWf_ite ht (putThread_keeps ht))

theorem writeSpill_keeps {s : State} {gang : Nat} {freed : List Nat} (hs : s.memWf) :
    (State.writeSpill s gang freed).memWf := by
  unfold State.writeSpill
  split
  · exact hs
  · have hput : ∀ {α : Type} (m : Memory) (xs : List α) (a : α → Nat) (b : α → List Byte), m.wf = true →
        (xs.foldl (fun m x => m.writeBytes (a x) (b x)) m).wf = true :=
      fun m xs a b hm => Memory.foldl_wf (fun m x h => Memory.writeBytes_wf h _ _) hm xs
    exact ⟨hput _ _ _ _ (hput _ _ _ _ (hput _ _ _ _ hs.1)), hs.2⟩

theorem applyPlan_keeps {s : State} {gang slot i carry : Nat} {rpc : Word} {p : Plan} (hs : s.memWf) :
    (State.applyPlan s gang slot i carry rpc p).memWf := by
  unfold State.applyPlan
  split
  next g x0 hg hx =>
    have h3 : ∀ h ts, (((s.unlinkGroup gang slot).modGang gang h).settleThreads s gang g.task.w ts).memWf :=
      fun h ts => settleThreads_keeps (modGang_keeps (unlinkGroup_keeps hs))
    have h4 : ∀ {p : Prop} [Decidable p] h ts, (if p then
        (((s.unlinkGroup gang slot).modGang gang h).settleThreads s gang g.task.w ts).retireGroup gang slot
        else ((s.unlinkGroup gang slot).modGang gang h).settleThreads s gang g.task.w ts).memWf :=
      fun h ts => memWf_ite (retireGroup_keeps (h3 h ts)) (h3 h ts)
    exact memWf_ite (h4 _ _) (writeSpill_keeps (h4 _ _))
  · exact hs

theorem moveTail_keeps {s : State} {gang slot idx : Nat} {t : Nat} (hs : s.memWf) :
    (State.moveTail s gang slot idx t).memWf := by
  unfold State.moveTail
  split
  · exact settleThreads_keeps (modGang_keeps (unlinkGroup_keeps hs))
  · exact hs

theorem settleTail_keeps {s : State} {g : Gang} (hs : s.memWf) :
    Found State.memWf (State.settleTail s g) := by
  unfold State.settleTail
  split
  · split
    · exact performAll_keeps hs
    · exact .some hs
  · exact .some hs

theorem materialise_keeps {s : State} {gang : Nat} (hs : s.memWf) :
    (State.materialise s gang).memWf := by
  unfold State.materialise
  split
  · exact hs
  next g hg =>
    split
    · exact hs
    next idx p inside hm =>
      lift_lets
      intro s1
      have h1 : s1.memWf := by
        simp only [s1]
        split
        · exact moveTail_keeps hs
        · exact hs
      clear_value s1
      split
      · exact hs
      next g1 hg1 =>
        cases g1.freeSlots with
        | nil => exact hs
        | cons t ts =>
          cases g1.snaps.find? (fun n => n.off == p.snap) with
          | none => exact hs
          | some n => exact writeSpill_keeps (foldl_keeps (modGang_keeps h1) fun _ _ ht => putThread_keeps ht)

theorem flatten_keeps {s : State} {gang slot : Nat} (hs : s.memWf) :
    (State.flatten s gang slot).memWf := by
  unfold State.flatten
  split
  · exact hs
  · split
    · exact mergeAt_keeps hs
    · exact hs

theorem compactChain_keeps {s : State} {gang : Nat} {slots : List Nat} (hs : s.memWf) :
    (State.compactChain s gang slots).memWf := by
  unfold State.compactChain
  split
  · exact hs
  · refine foldl_keeps (modCore_keeps (settleThreads_keeps (modGang_keeps hs))) fun t a ht => ?_
    split
    · exact memWf_ite (retireGroup_keeps ht) ht
    · exact ht

theorem compactSet_keeps {s : State} {gang : Nat} {set : List Nat} (hs : s.memWf) :
    (State.compactSet s gang set).memWf := by
  unfold State.compactSet
  split
  · exact hs
  · exact foldl_keeps (foldl_keeps hs fun _ _ ht => flatten_keeps ht) fun _ _ ht => memWf_ite ht (compactChain_keeps ht)

theorem compact_keeps {s : State} {gang : Nat} (hs : s.memWf) :
    (State.compact s gang).memWf := by
  unfold State.compact
  split
  · exact hs
  · exact compactSet_keeps hs

theorem trapFirst_keeps {s : State} {gang : Nat} {t : TrapInfo} (hs : s.memWf) :
    (State.trapFirst s gang t).memWf := by
  unfold State.trapFirst
  split
  · exact hs
  · exact raiseTrap_keeps hs

theorem fenceGang_keeps {s : State} {gang : Nat} (hs : s.memWf) :
    Found State.memWf (State.fenceGang s gang) := by
  unfold State.fenceGang
  split
  · exact .some hs
  · refine found_foldl (fun o x ho => ?_) (.some hs)
    split
    · exact .none
    next t => exact performAll_keeps (ho t rfl)

theorem leaveBarrier_keeps {s : State} {gang : Nat} (hs : s.memWf) :
    (State.leaveBarrier s gang).memWf := hs

/-! ## The operations of Control -/

theorem putVec_keeps {c : Iss} {s : State} {d : VOp} {wide : Bool} {v : Nat → Word} (hs : s.memWf) :
    Yields State.memWf State.memWf (putVec c s d wide v) := storeV_keeps (flipValues_keeps hs (v := v))

theorem putUni_keeps {c : Iss} {s : State} {d : SReg} {v : Word} (hs : s.memWf) :
    (putUni c s d v).memWf := writeU_keeps (flipUniform_keeps hs (v := v))

theorem goLanes_keeps {c : Iss} {s : State} {tgt : Nat → Word} (hs : s.memWf) :
    Yields State.memWf State.memWf (goLanes c s tgt) :=
  .ite (fun _ => .fault) fun _ => .ite (fun _ => .ok (modGang_keeps hs)) fun _ => .ok (modGroup_keeps hs)

theorem syncEffect_keeps {c : Iss} {s : State} (hs : s.memWf) :
    Yields State.memWf State.memWf (syncEffect c s) := by
  unfold syncEffect
  split
  · exact .stall
  next t ht => exact .ok (performAll_keeps hs t ht)

/-! ## The operations of Vat -/

theorem writeBackAll_keeps {c : Iss} {ls : List (StashUnit × Nat)} {after : State → State} (hc : c.s.memWf)
    (ha : ∀ t : State, t.memWf → (after t).memWf) : Yields State.memWf State.memWf (writeBackAll c ls after) := by
  refine (Yield.roomFor_keeps _).bind fun _ _ => Yield.pairRun_keeps memWf_ofBytes.beyond hc hc (fun t ht => ?_)
    fun _ t ht => .ok (addStore_keeps (ha t ht))
  split
  · exact .stall
  next u hu => exact .ok (foldl_keeps (performAll_keeps ht u hu) fun _ _ h => writeBack_keeps h)

theorem putSync_keeps {s : State} {core a : Nat} {w : SyncWord} (hs : s.memWf) :
    (State.putSync s core a w).memWf := vatWriteLE_keeps hs

theorem wakeSync_keeps {s : State} {core a : Nat} (hs : s.memWf) :
    (State.wakeSync s core a).memWf := hs

theorem syncOverflow_keeps {s : State} {core : Nat} (hs : s.memWf) :
    (State.syncOverflow s core).memWf := hs

theorem syncStep_keeps {s : State} {core a : Nat} (hs : s.memWf) :
    (State.syncStep s core a).memWf := memWf_ite (wakeSync_keeps (memWf_ite (syncOverflow_keeps (putSync_keeps hs)) (putSync_keeps hs))) hs

theorem syncArrive_keeps {s : State} {core a b : Nat} (hs : s.memWf) :
    (State.syncArrive s core a b).memWf :=
  memWf_ite (syncStep_keeps (syncOverflow_keeps (putSync_keeps hs))) (syncStep_keeps (putSync_keeps hs))

theorem post_keeps {s : State} {gang core a b : Nat} (hs : s.memWf) :
    (State.post s gang core a b).memWf := hs

theorem copyLineIn_keeps {s : State} {core vat pa : Nat} (hs : s.memWf) :
    (State.copyLineIn s core vat pa).memWf :=
  memWf_ite (poisonVat_keeps (writeVat_keeps (reach_keeps hs))) (writeVat_keeps (reach_keeps hs))

theorem putTileLine_keeps {s : State} {core a : Nat} {ws : List Word} (hs : s.memWf) :
    (State.putTileLine s core a ws).memWf := memWf_ite (writeVat_keeps hs) (poisonVat_keeps (writeVat_keeps hs))

/-! ## The operations of Engines -/

theorem touchRange_keeps {c : Iss} {s : State} {ps : List (Word × Xlat)} (hs : s.memWf) :
    Yields State.memWf State.memWf (touchRange c s ps) := touch_keeps hs

theorem readStash_keeps {c : Iss} {s : State} {lines : List Nat} (hs : s.memWf) :
    Yields State.memWf State.memWf (readStash c s lines) :=
  .ite (fun _ => .stall) fun _ => .ok (foldl_keeps hs fun _ _ ht => stashRead_keeps ht)

theorem modCpc_keeps {s : State} {gang gid : Nat} {h : Nat → Nat} (hs : s.memWf) :
    (State.modCpc s gang gid h).memWf := hs

theorem modCpcs_keeps {s : State} {gang gid : Nat} {h : Nat → Nat} (hs : s.memWf) :
    (State.modCpcs s gang gid h).memWf := by
  unfold State.modCpcs
  dsimp only
  split
  · exact modCpc_keeps (modCpc_keeps hs)
  · exact modCpc_keeps hs

theorem beginCommand_keeps {s : State} {g : Gang} {gid : Nat} {kind : CmdKind} {ls : List CmdLine} {us : List Update} {sync : Option Nat}
    (hs : s.memWf) : (s.beginCommand g gid kind ls us sync).memWf := modCpcs_keeps hs

theorem startCommand_keeps {s : State} {c : Iss} {kind : CmdKind} {ls : List CmdLine} {us : List Update} {sync : Option Nat} (hs : s.memWf) :
    (State.startCommand s c kind ls us sync).memWf := beginCommand_keeps hs

theorem engineRun_keeps {c : Iss} {s : State} {i : Instr} {regs : List SReg} {inVat : Bool} {act : State → State} (hc : c.s.memWf)
    (hs : s.memWf) (ha : ∀ t : State, t.memWf → (act t).memWf) : Yields State.memWf State.memWf (engineRun c s i regs inVat act) := by
  refine (Yield.roomFor_keeps _).bind fun _ _ => (releaseFirst_keeps hs).bind fun s1 h1 => .ite (fun _ => ?_) fun _ => ?_
  · exact Yield.pairRun_keeps memWf_ofBytes.beyond hc h1 (fun t ht => .ok ht) fun _ t ht => .ok (memWf_ite ht (ha t ht))
  · exact Yield.pairRun_keeps memWf_ofBytes.beyond hc h1 (fun t ht => .ok (ha t ht)) fun _ t ht => .ok ht

theorem listChecks_keeps {c : Iss} {ty : Ty} {d a b : SReg} {sw : Option SReg} {dst : Bool} (hc : c.s.memWf) :
    Yields State.memWf (fun y => y.1.memWf) (listChecks c ty d a b sw dst) := by
  refine Yields.bind checkRegion_passes fun dr _ => Yields.bind checkRegion_passes fun ir _ => Yields.bind checkSync_passes fun _ _ => ?_
  refine .ite (fun _ => .fault) fun _ => .ite (fun _ => .fault) fun _ => Yields.bind stashGuard_passes fun _ _ => ?_
  exact (releaseFirst_keeps hc).bind fun s0 h0 => (readStash_keeps h0).bind fun s1 h1 => .ok h1

theorem haltStream_keeps {s : State} {core e : Nat} (hs : s.memWf) :
    (State.haltStream s core e).memWf := setStream_keeps (foldl_keeps hs fun _ _ ht => modCpcs_keeps ht)

theorem dropPort_keeps {s : State} {gang : Nat} {p : Option (Nat × Nat)} (hs : s.memWf) :
    (State.dropPort s gang p).memWf := by
  cases p with
  | none => exact hs
  | some y => exact setPort_keeps hs

theorem freeStream_keeps {s : State} {core e : Nat} (hs : s.memWf) :
    (State.freeStream s core e).memWf := by
  have h1 := dropPort_keeps (haltStream_keeps hs (core := core) (e := e)) (gang := (s.streamAt core e).holder) (p := (s.streamAt core e).port)
  unfold State.freeStream
  refine setStream_keeps ?_
  split
  · exact dropPort_keeps h1
  · exact h1

/-! ## The operations of EngineLines -/

theorem readLine_keeps {s : State} {l : Loc} (hs : s.memWf) :
    (State.readLine s l).memWf := by
  cases l with
  | phys n => exact reach_keeps hs
  | vat core n => exact stashRead_keeps hs

theorem putLine_keeps {s : State} {g : Gang} {l : Loc} {bs : List (Nat × Byte)} {bad dur : Bool} (hs : s.memWf) :
    (State.putLine s g l bs bad dur).memWf := by
  cases l with
  | phys n => exact memWf_ite (poisonFor_keeps (poisonFor_keeps (writePhys_keeps hs))) (writePhys_keeps hs)
  | vat core n => exact memWf_ite (poisonVat_keeps (stashWrite_keeps hs)) (stashWrite_keeps hs)

theorem postBytes_keeps {s : State} {g : Gang} {sync : Option Nat} {n : Nat} (hs : s.memWf) :
    (State.postBytes s g sync n).memWf := by
  unfold State.postBytes
  split
  · exact hs
  · dsimp only
    split
    · exact post_keeps (post_keeps hs)
    · exact post_keeps hs

theorem writeCmdLine_keeps {s : State} {c : Command} {l : CmdLine} (hs : s.memWf) :
    Found State.memWf (State.writeCmdLine s c l) := by
  unfold State.writeCmdLine
  split
  · exact .none
  next g hg =>
    refine .ite (fun _ => .none) fun _ => .some (postBytes_keeps ?_)
    have h1 : ∀ xs : List Loc, (xs.foldl State.readLine s).memWf := fun xs => foldl_keeps hs fun _ _ ht => readLine_keeps ht
    split
    · exact putLine_keeps (putLine_keeps (h1 _))
    · exact putLine_keeps (h1 _)

theorem engineLine_keeps {s : State} {cmd line : Nat} (hs : s.memWf) :
    Found State.memWf (State.engineLine s cmd line) := by
  unfold State.engineLine
  split
  · exact .none
  · split
    · exact writeCmdLine_keeps hs
    · exact .none

theorem putUpdate_keeps {s : State} {c : Command} (hs : s.memWf) :
    Found State.memWf (State.putUpdate s c) := by
  unfold State.putUpdate
  split
  · exact .ite (fun _ => .none) fun _ => .some (arriveUpdate_keeps (s := s) hs)
  · exact .none

theorem getD_bind_keeps {α : Type} {s : State} {o : Option α} {f : α → Option State} (hs : s.memWf) (hf : ∀ a, Found State.memWf (f a)) :
    ((o.bind f).getD s).memWf := by
  cases o with
  | none => exact hs
  | some a => exact getD_keeps hs (hf a)

theorem found_bind {α : Type} {o : Option α} {f : α → Option State} (hf : ∀ a, Found State.memWf (f a)) : Found State.memWf (o.bind f) := by
  cases o with
  | none => exact .none
  | some a => exact hf a

theorem finishUnits_keeps {s : State} {gang : Nat} (hs : s.memWf) :
    (State.finishUnits s gang).memWf := by
  refine foldl_keeps hs fun t c ht => foldl_keeps (foldl_keeps ht fun u l hu => ?_) fun u _ hu => ?_
  · exact getD_bind_keeps hu fun k => found_bind fun x => writeCmdLine_keeps hu
  · exact getD_bind_keeps hu fun k => putUpdate_keeps hu

/-! ## The operations of Schedule -/

theorem pick_keeps {s : State} {f : Focus} (hs : s.memWf) :
    (State.pick s f).memWf := hs

theorem tick_keeps {s : State} {n : Nat} (hs : s.memWf) :
    (State.tick s n).memWf := hs

/-! ## The operations of Press -/

theorem modReservation_keeps {s : State} {g : Gang} {h : Reservation → Reservation} (hs : s.memWf) :
    (State.modReservation s g h).memWf := hs

theorem refuse_keeps {s : State} {gang : Nat} (hs : s.memWf) :
    (State.refuse s gang).memWf := hs

theorem reserve_keeps {s : State} {g : Gang} {nm nk : Nat} (hs : s.memWf) :
    (State.reserve s g nm nk).1.memWf := by
  unfold State.reserve
  dsimp only
  split
  · split
    · exact refuse_keeps hs
    · exact hs
  · split
    · exact modPress_keeps hs
    · exact refuse_keeps hs

theorem unreserve_keeps {s : State} {g : Gang} (hs : s.memWf) :
    (State.unreserve s g).memWf := hs

theorem mresRefused_keeps {s : State} {g : Gang} (hs : s.memWf) :
    (State.mresRefused s g).memWf := by
  unfold State.mresRefused
  split
  · exact memWf_ite (refuse_keeps hs) hs
  · exact refuse_keeps hs

theorem endRelease_keeps {s : State} {g : Gang} (hs : s.memWf) :
    (State.endRelease s g).memWf := foldl_keeps (unreserve_keeps hs) fun _ _ ht => countIssue_keeps (advance_keeps (modSplit_keeps ht))

theorem enqueue_keeps {c : Iss} {s : State} {k : TileKind} {srcs : List Region} {dsts : List (Nat × Nat)} (hs : s.memWf) :
    Yields State.memWf State.memWf (enqueue c s k srcs dsts) :=
  .ite (fun _ => .stall) fun _ => (releaseFirst_keeps hs).bind fun _ h1 => (readStash_keeps h1).bind fun _ h2 => .ok h2

theorem tagMoulds_keeps {s : State} {g : Gang} {tags : List (Nat × MouldTag)} (hs : s.memWf) :
    (State.tagMoulds s g tags).memWf := hs

/-! ## The operations of Sparse -/

theorem readMeta_keeps {c : Iss} {s : State} {a n : Nat} (hs : s.memWf) :
    Yields State.memWf State.memWf (readMeta c s a n) := .ite (fun _ => .stall) fun _ => readStash_keeps hs

theorem validate_keeps {c : Iss} {s : State} {r : Region} (hs : s.memWf) :
    Yields State.memWf (fun y => y.1.memWf) (validate c s r) := by
  refine (releaseFirst_keeps hs).bind fun s0 h0 => (readMeta_keeps h0).bind fun s1 h1 => ?_
  dsimp only
  split
  · exact .ok h1
  · refine (readMeta_keeps h1).bind fun s2 h2 => ?_
    split
    · exact .ok h2
    · exact .ok h2

theorem validated_keeps {c : Iss} {s : State} {r : Region} (hs : s.memWf) :
    Yields State.memWf (fun y => y.1.memWf) (validated c s r) := by
  refine (validate_keeps hs).bind fun y hy => ?_
  obtain ⟨s1, v⟩ := y
  cases v with
  | error e => exact .fault
  | ok h => exact .ok hy

/-! ## The operations of Tasks -/

theorem openObject_keeps {c : Iss} {a : Word} {align : Nat} {ord : MemOrder} (hc : c.s.memWf) :
    Yields State.memWf (fun y => y.1.memWf) (openObject c a align ord) :=
  Yields.bind (objectAt_passes hc) fun _ _ => (touch_keeps hc).bind fun _ h1 => (releaseFirst_keeps h1).bind fun _ h2 => .ok h2

theorem reachObject_keeps {s : State} {a : Nat} (hs : s.memWf) :
    Yields State.memWf State.memWf (reachObject s a) := .ite (fun _ => .stall) fun _ => .ok (reach_keeps hs)

theorem openQueue_keeps {c : Iss} {s : State} {a : Nat} (hc : c.s.memWf) (hs : s.memWf) :
    Yields State.memWf (fun y => y.1.memWf) (openQueue c s a) := by
  refine (reachObject_keeps hs).bind fun s1 h1 => ?_
  dsimp only
  split
  · exact xlatFault_keeps hc
  · exact (touch_keeps h1).map fun _ h2 => h2

theorem receive_keeps {c : Iss} {x : PopI} {vals : List Word} {s : State} (hs : s.memWf) :
    (receive c x vals s).memWf := by
  unfold receive
  lift_lets
  intro got at_
  exact advance_keeps (deliverItems_keeps (flipValues_keeps (v := at_) hs))

theorem performedOr_keeps {r : Except Stop (State × Bool)} (hr : Yields State.memWf (fun y => y.1.memWf) r) :
    Yields State.memWf (fun y => y.1.memWf) (performedOr r) := hr.map fun _ h => h

theorem removeItems_keeps {c : Iss} {s : State} {a : Nat} {x : PopI} {wait : Bool} (hc : c.s.memWf) (hs : s.memWf) :
    Yields State.memWf (fun y => y.1.memWf) (removeItems c s a x wait) := by
  unfold removeItems
  generalize (s.hdr a).occ = n
  refine .ite (fun _ => .ok hs) fun _ => ?_
  have h1 := becomeNR_keeps hc hs (removal := true)
  split
  next he => rw [he] at h1; exact h1
  next s1 he =>
    rw [he] at h1
    generalize (s1.hdr a).occ = n
    exact .ite (fun _ => .ok (link_keeps h1)) fun _ => .ok (popItems_keeps h1)

theorem readHeader_keeps {c : Iss} {i : Instr} {a : SReg} {d : SReg} {value : State → Nat → Hdr → Nat} (hc : c.s.memWf) :
    Yields State.memWf State.memWf (readHeader c i a d value) := by
  refine (openObject_keeps hc).bind fun y h1 => Yield.pairRun_keeps memWf_ofBytes.beyond hc h1 (fun t ht => ?_)
    fun _ t ht => .ok (putUni_keeps ht)
  exact (openQueue_keeps hc ht).bind fun _ h2 => Yields.bind checkQueue_passes fun _ _ => .ok h2

/-! ## The operations of Life -/

theorem logError_keeps {s : State} {struct cls owner die core loc outcome : Nat} (hs : s.memWf) :
    (State.logError s struct cls owner die core loc outcome).memWf := hs

theorem countError_keeps {s : State} {die struct which : Nat} (hs : s.memWf) :
    (State.countError s die struct which).memWf := modDie_keeps hs

theorem removeGang_keeps {s : State} {g : Gang} (hs : s.memWf) :
    (State.removeGang s g).memWf := by
  have h1 : ((List.range 4).foldl (fun (s : State) e =>
      if (s.streamAt g.core e).holder = g.id ∧ (s.streamAt g.core e).state ≠ .free then s.freeStream g.core e else s) s).memWf :=
    foldl_keeps hs fun _ _ ht => memWf_ite (freeStream_keeps ht) ht
  have h3 : ∀ h, (((((List.range 4).foldl (fun (s : State) e =>
      if (s.streamAt g.core e).holder = g.id ∧ (s.streamAt g.core e).state ≠ .free then s.freeStream g.core e else s) s).unreserve g).withdraw
      g.id).modCore g.core h).memWf := fun h => modCore_keeps (withdraw_keeps (unreserve_keeps h1))
  exact unmapOwn_keeps (memWf_ite (h3 _) (unmapOwn_keeps (h3 _)))

theorem killOne_keeps {s : State} {id : Nat} (hs : s.memWf) :
    (State.killOne s id).memWf := by
  unfold State.killOne
  split
  · exact hs
  · exact removeGang_keeps (modCore_keeps (finishUnits_keeps hs))

theorem terminate_keeps {s : State} {tag : Nat} (hs : s.memWf) :
    (State.terminate s tag).memWf := modCtx_keeps (foldl_keeps hs fun _ _ ht => killOne_keeps ht)

theorem terminateAll_keeps {s : State} {tags : List Nat} (hs : s.memWf) :
    (State.terminateAll s tags).memWf := foldl_keeps hs fun _ _ ht => terminate_keeps ht

theorem eager_keeps {old new : State} (hn : new.memWf) : (old.eager new).memWf := foldl_keeps hn fun _ _ ht => terminateAll_keeps ht

theorem killGang_keeps {s : State} {id : Nat} (hs : s.memWf) :
    (State.killGang s id).memWf := by
  refine eager_keeps ?_
  split
  · exact killOne_keeps (killOne_keeps hs)
  · exact killOne_keeps hs

theorem poisonOwned_keeps {s : State} {half : Nat} (hs : s.memWf) :
    (State.poisonOwned s half).memWf := eager_keeps (poisonHalf_keeps hs)

theorem rollback_keeps {s : State} {id other : Nat} (hs : s.memWf) :
    (State.rollback s id other).memWf := by
  have h1 : ∀ k, (match s.gang? id with
      | some g => s.logError 0xFF k g.ctx (s.part.dieOf g.core) g.core 0 7
      | none => s).memWf := by
    intro k
    split
    · exact logError_keeps hs
    · exact hs
  exact withdraw_keeps (withdraw_keeps (modPair_keeps (modPair_keeps (h1 _))))

theorem redispatch_keeps {s : State} {die : Nat} {t : TaskRec} (hs : s.memWf) :
    (State.redispatch s die t).memWf := by
  unfold State.redispatch
  split
  · exact startGang_keeps hs
  · exact hs

theorem contain_keeps {s : State} {id : Nat} (hs : s.memWf) :
    (State.contain s id).1.memWf := by
  unfold State.contain
  split
  · exact hs
  · split
    · exact memWf_ite (modPair_keeps hs) (rollback_keeps (modPair_keeps hs))
    · split
      · exact redispatch_keeps (killOne_keeps hs)
      · exact terminate_keeps (killOne_keeps hs)

theorem flushStash_keeps {s : State} {g : Gang} (hs : s.memWf) :
    Found State.memWf (State.flushStash s g) :=
  .ite (fun _ => .none) fun _ => .some (foldl_keeps hs fun _ _ ht => setStashLine_keeps (writeBack_keeps ht))

theorem reportHoles_keeps {s : State} {g : Gang} (hs : s.memWf) :
    (State.reportHoles s g).memWf := by
  refine foldl_keeps hs fun t c ht => ?_
  split
  · exact appendEvent_keeps ht
  · exact ht

theorem exitDecrement_keeps {s : State} {g : Gang} (hs : s.memWf) :
    (State.exitDecrement s g).memWf := by
  refine memWf_ite hs ?_
  split
  · exact appendEvent_keeps hs
  · exact decrement_keeps hs

theorem flushAll_keeps {s : State} {xs : List Gang} (hs : s.memWf) : Found State.memWf (xs.foldl (fun o x => match o with
    | none => none
    | some t => State.flushStash t x) (some s)) := by
  refine found_foldl (fun o x ho => ?_) (.some hs)
  split
  · exact .none
  next t => exact flushStash_keeps (ho t rfl)

/-- The end of a gang whose effects are performed and whose stashes are clean. -/
theorem leave_keeps {s : State} {g : Gang} {all : List Gang} (hs : s.memWf) :
    (all.foldl (fun (s : State) x => match s.gang? x.id with
      | some y => s.removeGang y
      | none => s) ((all.foldl (fun (s : State) x => match s.gang? x.id with
      | some y => s.modGang x.id (fun _ => { y with effects := [] })
      | none => s) s).exitDecrement g)).memWf := by
  refine foldl_keeps (exitDecrement_keeps (foldl_keeps hs fun t x ht => ?_)) fun t x ht => ?_
  · split
    · exact modGang_keeps ht
    · exact ht
  · split
    · exact removeGang_keeps ht
    · exact ht

theorem exitGang_keeps {s : State} {id : Nat} (hs : s.memWf) :
    Found State.memWf (State.exitGang s id) := by
  unfold State.exitGang
  split
  · exact .none
  next g hg =>
    refine .ite (fun _ => .none) fun _ => ?_
    split
    · exact .none
    next s1 h1 =>
      split
      · exact .none
      next g1 hg1 =>
        have h2 := drainEffects_keeps (gang := id) (n := 257)
          (modGang_keeps (id := id) (h := Gang.closeEpochs) (reportHoles_keeps (writeAppends_keeps hs s1 h1) (g := g1)))
        dsimp only
        refine .ite (fun _ => .some h2) fun _ => ?_
        split
        · exact .none
        next s3 h3 => exact .ite (fun _ => .none) fun _ => .some (leave_keeps (flushAll_keeps h2 s3 h3))

/-! ## The operations of Traps -/

theorem codeTrap_keeps {c : Iss} {cause n : Nat} : Yields State.memWf State.memWf (codeTrap c cause n) := trivial

theorem finishCall_keeps {f : Focus} {lanes : LaneMask} {vals : List Word} {s : State} (hs : s.memWf) :
    (finishCall f lanes vals s).memWf := advance_keeps (foldl_keeps hs fun _ _ ht => setLane_keeps (setLane_keeps ht))

theorem leaveHandler_keeps {c : Iss} {fr : List Byte} {s : State} (hs : s.memWf) :
    (leaveHandler c fr s).memWf := by
  unfold leaveHandler
  split
  · exact deadlockAll_keeps (resumeFromHandler_keeps hs)
  · exact deadlockAll_keeps (resumeFromHandler_keeps hs)
  · exact killGang_keeps hs
  · exact terminate_keeps hs

/-! ## The operations of Recovery -/

theorem arriveMark_keeps {c : Iss} {m : Word × Word} (hc : c.s.memWf) :
    Yields State.memWf State.memWf (arriveMark c m) := by
  have hwait : ∀ h, (c.s.modGroup c.f.gang c.f.group h).memWf := fun h => modGroup_keeps hc
  unfold arriveMark
  dsimp only
  split
  · exact .ok (hwait _)
  · refine .ite (fun _ => ?_) fun _ => ?_
    · split
      · exact .ok (hwait _)
      · exact .ok (raiseTrap_keeps (hwait _))
    · split
      · exact .ite (fun _ => .ok (hwait _)) fun _ => .fault
      · exact .ok (hwait _)

end Sys2Proof.Proofs.Canonical
end

section
/-! PROOFS. the operations of the events and commands keep memory and the vats in canonical form (O60) -/


namespace Sys2Proof.Proofs.Canonical
open Sys2Proof Sys2Proof.Machine Sys2Proof.Claims
open Sys2Proof.Proofs.Yield (Yields Yields.ok Yields.fault Yields.stall Yields.bind Yields.map Yields.mono Yields.ite OfBytes Beyond)

/-! ## The operations of MemEvents -/

theorem answerWalks_keeps {s : State} {key : Nat × Nat} {ws : List Walk} (hs : s.memWf) :
    (State.answerWalks s key ws).memWf := foldl_keeps hs fun _ _ ht => fillCoreTlb_keeps ht

theorem fillStep_keeps {s : State} {g : Gang} {l : PendLoad} {t : Nat × Loc} (hs : s.memWf) : (
    let s1 := match t.2 with
      | .phys a => s.copyLineIn g.core t.1 a
      | .vat _ _ => s
    match l.sync with
    | some w => s1.post g.id g.core w 128
    | none => s1 : State).memWf := by
  obtain ⟨a, x⟩ := t
  cases l.sync with
  | some w => cases x with
    | phys p => exact post_keeps (copyLineIn_keeps hs)
    | vat c p => exact post_keeps hs
  | none => cases x with
    | phys p => exact copyLineIn_keeps hs
    | vat c p => exact hs

theorem fillTile_keeps {s : State} {g : Gang} {l : PendLoad} (hs : s.memWf) :
    (State.fillTile s g l).memWf := foldl_keeps hs fun _ _ ht => fillStep_keeps ht

theorem remapPhys_keeps {s : State} {f : Nat → Nat} (hs : s.memWf) :
    (State.remapPhys s f).memWf := hs

/-! ## The operations of EngineEvents -/

theorem fillSlot_keeps {s : State} {core e : Nat} (hs : s.memWf) :
    Found State.memWf (State.fillSlot s core e) := by
  unfold State.fillSlot
  dsimp only
  split
  · exact .none
  · refine .ite (fun _ => .none) fun _ => .ite (fun _ => .none) fun _ => .some (postBytes_keeps (setStream_keeps ?_))
    exact foldl_keeps (reachAll_keeps hs) fun _ _ ht => foldl_keeps ht fun _ _ hu => putLine_keeps hu

theorem drainSlot_keeps {s : State} {core e : Nat} (hs : s.memWf) :
    Found State.memWf (State.drainSlot s core e) := by
  unfold State.drainSlot
  dsimp only
  split
  · exact .none
  · refine .ite (fun _ => .none) fun _ => .ite (fun _ => .none) fun _ => .some (eager_keeps (postBytes_keeps (setStream_keeps ?_)))
    exact foldl_keeps (writePhys_keeps (foldl_keeps hs fun _ _ ht => readLine_keeps ht)) fun _ _ ht => poisonFor_keeps (poisonFor_keeps ht)

theorem endLost_keeps {s t : State} {gang : Nat} {lines : List Nat} (ht : t.memWf) : (s.endLost gang lines t).memWf :=
  memWf_ite ht (foldl_keeps ht fun _ _ hu => terminateAll_keeps hu)

theorem dropArrival_keeps {s : State} {w : CollWait} (hs : s.memWf) :
    (State.dropArrival s w).memWf := by
  unfold State.dropArrival
  dsimp only
  split
  · exact modCpcs_keeps (by exact hs)
  · exact hs

theorem collTrap_keeps {s : State} {w : CollWait} (hs : s.memWf) :
    (State.collTrap s w).memWf := foldl_keeps (dropArrival_keeps hs) fun _ _ ht => raiseTrap_keeps (modPair_keeps (modSplit_keeps ht))

theorem leaveColl_keeps {s : State} {w : CollWait} {vals : List Word} (hs : s.memWf) :
    (State.leaveColl s w vals).memWf := by
  refine advance_keeps (modSplit_keeps ?_)
  split
  · split
    · exact logEffect_keeps hs
    · exact hs
  · exact hs

theorem endSeal_keeps {s : State} {x : Seal} {sealed : Bool} (hs : s.memWf) :
    (State.endSeal s x sealed).memWf := by
  unfold State.endSeal
  dsimp only
  split
  · have h2 : ∀ (fs : List Focus) (k : Focus → UEntry),
        (fs.foldl (fun (s : State) f => s.writeU f (k f)) { s with seals := s.seals.erase x }).memWf :=
      fun fs k => foldl_keeps (by exact hs) fun _ _ ht => writeU_keeps ht
    exact modCpcs_keeps (memWf_ite (leaveColl_keeps (h2 _ _)) (modGroup_keeps (h2 _ _)))
  · exact hs

theorem rendezvous_keeps {s : State} {e : EvRendezvous} (hs : s.memWf) :
    Found State.memWf (State.rendezvous s e) := by
  unfold State.rendezvous
  split
  · exact .none
  · split
    · refine .ite (fun _ => .none) fun _ => .ite (fun _ => .none) fun _ => .ite (fun _ => .some (collTrap_keeps hs)) fun _ => ?_
      exact .ite (fun _ => .none) fun _ => .some (leaveColl_keeps (beginCommand_keeps (reachAll_keeps (s := s) hs)))
    · exact .none

/-! ## The operations of PressEvents -/

theorem startTile_keeps {s : State} {h : Gang × Group × TileOp} {aged : Bool} (hs : s.memWf) :
    (State.startTile s h aged).memWf := memWf_ite (modGroup_keeps hs) (modPress_keeps (modGroup_keeps hs))

theorem writeRegion_keeps {s : State} {core base : Nat} {bs : List Byte} {bad : Nat → Bool} (hs : s.memWf) :
    (State.writeRegion s core base bs bad).memWf :=
  foldl_keeps hs fun _ _ ht => memWf_ite (poisonVat_keeps (stashWrite_keeps ht)) (stashWrite_keeps ht)

theorem putAcc_keeps {s : State} {g : Gang} {d nr : Nat} {f : Acc → Nat → Nat → Nat} {poison : LaneMask → LaneMask} (hs : s.memWf) :
    (State.putAcc s g d nr f poison).memWf := hs

theorem putMould_keeps {s : State} {g : Gang} {d : Nat} {m : Mould} (hs : s.memWf) :
    (State.putMould s g d m).memWf := hs

theorem runTile_keeps {s : State} {g : Gang} {slot : Nat} {t : TileOp} (hs : s.memWf) :
    (State.runTile s g slot t).memWf := by
  unfold State.runTile
  dsimp only
  split
  · exact putMould_keeps hs
  · exact putAcc_keeps hs
  · exact writeRegion_keeps hs
  · exact putAcc_keeps hs
  · exact putAcc_keeps hs
  · exact modGroup_keeps (writeRegion_keeps (writeRegion_keeps hs))
  · exact foldl_keeps hs fun _ _ ht => putMould_keeps ht
  · exact putAcc_keeps hs

/-! ## The operations of SplitEvents -/

theorem reconverge_keeps {s : State} {gang slot i : Nat} (hs : s.memWf) :
    Found State.memWf (State.reconverge s gang slot i) := by
  unfold State.reconverge
  split
  · split
    · exact .none
    · refine .ite (fun _ => .none) fun _ => ?_
      dsimp only
      refine .ite (fun _ => .ite (fun _ => .none) fun _ => .some (deadlockCheck_keeps (mergeAt_keeps hs))) fun _ => ?_
      exact .some (modGroup_keeps (modSplit_keeps (mergeAt_keeps hs)))
  · exact .none

theorem reconvergeHandler_keeps {s : State} {gang : Nat} (hs : s.memWf) :
    Found State.memWf (State.reconvergeHandler s gang) := by
  unfold State.reconvergeHandler
  split
  · exact .none
  · split
    · exact .none
    · refine .ite (fun _ => .none) fun _ => .ite (fun _ => ?_) fun _ => .some (modGang_keeps hs)
      split
      · exact .some (modGang_keeps hs)
      · exact .none

theorem memberEffect_keeps {i : Instr} : Found (fun effect : Iss → State → Except Stop State => ∀ c s, s.memWf →
    Yields State.memWf State.memWf (effect c s)) (memberEffect i) := by
  unfold memberEffect
  split
  · exact .some fun _ _ hs => voteEffect_keeps hs
  · exact .some fun _ _ hs => shflEffect_keeps hs
  · exact .some fun _ _ hs => reduxEffect_keeps hs
  · exact .some fun _ _ hs => scanEffect_keeps hs
  · exact .some fun _ _ hs => syncEffect_keeps hs
  · exact .none

theorem completeMember_keeps {s : State} {gang slot : Nat} (hs : s.memWf) :
    Found State.memWf (State.completeMember s gang slot) := by
  unfold State.completeMember
  split
  · split
    · exact .none
    next j i m hm =>
      split
      next sp effect hsp he =>
        refine .ite (fun _ => .none) fun _ => ?_
        dsimp only
        split
        · exact .none
        next c hc =>
          split
          next s2 h2 => exact .some (advance_keeps (ok_keeps h2 (memberEffect_keeps effect he _ _ (mergeAt_keeps hs))))
          next => exact .some (raiseTrap_keeps (mergeAt_keeps hs))
          next => exact .some (raiseTrap_keeps (mergeAt_keeps hs))
          next => exact .some (raiseTrap_keeps (mergeAt_keeps hs))
          next => exact .none
      next => exact .none
  · exact .none

/-! ## The operations of DeckleEvents -/

theorem become_keeps {s : State} {core : Nat} (hs : s.memWf) :
    Found State.memWf (State.become s core) := by
  unfold State.become
  split
  · exact .none
  · split
    · dsimp only
      split
      · exact .some (modCore_keeps hs)
      · refine .ite (fun _ => .none) fun _ => ?_
        split
        · exact .some (raiseTrap_keeps (modSplit_keeps (modCore_keeps hs)))
        next p hp =>
          split
          · exact .none
          next s2 h2 =>
            refine .some (deadlockCheck_keeps (recordDeckle_keeps (applyPlan_keeps (found_keeps h2 ?_))))
            exact .ite (fun _ => settleStores_keeps (modCore_keeps hs)) fun _ =>
              .ite (fun _ => performAll_keeps (modCore_keeps hs)) fun _ => .some (modCore_keeps hs)
    · exact .some (modCore_keeps hs)

theorem nextRecord_keeps {s : State} {id : Nat} (hs : s.memWf) :
    Found State.memWf (State.nextRecord s id) := by
  unfold State.nextRecord
  split
  · exact .none
  · refine .ite (fun _ => .none) fun _ => ?_
    dsimp only
    split
    · exact .none
    · refine .ite (fun _ => ?_) fun _ => .none
      exact (settleTail_keeps (memWf_ite hs (compactSet_keeps hs))).map fun _ h2 => recordDeckle_keeps (materialise_keeps h2)

theorem trapCopies_keeps {s : State} {ids : List Nat} {cause sub kind : Nat} {addr : Word} (hs : s.memWf) :
    (State.trapCopies s ids cause sub kind addr).memWf := foldl_keeps hs fun _ _ ht => trapFirst_keeps ht

theorem passBarrier_keeps {s : State} {ids : List Nat} (hs : s.memWf) :
    (State.passBarrier s ids).memWf := foldl_keeps hs fun _ _ ht => leaveBarrier_keeps (modGang_keeps (compact_keeps ht))

theorem closeAppends_keeps {s : State} {id : Nat} {ids : List Nat} {after : State → Option State} (hs : s.memWf)
    (ha : ∀ t : State, t.memWf → Found State.memWf (after t)) : Found State.memWf (s.closeAppends id ids after) := by
  unfold State.closeAppends
  split
  · exact .none
  next s1 h1 =>
    have hk := writeAppends_keeps hs s1 h1
    split
    · exact .some (trapCopies_keeps (modGang_keeps hk))
    · exact ha s1 hk

theorem fenceAll_keeps {s : State} {ids : List Nat} (hs : s.memWf) :
    Found State.memWf (State.fenceAll s ids) := by
  refine found_foldl (fun o x ho => ?_) (.some hs)
  split
  · exact .none
  next t => exact fenceGang_keeps (ho t rfl)

theorem writeMark_keeps {s : State} {g : Gang} {ids : List Nat} {a : Word} {pc : Word} (hs : s.memWf) :
    Found State.memWf (State.writeMark s g ids a pc) := by
  unfold State.writeMark
  split
  · exact .none
  next s1 h1 =>
    have hk := flushAll_keeps hs s1 h1
    split
    · exact .none
    · exact .ite (fun _ => .none) fun _ => .some (foldl_keeps (makeDurable_keeps (writePhys_keeps hk)) fun _ _ ht => modGang_keeps ht)

theorem finishMark_keeps {s : State} {g : Gang} {ids : List Nat} {sp : Split} {a b : Word} (hs : s.memWf) :
    Found State.memWf (State.finishMark s g ids sp a b) := by
  unfold State.finishMark
  refine .ite (fun _ => .some (foldl_keeps hs fun t id ht => ?_)) fun _ => ?_
  · split
    · exact raiseTrap_keeps ht
    · exact ht
  · split
    · exact .some (trapCopies_keeps hs)
    · exact closeAppends_keeps hs fun t ht => .ite (fun _ => .none) fun _ => (writeMark_keeps ht).map fun _ h2 => passBarrier_keeps h2

theorem finishBarrier_keeps {s : State} {id : Nat} (hs : s.memWf) :
    Found State.memWf (State.finishBarrier s id) := by
  have hcompact : ∀ ids : List Nat, (ids.foldl State.compact s).memWf := fun ids => foldl_keeps hs fun _ _ ht => compact_keeps ht
  unfold State.finishBarrier
  split
  · exact .none
  · dsimp only
    refine .ite (fun _ => .none) fun _ => .ite (fun _ => .ite (fun _ => .none) fun _ => .some (trapCopies_keeps (hcompact _))) fun _ =>
      .ite (fun _ => .none) fun _ => ?_
    split
    · exact .none
    · split
      · exact found_bind fun _ => finishMark_keeps (hcompact _)
      · exact closeAppends_keeps hs fun t ht => (fenceAll_keeps ht).map fun _ h3 => passBarrier_keeps h3

/-! ## The operations of Move -/

theorem rebaseWindows_keeps {s : State} {f : Nat → Nat} {n0 : Nat} {g : Gang} (hs : s.memWf) :
    (State.rebaseWindows s f n0 g).memWf := foldl_keeps hs fun _ _ ht => foldl_keeps ht fun _ _ hu => setLane_keeps hu

theorem rebaseWords_wf {m : Memory} (hm : m.wf = true) (f : Nat → Nat) (n0 a step n : Nat) : (m.rebaseWords f n0 a step n).wf = true :=
  Memory.foldl_wf (fun _ _ h => Memory.writeLE_wf h _ _ _) hm _

theorem rebaseFrame_keeps {s : State} {f : Nat → Nat} {n0 : Nat} {g : Gang} (hs : s.memWf) :
    (State.rebaseFrame s f n0 g).memWf := by
  unfold State.rebaseFrame
  exact memWf_ite (memWf_mem (rebaseWords_wf (rebaseWords_wf hs.1 _ _ _ _ _) _ _ _ _ _) hs) hs

theorem lift_keeps {s : State} {g : Gang} (hs : s.memWf) :
    (State.lift s g).memWf := hs

theorem carry_keeps {s : State} {g : Gang} {core base : Nat} (hs : s.memWf) :
    (State.carry s g core base).memWf := memWf_mk hs.1 (Memory.move_wf hs.2 _ _ _)

theorem land_keeps {s : State} {g : Gang} {core base : Nat} {h : Saved} (hs : s.memWf) :
    (State.land s g core base h).memWf := by
  unfold State.land
  lift_lets
  intro f s1 s2 s3 s4 s5
  have h3 : s3.memWf := modPress_keeps (modCore_keeps (carry_keeps hs))
  have h5 : s5.memWf := rebaseFrame_keeps (rebaseWindows_keeps (s := s4) h3)
  exact memWf_ite h5 (writeSpill_keeps h5)

/-! ## The operations of SchedEvents -/

theorem dropHead_keeps {s : State} {q : QueueObj} (hs : s.memWf) :
    (State.dropHead s q).memWf := modQueue_keeps (servePush_keeps (takeItem_keeps hs))

theorem rejectRecord_keeps {s : State} {hdr : Nat} (hs : s.memWf) :
    (State.rejectRecord s hdr).memWf := bumpHdr_keeps (gang := 0) (a := hdr) (ofs := 32) hs

theorem shareFrame_keeps {s : State} {lead trail : Nat} (hs : s.memWf) :
    (State.shareFrame s lead trail).memWf := by
  unfold State.shareFrame
  split
  · exact modGang_keeps (unmapOwn_keeps hs)
  · exact hs

theorem startTask_keeps {s : State} {t : TaskRec} {p : (Nat × Nat) × Option (Nat × Nat)} (hs : s.memWf) :
    (State.startTask s t p).memWf := by
  unfold State.startTask
  split
  · exact startGang_keeps hs
  · exact shareFrame_keeps (startGang_keeps (startGang_keeps hs))

theorem dispatch_keeps {s : State} {die : Nat} {n : Nat} (hs : s.memWf) :
    Found State.memWf (State.dispatch s die n) := by
  induction n generalizing s with
  | zero => exact .none
  | succ n ih =>
    unfold State.dispatch
    split
    · exact .none
    · have h1 : ∀ q a, ((s.dropHead q).rejectRecord a).memWf := fun q a => rejectRecord_keeps (dropHead_keeps hs)
      exact .some (getD_keeps (h1 _ _) (ih (h1 _ _)))
    · exact .some (modDie_keeps (startTask_keeps (modQueue_keeps (dropHead_keeps hs))))

theorem askMigration_keeps {s : State} {die : Nat} {t : TaskRec} (hs : s.memWf) :
    (State.askMigration s die t).memWf := memWf_ite hs (modDie_keeps hs)

theorem retryHolding_keeps {s : State} {die : Nat} (hs : s.memWf) :
    (State.retryHolding s die).memWf := by
  refine foldl_keeps hs fun t q ht => ?_
  split
  · exact askMigration_keeps ht
  · exact ht

theorem resume_keeps {s : State} {id : Nat} (hs : s.memWf) :
    (State.resume s id).memWf := deadlockAll_keeps (modGang_keeps hs)

theorem pushOutside_keeps {s : State} {q : QueueObj} {bs : List Byte} (hs : s.memWf) :
    Found State.memWf (State.pushOutside s q bs) := by
  unfold State.pushOutside
  dsimp only
  split
  · exact push_keeps hs
  · exact wlInsert_keeps hs
  · exact push_keeps hs

/-! ## The operations of TrapEvents -/

theorem logConsumption_keeps {s : State} {g : Gang} {h : Halt} {outcome : Nat} (hs : s.memWf) :
    (State.logConsumption s g h outcome).memWf := memWf_ite hs (logError_keeps hs)

theorem growSpill_keeps {s : State} {id units : Nat} (hs : s.memWf) :
    (State.growSpill s id units).memWf := by
  unfold State.growSpill
  split
  · exact hs
  next g hg =>
    have h1 : (s.unmapOwn g.ctx g.spillVa (g.spillSize / 2 ^ 16)).memWf := unmapOwn_keeps hs
    exact mapOwn_keeps (memWf_mk (Memory.move_wf h1.1 _ _ _) h1.2)

theorem liftHalt_keeps {s : State} {id : Nat} (hs : s.memWf) :
    (State.liftHalt s id).memWf := deadlockAll_keeps (modGang_keeps hs)

theorem clearFrame_keeps {s : State} {g : Gang} (hs : s.memWf) :
    (State.clearFrame s g).memWf := reachAll_keeps (lines := rangeLines g.framePhys 12288) (write := true) hs

theorem deliver_keeps {s : State} {id : Nat} (hs : s.memWf) :
    Found State.memWf (State.deliver s id) := by
  unfold State.deliver
  split
  · exact .none
  · split
    · exact .none
    · refine .ite (fun _ => .none) fun _ => ?_
      split
      · split
        · exact .ite (fun _ => .some (deliverToHandler_keeps (modPair_keeps hs))) fun _ => .none
        · exact .ite (fun _ => .none) fun _ => .some (logConsumption_keeps (forward_keeps (deliverToHandler_keeps (clearFrame_keeps hs))))
      · exact .ite (fun _ => .none) fun _ => .some (logConsumption_keeps (deliverToHandler_keeps (clearFrame_keeps hs)))

theorem endConsumed_keeps {s : State} {g : Gang} {h : Halt} (hs : s.memWf) :
    (State.endConsumed s g h).memWf := memWf_ite (terminateAll_keeps (logConsumption_keeps hs)) hs

theorem ezdenTrap_keeps {s : State} {id : Nat} (hs : s.memWf) :
    Found State.memWf (State.ezdenTrap s id) := by
  unfold State.ezdenTrap
  split
  · exact .none
  · split
    · exact .none
    · refine .ite (fun _ => .none) fun _ => ?_
      split
      · exact .some (terminate_keeps (endConsumed_keeps (appendEvent_keeps hs)))
      · refine .ite (fun _ => .none) fun _ => ?_
        split
        · exact .some (foldl_keeps (writeFrame_keeps (clearFrame_keeps hs)) fun _ _ ht => liftHalt_keeps (growSpill_keeps ht))
        · exact .some (killGang_keeps (endConsumed_keeps (appendEvent_keeps (writeFrame_keeps (clearFrame_keeps hs)))))

theorem unlinkSync_keeps {s : State} {g : Gang} (hs : s.memWf) :
    (State.unlinkSync s g).memWf := by
  refine foldl_keeps hs fun t sp ht => ?_
  split
  · exact putSync_keeps ht
  · exact ht

theorem withdrawAll_keeps {s : State} {g : Gang} (hs : s.memWf) :
    (State.withdrawAll s g).memWf := modGang_keeps (unlinkSync_keeps (foldl_keeps (withdraw_keeps hs) fun _ _ ht => dropArrival_keeps ht))

theorem saveGang_keeps {s : State} {g : Gang} (hs : s.memWf) :
    Found State.memWf (State.saveGang s g) :=
  .ite (fun _ => .none) fun _ => (flushStash_keeps hs).map fun s1 h1 => modGang_keeps (s := (s1.lift g).carry g (savedCore g.id) g.base)
    (id := g.id) (h := fun x => { x with run := .saved }) (carry_keeps (lift_keeps h1))

theorem restoreGang_keeps {s : State} {g : Gang} (hs : s.memWf) :
    Found State.memWf (State.restoreGang s g) := by
  unfold State.restoreGang
  split
  · exact .none
  next h hh =>
    split
    · exact .none
    next core base hp => exact .some (resume_keeps (land_keeps hs (g := g) (core := core) (base := base) (h := h)) (id := g.id))

/-! ## The operations of SysEvents -/

theorem callDone_keeps {s : State} {r : Word} (hs : s.memWf) : Found (fun y => y.1.memWf) (callDone s r) := .some hs

theorem readCall_keeps {s : State} {c : Caller} {va : Word} {n : Nat} {next : State → List Byte → CallStep} (hs : s.memWf)
    (hn : ∀ t bs, t.memWf → Found (fun y : State × Word => y.1.memWf) (next t bs)) :
    Found (fun y => y.1.memWf) (s.readCall c va n next) := by
  unfold State.readCall
  split
  · exact callDone_keeps hs
  · exact .ite (fun _ => .none) fun _ => .ite (fun _ => callDone_keeps (reachAll_keeps hs)) fun _ => hn _ _ (reachAll_keeps hs)

theorem writeCall_keeps {s : State} {c : Caller} {va : Word} {n : Nat} {next : (List Byte → State) → CallStep} (hs : s.memWf)
    (hn : ∀ put : List Byte → State, (∀ bs, (put bs).memWf) → Found (fun y : State × Word => y.1.memWf) (next put)) :
    Found (fun y => y.1.memWf) (s.writeCall c va n next) := by
  unfold State.writeCall
  split
  · exact callDone_keeps hs
  · exact .ite (fun _ => .none) fun _ => hn _ fun _ => writePhys_keeps hs

theorem pathCall_keeps {s : State} {c : Caller} {k : Context} {va : Word} {n : Nat} {next : State → CallStep} (hs : s.memWf)
    (hn : ∀ t : State, t.memWf → Found (fun y : State × Word => y.1.memWf) (next t)) :
    Found (fun y => y.1.memWf) (s.pathCall c k va n next) := by
  refine .ite (fun _ => callDone_keeps hs) fun _ => readCall_keeps hs fun t bs ht => ?_
  split
  · exact callDone_keeps ht
  · exact .ite (fun _ => hn t ht) fun _ => callDone_keeps ht

theorem answered_keeps {s good : State} {a : SysAnswer} {ok : Nat → Bool} (hs : s.memWf) (hg : good.memWf) :
    Found (fun y => y.1.memWf) (answered s a ok good) :=
  .ite (fun _ => callDone_keeps hs) fun _ => .ite (fun _ => callDone_keeps hg) fun _ => .none

theorem newDescriptor_keeps {s good : State} {k : Context} {a : SysAnswer} (hs : s.memWf) (hg : good.memWf) :
    Found (fun y => y.1.memWf) (newDescriptor s k a good) :=
  .ite (fun _ => callDone_keeps hs) fun _ => answered_keeps hs (modCtx_keeps hg)

theorem onDescriptor_keeps {s : State} {k : Context} {d : Word} {next : CallStep} (hs : s.memWf)
    (hn : Found (fun y : State × Word => y.1.memWf) next) : Found (fun y => y.1.memWf) (onDescriptor s k d next) :=
  .ite (fun _ => hn) fun _ => callDone_keeps hs

theorem receiveCall_keeps {s : State} {c : Caller} {k : Context} {d va n : Word} {a : SysAnswer} (hs : s.memWf) :
    Found (fun y => y.1.memWf) (s.receiveCall c k d va n a) :=
  onDescriptor_keeps hs (.ite (fun _ => callDone_keeps hs) fun _ => writeCall_keeps hs fun _ hp => answered_keeps hs (hp _))

theorem sendCall_keeps {s : State} {c : Caller} {k : Context} {d va n : Word} {a : SysAnswer} (hs : s.memWf) :
    Found (fun y => y.1.memWf) (s.sendCall c k d va n a) :=
  onDescriptor_keeps hs (.ite (fun _ => callDone_keeps hs) fun _ => readCall_keeps hs fun _ _ ht => answered_keeps ht ht)

theorem addressCall_keeps {s : State} {c : Caller} {k : Context} {bind : Bool} {d va : Word} {a : SysAnswer} (hs : s.memWf) :
    Found (fun y => y.1.memWf) (s.addressCall c k bind d va a) :=
  onDescriptor_keeps hs (readCall_keeps hs fun _ _ ht => .ite (fun _ => callDone_keeps ht) fun _ => .ite (fun _ => callDone_keeps ht) fun _ =>
    answered_keeps ht ht)

theorem laneCall_keeps {s : State} {c : Caller} {n : Nat} {x : Nat → Word} {a : SysAnswer} (hs : s.memWf) :
    Found (fun y => y.1.memWf) (s.laneCall c n x a) := by
  unfold State.laneCall
  split
  · exact callDone_keeps hs
  · refine .ite (fun _ => callDone_keeps hs) fun _ => ?_
    split
    · exact pathCall_keeps hs fun t ht => .ite (fun _ => callDone_keeps ht) fun _ => newDescriptor_keeps ht ht
    · exact onDescriptor_keeps hs (answered_keeps hs (modCtx_keeps hs))
    · exact receiveCall_keeps hs
    · exact sendCall_keeps hs
    · exact receiveCall_keeps hs
    · exact sendCall_keeps hs
    · exact onDescriptor_keeps hs (answered_keeps hs hs)
    · exact pathCall_keeps hs fun t ht => writeCall_keeps ht fun _ hp => answered_keeps ht (hp _)
    · exact .ite (fun _ => callDone_keeps hs) fun _ => newDescriptor_keeps hs hs
    · exact addressCall_keeps hs
    · exact addressCall_keeps hs
    · exact onDescriptor_keeps hs (.ite (fun _ => callDone_keeps hs) fun _ => answered_keeps hs hs)
    · exact onDescriptor_keeps hs (.ite (fun _ => newDescriptor_keeps hs hs) fun _ => .ite (fun _ => .none) fun _ =>
        writeCall_keeps hs fun _ hp => newDescriptor_keeps hs (hp _))
    · exact sendCall_keeps hs
    · exact receiveCall_keeps hs
    · exact .ite (fun _ => callDone_keeps hs) fun _ => .ite (fun _ => answered_keeps hs hs) fun _ => answered_keeps hs hs
    · exact callDone_keeps hs

theorem laneCalls_keeps {s : State} {c : Caller} {n : Nat} {xs : List (Nat × SysAnswer)} (hs : s.memWf) :
    Found (fun y => y.1.memWf) (State.laneCalls s c n xs) := by
  induction xs generalizing s with
  | nil => exact .some hs
  | cons x xs ih =>
    unfold State.laneCalls
    split
    · exact .none
    next s1 r h1 => exact (ih (laneCall_keeps hs _ h1)).map fun _ h => h

theorem endCall_keeps {s : State} {f : Focus} {lanes : LaneMask} {vals : List Word} (hs : s.memWf) :
    (State.endCall s f lanes vals).memWf := by
  refine finishCall_keeps (modSplit_keeps ?_)
  split
  · split
    · exact logEffect_keeps hs
    · exact hs
  · exact hs

theorem performCall_keeps {s : State} {gang group : Nat} {allowed : Nat → Bool} {answers : Nat → List SysAnswer} (hs : s.memWf) :
    Found State.memWf (State.performCall s gang group allowed answers) := by
  unfold State.performCall
  split
  · split
    · refine .ite (fun _ => .none) fun _ => .ite (fun _ => .some (terminate_keeps (appendEvent_keeps hs))) fun _ => ?_
      exact (laneCalls_keeps hs).map fun _ h1 => endCall_keeps (eager_keeps h1)
    · exact .none
  · exact .none

/-! ## The operations of ErrorEvents -/

theorem zeroLane_keeps {s : State} {g : Gang} {slot lane : Nat} (hs : s.memWf) :
    (State.zeroLane s g slot lane).memWf := memWf_mk hs.1 (Memory.foldl_wf (fun _ _ h => Memory.clear_wf h _ _) hs.2 _)

theorem tidyGroup_keeps {s : State} {gang slot : Nat} (hs : s.memWf) :
    (State.tidyGroup s gang slot).memWf :=
  tidyWaiters_keeps (gang := gang) (slot := slot) (foldl_keeps hs fun _ _ ht => dropArrival_keeps ht)

theorem dropGroup_keeps {s : State} {gang slot : Nat} (hs : s.memWf) :
    (State.dropGroup s gang slot).memWf := by
  have h1 : ((s.retireGroup gang slot).tidyGroup gang slot).memWf := tidyGroup_keeps (retireGroup_keeps hs)
  unfold State.dropGroup
  dsimp only
  split
  · exact memWf_ite (liftHalt_keeps (by exact h1)) h1
  · exact h1

theorem killThread_keeps {s : State} {gang slot lane : Nat} (hs : s.memWf) :
    Found State.memWf (State.killThread s gang slot lane) := by
  unfold State.killThread
  split
  · exact .ite (fun _ => (settleStores_keeps (modGang_keeps (zeroLane_keeps hs))).map fun _ h2 => dropGroup_keeps h2) fun _ =>
      .some (deadlockCheck_keeps (tidyGroup_keeps (modGroup_keeps (modGang_keeps (zeroLane_keeps hs)))))
  · exact .none

theorem killGroup_keeps {s : State} {gang slot : Nat} (hs : s.memWf) :
    Found State.memWf (State.killGroup s gang slot) := by
  unfold State.killGroup
  split
  · exact .none
  · exact (settleStores_keeps (foldl_keeps hs fun _ _ ht => modGang_keeps ht)).map fun _ h2 => dropGroup_keeps h2

theorem orRollback_keeps {s : State} {g : Gang} {o : Option (State × Nat)} (hs : s.memWf) (ho : Found (fun y => y.1.memWf) o) :
    Found (fun y => y.1.memWf) (s.orRollback g o) := .ite (fun _ => .some (contain_keeps hs)) fun _ => ho

theorem strikeHalves_keeps {s : State} {pa die : Nat} {halves : List Nat} (hs : s.memWf) : (s.strikeHalves pa die halves).s.memWf := by
  have ht : (halves.foldl State.poisonOwned s).memWf := foldl_keeps hs fun _ _ h => poisonOwned_keeps h
  unfold State.strikeHalves
  split
  · exact terminateAll_keeps hs
  · dsimp only
    split
    · exact terminateAll_keeps ht
    · exact ht

theorem strikeGang_keeps {s : State} {g : Gang} (hs : s.memWf) : (s.strikeGang g).s.memWf := contain_keeps hs

theorem strikeIn_keeps {s : State} {g : Gang} {o : Option State} {out : Nat} (hs : s.memWf) (ho : Found State.memWf o) :
    Found (fun r => r.s.memWf) (s.strikeIn g o out) := (orRollback_keeps hs (ho.map fun _ h => h)).map fun _ h => h

theorem strikeWord_keeps {s : State} {core a : Nat} (hs : s.memWf) : Found (fun r => r.s.memWf) (s.strikeWord core a) := by
  unfold State.strikeWord
  split
  · exact .none
  · exact .ite (fun _ => strikeIn_keeps hs (killThread_keeps hs)) fun _ => .some (memWf_mk hs.1 (Memory.clear_wf hs.2 _ _))

theorem strikeHalf_keeps {s : State} {pa die : Nat} (hs : s.memWf) : (s.strikeHalf pa die).s.memWf := by
  unfold State.strikeHalf
  split
  · exact modCtx_keeps hs
  · exact strikeHalves_keeps hs

theorem strikeCache_keeps {s : State} {pa die : Nat} (hs : s.memWf) : (s.strikeCache pa die).s.memWf := by
  unfold State.strikeCache
  dsimp only
  split
  · exact strikeHalves_keeps (mergeLine_keeps (drawBytes_keeps hs))
  · exact drawBytes_keeps hs

theorem strikeEntry_keeps {s : State} {die i : Nat} (hs : s.memWf) : Found (fun r => r.s.memWf) (s.strikeEntry die i) := by
  unfold State.strikeEntry
  dsimp only
  split
  · exact .some (modDie_keeps hs)
  · exact .some (modDie_keeps hs)
  · intro r hr
    obtain ⟨e, -, rfl⟩ := Option.map_eq_some_iff.mp hr
    exact modCore_keeps hs

theorem found_map {α β : Type} {Q : β → Prop} {o : Option α} {f : α → β} (hf : ∀ a, Q (f a)) : Found Q (o.map f) := by
  cases o with
  | none => exact .none
  | some a => exact .some (hf a)

theorem found_bind_any {α β : Type} {Q : β → Prop} {o : Option α} {f : α → Option β} (hf : ∀ a, Found Q (f a)) : Found Q (o.bind f) := by
  cases o with
  | none => exact .none
  | some a => exact hf a

theorem strike_keeps {s : State} {e : EvError} {injected : Bool} (hs : s.memWf) : Found (fun r => r.s.memWf) (s.strike e injected) := by
  have hgang : ∀ o : Option Gang, Found (fun r => r.s.memWf) (o.map s.strikeGang) := fun _ => found_map fun _ => strikeGang_keeps hs
  have hunit : ∀ o : Option Gang,
      Found (fun r => r.s.memWf) (o.bind (fun g => if (s.reservation? g).isSome then some (s.strikeGang g) else none)) :=
    fun _ => found_bind_any fun _ => .ite (fun _ => .some (strikeGang_keeps hs)) fun _ => .none
  unfold State.strike
  split
  · exact .ite (fun _ => strikeWord_keeps hs) fun _ => .none
  · exact .ite (fun _ => .none) fun _ => hgang _
  · exact .ite (fun _ => .some (strikeHalf_keeps hs)) fun _ => .none
  · exact hunit _
  · exact hunit _
  · exact .ite (fun _ => .some (strikeCache_keeps hs)) fun _ => .none
  · exact .ite (fun _ => .some (strikeCache_keeps hs)) fun _ => .none
  · exact .ite (fun _ => .some (strikeHalves_keeps hs)) fun _ => .none
  · exact strikeEntry_keeps hs
  · exact .some hs
  · exact hgang _
  · exact found_bind_any fun _ => strikeIn_keeps hs (killGroup_keeps hs)
  · exact hgang _
  · exact .ite (fun _ => .some hs) fun _ => .none

theorem uncorrectable_keeps {s : State} {e : EvError} {cls : Nat} (hs : s.memWf) :
    Found State.memWf (State.uncorrectable s e cls) := (strike_keeps hs).map fun _ h => countError_keeps (logError_keeps h)

theorem correctable_keeps {s : State} {e : EvError} {cls : Nat} (hs : s.memWf) :
    (State.correctable s e cls).memWf := memWf_ite (logError_keeps (countError_keeps hs)) (countError_keeps hs)

theorem found_toOption {r : Except Stop State} (hr : Yields State.memWf State.memWf r) : Found State.memWf r.toOption := by
  cases r with
  | ok t => exact .some hr
  | error e => exact .none

theorem writeReplayed_keeps {s : State} {r : ReplayEntry} (hs : s.memWf) :
    Found State.memWf (State.writeReplayed s r) := by
  unfold State.writeReplayed
  dsimp only
  split
  · split
    · exact found_toOption (pushPort_keeps hs)
    · exact .some hs
  · exact .some (fillCarry_keeps hs)
  · exact .some (foldl_keeps hs fun _ _ ht => setLane_keeps ht)

theorem loseLine_keeps {s : State} {line : Nat} (hs : s.memWf) :
    (State.loseLine s line).memWf := terminateAll_keeps (memWf_ite hs hs)

/-! ## The operations of PairEvents -/

theorem matchSigs_keeps {s : State} {id : Nat} (hs : s.memWf) :
    Found State.memWf (State.matchSigs s id) := by
  unfold State.matchSigs
  split
  · exact .none
  · exact .ite (fun _ => .none) fun _ => found_map fun _ => modPair_keeps (modPair_keeps hs)

theorem pairRollback_keeps {s : State} {id : Nat} (hs : s.memWf) :
    Found State.memWf (State.pairRollback s id) := by
  unfold State.pairRollback
  split
  · exact .none
  · split
    · exact .some (terminate_keeps hs)
    · exact .ite (fun _ => .some (terminate_keeps hs)) fun _ => .none
    · exact .ite (fun _ => .some (rollback_keeps hs)) fun _ => .none

theorem fillGang_keeps {s : State} {id : Nat} {p : AreaParts} {gids : BitVec 16} {kept : Option Nat} (hs : s.memWf) :
    (State.fillGang s id p gids kept).memWf := by
  unfold State.fillGang
  split
  · exact hs
  · lift_lets
    intro a s1 s2 s3 s4
    have h1 : s1.memWf := memWf_mk hs.1 (Memory.writeBytes_wf (Memory.clear_wf hs.2 _ _) _ _)
    have h4 : s4.memWf := modGang_keeps (modPress_keeps (modCore_keeps h1))
    split
    · exact rebaseWindows_keeps h4
    · exact h4

theorem restoreCopy_keeps {s : State} {id : Nat} {damaged : Bool} {p : AreaParts} {base : Nat} (hs : s.memWf) :
    Found State.memWf (State.restoreCopy s id damaged p base) := by
  unfold State.restoreCopy
  split
  · exact .none
  next g hg => exact found_map fun _ => fillGang_keeps (lift_keeps (g := g) hs)

theorem restartPair_keeps {s : State} {g t : Gang} (hs : s.memWf) :
    Found State.memWf (State.restartPair s g t) :=
  found_map fun p => startTask_keeps (s := { (s.removeGang t).removeGang g with nextGang := g.id }) (t := g.task) (p := p)
    (removeGang_keeps (removeGang_keeps hs))

theorem pairRestore_keeps {s : State} {id : Nat} (hs : s.memWf) :
    Found State.memWf (State.pairRestore s id) := by
  unfold State.pairRestore
  split
  · exact .none
  · refine .ite (fun _ => .none) fun _ => ?_
    split
    · exact .none
    next s1 h1 =>
      have hk := fenceAll_keeps hs s1 h1
      refine .ite (fun _ => restartPair_keeps hk) fun _ => ?_
      split
      · exact .some (terminate_keeps hk)
      · split
        · exact .none
        next s2 h2 => exact (restoreCopy_keeps (restoreCopy_keeps hk s2 h2)).map fun _ h3 => modPair_keeps (modPair_keeps h3)

/-! ## The operations of RecoveryEvents -/

theorem sealImage_keeps {s : State} {e : EvSeal} (hs : s.memWf) :
    Found State.memWf (State.sealImage s e) := by
  unfold State.sealImage
  split
  · exact .none
  next w hw =>
    split
    · split
      · exact .none
      · refine .ite (fun _ => .none) fun _ => ?_
        have h1 : ({ s with collWaits := s.collWaits.erase w } : State).memWf := hs
        refine .ite (fun _ => .some ?_) fun _ => .some (modCtx_keeps (endSeal_keeps ?_))
        · exact memWf_ite h1 (modGroup_keeps (leaveColl_keeps h1))
        · exact memWf_ite h1 (modGroup_keeps (leaveColl_keeps h1))
    · exact .none

theorem commitSeal_keeps {s : State} {group : Nat} (hs : s.memWf) :
    Found State.memWf (State.commitSeal s group) := by
  unfold State.commitSeal
  split
  · exact .none
  · split
    · exact .none
    · split
      · exact .none
      · exact .some (endSeal_keeps (modCtx_keeps hs))

theorem revert_keeps {s : State} {lost : Nat → Bool} (hs : s.memWf) :
    (State.revert s lost).memWf := memWf_mk (Memory.foldl_wf (fun _ _ h => Memory.write_wf h _ _) hs.1 _) hs.2

theorem resetDie_keeps {s : State} {die : Nat} (hs : s.memWf) :
    (State.resetDie s die).memWf := revert_keeps (lost := fun _ => true) (terminateAll_keeps hs)

theorem resetBase_keeps {s : State} {j : Nat} (hs : s.memWf) :
    (State.resetBase s j).memWf := revert_keeps (terminateAll_keeps hs)

theorem resetIo_keeps {s : State} (hs : s.memWf) :
    (State.resetIo s).memWf := terminateAll_keeps hs

theorem resetChip_keeps {s : State} (hs : s.memWf) :
    (State.resetChip s).memWf := by
  unfold State.resetChip
  extract_lets s1
  have h1 : s1.memWf := resetIo_keeps (foldl_keeps (terminateAll_keeps hs) fun _ _ ht => resetDie_keeps ht)
  clear_value s1
  have h2 : (s1.revert fun _ => true).memWf := revert_keeps h1
  exact memWf_mk h2.1 h2.2

/-! ## The operations of Commands -/

theorem hostWrite_keeps {s : State} {a : Nat} {bs : List Byte} (hs : s.memWf) :
    (State.hostWrite s a bs).memWf := writePhys_keeps hs

theorem modFn_keeps {s : State} {fn : Nat} {h : Fn → Fn} (hs : s.memWf) :
    (State.modFn s fn h).memWf := hs

theorem complete_keeps {s : State} {fn : Nat} {r : CmdRec} {status result : Nat} (hs : s.memWf) :
    (State.complete s fn r status result).memWf := by
  unfold State.complete
  generalize hx : s.hostWrite _ _ = t
  have h1 : t.memWf := hx ▸ hostWrite_keeps hs
  exact memWf_ite h1 h1

theorem failed_keeps {s : State} {k : Nat} (hs : s.memWf) : Found (fun y => y.1.memWf) (failed s k) := .some hs

theorem done_keeps {s : State} {k : Nat} (hs : s.memWf) : Found (fun y => y.1.memWf) (done s k) := .some hs

theorem command_keeps {s : State} {fn opc : Nat} {effect : State → CmdRec → CmdStep} (hs : s.memWf)
    (he : ∀ t r, t.memWf → Found (fun y : State × Nat × Nat => y.1.memWf) (effect t r)) : Found State.memWf (s.command fn opc effect) := by
  unfold State.command
  split
  · exact .none
  · refine .ite (fun _ => .none) fun _ => .ite (fun _ => .some (complete_keeps (modFn_keeps hs))) fun _ => ?_
    exact (he _ _ (modFn_keeps hs)).map fun _ h => complete_keeps h

theorem ownContext_keeps {s : State} {fn tag : Nat} {next : Context → CmdStep} (hs : s.memWf)
    (hn : ∀ c, Found (fun y : State × Nat × Nat => y.1.memWf) (next c)) : Found (fun y => y.1.memWf) (s.ownContext fn tag next) := by
  refine .ite (fun _ => failed_keeps hs) fun _ => ?_
  split
  · exact failed_keeps hs
  · exact .ite (fun _ => hn _) fun _ => failed_keeps hs

theorem cutUnits_keeps {s : State} {ctx va size : Nat} (hs : s.memWf) :
    (State.cutUnits s ctx va size).memWf :=
  foldl_keeps hs fun _ _ ht => foldl_keeps ht fun _ _ hu => foldl_keeps hu fun _ _ hv => writeBack_keeps hv

theorem unlose_keeps {s : State} {a n : Nat} (hs : s.memWf) :
    (State.unlose s a n).memWf := hs

theorem unmapRun_keeps {s : State} {ctx root : Nat} {ls : List (Nat × Nat × Nat)} (hs : s.memWf) :
    Found State.memWf (State.unmapRun s ctx root ls) :=
  .ite (fun _ => .none) fun _ => .some (foldl_keeps hs fun _ _ ht => unlose_keeps (dropLeaf_keeps (cutUnits_keeps ht)))

theorem setPage_keeps {s : State} {a n : Nat} {bs : List Byte} (hs : s.memWf) :
    (State.setPage s a n bs).memWf := memWf_mk (Memory.writeBytes_wf (Memory.clear_wf hs.1 _ _) _ _) hs.2

theorem mapOne_keeps {s : State} {c : Context} {code bits : Nat} {p : Nat × Nat} (hs : s.memWf) :
    (State.mapOne s c code bits p).memWf := mapPage_keeps (memWf_ite (setPage_keeps hs) hs)

theorem destroyQueue_keeps {s : State} {q : QueueObj} (hs : s.memWf) :
    (State.destroyQueue s q).memWf := foldl_keeps (writePhys_keeps hs) fun _ _ ht => modSplit_keeps ht

/-! ## The operations of HostEvents -/

theorem windowFailed_keeps {s : State} {ctx kind : Nat} {va : Word} {err : Nat × Nat} (hs : s.memWf) :
    (State.windowFailed s ctx kind va err).memWf := hs

theorem deliverBytes_keeps {s : State} {dest len : Nat} {bs : List Byte} (hs : s.memWf) :
    Found (fun y => y.1.memWf) (State.deliverBytes s dest len bs) := .ite (fun _ => .none) fun _ => done_keeps (hostWrite_keeps hs)

/-! ## The operations of RestoreEvents -/

theorem pageFill_keeps {s : State} {a n : Nat} {bs : List Byte} {marks : List Nat} (hs : s.memWf) :
    (State.pageFill s a n bs marks).memWf := foldl_keeps (setPage_keeps hs) fun _ _ ht => poisonHalf_keeps ht

theorem pageBack_keeps {s : State} {c : Context} {p : ListedPage} {bs : List Byte} {marks : List Nat} (hs : s.memWf) :
    Found State.memWf (State.pageBack s c p bs marks) := by
  have hplace : ∀ t : State, t.memWf → Found State.memWf ((t.freeFrame (pageBytes p.code)).map (fun f =>
      (t.mapPage c.root p.va f p.code 0x0E c.tag).pageFill f (pageBytes p.code) bs marks)) :=
    fun t ht => found_map fun _ => pageFill_keeps (mapPage_keeps ht)
  unfold State.pageBack
  dsimp only
  split
  · exact .ite (fun _ => .some (pageFill_keeps (writeEntry_keeps hs))) fun _ => hplace _ (dropLeaf_keeps hs)
  · exact hplace s hs

theorem pagesBack_keeps {s : State} {c : Context} {marks : List Nat} {at_ : Nat} {ps : List ListedPage} {bs : List Byte} (hs : s.memWf) :
    Found State.memWf (State.pagesBack s c marks at_ ps bs) := by
  induction ps generalizing s at_ bs with
  | nil => exact .some hs
  | cons p ps ih =>
    unfold State.pagesBack
    dsimp only
    split
    · exact .none
    next s1 h1 => exact ih (pageBack_keeps hs s1 h1)

theorem zeroPages_keeps {s : State} {c : Context} (hs : s.memWf) :
    (State.zeroPages s c).memWf := foldl_keeps hs fun _ _ ht => memWf_mem (Memory.clear_wf ht.1 _ _) ht

theorem gangBack_keeps {s : State} {tag : Nat} {x : ListedGang} {kept : Option Nat} {skipped : Option Nat} (hs : s.memWf) :
    Found State.memWf (State.gangBack s tag x kept skipped) := by
  unfold State.gangBack
  split
  · exact .some hs
  next p hp =>
    dsimp only
    split
    · exact .none
    next place hp =>
      have h1 : ∀ n, (({ s with nextGang := n } : State).startTask { p.task with ctx := tag } place).memWf := fun n => startTask_keeps hs
      refine .some (foldl_keeps ?_ fun _ _ ht => modGang_keeps (fillGang_keeps ht))
      exact memWf_mk (h1 _).1 (h1 _).2

theorem gangsBack_keeps {s : State} {tag : Nat} {bases : List (Nat × Nat)} {skipped : Option Nat} {xs : List ListedGang} (hs : s.memWf) :
    Found State.memWf (State.gangsBack s tag bases skipped xs) := by
  induction xs generalizing s with
  | nil => exact .some hs
  | cons x xs ih =>
    unfold State.gangsBack
    split
    · exact .none
    next s1 h1 => exact ih (gangBack_keeps hs s1 h1)

theorem bringBack_keeps {s : State} {c : Context} {h : HeldGen} {replaced : Bool} {skipped : Option Nat} (hs : s.memWf) :
    Found State.memWf (State.bringBack s c h replaced skipped) := by
  unfold State.bringBack
  dsimp only
  split
  · exact .none
  next s1 h1 =>
    have hk := pagesBack_keeps (memWf_ite (zeroPages_keeps hs) hs) s1 h1
    refine (gangsBack_keeps (modCtx_keeps hk)).map fun s3 h3 => ?_
    split
    · exact appendEvent_keeps h3
    · exact h3

end Sys2Proof.Proofs.Canonical
end

section
/-! PROOFS. every instruction keeps memory and the vats in canonical form (O60) -/


namespace Sys2Proof.Proofs.Canonical
open Sys2Proof Sys2Proof.Machine Sys2Proof.Claims
open Sys2Proof.Proofs.Yield (Yields Yields.ok Yields.fault Yields.stall Yields.bind Yields.map Yields.mono Yields.ite OfBytes Beyond)

section
variable {s : State}

/-! ## Issue -/

section
variable {i : Instr} {need : Need} {body : Iss → Except Stop State}

theorem issue_goesOn (hs : s.memWf) (hb : ∀ c : Iss, c.s.memWf → Yields State.memWf State.memWf (body c)) :
    GoesOn State.memWf (issue i need body s) :=
  fun _ ht => Yield.issue_keeps memWf_ofBytes.beyond hs (fun c _ hc => hb c hc) ht

theorem issueJump_goesOn (hs : s.memWf) (hb : ∀ c : Iss, c.s.memWf → Yields State.memWf State.memWf (body c)) :
    GoesOn State.memWf (issueJump i need body s) :=
  fun _ ht => Yield.issueJump_keeps memWf_ofBytes.beyond hs (fun c _ hc => hb c hc) ht

theorem issueWait_goesOn (hs : s.memWf) (hb : ∀ c : Iss, c.s.memWf → Yields State.memWf State.memWf (body c)) :
    GoesOn State.memWf (issueWait i need body s) :=
  fun _ ht => Yield.issueWait_keeps memWf_ofBytes.beyond hs (fun c _ hc => hb c hc) ht

theorem event_goesOn {o : Option State} (hs : s.memWf) (ho : Found State.memWf o) : GoesOn State.memWf (happens s o) :=
  happens_keeps memWf_ofBytes.beyond hs ho

end

/-! ## The arithmetic families -/

theorem uBin_keeps {i : Instr} {op : IntOp} {x : UBin} (hs : s.memWf) : GoesOn State.memWf (uBin i op x s) :=
  issue_goesOn hs fun _ hc => .ok (deliverS_keeps hc)

theorem uUn_keeps {i : Instr} {op : UnOp} {x : UUn} (hs : s.memWf) : GoesOn State.memWf (uUn i op x s) :=
  issue_goesOn hs fun _ hc => .ok (deliverS_keeps hc)

theorem uMove_keeps {i : Instr} {d b : SReg} (hs : s.memWf) : GoesOn State.memWf (uMove i d b s) :=
  issue_goesOn hs fun _ hc => .ok (deliverS_keeps hc)

theorem execUset_keeps {x : USet} (hs : s.memWf) : GoesOn State.memWf (execUset x s) :=
  issue_goesOn hs fun _ hc => own_keeps (.ok (writeU_keeps hc))

theorem execUsel_keeps {x : USel} (hs : s.memWf) : GoesOn State.memWf (execUsel x s) :=
  issue_goesOn hs fun _ hc => .ok (deliverS_keeps hc)

theorem execUbfx_keeps {x : UBfx} (hs : s.memWf) : GoesOn State.memWf (execUbfx x s) :=
  issue_goesOn hs fun _ hc => own_keeps (.ok (deliverS_keeps hc))

theorem execUbfi_keeps {x : UBfi} (hs : s.memWf) : GoesOn State.memWf (execUbfi x s) :=
  issue_goesOn hs fun _ hc => own_keeps (.ok (deliverS_keeps hc))

theorem execUli_keeps {x : ULit} (hs : s.memWf) : GoesOn State.memWf (execUli x s) :=
  issue_goesOn hs fun _ hc => .ok (deliverS_keeps hc)

theorem vBin_keeps {i : Instr} {op : IntOp} {x : VBin} (hs : s.memWf) : GoesOn State.memWf (vBin i op x s) :=
  issue_goesOn hs fun _ hc => (takeTy_keeps hc).bind fun _ h1 => (takeSrc_keeps h1).bind fun _ h2 => deliverV_keeps h2

theorem vUn_keeps {i : Instr} {op : UnOp} {x : VUn} (hs : s.memWf) : GoesOn State.memWf (vUn i op x s) :=
  issue_goesOn hs fun _ hc => (takeTy_keeps hc).bind fun _ h1 => deliverV_keeps h1

theorem execVbfx_keeps {x : VBfx} (hs : s.memWf) : GoesOn State.memWf (execVbfx x s) :=
  issue_goesOn hs fun _ hc => own_keeps ((takeTy_keeps hc).bind fun _ h1 => deliverV_keeps h1)

theorem execVbfi_keeps {x : VBfi} (hs : s.memWf) : GoesOn State.memWf (execVbfi x s) :=
  issue_goesOn hs fun _ hc => own_keeps ((takeTy_keeps hc).bind fun _ h1 => (takeSrc_keeps h1).bind fun _ h2 => deliverV_keeps h2)

theorem execVset_keeps {x : VSetI} (hs : s.memWf) : GoesOn State.memWf (execVset x s) :=
  issue_goesOn hs fun _ hc => own_keeps ((takeTy_keeps hc).bind fun _ h1 => (takeSrc_keeps h1).bind fun _ h2 => deliverP_keeps h2)

theorem execVsel_keeps {x : VPredI} (hs : s.memWf) : GoesOn State.memWf (execVsel x s) :=
  issue_goesOn hs fun _ hc => (takeTy_keeps hc).bind fun _ h1 => (takeSrc_keeps h1).bind fun _ h2 => deliverV_keeps h2

theorem execVaddc_keeps {x : VPredI} (hs : s.memWf) : GoesOn State.memWf (execVaddc x s) :=
  issue_goesOn hs fun _ hc => (takeTy_keeps hc).bind fun _ h1 => (takeSrc_keeps h1).bind fun _ h2 =>
    (deliverV_keeps h2).bind fun _ h3 => .ok (writePred_keeps h3)

theorem execVidx_keeps {x : VIdxI} (hs : s.memWf) : GoesOn State.memWf (execVidx x s) := issue_goesOn hs fun _ hc => deliverV_keeps hc

theorem execVmad_keeps {x : VTri} (hs : s.memWf) : GoesOn State.memWf (execVmad x s) :=
  issue_goesOn hs fun _ hc => (takeTy_keeps hc).bind fun _ h1 => (takeSrc_keeps h1).bind fun _ h2 =>
    (takeTy_keeps h2).bind fun _ h3 => deliverV_keeps h3

theorem execVdot4_keeps {x : VTri} (hs : s.memWf) : GoesOn State.memWf (execVdot4 x s) :=
  issue_goesOn hs fun _ hc => (takeTy_keeps hc).bind fun _ h1 => (takeSrc_keeps h1).bind fun _ h2 =>
    (takeTy_keeps h2).bind fun _ h3 => deliverV_keeps h3

theorem vMove_keeps {i : Instr} {x : VMovI} (hs : s.memWf) : GoesOn State.memWf (vMove i x s) :=
  issue_goesOn hs fun _ hc => (takeSrc_keeps hc).bind fun _ h1 => deliverV_keeps h1

theorem execVrng_keeps {x : VRngI} (hs : s.memWf) : GoesOn State.memWf (execVrng x s) :=
  issue_goesOn hs fun _ hc => own_keeps ((deliverV_keeps hc).bind fun _ h1 => storeV_keeps h1)

theorem fBin_keeps {i : Instr} {op : FOp} {x : FBin} (hs : s.memWf) : GoesOn State.memWf (fBin i op x s) :=
  issue_goesOn hs fun _ hc => (takeTy_keeps hc).bind fun _ h1 => (takeSrc_keeps h1).bind fun _ h2 => deliverV_keeps h2

theorem execFfma_keeps {x : FTri} (hs : s.memWf) : GoesOn State.memWf (execFfma x s) :=
  issue_goesOn hs fun _ hc => (takeTy_keeps hc).bind fun _ h1 => (takeSrc_keeps h1).bind fun _ h2 =>
    (takeTy_keeps h2).bind fun _ h3 => deliverV_keeps h3

theorem fUn_keeps {i : Instr} {h : FFmt → RoundMode → Bool → Nat → Nat} {dw : Bool} {x : FUn} (hs : s.memWf) :
    GoesOn State.memWf (fUn i h dw x s) :=
  issue_goesOn hs fun _ hc => (takeTy_keeps hc).bind fun _ h1 => deliverV_keeps h1

theorem execFabs_keeps {x : FUn} (hs : s.memWf) : GoesOn State.memWf (execFabs x s) := fUn_keeps hs

theorem execFneg_keeps {x : FUn} (hs : s.memWf) : GoesOn State.memWf (execFneg x s) := fUn_keeps hs

theorem execFclass_keeps {x : FUn} (hs : s.memWf) : GoesOn State.memWf (execFclass x s) := fUn_keeps hs

theorem execFrnd_keeps {x : FUn} (hs : s.memWf) : GoesOn State.memWf (execFrnd x s) := fUn_keeps hs

theorem execFrcpBase_keeps {x : BaseDA} (hs : s.memWf) : GoesOn State.memWf (execFrcpBase x s) := fUn_keeps hs

theorem execFrcpExt_keeps {x : FUn} (hs : s.memWf) : GoesOn State.memWf (execFrcpExt x s) := fUn_keeps hs

theorem execFrsq_keeps {x : FUn} (hs : s.memWf) : GoesOn State.memWf (execFrsq x s) := fUn_keeps hs

theorem execFsqrt_keeps {x : FUn} (hs : s.memWf) : GoesOn State.memWf (execFsqrt x s) := fUn_keeps hs

theorem execFexp2_keeps {x : FUn} (hs : s.memWf) : GoesOn State.memWf (execFexp2 x s) := fUn_keeps hs

theorem execFlog2_keeps {x : FUn} (hs : s.memWf) : GoesOn State.memWf (execFlog2 x s) := fUn_keeps hs

theorem execFsin_keeps {x : FUn} (hs : s.memWf) : GoesOn State.memWf (execFsin x s) := fUn_keeps hs

theorem execFcos_keeps {x : FUn} (hs : s.memWf) : GoesOn State.memWf (execFcos x s) := fUn_keeps hs

theorem execFtanh_keeps {x : FUn} (hs : s.memWf) : GoesOn State.memWf (execFtanh x s) := fUn_keeps hs

theorem execFset_keeps {x : VSetI} (hs : s.memWf) : GoesOn State.memWf (execFset x s) :=
  issue_goesOn hs fun _ hc => own_keeps ((takeTy_keeps hc).bind fun _ h1 => (takeSrc_keeps h1).bind fun _ h2 => deliverP_keeps h2)

theorem fConvert_keeps {i : Instr} {good : Bool} {x : FCvtI} (hs : s.memWf) : GoesOn State.memWf (fConvert i good x s) :=
  issue_goesOn hs fun _ hc => own_keeps ((takeTy_keeps hc).bind fun _ h1 => deliverV_keeps h1)

theorem execBcvt_keeps {x : BCvtI} (hs : s.memWf) : GoesOn State.memWf (execBcvt x s) :=
  issue_goesOn hs fun _ hc => .ite (fun _ => .fault) fun _ => (takeV_keeps hc).bind fun _ h1 =>
    (deliverV_keeps h1).bind fun _ h2 => .ok (deliverS_keeps h2)

/-! ## Lanes, partitions and control -/

/-- A membership instruction keeps the invariant when its effect does. -/
theorem arrive_keeps {i : Instr} {need : Need} {mask : MaskSrc} {effect : Iss → State → Except Stop State} (hs : s.memWf)
    (he : ∀ c t, t.memWf → Yields State.memWf State.memWf (effect c t)) : GoesOn State.memWf (arrive i need mask effect s) := by
  refine issueWait_goesOn hs fun c hc => ?_
  refine .ite (fun _ => .ite (fun _ => .fault) fun _ => .ite (fun _ => .fault) fun _ => (he _ _ hc).map fun _ h => advance_keeps h) fun _ => ?_
  refine .ite (fun _ => .fault) fun _ => .ite (fun _ => .fault) fun _ => .ite (fun _ => ?_) fun _ => .ok (mergeAt_keeps hc)
  exact (he _ _ (memWf_ite hc (mergeAt_keeps hc))).map fun _ h => advance_keeps h

theorem execVote_keeps {x : VoteI} (hs : s.memWf) : GoesOn State.memWf (execVote x s) := arrive_keeps hs fun _ _ => voteEffect_keeps

theorem execShfl_keeps {x : ShflI} (hs : s.memWf) : GoesOn State.memWf (execShfl x s) := arrive_keeps hs fun _ _ => shflEffect_keeps

theorem execRedux_keeps {x : ReduxI} (hs : s.memWf) : GoesOn State.memWf (execRedux x s) := arrive_keeps hs fun _ _ => reduxEffect_keeps

theorem execScan_keeps {x : ScanI} (hs : s.memWf) : GoesOn State.memWf (execScan x s) := arrive_keeps hs fun _ _ => scanEffect_keeps

theorem execSync_keeps {x : SyncI} (hs : s.memWf) : GoesOn State.memWf (execSync x s) := arrive_keeps hs fun _ _ => syncEffect_keeps

theorem execFfs_keeps {x : FfsI} (hs : s.memWf) : GoesOn State.memWf (execFfs x s) :=
  issue_goesOn hs fun _ hc => (takeTy_keeps hc).bind fun _ h1 => deliverV_keeps h1

theorem execSetpart_keeps {x : SetPartI} (hs : s.memWf) : GoesOn State.memWf (execSetpart x s) :=
  issue_goesOn hs fun _ hc => .ok (modSplit_keeps hc)

theorem execLmask_keeps {x : LMaskI} (hs : s.memWf) : GoesOn State.memWf (execLmask x s) := issue_goesOn hs fun _ hc => deliverV_keeps hc

theorem execBra_keeps {x : BraI} (hs : s.memWf) : GoesOn State.memWf (execBra x s) := issueJump_goesOn hs fun _ hc => goLanes_keeps hc

theorem execBrc_keeps {x : BrcI} (hs : s.memWf) : GoesOn State.memWf (execBrc x s) := issueJump_goesOn hs fun _ hc => goLanes_keeps hc

theorem execUbrc_keeps {x : UBrcI} (hs : s.memWf) : GoesOn State.memWf (execUbrc x s) := issueJump_goesOn hs fun _ hc => goLanes_keeps hc

theorem execJmp_keeps {x : JmpI} (hs : s.memWf) : GoesOn State.memWf (execJmp x s) := issueJump_goesOn hs fun _ hc => goLanes_keeps hc

theorem execCall_keeps {x : CallI} (hs : s.memWf) : GoesOn State.memWf (execCall x s) :=
  issueJump_goesOn hs fun _ hc => (putVec_keeps hc).bind fun _ h1 => goLanes_keeps h1

theorem execRet_keeps {x : RetI} (hs : s.memWf) : GoesOn State.memWf (execRet x s) := issueJump_goesOn hs fun _ hc => goLanes_keeps hc

theorem execMerge_keeps {x : BraI} (hs : s.memWf) : GoesOn State.memWf (execMerge x s) :=
  issue_goesOn hs fun _ hc => .ite (fun _ => .fault) fun _ =>
    .ok (memWf_ite (modSplit_keeps hc) (modCore_keeps (modSplit_keeps hc)))

theorem becomeBody_keeps {i : Instr} {carry : Nat} {b : VSrc} (hs : s.memWf) : GoesOn State.memWf (becomeBody i carry b s) := by
  refine issueWait_goesOn hs fun c hc => .ite (fun _ => .fault) fun _ => .ite (fun _ => .stall) fun _ => .ite (fun _ => .stall) fun _ =>
    .ite (fun _ => .fault) fun _ => (takeSrc_keeps hc).bind fun y h1 => ?_
  dsimp only
  split
  · exact .fault
  · split
    · exact .fault
    · exact .ite (fun _ => .stall) fun _ => .ok (modCore_keeps (modGroup_keeps h1))

theorem execGsync_keeps (hs : s.memWf) : GoesOn State.memWf (execGsync s) :=
  issueWait_goesOn hs fun _ hc => .ite (fun _ => .fault) fun _ => .ite (fun _ => .fault) fun _ => .ok (modGroup_keeps hc)

theorem execYield_keeps (hs : s.memWf) : GoesOn State.memWf (execYield s) := issue_goesOn hs fun _ hc => .ok (modSplit_keeps hc)

theorem execNopBase_keeps (hs : s.memWf) : GoesOn State.memWf (execNopBase s) := issue_goesOn hs fun _ hc => .ok hc

theorem execNopExt_keeps (hs : s.memWf) : GoesOn State.memWf (execNopExt s) := issue_goesOn hs fun _ hc => .ok hc

theorem setFmt_keeps {i : Instr} {b : USrc} (hs : s.memWf) : GoesOn State.memWf (setFmt i b s) :=
  issue_goesOn hs fun _ hc => .ite (fun _ => .ok (modSplit_keeps hc)) fun _ => .fault

theorem execGetfmt_keeps {x : DstS} (hs : s.memWf) : GoesOn State.memWf (execGetfmt x s) := issue_goesOn hs fun _ hc => .ok (putUni_keeps hc)

theorem execGetsr_keeps {x : GetSrI} (hs : s.memWf) : GoesOn State.memWf (execGetsr x s) := by
  unfold execGetsr
  split
  · exact issue_goesOn hs fun _ hc => .ite (fun _ => .stall) fun _ => putVec_keeps hc
  next d _ =>
    refine issue_goesOn hs fun c hc => ?_
    have hfinish : ∀ (v : Word) (t : State), t.memWf →
        (if x.clr then (putUni c t d v).modGroup c.f.gang c.f.group (fun g => { g with ucflag := false }) else putUni c t d v).memWf :=
      fun v t ht => memWf_ite (modGroup_keeps (putUni_keeps ht)) (putUni_keeps ht)
    exact .ite (fun _ => Yield.pairLoad_keeps memWf_ofBytes.beyond hc (fun t ht => .ok ht) fun vs t ht => .ok (hfinish _ t ht))
      fun _ => .ok (hfinish _ _ hc)

theorem execSetprio_keeps {x : SetPrioI} (hs : s.memWf) : GoesOn State.memWf (execSetprio x s) :=
  issue_goesOn hs fun _ hc => .ok (modGroup_keeps hc)

end

section
variable {s : State}

/-- A check that passes leads on to what follows it. -/
theorem Passes.next {α β : Type} {Q : β → Prop} {r : Except Stop α} {f : α → Except Stop β} (h : Passes r)
    (hf : ∀ a, Yields State.memWf Q (f a)) : Yields State.memWf Q (r >>= f) := Yields.bind h fun a _ => hf a

theorem stop_keeps {α β : Type} {Q : α → Prop} {R : β → Prop} {r : Except Stop α} {e : Stop} (he : r = .error e)
    (h : Yields State.memWf Q r) : Yields State.memWf R (.error e) := by
  rw [he] at h
  exact h

/-- A check made under a condition leads on to what follows it. -/
theorem Passes.guard {β : Type} {Q : β → Prop} {p : Prop} [Decidable p] {r : Except Stop PUnit} {f : PUnit → Except Stop β} (h : Passes r)
    (hf : ∀ u, Yields State.memWf Q (f u)) : Yields State.memWf Q (if p then r >>= f else f ⟨⟩) := .ite (fun _ => h.next hf) fun _ => hf _

/-! ## Loads, stores and atomics -/

theorem loadVec_keeps {i : Instr} {x : LdI} (hs : s.memWf) : GoesOn State.memWf (loadVec i x s) :=
  issue_goesOn hs fun _ hc => (takeBase_keeps hc).bind fun _ h1 => (takeIndex_keeps h1).bind fun _ h2 =>
    loadBody_keeps hc h2 fun _ _ _ ht => finishLoad_keeps ht

theorem execLdu_keeps {x : LdUI} (hs : s.memWf) : GoesOn State.memWf (execLdu x s) :=
  issue_goesOn hs fun _ hc => loadBody_keeps hc hc fun _ _ _ ht => .ok (finishUniform_keeps ht)

theorem storeVec_keeps {i : Instr} {x : LdI} (hs : s.memWf) : GoesOn State.memWf (storeVec i x s) :=
  issue_goesOn hs fun _ hc => (takeBase_keeps hc).bind fun _ h1 => (takeIndex_keeps h1).bind fun _ h2 =>
    (takeTy_keeps h2).bind fun _ h3 => storeBody_keeps hc h3

theorem execStu_keeps {x : LdUI} (hs : s.memWf) : GoesOn State.memWf (execStu x s) := issue_goesOn hs fun _ hc => storeBody_keeps hc hc

theorem execAtom_keeps {x : AtomI} (hs : s.memWf) : GoesOn State.memWf (execAtom x s) := by
  refine issue_goesOn hs fun c hc => (takeBase_keeps hc).bind fun y1 h1 => (takeSrc_keeps h1).bind fun y2 h2 =>
    (takeIndex_keeps h2).bind fun y3 h3 => ?_
  dsimp only
  split
  · exact (takeTy_keeps h3).bind fun _ h4 => atomBody_keeps hc h4 fun _ _ _ ht => finishLoad_keeps ht
  · exact Yields.bind (Q := fun y : State × (Nat → Word) => y.1.memWf) (.ok h3) fun _ h4 =>
      atomBody_keeps hc h4 fun _ _ _ ht => finishLoad_keeps ht

theorem execAtomu_keeps {x : AtomUI} (hs : s.memWf) : GoesOn State.memWf (execAtomu x s) :=
  issue_goesOn hs fun _ hc => atomBody_keeps hc hc fun _ _ _ ht => .ok (finishUniform_keeps ht)

theorem execRed_keeps {x : RedI} (hs : s.memWf) : GoesOn State.memWf (execRed x s) := by
  refine issue_goesOn hs fun c hc => (takeBase_keeps hc).bind fun _ h1 => (takeSrc_keeps h1).bind fun _ h2 => (takeIndex_keeps h2).bind fun y h3 => ?_
  refine (Yield.checkAccesses_keeps memWf_ofBytes hc _ _).bind fun ps _ => (Yield.roomFor_keeps _).bind fun _ _ => ?_
  have hfull : ∀ t : State, t.memWf → ∀ b : Bool, Yields State.memWf State.memWf (if b then .ok t else becomeNR c t false) :=
    fun t ht b => .ite (fun _ => .ok ht) fun _ => becomeNR_keeps hc ht
  refine .ite (fun _ => ?_) fun _ => ?_
  · refine (Yield.readyVat_keeps _ _).bind fun _ _ => (afterFences_keeps h3).bind fun _ h4 => (releaseFirst_keeps h4).bind fun _ h5 =>
      (pairVat_keeps h5).bind fun t h6 => ?_
    refine .ite (fun _ => .ok (updateBase_keeps (modGang_keeps h6))) fun _ => (hfull t h6 _).bind fun _ h7 => ?_
    exact .ok (addStore_keeps (updateBase_keeps (atomFold_keeps h7)))
  · refine (Yield.checkWatch_keeps _ _ _).bind fun _ _ => (touch_keeps h3).bind fun _ h4 => ?_
    refine Yield.pairRun_keeps memWf_ofBytes.beyond hc h4 (fun t ht => .ite (fun _ => ?_) fun _ => ?_) fun _ t ht => .ok (updateBase_keeps ht)
    · exact (releaseFirst_keeps ht).bind fun _ h5 => .ok (modGang_keeps h5)
    · exact (hfull t ht _).bind fun _ h5 => .ok (addStore_keeps (fenceStores_keeps h5))

theorem execOapp_keeps {x : OAppI} (hs : s.memWf) : GoesOn State.memWf (execOapp x s) := by
  refine issue_goesOn hs fun c hc => (takeTy_keeps hc).bind fun _ h1 => (Yield.checkAccesses_keeps memWf_ofBytes hc _ _).bind fun ps _ => ?_
  refine .ite (fun _ => .fault) fun _ => (Yield.checkWatch_keeps _ _ _).bind fun _ _ => (touch_keeps h1).bind fun _ h2 => ?_
  dsimp only
  split
  · exact .fault
  · exact Yield.pairRun_keeps memWf_ofBytes.beyond hc h2
      (fun t ht => (afterFences_keeps ht).bind fun _ h3 => .ok (layElems_keeps (modGang_keeps (liftElems_keeps h3))))
      fun _ t ht => .ok (modGang_keeps ht)

theorem execPref_keeps {x : LineI} (hs : s.memWf) : GoesOn State.memWf (execPref x s) :=
  issue_goesOn hs fun _ hc => (takeBase_keeps hc).bind fun _ h1 => (takeIndex_keeps h1).bind fun _ h2 => .ok h2

theorem execCflush_keeps {x : LineI} (hs : s.memWf) : GoesOn State.memWf (execCflush x s) :=
  issue_goesOn hs fun _ hc => (takeBase_keeps hc).bind fun _ h1 => (takeIndex_keeps h1).bind fun _ h2 =>
    (Yield.checkAccesses_keeps memWf_ofBytes hc _ _).bind fun _ _ => (Yield.roomFor_keeps _).bind fun _ _ =>
      (touch_keeps h2).bind fun _ h3 => .ok (addStore_keeps (dropHost_keeps h3))

theorem execFence_keeps {x : FenceI} (hs : s.memWf) : GoesOn State.memWf (execFence x s) := by
  refine issue_goesOn hs fun c hc => .ite (fun _ => (releaseFirst_keeps hc).bind fun _ h1 => .ok (makeDurable_keeps h1)) fun _ => ?_
  split
  · exact .ok (fenceStores_keeps hc)
  · exact .ok hc
  · exact releaseFirst_keeps hc

theorem execIfence_keeps (hs : s.memWf) : GoesOn State.memWf (execIfence s) :=
  issue_goesOn hs fun _ hc => .ite (fun _ => .ok hc) fun _ => .stall

theorem execSetmod_keeps {x : SetModI} (hs : s.memWf) : GoesOn State.memWf (execSetmod x s) :=
  issue_goesOn hs fun _ hc => .ite (fun _ => .fault) fun _ => .ite (fun _ => .fault) fun _ => .ok (writeU_keeps hc)

/-! ## The vat -/

theorem execStmap_keeps {x : StMapI} (hs : s.memWf) : GoesOn State.memWf (execStmap x s) := by
  refine issue_goesOn hs fun c hc => .ite (fun _ => .fault) fun _ => .ite (fun _ => .fault) fun _ => .ite (fun _ => .fault) fun _ =>
    .ite (fun _ => .fault) fun _ => ?_
  dsimp only
  split
  · exact xlatFault_keeps hc
  · split
    · exact xlatFault_keeps hc
    · exact (touch_keeps hc).bind fun _ h1 => .ok (modCore_keeps h1)

theorem execStunmap_keeps {x : DstS} (hs : s.memWf) : GoesOn State.memWf (execStunmap x s) :=
  issue_goesOn hs fun _ hc => stashRange_passes.next fun _ => writeBackAll_keeps hc fun _ ht => modCore_keeps ht

theorem execStwb_keeps {x : DstS} (hs : s.memWf) : GoesOn State.memWf (execStwb x s) :=
  issue_goesOn hs fun _ hc => stashRange_passes.next fun _ => writeBackAll_keeps hc fun _ ht =>
    foldl_keeps ht fun _ _ hu => setStashLine_keeps hu

theorem execStdrop_keeps {x : DstS} (hs : s.memWf) : GoesOn State.memWf (execStdrop x s) :=
  issue_goesOn hs fun _ hc => stashRange_passes.next fun _ => .ok (modCore_keeps (foldl_keeps hc fun _ _ ht => setStashLine_keeps ht))

theorem execSwinit_keeps {x : SwInitI} (hs : s.memWf) : GoesOn State.memWf (execSwinit x s) :=
  issue_goesOn hs fun _ hc => syncCheck_passes.next fun _ => .ite (fun _ => .fault) fun _ => syncReady_passes.next fun _ =>
    .ok (syncStep_keeps (putSync_keeps hc))

theorem execSwarrive_keeps {x : SwI} (hs : s.memWf) : GoesOn State.memWf (execSwarrive x s) :=
  issue_goesOn hs fun _ hc => syncCheck_passes.next fun _ => .ite (fun _ => .fault) fun _ => syncReady_passes.next fun _ =>
    (releaseFirst_keeps hc).bind fun _ h1 => .ok (syncStep_keeps (putSync_keeps h1))

theorem execSwexpect_keeps {x : SwI} (hs : s.memWf) : GoesOn State.memWf (execSwexpect x s) :=
  issue_goesOn hs fun _ hc => syncCheck_passes.next fun _ => .ite (fun _ => .fault) fun _ => syncReady_passes.next fun _ =>
    .ok (syncStep_keeps (putSync_keeps hc))

theorem execSwwait_keeps {x : SwWaitI} (hs : s.memWf) : GoesOn State.memWf (execSwwait x s) :=
  issueJump_goesOn hs fun _ hc => syncCheck_passes.next fun _ =>
    .ite (fun _ => Yield.pairLoad_keeps memWf_ofBytes.beyond hc (fun _ ht => .ok ht) fun _ _ ht => .ok (advance_keeps (writeU_keeps ht)))
      fun _ => syncReady_passes.next fun _ => .ok (park_keeps (putSync_keeps hc))

theorem execWait_keeps {x : WaitI} (hs : s.memWf) : GoesOn State.memWf (execWait x s) :=
  issue_goesOn hs fun _ hc => .ite (fun _ => .ok hc) fun _ => .stall

theorem execLdt_keeps {x : LdtI} (hs : s.memWf) : GoesOn State.memWf (execLdt x s) := by
  refine issue_goesOn hs fun c hc => (tileCheck_passes hc).next fun xs => (Yield.roomFor_keeps _).bind fun _ _ => ?_
  refine .ite (fun _ => .stall) fun _ => (releaseFirst_keeps hc).bind fun _ h1 => (touch_keeps h1).bind fun _ h2 => ?_
  refine .ite (fun _ => .ok (addLoad_keeps h2)) fun _ => ?_
  refine Yield.pairLoad_keeps memWf_ofBytes.beyond h2 (fun t ht => .ite (fun _ => .stall) fun _ => .ok (reachAll_keeps ht)) fun vs t ht => ?_
  refine .ok (addLoad_keeps ?_)
  have h3 := fun f : State → Nat → State => fun hf => foldl_keeps (f := f) (xs := List.range (8 * (x.n1.val + 1))) ht hf
  split
  · exact foldl_keeps (h3 _ fun _ _ hu => putTileLine_keeps hu) fun _ _ hu => post_keeps hu
  · exact h3 _ fun _ _ hu => putTileLine_keeps hu

theorem execStt_keeps {x : SttI} (hs : s.memWf) : GoesOn State.memWf (execStt x s) := by
  refine issue_goesOn hs fun c hc => (tileCheck_passes hc).next fun xs => (Yield.roomFor_keeps _).bind fun _ _ => ?_
  refine .ite (fun _ => .stall) fun _ => (touch_keeps hc).bind fun _ h1 => ?_
  exact Yield.pairRun_keeps memWf_ofBytes.beyond hc h1 (fun _ ht => .ok (addStore_keeps ht)) fun _ _ ht => .ok ht

theorem execCqcfg_keeps {x : CqCfgI} (hs : s.memWf) : GoesOn State.memWf (execCqcfg x s) := by
  refine issue_goesOn hs fun c hc => .ite (fun _ => .fault) fun _ => .ite (fun _ => .fault) fun _ => .ite (fun _ => .fault) fun _ => ?_
  split
  · exact .ite (fun _ => .stall) fun _ => .ok (modGroup_keeps hc)
  · exact .ok (modGroup_keeps hc)

/-! ## The engines -/

theorem execCopy_keeps {x : CopyI} (hs : s.memWf) : GoesOn State.memWf (execCopy x s) := by
  refine issue_goesOn hs fun c hc => sideRegion_passes.next fun dr => sideRegion_passes.next fun sr => checkSync_passes.next fun _ => ?_
  refine .ite (fun _ => .fault) fun _ => fitsExtent_passes.next fun _ => fitsExtent_passes.next fun _ => (sidePages_passes hc).next fun _ => ?_
  exact (sidePages_passes hc).next fun _ => (touchRange_keeps hc).bind fun _ h1 => engineRun_keeps hc h1 fun _ ht => startCommand_keeps ht

theorem execGather_keeps {x : GatherI} (hs : s.memWf) : GoesOn State.memWf (execGather x s) :=
  issue_goesOn hs fun _ hc => (listChecks_keeps hc).bind fun _ h1 => (listXlat_passes hc).next fun _ => stashGuard_passes.next fun _ =>
    (touchRange_keeps h1).bind fun _ h2 => engineRun_keeps hc h2 fun _ ht => startCommand_keeps ht

theorem execScatter_keeps {x : ScatterI} (hs : s.memWf) : GoesOn State.memWf (execScatter x s) :=
  issue_goesOn hs fun _ hc => (listChecks_keeps hc).bind fun _ h1 => stashGuard_passes.next fun _ => (listXlat_passes hc).next fun _ =>
    (touchRange_keeps h1).bind fun _ h2 => engineRun_keeps hc h2 fun _ ht => startCommand_keeps ht

theorem execScatadd_keeps {x : ScatAddI} (hs : s.memWf) : GoesOn State.memWf (execScatadd x s) :=
  issue_goesOn hs fun _ hc => (listChecks_keeps hc).bind fun _ h1 => stashGuard_passes.next fun _ => (listXlat_passes hc).next fun _ =>
    (touchRange_keeps h1).bind fun _ h2 => (readStash_keeps h2).bind fun _ h3 => engineRun_keeps hc h3 fun _ ht => startCommand_keeps ht

theorem execStrcfg_keeps {x : StrCfgI} (hs : s.memWf) : GoesOn State.memWf (execStrcfg x s) := by
  unfold execStrcfg
  generalize crc32c = crc
  generalize streamRecOk = good
  refine issue_goesOn hs fun c hc => Passes.guard .fault fun _ => placeCheck_passes.next fun _ => stashGuard_passes.next fun _ =>
    (releaseFirst_keeps hc).bind fun _ h0 => (readStash_keeps h0).bind fun t h1 => Passes.guard .fault fun _ => Passes.guard .fault fun _ =>
    placeCheck_passes.next fun _ => ?_
  extract_lets st free started
  have hstarted : ∀ u, Yields State.memWf State.memWf (started u) := fun _ => (Yield.roomFor_keeps _).bind fun _ _ =>
    Yield.pairRun_keeps memWf_ofBytes.beyond hc h1 (fun _ ht => .ok ht) fun _ _ ht =>
      .ok (writeU_keeps (memWf_ite (setStream_keeps (haltStream_keeps ht)) ht))
  split
  · exact placeCheck_passes.next hstarted
  · exact hstarted ()

/-- The port of a group stands again at the head of its ring. -/
theorem startPort_keeps {s : State} {gang e : Nat} {p : Option (Nat × Nat)} (hs : s.memWf) :
    (match p with
      | some (slot, q) => setPort s gang slot q (some { engine := e, line := 0 })
      | none => s).memWf := by
  cases p with
  | none => exact hs
  | some y => exact setPort_keeps hs

theorem execStrgo_keeps {x : StrGoI} (hs : s.memWf) : GoesOn State.memWf (execStrgo x s) := by
  refine issue_goesOn hs fun c hc => holdsEngine_passes.next fun _ => ?_
  refine Passes.guard stashGuard_passes fun _ => (listXlat_passes hc).next fun xs => Passes.guard stashGuard_passes fun _ =>
    (touchRange_keeps hc).bind fun _ h1 => engineRun_keeps hc h1 fun t ht => ?_
  refine memWf_ite (setStream_keeps (modCpcs_keeps ht)) (setStream_keeps ?_)
  have h3 := fun p => startPort_keeps (gang := c.f.gang) (e := x.e.val) (p := p)
    (modCpcs_keeps (gang := c.f.gang) (gid := c.grp.gid.toNat) (h := (· + 1)) ht)
  dsimp only
  split
  · exact startPort_keeps (h3 _)
  · exact h3 _

theorem execStrhalt_keeps {x : StrHaltI} (hs : s.memWf) : GoesOn State.memWf (execStrhalt x s) :=
  issue_goesOn hs fun _ hc => holdsEngine_passes.next fun _ => engineRun_keeps hc hc fun _ ht =>
    memWf_ite (freeStream_keeps ht) (haltStream_keeps ht)

theorem execSpbind_keeps {x : SpBindI} (hs : s.memWf) : GoesOn State.memWf (execSpbind x s) := by
  refine issue_goesOn hs fun c hc => ?_
  dsimp only
  split
  · split
    next t ht => exact stop_keeps ht holdsEngine_passes
    · exact .ite (fun _ => .fault) fun _ => .ok (putStream_keeps (setPort_keeps hc))
  · split
    · exact .fault
    · exact .ok (putStream_keeps (setPort_keeps hc))

theorem execSlotsig_keeps {x : SlotSigI} (hs : s.memWf) : GoesOn State.memWf (execSlotsig x s) :=
  issue_goesOn hs fun _ hc => holdsEngine_passes.next fun _ => .ite (fun _ => .fault) fun _ => .ite (fun _ => .fault) fun _ =>
    (releaseFirst_keeps hc).bind fun _ h1 => .ok (putStream_keeps h1)

theorem execColl_keeps {x : CollI} (hs : s.memWf) : GoesOn State.memWf (execColl x s) := by
  refine issueJump_goesOn hs fun c hc => .ite (fun _ => .fault) fun _ => ?_
  dsimp only
  split
  · exact .fault
  · refine .ite (fun _ => .fault) fun _ => .ite (fun _ => .fault) fun _ => .ite (fun _ => .fault) fun _ => (xlatRange_passes hc).next fun _ =>
      (xlatRange_passes hc).next fun _ => (touchRange_keeps hc).bind fun _ h1 => (Yield.roomFor_keeps _).bind fun _ _ =>
      (releaseFirst_keeps h1).bind fun _ h2 => ?_
    exact Yield.pairRun_keeps memWf_ofBytes.beyond hc h2 (fun _ ht => .ok (by exact park_keeps ht)) fun _ _ ht => .ok (advance_keeps ht)

end

section
variable {s : State}

/-! ## The press -/

theorem execMres_keeps {x : MResI} (hs : s.memWf) : GoesOn State.memWf (execMres x s) := by
  refine issue_goesOn hs fun c hc => Yield.pairLoad_keeps memWf_ofBytes.beyond hc (fun t ht => .ok (reserve_keeps ht)) fun vs t ht => ?_
  refine .ite (fun _ => .ite (fun _ => .ok (writeU_keeps (mresRefused_keeps ht))) fun _ => ?_) fun _ => .ok (writeU_keeps ht)
  exact .ite (fun _ => .ok (writeU_keeps (reserve_keeps ht))) fun _ => .stall

theorem execMrel_keeps (hs : s.memWf) : GoesOn State.memWf (execMrel s) := by
  refine issue_goesOn hs fun c hc => ?_
  split
  · exact .ok hc
  · exact .ite (fun _ => .ok (endRelease_keeps hc)) fun _ => modReservation_keeps hc

theorem execMstat_keeps {x : DstS} (hs : s.memWf) : GoesOn State.memWf (execMstat x s) :=
  issue_goesOn hs fun _ hc => Yield.pairLoad_keeps memWf_ofBytes.beyond hc (fun _ ht => .ok ht) fun _ _ ht => .ok (putUni_keeps ht)

theorem execMldb_keeps {x : MldbI} (hs : s.memWf) : GoesOn State.memWf (execMldb x s) :=
  issue_goesOn hs fun _ hc => collective_passes.next fun _ => reserved_passes.next fun _ => unitsOk_passes.next fun _ =>
    pressRegion_passes.next fun _ => pressRegion_passes.next fun _ => (enqueue_keeps hc).bind fun _ h1 => .ok (tagMoulds_keeps h1)

theorem execMmul_keeps {x : MMulI} (hs : s.memWf) : GoesOn State.memWf (execMmul x s) :=
  issue_goesOn hs fun _ hc => collective_passes.next fun _ => reserved_passes.next fun _ => unitsOk_passes.next fun _ =>
    pressRegion_passes.next fun _ => enqueue_keeps hc

theorem execMamov_keeps {x : MaMovI} (hs : s.memWf) : GoesOn State.memWf (execMamov x s) :=
  issue_goesOn hs fun _ hc => collective_passes.next fun _ => reserved_passes.next fun _ => unitsOk_passes.next fun _ =>
    pressRegion_passes.next fun _ => .ite (fun _ => enqueue_keeps hc) fun _ => enqueue_keeps hc

theorem execMzero_keeps {x : MZeroI} (hs : s.memWf) : GoesOn State.memWf (execMzero x s) :=
  issue_goesOn hs fun _ hc => collective_passes.next fun _ => reserved_passes.next fun _ => unitsOk_passes.next fun _ => enqueue_keeps hc

theorem fenceBody_keeps {i : Instr} (hs : s.memWf) : GoesOn State.memWf (fenceBody i s) :=
  issue_goesOn hs fun _ hc => .ite (fun _ => .stall) fun _ => .ok (modGroup_keeps hc)

theorem execMwait_keeps {x : MWaitI} (hs : s.memWf) : GoesOn State.memWf (execMwait x s) :=
  issue_goesOn hs fun _ hc => .ite (fun _ => .stall) fun _ => .ok hc

theorem execPrune_keeps {x : PruneI} (hs : s.memWf) : GoesOn State.memWf (execPrune x s) :=
  issue_goesOn hs fun _ hc => collective_passes.next fun _ => reserved_passes.next fun _ => pressRegion_passes.next fun _ =>
    pressRegion_passes.next fun _ => pressRegion_passes.next fun _ => .ite (fun _ => .fault) fun _ =>
      (enqueue_keeps hc).bind fun _ h1 => .ok (modGroup_keeps h1)

theorem execMldbs_keeps {x : MldbsI} (hs : s.memWf) : GoesOn State.memWf (execMldbs x s) :=
  issue_goesOn hs fun _ hc => collective_passes.next fun _ => reserved_passes.next fun _ => pressRegion_passes.next fun _ =>
    pressRegion_passes.next fun _ => pressRegion_passes.next fun _ => (validated_keeps hc).bind fun _ h1 => .ite (fun _ => .fault) fun _ =>
      unitsOk_passes.next fun _ => .ite (fun _ => .fault) fun _ => (enqueue_keeps h1).bind fun _ h2 => .ok (tagMoulds_keeps h2)

theorem execMmuls_keeps {x : MmulsI} (hs : s.memWf) : GoesOn State.memWf (execMmuls x s) :=
  issue_goesOn hs fun _ hc => collective_passes.next fun _ => reserved_passes.next fun _ => unitsOk_passes.next fun _ =>
    pressRegion_passes.next fun _ => pressRegion_passes.next fun _ => (validated_keeps hc).bind fun _ h1 => .ite (fun _ => .fault) fun _ =>
      unitsOk_passes.next fun _ => .ite (fun _ => .fault) fun _ => enqueue_keeps h1

theorem execMhdr_keeps {x : MHdrI} (hs : s.memWf) : GoesOn State.memWf (execMhdr x s) := by
  refine issue_goesOn hs fun c hc => pressRegion_passes.next fun m => (validate_keeps hc).bind fun y h1 => ?_
  dsimp only
  split
  · exact .ite (fun _ => .ok (putUni_keeps h1)) fun _ => .fault
  · exact .ok (putUni_keeps h1)

/-! ## Tasks, queues and futures -/

/-- Where an effect is performed, linked or held, the invariant is kept. -/
theorem effectOr_keeps {c : Iss} {t : State} {e : Effect} {wait : State → State} (hc : c.s.memWf) (ht : t.memWf)
    (hw : ∀ u : State, u.memWf → (wait u).memWf) :
    Yields State.memWf (fun y : State × Option (List Word) => y.1.memWf) (performedOr (doEffect c t e wait)) :=
  performedOr_keeps (doEffect_keeps hc ht hw)

theorem execQpush_keeps {x : PushI} (hs : s.memWf) : GoesOn State.memWf (execQpush x s) :=
  issueJump_goesOn hs fun _ hc => (openObject_keeps hc).bind fun _ h1 => Yield.pairRun_keeps memWf_ofBytes.beyond hc h1
    (fun _ ht => (openQueue_keeps hc ht).bind fun _ h2 => checkQueue_passes.next fun _ => .ite (fun _ => .fault) fun _ =>
      effectOr_keeps hc h2 fun _ hu => link_keeps hu) fun _ _ ht => .ok (advance_keeps ht)

/-- A pop waits or takes, after the check of its object. -/
theorem popBody_keeps {i : Instr} {x : PopI} {check : Iss → Hdr → Except Stop Unit} {wait : Bool} (hs : s.memWf)
    (hcheck : ∀ c h, Passes (check c h)) : GoesOn State.memWf (popBody i x check wait s) := by
  have hremove := @removeItems_keeps
  unfold popBody
  generalize removeItems = remove at hremove ⊢
  exact issueJump_goesOn hs fun _ hc => (openObject_keeps hc).bind fun _ h1 => Yield.pairRun_keeps memWf_ofBytes.beyond hc h1
    (fun _ ht => (openQueue_keeps hc ht).bind fun _ h2 => (hcheck _ _).next fun _ => hremove hc h2) fun _ _ ht => .ok (receive_keeps ht)

theorem execQpop_keeps {x : PopI} (hs : s.memWf) : GoesOn State.memWf (execQpop x s) := popBody_keeps hs fun _ _ => checkQueue_passes

theorem execQtry_keeps {x : PopI} (hs : s.memWf) : GoesOn State.memWf (execQtry x s) := popBody_keeps hs fun _ _ => checkQueue_passes

theorem execWlpop_keeps {x : PopI} (hs : s.memWf) : GoesOn State.memWf (execWlpop x s) := popBody_keeps hs fun _ _ => checkWork_passes

theorem execQlen_keeps {x : DaI} (hs : s.memWf) : GoesOn State.memWf (execQlen x s) := issue_goesOn hs fun _ hc => readHeader_keeps hc

theorem execQstat_keeps {x : QStatI} (hs : s.memWf) : GoesOn State.memWf (execQstat x s) := by
  refine issue_goesOn hs fun c hc => ?_
  split
  · exact readHeader_keeps hc
  · exact Yield.pairRun_keeps memWf_ofBytes.beyond hc hc (fun _ ht => .ok ht) fun _ _ ht => .ok (putUni_keeps ht)

theorem execTspawn_keeps {x : AbI} (hs : s.memWf) : GoesOn State.memWf (execTspawn x s) := by
  unfold execTspawn
  generalize State.recordGood = good
  refine issueJump_goesOn hs fun c hc => (openObject_keeps hc).bind fun _ h1 => Yield.pairRun_keeps memWf_ofBytes.beyond hc h1
    (fun _ ht => (openQueue_keeps hc ht).bind fun _ h2 => checkQueue_passes.next fun _ => recordRegion_passes.next fun _ =>
      (readStash_keeps h2).bind fun _ h3 => ?_) fun _ _ ht => .ok (advance_keeps ht)
  split
  · exact .fault
  · exact .ite (fun _ => effectOr_keeps hc h3 fun _ hu => link_keeps hu) fun _ => .fault

theorem execTdone_keeps {x : SrcA} (hs : s.memWf) : GoesOn State.memWf (execTdone x s) :=
  issueJump_goesOn hs fun _ hc => (objectAt_passes hc).next fun _ => (openObject_keeps hc).bind fun _ h1 =>
    Yield.pairRun_keeps memWf_ofBytes.beyond hc h1
      (fun _ ht => (reachObject_keeps ht).bind fun _ h2 => effectOr_keeps hc h2 fun _ hu => hu) fun _ _ ht => .ok (advance_keeps ht)

theorem insertBody_keeps {i : Instr} {x : PushI} {keep : State → Nat → List Word → List Word} {effect : Nat → List Word → Effect}
    (hs : s.memWf) : GoesOn State.memWf (insertBody i x keep effect s) :=
  issueJump_goesOn hs fun _ hc => (openObject_keeps hc).bind fun _ h1 => Yield.pairRun_keeps memWf_ofBytes.beyond hc h1
    (fun _ ht => (openQueue_keeps hc ht).bind fun _ h2 => checkWork_passes.next fun _ => .ite (fun _ => .fault) fun _ =>
      effectOr_keeps hc h2 fun _ hu => hu) fun _ _ ht => .ok (advance_keeps ht)

theorem execWlpush_keeps {x : PushI} (hs : s.memWf) : GoesOn State.memWf (execWlpush x s) := insertBody_keeps hs

theorem execWlins_keeps {x : PushI} (hs : s.memWf) : GoesOn State.memWf (execWlins x s) := insertBody_keeps hs

theorem execFutset_keeps {x : FutSetI} (hs : s.memWf) : GoesOn State.memWf (execFutset x s) :=
  issueJump_goesOn hs fun _ hc => (objectAt_passes hc).next fun _ => (openObject_keeps hc).bind fun _ h1 =>
    Yield.pairRun_keeps memWf_ofBytes.beyond hc h1
      (fun _ ht => (reachObject_keeps ht).bind fun _ h2 => .ite (fun _ => .fault) fun _ => effectOr_keeps hc h2 fun _ hu => hu)
      fun _ _ ht => .ok (advance_keeps ht)

theorem execFutget_keeps {x : DaI} (hs : s.memWf) : GoesOn State.memWf (execFutget x s) :=
  issueJump_goesOn hs fun _ hc => (openObject_keeps hc).bind fun _ h1 => Yield.pairRun_keeps memWf_ofBytes.beyond hc h1
    (fun _ ht => (reachObject_keeps ht).bind fun _ h2 => .ite (fun _ => .ok h2) fun _ => (becomeNR_keeps hc h2).bind fun _ h3 =>
      .ite (fun _ => .ok h3) fun _ => .ok (link_keeps h3)) fun _ _ ht => .ok (advance_keeps (putUni_keeps ht))

/-! ## The system -/

theorem execBkptBase_keeps (hs : s.memWf) : GoesOn State.memWf (execBkptBase s) := issue_goesOn hs fun _ _ => codeTrap_keeps

theorem execBkptExt_keeps {x : CodeI} (hs : s.memWf) : GoesOn State.memWf (execBkptExt x s) := issue_goesOn hs fun _ _ => codeTrap_keeps

theorem execTrap_keeps {x : CodeI} (hs : s.memWf) : GoesOn State.memWf (execTrap x s) := issue_goesOn hs fun _ _ => codeTrap_keeps

theorem execSyscall_keeps {x : SyscallI} (hs : s.memWf) : GoesOn State.memWf (execSyscall x s) :=
  issueJump_goesOn hs fun _ hc => (releaseFirst_keeps hc).bind fun _ h1 => Yield.pairRun_keeps memWf_ofBytes.beyond hc h1
    (fun _ ht => .ok (park_keeps ht)) fun _ _ ht => .ok (finishCall_keeps ht)

theorem execEret_keeps (hs : s.memWf) : GoesOn State.memWf (execEret s) := by
  refine issueJump_goesOn hs fun c hc => .ite (fun _ => .stall) fun _ => Yield.pairLoad_keeps memWf_ofBytes.beyond hc (fun t ht => ?_)
    fun vs t ht => .ok (leaveHandler_keeps ht)
  dsimp only
  split
  · exact .stall
  next s1 h1 => exact .ite (fun _ => .stall) fun _ => .ok (reachAll_keeps (performFor_keeps ht s1 h1))

theorem execCsrr_keeps {x : CsrRI} (hs : s.memWf) : GoesOn State.memWf (execCsrr x s) := by
  refine issue_goesOn hs fun c hc => ?_
  split
  · exact .ok (putUni_keeps hc)
  · exact .fault

theorem execCsrw_keeps {x : CsrWI} (hs : s.memWf) : GoesOn State.memWf (execCsrw x s) := by
  refine issue_goesOn hs fun c hc => ?_
  split
  · exact .ok (modGang_keeps hc)
  · exact .fault

theorem execNotAnInstruction_keeps (hs : s.memWf) : GoesOn State.memWf (execNotAnInstruction s) := by
  unfold execNotAnInstruction
  intro t
  split
  · exact fun h => nomatch h
  · split
    · split
      · split
        · rintro ⟨⟩
          exact countIssue_keeps (advance_keeps hs)
        · rintro ⟨⟩
          exact raiseTrap_keeps hs
      · rintro ⟨⟩
        exact hs
    · exact fun h => nomatch h

theorem execChkmode_keeps {x : ChkModeI} (hs : s.memWf) : GoesOn State.memWf (execChkmode x s) :=
  issue_goesOn hs fun _ hc => .ite (fun _ => .fault) fun _ => .ok (modGang_keeps hc)

theorem execRpmark_keeps {x : AbI} (hs : s.memWf) : GoesOn State.memWf (execRpmark x s) :=
  issueWait_goesOn hs fun _ hc => .ite (fun _ => .fault) fun _ => .ite (fun _ => .fault) fun _ => arriveMark_keeps hc

theorem execRpget_keeps {x : RpGetI} (hs : s.memWf) : GoesOn State.memWf (execRpget x s) :=
  issue_goesOn hs fun _ hc => .ite (fun _ => .fault) fun _ => .ok (putUni_keeps hc)

theorem execCkseal_keeps {x : CkSealI} (hs : s.memWf) : GoesOn State.memWf (execCkseal x s) := by
  refine issueJump_goesOn hs fun c hc => .ite (fun _ => .fault) fun _ => ?_
  dsimp only
  split
  · exact .fault
  · refine .ite (fun _ => .fault) fun _ => .ite (fun _ => .fault) fun _ => (Yield.roomFor_keeps _).bind fun _ _ =>
      (releaseFirst_keeps hc).bind fun _ h1 => ?_
    exact Yield.pairRun_keeps memWf_ofBytes.beyond hc h1 (fun _ ht => .ok (by exact modCpcs_keeps (park_keeps ht)))
      fun _ _ ht => .ok (advance_keeps (writeU_keeps ht))

theorem execFinj_keeps {x : FinjI} (hs : s.memWf) : GoesOn State.memWf (execFinj x s) :=
  issue_goesOn hs fun _ hc => .ite (fun _ => .fault) fun _ => checkTarget_passes.next fun _ => .ok (memWf_ite (modGang_keeps hc) hc)

end

end Sys2Proof.Proofs.Canonical
end

section
/-! PROOFS. every event and every step keeps memory and the vats in canonical form (O60) -/


namespace Sys2Proof.Proofs.Canonical
open Sys2Proof Sys2Proof.Machine Sys2Proof.Claims
open Sys2Proof.Proofs.Yield (Yields Yields.ok Yields.fault Yields.stall Yields.bind Yields.map Yields.mono Yields.ite OfBytes Beyond)

section
variable {s : State}

/-! ## Events of memory, engines and the press -/

theorem execWalkStart_keeps {e : EvDie} (hs : s.memWf) : GoesOn State.memWf (execWalkStart e s) :=
  event_goesOn hs (.ite (fun _ => .some (modDie_keeps hs)) fun _ => .none)

theorem execWalkComplete_keeps {e : EvDieIdx} (hs : s.memWf) : GoesOn State.memWf (execWalkComplete e s) := by
  refine event_goesOn hs ?_
  split
  · exact .none
  · exact .ite (fun _ => .none) fun _ => .some (memWf_ite (modDie_keeps hs) (answerWalks_keeps (fillDieTlb_keeps (modDie_keeps hs))))

theorem execLoadComplete_keeps {e : EvGroupIdx} (hs : s.memWf) : GoesOn State.memWf (execLoadComplete e s) := by
  refine event_goesOn hs ?_
  split
  · split
    · exact .none
    · refine .ite (fun _ => .none) fun _ => .some (fillTile_keeps (modGroup_keeps ?_))
      split
      · exact fillCarry_keeps hs
      · exact foldl_keeps hs fun _ _ ht => setLane_keeps ht
  · exact .none

theorem execStorePerformed_keeps {e : EvGroupIdx} (hs : s.memWf) : GoesOn State.memWf (execStorePerformed e s) := by
  refine event_goesOn hs ?_
  split
  · exact .none
  · split
    · exact .none
    · have h2 : ∀ p h, ((s.performOne e.gang (s.gangDie e.gang) p).modGroup e.gang e.group h).memWf :=
        fun _ _ => modGroup_keeps (performOne_keeps hs)
      exact .ite (fun _ => .none) fun _ => .some (eager_keeps (memWf_ite (endLost_keeps (h2 _ _)) (h2 _ _)))

theorem execUpdateOnlyMerge_keeps {e : EvLine} (hs : s.memWf) : GoesOn State.memWf (execUpdateOnlyMerge e s) :=
  event_goesOn hs (.ite (fun _ => .some (mergeLine_keeps hs)) fun _ => .none)

theorem execRedUpdateArrival_keeps {e : EvGroupIdx} (hs : s.memWf) : GoesOn State.memWf (execRedUpdateArrival e s) := by
  refine event_goesOn hs ?_
  split
  · exact .none
  · refine .ite (fun _ => ?_) fun _ => ?_
    · split
      · exact .none
      · exact .ite (fun _ => .none) fun _ => .some (eager_keeps (endLost_keeps (modGroup_keeps (arriveUpdate_keeps hs))))
    · split
      · exact .none
      · exact (putUpdate_keeps hs).map fun _ h => eager_keeps (endLost_keeps h)

theorem execAppendElementWrite_keeps {e : EvGangIdx} (hs : s.memWf) : GoesOn State.memWf (execAppendElementWrite e s) := by
  refine event_goesOn hs ?_
  split
  · exact .none
  · refine .ite (fun _ => .none) fun _ => ?_
    dsimp only
    split
    · exact .none
    · exact .ite (fun _ => writeElem_keeps hs) fun _ => .none

theorem execDurableAcknowledge_keeps {e : EvHalf} (hs : s.memWf) : GoesOn State.memWf (execDurableAcknowledge e s) :=
  event_goesOn hs (.ite (fun _ => .some hs) fun _ => .none)

/-- A fold of writes leaves memory canonical. -/
theorem foldl_write_wf {α : Type} {key : α → Nat} {val : α → Byte} {xs : List α} {m : Memory} (h : m.wf = true) :
    (xs.foldl (fun (m : Memory) x => m.write (key x) (val x)) m).wf = true := by
  induction xs generalizing m with
  | nil => exact h
  | cons x xs ih => exact ih (Memory.write_wf h _ _)

theorem execPageMigration_keeps {e : EvMigratePage} (hs : s.memWf) : GoesOn State.memWf (execPageMigration e s) := by
  refine event_goesOn hs ?_
  split
  · exact .none
  · split
    · exact .none
    · refine .ite (fun _ => .none) fun _ => .some (writeEntry_keeps (dropLeaf_keeps (remapPhys_keeps ?_)))
      have h1 : ∀ ls : List Nat, (ls.foldl State.mergeLine s).memWf := fun _ => foldl_keeps hs fun _ _ ht => mergeLine_keeps ht
      exact memWf_mk (foldl_write_wf (Memory.clear_wf (Memory.clear_wf (h1 _).1 _ _) _ _)) (h1 _).2

theorem execEngineLineWrite_keeps {e : EvCmdLine} (hs : s.memWf) : GoesOn State.memWf (execEngineLineWrite e s) :=
  event_goesOn hs ((engineLine_keeps hs).map fun _ h => eager_keeps h)

theorem execLineRecall_keeps {e : EvCmdLine} (hs : s.memWf) : GoesOn State.memWf (execLineRecall e s) :=
  event_goesOn hs ((engineLine_keeps hs).map fun _ h => eager_keeps h)

theorem execEngineCommandComplete_keeps {e : EvCmd} (hs : s.memWf) : GoesOn State.memWf (execEngineCommandComplete e s) := by
  refine event_goesOn hs ?_
  split
  · exact .none
  · exact .ite (fun _ => .none) fun _ => .some (modCpcs_keeps (by exact hs))

theorem execFillSlotReady_keeps {e : EvCoreIdx} (hs : s.memWf) : GoesOn State.memWf (execFillSlotReady e s) := event_goesOn hs (fillSlot_keeps hs)

theorem execDrainSlotReturn_keeps {e : EvCoreIdx} (hs : s.memWf) : GoesOn State.memWf (execDrainSlotReturn e s) :=
  event_goesOn hs (drainSlot_keeps hs)

theorem execStreamLastElement_keeps {e : EvCoreIdx} (hs : s.memWf) : GoesOn State.memWf (execStreamLastElement e s) :=
  event_goesOn hs (.ite (fun _ => .some (haltStream_keeps hs)) fun _ => .none)

theorem execCollRendezvous_keeps {e : EvRendezvous} (hs : s.memWf) : GoesOn State.memWf (execCollRendezvous e s) :=
  event_goesOn hs (rendezvous_keeps hs)

theorem execSyncWordArrival_keeps {e : EvIdx} (hs : s.memWf) : GoesOn State.memWf (execSyncWordArrival e s) := by
  refine event_goesOn hs ?_
  split
  · exact .none
  · dsimp only
    split
    · exact .some hs
    · refine .ite (fun _ => .ite (fun _ => .none) fun _ => .some (syncArrive_keeps (by exact hs))) fun _ => .ite (fun _ => .none) fun _ => .some hs

theorem execStashWriteback_keeps {e : EvCoreIdx} (hs : s.memWf) : GoesOn State.memWf (execStashWriteback e s) := by
  refine event_goesOn hs ?_
  split
  · exact .none
  · exact .ite (fun _ => .none) fun _ => .some (eager_keeps (setStashLine_keeps (writeBack_keeps hs)))

theorem execTileOperationStart_keeps {e : EvGroup} (hs : s.memWf) : GoesOn State.memWf (execTileOperationStart e s) := by
  refine event_goesOn hs ?_
  split
  · split
    · exact .none
    · refine .ite (fun _ => .none) fun _ => .ite (fun _ => .some (startTile_keeps hs)) fun _ => .ite (fun _ => .none) fun _ => ?_
      split
      · exact .ite (fun _ => .some (startTile_keeps hs)) fun _ => .none
      · exact .none
  · exact .none

theorem execSharedAgeingServe_keeps {e : EvPress} (hs : s.memWf) : GoesOn State.memWf (execSharedAgeingServe e s) := by
  refine event_goesOn hs (.ite (fun _ => .none) fun _ t ht => ?_)
  obtain ⟨h, -, rfl⟩ := Option.map_eq_some_iff.mp ht
  exact startTile_keeps hs

theorem execTileOperationComplete_keeps {e : EvGroup} (hs : s.memWf) : GoesOn State.memWf (execTileOperationComplete e s) := by
  refine event_goesOn hs ?_
  split
  · split
    · exact .none
    · exact .ite (fun _ => .none) fun _ => .some (modGroup_keeps (runTile_keeps hs))
  · exact .none

theorem execReservationRelease_keeps {e : EvGang} (hs : s.memWf) : GoesOn State.memWf (execReservationRelease e s) := by
  refine event_goesOn hs ?_
  split
  · exact .none
  · split
    · exact .none
    · exact .ite (fun _ => .some (endRelease_keeps hs)) fun _ => .none

theorem execPressModeSwitch_keeps {e : EvPressMode} (hs : s.memWf) : GoesOn State.memWf (execPressModeSwitch e s) :=
  event_goesOn hs (.ite (fun _ => .some (modPress_keeps hs)) fun _ => .none)

/-! ## Events of splits, the deckle and the scheduler -/

theorem execSplitMerge_keeps {e : EvGroupIdx} (hs : s.memWf) : GoesOn State.memWf (execSplitMerge e s) :=
  event_goesOn hs (.ite (fun _ => .none) fun _ => .some (mergeAt_keeps hs))

theorem execReconvergence_keeps {e : EvGroupIdx} (hs : s.memWf) : GoesOn State.memWf (execReconvergence e s) :=
  event_goesOn hs (.ite (fun _ => reconvergeHandler_keeps hs) fun _ => reconverge_keeps hs)

theorem execMembershipComplete_keeps {e : EvGroup} (hs : s.memWf) : GoesOn State.memWf (execMembershipComplete e s) :=
  event_goesOn hs (completeMember_keeps hs)

theorem execDeckleBecome_keeps {e : EvCore} (hs : s.memWf) : GoesOn State.memWf (execDeckleBecome e s) := event_goesOn hs (become_keeps hs)

theorem execMaterialisation_keeps {e : EvGang} (hs : s.memWf) : GoesOn State.memWf (execMaterialisation e s) :=
  event_goesOn hs (nextRecord_keeps hs)

theorem execGsyncComplete_keeps {e : EvGang} (hs : s.memWf) : GoesOn State.memWf (execGsyncComplete e s) :=
  event_goesOn hs (finishBarrier_keeps hs)

theorem execTaskDispatch_keeps {e : EvDie} (hs : s.memWf) : GoesOn State.memWf (execTaskDispatch e s) := by
  unfold execTaskDispatch
  extract_lets die d lines fuel
  clear_value fuel
  exact event_goesOn hs (.ite (fun _ => .none) fun _ => dispatch_keeps hs)

theorem execEffectiveLevelRaise_keeps {e : EvIdx} (hs : s.memWf) : GoesOn State.memWf (execEffectiveLevelRaise e s) := by
  refine event_goesOn hs ?_
  split
  · exact .none
  · exact .ite (fun _ => .some (modQueue_keeps hs)) fun _ => .none

theorem execQueueHolding_keeps {e : EvIdx} (hs : s.memWf) : GoesOn State.memWf (execQueueHolding e s) := by
  unfold execQueueHolding
  refine event_goesOn hs ?_
  -- the kernel reduces what a match is made on, so that is made a variable
  obtain ⟨headRecord, hhead⟩ : ∃ f, f = s.headRecord := ⟨_, rfl⟩
  rw [← hhead]
  split
  · exact .none
  · split
    · exact .none
    · exact .ite (fun _ => .some (askMigration_keeps (modQueue_keeps hs))) fun _ => .none

theorem execGangMigration_keeps {e : EvGangCore} (hs : s.memWf) : GoesOn State.memWf (execGangMigration e s) := by
  refine event_goesOn hs ?_
  split
  · exact .none
  next g _ =>
    split
    · exact .none
    next core base _ =>
      refine .ite (fun _ => .none) fun _ => ?_
      have h1 : (((s.lift g).land g core base (s.heldBy g)).resume g.id).memWf := resume_keeps (land_keeps (lift_keeps hs))
      exact .some (memWf_mk h1.1 h1.2)

theorem execForwardedMessage_keeps {e : EvIdx} (hs : s.memWf) : GoesOn State.memWf (execForwardedMessage e s) := by
  refine event_goesOn hs ?_
  split
  · exact .none
  · dsimp only
    split
    · exact .none
    · exact .some hs

theorem execForwardingExpire_keeps {e : EvIdx} (hs : s.memWf) : GoesOn State.memWf (execForwardingExpire e s) := by
  refine event_goesOn hs ?_
  split
  · exact .none
  · exact .ite (fun _ => .some hs) fun _ => .none

theorem execSplitBoost_keeps {e : EvGroupIdx} (hs : s.memWf) : GoesOn State.memWf (execSplitBoost e s) := by
  refine event_goesOn hs ?_
  split
  · exact .none
  · exact .ite (fun _ => .some (modSplit_keeps hs)) fun _ => .none

theorem execPressWake_keeps {e : EvGroupIdx} (hs : s.memWf) : GoesOn State.memWf (execPressWake e s) := by
  refine event_goesOn hs ?_
  split
  · exact .none
  · dsimp only
    split
    · exact .ite (fun _ => .some hs) fun _ => .none
    · exact .none

theorem execHostPush_keeps {e : EvPush} (hs : s.memWf) : GoesOn State.memWf (execHostPush e s) := by
  refine event_goesOn hs (.ite (fun _ => .none) fun _ => ?_)
  split
  · exact .ite (fun _ => .none) fun _ => .some hs
  · split
    · exact .none
    · exact .ite (fun _ => .none) fun _ => .ite (fun _ => .some (bumpHdr_keeps hs)) fun _ =>
        .some (getD_keeps (bumpHdr_keeps hs) (pushOutside_keeps hs))

theorem execSuccessorPush_keeps {e : EvIdx} (hs : s.memWf) : GoesOn State.memWf (execSuccessorPush e s) := by
  refine event_goesOn hs ?_
  split
  · exact .none
  · dsimp only
    split
    · exact .some hs
    · refine .ite (fun _ => .none) fun _ => ?_
      have h2 : ∀ k l, ((({ s with succs := s.succs.eraseIdx e.idx } : State).reach k false).reach l true).memWf :=
        fun _ _ => reach_keeps (reach_keeps hs)
      split
      · exact .some (rejectRecord_keeps (h2 _ _))
      · exact .ite (fun _ => push_keeps (h2 _ _)) fun _ => .some (rejectRecord_keeps (h2 _ _))

end

section
variable {s : State}

/-! ## Events of traps, pre-emption and gangs -/

theorem execSkidEnd_keeps {e : EvGang} (hs : s.memWf) : GoesOn State.memWf (execSkidEnd e s) := by
  refine event_goesOn hs ?_
  split
  · exact .none
  · exact .ite (fun _ => .some (modGang_keeps hs)) fun _ => .none

theorem execHandlerDelivery_keeps {e : EvGang} (hs : s.memWf) : GoesOn State.memWf (execHandlerDelivery e s) := event_goesOn hs (deliver_keeps hs)

theorem execEzdenTrap_keeps {e : EvGang} (hs : s.memWf) : GoesOn State.memWf (execEzdenTrap e s) := event_goesOn hs (ezdenTrap_keeps hs)

theorem execPreemption_keeps {e : EvGang} (hs : s.memWf) : GoesOn State.memWf (execPreemption e s) := by
  refine event_goesOn hs ?_
  split
  · exact .none
  · exact .ite (fun _ => .some (modGang_keeps hs)) fun _ => .none

theorem execPreemptionComplete_keeps {e : EvGang} (hs : s.memWf) : GoesOn State.memWf (execPreemptionComplete e s) := by
  refine event_goesOn hs ?_
  split
  · exact .none
  · exact .ite (fun _ => .none) fun _ => (fenceGang_keeps hs).map fun _ h => modGang_keeps (withdrawAll_keeps h)

theorem execContextSwitch_keeps {e : EvCtx} (hs : s.memWf) : GoesOn State.memWf (execContextSwitch e s) :=
  event_goesOn hs (.ite (fun _ => .none) fun _ => .some
    (foldl_keeps (foldl_keeps hs fun _ _ ht => modGang_keeps ht) fun _ _ ht => getD_keeps ht (saveGang_keeps ht)))

theorem execContextRestore_keeps {e : EvCtx} (hs : s.memWf) : GoesOn State.memWf (execContextRestore e s) :=
  event_goesOn hs (.ite (fun _ => .none) fun _ => .some
    (foldl_keeps (foldl_keeps hs fun _ _ ht => resume_keeps ht) fun _ _ ht => getD_keeps ht (restoreGang_keeps ht)))

theorem execGangExit_keeps {e : EvGang} (hs : s.memWf) : GoesOn State.memWf (execGangExit e s) :=
  event_goesOn hs ((exitGang_keeps hs).map fun _ h => memWf_ite (foldl_keeps h fun _ _ ht => retryHolding_keeps ht) h)

theorem execGangKill_keeps {e : EvGang} (hs : s.memWf) : GoesOn State.memWf (execGangKill e s) := by
  refine event_goesOn hs fun t ht => ?_
  obtain ⟨g, -, rfl⟩ := Option.map_eq_some_iff.mp ht
  exact killGang_keeps hs

theorem execSyscallComplete_keeps {e : EvSyscall} (hs : s.memWf) : GoesOn State.memWf (execSyscallComplete e s) :=
  event_goesOn hs (performCall_keeps hs)

theorem execSyscallTimeout_keeps {e : EvGroup} (hs : s.memWf) : GoesOn State.memWf (execSyscallTimeout e s) :=
  event_goesOn hs (performCall_keeps hs)

/-! ## Events of errors, pairs and seals -/

theorem execUncorrectableError_keeps {e : EvError} (hs : s.memWf) : GoesOn State.memWf (execUncorrectableError e s) :=
  event_goesOn hs (uncorrectable_keeps hs)

theorem execCorrectableError_keeps {e : EvError} (hs : s.memWf) : GoesOn State.memWf (execCorrectableError e s) :=
  event_goesOn hs (.ite (fun _ => .some (correctable_keeps hs)) fun _ => .none)

theorem execInjectionFire_keeps {e : EvInject} (hs : s.memWf) : GoesOn State.memWf (execInjectionFire e s) := by
  refine event_goesOn hs ?_
  split
  · exact .none
  · split
    · exact .none
    · refine .ite (fun _ => .none) fun _ => ?_
      have h1 : (s.modGang e.gang (fun g => { g with injections := g.injections.eraseIdx e.idx })).memWf := modGang_keeps hs
      dsimp only
      split
      · exact .some h1
      · exact .ite (fun _ => .some (correctable_keeps h1)) fun _ => .ite (fun _ => uncorrectable_keeps h1) fun _ => .some h1

theorem execReplayQueueExecution_keeps {e : EvCoreIdx} (hs : s.memWf) : GoesOn State.memWf (execReplayQueueExecution e s) := by
  refine event_goesOn hs ?_
  split
  · exact .none
  · exact .ite (fun _ => .none) fun _ => (writeReplayed_keeps (modCore_keeps hs)).map fun _ h => countResolved_keeps h

theorem execPeerChipLoss_keeps {e : EvPeerLoss} (hs : s.memWf) : GoesOn State.memWf (execPeerChipLoss e s) :=
  event_goesOn hs (.ite (fun _ => .none) fun _ => .some
    (foldl_keeps (foldl_keeps (by exact hs) fun _ _ ht => endSeal_keeps ht) fun _ _ ht => loseLine_keeps ht))

theorem execHalufRetransmit_keeps {e : EvRetransmit} (hs : s.memWf) : GoesOn State.memWf (execHalufRetransmit e s) := by
  refine event_goesOn hs (.some (countError_keeps (logError_keeps ?_)))
  split
  · exact strikeHalves_keeps hs
  · exact hs

theorem execSignatureMatch_keeps {e : EvGang} (hs : s.memWf) : GoesOn State.memWf (execSignatureMatch e s) := event_goesOn hs (matchSigs_keeps hs)

theorem execPairRollback_keeps {e : EvGang} (hs : s.memWf) : GoesOn State.memWf (execPairRollback e s) := event_goesOn hs (pairRollback_keeps hs)

theorem execPairRestore_keeps {e : EvGang} (hs : s.memWf) : GoesOn State.memWf (execPairRestore e s) := event_goesOn hs (pairRestore_keeps hs)

theorem execCheckpointSeal_keeps {e : EvSeal} (hs : s.memWf) : GoesOn State.memWf (execCheckpointSeal e s) := event_goesOn hs (sealImage_keeps hs)

theorem execSealCommit_keeps {e : EvSealCommit} (hs : s.memWf) : GoesOn State.memWf (execSealCommit e s) := event_goesOn hs (commitSeal_keeps hs)

/-! ## Resets, the boot and the window -/

theorem execDieReset_keeps {e : EvReset} (hs : s.memWf) : GoesOn State.memWf (execDieReset e s) := by
  refine event_goesOn hs (.some ?_)
  split
  · exact resetDie_keeps hs
  · exact resetBase_keeps hs
  · exact resetIo_keeps hs

theorem execChipReset_keeps (hs : s.memWf) : GoesOn State.memWf (execChipReset s) := event_goesOn hs (.some (resetChip_keeps hs))

theorem execPerstDeassert_keeps {e : EvPerst} (hs : s.memWf) : GoesOn State.memWf (execPerstDeassert e s) :=
  event_goesOn hs (.ite (fun _ => .some hs) fun _ => .ite (fun _ => .some hs) fun _ => .none)

theorem execBootReady_keeps (hs : s.memWf) : GoesOn State.memWf (execBootReady s) :=
  event_goesOn hs (.ite (fun _ => .none) fun _ => .some (memWf_ite hs (addContext_keeps (by exact hs))))

theorem execBootTimeout_keeps {e : EvBoot} (hs : s.memWf) : GoesOn State.memWf (execBootTimeout e s) :=
  event_goesOn hs (.ite (fun _ => .some hs) fun _ => .none)

theorem execFunctionLevelReset_keeps {e : EvFn} (hs : s.memWf) : GoesOn State.memWf (execFunctionLevelReset e s) :=
  event_goesOn hs (.some (modFn_keeps hs))

theorem execHostBar2Read_keeps {e : EvRead} (hs : s.memWf) : GoesOn State.memWf (execHostBar2Read e s) := by
  refine event_goesOn hs (.ite (fun _ => .none) fun _ => ?_)
  split
  · exact .some hs
  · exact .some hs
  · exact .ite (fun _ => .none) fun _ => .some (reachAll_keeps hs)

theorem execHostBar2Write_keeps {e : EvWrite} (hs : s.memWf) : GoesOn State.memWf (execHostBar2Write e s) := by
  refine event_goesOn hs ?_
  split
  · exact .none
  · exact .some (windowFailed_keeps hs)
  · exact .ite (fun _ => .none) fun _ => .some (writePhys_keeps hs)

theorem execBar0OtherWrite_keeps {e : EvWrite} (hs : s.memWf) : GoesOn State.memWf (execBar0OtherWrite e s) := event_goesOn hs (.some hs)

theorem execInvalidCommandRecord_keeps {e : EvFn} (hs : s.memWf) : GoesOn State.memWf (execInvalidCommandRecord e s) := by
  refine event_goesOn hs (.ite (fun _ => .none) fun _ => ?_)
  split
  · exact .none
  · exact .ite (fun _ => .none) fun _ => .some (complete_keeps (modFn_keeps hs))

end

section
variable {s : State}

/-! ## Ezden's commands -/

theorem command_goesOn {fn opc : Nat} {effect : State → CmdRec → CmdStep} (hs : s.memWf)
    (he : ∀ t r, t.memWf → Found (fun y : State × Nat × Nat => y.1.memWf) (effect t r)) :
    GoesOn State.memWf (happens s (s.command fn opc effect)) :=
  event_goesOn hs (command_keeps hs he)

theorem execNegotiateFeatures_keeps {e : EvFn} (hs : s.memWf) : GoesOn State.memWf (execNegotiateFeatures e s) :=
  command_goesOn hs fun _ _ ht => .ite (fun _ => failed_keeps ht) fun _ => .ite (fun _ => failed_keeps ht) fun _ => done_keeps (modFn_keeps ht)

theorem execCreateContext_keeps {e : EvFn} (hs : s.memWf) : GoesOn State.memWf (execCreateContext e s) :=
  command_goesOn hs fun _ _ ht => .ite (fun _ => failed_keeps ht) fun _ => .ite (fun _ => failed_keeps ht) fun _ =>
    .ite (fun _ => failed_keeps ht) fun _ => done_keeps (modFn_keeps (addContext_keeps ht))

theorem execMap_keeps {e : EvFn} (hs : s.memWf) : GoesOn State.memWf (execMap e s) :=
  command_goesOn hs fun _ _ ht => ownContext_keeps ht fun _ => .ite (fun _ => failed_keeps ht) fun _ => .ite (fun _ => failed_keeps ht) fun _ =>
    .ite (fun _ => failed_keeps ht) fun _ => .ite (fun _ => failed_keeps ht) fun _ => done_keeps (foldl_keeps ht fun _ _ hu => mapOne_keeps hu)

theorem execUnmap_keeps {e : EvFn} (hs : s.memWf) : GoesOn State.memWf (execUnmap e s) := by
  refine command_goesOn hs fun t r ht => ownContext_keeps ht fun c => .ite (fun _ => failed_keeps ht) fun _ => ?_
  split
  · exact failed_keeps ht
  · exact (unmapRun_keeps ht).map fun _ h => h

theorem execLoadCode_keeps {e : EvFn} (hs : s.memWf) : GoesOn State.memWf (execLoadCode e s) := by
  refine command_goesOn hs fun t r ht => ownContext_keeps ht fun c => .ite (fun _ => failed_keeps ht) fun _ => ?_
  split
  · exact failed_keeps ht
  · exact .ite (fun _ => .none) fun _ => done_keeps (writePhys_keeps ht)

theorem execCreateQueueObject_keeps {e : EvFn} (hs : s.memWf) : GoesOn State.memWf (execCreateQueueObject e s) := by
  unfold execCreateQueueObject
  refine command_goesOn hs fun t r ht => ownContext_keeps ht fun c => .ite (fun _ => failed_keeps ht) fun _ =>
    .ite (fun _ => failed_keeps ht) fun _ => ?_
  split
  · refine .ite (fun _ => failed_keeps ht) fun _ => .ite (fun _ => failed_keeps ht) fun _ => .ite (fun _ => .none) fun _ => ?_
    extract_lets header q s1
    have h1 : s1.memWf := writePhys_keeps ht
    clear_value s1
    exact done_keeps (by exact h1)
  · exact failed_keeps ht
  · exact failed_keeps ht

theorem execDestroyQueueObject_keeps {e : EvFn} (hs : s.memWf) : GoesOn State.memWf (execDestroyQueueObject e s) := by
  refine command_goesOn hs fun t r ht => ?_
  split
  · exact failed_keeps ht
  · exact .ite (fun _ => .none) fun _ => done_keeps (destroyQueue_keeps ht)

theorem execDestroyContext_keeps {e : EvFn} (hs : s.memWf) : GoesOn State.memWf (execDestroyContext e s) := by
  refine command_goesOn hs fun t r ht => ownContext_keeps ht fun c => .ite (fun _ => .none) fun _ => ?_
  extract_lets ended ls
  have h1 : ended.memWf := foldl_keeps (terminate_keeps ht) fun _ _ hu => destroyQueue_keeps hu
  clear_value ended
  have h2 := unmapRun_keeps h1 (ctx := c.tag) (root := c.root) (ls := ls)
  split
  · exact .none
  next s2 hs2 => exact done_keeps (by exact h2 s2 hs2)

theorem execReadEnumerationTable_keeps {e : EvFn} (hs : s.memWf) : GoesOn State.memWf (execReadEnumerationTable e s) :=
  command_goesOn hs fun _ _ ht => deliverBytes_keeps ht

theorem execReadCounters_keeps {e : EvFn} (hs : s.memWf) : GoesOn State.memWf (execReadCounters e s) := by
  refine command_goesOn hs fun t r ht => ?_
  split
  · exact .ite (fun _ => failed_keeps ht) fun _ => deliverBytes_keeps ht
  · exact .ite (fun _ => failed_keeps ht) fun _ => deliverBytes_keeps ht
  · exact ownContext_keeps ht fun _ => deliverBytes_keeps ht
  · exact failed_keeps ht

theorem execSetPowerCap_keeps {e : EvFn} (hs : s.memWf) : GoesOn State.memWf (execSetPowerCap e s) :=
  command_goesOn hs fun _ _ ht => .ite (fun _ => failed_keeps ht) fun _ => done_keeps (by exact ht)

theorem execSetAgeingBlock_keeps {e : EvFn} (hs : s.memWf) : GoesOn State.memWf (execSetAgeingBlock e s) :=
  command_goesOn hs fun _ _ ht => .ite (fun _ => failed_keeps ht) fun _ => done_keeps (modDie_keeps ht)

theorem execConfigureParityGroup_keeps {e : EvParity} (hs : s.memWf) : GoesOn State.memWf (execConfigureParityGroup e s) :=
  command_goesOn hs fun _ _ ht => .ite (fun _ => failed_keeps ht) fun _ => .ite (fun _ => failed_keeps ht) fun _ => .ite (fun _ => .none) fun _ =>
    .ite (fun _ => failed_keeps ht) fun _ => .ite (fun _ => failed_keeps ht) fun _ => done_keeps (by exact ht)

theorem execAttest_keeps {e : EvFn} (hs : s.memWf) : GoesOn State.memWf (execAttest e s) :=
  command_goesOn hs fun _ _ ht => .ite (fun _ => .none) fun _ => done_keeps (hostWrite_keeps ht)

theorem execBindWindow_keeps {e : EvFn} (hs : s.memWf) : GoesOn State.memWf (execBindWindow e s) :=
  command_goesOn hs fun _ _ ht => ownContext_keeps ht fun _ => .ite (fun _ => failed_keeps ht) fun _ => done_keeps (modFn_keeps ht)

theorem execRestore_keeps {e : EvRestore} (hs : s.memWf) : GoesOn State.memWf (execRestore e s) := by
  refine command_goesOn hs fun t r ht => .ite (fun _ => failed_keeps ht) fun _ => ownContext_keeps ht fun c => ?_
  dsimp only
  split
  · exact failed_keeps ht
  · refine .ite (fun _ => failed_keeps ht) fun _ => .ite (fun _ => .none) fun _ => ?_
    split
    · exact .some (terminate_keeps ht)
    · exact (bringBack_keeps (terminate_keeps ht)).map fun _ h => h

end

/-! ## Every step -/

/-- Every instruction and every event keeps memory and the vat canonical. -/
theorem exec_keeps {i : Instr} {s : State} (hs : s.memWf) : GoesOn State.memWf (exec i s) := by
  cases i with
  | uaddBase _ | uaddExt _ | usub _ | umul _ | umulh _ | umin _ | umax _ => exact uBin_keeps hs
  | uset _ => exact execUset_keeps hs
  | usel _ => exact execUsel_keeps hs
  | upopc _ | uclz _ => exact uUn_keeps hs
  | ubfx _ => exact execUbfx_keeps hs
  | ubfi _ => exact execUbfi_keeps hs
  | uandBase _ | uandExt _ | uor _ | uxor _ | ushlBase _ | ushlExt _ | ushr _ | usra _ => exact uBin_keeps hs
  | umovBase _ | umovExt _ => exact uMove_keeps hs
  | uli _ => exact execUli_keeps hs
  | vaddBase _ | vaddExt _ | vsub _ | vmul _ | vmulh _ | vmin _ | vmax _ => exact vBin_keeps hs
  | vabs _ => exact vUn_keeps hs
  | vset _ => exact execVset_keeps hs
  | vsel _ => exact execVsel_keeps hs
  | vpopc _ | vclz _ => exact vUn_keeps hs
  | vbfx _ => exact execVbfx_keeps hs
  | vbfi _ => exact execVbfi_keeps hs
  | vaddc _ => exact execVaddc_keeps hs
  | vidx _ => exact execVidx_keeps hs
  | vmad _ => exact execVmad_keeps hs
  | vdot4 _ => exact execVdot4_keeps hs
  | vandBase _ | vandExt _ | vor _ | vxor _ | vshlBase _ | vshlExt _ | vshr _ | vsra _ => exact vBin_keeps hs
  | vmovBase _ | vmovExt _ => exact vMove_keeps hs
  | faddBase _ | faddExt _ | fsub _ | fmul _ | fmin _ | fmax _ => exact fBin_keeps hs
  | fabs _ => exact execFabs_keeps hs
  | fneg _ => exact execFneg_keeps hs
  | fset _ => exact execFset_keeps hs
  | fclass _ => exact execFclass_keeps hs
  | ffma _ => exact execFfma_keeps hs
  | fcvt _ | icvt _ => exact fConvert_keeps hs
  | bcvt _ => exact execBcvt_keeps hs
  | frnd _ => exact execFrnd_keeps hs
  | frcpBase _ => exact execFrcpBase_keeps hs
  | frcpExt _ => exact execFrcpExt_keeps hs
  | frsq _ => exact execFrsq_keeps hs
  | fsqrt _ => exact execFsqrt_keeps hs
  | fexp2 _ => exact execFexp2_keeps hs
  | flog2 _ => exact execFlog2_keeps hs
  | fsin _ => exact execFsin_keeps hs
  | fcos _ => exact execFcos_keeps hs
  | ftanh _ => exact execFtanh_keeps hs
  | vrng _ => exact execVrng_keeps hs
  | vote _ => exact execVote_keeps hs
  | shfl _ => exact execShfl_keeps hs
  | redux _ => exact execRedux_keeps hs
  | scan _ => exact execScan_keeps hs
  | ffs _ => exact execFfs_keeps hs
  | setpart _ => exact execSetpart_keeps hs
  | lmask _ => exact execLmask_keeps hs
  | bra _ => exact execBra_keeps hs
  | brc _ => exact execBrc_keeps hs
  | ubrc _ => exact execUbrc_keeps hs
  | jmp _ => exact execJmp_keeps hs
  | call _ => exact execCall_keeps hs
  | ret _ => exact execRet_keeps hs
  | becomeBase _ | becomeExt _ => exact becomeBody_keeps hs
  | merge _ => exact execMerge_keeps hs
  | sync _ => exact execSync_keeps hs
  | gsync => exact execGsync_keeps hs
  | yield => exact execYield_keeps hs
  | nopBase => exact execNopBase_keeps hs
  | nopExt => exact execNopExt_keeps hs
  | setfmtBase _ | setfmtExt _ => exact setFmt_keeps hs
  | getfmt _ => exact execGetfmt_keeps hs
  | getsr _ => exact execGetsr_keeps hs
  | setprio _ => exact execSetprio_keeps hs
  | ldBase _ | ldExt _ => exact loadVec_keeps hs
  | ldu _ => exact execLdu_keeps hs
  | stBase _ | stExt _ => exact storeVec_keeps hs
  | stu _ => exact execStu_keeps hs
  | atom _ => exact execAtom_keeps hs
  | atomu _ => exact execAtomu_keeps hs
  | red _ => exact execRed_keeps hs
  | oapp _ => exact execOapp_keeps hs
  | pref _ => exact execPref_keeps hs
  | cflush _ => exact execCflush_keeps hs
  | fence _ => exact execFence_keeps hs
  | ifence => exact execIfence_keeps hs
  | setmod _ => exact execSetmod_keeps hs
  | stmap _ => exact execStmap_keeps hs
  | stunmap _ => exact execStunmap_keeps hs
  | stwb _ => exact execStwb_keeps hs
  | stdrop _ => exact execStdrop_keeps hs
  | swinit _ => exact execSwinit_keeps hs
  | swarrive _ => exact execSwarrive_keeps hs
  | swexpect _ => exact execSwexpect_keeps hs
  | swwait _ => exact execSwwait_keeps hs
  | wait _ => exact execWait_keeps hs
  | ldt _ => exact execLdt_keeps hs
  | stt _ => exact execStt_keeps hs
  | cqcfg _ => exact execCqcfg_keeps hs
  | copy _ => exact execCopy_keeps hs
  | gather _ => exact execGather_keeps hs
  | scatter _ => exact execScatter_keeps hs
  | scatadd _ => exact execScatadd_keeps hs
  | strcfg _ => exact execStrcfg_keeps hs
  | strgo _ => exact execStrgo_keeps hs
  | strhalt _ => exact execStrhalt_keeps hs
  | spbind _ => exact execSpbind_keeps hs
  | slotsig _ => exact execSlotsig_keeps hs
  | coll _ => exact execColl_keeps hs
  | mres _ => exact execMres_keeps hs
  | mrel => exact execMrel_keeps hs
  | mstat _ => exact execMstat_keeps hs
  | mldb _ => exact execMldb_keeps hs
  | mmul _ => exact execMmul_keeps hs
  | mamov _ => exact execMamov_keeps hs
  | mzero _ => exact execMzero_keeps hs
  | mfenceBase | mfenceExt => exact fenceBody_keeps hs
  | mwait _ => exact execMwait_keeps hs
  | prune _ => exact execPrune_keeps hs
  | mldbs _ => exact execMldbs_keeps hs
  | mmuls _ => exact execMmuls_keeps hs
  | mhdr _ => exact execMhdr_keeps hs
  | qpush _ => exact execQpush_keeps hs
  | qpop _ => exact execQpop_keeps hs
  | qtry _ => exact execQtry_keeps hs
  | qlen _ => exact execQlen_keeps hs
  | qstat _ => exact execQstat_keeps hs
  | tspawn _ => exact execTspawn_keeps hs
  | tdone _ => exact execTdone_keeps hs
  | wlpush _ => exact execWlpush_keeps hs
  | wlins _ => exact execWlins_keeps hs
  | wlpop _ => exact execWlpop_keeps hs
  | futset _ => exact execFutset_keeps hs
  | futget _ => exact execFutget_keeps hs
  | bkptBase => exact execBkptBase_keeps hs
  | bkptExt _ => exact execBkptExt_keeps hs
  | trap _ => exact execTrap_keeps hs
  | syscall _ => exact execSyscall_keeps hs
  | eret => exact execEret_keeps hs
  | csrr _ => exact execCsrr_keeps hs
  | csrw _ => exact execCsrw_keeps hs
  | chkmode _ => exact execChkmode_keeps hs
  | rpmark _ => exact execRpmark_keeps hs
  | rpget _ => exact execRpget_keeps hs
  | ckseal _ => exact execCkseal_keeps hs
  | finj _ => exact execFinj_keeps hs
  | walkStart _ => exact execWalkStart_keeps hs
  | walkComplete _ => exact execWalkComplete_keeps hs
  | pageMigration _ => exact execPageMigration_keeps hs
  | loadComplete _ => exact execLoadComplete_keeps hs
  | storePerformed _ => exact execStorePerformed_keeps hs
  | updateOnlyMerge _ => exact execUpdateOnlyMerge_keeps hs
  | redUpdateArrival _ => exact execRedUpdateArrival_keeps hs
  | appendElementWrite _ => exact execAppendElementWrite_keeps hs
  | lineRecall _ => exact execLineRecall_keeps hs
  | engineCommandComplete _ => exact execEngineCommandComplete_keeps hs
  | engineLineWrite _ => exact execEngineLineWrite_keeps hs
  | fillSlotReady _ => exact execFillSlotReady_keeps hs
  | drainSlotReturn _ => exact execDrainSlotReturn_keeps hs
  | streamLastElement _ => exact execStreamLastElement_keeps hs
  | collRendezvous _ => exact execCollRendezvous_keeps hs
  | syncWordArrival _ => exact execSyncWordArrival_keeps hs
  | stashWriteback _ => exact execStashWriteback_keeps hs
  | tileOperationStart _ => exact execTileOperationStart_keeps hs
  | tileOperationComplete _ => exact execTileOperationComplete_keeps hs
  | reservationRelease _ => exact execReservationRelease_keeps hs
  | sharedAgeingServe _ => exact execSharedAgeingServe_keeps hs
  | splitMerge _ => exact execSplitMerge_keeps hs
  | reconvergence _ => exact execReconvergence_keeps hs
  | membershipComplete _ => exact execMembershipComplete_keeps hs
  | deckleBecome _ => exact execDeckleBecome_keeps hs
  | materialisation _ => exact execMaterialisation_keeps hs
  | gsyncComplete _ => exact execGsyncComplete_keeps hs
  | hostPush _ => exact execHostPush_keeps hs
  | successorPush _ => exact execSuccessorPush_keeps hs
  | taskDispatch _ => exact execTaskDispatch_keeps hs
  | effectiveLevelRaise _ => exact execEffectiveLevelRaise_keeps hs
  | queueHolding _ => exact execQueueHolding_keeps hs
  | gangMigration _ => exact execGangMigration_keeps hs
  | forwardingExpire _ => exact execForwardingExpire_keeps hs
  | forwardedMessage _ => exact execForwardedMessage_keeps hs
  | splitBoost _ => exact execSplitBoost_keeps hs
  | pressWake _ => exact execPressWake_keeps hs
  | skidEnd _ => exact execSkidEnd_keeps hs
  | handlerDelivery _ => exact execHandlerDelivery_keeps hs
  | ezdenTrap _ => exact execEzdenTrap_keeps hs
  | syscallComplete _ => exact execSyscallComplete_keeps hs
  | syscallTimeout _ => exact execSyscallTimeout_keeps hs
  | preemption _ => exact execPreemption_keeps hs
  | preemptionComplete _ => exact execPreemptionComplete_keeps hs
  | contextSwitch _ => exact execContextSwitch_keeps hs
  | contextRestore _ => exact execContextRestore_keeps hs
  | gangExit _ => exact execGangExit_keeps hs
  | gangKill _ => exact execGangKill_keeps hs
  | uncorrectableError _ => exact execUncorrectableError_keeps hs
  | correctableError _ => exact execCorrectableError_keeps hs
  | replayQueueExecution _ => exact execReplayQueueExecution_keeps hs
  | signatureMatch _ => exact execSignatureMatch_keeps hs
  | pairRollback _ => exact execPairRollback_keeps hs
  | pairRestore _ => exact execPairRestore_keeps hs
  | injectionFire _ => exact execInjectionFire_keeps hs
  | peerChipLoss _ => exact execPeerChipLoss_keeps hs
  | halufRetransmit _ => exact execHalufRetransmit_keeps hs
  | durableAcknowledge _ => exact execDurableAcknowledge_keeps hs
  | checkpointSeal _ => exact execCheckpointSeal_keeps hs
  | sealCommit _ => exact execSealCommit_keeps hs
  | dieReset _ => exact execDieReset_keeps hs
  | chipReset => exact execChipReset_keeps hs
  | perstDeassert _ => exact execPerstDeassert_keeps hs
  | bootReady => exact execBootReady_keeps hs
  | bootTimeout _ => exact execBootTimeout_keeps hs
  | functionLevelReset _ => exact execFunctionLevelReset_keeps hs
  | hostBar2Read _ => exact execHostBar2Read_keeps hs
  | hostBar2Write _ => exact execHostBar2Write_keeps hs
  | bar0OtherWrite e => exact execBar0OtherWrite_keeps (e := e) hs
  | invalidCommandRecord _ => exact execInvalidCommandRecord_keeps hs
  | negotiateFeatures _ => exact execNegotiateFeatures_keeps hs
  | createContext _ => exact execCreateContext_keeps hs
  | destroyContext _ => exact execDestroyContext_keeps hs
  | map _ => exact execMap_keeps hs
  | unmap _ => exact execUnmap_keeps hs
  | loadCode _ => exact execLoadCode_keeps hs
  | createQueueObject _ => exact execCreateQueueObject_keeps hs
  | destroyQueueObject _ => exact execDestroyQueueObject_keeps hs
  | readEnumerationTable _ => exact execReadEnumerationTable_keeps hs
  | readCounters _ => exact execReadCounters_keeps hs
  | setPowerCap _ => exact execSetPowerCap_keeps hs
  | setAgeingBlock _ => exact execSetAgeingBlock_keeps hs
  | configureParityGroup _ => exact execConfigureParityGroup_keeps hs
  | restore _ => exact execRestore_keeps hs
  | attest _ => exact execAttest_keeps hs
  | bindWindow _ => exact execBindWindow_keeps hs
  | notAnInstruction => exact execNotAnInstruction_keeps hs
  | pressModeSwitch _ => exact execPressModeSwitch_keeps hs

/-- The state that goes with the row that is due. -/
def dueState : Due → State
  | .run _ s => s
  | .idle s => s

/-- What is due starts from a canonical state. -/
theorem due_keeps {s : State} (hs : s.memWf) : (dueState s.due).memWf := by
  have h0 : ∀ rest, State.memWf { s with agenda := rest, order := s.order + 1 } := fun _ => hs
  obtain ⟨turn, rest, hturn⟩ : ∃ turn rest, s.nextTurn = (turn, rest) := ⟨_, _, rfl⟩
  rw [Sys2Proof.Proofs.Start.due_of_turn hturn]
  cases turn with
  | issue f =>
    dsimp only
    split
    · split
      · exact h0 _
      · exact pick_keeps (h0 _)
    · exact h0 _
  | event i =>
    dsimp only
    split
    · exact h0 _
    · exact h0 _
  | tick n => exact retry_keeps (tick_keeps (h0 _))

/-- Settles O60: every instruction and every event is made of operations that keep memory and the vat in canonical form. -/
theorem stepKeepsMemory : Obligations.StepKeepsMemory := by
  intro s t hs ht
  have h := due_keeps hs
  unfold step at ht
  split at ht
  next i s' hdue =>
    rw [hdue] at h
    exact exec_keeps h t ht
  next s' hdue =>
    rw [hdue] at h
    cases ht
    exact h

end Sys2Proof.Proofs.Canonical
end
